-- ==== Sys2Proof/Word.lean ====
section
/-!
DEFINITION. The word types of the KH96 and their plainest arithmetic (spec/00_scope.md R10, R11).
-/
namespace Sys2Proof

/-- One byte. -/
abbrev Byte := BitVec 8

/-- A register or descriptor word. -/
abbrev Word := BitVec 32

/-- A 64-bit event word or data word. -/
abbrev Quad := BitVec 64

end Sys2Proof
end

