-- ==== Sys2Proof/Syntax.lean ====
section
/-!
DEFINITION. The commands of the block and what they carry. One constructor of `Instr` for each row of the opcode table; every
operand stands for what the outside world does or what a unit's data path answers.

Operands by name: `w` the accessor of a register access, `a` a BAR0 address, `pg` a page's base address, `v` the word written (in
the commands of chapter 17 the hold-up voltage in mV), `now` the FT of the event in ns, `c q` a context and the number of its
command, `p` a port, `b` a bar or an I3C bus, `t k` a tile and its slot, `n` a unit's number, `f` a function, `h` a job's handle,
`vs` hold-up voltages of successive stores in mV, `ok` whether an outside access succeeds.
-/
namespace Sys2Proof
/-- The class of a port (spec/02_register_pages.md, the table before R60). -/
inductive PortClass
  | owner | operator | tenant | service | fabric | debug
  deriving DecidableEq, Repr

/-- Who makes an access: the class of the port it arrives on and the function, coded as in R57 (0xFF: a path other
than PCI Express). -/
structure Who where
  cls : PortClass
  fn : Nat
  deriving DecidableEq, Repr

/-! ## What a tile command carries -/

/-- A vector unit command (spec/09_tensor_tiles.md R302 to R304). The spec prints no layout for it; the record names
what the operations of those rules take: the operation, the formats of up to three operands and of the output, their base
offsets in tile SRAM, the channels and the elements of a channel, and constants (log entry 20). -/
structure VecCmd where
  op : Nat
  aFmt : Nat
  bFmt : Nat
  cFmt : Nat
  oFmt : Nat
  a : Nat
  b : Nat
  c : Nat
  o : Nat
  chans : Nat
  plane : Nat
  k0 : Nat
  k1 : Nat
  k2 : Nat
  deriving DecidableEq, Repr

/-- An end of a stash transfer (R311): LPDDR5X, or the SRAM of tiles and clusters at its BAR4 place (R73). -/
inductive StashEnd
  | mem (a : Nat)
  | tile (t off : Nat)
  | cluster (c off : Nat)
  deriving DecidableEq, Repr

/-- The header of a halo slot that a halo copy writes last (spec/10_convolution.md R346, R347): its offset in the memory of the
destination, SEQ, FIRST and LINES. -/
structure HaloHdr where
  at_ : Nat
  seq : Nat
  first : Nat
  lines : Nat
  deriving DecidableEq, Repr

/-- A stash transfer (R311, R312); a halo copy carries the header of its slot. -/
structure StashXfer where
  src : StashEnd
  dst : StashEnd
  rows : Nat
  rowBytes : Nat
  srcPitch : Nat
  dstPitch : Nat
  hdr : Option HaloHdr := none
  deriving DecidableEq, Repr

/-- The work of a tile command: a window command by its 32 words (spec/10_convolution.md R328, R329), a vector command,
or a stash transfer. -/
inductive TileWork
  | window (ws : List Nat)
  | vector (v : VecCmd)
  | stash (x : StashXfer)
  deriving DecidableEq, Repr

/-- A tile command as the cluster controller queues it (R286, R287): its work, its waits (anchor, target), its signal
(anchor, increment), its budget, its binder number, the job it belongs to and the surface window it belongs to. For a
window command the waits, the signal, the budget and the number are those of its words. -/
structure TileCmd where
  work : TileWork
  waits : List (Nat × Nat)
  sig : Option (Nat × Nat)
  budget : Nat
  seq : Nat
  job : Nat
  window : Nat
  deriving DecidableEq, Repr

/-- A command that is accepted and unfinished: of a context, by its SEQ; or of queue q of a tile (0 tensor, 1 vector, 2
stash), by its binder number. -/
inductive CmdRef
  | host (c q : Nat)
  | tile (t q n : Nat)
  deriving DecidableEq, Repr

/-! ## What the binder decides -/

/-- The placement that the binder makes of a package (spec/13_ronrix_binding.md R413 steps 3 to 8). The package's
section layouts and the binder's choices are not in the spec (R414: they change timing only), so the BIND command
carries them (log entry 21): `status` is 0 or the status at which steps 1 to 6 stop for what only the sections say. -/
structure BindPlan where
  status : Nat
  tiles : List Nat
  cores : List Nat
  anchors : List Nat
  /-- region entries, with their four words -/
  rgn : List (Nat × List Nat)
  /-- surface slots (tile, slot), with the four words of their descriptor -/
  slots : List (Nat × Nat × List Nat)
  /-- bytes written into the tables of BAR4 and into SRAM, by place -/
  tabs : List (Nat × List Byte)
  sram : List (Nat × List Byte)
  /-- registers of the bound units that the binder programs -/
  regs : List (Nat × Nat)
  /-- pair number, its threshold, and X_p for SUMMIT, RIDGE, VALLEY and BELAY, then QDEPTH -/
  pairs : List (Nat × Nat × List Nat)
  /-- typical and bound of the crux for SUMMIT, RIDGE, VALLEY and BELAY -/
  crux : List Nat
  path : List Nat
  /-- the verdict deadline that TIMING declares, in ns -/
  deadline : Nat
  /-- bytes staged into LPDDR5X, by place: the weights (R413, R425) -/
  stage : List (Nat × List Byte) := []
  deriving DecidableEq, Repr

/-! ## The recovery ladder -/

/-- What the dump agent meets (spec/16_hang_recovery.md R516): the registers (BAR0 addresses) that go unanswered for 10 µs, the
ranges of the slot (offset, bytes) that were not read when DUMP_MAX_MS passed, and the FT of the first read. -/
structure DumpIn where
  silent : List Nat
  unread : List (Nat × Nat)
  from_ : Nat
  deriving DecidableEq, Repr

/-- A moment of a recovery step (spec/16_hang_recovery.md R500, R506): it starts; its dump is complete and its reset begins;
its reset ends within the bound; its replay ends, with the place in the list of suspects of the first command that outlasts its budget
(none: none does) and whether the reset that follows ends within its bound; for E1, a COPY or FILL of the context stops after a
number of 64-byte lines, with the bytes that a COPY has read from host memory; an answer of a unit to a read of the dump agent that
had timed out comes late; for E5, PWRCYC_REQ_N falls, with the hold-up voltage in mV. -/
inductive StepIn
  | start
  | dumped (d : DumpIn)
  | finish
  | replayed (hung : Option Nat) (again : Bool)
  | copied (q lines : Nat) (data : List Byte)
  | answer (unit : Nat)
  | cycle (v : Nat)
  deriving DecidableEq, Repr

/-! ## Frames of the Ridge links -/

/-- A frame (spec/15_rope_fabric.md R467): `codes` are the port codes of a source route, next hop first; `bad` is 0, or 1 where
its CRC fails and 2 where it ends in a STOMP mark (R469). -/
structure Frame where
  typ : Nat
  vc : Nat
  sr : Bool
  clsB : Bool
  dst : Nat
  src : Nat
  ttl : Nat
  sgen : Nat
  seq : Nat
  codes : List Nat
  payload : List Byte
  bad : Nat
  deriving DecidableEq, Repr

/-- Where a frame that the switch routes comes from: this device itself, or a port that it arrives on (R473). -/
inductive FrameIn
  | own
  | arrive (p : Nat) (f : Frame)
  deriving DecidableEq, Repr

/-- Why a port falls back to DETECT (R463): a used lane lost signal for 1 µs, codeword lock was lost, no CONTROL flit came for
2 µs, or more than RETRAIN_N replays occurred within 1 ms. -/
inductive LinkLoss
  | signal | lock | control | replays
  deriving DecidableEq, Repr

/-- Where a PTP message comes from (spec/04_time_bases.md R139): the master's identity and port number, the Ethernet port that
hears it, its domain and its transport, coded as TIME_PT_CFG.TRANSPORT. -/
structure PtpFrom where
  master : Nat
  mport : Nat
  eth : Nat
  dom : Nat
  transport : Nat
  deriving DecidableEq, Repr

/-- A delay or peer-delay message of a PTP instance (spec/04_time_bases.md R139), with the MACs' stamps in ns: a request sent; the answer to
a Delay_Req with the master's receipt; a Pdelay_Resp and its follow-up with the peer's receipt and sending, and the stamp here; a
peer's Pdelay_Req and the answer sent to it. `corr` is the sum of the correction fields in ns. -/
inductive PtpExchange
  | request (tx : Nat)
  | delayResp (t4 : Nat) (corr : Int)
  | pdelayResp (t2 t3 rx : Nat) (corr : Int)
  | pdelayReq (rx tx : Nat)
  deriving DecidableEq, Repr

/-! ## What a stream port and an I3C bus receive -/

/-- A CSI-2 long packet as it ends (spec/03_stream_ports.md R80, R81): virtual channel, data type, bits wrong in the header
(0, 1, 2 for more), whether its CRC matches, its payload. -/
structure Packet where
  vc : Nat
  dt : Nat
  hdrErr : Nat
  crcOk : Bool
  payload : List Byte
  deriving DecidableEq, Repr

/-- What the data lanes of a port show: the start of a long packet (SoT) at its arrival stamp, with the virtual channel, the data
type and the length in bytes that its header gives; its end; and a data lane that goes into HS, or the last one that leaves it,
without one (a short packet, a calibration). -/
inductive PacketEvent
  | start (arr vc dt len : Nat)
  | lane (now : Nat) (hs : Bool)
  | finish (now : Nat) (x : Packet)
  deriving DecidableEq, Repr

/-- How a host transfer on an I3C bus ends (R116). -/
inductive XferEnd
  | ok (data : List Byte)
  | nack
  | aborted
  | busErr
  deriving DecidableEq, Repr

/-! ## What the graph's stages report to the output block -/

/-- An inspection tile (spec/12_verdicts_corrections.md R383, R387): bar, sheet (none where no sheet division applies), tile row
and tile column. -/
structure TileRef where
  bar : Nat
  sheet : Option Int
  trow : Nat
  tcol : Nat
  deriving DecidableEq, Repr

/-- A verdict value (R387): class, severity, and confidence as an FP32 pattern. -/
structure TileVal where
  cls : Nat
  sev : Nat
  conf : Nat
  deriving DecidableEq, Repr

/-- A correction value (R394): offsets, skew, and the density zones. -/
structure CorrVal where
  dx : Int
  dy : Int
  skew : Int
  zones : List Nat
  deriving DecidableEq, Repr

/-! ## Microinstructions of the neuron cores -/

/-- The fields of a microinstruction beside OP (spec/08_neuron_cores.md R264): D, A, B, the constant index K, X, the condition
C[10:8] and IMM. -/
structure UopF where
  d : Nat
  a : Nat
  b : Nat
  k : Nat
  x : Bool
  c : Nat
  imm : Nat
  deriving DecidableEq, Repr

/-! ## The commands -/

inductive Instr
  /-- REGISTER_WRITE (R63). A write to a register field that has no row of its own is checked in order and then
  performed or dropped with the first failing error. -/
  | registerWrite (w : Who) (size : Nat) (a : Nat) (v : Nat)
  /-- UNMAPPED_ACCESS (R44). An access to an unassigned page reads 0, is dropped and counts in GLB_UNMAPPED_CNT. -/
  | unmappedAccess (w : Who) (isWr : Bool) (a : Nat)
  /-- ERR_TIMEOUT (R66). A unit that does not answer a register access within 2 µs has the access ended with 0 or
  dropped, and ERR_TIMEOUT recorded. -/
  | errTimeout (w : Who) (isWr : Bool) (a : Nat)
  /-- COUNTER_READ_CLEAR (R627). A read of an RC field returns and clears it, and re-arms the pulse interrupt tied to
  that counter. -/
  | counterReadClear (w : Who) (size : Nat) (a : Nat)
  /-- LATCHING_READ (R160). A read of the low half of a 64-bit value latches its high half into the partner register. -/
  | latchingRead (w : Who) (size : Nat) (a : Nat)
  /-- IRQ_STAT_CLEAR (R54). A write of 1s to PAGE_IRQ_STAT clears those status bits unless a source sets them in the
  same cycle. -/
  | irqStatClear (w : Who) (pg : Nat) (v : Word)
  /-- ERR_CLR (R50). A write of PAGE_CTRL.ERR_CLR clears PAGE_ERR_CODE and PAGE_ERR_INFO. -/
  | errClr (w : Who) (pg : Nat) (en : Bool)
  /-- LOCK (R50). A write of PAGE_CTRL.LOCK locks every RWL field of the page until power-on reset. -/
  | lock (w : Who) (pg : Nat) (en : Bool)
  /-- SRST (R68). A write of PAGE_CTRL.SRST soft-resets the page's unit, returning fields to reset values and
  advancing GEN, unless refused as bound. -/
  | srst (w : Who) (pg : Nat) (en : Bool)
  /-- PAGE_ENABLE (R64). A write of EN = 1 enables a disabled unit, or cancels a pending disable without further
  effect. -/
  | pageEnable (w : Who) (pg : Nat)
  /-- PAGE_DISABLE (R50). A write of EN = 0 disables the unit at once or marks the disable pending while BUSY = 1. -/
  | pageDisable (w : Who) (pg : Nat)
  /-- DISABLE_ON_IDLE (R50). A pending disable takes effect when the unit's BUSY falls. -/
  | disableOnIdle (pg : Nat)
  /-- BAR4_WRITE (R75). A write through BAR4 reaches its region, or is dropped and recorded where the region is bound,
  active or read-only. -/
  | bar4Write (w : Who) (off : Nat) (bs : List Byte)
  /-- BAR4_READ (R76). A read through BAR4 returns live contents, completing poisoned on an uncorrectable LPDDR5X
  error. -/
  | bar4Read (w : Who) (off : Nat) (n : Nat)
  /-- GO_RD (R632). A write of GLB_IW_CTRL.GO_RD starts an 8-byte read through the indirect window into DATA. -/
  | goRd (w : Who) (inc : Bool)
  /-- GO_WR (R632). A write of GLB_IW_CTRL.GO_WR starts an 8-byte write of DATA through the indirect window. -/
  | goWr (w : Who) (inc : Bool)
  /-- IW_OPERATION_DONE (R632). An indirect-window operation ends in success or one of its failure outcomes, clearing
  BUSY and advancing the address on success with INC. -/
  | iwOperationDone (w : Who)
  /-- MODE_REQ (R34). A write of GLB_MODE_REQ starts, replaces or cancels a mode request, with the first BIVOUAC or
  BELAY check. -/
  | modeReq (w : Who) (v : Word)
  /-- MODE_CHANGE_CAIRN (R29). At the first moment every running neuron core is at a step boundary, the device
  re-checks the pending mode and inserts a mode cairn that applies it. -/
  | modeChangeCairn (now : Nat)
  /-- CORE_CLOCK_PAUSE_END (R30). The pause of neuron cores and tensor engines for a core clock change ends and
  compute resumes. -/
  | coreClockPauseEnd (now : Nat)
  /-- CLUSTER_POWER_UP (R590). On leaving BIVOUAC or at boot, the next cluster in sequence powers up 25 µs after the
  one before. -/
  | clusterPowerUp (now : Nat) (vs : List Nat)
  /-- SUMMIT_LIMIT_EVAL (R608). Each 1 ms evaluation compares junction temperature and package power with the SUMMIT
  limits and leaves SUMMIT when one is reached. -/
  | summitLimitEval (now : Nat) (rails : Nat)
  /-- BELAY_THERMAL_LIMIT (R33). At the BELAY thermal limit the device ends every BELAY job with ERR_BELAY_THERMAL and
  enters RIDGE at a mode cairn. -/
  | belayThermalLimit (now : Nat) (temps : List Nat)
  /-- PERIODIC_CAIRN (R155). When PERIOD × 16 ns of FT have passed since the last device-wide cairn, a periodic cairn
  is inserted. -/
  | periodicCairn (now : Nat)
  /-- PACKET_RECEIVE (R81). A CSI-2 long packet is received, checked for ECC, CRC, length, channel and type, and its
  words enter the ingest path. -/
  | packetReceive (p : Nat) (e : PacketEvent)
  /-- SPILL_REFILL (R104). When a port's buffer fill falls to LO, it is refilled from the head of its spill. -/
  | spillRefill (p : Nat)
  /-- PAD (R95). A PAD word is decoded and yields nothing. -/
  | pad (p : Nat)
  /-- TIME_BASE (R100). A TIME_BASE word sets the sensor time unless backward, feeds the servo a pair and passes a
  progress mark. -/
  | timeBase (p : Nat)
  /-- TIME_DELTA (R97). A TIME_DELTA word advances a valid sensor time and feeds the servo a pair. -/
  | timeDelta (p : Nat)
  /-- ROW (R97). A ROW word sets the port's row and polarity state. -/
  | row (p : Nat)
  /-- RUN (R98). A RUN word yields LEN events in ascending x, each range-checked and stamped by the servo. -/
  | run (p : Nat)
  /-- MASK (R98). A MASK word yields an event for each set bit, each range-checked and stamped. -/
  | mask (p : Nat)
  /-- TRIGGER (R101). A TRIGGER word is taken at the current sensor time and passed to fusion as a mark input. -/
  | trigger (p : Nat)
  /-- SENSOR_STATUS (R102). A SENSOR_STATUS word is kept and acted on by its code, including TIME_RESTART and
  SHUTDOWN. -/
  | sensorStatus (p : Nat)
  /-- EXTENDED (R103). An EXTENDED word and the COUNT words after it are skipped and counted. -/
  | extended (p : Nat)
  /-- VES_REJECT (R96). A VES word with a reserved opcode, reserved bit or invalid field is rejected, counted and
  kept. -/
  | vesReject (p : Nat)
  /-- TIME_HIGH (R122). A TK-3 TIME_HIGH word sets the high part of legacy sensor time and may end arrival stamping. -/
  | timeHigh (p : Nat)
  /-- TK_EVENT (R121). A TK-3 EVENT word yields one legacy event stamped by sensor or arrival time. -/
  | tkEvent (p : Nat)
  /-- DAA_ROUND (R84). At power-on and BIVOUAC exit, the ingest helper issues RSTDAA and ENTDAA on every bus and
  assigns dynamic addresses. -/
  | daaRound (b : Nat) (n : Nat)
  /-- HOT_JOIN (R629). A Hot-Join request is answered by address assignment, or NACKed when no address is free or
  HJ_EN is 0. -/
  | hotJoin (b : Nat)
  /-- DESCRIPTOR_READ (R90). A completed read of a target's VES descriptor is validated and moves the slot's port to
  DISCOVERED or FAULT. -/
  | descriptorRead (b : Nat) (addr : Nat) (d : Option (List Byte))
  /-- GETSTATUS_POLL (R88). Every POLL_MS the helper polls a slot's target, treating it as gone after 3 consecutive
  NACKs. -/
  | getstatusPoll (b : Nat) (k : Nat) (ack : Bool) (now : Nat)
  /-- NO_STREAM (R90). A port 50 ms in WAITING without an accepted packet goes to FAULT. -/
  | noStream (p : Nat) (now : Nat)
  /-- LINK_TIMEOUT (R90). A STREAMING port with no accepted packet for LOSS_TMO goes to LOST. -/
  | linkTimeout (p : Nat) (now : Nat)
  /-- HJ_EN_WRITE (R629). A write of I3C_CFG.HJ_EN sends DISEC when cleared, or ENEC and ENTDAA when set. -/
  | hjEnWrite (w : Who) (b : Nat) (n : Nat) (v : Word)
  /-- I3C_XFER_GO (R116). A write of I3C_XFER_CTRL.GO starts a host transfer to a slot's target. -/
  | i3cXferGo (w : Who) (b : Nat) (v : Word)
  /-- I3C_XFER_DONE (R116). A host I3C transfer completes with its status and pulses DONE. -/
  | i3cXferDone (b : Nat) (x : XferEnd)
  /-- LEGACY_WRITE (R120). A write of PORT_CFG.LEGACY switches a port into or out of TK-3 legacy mode. -/
  | legacyWrite (w : Who) (p : Nat) (v : Word)
  /-- PORT_LEG_RES_WRITE (R119). A write of a valid PORT_LEG_RES makes an empty legacy port DECLARED. -/
  | portLegResWrite (w : Who) (p : Nat) (v : Word)
  /-- TK_OFFSET_HI_WRITE (R127). A write of TK_OFFSET_HI commits the 32-bit legacy arrival offset. -/
  | tkOffsetHiWrite (w : Who) (p : Nat) (v : Word)
  /-- LEGACY_WINDOW_ACCESS (R43). An access to the TK-3 legacy window is served if 16-bit and legacy, else dropped
  with its error. -/
  | legacyWindowAccess (w : Who) (isWr : Bool) (size : Nat) (off : Nat) (v : Word)
  /-- PTP_SYNC (R133). A Sync from a PTP master is stamped, qualifies the source, and in LOCKED feeds the discipline
  loop and a new segment. -/
  | ptpSync (n : Nat) (m : PtpFrom) (origin : Nat) (corr : Int) (rx : Nat)
  /-- PTP_ANNOUNCE (R134). An Announce refreshes its domain's receipt timer, and a change of master identity loses the
  source. -/
  | ptpAnnounce (n : Nat) (m : PtpFrom) (rank : Nat) (interval : Nat) (now : Nat)
  /-- ANNOUNCE_RECEIPT_TIMEOUT (R134). Expiry of a PTP domain's announce receipt timeout loses the source and enters
  HOLDOVER. -/
  | announceTimeout (n : Nat) (now : Nat)
  /-- PTP_MESSAGE_EXCHANGE (R139). The time helper sends and answers delay and peer-delay messages of each PTP one. -/
  | ptpExchange (n : Nat) (x : PtpExchange)
  /-- PPS_IN_EDGE (R142). A rising PPS_IN edge is captured and, if spaced 1 s, qualifies or steers FT, else counted as
  bad. -/
  | ppsInEdge (t : Nat) (high : Nat)
  /-- PPS_LOSS (R134). No PPS_IN edge within 1.5 s of the last loses the 1PPS source. -/
  | ppsLoss (now : Nat)
  /-- PPS_OUT_RISE (R144). PPS_OUT rises when the selected scale reaches a whole second plus OFFSET_NS. -/
  | ppsOutRise (now : Nat)
  /-- PPS_OUT_FALL (R144). PPS_OUT falls WIDTH_MS after its rise. -/
  | ppsOutFall (now : Nat)
  /-- REF_LOST (R138). Loss of the 25 MHz reference moves CD_TIME onto the backup oscillator and clears REF_OK. -/
  | refLost
  /-- REF_BACK (R138). After 10 ms of a returned reference, CD_TIME moves back to it without a phase step. -/
  | refBack
  /-- TIME_CTRL_WRITE (R159). A write of TIME_CTRL takes its fields, and a change of SRC to an enabled source enters
  ACQUIRE. -/
  | timeCtrlWrite (w : Who) (v : Word)
  /-- CONVERSION_GO (R163). A write of TIME_CONV_CTRL.GO starts a time conversion between scales. -/
  | conversionGo (w : Who) (v : Word)
  /-- CONVERSION_DONE (R154). A time conversion completes with its result and status. -/
  | conversionDone (w : Who)
  /-- ENCODER_EDGE (R165). A filtered A or B edge counts the position up or down and sends a capture entry to CD_TIME. -/
  | encoderEdge (e : Nat) (t : Nat) (smp : List (Bool × Bool)) (full : Bool)
  /-- ENCODER_INDEX (R167). A rising filtered Z is accepted as an index, passed to MP, optionally resets the position
  and checks the count. -/
  | encoderIndex (e : Nat) (t : Nat) (smp : List (Bool × Bool × Bool)) (full : Bool)
  /-- IMU_DRDY (R173). A rising DRDY edge triggers an inertial transaction, or is counted as overrun. -/
  | imuDrdy (p : Nat) (t : Nat) (smp : List Bool) (full : Bool)
  /-- IMU_TIMER_TRIGGER (R173). At each FT multiple of PERIOD_NS a timer-triggered port starts a transaction, or
  counts an overrun. -/
  | imuTimerTrigger (p : Nat) (now : Nat)
  /-- IMU_TRANSACTION_DONE (R172). An inertial transaction ends and delivers its sample, or is dropped on NACK,
  entering LOST after 3. -/
  | imuTransactionDone (p : Nat) (d : Option (List Byte)) (now : Nat)
  /-- CHAIN_INPUT (R176). A decimation chain takes one input sample through its stages and may emit an output to
  fusion. -/
  | chainInput (c : Nat) (full : Bool)
  /-- NO_INPUT (R179). A chain without input for 4 × T_in flushes its stages and enters NO_INPUT. -/
  | noInput (c : Nat) (now : Nat)
  /-- FUSION_ISSUE (R190). At t_k plus ISSUE_DLY, or later in BELAY once samples are visible, each bar's instant is
  voted, integrated and issued. -/
  | fusionIssue (k : Nat) (now : Nat)
  /-- BELAY_WAIT (R192). A BELAY issue hold that lasts BELAY_WAIT_US ends the bar's BELAY jobs and issues with the
  samples at hand. -/
  | belayWait (b : Nat) (now : Nat)
  /-- LATE_SAMPLE (R202). A sample visible after its instant was issued is used within the horizon with an amendment
  check, or discarded. -/
  | lateSample (b : Nat) (n : Nat) (now : Nat)
  /-- EVENT_RELEASE (R194). Once results k and k+1 are issued, registration releases a port's event, placing it
  through its grid and pose into an event word. -/
  | eventRelease (p : Nat)
  /-- PORT_WATERMARK (R226). Registration sends a port's WATERMARK for t_(k+1) once result k+1 is issued and the
  port's stream has reached it. -/
  | portWatermark (p : Nat)
  /-- FUS_GRID_COMMIT (R209). A write of FUS_GRID_CTRL.COMMIT checks owner and fold, and swaps in the staging bank at
  a registration cairn or at once. -/
  | gridCommit (w : Who) (p : Nat) (v : Word)
  /-- GRID_PEND_CLEAR (R210). Once a port has released every event stamped before its registration cairn, PEND clears
  and the old bank becomes staging. -/
  | gridPendClear (p : Nat)
  /-- REFINEMENT_CYCLE (R212). At each REF_PERIOD_MS the solver fits per-port corrections and applies, holds or skips
  them. -/
  | refinementCycle (now : Nat) (ovl : List (Nat × Int × Int × Bool))
  /-- MARK_MEASUREMENT (R213). A mark measurement from a MARK stage is taken into the open refinement cycle or
  rejected. -/
  | markMeasurement (p : Nat) (u : Nat) (v : Nat) (x : Int) (y : Int) (tainted : Bool)
  /-- BAR_ENABLE (R217). A write of FUS_BAR_CFG.EN = 1 is checked and enables the bar with zeroed state. -/
  | barEnable (w : Who) (b : Nat) (v : Word)
  /-- BAR_DISABLE (R217). A write of FUS_BAR_CFG.EN = 0 stops the bar's results and discards its waiting events. -/
  | barDisable (w : Who) (b : Nat) (v : Word)
  /-- SPIKE_FANOUT (R239). The fan-out unit reads a SPIKE's entry and sends a message per record and any spike-map
  copy. -/
  | spikeFanout (c : Nat)
  /-- SB_WORD_APPLY (R241). A surface builder places an event or spike word into its slot's cell, or counts and
  discards it. -/
  | sbWordApply (t : Nat) (k : Nat)
  /-- SB_WINDOW_CLOSE (R242). When every known source's watermark reaches a window's end, the builder finishes it and
  signals its anchor. -/
  | sbWindowClose (t : Nat) (k : Nat) (now : Nat)
  /-- SB_CLOSE_TIMEOUT (R244). Outside BELAY a window closes when FT passes its end by SB_CLOSE_TMO_US. -/
  | sbCloseTimeout (t : Nat) (k : Nat) (now : Nat)
  /-- SB_BANK_PREPARE (R243). Once the release anchor allows, the builder clears or copies the next window's bank. -/
  | sbBankPrepare (t : Nat) (k : Nat) (now : Nat)
  /-- SB_STALL (R249). A bank wait exceeding 100 µs pulses STALL. -/
  | sbStall (t : Nat) (k : Nat) (now : Nat)
  /-- SB_SLOT_ENABLE (R249). A write of SB_SLOT_CFG.EN = 1 zeroes the window count and starts the slot at the next
  cairn. -/
  | sbSlotEnable (w : Who) (t : Nat) (k : Nat) (v : Word)
  /-- FAB_RGN_WR (R247). A write of FAB_RGN_CTRL.WR stores DATA0–3 into the selected region entry, or drops it. -/
  | fabRgnWr (w : Who) (v : Word)
  /-- FAB_RGN_RD (R247). A write of FAB_RGN_CTRL.RD loads the selected region entry into DATA0–3. -/
  | fabRgnRd (w : Who) (v : Word)
  /-- NC_WORD_APPLY (R256). A neuron core takes a word from its input FIFO and applies its synapse row, holds it, or
  discards it late. -/
  | ncWordApply (n : Nat)
  /-- NC_STEP_CLOSE (R260). When a step is complete the core applies traces, runs every active slot's program and
  emits spikes and a WATERMARK. -/
  | ncStepClose (n : Nat) (now : Nat)
  /-- NC_DUE_TIME (R275). At an incomplete step's due time the core stretches it or closes it, dropping on backlog. -/
  | ncDueTime (n : Nat) (now : Nat)
  /-- UOP_NOP (R265). Microinstruction NOP has no effect. -/
  | uopNop (n : Nat) (f : UopF)
  /-- ADD (R265). Microinstruction ADD sets D to A plus B or a constant. -/
  | add (n : Nat) (f : UopF)
  /-- SUB (R265). Microinstruction SUB sets D to A minus B or a constant. -/
  | sub (n : Nat) (f : UopF)
  /-- MULC (R265). Microinstruction MULC sets D to A times a constant, shifted with rounding. -/
  | mulc (n : Nat) (f : UopF)
  /-- MAC (R265). Microinstruction MAC adds A times a constant, shifted with rounding, to D. -/
  | mac (n : Nat) (f : UopF)
  /-- SHR (R265). Microinstruction SHR shifts A right with rounding into D. -/
  | shr (n : Nat) (f : UopF)
  /-- CLAMP (R265). Microinstruction CLAMP bounds A between two constants into D. -/
  | clamp (n : Nat) (f : UopF)
  /-- DECAY (R271). Microinstruction DECAY multiplies A by a LUT entry m times into D. -/
  | decay (n : Nat) (f : UopF)
  /-- CMPTH (R269). Microinstruction CMPTH tests A against a threshold and sets F, M and θ. -/
  | cmpth (n : Nat) (f : UopF)
  /-- UOP_RESET (R270). Microinstruction RESET resets D per RESID when the slot fired. -/
  | uopReset (n : Nat) (f : UopF)
  /-- REFRAC (R265). Microinstruction REFRAC counts down or loads the refractory count. -/
  | refrac (n : Nat) (f : UopF)
  /-- SELECT (R265). Microinstruction SELECT sets D to A or B by a condition. -/
  | select (n : Nat) (f : UopF)
  /-- SKIP (R265). Microinstruction SKIP skips the next IMM microinstructions when its condition holds. -/
  | skip (n : Nat) (f : UopF)
  /-- TILE_CMD_START (R287). A tile command at a queue head starts once every named anchor has reached its target. -/
  | tileCmdStart (t : Nat) (q : Nat) (feed : Option TileCmd) (layer : Bool) (now : Nat)
  /-- TILE_CMD_COMPLETE (R287). A tile command completes, signalling its anchor or setting FAULT on failure. -/
  | tileCmdComplete (t : Nat) (q : Nat) (late : Bool) (now : Nat)
  /-- CONV (R336). A CONV window command is checked and runs its waves in the fixed order into outputs or partial
  sums. -/
  | conv (t : Nat) (lo : Nat) (hi : Nat)
  /-- POOL_MAX (R339). A POOL_MAX window command gives the maximum of each window. -/
  | poolMax (t : Nat) (lo : Nat) (hi : Nat)
  /-- POOL_AVG (R339). A POOL_AVG window command gives the average of each window. -/
  | poolAvg (t : Nat) (lo : Nat) (hi : Nat)
  /-- UP_NEAREST (R340). An UP_NEAREST window command up-samples by nearest neighbour. -/
  | upNearest (t : Nat) (lo : Nat) (hi : Nat)
  /-- UP_BILINEAR (R340). An UP_BILINEAR window command up-samples with half-pixel bilinear interpolation. -/
  | upBilinear (t : Nat) (lo : Nat) (hi : Nat)
  /-- VU_ADD (R302). Vector ADD adds 64 elements in FP32 or INT32. -/
  | vuAdd (t : Nat)
  /-- VU_SUB (R302). Vector SUB subtracts 64 elements. -/
  | vuSub (t : Nat)
  /-- VU_MUL (R302). Vector MUL multiplies 64 elements. -/
  | vuMul (t : Nat)
  /-- VU_FMA (R302). Vector FMA performs a fused multiply-add in FP32. -/
  | vuFma (t : Nat)
  /-- VU_MIN (R302). Vector MIN returns the lesser operand, ignoring a single NaN. -/
  | vuMin (t : Nat)
  /-- VU_MAX (R302). Vector MAX returns the greater operand, ignoring a single NaN. -/
  | vuMax (t : Nat)
  /-- VU_ABS (R302). Vector ABS returns the magnitude exactly. -/
  | vuAbs (t : Nat)
  /-- VU_NEG (R302). Vector NEG negates exactly. -/
  | vuNeg (t : Nat)
  /-- VU_CMP (R302). Vector CMP compares EQ, LT or LE exactly. -/
  | vuCmp (t : Nat)
  /-- VU_SELECT (R302). Vector SELECT chooses between operands exactly. -/
  | vuSelect (t : Nat)
  /-- VU_RELU (R302). Vector RELU rectifies exactly. -/
  | vuRelu (t : Nat)
  /-- VU_LEAKY (R302). Vector LEAKY scales negatives by a slope with one rounding. -/
  | vuLeaky (t : Nat)
  /-- VU_CLAMP (R302). Vector CLAMP bounds elements exactly. -/
  | vuClamp (t : Nat)
  /-- LUTFN (R303). Vector LUTFN evaluates a 257-node piecewise-linear table. -/
  | lutfn (t : Nat)
  /-- CVT (R294). Vector CVT converts elements to another format. -/
  | cvt (t : Nat)
  /-- REQUANT (R301). Vector REQUANT rescales and converts elements. -/
  | requant (t : Nat)
  /-- VU_SUM (R304). Vector SUM reduces over one axis in the fixed pairwise order. -/
  | vuSum (t : Nat)
  /-- VU_REDUCE_MAX (R304). Vector MAX over one axis reduces in the fixed order. -/
  | vuReduceMax (t : Nat)
  /-- VU_REDUCE_MIN (R304). Vector MIN over one axis reduces in the fixed order. -/
  | vuReduceMin (t : Nat)
  /-- ARGMAX (R304). Vector ARGMAX returns the lowest index of the maximum. -/
  | argmax (t : Nat)
  /-- STASH_TRANSFER (R312). A stash transfer is checked and starts moving rows between its SRAM and a source or
  destination. -/
  | stashTransfer (t : Nat)
  /-- STASH_DONE (R313). A stash transfer completes in issue order, poisoning lines on LPDDR5X errors, and signals its
  anchor. -/
  | stashDone (t : Nat) (late : Bool) (now : Nat)
  /-- SRAM_SCRUB (R309). The cluster controller scrubs its SRAM lines once per PERIOD_S. -/
  | sramScrub (c : Nat) (before : List Nat) (after : List Nat) (now : Nat)
  /-- RETENTION_VERIFY (R310). On exit from retention the device recomputes and compares each bank's CRC. -/
  | retentionVerify (u : Nat) (flips : List (Nat × Nat))
  /-- SIGNAL (R317). An ANC_OP SIGNAL adds INC to an anchor's value, saturating, and releases satisfied waits. -/
  | signal (w : Who) (n : Nat) (inc : Nat)
  /-- ANC_RESET (R317). An ANC_OP RESET zeroes an anchor unless it has waiters. -/
  | ancReset (w : Who) (n : Nat)
  /-- FAULT (R317). An ANC_OP FAULT sets an anchor's FAULT and releases its waiters. -/
  | fault (w : Who) (n : Nat)
  /-- OWNER_WRITE (R317). A write of ANC_CTRL sets the owner, zeroes the anchor and advances its GEN, unless refused. -/
  | ownerWrite (w : Who) (n : Nat) (v : Word)
  /-- LEAN_POLICY_TICK (R374). Every 1 ms the policy checks the replay rate against the ceiling and may step down or
  raise H. -/
  | leanPolicyTick (now : Nat) (beats : Nat) (tts : List (Nat × Nat)) (ncs : List (Nat × Nat))
  /-- SAMPLE_COMPARE (R374). The checker compares a recomputed sample, counting mismatches and stepping the lean
  setting down. -/
  | sampleCompare (now : Nat) (diff : Nat)
  /-- LEAN_CHANGE (R361). A change of the setting in force moves VDD_CORE and takes effect at a LEAN cairn. -/
  | leanChange (now : Nat)
  /-- CHECKER_CFG_WRITE (R373). A write of APX_CHK_CFG enables the checker or, with EN = 0, forces LEAN0. -/
  | checkerCfgWrite (w : Who) (v : Word)
  /-- CHEAP_RESULT (R363). A cheap-path result is tested against its threshold and deadline and escalated or finished
  on the cheap path. -/
  | cheapResult (t : TileRef) (n : Nat) (m : Nat) (v : TileVal) (now : Nat)
  /-- EXACT_RESULT (R363). An exact-path result reaches the output block and is written, or discarded if late. -/
  | exactResult (t : TileRef) (n : Nat) (v : TileVal) (now : Nat)
  /-- VERDICT_RESULT (R389). A verdict result reaches the output block and is written as a verdict record. -/
  | verdictResult (t : TileRef) (v : TileVal) (now : Nat)
  /-- VERDICT_DEADLINE (R389). At a tile's deadline the output block writes its verdict from what is ready, or
  NO_RESULT with MISSED. -/
  | verdictDeadline (now : Nat)
  /-- SHEET_START (R384). When MP reaches a sheet's start, the sheet starts and its first raster row is fixed. -/
  | sheetStart (now : Nat)
  /-- CORRECTION_RESULT (R394). A correction result is written as a correction record, marked MISSED or discarded if
  late. -/
  | correctionResult (u : Nat) (j : Int) (v : CorrVal) (now : Nat)
  /-- HELD (R396). When the predicted time to a unit's deadline falls to FALLBACK_US without a correction, a HELD
  record is written. -/
  | held (u : Nat) (now : Nat)
  /-- DETECTION (R398). The tracker joins a detection to a track, opens one, or counts the table full. -/
  | detection (t : TileRef) (stamp : Nat) (cls : Nat) (x : Int) (y : Int) (now : Nat)
  /-- RECORD_DELIVER (R399). A record is written into its host ring when room exists, then HEAD. -/
  | recordDeliver (n : Nat) (now : Nat)
  /-- OUT_STR_TAIL_WRITE (R399). A write of OUT_STR_TAIL frees ring space for waiting records. -/
  | outStrTailWrite (w : Who) (n : Nat) (v : Word)
  /-- RING_IRQ (R399). At most once per IRQ_US while HEAD has moved, the stream's MSI-X vector is sent. -/
  | ringIrq (n : Nat) (now : Nat)
  /-- DATAGRAM_SEND (R401). A UDP datagram is sent when the next record would not fit or FLUSH_US after its first
  record. -/
  | datagramSend (n : Nat) (now : Nat)
  /-- BIND (R413). BIND checks a package and map, places and allocates the job, and starts it at the next cairn. -/
  | bind (c : Nat) (q : Nat) (host : Option (List Byte)) (plan : BindPlan) (ok : Bool)
  /-- BIND_ACTIVATE (R413). A bind's step 8 passes its cairn and the BIND completes. -/
  | bindActivate (h : Nat) (now : Nat)
  /-- UNBIND (R421). UNBIND ends a job at a cairn, draining or writing pending verdicts as NO_RESULT. -/
  | unbind (c : Nat) (q : Nat)
  /-- UNBIND_RELEASE (R421). Once drained, the job's resources are released and its cores send FINAL. -/
  | unbindRelease (h : Nat) (now : Nat)
  /-- REBIND (R427). REBIND enables a standby share at a cairn and writes verdicts for the loss interval. -/
  | rebind (c : Nat) (q : Nat) (host : Option (List Byte))
  /-- PART_CFG (R419). PART_CFG assigns whole clusters to partitions unless a bound job would be moved. -/
  | partCfg (c : Nat) (q : Nat) (host : Option (List Byte))
  /-- CC_RELOAD (R422). CC_RELOAD reloads the cluster controllers of an idle partition from the verified image. -/
  | ccReload (c : Nat) (q : Nat)
  /-- QUERY (R440). QUERY writes a bound job's bind report to the payload area. -/
  | query (c : Nat) (q : Nat) (ok : Bool)
  /-- HEARTBEAT (R481). Every 250 µs the device sends a heartbeat to the fabric manager. -/
  | heartbeat (now : Nat)
  /-- DESCRIPTOR_SUBMIT (R439). A write covering byte 63 of a slot with VALID submits the descriptor, accepted or
  refused. -/
  | descriptorSubmit (fn : Nat) (off : Nat) (bs : List Byte)
  /-- COMMAND_START (R442). A startable command with satisfied waits is checked and begins executing. -/
  | commandStart (c : Nat) (now : Nat)
  /-- COMMAND_END (R443). A command ends: effects complete, signal, completion record, MSI-X. -/
  | commandEnd (c : Nat) (q : Nat) (ok : Bool) (now : Nat)
  /-- NOP (R440). NOP completes with no effect. -/
  | nop (c : Nat) (q : Nat)
  /-- COPY (R440). COPY moves bytes between host memory and the context's memory window. -/
  | copy (c : Nat) (q : Nat) (data : Option (List Byte))
  /-- FILL (R440). FILL writes a repeated pattern into the memory window. -/
  | fill (c : Nat) (q : Nat)
  /-- STAMP (R440). STAMP writes FT, MP and PT0–PT3 at its start. -/
  | stamp (c : Nat) (q : Nat) (ok : Bool)
  /-- BUDGET_EXPIRY (R444). A command that outlasts its budget is marked OVER_BUDGET and, under COMMAND, charged to
  the owing unit. -/
  | budgetExpiry (r : CmdRef) (now : Nat)
  /-- CQ_ENABLE (R448). A write of HIF_W_CQ_CFG.EN from 0 to 1 resets HEAD and TAIL and starts the ring. -/
  | cqEnable (fn : Nat) (off : Nat) (v : Word)
  /-- CQ_HEAD_WRITE (R448). A write of HIF_W_CQ_HEAD advances HEAD and releases held completions, or is dropped. -/
  | cqHeadWrite (fn : Nat) (off : Nat) (v : Word)
  /-- CONTEXT_ENABLE (R434). A write of HIF_CTX_OWN.EN from 0 to 1 sets NEXT_SEQ to 0 and advances CGEN. -/
  | contextEnable (w : Who) (v : Word)
  /-- HIF_W_ABORT (R502). A write of HIF_W_ABORT requests an E1 step on the context without blame. -/
  | hifWAbort (fn : Nat) (off : Nat) (v : Word)
  /-- FLR (R457). A function level reset disables the function's contexts and discards their pending work. -/
  | flr (f : Nat)
  /-- BUS_MASTER_DISABLE (R457). Clearing a function's Bus Master Enable acts on its contexts as an FLR. -/
  | busMasterDisable (f : Nat)
  /-- SRIOV_DISABLE (R457). Disabling SR-IOV counts as an FLR of every VF. -/
  | sriovDisable
  /-- LINK_HOT_RESET (R458). A hot or fundamental reset of a PCI Express link acts as an FLR of its functions and
  frees VF contexts. -/
  | linkHotReset (link : Nat)
  /-- VECTOR_UNMASK (R453). Unmasking an MSI-X vector with its pending bit set sends the message. -/
  | vectorUnmask (f : Nat) (v : Nat)
  /-- LINK_SIGNAL_DETECT (R463). Signal on every lane moves a port from DETECT into training. -/
  | linkSignalDetect (p : Nat) (now : Nat)
  /-- LINK_TRAINED (R463). Training and alignment complete with FEC lock and the port enters HELLO. -/
  | linkTrained (p : Nat) (lanes : Nat) (now : Nat)
  /-- LINK_TRAIN_TIMEOUT (R463). A port not in HELLO within 20 ms counts the training failed, entering FAULT after 8. -/
  | linkTrainTimeout (p : Nat) (now : Nat)
  /-- LINK_FAULT_RETRY (R462). A port in FAULT retries training once per second. -/
  | linkFaultRetry (p : Nat) (now : Nat)
  /-- LINK_DOWN (R463). Loss of lane signal, FEC lock, control flits or excess replays returns a port to DETECT. -/
  | linkDown (p : Nat) (why : LinkLoss) (now : Nat)
  /-- FAILBACK (R476). After FAILBACK_MS of UP and a drain, entries return to their EGRESS ports. -/
  | failback (p : Nat) (now : Nat)
  /-- FEC_UNCORRECTABLE (R460). An uncorrectable codeword is discarded and a NAK sent for the first lost flit. -/
  | fecUncorrectable (p : Nat)
  /-- NAK (R460). A received NAK makes the sender replay from the named flit. -/
  | nak (p : Nat) (n : Nat) (now : Nat)
  /-- HELLO_SEND (R464). Every 100 µs a port in HELLO, UP or DEGRADED sends a HELLO frame. -/
  | helloSend (p : Nat) (now : Nat)
  /-- HELLO (R465). A received HELLO brings the port up, updates the peer and computes offset and delay. -/
  | hello (p : Nat) (f : Frame) (now : Nat)
  /-- PEER_SILENT (R465). Three missed HELLOs clear PEER_VALID and send a PEER_SILENT notice. -/
  | peerSilent (p : Nat) (now : Nat)
  /-- FRAME_ROUTE (R473). An arriving or sent frame is routed: delivered, forwarded on its egress ports, or discarded. -/
  | frameRoute (x : FrameIn) (now : Nat)
  /-- REG (R478). A REG frame performs its register accesses in class FABRIC and returns a response. -/
  | reg
  /-- CMD (R479). A CMD frame submits a descriptor to a management context. -/
  | cmd
  /-- BULK_WRITE (R480). A BULK WRITE stores data into a context's memory window and is acknowledged. -/
  | bulkWrite
  /-- BULK_READ (R480). A BULK READ returns data from a context's memory window. -/
  | bulkRead
  /-- STREAM (R485). A STREAM frame of a remote bar is checked and its fusion results, amendments or words injected. -/
  | stream (now : Nat)
  /-- RELAY_TX_HEAD_WRITE (R483). A write of LNK_RELAY_TX_HEAD sends the filled TX slots' frames as from the fabric
  manager. -/
  | relayTxHeadWrite (w : Who) (v : Word) (slots : List (List Byte))
  /-- RELAY_IRQ (R483). At most once per 10 µs while RX_HEAD has moved, the relay vector is sent. -/
  | relayIrq (now : Nat)
  /-- E1_STEP (R502). E1 stops a context's unfinished commands, completes them with ERR_HANG or ERR_ABORTED and
  advances CGEN. -/
  | e1Step (x : StepIn) (now : Nat)
  /-- E2_STEP (R490). E2 dumps and resets one tile or neuron core, replays suspects and rebinds it. -/
  | e2Step (x : StepIn) (now : Nat)
  /-- E3_STEP (R490). E3 dumps and resets a partition, faulting its anchors and ending its jobs. -/
  | e3Step (x : StepIn) (now : Nat)
  /-- E4_STEP (R490). E4 dumps and resets all compute, ending every job and advancing LNK_GEN. -/
  | e4Step (x : StepIn) (now : Nat)
  /-- E5_STEP (R506). E5 sends a notice, logs to flash and asserts PWRCYC_REQ_N for a power cycle. -/
  | e5Step (x : StepIn) (now : Nat)
  /-- STEP_TIMEOUT (R507). A step whose reset does not end within its bound has failed and escalates. -/
  | stepTimeout (now : Nat)
  /-- PWRCYC_HOLD_EXPIRY (R506). After HOLD_MS still powered, PWRCYC_REQ_N is released and the device enters HALTED. -/
  | pwrcycHoldExpiry (now : Nat)
  /-- UNIT_REJOIN (R510). The binder rebinds a reset unit into its job at the rejoin point, declaring lost windows. -/
  | unitRejoin (u : Nat) (now : Nat)
  /-- UNIT_ERROR (R496). A neuron core page entering STATE ERROR triggers recovery under COMMAND. -/
  | unitError (n : Nat)
  /-- REC_HEARTBEAT (R498). Every 1 ms Drimon increments REC_HEARTBEAT and restarts the warden watchdog. -/
  | recHeartbeat (now : Nat)
  /-- WARDEN_WDT (R498). Expiry of the warden watchdog logs to flash and, with E5_EN, requests a power cycle. -/
  | wardenWdt (v : Nat) (now : Nat)
  /-- HELPER_WDT (R499). Expiry of a helper's watchdog starts E3 on its partition or reloads the helper alone. -/
  | helperWdt (h : Nat) (now : Nat)
  /-- RESET (R518). RESET requests a recovery step on a target. -/
  | reset (c : Nat) (q : Nat)
  /-- DUMP_COPY (R518). DUMP_COPY copies a held dump slot to a destination. -/
  | dumpCopy (c : Nat) (q : Nat) (ok : Bool)
  /-- DUMP_RELEASE (R518). DUMP_RELEASE frees a held dump slot. -/
  | dumpRelease (c : Nat) (q : Nat)
  /-- REJOIN (R518). REJOIN asks the binder to rebind a unit after E2. -/
  | rejoin (c : Nat) (q : Nat)
  /-- POWER_ON_BOOT (R526). At POR_N rise the warden boots: verifies and loads Drimon, trains memory, loads helpers,
  applies settings and enters RIDGE. -/
  | powerOnBoot (now : Nat) (seed0 : Option (List Byte)) (corrected : Nat) (vr : Nat) (link : Nat) (vs : List Nat)
  /-- WARM_BOOT (R528). A warm boot restarts the warden and reruns the start sequence without power-on reset. -/
  | warmBoot (now : Nat) (vr : Nat) (vs : List Nat)
  /-- UPD_BEGIN (R536). UPD_BEGIN opens or resumes a delivery into the non-active slot. -/
  | updBegin (c : Nat) (q : Nat) (host : Option (List Byte)) (v : Nat)
  /-- UPD_CHUNK (R537). UPD_CHUNK stores one image chunk and its bitmap bit. -/
  | updChunk (c : Nat) (q : Nat) (host : Option (List Byte)) (v : Nat) (ok : Bool)
  /-- UPD_ABORT (R540). UPD_ABORT erases the delivery record and empties the target slot. -/
  | updAbort (c : Nat) (q : Nat) (v : Nat)
  /-- UPD_ACTIVATE (R544). UPD_ACTIVATE makes a slot the next trial. -/
  | updActivate (c : Nat) (q : Nat) (v : Nat)
  /-- UPD_CONFIRM (R543). UPD_CONFIRM gives host agreement to confirm a healthy trial. -/
  | updConfirm (c : Nat) (q : Nat)
  /-- UPD_FALLBACK (R545). UPD_FALLBACK fails the trial slot and warm-boots the active slot. -/
  | updFallback (c : Nat) (q : Nat) (v : Nat)
  /-- UPD_CONFIG (R550). UPD_CONFIG verifies and stores a new configuration record. -/
  | updConfig (c : Nat) (q : Nat) (host : Option (List Byte)) (v : Nat)
  /-- SETTINGS_SAVE (R547). SETTINGS_SAVE writes a settings record to the running slot's bank. -/
  | settingsSave (c : Nat) (q : Nat) (host : Option (List Byte)) (v : Nat)
  /-- RESTART (R528). RESTART performs a warm boot. -/
  | restart (c : Nat) (q : Nat)
  /-- CHUNK (R538). A CHUNK frame fragment is assembled, and a full chunk is taken. -/
  | chunk (v : Nat) (ok : Bool) (now : Nat)
  /-- HEALTH_CONFIRM (R543). When UPD_HEALTH reaches 600 s and any host confirmation is in, the trial slot is
  confirmed. -/
  | healthConfirm (v : Nat) (now : Nat)
  /-- STORE_RETRY (R552). A refused device store is retried every 100 ms up to 10 s. -/
  | storeRetry (v : Nat) (ok : Bool) (now : Nat)
  /-- SVC_REG (R541). An SVC REG message performs register accesses in class SERVICE. -/
  | svcReg (tag : Nat) (body : List Byte)
  /-- SVC_CMD (R541). An SVC CMD message runs an update descriptor with inline payload. -/
  | svcCmd (tag : Nat) (desc : List Byte) (pay : List Byte) (v : Nat) (ok : Bool)
  /-- FLASH_READ_GO (R556). A write of UPD_FL_CTRL.GO reads 8 bytes of flash into UPD_FL_DATA. -/
  | flashReadGo (w : Who) (v : Word)
  /-- QUOTE_GO (R568). A write of SEC_Q_CTRL.GO snapshots the log and starts a quote, or fails without identity. -/
  | quoteGo (w : Who) (v : Word)
  /-- QUOTE_DONE (R568). The quote signature completes and STATE becomes DONE. -/
  | quoteDone (now : Nat)
  /-- SEC_Q_DATA_READ (R572). A read of SEC_Q_DATA_HI with INC advances SEC_Q_ADDR by 8. -/
  | secQDataRead (w : Who)
  /-- DBG_UNLOCK (R614). Update-DR of DBG_UNLOCK starts verification of the shifted token. -/
  | dbgUnlock (bs : List Byte)
  /-- TOKEN_VERIFIED (R570). Token verification ends, granting DEBUG within SCOPE or counting a refusal. -/
  | tokenVerified (now : Nat)
  /-- REVOKE (R570). A write of SEC_DBG_CTRL.REVOKE ends the DEBUG grant. -/
  | revoke (w : Who) (v : Word)
  /-- DEBUG_EXPIRY (R570). LIFE_S expiry ends the DEBUG grant. -/
  | debugExpiry (now : Nat)
  /-- POWER_ON_RESET (R587). A fall of PWR_OK or POR_N of 1 µs or more resets the whole device. -/
  | powerOnReset (ns : Nat)
  /-- POWER_DOWN (R589). When PWR_OK falls the device starts no new flash store and finishes any in progress. -/
  | powerDown
  /-- AVS_TRIM (R583). Every 100 ms with TRIM_EN the device re-evaluates V_R and moves the target by at most 5 mV. -/
  | avsTrim (now : Nat) (level : Nat)
  /-- RAIL_SETTLED (R584). VSENSE within ±8 mV of target for 1 µs lets a pending clock raise or lean change proceed. -/
  | railSettled (now : Nat) (mv : Nat)
  /-- ERR_AVS_TIMEOUT (R584). After 1 ms without settling, AVS goes to FAULT and the change stays pending. -/
  | errAvsTimeout (now : Nat)
  /-- AVS_NO_ANSWER (R585). Three unanswered AVSBus commands set AVS to FAULT and hold the last target. -/
  | avsNoAnswer (now : Nat)
  /-- THERMTRIP (R610). At the trip temperature THERMTRIP_N asserts and compute is held in reset. -/
  | thermtrip (now : Nat) (temps : List Nat)
  /-- TEST_LOGIC_RESET (R612). TRST_N, five TMS-high clocks or power-on reset enter Test-Logic-Reset and select
  IDCODE. -/
  | testLogicReset
  /-- EXTEST (R613). EXTEST drives pins from the boundary register when permitted. -/
  | extest (pins : List Bool) (shift : List Bool)
  /-- SAMPLE_PRELOAD (R612). SAMPLE/PRELOAD captures and preloads the boundary register. -/
  | samplePreload (pins : List Bool) (shift : List Bool)
  /-- IDCODE (R612). IDCODE returns the 32-bit identity. -/
  | idcode
  /-- JTAG_CLAMP (R613). CLAMP holds pins from the boundary register with bypass selected, when permitted. -/
  | jtagClamp
  /-- HIGHZ (R613). HIGHZ floats outputs when permitted. -/
  | highz
  /-- EXTEST_PULSE (R613). EXTEST_PULSE runs IEEE 1149.6 pulse test when permitted. -/
  | extestPulse (pins : List Bool) (shift : List Bool)
  /-- EXTEST_TRAIN (R613). EXTEST_TRAIN runs IEEE 1149.6 train test when permitted. -/
  | extestTrain (pins : List Bool) (shift : List Bool)
  /-- DBG_STATUS (R614). DBG_STATUS returns the unlock state. -/
  | dbgStatus
  /-- DBG_CHAL (R612). DBG_CHAL returns UID and the challenge. -/
  | dbgChal
  /-- BYPASS (R612). BYPASS selects the 1-bit bypass register. -/
  | bypass
  /-- DBG_ACCESS_READ (R615). DBG_ACCESS READ starts a 32-bit BAR0 read in class DEBUG. -/
  | dbgAccessRead (a : Nat)
  /-- DBG_ACCESS_WRITE (R615). DBG_ACCESS WRITE starts a 32-bit BAR0 write in class DEBUG. -/
  | dbgAccessWrite (a : Nat) (v : Nat)
  /-- TMUX_SEL_WRITE (R617). A write of TMUX_SELn changes a pin's selection after a 10 ns low gap, or is dropped. -/
  | tmuxSelWrite (w : Who) (n : Nat) (v : Word)
  /-- PMC_SEL_WRITE (R622). A write of DBG_PMC_SELk selects a counter source and clears the counter. -/
  | pmcSelWrite (w : Who) (k : Nat) (v : Word)
  /-- DBG_SNAP (R622). A write of DBG_SNAP.GO copies all eight counters and FT in one cycle. -/
  | dbgSnap (w : Who) (v : Word)
  /-- SLEW_COMPLETE (R136). When the remaining phase correction reaches zero, SLEWING clears, and FAR clears once the
  remainder is 1 s or less. -/
  | slewComplete (now : Nat)
  /-- TILE_SLEEP (R310). The binder puts an unbound tile to sleep at STATE OFF, computing retention CRCs when REQ is
  set and holding the SRAM at retention voltage. -/
  | tileSleep (t : Nat) (sleep : Bool)
  /-- BUS_MASTER_ENABLE (R457). Setting a function's Bus Master Enable again lets output records held for its rings be
  delivered. -/
  | busMasterEnable (f : Nat)
  /-- AVS_REGULATOR_ANSWER (R585). The VDD_CORE regulator answers AVSBus again after a FAULT, so pending mode requests
  and lean changes that need a new target can proceed. -/
  | avsRegulatorAnswer (now : Nat)
  /-- TJ_MAX_CROSSING (R609). A temperature sample finds the junction crossing the ordering code's maximum, and the
  device logs the crossing under R39. -/
  | tjMaxCrossing (now : Nat) (temps : List Nat)
  deriving DecidableEq, Repr

end Sys2Proof
end

