-- ==== Sys2Proof/Decode.lean ====
section
/-!
DEFINITION. Reading a command from the bits that the opcode table gives its row.
-/
namespace Sys2Proof

/-- The command that a word spells by the bits of the opcode table. The table gives no row any bits: its commands are accesses,
messages and events, so no word spells one. -/
def decodeTableWord (_nbits _w : Nat) : Option Instr := none

end Sys2Proof
end

