-- ==== Sys2Proof/Machine/Bits.lean ====
section
/-!
DEFINITION. Bit fields, sign extension, saturation and byte order (spec/00_scope.md R10, R11).
-/
namespace Sys2Proof.Machine
open Sys2Proof

/-- Bits [hi:lo] of a natural number (R10). -/
def nbits (n hi lo : Nat) : Nat := n / 2 ^ lo % 2 ^ (hi + 1 - lo)

/-- Bit i of a natural number. -/
def nbit (n i : Nat) : Bool := n / 2 ^ i % 2 == 1

/-- Bits [hi:lo] of a word (R10). -/
def bits (v : Word) (hi lo : Nat) : Nat := nbits v.toNat hi lo

/-- A word from a number. -/
def word (n : Nat) : Word := BitVec.ofNat 32 n

/-- The number n with its bits [hi:lo] replaced by x. -/
def nput (n hi lo x : Nat) : Nat :=
  n - nbits n hi lo * 2 ^ lo + x % 2 ^ (hi + 1 - lo) * 2 ^ lo

/-- A word with bits [hi:lo] replaced by x. -/
def putBits (v : Word) (hi lo x : Nat) : Word := word (nput v.toNat hi lo x)

/-- 1 for true, 0 for false. -/
def b2n (b : Bool) : Nat := if b then 1 else 0

/-- The w low bits of n read as two's complement. -/
def sx (w n : Nat) : Int :=
  let m := n % 2 ^ w
  if 2 ^ (w - 1) ≤ m then (m : Int) - (2 ^ w : Nat) else m

/-- The w-bit two's complement of an integer, as a number. -/
def twos (w : Nat) (i : Int) : Nat := (i % ((2 ^ w : Nat) : Int)).toNat

/-- A number held at most at m. -/
def satN (m n : Nat) : Nat := if n ≤ m then n else m

/-- An integer held within the w-bit signed range. -/
def satS (w : Nat) (i : Int) : Int :=
  if i < -((2 ^ (w - 1) : Nat) : Int) then -((2 ^ (w - 1) : Nat) : Int)
  else if ((2 ^ (w - 1) : Nat) : Int) ≤ i then ((2 ^ (w - 1) : Nat) : Int) - 1 else i

/-- An integer held between two bounds. -/
def clampI (lo hi i : Int) : Int := if i < lo then lo else if hi < i then hi else i

/-- Floor division of an integer by a positive number. -/
def fdiv (a : Int) (b : Nat) : Int := a / (b : Int)

/-- An arithmetic right shift. -/
def asr (a : Int) (k : Nat) : Int := a / ((2 ^ k : Nat) : Int)

/-- The sign of an integer, −1, 0 or 1. -/
def sgn (a : Int) : Int := if a < 0 then -1 else if a = 0 then 0 else 1

/-- The magnitude of an integer. -/
def absI (a : Int) : Nat := a.natAbs

/-- The k bytes of a number, low byte first (R11). -/
def leBytes : Nat → Nat → List Byte
  | 0, _ => []
  | k + 1, n => BitVec.ofNat 8 n :: leBytes k (n / 256)

/-- The number that a list of bytes spells, low byte first (R11). -/
def ofLe : List Byte → Nat
  | [] => 0
  | b :: t => b.toNat + 256 * ofLe t

/-- The numbers a, a + 1, … (k of them). -/
def rangeFrom (a : Nat) : Nat → List Nat
  | 0 => []
  | k + 1 => a :: rangeFrom (a + 1) k

/-- Element i of a list of numbers, 0 beyond its end. -/
def at0 (l : List Nat) (i : Nat) : Nat := l.getD i 0

end Sys2Proof.Machine
end

