-- ==== Sys2Proof/Machine/Fp.lean ====
section
/-!
DEFINITION. Floating point, exactly: values as signed dyadic numbers, the formats of spec/09_tensor_tiles.md R290, rounding to
nearest with ties to even, and the FP32 operations that neuron cores, tensor engines and vector units perform.
-/
namespace Sys2Proof.Machine
open Sys2Proof

/-! ## Values -/

/-- A floating-point value: NaN, an infinity with its sign, or the finite number (−1)^s × m × 2^e. -/
inductive FVal
  | nan
  | inf (s : Bool)
  | fin (s : Bool) (m : Nat) (e : Int)
  deriving DecidableEq, Repr

/-- A finite value from an integer times a power of two. -/
def fOf (i e : Int) : FVal := .fin (decide (i < 0)) i.natAbs e

def fZero : FVal := .fin false 0 0

/-- The signed integer of a finite value's magnitude at the exponent e0 ≤ e. -/
def atExp (s : Bool) (m : Nat) (e e0 : Int) : Int :=
  let i : Int := (m * 2 ^ (e - e0).toNat : Nat)
  if s then -i else i

/-- Sum. An exact zero of terms of unlike sign is +0. -/
def fAdd : FVal → FVal → FVal
  | .nan, _ => .nan
  | _, .nan => .nan
  | .inf a, .inf b => if a = b then .inf a else .nan
  | .inf a, _ => .inf a
  | _, .inf b => .inf b
  | .fin s m e, .fin t n f =>
    let g := min e f
    let i := atExp s m e g + atExp t n f g
    if i = 0 then .fin (s && t) 0 0 else fOf i g

def fNeg : FVal → FVal
  | .nan => .nan
  | .inf s => .inf (!s)
  | .fin s m e => .fin (!s) m e

def fAbs : FVal → FVal
  | .nan => .nan
  | .inf _ => .inf false
  | .fin _ m e => .fin false m e

def fIsZero : FVal → Bool
  | .fin _ 0 _ => true
  | _ => false

def fSign : FVal → Bool
  | .nan => false
  | .inf s => s
  | .fin s _ _ => s

/-- Product. -/
def fMul (x y : FVal) : FVal :=
  match x, y with
  | .nan, _ => .nan
  | _, .nan => .nan
  | .inf a, _ => if fIsZero y then .nan else .inf (a != fSign y)
  | _, .inf b => if fIsZero x then .nan else .inf (fSign x != b)
  | .fin s m e, .fin t n f => .fin (s != t) (m * n) (e + f)

/-- A value times a power of two. -/
def fScale (x : FVal) (k : Int) : FVal :=
  match x with
  | .fin s m e => .fin s m (e + k)
  | _ => x

/-- x < y; false with a NaN. -/
def fLt : FVal → FVal → Bool
  | .nan, _ => false
  | _, .nan => false
  | .inf a, .inf b => a && !b
  | .inf a, _ => a
  | _, .inf b => !b
  | .fin s m e, .fin t n f => let g := min e f; decide (atExp s m e g < atExp t n f g)

/-- x = y; false with a NaN; the zeros are equal. -/
def fEq (x y : FVal) : Bool := decide (x ≠ .nan) && decide (y ≠ .nan) && !fLt x y && !fLt y x

def fLe (x y : FVal) : Bool := fLt x y || fEq x y

/-- The greater of two values, and the one that is no NaN (R302). -/
def fMax (x y : FVal) : FVal := if x = .nan then y else if y = .nan then x else if fLt x y then y else x
def fMin (x y : FVal) : FVal := if x = .nan then y else if y = .nan then x else if fLt y x then y else x

/-! ## Formats (R290) -/

/-- A floating-point format: exponent and fraction bits, bias, the largest finite code, the codes of infinity and of the
canonical NaN, where it has them. -/
structure FFmt where
  eb : Nat
  mb : Nat
  bias : Nat
  top : Nat
  inf : Option Nat
  nan : Option Nat
  deriving DecidableEq, Repr

def fmtFp4 : FFmt := { eb := 2, mb := 1, bias := 1, top := 7, inf := none, nan := none }
def fmtFp6a : FFmt := { eb := 2, mb := 3, bias := 1, top := 31, inf := none, nan := none }
def fmtFp6b : FFmt := { eb := 3, mb := 2, bias := 3, top := 31, inf := none, nan := none }
def fmtFp8a : FFmt := { eb := 4, mb := 3, bias := 7, top := 0x7E, inf := none, nan := some 0x7F }
def fmtFp8b : FFmt := { eb := 5, mb := 2, bias := 15, top := 0x7B, inf := some 0x7C, nan := some 0x7E }
def fmtFp16 : FFmt := { eb := 5, mb := 10, bias := 15, top := 0x7BFF, inf := some 0x7C00, nan := some 0x7E00 }
def fmtBf16 : FFmt := { eb := 8, mb := 7, bias := 127, top := 0x7F7F, inf := some 0x7F80, nan := some 0x7FC0 }
def fmtFp32 : FFmt := { eb := 8, mb := 23, bias := 127, top := 0x7F7FFFFF, inf := some 0x7F800000, nan := some 0x7FC00000 }

/-- The exponent of the smallest subnormal. -/
def FFmt.ulp (f : FFmt) : Int := 1 - (f.bias : Int) - (f.mb : Int)

/-- The value of a bit pattern. -/
def fDecode (f : FFmt) (n : Nat) : FVal :=
  let s := nbit n (f.eb + f.mb)
  let c := n % 2 ^ (f.eb + f.mb)
  if c ≤ f.top then
    let ex := c / 2 ^ f.mb
    let fr := c % 2 ^ f.mb
    if ex = 0 then .fin s fr f.ulp else .fin s (2 ^ f.mb + fr) (f.ulp + (ex : Int) - 1)
  else if f.inf = some c then .inf s
  else .nan

/-- m / 2^d rounded to nearest, ties to even. -/
def rneShift (m d : Nat) : Nat :=
  let q := m / 2 ^ d
  let r := m % 2 ^ d
  if 2 * r < 2 ^ d then q else if 2 ^ d < 2 * r then q + 1 else if q % 2 = 1 then q + 1 else q

/-- The code of the magnitude m × 2^e rounded to nearest even, unbounded above. -/
def fCode (f : FFmt) (m : Nat) (e : Int) : Nat :=
  if m = 0 then 0
  else
    let len : Int := (Nat.log2 m : Nat) + 1
    let u := max f.ulp (e + len - ((f.mb : Int) + 1))
    let q := if u ≤ e then m * 2 ^ (e - u).toNat else rneShift m (u - e).toNat
    let k := (u - f.ulp).toNat
    if q < 2 ^ f.mb then q
    else if q < 2 ^ (f.mb + 1) then (k + 1) * 2 ^ f.mb + (q - 2 ^ f.mb)
    else (k + 2) * 2 ^ f.mb

/-- A sign put before a code. -/
def withSign (f : FFmt) (s : Bool) (c : Nat) : Nat := b2n s * 2 ^ (f.eb + f.mb) + c

/-- Rounding as an arithmetic operation: overflow gives infinity, and a NaN is the canonical one. -/
def fRound (f : FFmt) : FVal → Nat
  | .nan => f.nan.getD 0
  | .inf s => withSign f s (f.inf.getD f.top)
  | .fin s m e => let c := fCode f m e; withSign f s (if f.top < c then f.inf.getD f.top else c)

/-- What a conversion counted: a saturation, a NaN. -/
inductive Cvt
  | exact
  | sat
  | nan
  deriving DecidableEq, Repr

/-- Whether a magnitude lies beyond the largest finite value of a format. -/
def fBeyond (f : FFmt) (m : Nat) (e : Int) : Bool := fLt (fDecode f f.top) (.fin false m e)

/-- Conversion to a floating-point format (R294): a finite value beyond the largest finite one is a saturation, also where it rounds to
it. -/
def fConvert (f : FFmt) : FVal → Nat × Cvt
  | .nan => (f.nan.getD 0, .nan)
  | .inf s => match f.inf with
    | some c => (withSign f s c, .exact)
    | none => (withSign f s f.top, .sat)
  | .fin s m e => if fBeyond f m e then (withSign f s f.top, .sat) else (withSign f s (fCode f m e), .exact)

/-- Rounding of a value to an integer, nearest with ties to even; infinities and NaN as given. -/
def fRoundInt (m : Nat) (e : Int) : Nat := if 0 ≤ e then m * 2 ^ e.toNat else rneShift m (-e).toNat

/-- Conversion to an integer range (R294). -/
def fToInt (lo hi : Int) : FVal → Int × Cvt
  | .nan => (0, .nan)
  | .inf s => (if s then lo else hi, .sat)
  | .fin s m e =>
    let i : Int := fRoundInt m e
    let v := if s then -i else i
    if v < lo then (lo, .sat) else if hi < v then (hi, .sat) else (v, .exact)

/-- floor of a finite value, held within a range; a NaN gives the given value. -/
def fFloor (lo hi dflt : Int) : FVal → Int
  | .nan => dflt
  | .inf s => if s then lo else hi
  | .fin s m e => clampI lo hi (if 0 ≤ e then atExp s m e 0 else atExp s m 0 0 / ((2 ^ (-e).toNat : Nat) : Int))

/-! ## FP32 operations -/

def f32 (n : Nat) : FVal := fDecode fmtFp32 n
def r32 (v : FVal) : Nat := fRound fmtFp32 v

/-- An FP32 value with the rounding of an exact result. -/
def q32 (v : FVal) : FVal := f32 (r32 v)

/-- A value converted to FP32 (R294): beyond its largest finite value it is that value. -/
def cvt32 (v : FVal) : FVal := f32 (fConvert fmtFp32 v).1

/-- The quotient of two finite values, with enough bits and a sticky bit for one correct rounding to FP32; the divisor is
a positive integer. -/
def fDivNat (x : FVal) (d : Nat) : FVal :=
  match x with
  | .fin s m e =>
    let k := 64 + Nat.log2 (d + 1)
    let q := m * 2 ^ k / d
    let sticky := if m * 2 ^ k % d = 0 then 0 else 1
    .fin s (2 * q + sticky) (e - (k : Int) - 1)
  | v => v

/-- Whether an FP32 pattern is a NaN. -/
def f32Nan (n : Nat) : Bool := decide (0x7F800000 < n % 0x80000000)

/-- The order of an FP32 pattern that is no NaN: its magnitude with its sign, so that +0 and −0 are equal. -/
def f32Ord (n : Nat) : Int := if n / 0x80000000 % 2 = 1 then -((n % 0x80000000 : Nat) : Int) else ((n % 0x80000000 : Nat) : Int)

/-- a > b in FP32; false with a NaN (spec/11_approximation.md R362). -/
def f32Gt (a b : Nat) : Bool := !f32Nan a && !f32Nan b && decide (f32Ord b < f32Ord a)

end Sys2Proof.Machine
end

