-- ==== Sys2Proof/Config.lean ====
section
/-!
DEFINITION. What the spec leaves open, as constants without a body: no proof can see a value of one,
so a statement about the machine holds whatever they are (log entry 3 and the entries named at each).
-/
namespace Sys2Proof.Config

/-- Draw k of a value that the spec leaves open (log entry 3). -/
opaque freeValue : Nat → Nat

/-- A signed draw of a value that the spec leaves open (log entry 3). -/
opaque freeInt : Nat → Int

/-- A value that the spec states nowhere, as a function of its place in the model and of the operands it comes from: equal operands
give equal values, as spec/01_architecture.md R27 asks of everything that reaches a record (log entry 3). -/
opaque openInt : Nat → List Int → Int

/-- What byte a of an SRAM holds whose contents were lost without retention, by the draw that stands for the loss
(spec/09_tensor_tiles.md R310). -/
opaque lostByte : Nat → Nat → Byte

/-- PAGE_VER.MAJOR and MINOR of a block, by its BLOCK_TYPE: spec/02_register_pages.md R49 says "per block" and names no number. -/
opaque pageVer : Nat → Nat

/-- The LPDDR5X channel that holds a byte address; the interleaving is not given (spec/02_register_pages.md R76). -/
opaque memChannel : Nat → Nat

/-- The injection point (0 to 3 for C0, C3, C12, C15) that a port is assigned to; which one is the nearest is not given
(spec/07_event_fabric.md, before R228). -/
opaque portCorner : Nat → Nat

/-- The fcy for which VC 2 holds a word without credit between two moments; its traffic is not described (R229, R246). -/
opaque vc2Stall : Nat → Nat → Nat

/-- The ns for which a virtual channel of a Ridge link (port, VC) holds a flit without credit between two moments, and whether it does at
one: the peer returns the credits (spec/15_rope_fabric.md R469, R489). -/
opaque linkStall : Nat → Nat → Nat → Nat → Nat
opaque linkHeld : Nat → Nat → Nat → Bool

/-- The codewords that FEC corrects on a Ridge link between two moments (R489). -/
opaque linkCorr : Nat → Nat → Nat → Nat

/-- The loop of spec/04_time_bases.md R133: the new rate correction from KP, KI, the old rate and the offset.
The rule gives the gains and the limits and not how the loop splits its output. -/
opaque loopRate : Nat → Nat → Int → Int → Int

/-- The loop of R133: the new phase correction from KP, KI, the old phase correction and the offset. -/
opaque loopPhase : Nat → Nat → Int → Int → Int

/-- RATE_n of a new segment of R141, from the FT and the offset that have passed since the segment before; how it is
estimated is not given. -/
opaque ptRate : Int → Int → Int

/-- The filtered offset magnitude of R135, from the one before and the new offset; the filter is not given. -/
opaque offsetFilter : Nat → Int → Nat

/-- The taps of half-band response r, of spec/05_motion_inputs.md R175; the ROM's values are not printed. What the rule says of them is
imposed where they are read (Machine.romTaps). -/
opaque halfBand : Nat → List Int

/-- The fixed-point flow estimator of spec/06_fusion_alignment.md R196, from the events of the flow window (grid-mapped
column and row in 1/8 cell, stamp, polarity each) to fv, fl or fw (0, 1, 2). -/
opaque flowEstimate : List (Int × Int × Nat × Bool) → Nat → Int

/-- The least squares solver of R212, from the ports (port, node (32, 32), REFPORT or not) and a cycle's measurements (port, reference
port of an overlap, positions, values), in the order of their arrival, to dx, dy in 1/64 cell, dphi in 2^-20 rad and dk in ppm (0 to 3)
of a port. -/
opaque refineSolve : List (Nat × Int × Int × Bool) → List (Nat × Option Nat × List Int × List Int) → Nat → Nat → Int

/-- The SPK byte of an FP32 pattern: spec/09_tensor_tiles.md R294 gives no conversion to SPK (log entry 24). -/
opaque spkOf : Nat → Nat

/-- The shifted product of spec/09_tensor_tiles.md R301 for an integer target from an FP32 accumulator (accumulator, M, s):
the rule forms it from an integer accumulator only (log entry 24). -/
opaque quantFp : Nat → Nat → Nat → Int

/-- The result of a vector operation (operation, operand) where R302 states none: ABS and NEG of −2^31, RELU and CLAMP of a NaN,
the index that ARGMAX gives where every element is NaN (log entry 24). -/
opaque vuOpen : Nat → Nat → Nat

/-- Byte i of the 64 bytes of a log entry (spec/16_hang_recovery.md R515, R498) from its fields: the layout of an entry is not
given. -/
opaque logByte : List Nat → Nat → Nat

/-- The entries of a settings record of one schema converted to another (spec/17_boot_update.md R548: from, to, entries); none where
the conversion fails. The conversion is the image's and is not given. -/
opaque migrate : Nat → Nat → List Byte → Option (List Byte)

/-- The first n bytes of SHAKE256 of a byte list (spec/18_security.md); the function is of another standard. -/
opaque shakeOut : List Byte → (n : Nat) → Vector Byte n

/-- SHAKE256 of a byte list, to a number of bytes. -/
def shake256 (bs : List Byte) (n : Nat) : List Byte := (shakeOut bs n).toList

/-- The four root public keys of 64 bytes that the ROM holds (spec/18_security.md R562); their values are not printed. -/
opaque rootKeys : Nat → Vector Byte 64
def rootKey (i : Nat) : List Byte := (rootKeys i).toList

/-- SLH-DSA key generation from its three seeds (spec/18_security.md R558): the public key. -/
opaque slhKey : List Byte → Vector Byte 64
def slhPublic (seeds : List Byte) : List Byte := (slhKey seeds).toList

/-- The signature of n bytes that the holder of a public key's secret key makes of a message. -/
opaque slhSigned : (n : Nat) → List Byte → List Byte → Vector Byte n

/-- SLH-DSA-SHAKE-256f: the signature of a message by the key of those seeds. -/
def slhSign (seeds msg : List Byte) : List Byte := (slhSigned 49856 (slhPublic seeds) msg).toList

/-- Which other byte lists verify. -/
opaque slhOther : List Byte → List Byte → List Byte → Bool

/-- SLH-DSA verification: public key, message, signature. What the holder of the secret key signs verifies; whatever else does
is left open (log entry 10). -/
def slhVerify (pk msg sig : List Byte) : Bool := slhOther pk msg sig || sig == (slhSigned sig.length pk msg).toList

end Sys2Proof.Config
end

