-- ==== Sys2Proof/Machine/RegTable.lean ====
section
/-!
DEFINITION. The register table: every register the spec gives BAR0 and the command windows, field by field, with
its access type and reset value, and its address by name. A register's fields keep the order of the spec's table.
-/
namespace Sys2Proof.Machine
open Sys2Proof

/-- The access types of spec/00_scope.md R14. -/
inductive Acc
  | ro | rw | w1c | w1s | rc | wo | rwl
  deriving DecidableEq, Repr

/-- One field of a register: bits [hi:lo], its access type, its reset value, and the values it accepts (R13). -/
structure Fld where
  hi : Nat
  lo : Nat
  acc : Acc
  rst : Nat
  ok : Nat → Bool := fun _ => true

/-- A row of the register table: its name, its offset in the page, how many follow at which distance, its fields. -/
structure RegRow where
  name : String
  off : Nat
  cnt : Nat
  stride : Nat
  flds : List Fld

/-- A field that accepts every value. -/
def f (hi lo : Nat) (a : Acc) (r : Nat) : Fld := { hi := hi, lo := lo, acc := a, rst := r }

/-- A field that accepts some values only. -/
def fx (hi lo : Nat) (a : Acc) (r : Nat) (ok : Nat → Bool) : Fld :=
  { hi := hi, lo := lo, acc := a, rst := r, ok := ok }

/-- Every value but 0. -/
def nz (v : Nat) : Bool := v != 0

/-- The values from a to b. -/
def rng (a b v : Nat) : Bool := decide (a ≤ v) && decide (v ≤ b)

/-- The page of global tile t (spec/02_register_pages.md R45). -/
def tilePage (t : Nat) : Nat := 0x100000 + 0x40000 * (t / 8) + 0x1000 * (1 + t % 8)

/-- The page of global neuron core n (R45). -/
def ncPage (n : Nat) : Nat := 0x100000 + 0x40000 * (n / 32) + 0x1000 * (9 + n % 32)

/-- The registers of GlbId (R34, R35, R38, R72). -/
def rowsGlbId : List RegRow := [
  ⟨"GLB_MODE_REQ", 0x200, 1, 0x4, [f 2 0 .rw 0x0]⟩,
  ⟨"GLB_MODE_STAT", 0x204, 1, 0x4, [f 31 16 .ro 0x0, f 15 8 .ro 0x0, f 6 4 .ro 0x0, f 3 3 .ro 0x0, f 2 0 .ro 0x0]⟩,
  ⟨"GLB_MODE_LIMIT", 0x20c, 1, 0x4, [fx 24 16 .rw 0x154 (rng 100 340), fx 15 8 .rw 0x5f (rng 60 100)]⟩,
  ⟨"GLB_PART", 0x40, 1, 0x4, [f 31 0 .ro 0x4b480096]⟩,
  ⟨"GLB_STEPPING", 0x44, 1, 0x4, [f 7 4 .ro 0xb, f 3 0 .ro 0x0]⟩,
  ⟨"GLB_GRADE", 0x48, 1, 0x4, [f 0 0 .ro 0x0]⟩,
  ⟨"GLB_UNMAPPED_CNT", 0x4c, 1, 0x4, [f 31 0 .rc 0x0]⟩,
  ⟨"GLB_DENIED_CNT", 0x50, 6, 0x4, [f 31 0 .rc 0x0]⟩,
  ⟨"GLB_MODE_REPLACED_CNT", 0x208, 1, 0x4, [f 31 0 .rc 0x0]⟩]

/-- The registers of GlbIw (R77). -/
def rowsGlbIw : List RegRow := [
  ⟨"GLB_IW_ADDR_LO", 0x40, 1, 0x4, [f 31 3 .rw 0x0]⟩,
  ⟨"GLB_IW_ADDR_HI", 0x44, 1, 0x4, [f 3 0 .rw 0x0]⟩,
  ⟨"GLB_IW_DATA_LO", 0x48, 1, 0x4, [f 31 0 .rw 0x0]⟩,
  ⟨"GLB_IW_DATA_HI", 0x4c, 1, 0x4, [f 31 0 .rw 0x0]⟩,
  ⟨"GLB_IW_CTRL", 0x50, 1, 0x4, [f 2 2 .rw 0x0, f 1 1 .wo 0x0, f 0 0 .wo 0x0]⟩,
  ⟨"GLB_IW_STAT", 0x54, 1, 0x4, [f 31 16 .ro 0x0, f 1 1 .ro 0x0, f 0 0 .ro 0x0]⟩]

/-- The registers of Port (R110, R111, R112). -/
def rowsPort : List RegRow := [
  ⟨"PORT_CFG", 0x40, 1, 0x4, [fx 31 24 .rw 0xa (nz), f 23 16 .rw 0xe4, f 15 12 .rw 0x0, f 11 11 .rw 0x0, f 10 10 .rw 0x0, fx 9 8 .rw 0x2 (fun v => v != 3), f 7 4 .rw 0x0, f 2 0 .rw 0x0]⟩,
  ⟨"PORT_STATUS", 0x44, 1, 0x4, [f 23 20 .ro 0x0, f 19 16 .ro 0x0, f 15 15 .ro 0x0, f 14 14 .ro 0x0, f 13 13 .ro 0x0, f 12 12 .ro 0x0, f 11 11 .ro 0x0]⟩,
  ⟨"PORT_DESC", 0x48, 8, 0x4, [f 31 0 .ro 0x0]⟩,
  ⟨"PORT_I3C", 0x68, 1, 0x4, [f 7 0 .ro 0x0]⟩,
  ⟨"PORT_SPILL_CFG", 0x6c, 1, 0x4, [fx 31 16 .rw 0x40 (rng 0 2048), fx 11 8 .rw 0x6 (rng 1 8), fx 3 0 .rw 0x2 (rng 0 7)]⟩,
  ⟨"PORT_BUF_FILL", 0x70, 1, 0x4, [f 18 0 .ro 0x0]⟩,
  ⟨"PORT_SPILL_FILL", 0x74, 1, 0x4, [f 21 0 .ro 0x0]⟩,
  ⟨"PORT_BUF_PEAK", 0x78, 1, 0x4, [f 18 0 .rc 0x0]⟩,
  ⟨"PORT_LEG_OFFSET", 0x7c, 1, 0x4, [f 31 0 .rw 0x0]⟩,
  ⟨"PORT_LEG_RES", 0x80, 1, 0x4, [f 27 16 .rw 0x0, f 10 0 .rw 0x0]⟩,
  ⟨"PORT_EVENT_CNT", 0x90, 1, 0x4, [f 31 0 .rc 0x0]⟩,
  ⟨"PORT_WORD_CNT", 0x94, 1, 0x4, [f 31 0 .rc 0x0]⟩,
  ⟨"PORT_LOST_WORDS", 0x98, 1, 0x4, [f 31 0 .rc 0x0]⟩,
  ⟨"PORT_CRC_ERR", 0x9c, 1, 0x4, [f 31 0 .rc 0x0]⟩,
  ⟨"PORT_ECC_CORR", 0xa0, 1, 0x4, [f 31 0 .rc 0x0]⟩,
  ⟨"PORT_ECC_UNCORR", 0xa4, 1, 0x4, [f 31 0 .rc 0x0]⟩,
  ⟨"PORT_OTHER_PKT", 0xa8, 1, 0x4, [f 31 0 .rc 0x0]⟩,
  ⟨"PORT_PKT_FORMAT", 0xac, 1, 0x4, [f 31 0 .rc 0x0]⟩,
  ⟨"PORT_VES_REJECT", 0xb0, 1, 0x4, [f 31 0 .rc 0x0]⟩,
  ⟨"PORT_NO_TIME_DROP", 0xb4, 1, 0x4, [f 31 0 .rc 0x0]⟩,
  ⟨"PORT_RANGE_DROP", 0xb8, 1, 0x4, [f 31 0 .rc 0x0]⟩,
  ⟨"PORT_TIME_BACK", 0xbc, 1, 0x4, [f 31 0 .rc 0x0]⟩,
  ⟨"PORT_TRIG_CNT", 0xc0, 1, 0x4, [f 31 0 .rc 0x0]⟩,
  ⟨"PORT_EXT_SKIP", 0xc4, 1, 0x4, [f 31 0 .rc 0x0]⟩,
  ⟨"PORT_BIVOUAC_DROP", 0xc8, 1, 0x4, [f 31 0 .rc 0x0]⟩,
  ⟨"PORT_VES_LAST_REJ", 0xcc, 1, 0x4, [f 31 0 .ro 0x0]⟩,
  ⟨"PORT_STATUS_WORD", 0xd0, 1, 0x4, [f 31 0 .ro 0x0]⟩]

/-- The registers of Ing (R114). -/
def rowsIng : List RegRow := [
  ⟨"ING_SPILL_BASE", 0x40, 1, 0x4, [f 20 0 .rw 0x0]⟩,
  ⟨"ING_SPILL_SIZE", 0x44, 1, 0x4, [fx 11 0 .rw 0x0 (rng 0 2048)]⟩,
  ⟨"ING_SPILL_FILL", 0x48, 1, 0x4, [f 21 0 .ro 0x0]⟩,
  ⟨"ING_SPILL_PEAK", 0x4c, 1, 0x4, [f 21 0 .rc 0x0]⟩,
  ⟨"ING_EVENT_RATE", 0x50, 1, 0x4, [f 31 0 .ro 0x0]⟩]

/-- The registers of I3c (R115). -/
def rowsI3c : List RegRow := [
  ⟨"I3C_CFG", 0x40, 1, 0x4, [fx 15 8 .rw 0xa (nz), f 7 7 .rw 0x1, fx 3 0 .rw 0x0 (rng 0 3)]⟩,
  ⟨"I3C_XFER_CTRL", 0x44, 1, 0x4, [f 31 31 .wo 0x0, f 17 16 .rw 0x0, f 15 15 .rw 0x0, fx 5 0 .rw 0x0 (rng 0 32)]⟩,
  ⟨"I3C_XFER_STAT", 0x48, 1, 0x4, [f 7 4 .ro 0x0, f 0 0 .ro 0x0]⟩,
  ⟨"I3C_XFER_DATA", 0x50, 8, 0x4, [f 31 0 .rw 0x0]⟩,
  ⟨"I3C_JOIN_CONFLICT_CNT", 0x70, 1, 0x4, [f 31 0 .rc 0x0]⟩,
  ⟨"I3C_NACK_CNT", 0x74, 1, 0x4, [f 31 0 .rc 0x0]⟩,
  ⟨"I3C_NOADDR_CNT", 0x78, 1, 0x4, [f 31 0 .rc 0x0]⟩]

/-- The registers of TimeMain (R160). -/
def rowsTimeMain : List RegRow := [
  ⟨"TIME_CTRL", 0x40, 1, 0x4, [fx 17 9 .rw 0x32 (rng 1 500), f 8 8 .rw 0x0, fx 2 0 .rw 0x0 (rng 0 5)]⟩,
  ⟨"TIME_STATUS", 0x44, 1, 0x4, [f 8 8 .ro 0x1, f 7 7 .ro 0x0, f 6 6 .ro 0x0, f 5 5 .ro 0x0, f 3 0 .ro 0x0]⟩,
  ⟨"TIME_FT_LO", 0x48, 1, 0x4, [f 31 0 .ro 0x0]⟩,
  ⟨"TIME_FT_HI", 0x4c, 1, 0x4, [f 31 0 .ro 0x0]⟩,
  ⟨"TIME_RATE", 0x50, 1, 0x4, [f 31 0 .ro 0x0]⟩,
  ⟨"TIME_RATE_MAN", 0x54, 1, 0x4, [f 31 0 .rw 0x0]⟩,
  ⟨"TIME_OFFSET", 0x58, 1, 0x4, [f 31 0 .ro 0x0]⟩,
  ⟨"TIME_SLEW_REM", 0x5c, 1, 0x4, [f 31 0 .ro 0x0]⟩,
  ⟨"TIME_HOLD_AGE", 0x60, 1, 0x4, [f 31 0 .ro 0x0]⟩,
  ⟨"TIME_UNC", 0x64, 1, 0x4, [f 31 0 .ro 0x0]⟩,
  ⟨"TIME_HOLD_CFG", 0x68, 1, 0x4, [f 31 16 .rw 0x64, f 15 0 .rw 0x1]⟩,
  ⟨"TIME_LOOP", 0x6c, 1, 0x4, [f 7 4 .rw 0x3, f 3 0 .rw 0x7]⟩,
  ⟨"TIME_MASTER_ID0", 0x70, 1, 0x4, [f 31 0 .ro 0x0]⟩,
  ⟨"TIME_MASTER_ID1", 0x74, 1, 0x4, [f 31 0 .ro 0x0]⟩,
  ⟨"TIME_MASTER_PORT", 0x78, 1, 0x4, [f 31 16 .ro 0x0, f 15 8 .ro 0x0, f 7 0 .ro 0x0]⟩,
  ⟨"TIME_UNC_EXCEED_CNT", 0x7c, 1, 0x4, [f 31 0 .rc 0x0]⟩,
  ⟨"TIME_PPS_IN", 0x80, 1, 0x4, [f 16 16 .rw 0x0, f 15 0 .rw 0x0]⟩,
  ⟨"TIME_PPS_IN_BAD_CNT", 0x84, 1, 0x4, [f 31 0 .rc 0x0]⟩,
  ⟨"TIME_PPS_OUT", 0x88, 1, 0x4, [f 31 31 .rw 0x0, f 30 30 .rw 0x0, fx 29 27 .rw 0x0 (rng 0 4), fx 16 7 .rw 0x64 (rng 1 999)]⟩,
  ⟨"TIME_PPS_OUT_OFF", 0x8c, 1, 0x4, [fx 31 0 .rw 0x0 (fun v => v <= 499999999 || 4294967296 - 499999999 <= v)]⟩,
  ⟨"TIME_CAIRN", 0x90, 1, 0x4, [fx 23 0 .rw 0xffffff (nz)]⟩]

/-- The registers of TimePtp (R161). -/
def rowsTimePtp : List RegRow := [
  ⟨"TIME_PT_CFG", 0x40, 1, 0x4, [f 31 31 .rw 0x0, f 30 29 .rw 0x0, fx 28 27 .rw 0x0 (rng 0 2), f 26 26 .rw 0x0, fx 25 22 .rw 0x3 (rng 2 15), fx 21 16 .rw 0x8 (rng 1 63), f 15 8 .rw 0x0]⟩,
  ⟨"TIME_PT_STATUS", 0x44, 1, 0x4, [f 3 0 .ro 0x0]⟩,
  ⟨"TIME_PT_ASYM", 0x48, 1, 0x4, [f 31 0 .rw 0x0]⟩,
  ⟨"TIME_PT_SEG", 0x4c, 4, 0x4, [f 31 0 .ro 0x0]⟩,
  ⟨"TIME_PT_PATH", 0x5c, 1, 0x4, [f 31 0 .ro 0x0]⟩,
  ⟨"TIME_PT_HOLD_AGE", 0x60, 1, 0x4, [f 31 0 .ro 0x0]⟩,
  ⟨"TIME_PT_MASTER", 0x64, 3, 0x4, [f 31 0 .ro 0x0]⟩]

/-- The registers of TimeSrv (R162). -/
def rowsTimeSrv : List RegRow := [
  ⟨"TIME_SRV_CFG", 0x100, 32, 0x20, [f 31 16 .rw 0x0, fx 15 12 .rw 0x6 (rng 0 10), f 11 8 .rw 0x2, f 7 4 .rw 0x6]⟩,
  ⟨"TIME_SRV_SLEW", 0x104, 32, 0x20, [fx 8 0 .rw 0xc8 (rng 1 500)]⟩,
  ⟨"TIME_SRV_STATUS", 0x108, 32, 0x20, [f 1 0 .ro 0x0]⟩,
  ⟨"TIME_SRV_RATE", 0x10c, 32, 0x20, [f 31 0 .ro 0x0]⟩,
  ⟨"TIME_SRV_ERR", 0x110, 32, 0x20, [f 31 0 .ro 0x0]⟩,
  ⟨"TIME_SRV_RANGE_CNT", 0x114, 32, 0x20, [f 31 0 .rc 0x0]⟩,
  ⟨"TIME_SRV_PORT", 0x40, 1, 0x4, [f 4 0 .ro 0x0]⟩]

/-- The registers of TimeMp (R163). -/
def rowsTimeMp : List RegRow := [
  ⟨"TIME_MP_CFG", 0x40, 1, 0x4, [f 31 31 .rw 0x0, f 26 24 .rw 0x0]⟩,
  ⟨"TIME_MP_ANGLE_OFF", 0x44, 1, 0x4, [f 31 0 .rw 0x0]⟩,
  ⟨"TIME_MP_ANGLE", 0x48, 1, 0x4, [f 31 0 .ro 0x0]⟩,
  ⟨"TIME_MP_REV", 0x4c, 1, 0x4, [f 31 0 .ro 0x0]⟩,
  ⟨"TIME_MP_STATUS", 0x50, 1, 0x4, [f 1 1 .ro 0x0, f 0 0 .ro 0x0]⟩]

/-- The registers of TimeConv (R163). -/
def rowsTimeConv : List RegRow := [
  ⟨"TIME_CONV_IN_LO", 0x40, 2, 0x4, [f 31 0 .rw 0x0]⟩,
  ⟨"TIME_CONV_CTRL", 0x48, 1, 0x4, [f 31 31 .wo 0x0, fx 6 4 .rw 0x0 (rng 0 5), fx 2 0 .rw 0x0 (rng 0 5)]⟩,
  ⟨"TIME_CONV_STAT", 0x4c, 1, 0x4, [f 1 0 .ro 0x0]⟩,
  ⟨"TIME_CONV_OUT_LO", 0x50, 2, 0x4, [f 31 0 .ro 0x0]⟩]

/-- The registers of MotEnc (R184, R182). -/
def rowsMotEnc : List RegRow := [
  ⟨"MOT_ENC_CFG", 0x100, 8, 0x40, [f 31 31 .rw 0x0, f 30 28 .rw 0x1, f 27 27 .rw 0x0, f 26 26 .rw 0x0, f 25 25 .rw 0x0, f 24 24 .rw 0x0, f 23 21 .rw 0x0]⟩,
  ⟨"MOT_ENC_CPR", 0x104, 8, 0x40, [fx 23 0 .rw 0x1000 (nz)]⟩,
  ⟨"MOT_ENC_WIN", 0x108, 8, 0x40, [fx 31 16 .rw 0x3e8 (nz), fx 15 0 .rw 0x2710 (nz)]⟩,
  ⟨"MOT_ENC_SLIP_RATIO", 0x10c, 8, 0x40, [f 31 0 .rw 0x10000]⟩,
  ⟨"MOT_ENC_SLIP_CFG", 0x110, 8, 0x40, [f 31 16 .rw 0x100, fx 15 8 .rw 0x8 (nz), fx 7 0 .rw 0x40 (nz)]⟩,
  ⟨"MOT_ENC_SLIP_TOL", 0x114, 8, 0x40, [f 15 0 .rw 0x148]⟩,
  ⟨"MOT_ENC_POS", 0x118, 8, 0x40, [f 31 0 .ro 0x0]⟩,
  ⟨"MOT_ENC_VEL", 0x11c, 8, 0x40, [f 31 0 .ro 0x0]⟩,
  ⟨"MOT_ENC_STATUS", 0x120, 8, 0x40, [f 4 4 .ro 0x0, f 3 3 .ro 0x0, f 2 2 .ro 0x0, f 1 1 .ro 0x0, f 0 0 .ro 0x0]⟩,
  ⟨"MOT_ENC_QERR_CNT", 0x124, 8, 0x40, [f 31 0 .rc 0x0]⟩,
  ⟨"MOT_ENC_COUNT_ERR_CNT", 0x128, 8, 0x40, [f 31 0 .rc 0x0]⟩,
  ⟨"MOT_ENC_CAP_DROP", 0x12c, 8, 0x40, [f 31 0 .rc 0x0]⟩,
  ⟨"MOT_ENC_SLIP_CNT", 0x130, 8, 0x40, [f 31 0 .rc 0x0]⟩,
  ⟨"MOT_ENC_OVR", 0x134, 8, 0x40, [fx 1 0 .rw 0x0 (rng 0 2)]⟩,
  ⟨"MOT_IRQ_SRC0", 0x40, 1, 0x4, [f 3 0 .ro 0x0]⟩]

/-- The registers of MotImu (R185, R182). -/
def rowsMotImu : List RegRow := [
  ⟨"MOT_IMU_CFG", 0x100, 8, 0x40, [f 31 31 .rw 0x0, f 30 30 .rw 0x0, f 29 28 .rw 0x0, f 27 27 .rw 0x0, f 26 26 .rw 0x0, f 25 25 .rw 0x0, f 24 24 .rw 0x0, fx 23 22 .rw 0x1 (rng 1 2), fx 21 19 .rw 0x0 (rng 0 4), f 15 0 .rw 0x0]⟩,
  ⟨"MOT_IMU_I3C", 0x104, 8, 0x40, [f 6 0 .rw 0x0]⟩,
  ⟨"MOT_IMU_PERIOD", 0x108, 8, 0x40, [f 31 0 .rw 0x3d09]⟩,
  ⟨"MOT_IMU_LAT", 0x10c, 8, 0x40, [f 15 0 .rw 0x0]⟩,
  ⟨"MOT_IMU_STATUS", 0x11c, 8, 0x40, [f 1 0 .ro 0x0]⟩,
  ⟨"MOT_IMU_SAMPLE_CNT", 0x120, 8, 0x40, [f 31 0 .rc 0x0]⟩,
  ⟨"MOT_IMU_OVERRUN_CNT", 0x124, 8, 0x40, [f 31 0 .rc 0x0]⟩,
  ⟨"MOT_IMU_NACK_CNT", 0x128, 8, 0x40, [f 31 0 .rc 0x0]⟩,
  ⟨"MOT_IMU_CAP_DROP", 0x12c, 8, 0x40, [f 31 0 .rc 0x0]⟩,
  ⟨"MOT_IRQ_SRC1", 0x40, 1, 0x4, [f 3 0 .ro 0x0]⟩,
  ⟨"MOT_IMU_LAST0", 0x110, 8, 0x40, [f 31 0 .ro 0x0]⟩,
  ⟨"MOT_IMU_LAST1", 0x114, 8, 0x40, [f 31 0 .ro 0x0]⟩,
  ⟨"MOT_IMU_LAST2", 0x118, 8, 0x40, [f 31 0 .ro 0x0]⟩]

/-- The registers of MotDec (R186, R182, R183). -/
def rowsMotDec : List RegRow := [
  ⟨"MOT_DEC_CFG", 0x100, 16, 0x40, [f 31 31 .rw 0x0, f 30 30 .rw 0x0, f 29 27 .rw 0x0, fx 3 0 .rw 0x0 (rng 0 8)]⟩,
  ⟨"MOT_DEC_RESP", 0x104, 16, 0x40, [f 31 0 .rw 0x0]⟩,
  ⟨"MOT_DEC_DELAY", 0x108, 16, 0x40, [f 31 0 .ro 0x0]⟩,
  ⟨"MOT_DEC_STATUS", 0x10c, 16, 0x40, [f 1 0 .ro 0x0]⟩,
  ⟨"MOT_DEC_OUT_CNT", 0x110, 16, 0x40, [f 31 0 .rc 0x0]⟩,
  ⟨"MOT_DEC_SAT_CNT", 0x114, 16, 0x40, [f 31 0 .rc 0x0]⟩,
  ⟨"MOT_DEC_GAP_CNT", 0x118, 16, 0x40, [f 31 0 .rc 0x0]⟩,
  ⟨"MOT_DEC_FUS_DROP", 0x11c, 16, 0x40, [f 31 0 .rc 0x0]⟩,
  ⟨"MOT_IRQ_SRC2", 0x40, 1, 0x4, [f 3 0 .ro 0x0]⟩,
  ⟨"MOT_DEC_ROM_SEL", 0x44, 1, 0x4, [fx 3 0 .rw 0x0 (rng 0 11)]⟩,
  ⟨"MOT_DEC_ROM", 0x800, 64, 0x4, [f 31 0 .ro 0x0]⟩]

/-- The registers of FusMain (R218). -/
def rowsFusMain : List RegRow := [
  ⟨"FUS_CTRL", 0x40, 1, 0x4, [fx 21 12 .rw 0xa (rng 2 1000), fx 11 4 .rw 0x50 (nz)]⟩,
  ⟨"FUS_LATE", 0x44, 1, 0x4, [f 31 16 .rw 0x7d0, fx 15 0 .rw 0xc8 (nz)]⟩,
  ⟨"FUS_FLOW", 0x48, 1, 0x4, [fx 31 16 .rw 0x3c (nz), fx 15 8 .rw 0x4 (nz)]⟩,
  ⟨"FUS_FLOW_MIN", 0x4c, 1, 0x4, [fx 15 0 .rw 0x100 (nz)]⟩,
  ⟨"FUS_REG_VER", 0x50, 1, 0x4, [f 31 0 .ro 0x0]⟩,
  ⟨"FUS_REF_CFG", 0x54, 1, 0x4, [fx 31 16 .rw 0x64 (nz), fx 15 8 .rw 0x20 (nz), fx 7 0 .rw 0x8 (nz)]⟩,
  ⟨"FUS_REF_MINMEAS", 0x58, 1, 0x4, [fx 7 0 .rw 0x8 (nz)]⟩,
  ⟨"FUS_LATE_USED_CNT", 0x60, 1, 0x4, [f 31 0 .rc 0x0]⟩,
  ⟨"FUS_LATE_DROP_CNT", 0x64, 1, 0x4, [f 31 0 .rc 0x0]⟩,
  ⟨"FUS_AMEND_CNT", 0x68, 1, 0x4, [f 31 0 .rc 0x0]⟩,
  ⟨"FUS_DISPUTE_CNT", 0x6c, 1, 0x4, [f 31 0 .rc 0x0]⟩,
  ⟨"FUS_OFF_SHEET_CNT", 0x70, 1, 0x4, [f 31 0 .rc 0x0]⟩,
  ⟨"FUS_FLOW_LATE_EV", 0x74, 1, 0x4, [f 31 0 .rc 0x0]⟩,
  ⟨"FUS_REF_REJECT_CNT", 0x78, 1, 0x4, [f 31 0 .rc 0x0]⟩,
  ⟨"FUS_UNBARRED_CNT", 0x7c, 1, 0x4, [f 31 0 .rc 0x0]⟩,
  ⟨"FUS_HIST_DROP_CNT", 0x80, 1, 0x4, [f 31 0 .rc 0x0]⟩]

/-- The registers of FusBar (R219). -/
def rowsFusBar : List RegRow := [
  ⟨"FUS_BAR_CFG", 0x40, 1, 0x4, [f 31 31 .rw 0x0, f 30 26 .rw 0x0, fx 25 16 .rw 0xa0 (rng 10 1000), fx 15 12 .rw 0xa (rng 4 15)]⟩,
  ⟨"FUS_BAR_XC", 0x44, 1, 0x4, [f 12 0 .rw 0x1000]⟩,
  ⟨"FUS_BAR_PORTS", 0x48, 1, 0x4, [f 31 0 .rw 0x0]⟩,
  ⟨"FUS_BAR_WHEEL", 0x4c, 1, 0x4, [f 31 31 .rw 0x0, f 26 24 .rw 0x0, f 23 23 .rw 0x0, f 18 16 .rw 0x0,
    f 15 15 .rw 0x0, f 10 8 .rw 0x0, f 7 7 .rw 0x0, f 2 0 .rw 0x0]⟩,
  ⟨"FUS_BAR_WSCALE", 0x50, 4, 0x4, [f 31 0 .rw 0x10000]⟩,
  ⟨"FUS_BAR_INS", 0x60, 1, 0x4, [f 31 31 .rw 0x0, f 27 24 .rw 0x0, f 23 23 .rw 0x0, f 19 16 .rw 0x0,
    f 15 15 .rw 0x0, f 11 8 .rw 0x0, f 7 7 .rw 0x0, f 3 0 .rw 0x0]⟩,
  ⟨"FUS_BAR_IMAP", 0x64, 4, 0x4, [fx 23 20 .rw 0x5 (fun v => v % 8 <= 5), fx 19 16 .rw 0x4 (fun v => v % 8 <= 5),
    fx 15 12 .rw 0x3 (fun v => v % 8 <= 5), fx 11 8 .rw 0x2 (fun v => v % 8 <= 5), fx 7 4 .rw 0x1 (fun v => v % 8 <= 5),
    fx 3 0 .rw 0x0 (fun v => v % 8 <= 5)]⟩,
  ⟨"FUS_BAR_ISCALE", 0x74, 4, 0x4, [f 31 16 .rw 0x100, f 15 0 .rw 0x100]⟩,
  ⟨"FUS_BAR_FLOW", 0x84, 4, 0x4, [f 31 0 .rw 0x0]⟩,
  ⟨"FUS_BAR_VOTE", 0x94, 1, 0x4, [fx 31 24 .rw 0x4 (nz), f 23 16 .rw 0x20, fx 15 0 .rw 0x100 (nz)]⟩,
  ⟨"FUS_BAR_FLAGS", 0xe0, 1, 0x4, [f 17 9 .ro 0x0, f 8 0 .ro 0x0]⟩,
  ⟨"FUS_BAR_SEQ", 0xe4, 1, 0x4, [f 31 0 .ro 0x0]⟩,
  ⟨"FUS_BAR_IRQ_SRC", 0xe8, 1, 0x4, [f 6 0 .ro 0x0]⟩,
  ⟨"FUS_BAR_SRC_STAT", 0x100, 108, 0x4, [f 31 16 .ro 0x0, f 15 8 .ro 0x0, fx 3 2 .rw 0x0 (rng 0 2), f 1 0 .ro 0x3]⟩,
  ⟨"FUS_BAR_POSE", 0x2c0, 16, 0x4, [f 31 0 .ro 0x0]⟩,
  ⟨"FUS_BAR_TOL", 0x98, 2, 0x4, [f 31 0 .rw 0xccd]⟩,
  ⟨"FUS_BAR_TOL2", 0xa0, 1, 0x4, [f 31 0 .rw 0x10c7]⟩,
  ⟨"FUS_BAR_TOL3", 0xa4, 3, 0x4, [f 31 0 .rw 0xccd]⟩,
  ⟨"FUS_BAR_TOL6", 0xb0, 3, 0x4, [f 31 0 .rw 0x10c7]⟩,
  ⟨"FUS_BAR_AMEND", 0xbc, 2, 0x4, [f 31 0 .rw 0x666]⟩,
  ⟨"FUS_BAR_AMEND2", 0xc4, 1, 0x4, [f 31 0 .rw 0x863]⟩,
  ⟨"FUS_BAR_AMEND3", 0xc8, 3, 0x4, [f 31 0 .rw 0x666]⟩,
  ⟨"FUS_BAR_AMEND6", 0xd4, 3, 0x4, [f 31 0 .rw 0x863]⟩]

/-- The registers of FusReg (R220). -/
def rowsFusReg : List RegRow := [
  ⟨"FUS_OVL", 0x40, 32, 0x4, [f 31 31 .rw 0x0, f 30 26 .rw 0x0, f 25 21 .rw 0x0]⟩,
  ⟨"FUS_GRID_CTRL", 0x100, 32, 0x10, [f 31 31 .wo 0x0, f 30 30 .rw 0x1, f 17 17 .ro 0x0, f 16 16 .ro 0x0, f 15 0 .ro 0x0]⟩,
  ⟨"FUS_GRID_CORR", 0x104, 32, 0x10, [f 31 16 .ro 0x0, f 15 0 .ro 0x0]⟩,
  ⟨"FUS_GRID_CORR2", 0x108, 32, 0x10, [f 31 16 .ro 0x0, f 15 0 .ro 0x0]⟩,
  ⟨"FUS_GRID_REF_VER", 0x10c, 32, 0x10, [f 31 0 .ro 0x0]⟩,
  ⟨"FUS_REG_IRQ_PORT", 0xc0, 1, 0x4, [f 4 0 .ro 0x0]⟩]

/-- The registers of FabMain (R246). -/
def rowsFabMain : List RegRow := [
  ⟨"FAB_CAIRN_FT_LO", 0x40, 1, 0x4, [f 31 0 .ro 0x0]⟩,
  ⟨"FAB_CAIRN_FT_HI", 0x44, 1, 0x4, [f 31 0 .ro 0x0]⟩,
  ⟨"FAB_CAIRN_SEQ", 0x48, 1, 0x4, [f 20 16 .ro 0x0, f 15 0 .ro 0x0]⟩,
  ⟨"FAB_VC_STALL", 0x4c, 3, 0x4, [f 31 0 .rc 0x0]⟩,
  ⟨"FAB_UNROUTED_CNT", 0x58, 1, 0x4, [f 31 0 .rc 0x0]⟩,
  ⟨"FAB_RESET_DROP_CNT", 0x5c, 1, 0x4, [f 31 0 .rc 0x0]⟩]

/-- The registers of FabRgn (R247). -/
def rowsFabRgn : List RegRow := [
  ⟨"FAB_RGN_CTRL", 0x40, 1, 0x4, [f 31 31 .wo 0x0, f 30 30 .wo 0x0, f 7 0 .rw 0x0]⟩,
  ⟨"FAB_RGN_DATA", 0x44, 4, 0x4, [f 31 0 .rw 0x0]⟩]

/-- The registers of FabFo (R248). -/
def rowsFabFo : List RegRow := [
  ⟨"FAB_FO_BASE", 0x40, 1, 0x4, [f 8 0 .rwl 0x0]⟩,
  ⟨"FAB_FO_MSG_CNT", 0x44, 1, 0x4, [f 31 0 .rc 0x0]⟩,
  ⟨"FAB_FO_NULL_CNT", 0x48, 1, 0x4, [f 31 0 .rc 0x0]⟩,
  ⟨"FAB_FO_INVALID_CNT", 0x4c, 1, 0x4, [f 31 0 .rc 0x0]⟩,
  ⟨"FAB_FO_PINNED", 0x50, 1, 0x4, [f 22 0 .ro 0x0]⟩]

/-- The registers of Sb (R249). -/
def rowsSb : List RegRow := [
  ⟨"SB_CLOSE_TMO", 0x40, 1, 0x4, [fx 15 0 .rw 0x64 (nz)]⟩,
  ⟨"SB_SLOT_CFG", 0x100, 128, 0x10, [f 31 31 .rw 0x0, fx 30 28 .rw 0x0 (rng 0 4), f 27 26 .rw 0x0, f 25 13 .rw 0x0]⟩,
  ⟨"SB_SLOT_GEOM", 0x104, 128, 0x10, [f 31 19 .rw 0x0, fx 18 15 .rw 0x0 (rng 0 13), f 14 10 .rw 0x0]⟩,
  ⟨"SB_SLOT_BASE", 0x108, 128, 0x10, [f 21 6 .rw 0x0]⟩,
  ⟨"SB_SLOT_WIN", 0x10c, 128, 0x10, [f 31 16 .rw 0x0, fx 13 0 .rw 0x0 (fun v => v != 16383)]⟩,
  ⟨"SB_OUTSIDE_CNT", 0x900, 1, 0x4, [f 31 0 .rc 0x0]⟩,
  ⟨"SB_TYPE_CNT", 0x904, 1, 0x4, [f 31 0 .rc 0x0]⟩,
  ⟨"SB_LATE_CNT", 0x908, 1, 0x4, [f 31 0 .rc 0x0]⟩,
  ⟨"SB_SAT_CNT", 0x90c, 1, 0x4, [f 31 0 .rc 0x0]⟩,
  ⟨"SB_STALL_FCY", 0x910, 1, 0x4, [f 31 0 .rc 0x0]⟩,
  ⟨"SB_IRQ_SLOT", 0x914, 1, 0x4, [f 6 0 .ro 0x0]⟩]

/-- The registers of Nc (R283, R284, R285). -/
def rowsNc : List RegRow := [
  ⟨"NC_MEM_BASE", 0x40, 1, 0x4, [f 21 6 .rw 0x0]⟩,
  ⟨"NC_SYN_BASE", 0x44, 1, 0x4, [f 21 6 .rw 0x0]⟩,
  ⟨"NC_SYN_SIZE", 0x48, 1, 0x4, [fx 19 0 .rw 0x0 (rng 0 524288)]⟩,
  ⟨"NC_HOLD_BASE", 0x4c, 1, 0x4, [f 21 6 .rw 0x0]⟩,
  ⟨"NC_HOLD_CAP", 0x50, 1, 0x4, [f 15 0 .rw 0x0]⟩,
  ⟨"NC_IN_CFG", 0x54, 1, 0x4, [f 31 31 .rw 0x0, f 27 26 .rw 0x0, f 25 13 .rw 0x0]⟩,
  ⟨"NC_IN_GEOM", 0x58, 1, 0x4, [fx 31 18 .rw 0x1 (rng 1 8192), fx 17 14 .rw 0x0 (rng 0 13)]⟩,
  ⟨"NC_IN_BASE", 0x5c, 1, 0x4, [f 21 6 .rw 0x0]⟩,
  ⟨"NC_STEP", 0x60, 1, 0x4, [fx 31 16 .rw 0x80 (nz), f 13 12 .rw 0x1, fx 10 0 .rw 0x14 (rng 1 1024)]⟩,
  ⟨"NC_STRETCH", 0x64, 1, 0x4, [fx 25 24 .rw 0x0 (rng 0 2), f 23 0 .rw 0xfa]⟩,
  ⟨"NC_TRACE_BASE", 0x68, 1, 0x4, [f 21 6 .rw 0x0]⟩,
  ⟨"NC_TRACE_CAP", 0x6c, 1, 0x4, [f 15 0 .rw 0x0]⟩,
  ⟨"NC_STATUS", 0x70, 1, 0x4, [f 18 16 .ro 0x0, f 15 15 .ro 0x0, f 13 0 .ro 0x0]⟩,
  ⟨"NC_STEP_END_LO", 0x74, 1, 0x4, [f 31 0 .ro 0x0]⟩,
  ⟨"NC_STEP_END_HI", 0x78, 1, 0x4, [f 31 0 .ro 0x0]⟩,
  ⟨"NC_FRONT_LO", 0x7c, 1, 0x4, [f 31 0 .ro 0x0]⟩,
  ⟨"NC_FRONT_HI", 0x80, 1, 0x4, [f 31 0 .ro 0x0]⟩,
  ⟨"NC_HOLD_FILL", 0x84, 1, 0x4, [f 31 16 .rc 0x0, f 15 0 .ro 0x0]⟩,
  ⟨"NC_STEP_CNT", 0xa0, 1, 0x4, [f 31 0 .rc 0x0]⟩,
  ⟨"NC_SPIKE_CNT", 0xa4, 1, 0x4, [f 31 0 .rc 0x0]⟩,
  ⟨"NC_SYN_CNT", 0xa8, 1, 0x4, [f 31 0 .rc 0x0]⟩,
  ⟨"NC_SAT_CNT", 0xac, 1, 0x4, [f 31 0 .rc 0x0]⟩,
  ⟨"NC_STATE_SAT_CNT", 0xb0, 1, 0x4, [f 31 0 .rc 0x0]⟩,
  ⟨"NC_NAN_CNT", 0xb4, 1, 0x4, [f 31 0 .rc 0x0]⟩,
  ⟨"NC_STRETCH_CNT", 0xb8, 1, 0x4, [f 31 0 .rc 0x0]⟩,
  ⟨"NC_DROP_STEPS", 0xbc, 1, 0x4, [f 31 0 .rc 0x0]⟩,
  ⟨"NC_DROP_EV", 0xc0, 1, 0x4, [f 31 0 .rc 0x0]⟩,
  ⟨"NC_LATE_CNT", 0xc4, 1, 0x4, [f 31 0 .rc 0x0]⟩,
  ⟨"NC_HOLD_FULL_CNT", 0xc8, 1, 0x4, [f 31 0 .rc 0x0]⟩,
  ⟨"NC_TRACE_FULL_CNT", 0xcc, 1, 0x4, [f 31 0 .rc 0x0]⟩,
  ⟨"NC_SYN_RANGE_CNT", 0xd0, 1, 0x4, [f 31 0 .rc 0x0]⟩,
  ⟨"NC_INACTIVE_CNT", 0xd4, 1, 0x4, [f 31 0 .rc 0x0]⟩,
  ⟨"NC_IN_OUTSIDE_CNT", 0xd8, 1, 0x4, [f 31 0 .rc 0x0]⟩,
  ⟨"NC_OUT_STALL_CCY", 0xdc, 1, 0x4, [f 31 0 .rc 0x0]⟩,
  ⟨"NC_CLS_CFG", 0x100, 16, 0x4, [f 31 31 .rw 0x0, f 30 30 .rw 0x0, f 29 29 .rw 0x0, fx 26 22 .rw 0x0 (rng 0 24), fx 5 0 .rw 0x0 (rng 0 32)]⟩,
  ⟨"NC_CLS_K", 0x200, 64, 0x4, [f 31 16 .rw 0x0, f 15 0 .rw 0x0]⟩,
  ⟨"NC_UPROG", 0x800, 512, 0x4, [f 31 0 .rw 0x0]⟩]

/-- The registers of AncArr (R316). -/
def rowsAncArr : List RegRow := [
  ⟨"ANC_VAL_LO", 0x0, 16384, 0x10, [f 31 0 .ro 0x0]⟩,
  ⟨"ANC_VAL_HI", 0x4, 16384, 0x10, [f 31 0 .ro 0x0]⟩,
  ⟨"ANC_CTRL", 0x8, 16384, 0x10, [f 31 31 .ro 0x0, f 30 30 .ro 0x0, f 23 16 .ro 0x0, f 11 8 .rw 0xf, f 7 0 .ro 0x0]⟩,
  ⟨"ANC_OP", 0xc, 16384, 0x10, [f 31 30 .wo 0x0, f 15 0 .wo 0x0]⟩]

/-- The registers of AncCtl (R323). -/
def rowsAncCtl : List RegRow := [
  ⟨"ANC_STALE_CNT", 0x40, 1, 0x4, [f 31 0 .rc 0x0]⟩,
  ⟨"ANC_FOREIGN_CNT", 0x44, 1, 0x4, [f 31 0 .rc 0x0]⟩,
  ⟨"ANC_FAULT_CNT", 0x48, 1, 0x4, [f 31 0 .rc 0x0]⟩,
  ⟨"ANC_OVF_CNT", 0x4c, 1, 0x4, [f 31 0 .rc 0x0]⟩,
  ⟨"ANC_LAST", 0x50, 1, 0x4, [f 15 14 .ro 0x0, f 13 0 .ro 0x0]⟩]

/-- The registers of Tile (R326, R352). -/
def rowsTile : List RegRow := [
  ⟨"TT_STATUS", 0x40, 1, 0x4, [f 15 15 .ro 0x0, f 14 14 .ro 0x0, f 13 13 .ro 0x0, f 10 8 .ro 0x0, f 3 0 .ro 0x0]⟩,
  ⟨"TT_QUEUE", 0x44, 1, 0x4, [f 23 16 .ro 0x0, f 15 8 .ro 0x0, f 7 0 .ro 0x0]⟩,
  ⟨"TT_RET_CTRL", 0x48, 1, 0x4, [f 0 0 .rw 0x0]⟩,
  ⟨"TT_RET_STATUS", 0x4c, 1, 0x4, [f 31 16 .ro 0x0, f 1 0 .ro 0x0]⟩,
  ⟨"TT_SRAM_UE_ADDR", 0x50, 1, 0x4, [f 31 31 .ro 0x0, f 21 0 .ro 0x0]⟩,
  ⟨"TT_WAVE_LO", 0x80, 1, 0x4, [f 31 0 .ro 0x0]⟩,
  ⟨"TT_WAVE_HI", 0x84, 1, 0x4, [f 31 0 .ro 0x0]⟩,
  ⟨"TT_OPND_STALL_CCY", 0x88, 1, 0x4, [f 31 0 .rc 0x0]⟩,
  ⟨"TT_ANC_WAIT_CCY", 0x8c, 1, 0x4, [f 31 0 .rc 0x0]⟩,
  ⟨"TT_BANK_CONFLICT_CCY", 0x90, 1, 0x4, [f 31 0 .rc 0x0]⟩,
  ⟨"TT_CVT_SAT_CNT", 0x94, 1, 0x4, [f 31 0 .rc 0x0]⟩,
  ⟨"TT_NAN_CNT", 0x98, 1, 0x4, [f 31 0 .rc 0x0]⟩,
  ⟨"TT_ACC_WRAP_CNT", 0x9c, 1, 0x4, [f 31 0 .rc 0x0]⟩,
  ⟨"TT_SRAM_CE_CNT", 0xa0, 1, 0x4, [f 31 0 .rc 0x0]⟩,
  ⟨"TT_SRAM_UE_CNT", 0xa4, 1, 0x4, [f 31 0 .rc 0x0]⟩,
  ⟨"TT_STASH_LINES", 0xa8, 1, 0x4, [f 31 0 .rc 0x0]⟩,
  ⟨"TT_STASH_XFER_CNT", 0xac, 1, 0x4, [f 31 0 .rc 0x0]⟩,
  ⟨"TT_STASH_FAULT_CNT", 0xb0, 1, 0x4, [f 31 0 .rc 0x0]⟩,
  ⟨"TT_CMD_CNT", 0xb4, 1, 0x4, [f 31 0 .rc 0x0]⟩,
  ⟨"WW_STATUS", 0x400, 1, 0x4, [f 15 8 .ro 0x0, f 7 7 .ro 0x0, f 6 6 .ro 0x0, f 2 0 .ro 0x0]⟩,
  ⟨"WW_POS", 0x404, 1, 0x4, [f 31 16 .ro 0x0, f 15 0 .ro 0x0]⟩,
  ⟨"WW_LAST_STATUS", 0x408, 1, 0x4, [f 15 0 .ro 0x0]⟩,
  ⟨"WW_LAST_OUT", 0x40c, 1, 0x4, [f 31 16 .ro 0x0, f 15 0 .ro 0x0]⟩,
  ⟨"WW_LAST_COMP_BYTES", 0x410, 1, 0x4, [f 21 0 .ro 0x0]⟩,
  ⟨"WW_HALO_WAIT_CCY", 0x414, 1, 0x4, [f 31 0 .rc 0x0]⟩,
  ⟨"WW_HALO_STALE_CNT", 0x418, 1, 0x4, [f 31 0 .rc 0x0]⟩,
  ⟨"WW_COMP_STALL_CCY", 0x41c, 1, 0x4, [f 31 0 .rc 0x0]⟩,
  ⟨"WW_PAD_SAMPLES", 0x420, 1, 0x4, [f 31 0 .rc 0x0]⟩,
  ⟨"WW_EMPTY_CNT", 0x424, 1, 0x4, [f 31 0 .rc 0x0]⟩,
  ⟨"WW_ZERO_DIM_CNT", 0x428, 1, 0x4, [f 31 0 .rc 0x0]⟩,
  ⟨"WW_GEOM_ERR_CNT", 0x42c, 1, 0x4, [f 31 0 .rc 0x0]⟩,
  ⟨"WW_HEAD", 0x440, 32, 0x4, [f 31 0 .ro 0x0]⟩,
  ⟨"WW_VHEAD", 0x4c0, 32, 0x4, [f 31 0 .ro 0x0]⟩]

/-- The registers of Cc (R327, R428). -/
def rowsCc : List RegRow := [
  ⟨"CC_SCRUB", 0x100, 1, 0x4, [f 31 31 .rw 0x1, fx 7 0 .rw 0x10 (nz)]⟩,
  ⟨"CC_SRAM_CE_CNT", 0x104, 1, 0x4, [f 31 0 .rc 0x0]⟩,
  ⟨"CC_SRAM_UE_CNT", 0x108, 1, 0x4, [f 31 0 .rc 0x0]⟩,
  ⟨"CC_SRAM_UE_ADDR", 0x10c, 1, 0x4, [f 31 31 .ro 0x0, f 22 0 .ro 0x0]⟩,
  ⟨"CC_RET_CTRL", 0x110, 1, 0x4, [f 0 0 .rw 0x0]⟩,
  ⟨"CC_RET_STATUS", 0x114, 1, 0x4, [f 31 16 .ro 0x0, f 1 0 .ro 0x0]⟩,
  ⟨"CC_PART", 0x40, 1, 0x4, [f 3 3 .ro 0x0, f 2 0 .ro 0x0]⟩,
  ⟨"CC_BIND", 0x44, 1, 0x4, [f 31 16 .ro 0x0, f 3 0 .ro 0x0]⟩,
  ⟨"CC_FW_VER", 0x48, 1, 0x4, [f 31 0 .ro 0x0]⟩,
  ⟨"CC_FW_GEN", 0x4c, 1, 0x4, [f 7 0 .ro 0x0]⟩,
  ⟨"CC_TILES_BOUND", 0x50, 1, 0x4, [f 7 0 .ro 0x0]⟩,
  ⟨"CC_NC_BOUND", 0x54, 1, 0x4, [f 31 0 .ro 0x0]⟩,
  ⟨"CC_CMD_CNT", 0x58, 1, 0x4, [f 31 0 .rc 0x0]⟩,
  ⟨"CC_STASH_LATE_CNT", 0x5c, 1, 0x4, [f 31 0 .rc 0x0]⟩,
  ⟨"CC_RELOAD_CNT", 0x60, 1, 0x4, [f 31 0 .rc 0x0]⟩]

/-- The registers of ApxMain (R380). -/
def rowsApxMain : List RegRow := [
  ⟨"APX_LEAN_STAT", 0x40, 1, 0x4, [f 20 18 .ro 0x0, f 17 15 .ro 0x0, f 14 14 .ro 0x0, f 11 8 .ro 0x0, f 2 0 .ro 0x0]⟩,
  ⟨"APX_LEAN_OVR", 0x44, 1, 0x4, [fx 5 4 .rw 0x0 (rng 0 2), fx 2 0 .rw 0x4 (rng 0 5)]⟩,
  ⟨"APX_POLICY", 0x48, 1, 0x4, [fx 31 16 .rw 0x3c (nz), fx 15 8 .rw 0x1 (nz), fx 2 0 .rw 0x4 (rng 0 4)]⟩,
  ⟨"APX_HYST_STAT", 0x4c, 1, 0x4, [f 31 8 .ro 0x0, f 4 0 .ro 0x1]⟩,
  ⟨"APX_REPLAY_RATE", 0x50, 1, 0x4, [f 31 0 .ro 0x0]⟩,
  ⟨"APX_REPLAY_CEIL", 0x54, 1, 0x4, [f 31 0 .ro 0xffffffff]⟩,
  ⟨"APX_REPLAY_LO", 0x58, 1, 0x4, [f 31 0 .ro 0x0]⟩,
  ⟨"APX_REPLAY_HI", 0x5c, 1, 0x4, [f 31 0 .ro 0x0]⟩,
  ⟨"APX_BEAT_LO", 0x60, 1, 0x4, [f 31 0 .ro 0x0]⟩,
  ⟨"APX_BEAT_HI", 0x64, 1, 0x4, [f 31 0 .ro 0x0]⟩,
  ⟨"APX_STEP_DOWN_CNT", 0x68, 1, 0x4, [f 31 0 .rc 0x0]⟩,
  ⟨"APX_STEP_UP_CNT", 0x6c, 1, 0x4, [f 31 0 .rc 0x0]⟩,
  ⟨"APX_LEAN0_MM_CNT", 0x70, 1, 0x4, [f 31 0 .rc 0x0]⟩,
  ⟨"APX_RES_MS", 0x80, 6, 0x4, [f 31 0 .rc 0x0]⟩,
  ⟨"APX_TT_REPLAY", 0x200, 128, 0x4, [f 31 0 .rc 0x0]⟩,
  ⟨"APX_NC_REPLAY", 0x400, 512, 0x4, [f 31 0 .rc 0x0]⟩]

/-- The registers of ApxChk (R381). -/
def rowsApxChk : List RegRow := [
  ⟨"APX_CHK_CFG", 0x40, 1, 0x4, [f 31 31 .rw 0x1, f 30 30 .rw 0x1, f 22 16 .rw 0x7f, fx 4 0 .rw 0x8 (rng 0 16)]⟩,
  ⟨"APX_CHK_WIN", 0x44, 1, 0x4, [f 31 24 .ro 0x0, f 11 0 .ro 0x0]⟩,
  ⟨"APX_CHK_CMP_LO", 0x48, 1, 0x4, [f 31 0 .ro 0x0]⟩,
  ⟨"APX_CHK_CMP_HI", 0x4c, 1, 0x4, [f 31 0 .ro 0x0]⟩,
  ⟨"APX_CHK_MM_CNT", 0x50, 1, 0x4, [f 31 0 .rc 0x0]⟩,
  ⟨"APX_CHK_SKIP_CNT", 0x54, 1, 0x4, [f 31 0 .rc 0x0]⟩,
  ⟨"APX_CHK_QFILL", 0x58, 1, 0x4, [f 10 0 .ro 0x0]⟩,
  ⟨"APX_CHK_LAST", 0x5c, 1, 0x4, [f 31 31 .ro 0x0, f 30 30 .ro 0x0, f 29 27 .ro 0x0, f 26 18 .ro 0x0, f 13 0 .ro 0x0]⟩,
  ⟨"APX_CHK_LAST_SEQ", 0x60, 1, 0x4, [f 31 0 .ro 0x0]⟩,
  ⟨"APX_CHK_LAST_FT_LO", 0x64, 1, 0x4, [f 31 0 .ro 0x0]⟩,
  ⟨"APX_CHK_LAST_FT_HI", 0x68, 1, 0x4, [f 31 0 .ro 0x0]⟩]

/-- The registers of ApxPair (R382). -/
def rowsApxPair : List RegRow := [
  ⟨"APX_ESC_GUARD", 0x40, 1, 0x4, [f 15 0 .rw 0x14]⟩,
  ⟨"APX_ESC_EXACT_LATE", 0x44, 1, 0x4, [f 31 0 .rc 0x0]⟩,
  ⟨"APX_ESC_PAIRS", 0x48, 1, 0x4, [f 6 0 .ro 0x0]⟩,
  ⟨"APX_ESC_CFG", 0x100, 64, 0x10, [f 31 31 .rw 0x0, f 24 16 .ro 0x0, f 8 0 .ro 0x0]⟩,
  ⟨"APX_ESC_THR", 0x104, 64, 0x10, [f 31 0 .rw 0x0]⟩,
  ⟨"APX_ESC_CNT", 0x108, 64, 0x10, [f 31 0 .rc 0x0]⟩,
  ⟨"APX_ESC_LEAN_CNT", 0x10c, 64, 0x10, [f 31 0 .rc 0x0]⟩]

/-- The registers of OutMain (R404). -/
def rowsOutMain : List RegRow := [
  ⟨"OUT_CFG", 0x40, 1, 0x4, [f 0 0 .rw 0x0]⟩,
  ⟨"OUT_SHEET", 0x44, 1, 0x4, [f 31 31 .rw 0x0, f 1 0 .rw 0x0]⟩,
  ⟨"OUT_SHEET_ANGLE0", 0x48, 1, 0x4, [f 31 0 .rw 0x0]⟩,
  ⟨"OUT_SHEET_CUR", 0x4c, 1, 0x4, [f 31 0 .ro 0x0]⟩,
  ⟨"OUT_TRACK_CFG", 0x50, 1, 0x4, [f 31 31 .rw 0x0, fx 30 16 .rw 0x10 (nz), fx 15 0 .rw 0x3e8 (nz)]⟩,
  ⟨"OUT_VSLACK_MIN", 0x54, 1, 0x4, [f 31 0 .rc 0x7fffffff]⟩,
  ⟨"OUT_VLAT_MAX", 0x58, 1, 0x4, [f 31 0 .rc 0x0]⟩,
  ⟨"OUT_VERDICT_CNT", 0x60, 1, 0x4, [f 31 0 .rc 0x0]⟩,
  ⟨"OUT_NORESULT_CNT", 0x64, 1, 0x4, [f 31 0 .rc 0x0]⟩,
  ⟨"OUT_LATE_RESULT_CNT", 0x68, 1, 0x4, [f 31 0 .rc 0x0]⟩,
  ⟨"OUT_UNTILED_CNT", 0x6c, 1, 0x4, [f 31 0 .rc 0x0]⟩,
  ⟨"OUT_TRACK_FULL_CNT", 0x70, 1, 0x4, [f 31 0 .rc 0x0]⟩,
  ⟨"OUT_CORR_BAD_CNT", 0x74, 1, 0x4, [f 31 0 .rc 0x0]⟩,
  ⟨"OUT_AMEND_CNT", 0x78, 1, 0x4, [f 31 0 .rc 0x0]⟩,
  ⟨"OUT_ETH0_ADDR", 0x80, 6, 0x4, [f 31 0 .rw 0x0]⟩,
  ⟨"OUT_ETH1_ADDR", 0xa0, 6, 0x4, [f 31 0 .rw 0x0]⟩]

/-- The registers of OutBarUnit (R405). -/
def rowsOutBarUnit : List RegRow := [
  ⟨"OUT_BAR_X", 0x100, 8, 0x20, [f 28 16 .rw 0x0, f 12 0 .rw 0x1fff]⟩,
  ⟨"OUT_BAR_TILE", 0x104, 8, 0x20, [fx 31 16 .rw 0x26 (rng 1 8192), fx 15 0 .rw 0x26 (rng 1 8192)]⟩,
  ⟨"OUT_BAR_YMIN", 0x108, 8, 0x20, [f 31 0 .rw 0x0]⟩,
  ⟨"OUT_BAR_OFFS", 0x10c, 8, 0x20, [f 31 0 .rw 0x0]⟩,
  ⟨"OUT_UNIT_CFG", 0x400, 16, 0x20, [f 31 31 .rw 0x0, f 30 30 .rw 0x0, f 15 0 .rw 0x7d0]⟩,
  ⟨"OUT_UNIT_DL", 0x404, 16, 0x20, [fx 31 0 .rw 0x10000 (nz)]⟩,
  ⟨"OUT_UNIT_SLACK_LAST", 0x408, 16, 0x20, [f 31 0 .ro 0x0]⟩,
  ⟨"OUT_UNIT_SLACK_MIN", 0x40c, 16, 0x20, [f 31 0 .rc 0x7fffffff]⟩,
  ⟨"OUT_UNIT_MISS_CNT", 0x410, 16, 0x20, [f 31 0 .rc 0x0]⟩,
  ⟨"OUT_UNIT_HELD_CNT", 0x414, 16, 0x20, [f 31 0 .rc 0x0]⟩,
  ⟨"OUT_UNIT_IRQ_SRC", 0x40, 1, 0x4, [f 3 0 .ro 0x0]⟩]

/-- The registers of OutStr (R406). -/
def rowsOutStr : List RegRow := [
  ⟨"OUT_STR_CFG", 0x40, 1, 0x4, [f 31 31 .rw 0x0, f 30 28 .rw 0x0, f 27 25 .rw 0x0, fx 24 22 .rw 0x0 (rng 0 3), f 18 11 .rw 0x1, f 10 0 .rw 0x0]⟩,
  ⟨"OUT_STR_RING_LO", 0x44, 2, 0x4, [f 31 0 .rw 0x0]⟩,
  ⟨"OUT_STR_RING", 0x4c, 1, 0x4, [f 31 21 .rw 0x0, fx 4 0 .rw 0xc (rng 12 30)]⟩,
  ⟨"OUT_STR_HEAD", 0x50, 1, 0x4, [f 31 0 .ro 0x40]⟩,
  ⟨"OUT_STR_TAIL", 0x54, 1, 0x4, [f 31 0 .rw 0x40]⟩,
  ⟨"OUT_STR_DST_IP", 0x58, 4, 0x4, [f 31 0 .rw 0x0]⟩,
  ⟨"OUT_STR_DST_MAC_LO", 0x68, 2, 0x4, [f 31 0 .rw 0x0]⟩,
  ⟨"OUT_STR_PORTS", 0x70, 1, 0x4, [f 31 16 .rw 0x0, f 15 0 .rw 0x0]⟩,
  ⟨"OUT_STR_UDP", 0x74, 1, 0x4, [fx 31 18 .rw 0x5dc (rng 576 8972), fx 17 16 .rw 0x0 (rng 0 1), fx 15 0 .rw 0x64 (nz)]⟩,
  ⟨"OUT_STR_REC_CNT", 0x80, 1, 0x4, [f 31 0 .rc 0x0]⟩,
  ⟨"OUT_STR_DROP_CNT", 0x84, 1, 0x4, [f 31 0 .rc 0x0]⟩,
  ⟨"OUT_STR_DGRAM_CNT", 0x88, 1, 0x4, [f 31 0 .rc 0x0]⟩,
  ⟨"OUT_STR_BUF_FILL", 0x8c, 1, 0x4, [f 31 0 .ro 0x0]⟩]

/-- The registers of Win (R436). -/
def rowsWin : List RegRow := [
  ⟨"HIF_W_STATUS", 0x8000, 1, 0x4, [f 31 24 .ro 0x0, f 23 20 .ro 0x0, f 9 0 .ro 0x0]⟩,
  ⟨"HIF_W_NEXT_SEQ", 0x8004, 1, 0x4, [f 31 0 .ro 0x0]⟩,
  ⟨"HIF_W_CQ_BASE_LO", 0x8008, 1, 0x4, [f 31 12 .rw 0x0]⟩,
  ⟨"HIF_W_CQ_BASE_HI", 0x800c, 1, 0x4, [f 31 0 .rw 0x0]⟩,
  ⟨"HIF_W_CQ_CFG", 0x8010, 1, 0x4, [f 31 31 .rw 0x0, f 30 30 .rw 0x0, fx 24 20 .rw 0x6 (rng 6 20), f 8 0 .rw 0x0]⟩,
  ⟨"HIF_W_CQ_HEAD", 0x8014, 1, 0x4, [f 19 0 .rw 0x0]⟩,
  ⟨"HIF_W_CQ_TAIL", 0x8018, 1, 0x4, [f 19 0 .ro 0x0]⟩,
  ⟨"HIF_W_HELD", 0x801c, 1, 0x4, [f 15 0 .ro 0x0]⟩,
  ⟨"HIF_W_REFUSE_CNT", 0x8020, 1, 0x4, [f 31 0 .rc 0x0]⟩,
  ⟨"HIF_W_OVER_BUDGET_CNT", 0x8024, 1, 0x4, [f 31 0 .rc 0x0]⟩,
  ⟨"HIF_W_DONE_CNT", 0x8028, 1, 0x4, [f 31 0 .rc 0x0]⟩,
  ⟨"HIF_W_ABORT", 0x802c, 1, 0x4, [f 0 0 .wo 0x0]⟩]

/-- The registers of GlbIrq (R454). -/
def rowsGlbIrq : List RegRow := [
  ⟨"GLB_IRQ_PEND", 0x40, 128, 0x4, [f 31 0 .ro 0x0]⟩,
  ⟨"GLB_IRQ_ROUTE", 0x400, 256, 0x4, [f 31 31 .rw 0x0, f 30 30 .rw 0x0, f 8 0 .rw 0x0]⟩]

/-- The registers of HifMain (R455). -/
def rowsHifMain : List RegRow := [
  ⟨"HIF_LINK", 0x40, 1, 0x4, [f 31 31 .ro 0x0, f 30 28 .ro 0x0, f 27 23 .ro 0x0, f 22 20 .ro 0x0, f 19 15 .ro 0x0]⟩,
  ⟨"HIF_NUM_VFS", 0x44, 1, 0x4, [f 6 0 .ro 0x0]⟩,
  ⟨"HIF_SEQ_ERR_CNT", 0x48, 1, 0x4, [f 31 0 .rc 0x0]⟩,
  ⟨"HIF_WIN_DENIED_CNT", 0x4c, 1, 0x4, [f 31 0 .rc 0x0]⟩,
  ⟨"HIF_LATE_DISCARD_CNT", 0x50, 1, 0x4, [f 31 0 .rc 0x0]⟩,
  ⟨"HIF_DMA_ERR_CNT", 0x54, 1, 0x4, [f 31 0 .rc 0x0]⟩]

/-- The registers of HifCtx (R456). -/
def rowsHifCtx : List RegRow := [
  ⟨"HIF_CTX_SEL", 0x40, 1, 0x4, [f 9 0 .rw 0x0]⟩,
  ⟨"HIF_CTX_OWN", 0x44, 1, 0x4, [f 31 31 .rw 0x0, f 15 8 .rw 0x0, f 3 0 .ro 0x0]⟩,
  ⟨"HIF_CTX_MEM_BASE", 0x48, 1, 0x4, [f 20 0 .rw 0x0]⟩,
  ⟨"HIF_CTX_MEM_SIZE", 0x4c, 1, 0x4, [f 20 0 .rw 0x0]⟩,
  ⟨"HIF_CTX_BUDGET", 0x50, 1, 0x4, [fx 31 16 .rw 0x1f4 (nz), fx 15 0 .rw 0xffff (nz)]⟩,
  ⟨"HIF_CTX_ANC", 0x54, 1, 0x4, [f 31 18 .rw 0x0, fx 14 0 .rw 0x0 (rng 0 16384)]⟩,
  ⟨"HIF_CTX_STAT", 0x58, 1, 0x4, [f 31 0 .ro 0x0]⟩]

/-- The registers of LnkMain (R488). -/
def rowsLnkMain : List RegRow := [
  ⟨"LNK_ADDR", 0x40, 1, 0x4, [f 31 31 .ro 0x0, f 11 0 .rw 0xff]⟩,
  ⟨"LNK_ROPE", 0x44, 1, 0x4, [f 15 0 .rw 0x0]⟩,
  ⟨"LNK_FM", 0x48, 1, 0x4, [f 10 10 .ro 0x0, f 9 8 .ro 0x0, f 7 0 .ro 0xff]⟩,
  ⟨"LNK_SW_CFG", 0x4c, 1, 0x4, [fx 31 24 .rw 0x20 (nz), fx 23 16 .rw 0xa (nz), fx 15 0 .rw 0x64 (nz)]⟩,
  ⟨"LNK_GEN", 0x50, 1, 0x4, [f 7 0 .ro 0x0]⟩,
  ⟨"LNK_FWD_CNT", 0x60, 1, 0x4, [f 31 0 .rc 0x0]⟩,
  ⟨"LNK_LOCAL_CNT", 0x64, 1, 0x4, [f 31 0 .rc 0x0]⟩,
  ⟨"LNK_NOROUTE_CNT", 0x68, 1, 0x4, [f 31 0 .rc 0x0]⟩,
  ⟨"LNK_TTL_CNT", 0x6c, 1, 0x4, [f 31 0 .rc 0x0]⟩,
  ⟨"LNK_SR_BAD_CNT", 0x70, 1, 0x4, [f 31 0 .rc 0x0]⟩,
  ⟨"LNK_CRC_CNT", 0x74, 1, 0x4, [f 31 0 .rc 0x0]⟩,
  ⟨"LNK_STOMP_CNT", 0x78, 1, 0x4, [f 31 0 .rc 0x0]⟩,
  ⟨"LNK_FAILOVER_CNT", 0x7c, 1, 0x4, [f 31 0 .rc 0x0]⟩,
  ⟨"LNK_SEQ_GAP_CNT", 0x80, 1, 0x4, [f 31 0 .rc 0x0]⟩,
  ⟨"LNK_SEQ_OLD_CNT", 0x84, 1, 0x4, [f 31 0 .rc 0x0]⟩,
  ⟨"LNK_CROSS_ROPE_CNT", 0x88, 1, 0x4, [f 31 0 .rc 0x0]⟩,
  ⟨"LNK_RELAY_DROP_CNT", 0x8c, 1, 0x4, [f 31 0 .rc 0x0]⟩,
  ⟨"LNK_SKEW_CNT", 0x90, 1, 0x4, [f 31 0 .rc 0x0]⟩,
  ⟨"LNK_RELAY_CFG", 0xa0, 1, 0x4, [f 31 31 .rw 0x0, f 15 12 .rw 0x4, f 8 0 .rw 0x0]⟩,
  ⟨"LNK_RELAY_TX_LO", 0xa4, 2, 0x4, [f 31 0 .rw 0x0]⟩,
  ⟨"LNK_RELAY_TX_HEAD", 0xac, 1, 0x4, [f 11 0 .rw 0x0]⟩,
  ⟨"LNK_RELAY_TX_TAIL", 0xb0, 1, 0x4, [f 11 0 .ro 0x0]⟩,
  ⟨"LNK_RELAY_RX_LO", 0xb4, 2, 0x4, [f 31 0 .rw 0x0]⟩,
  ⟨"LNK_RELAY_RX_HEAD", 0xbc, 1, 0x4, [f 11 0 .ro 0x0]⟩,
  ⟨"LNK_RELAY_RX_TAIL", 0xc0, 1, 0x4, [f 11 0 .rw 0x0]⟩,
  ⟨"LNK_RBAR", 0x100, 8, 0x10, [f 31 31 .rw 0x0, f 14 12 .rw 0x0, f 11 0 .rw 0x0]⟩,
  ⟨"LNK_RBAR_SKEW", 0x104, 8, 0x10, [fx 15 0 .rw 0x64 (nz)]⟩,
  ⟨"LNK_RBAR_SEQ", 0x108, 8, 0x10, [f 31 0 .ro 0x0]⟩,
  ⟨"LNK_FWD", 0x180, 8, 0x4, [f 31 31 .rw 0x0, f 11 0 .rw 0x0]⟩]

/-- The registers of LnkPort (R489). -/
def rowsLnkPort : List RegRow := [
  ⟨"LNK_CFG", 0x40, 1, 0x4, [f 31 31 .rw 0x1, f 30 30 .rw 0x1, f 23 16 .rw 0x0, fx 7 0 .rw 0x40 (nz)]⟩,
  ⟨"LNK_STATUS", 0x44, 1, 0x4, [f 19 16 .ro 0x1, f 15 12 .ro 0x0, f 11 11 .ro 0x0, f 10 10 .ro 0x0, f 7 0 .ro 0x0]⟩,
  ⟨"LNK_PEER_UID_LO", 0x48, 2, 0x4, [f 31 0 .ro 0x0]⟩,
  ⟨"LNK_PEER", 0x50, 1, 0x4, [f 31 24 .ro 0xff, f 23 16 .ro 0x0, f 15 14 .ro 0x0, f 11 0 .ro 0xff]⟩,
  ⟨"LNK_PEER_ROPE", 0x54, 1, 0x4, [f 15 0 .ro 0x0]⟩,
  ⟨"LNK_PEER_OFF", 0x58, 1, 0x4, [f 31 0 .ro 0x0]⟩,
  ⟨"LNK_PEER_DELAY", 0x5c, 1, 0x4, [f 31 0 .ro 0x0]⟩,
  ⟨"LNK_FEC_CORR_CNT", 0x60, 1, 0x4, [f 31 0 .rc 0x0]⟩,
  ⟨"LNK_FEC_UNCORR_CNT", 0x64, 1, 0x4, [f 31 0 .rc 0x0]⟩,
  ⟨"LNK_REPLAY_CNT", 0x68, 1, 0x4, [f 31 0 .rc 0x0]⟩,
  ⟨"LNK_DOWN_CNT", 0x6c, 1, 0x4, [f 31 0 .rc 0x0]⟩,
  ⟨"LNK_HELLO_MISS_CNT", 0x70, 1, 0x4, [f 31 0 .rc 0x0]⟩,
  ⟨"LNK_TX_FRAMES", 0x74, 1, 0x4, [f 31 0 .rc 0x0]⟩,
  ⟨"LNK_RX_FRAMES", 0x78, 1, 0x4, [f 31 0 .rc 0x0]⟩,
  ⟨"LNK_VC_STALL0", 0x7c, 1, 0x4, [f 31 0 .rc 0x0]⟩,
  ⟨"LNK_VC_STALL1", 0x80, 1, 0x4, [f 31 0 .rc 0x0]⟩,
  ⟨"LNK_VC_STALL2", 0x84, 1, 0x4, [f 31 0 .rc 0x0]⟩]

/-- The registers of Rec (R520). -/
def rowsRec : List RegRow := [
  ⟨"REC_CFG", 0x40, 1, 0x4, [f 31 31 .rw 0x0, f 30 30 .rw 0x1, f 29 29 .rw 0x1, f 28 28 .rw 0x0, fx 23 16 .rw 0x2 (nz), fx 15 8 .rw 0x1 (nz), fx 7 0 .rw 0x3c (nz)]⟩,
  ⟨"REC_TMO", 0x44, 1, 0x4, [fx 31 16 .rw 0x64 (nz), fx 15 0 .rw 0xc8 (nz)]⟩,
  ⟨"REC_STATE", 0x48, 1, 0x4, [f 21 16 .ro 0x0, f 11 8 .ro 0x0, f 2 0 .ro 0x0]⟩,
  ⟨"REC_TARGET", 0x4c, 1, 0x4, [f 31 0 .ro 0x0]⟩,
  ⟨"REC_CAUSE", 0x50, 1, 0x4, [f 31 16 .ro 0xffff, f 7 0 .ro 0x0]⟩,
  ⟨"REC_HEARTBEAT", 0x54, 1, 0x4, [f 31 0 .ro 0x0]⟩,
  ⟨"REC_DUMP_BASE", 0x58, 1, 0x4, [f 8 0 .rwl 0x0]⟩,
  ⟨"REC_DUMP_SLOTS", 0x5c, 1, 0x4, [f 18 16 .ro 0x0, f 7 0 .ro 0x0]⟩,
  ⟨"REC_DUMP_SEQ", 0x60, 1, 0x4, [f 31 0 .ro 0x0]⟩,
  ⟨"REC_PWRCYC", 0x64, 1, 0x4, [fx 15 0 .rw 0x3e8 (nz)]⟩,
  ⟨"REC_WDT", 0x68, 1, 0x4, [fx 15 0 .rw 0x64 (fun v => 10 <= v)]⟩,
  ⟨"REC_PART_GEN", 0x70, 8, 0x4, [f 7 0 .ro 0x0]⟩,
  ⟨"REC_E1_CNT", 0xa0, 1, 0x4, [f 31 0 .rc 0x0]⟩,
  ⟨"REC_E2_CNT", 0xa4, 1, 0x4, [f 31 0 .rc 0x0]⟩,
  ⟨"REC_E3_CNT", 0xa8, 1, 0x4, [f 31 0 .rc 0x0]⟩,
  ⟨"REC_E4_CNT", 0xac, 1, 0x4, [f 31 0 .rc 0x0]⟩,
  ⟨"REC_E5_CNT", 0xb0, 1, 0x4, [f 31 0 .rc 0x0]⟩,
  ⟨"REC_STALE_CNT", 0xb4, 1, 0x4, [f 31 0 .rc 0x0]⟩,
  ⟨"REC_BLAME_CNT", 0xb8, 1, 0x4, [f 31 0 .rc 0x0]⟩,
  ⟨"REC_NOBLAME_CNT", 0xbc, 1, 0x4, [f 31 0 .rc 0x0]⟩,
  ⟨"REC_ABSORB_CNT", 0xc0, 1, 0x4, [f 31 0 .rc 0x0]⟩,
  ⟨"REC_DUMP_CNT", 0xc4, 1, 0x4, [f 31 0 .rc 0x0]⟩,
  ⟨"REC_DUMP_INVALID_CNT", 0xc8, 1, 0x4, [f 31 0 .rc 0x0]⟩,
  ⟨"REC_DUMP_TIMEOUT_CNT", 0xcc, 1, 0x4, [f 31 0 .rc 0x0]⟩,
  ⟨"REC_DUMP_UE_CNT", 0xd0, 1, 0x4, [f 31 0 .rc 0x0]⟩,
  ⟨"REC_DUMP_OVERWRITE_CNT", 0xd4, 1, 0x4, [f 31 0 .rc 0x0]⟩,
  ⟨"REC_HELPER_RST_CNT", 0xd8, 1, 0x4, [f 31 0 .rc 0x0]⟩,
  ⟨"REC_WAIT_TIMEOUT_CNT", 0xdc, 1, 0x4, [f 31 0 .rc 0x0]⟩,
  ⟨"REC_PROG_CMD", 0x100, 8, 0x8, [f 31 0 .ro 0x0]⟩,
  ⟨"REC_PROG_STEP", 0x104, 8, 0x8, [f 31 0 .ro 0x0]⟩]

/-- The registers of Upd (R556). -/
def rowsUpd : List RegRow := [
  ⟨"UPD_BOOT_STAT", 0x40, 1, 0x4, [f 23 20 .ro 0x0, f 17 16 .ro 0x0, f 8 8 .ro 0x0, f 7 7 .ro 0x0, f 6 6 .ro 0x0, f 0 0 .ro 0x0]⟩,
  ⟨"UPD_SLOT_STATE", 0x44, 1, 0x4, [f 7 4 .ro 0x0, f 3 0 .ro 0x0]⟩,
  ⟨"UPD_VER_A", 0x48, 1, 0x4, [f 31 0 .ro 0x0]⟩,
  ⟨"UPD_VER_B", 0x4c, 1, 0x4, [f 31 0 .ro 0x0]⟩,
  ⟨"UPD_HEALTH", 0x50, 1, 0x4, [f 31 0 .ro 0x0]⟩,
  ⟨"UPD_CFG", 0x54, 1, 0x4, [f 0 0 .rw 0x0]⟩,
  ⟨"UPD_XFER_ID", 0x58, 1, 0x4, [f 31 0 .ro 0x0]⟩,
  ⟨"UPD_XFER_STAT", 0x5c, 1, 0x4, [f 31 28 .ro 0x0, f 25 16 .ro 0x0, f 9 0 .ro 0x0]⟩,
  ⟨"UPD_BITMAP", 0x60, 24, 0x4, [f 31 0 .ro 0x0]⟩,
  ⟨"UPD_HOLDUP_V", 0xc0, 1, 0x4, [f 15 0 .ro 0x0]⟩,
  ⟨"UPD_HOLDUP_E", 0xc4, 1, 0x4, [f 31 16 .ro 0x0, f 15 0 .ro 0x0]⟩,
  ⟨"UPD_FRAG_CNT", 0xd0, 1, 0x4, [f 31 0 .rc 0x0]⟩,
  ⟨"UPD_FRAG_DROP_CNT", 0xd4, 1, 0x4, [f 31 0 .rc 0x0]⟩,
  ⟨"UPD_CHUNK_BAD_CNT", 0xd8, 1, 0x4, [f 31 0 .rc 0x0]⟩,
  ⟨"UPD_CHUNK_DUP_CNT", 0xdc, 1, 0x4, [f 31 0 .rc 0x0]⟩,
  ⟨"UPD_STORE_CNT", 0xe0, 1, 0x4, [f 31 0 .rc 0x0]⟩,
  ⟨"UPD_HOLDUP_REFUSE_CNT", 0xe4, 1, 0x4, [f 31 0 .rc 0x0]⟩,
  ⟨"UPD_FLASH_ERR_CNT", 0xe8, 1, 0x4, [f 31 0 .rc 0x0]⟩,
  ⟨"UPD_SET_SKIP_CNT", 0xec, 1, 0x4, [f 31 0 .rc 0x0]⟩,
  ⟨"UPD_FL_ADDR", 0x100, 1, 0x4, [f 26 3 .rw 0x0]⟩,
  ⟨"UPD_FL_CTRL", 0x104, 1, 0x4, [f 1 1 .rw 0x0, f 0 0 .wo 0x0]⟩,
  ⟨"UPD_FL_DATA_LO", 0x108, 1, 0x4, [f 31 0 .ro 0x0]⟩,
  ⟨"UPD_FL_DATA_HI", 0x10c, 1, 0x4, [f 31 0 .ro 0x0]⟩,
  ⟨"UPD_FL_STAT", 0x110, 1, 0x4, [f 1 1 .ro 0x0, f 0 0 .ro 0x0]⟩]

/-- The registers of Sec (R572). -/
def rowsSec : List RegRow := [
  ⟨"SEC_STATUS", 0x40, 1, 0x4, [f 7 6 .ro 0x0, f 5 5 .ro 0x0, f 4 4 .ro 0x0, f 3 3 .ro 0x0, f 2 2 .ro 0x0, f 1 1 .ro 0x0, f 0 0 .ro 0x0]⟩,
  ⟨"SEC_CFG_SEQ", 0x44, 1, 0x4, [f 31 0 .ro 0x0]⟩,
  ⟨"SEC_FLOOR", 0x48, 1, 0x4, [f 31 0 .ro 0x0]⟩,
  ⟨"SEC_UID_LO", 0x4c, 2, 0x4, [f 31 0 .ro 0x0]⟩,
  ⟨"SEC_PUF_STAT", 0x54, 1, 0x4, [f 10 0 .ro 0x0]⟩,
  ⟨"SEC_AK_PK", 0x60, 16, 0x4, [f 31 0 .ro 0x0]⟩,
  ⟨"SEC_MEAS_ACC", 0xa0, 16, 0x4, [f 31 0 .ro 0x0]⟩,
  ⟨"SEC_MEAS_CNT", 0xe0, 1, 0x4, [f 31 31 .ro 0x0, f 8 0 .ro 0x0]⟩,
  ⟨"SEC_Q_NONCE", 0x100, 16, 0x4, [f 31 0 .rw 0x0]⟩,
  ⟨"SEC_Q_CTRL", 0x140, 1, 0x4, [f 1 1 .rw 0x0, f 0 0 .wo 0x0]⟩,
  ⟨"SEC_Q_STAT", 0x144, 1, 0x4, [f 31 30 .ro 0x0, f 16 0 .ro 0x0]⟩,
  ⟨"SEC_Q_ADDR", 0x148, 1, 0x4, [f 16 3 .rw 0x0]⟩,
  ⟨"SEC_Q_DATA_LO", 0x14c, 2, 0x4, [f 31 0 .ro 0x0]⟩,
  ⟨"SEC_DBG_CHAL", 0x180, 8, 0x4, [f 31 0 .ro 0x0]⟩,
  ⟨"SEC_DBG_STAT", 0x1a0, 1, 0x4, [f 31 4 .ro 0x0, f 3 0 .ro 0x0]⟩,
  ⟨"SEC_DBG_CTRL", 0x1a4, 1, 0x4, [f 0 0 .wo 0x0]⟩,
  ⟨"SEC_VERIFY_FAIL_CNT", 0x1b0, 1, 0x4, [f 31 0 .rc 0x0]⟩,
  ⟨"SEC_DBG_FAIL_CNT", 0x1b4, 1, 0x4, [f 31 0 .rc 0x0]⟩]

/-- The registers of GlbPwr (R596). -/
def rowsGlbPwr : List RegRow := [
  ⟨"GLB_PWR_STAT", 0x40, 1, 0x4, [f 7 4 .ro 0x0]⟩,
  ⟨"GLB_VCORE_TGT", 0x44, 1, 0x4, [f 15 0 .ro 0x2ee]⟩,
  ⟨"GLB_VCORE_MEAS", 0x48, 1, 0x4, [f 15 0 .ro 0x0]⟩,
  ⟨"GLB_VCORE_BASE", 0x4c, 1, 0x4, [f 15 0 .ro 0x2ee]⟩,
  ⟨"GLB_CLUSTER_UP", 0x50, 1, 0x4, [f 15 0 .ro 0x0]⟩,
  ⟨"GLB_MEMCH_UP", 0x54, 1, 0x4, [f 31 0 .ro 0x0]⟩,
  ⟨"GLB_PWR_LATE_CNT", 0x58, 1, 0x4, [f 31 0 .rc 0x0]⟩,
  ⟨"GLB_AVS_ERR_CNT", 0x5c, 1, 0x4, [f 31 0 .rc 0x0]⟩,
  ⟨"GLB_AVS_CFG", 0x60, 1, 0x4, [f 31 31 .rw 0x1]⟩]

/-- The registers of Tmux (R617, R624). -/
def rowsTmux : List RegRow := [
  ⟨"TMUX_SEL", 0x40, 4, 0x4, [f 31 31 .rw 0x0, f 30 29 .rw 0x0, f 23 16 .rw 0x0, f 15 0 .rw 0x0]⟩,
  ⟨"TMUX_MERGE_CNT", 0x50, 4, 0x4, [f 31 0 .rc 0x0]⟩]

/-- The registers of Dbg (R623). -/
def rowsDbg : List RegRow := [
  ⟨"DBG_TEMP", 0x40, 20, 0x4, [f 15 0 .ro 0x0]⟩,
  ⟨"DBG_TJ", 0x90, 1, 0x4, [f 15 0 .ro 0x0]⟩,
  ⟨"DBG_PKG_PWR", 0x94, 1, 0x4, [f 31 0 .ro 0x0]⟩,
  ⟨"DBG_PKG_PWR_PEAK", 0x98, 1, 0x4, [f 31 0 .rc 0x0]⟩,
  ⟨"DBG_JTAG_REFUSE_CNT", 0x9c, 1, 0x4, [f 31 0 .rc 0x0]⟩,
  ⟨"DBG_PMC_SEL", 0x100, 8, 0x10, [f 31 31 .rw 0x0, f 23 16 .rw 0x0, f 15 0 .rw 0x0]⟩,
  ⟨"DBG_PMC_LO", 0x104, 8, 0x10, [f 31 0 .ro 0x0]⟩,
  ⟨"DBG_PMC_HI", 0x108, 8, 0x10, [f 31 0 .ro 0x0]⟩,
  ⟨"DBG_SNAP", 0x180, 1, 0x4, [f 0 0 .wo 0x0]⟩,
  ⟨"DBG_SNAP_FT_LO", 0x184, 2, 0x4, [f 31 0 .ro 0x0]⟩,
  ⟨"DBG_SNAP_K", 0x190, 16, 0x4, [f 31 0 .ro 0x0]⟩]

/-- The registers of GlbB4 (R74). -/
def rowsGlbB4 : List RegRow := [
  ⟨"GLB_B4_BASE_A", 0x40, 1, 0x4, [fx 6 0 .rw 0x0 (rng 0 123)]⟩,
  ⟨"GLB_B4_BASE_B", 0x44, 1, 0x4, [fx 6 0 .rw 0x0 (rng 0 123)]⟩]


/-- What a 4 KiB page of BAR0 holds (R45), and the two headerless ranges and the command windows. -/
inductive PageKind
  | glbId | glbPwr | glbClk | glbIrq | ancCtl | glbIw | glbB4 | hifMain | hifCtx | port | timeMain | timePtp | timeSrv
  | timeMp | timeConv | motEnc | motImu | motDec | fusMain | fusBar | fusReg | fabMain | fabRgn | fabFo | sb | ing | i3c
  | cc | tile | nc | apxMain | apxChk | apxPair | outMain | outBarUnit | outStr | ancArr | lnkMain | lnkPort | memCommon
  | memChan | recov | upd | sec | dbg | tmux | win
  deriving DecidableEq, Repr

/-- The block-specific registers of a kind of page. -/
def rowsOf : PageKind → List RegRow
  | .glbId => rowsGlbId | .glbPwr => rowsGlbPwr | .glbClk => [] | .glbIrq => rowsGlbIrq | .ancCtl => rowsAncCtl
  | .glbIw => rowsGlbIw | .glbB4 => rowsGlbB4 | .hifMain => rowsHifMain | .hifCtx => rowsHifCtx | .port => rowsPort
  | .timeMain => rowsTimeMain | .timePtp => rowsTimePtp | .timeSrv => rowsTimeSrv | .timeMp => rowsTimeMp
  | .timeConv => rowsTimeConv | .motEnc => rowsMotEnc | .motImu => rowsMotImu | .motDec => rowsMotDec
  | .fusMain => rowsFusMain | .fusBar => rowsFusBar | .fusReg => rowsFusReg | .fabMain => rowsFabMain
  | .fabRgn => rowsFabRgn | .fabFo => rowsFabFo | .sb => rowsSb | .ing => rowsIng | .i3c => rowsI3c | .cc => rowsCc
  | .tile => rowsTile | .nc => rowsNc | .apxMain => rowsApxMain | .apxChk => rowsApxChk | .apxPair => rowsApxPair
  | .outMain => rowsOutMain | .outBarUnit => rowsOutBarUnit | .outStr => rowsOutStr | .ancArr => rowsAncArr
  | .lnkMain => rowsLnkMain | .lnkPort => rowsLnkPort | .memCommon => [] | .memChan => [] | .recov => rowsRec
  | .upd => rowsUpd | .sec => rowsSec | .dbg => rowsDbg | .tmux => rowsTmux | .win => rowsWin

/-- The kind and the number of the page with page number n (its BAR0 address divided by 4,096); none where R45 assigns
no page. -/
def pageKind (n : Nat) : Option (PageKind × Nat) :=
  if n = 0x0 then some (.glbId, 0) else if n = 0x1 then some (.glbPwr, 0) else if n = 0x2 then some (.glbClk, 0)
  else if n = 0x3 then some (.glbIrq, 0) else if n = 0x4 then some (.ancCtl, 0) else if n = 0x5 then some (.glbIw, 0)
  else if n = 0x6 then some (.glbB4, 0) else if n = 0x10 then some (.hifMain, 0) else if n = 0x11 then some (.hifCtx, 0)
  else if n < 0x20 then none
  else if n < 0x40 then some (.port, n - 0x20)
  else if n = 0x40 then some (.timeMain, 0) else if n < 0x45 then some (.timePtp, n - 0x41)
  else if n = 0x45 then some (.timeSrv, 0) else if n = 0x46 then some (.timeMp, 0) else if n = 0x47 then some (.timeConv, 0)
  else if n = 0x50 then some (.motEnc, 0) else if n = 0x51 then some (.motImu, 0) else if n = 0x52 then some (.motDec, 0)
  else if n < 0x60 then none
  else if n = 0x60 then some (.fusMain, 0) else if n < 0x69 then some (.fusBar, n - 0x61) else if n = 0x69 then some (.fusReg, 0)
  else if n = 0x70 then some (.fabMain, 0) else if n = 0x71 then some (.fabRgn, 0) else if n = 0x72 then some (.fabFo, 0)
  else if n < 0x78 then none
  else if n < 0x80 then some (.sb, n - 0x78)
  else if n = 0x80 then some (.ing, 0) else if n < 0x89 then some (.i3c, n - 0x81)
  else if n < 0x100 then none
  else if n < 0x500 then
    let c := (n - 0x100) / 64
    let q := (n - 0x100) % 64
    if q = 0 then some (.cc, c) else if q < 9 then some (.tile, 8 * c + (q - 1))
    else if q < 41 then some (.nc, 32 * c + (q - 9)) else none
  else if n = 0x500 then some (.apxMain, 0) else if n = 0x501 then some (.apxChk, 0) else if n = 0x502 then some (.apxPair, 0)
  else if n = 0x510 then some (.outMain, 0) else if n = 0x511 then some (.outBarUnit, 0)
  else if n < 0x512 then none
  else if n < 0x51A then some (.outStr, n - 0x512)
  else if n = 0x600 then some (.lnkMain, 0) else if n < 0x601 then none else if n < 0x605 then some (.lnkPort, n - 0x601)
  else if n = 0x700 then some (.memCommon, 0) else if n < 0x701 then none else if n < 0x721 then some (.memChan, n - 0x701)
  else if n = 0x800 then some (.recov, 0) else if n = 0x900 then some (.upd, 0) else if n = 0x901 then some (.sec, 0)
  else if n = 0xA00 then some (.dbg, 0) else if n = 0xA01 then some (.tmux, 0) else none

/-- BLOCK_TYPE of a kind of page (R48). -/
def blockType : PageKind → Nat
  | .glbId | .glbPwr | .glbClk | .glbIrq | .glbIw | .glbB4 => 0x01
  | .ancCtl | .ancArr => 0x0E
  | .hifMain | .hifCtx | .win => 0x02
  | .port => 0x03
  | .timeMain | .timePtp | .timeSrv | .timeMp | .timeConv => 0x05
  | .motEnc | .motImu | .motDec => 0x06
  | .fusMain | .fusBar | .fusReg => 0x07
  | .fabMain | .fabRgn | .fabFo | .sb => 0x08
  | .ing | .i3c => 0x04
  | .cc => 0x09 | .tile => 0x0A | .nc => 0x0B
  | .apxMain | .apxChk | .apxPair => 0x0C
  | .outMain | .outBarUnit | .outStr => 0x0D
  | .lnkMain | .lnkPort => 0x0F
  | .memCommon | .memChan => 0x10
  | .recov => 0x11 | .upd => 0x12 | .sec => 0x13
  | .dbg | .tmux => 0x14

/-- CLKDOM of a kind of page and its number (R24, R625 and the chapters' page sections). -/
def clkDom : PageKind → Nat → Nat
  | .glbId, _ | .glbPwr, _ | .glbClk, _ | .recov, _ | .upd, _ | .sec, _ => 0x22
  | .tile, _ | .nc, _ => 0x20
  | .timeMain, _ | .timePtp, _ | .timeSrv, _ | .timeMp, _ | .timeConv, _ | .motDec, _ | .dbg, _ | .tmux, _ => 0x23
  | .motEnc, _ | .motImu, _ | .i3c, _ => 0x25
  | .memCommon, _ | .memChan, _ => 0x27
  | .lnkPort, p => 0x2A + p
  | _, _ => 0x21

/-- The class masks of R62: the classes that may read, then those that may write, bit k for class k. -/
def masks : PageKind → Nat × Nat
  | .glbId => (0x3F, 0x31)
  | .glbIw => (0x3B, 0x39)
  | .glbPwr | .glbClk | .glbIrq | .ancCtl | .ancArr | .glbB4 => (0x33, 0x31)
  | .hifMain | .hifCtx | .win => (0x37, 0x27)
  | .recov => (0x3B, 0x31)
  | .upd => (0x39, 0x19)
  | .sec => (0x3F, 0x01)
  | .dbg | .tmux => (0x21, 0x21)
  | _ => (0x33, 0x31)

/-- Whether the unit of a kind of page has an enable in PAGE_CTRL (R50, R64): stream ports and neuron cores. -/
def hasEnable : PageKind → Bool
  | .port | .nc => true
  | _ => false

/-- The row of a list that covers an offset. -/
def findRow : List RegRow → Nat → Option RegRow
  | [], _ => none
  | r :: t, o =>
    if decide (r.off ≤ o) && decide ((o - r.off) % r.stride = 0) && decide ((o - r.off) / r.stride < r.cnt) then some r
    else findRow t o

/-- The reset value of a row: its fields' reset values in place. -/
def rowReset (r : RegRow) : Nat := r.flds.foldl (fun n x => n + x.rst * 2 ^ x.lo) 0

/-- The first key of the per-class register sets (R77): class k's set of an address lies at 2^32 * (1 + k) above it. -/
def bankKey (k a : Nat) : Nat := 0x100000000 * (1 + k) + a

/-- The key of CHK_EN and EXPECT of a page for an accessing function (R71). DESIGN CHOICE (log entry 170): the accesses without a PCI
Express function (SERVICE, FABRIC, DEBUG) share those of number 0xFF. -/
def genKey (fn page : Nat) : Nat := 0x10000000000 * (1 + fn) + page

/-- The row of the table that an address names. -/
def regRow (a : Nat) : Option RegRow :=
  if 0x520000 ≤ a ∧ a < 0x560000 then findRow rowsAncArr (a - 0x520000)
  else match pageKind (a / 4096) with
    | some (k, _) => findRow (rowsOf k) (a % 4096)
    | none => none

/-- The header registers' reset values (R47 to R59). -/
def headerReset (k : PageKind) (inst off : Nat) : Nat :=
  if off = 0x00 then blockType k * 2 ^ 24 + inst * 2 ^ 8 + 1
  else if off = 0x08 then (if hasEnable k then 0 else 1)
  else if off = 0x28 then (masks k).1 * 2 ^ 8 + (masks k).2
  else if off = 0x2C then clkDom k inst
  else 0

/-- What a register that nothing has written holds: its reset value (R17). -/
def resetWord (a : Nat) : Word :=
  if a < 0x1000000 then
    if 0x520000 ≤ a ∧ a < 0x560000 then
      match findRow rowsAncArr (a - 0x520000) with
      | some r => word (rowReset r)
      | none => 0
    else match pageKind (a / 4096) with
      | none => 0
      | some (k, i) =>
        if a % 4096 < 0x40 then word (headerReset k i (a % 4096))
        else match findRow (rowsOf k) (a % 4096) with
          | some r => word (rowReset r)
          | none => 0
  else if a < 0x10000000 then 0
  else if a < 0x14000000 then
    match findRow rowsWin (a % 0x10000) with
    | some r => word (rowReset r)
    | none => 0
  else if a < 0x100000000 then 0
  else if a < 0x10000000000 then
    match regRow (a % 0x100000000) with
    | some r => word (rowReset r)
    | none => 0
  else 0

/-- The page that holds an address, as its base address. -/
def pageOf (a : Nat) : Nat := a / 4096 * 4096

/-! The registers' addresses by name; p is the page's number, i the register's number within the page. -/

/-- GLB_MODE_REQ (R34). -/
abbrev GLB_MODE_REQ : Nat := 0x200
/-- GLB_MODE_STAT (R35). -/
abbrev GLB_MODE_STAT : Nat := 0x204
/-- GLB_MODE_LIMIT (R38). -/
abbrev GLB_MODE_LIMIT : Nat := 0x20c
/-- GLB_PART (R72). -/
abbrev GLB_PART : Nat := 0x40
/-- GLB_STEPPING (R72). -/
abbrev GLB_STEPPING : Nat := 0x44
/-- GLB_GRADE (R72). -/
abbrev GLB_GRADE : Nat := 0x48
/-- GLB_UNMAPPED_CNT (R72). -/
abbrev GLB_UNMAPPED_CNT : Nat := 0x4c
/-- GLB_DENIED_CNT (R72). -/
abbrev GLB_DENIED_CNT (i : Nat) : Nat := 0x50 + 0x4 * i
/-- GLB_MODE_REPLACED_CNT (R72). -/
abbrev GLB_MODE_REPLACED_CNT : Nat := 0x208
/-- GLB_IW_ADDR_LO (R77). -/
abbrev GLB_IW_ADDR_LO : Nat := 0x5040
/-- GLB_IW_ADDR_HI (R77). -/
abbrev GLB_IW_ADDR_HI : Nat := 0x5044
/-- GLB_IW_DATA_LO (R77). -/
abbrev GLB_IW_DATA_LO : Nat := 0x5048
/-- GLB_IW_DATA_HI (R77). -/
abbrev GLB_IW_DATA_HI : Nat := 0x504c
/-- GLB_IW_CTRL (R77). -/
abbrev GLB_IW_CTRL : Nat := 0x5050
/-- GLB_IW_STAT (R77). -/
abbrev GLB_IW_STAT : Nat := 0x5054
/-- PORT_CFG (R110). -/
abbrev PORT_CFG (p : Nat) : Nat := 0x20000 + 0x1000 * p + 0x40
/-- PORT_STATUS (R111). -/
abbrev PORT_STATUS (p : Nat) : Nat := 0x20000 + 0x1000 * p + 0x44
/-- PORT_DESC (R112). -/
abbrev PORT_DESC (p : Nat) (i : Nat) : Nat := 0x20000 + 0x1000 * p + 0x48 + 0x4 * i
/-- PORT_I3C (R112). -/
abbrev PORT_I3C (p : Nat) : Nat := 0x20000 + 0x1000 * p + 0x68
/-- PORT_SPILL_CFG (R112). -/
abbrev PORT_SPILL_CFG (p : Nat) : Nat := 0x20000 + 0x1000 * p + 0x6c
/-- PORT_BUF_FILL (R112). -/
abbrev PORT_BUF_FILL (p : Nat) : Nat := 0x20000 + 0x1000 * p + 0x70
/-- PORT_SPILL_FILL (R112). -/
abbrev PORT_SPILL_FILL (p : Nat) : Nat := 0x20000 + 0x1000 * p + 0x74
/-- PORT_BUF_PEAK (R112). -/
abbrev PORT_BUF_PEAK (p : Nat) : Nat := 0x20000 + 0x1000 * p + 0x78
/-- PORT_LEG_OFFSET (R112). -/
abbrev PORT_LEG_OFFSET (p : Nat) : Nat := 0x20000 + 0x1000 * p + 0x7c
/-- PORT_LEG_RES (R112). -/
abbrev PORT_LEG_RES (p : Nat) : Nat := 0x20000 + 0x1000 * p + 0x80
/-- PORT_EVENT_CNT (R112). -/
abbrev PORT_EVENT_CNT (p : Nat) : Nat := 0x20000 + 0x1000 * p + 0x90
/-- PORT_WORD_CNT (R112). -/
abbrev PORT_WORD_CNT (p : Nat) : Nat := 0x20000 + 0x1000 * p + 0x94
/-- PORT_LOST_WORDS (R112). -/
abbrev PORT_LOST_WORDS (p : Nat) : Nat := 0x20000 + 0x1000 * p + 0x98
/-- PORT_CRC_ERR (R112). -/
abbrev PORT_CRC_ERR (p : Nat) : Nat := 0x20000 + 0x1000 * p + 0x9c
/-- PORT_ECC_CORR (R112). -/
abbrev PORT_ECC_CORR (p : Nat) : Nat := 0x20000 + 0x1000 * p + 0xa0
/-- PORT_ECC_UNCORR (R112). -/
abbrev PORT_ECC_UNCORR (p : Nat) : Nat := 0x20000 + 0x1000 * p + 0xa4
/-- PORT_OTHER_PKT (R112). -/
abbrev PORT_OTHER_PKT (p : Nat) : Nat := 0x20000 + 0x1000 * p + 0xa8
/-- PORT_PKT_FORMAT (R112). -/
abbrev PORT_PKT_FORMAT (p : Nat) : Nat := 0x20000 + 0x1000 * p + 0xac
/-- PORT_VES_REJECT (R112). -/
abbrev PORT_VES_REJECT (p : Nat) : Nat := 0x20000 + 0x1000 * p + 0xb0
/-- PORT_NO_TIME_DROP (R112). -/
abbrev PORT_NO_TIME_DROP (p : Nat) : Nat := 0x20000 + 0x1000 * p + 0xb4
/-- PORT_RANGE_DROP (R112). -/
abbrev PORT_RANGE_DROP (p : Nat) : Nat := 0x20000 + 0x1000 * p + 0xb8
/-- PORT_TIME_BACK (R112). -/
abbrev PORT_TIME_BACK (p : Nat) : Nat := 0x20000 + 0x1000 * p + 0xbc
/-- PORT_TRIG_CNT (R112). -/
abbrev PORT_TRIG_CNT (p : Nat) : Nat := 0x20000 + 0x1000 * p + 0xc0
/-- PORT_EXT_SKIP (R112). -/
abbrev PORT_EXT_SKIP (p : Nat) : Nat := 0x20000 + 0x1000 * p + 0xc4
/-- PORT_BIVOUAC_DROP (R112). -/
abbrev PORT_BIVOUAC_DROP (p : Nat) : Nat := 0x20000 + 0x1000 * p + 0xc8
/-- PORT_VES_LAST_REJ (R112). -/
abbrev PORT_VES_LAST_REJ (p : Nat) : Nat := 0x20000 + 0x1000 * p + 0xcc
/-- PORT_STATUS_WORD (R112). -/
abbrev PORT_STATUS_WORD (p : Nat) : Nat := 0x20000 + 0x1000 * p + 0xd0
/-- ING_SPILL_BASE (R114). -/
abbrev ING_SPILL_BASE : Nat := 0x80040
/-- ING_SPILL_SIZE (R114). -/
abbrev ING_SPILL_SIZE : Nat := 0x80044
/-- ING_SPILL_FILL (R114). -/
abbrev ING_SPILL_FILL : Nat := 0x80048
/-- ING_SPILL_PEAK (R114). -/
abbrev ING_SPILL_PEAK : Nat := 0x8004c
/-- ING_EVENT_RATE (R114). -/
abbrev ING_EVENT_RATE : Nat := 0x80050
/-- I3C_CFG (R115). -/
abbrev I3C_CFG (p : Nat) : Nat := 0x81000 + 0x1000 * p + 0x40
/-- I3C_XFER_CTRL (R115). -/
abbrev I3C_XFER_CTRL (p : Nat) : Nat := 0x81000 + 0x1000 * p + 0x44
/-- I3C_XFER_STAT (R115). -/
abbrev I3C_XFER_STAT (p : Nat) : Nat := 0x81000 + 0x1000 * p + 0x48
/-- I3C_XFER_DATA (R115). -/
abbrev I3C_XFER_DATA (p : Nat) (i : Nat) : Nat := 0x81000 + 0x1000 * p + 0x50 + 0x4 * i
/-- I3C_JOIN_CONFLICT_CNT (R115). -/
abbrev I3C_JOIN_CONFLICT_CNT (p : Nat) : Nat := 0x81000 + 0x1000 * p + 0x70
/-- I3C_NACK_CNT (R115). -/
abbrev I3C_NACK_CNT (p : Nat) : Nat := 0x81000 + 0x1000 * p + 0x74
/-- I3C_NOADDR_CNT (R115). -/
abbrev I3C_NOADDR_CNT (p : Nat) : Nat := 0x81000 + 0x1000 * p + 0x78
/-- TIME_CTRL (R160). -/
abbrev TIME_CTRL : Nat := 0x40040
/-- TIME_STATUS (R160). -/
abbrev TIME_STATUS : Nat := 0x40044
/-- TIME_FT_LO (R160). -/
abbrev TIME_FT_LO : Nat := 0x40048
/-- TIME_FT_HI (R160). -/
abbrev TIME_FT_HI : Nat := 0x4004c
/-- TIME_RATE (R160). -/
abbrev TIME_RATE : Nat := 0x40050
/-- TIME_RATE_MAN (R160). -/
abbrev TIME_RATE_MAN : Nat := 0x40054
/-- TIME_OFFSET (R160). -/
abbrev TIME_OFFSET : Nat := 0x40058
/-- TIME_SLEW_REM (R160). -/
abbrev TIME_SLEW_REM : Nat := 0x4005c
/-- TIME_HOLD_AGE (R160). -/
abbrev TIME_HOLD_AGE : Nat := 0x40060
/-- TIME_UNC (R160). -/
abbrev TIME_UNC : Nat := 0x40064
/-- TIME_HOLD_CFG (R160). -/
abbrev TIME_HOLD_CFG : Nat := 0x40068
/-- TIME_LOOP (R160). -/
abbrev TIME_LOOP : Nat := 0x4006c
/-- TIME_MASTER_ID0 (R160). -/
abbrev TIME_MASTER_ID0 : Nat := 0x40070
/-- TIME_MASTER_ID1 (R160). -/
abbrev TIME_MASTER_ID1 : Nat := 0x40074
/-- TIME_MASTER_PORT (R160). -/
abbrev TIME_MASTER_PORT : Nat := 0x40078
/-- TIME_UNC_EXCEED_CNT (R160). -/
abbrev TIME_UNC_EXCEED_CNT : Nat := 0x4007c
/-- TIME_PPS_IN (R160). -/
abbrev TIME_PPS_IN : Nat := 0x40080
/-- TIME_PPS_IN_BAD_CNT (R160). -/
abbrev TIME_PPS_IN_BAD_CNT : Nat := 0x40084
/-- TIME_PPS_OUT (R160). -/
abbrev TIME_PPS_OUT : Nat := 0x40088
/-- TIME_PPS_OUT_OFF (R160). -/
abbrev TIME_PPS_OUT_OFF : Nat := 0x4008c
/-- TIME_CAIRN (R160). -/
abbrev TIME_CAIRN : Nat := 0x40090
/-- TIME_PT_CFG (R161). -/
abbrev TIME_PT_CFG (p : Nat) : Nat := 0x41000 + 0x1000 * p + 0x40
/-- TIME_PT_STATUS (R161). -/
abbrev TIME_PT_STATUS (p : Nat) : Nat := 0x41000 + 0x1000 * p + 0x44
/-- TIME_PT_ASYM (R161). -/
abbrev TIME_PT_ASYM (p : Nat) : Nat := 0x41000 + 0x1000 * p + 0x48
/-- TIME_PT_SEG (R161). -/
abbrev TIME_PT_SEG (p : Nat) (i : Nat) : Nat := 0x41000 + 0x1000 * p + 0x4c + 0x4 * i
/-- TIME_PT_PATH (R161). -/
abbrev TIME_PT_PATH (p : Nat) : Nat := 0x41000 + 0x1000 * p + 0x5c
/-- TIME_PT_HOLD_AGE (R161). -/
abbrev TIME_PT_HOLD_AGE (p : Nat) : Nat := 0x41000 + 0x1000 * p + 0x60
/-- TIME_PT_MASTER (R161). -/
abbrev TIME_PT_MASTER (p : Nat) (i : Nat) : Nat := 0x41000 + 0x1000 * p + 0x64 + 0x4 * i
/-- TIME_SRV_CFG (R162). -/
abbrev TIME_SRV_CFG (i : Nat) : Nat := 0x45100 + 0x20 * i
/-- TIME_SRV_SLEW (R162). -/
abbrev TIME_SRV_SLEW (i : Nat) : Nat := 0x45104 + 0x20 * i
/-- TIME_SRV_STATUS (R162). -/
abbrev TIME_SRV_STATUS (i : Nat) : Nat := 0x45108 + 0x20 * i
/-- TIME_SRV_RATE (R162). -/
abbrev TIME_SRV_RATE (i : Nat) : Nat := 0x4510c + 0x20 * i
/-- TIME_SRV_ERR (R162). -/
abbrev TIME_SRV_ERR (i : Nat) : Nat := 0x45110 + 0x20 * i
/-- TIME_SRV_RANGE_CNT (R162). -/
abbrev TIME_SRV_RANGE_CNT (i : Nat) : Nat := 0x45114 + 0x20 * i
/-- TIME_SRV_PORT (R162). -/
abbrev TIME_SRV_PORT : Nat := 0x45040
/-- TIME_MP_CFG (R163). -/
abbrev TIME_MP_CFG : Nat := 0x46040
/-- TIME_MP_ANGLE_OFF (R163). -/
abbrev TIME_MP_ANGLE_OFF : Nat := 0x46044
/-- TIME_MP_ANGLE (R163). -/
abbrev TIME_MP_ANGLE : Nat := 0x46048
/-- TIME_MP_REV (R163). -/
abbrev TIME_MP_REV : Nat := 0x4604c
/-- TIME_MP_STATUS (R163). -/
abbrev TIME_MP_STATUS : Nat := 0x46050
/-- TIME_CONV_IN_LO (R163). -/
abbrev TIME_CONV_IN_LO (i : Nat) : Nat := 0x47040 + 0x4 * i
/-- TIME_CONV_CTRL (R163). -/
abbrev TIME_CONV_CTRL : Nat := 0x47048
/-- TIME_CONV_STAT (R163). -/
abbrev TIME_CONV_STAT : Nat := 0x4704c
/-- TIME_CONV_OUT_LO (R163). -/
abbrev TIME_CONV_OUT_LO (i : Nat) : Nat := 0x47050 + 0x4 * i
/-- MOT_ENC_CFG (R184). -/
abbrev MOT_ENC_CFG (i : Nat) : Nat := 0x50100 + 0x40 * i
/-- MOT_ENC_CPR (R184). -/
abbrev MOT_ENC_CPR (i : Nat) : Nat := 0x50104 + 0x40 * i
/-- MOT_ENC_WIN (R184). -/
abbrev MOT_ENC_WIN (i : Nat) : Nat := 0x50108 + 0x40 * i
/-- MOT_ENC_SLIP_RATIO (R184). -/
abbrev MOT_ENC_SLIP_RATIO (i : Nat) : Nat := 0x5010c + 0x40 * i
/-- MOT_ENC_SLIP_CFG (R184). -/
abbrev MOT_ENC_SLIP_CFG (i : Nat) : Nat := 0x50110 + 0x40 * i
/-- MOT_ENC_SLIP_TOL (R184). -/
abbrev MOT_ENC_SLIP_TOL (i : Nat) : Nat := 0x50114 + 0x40 * i
/-- MOT_ENC_POS (R184). -/
abbrev MOT_ENC_POS (i : Nat) : Nat := 0x50118 + 0x40 * i
/-- MOT_ENC_VEL (R184). -/
abbrev MOT_ENC_VEL (i : Nat) : Nat := 0x5011c + 0x40 * i
/-- MOT_ENC_STATUS (R184). -/
abbrev MOT_ENC_STATUS (i : Nat) : Nat := 0x50120 + 0x40 * i
/-- MOT_ENC_QERR_CNT (R184). -/
abbrev MOT_ENC_QERR_CNT (i : Nat) : Nat := 0x50124 + 0x40 * i
/-- MOT_ENC_COUNT_ERR_CNT (R184). -/
abbrev MOT_ENC_COUNT_ERR_CNT (i : Nat) : Nat := 0x50128 + 0x40 * i
/-- MOT_ENC_CAP_DROP (R184). -/
abbrev MOT_ENC_CAP_DROP (i : Nat) : Nat := 0x5012c + 0x40 * i
/-- MOT_ENC_SLIP_CNT (R184). -/
abbrev MOT_ENC_SLIP_CNT (i : Nat) : Nat := 0x50130 + 0x40 * i
/-- MOT_ENC_OVR (R184). -/
abbrev MOT_ENC_OVR (i : Nat) : Nat := 0x50134 + 0x40 * i
/-- MOT_IRQ_SRC0 (R182). -/
abbrev MOT_IRQ_SRC0 : Nat := 0x50040
/-- MOT_IMU_CFG (R185). -/
abbrev MOT_IMU_CFG (i : Nat) : Nat := 0x51100 + 0x40 * i
/-- MOT_IMU_I3C (R185). -/
abbrev MOT_IMU_I3C (i : Nat) : Nat := 0x51104 + 0x40 * i
/-- MOT_IMU_PERIOD (R185). -/
abbrev MOT_IMU_PERIOD (i : Nat) : Nat := 0x51108 + 0x40 * i
/-- MOT_IMU_LAT (R185). -/
abbrev MOT_IMU_LAT (i : Nat) : Nat := 0x5110c + 0x40 * i
/-- MOT_IMU_STATUS (R185). -/
abbrev MOT_IMU_STATUS (i : Nat) : Nat := 0x5111c + 0x40 * i
/-- MOT_IMU_SAMPLE_CNT (R185). -/
abbrev MOT_IMU_SAMPLE_CNT (i : Nat) : Nat := 0x51120 + 0x40 * i
/-- MOT_IMU_OVERRUN_CNT (R185). -/
abbrev MOT_IMU_OVERRUN_CNT (i : Nat) : Nat := 0x51124 + 0x40 * i
/-- MOT_IMU_NACK_CNT (R185). -/
abbrev MOT_IMU_NACK_CNT (i : Nat) : Nat := 0x51128 + 0x40 * i
/-- MOT_IMU_CAP_DROP (R185). -/
abbrev MOT_IMU_CAP_DROP (i : Nat) : Nat := 0x5112c + 0x40 * i
/-- MOT_IRQ_SRC1 (R182). -/
abbrev MOT_IRQ_SRC1 : Nat := 0x51040
/-- MOT_IMU_LAST0 (R185). -/
abbrev MOT_IMU_LAST0 (i : Nat) : Nat := 0x51110 + 0x40 * i
/-- MOT_IMU_LAST1 (R185). -/
abbrev MOT_IMU_LAST1 (i : Nat) : Nat := 0x51114 + 0x40 * i
/-- MOT_IMU_LAST2 (R185). -/
abbrev MOT_IMU_LAST2 (i : Nat) : Nat := 0x51118 + 0x40 * i
/-- MOT_DEC_CFG (R186). -/
abbrev MOT_DEC_CFG (i : Nat) : Nat := 0x52100 + 0x40 * i
/-- MOT_DEC_RESP (R186). -/
abbrev MOT_DEC_RESP (i : Nat) : Nat := 0x52104 + 0x40 * i
/-- MOT_DEC_DELAY (R186). -/
abbrev MOT_DEC_DELAY (i : Nat) : Nat := 0x52108 + 0x40 * i
/-- MOT_DEC_STATUS (R186). -/
abbrev MOT_DEC_STATUS (i : Nat) : Nat := 0x5210c + 0x40 * i
/-- MOT_DEC_OUT_CNT (R186). -/
abbrev MOT_DEC_OUT_CNT (i : Nat) : Nat := 0x52110 + 0x40 * i
/-- MOT_DEC_SAT_CNT (R186). -/
abbrev MOT_DEC_SAT_CNT (i : Nat) : Nat := 0x52114 + 0x40 * i
/-- MOT_DEC_GAP_CNT (R186). -/
abbrev MOT_DEC_GAP_CNT (i : Nat) : Nat := 0x52118 + 0x40 * i
/-- MOT_DEC_FUS_DROP (R186). -/
abbrev MOT_DEC_FUS_DROP (i : Nat) : Nat := 0x5211c + 0x40 * i
/-- MOT_IRQ_SRC2 (R182). -/
abbrev MOT_IRQ_SRC2 : Nat := 0x52040
/-- MOT_DEC_ROM_SEL (R183). -/
abbrev MOT_DEC_ROM_SEL : Nat := 0x52044
/-- MOT_DEC_ROM (R183). -/
abbrev MOT_DEC_ROM (i : Nat) : Nat := 0x52800 + 0x4 * i
/-- FUS_CTRL (R218). -/
abbrev FUS_CTRL : Nat := 0x60040
/-- FUS_LATE (R218). -/
abbrev FUS_LATE : Nat := 0x60044
/-- FUS_FLOW (R218). -/
abbrev FUS_FLOW : Nat := 0x60048
/-- FUS_FLOW_MIN (R218). -/
abbrev FUS_FLOW_MIN : Nat := 0x6004c
/-- FUS_REG_VER (R218). -/
abbrev FUS_REG_VER : Nat := 0x60050
/-- FUS_REF_CFG (R218). -/
abbrev FUS_REF_CFG : Nat := 0x60054
/-- FUS_REF_MINMEAS (R218). -/
abbrev FUS_REF_MINMEAS : Nat := 0x60058
/-- FUS_LATE_USED_CNT (R218). -/
abbrev FUS_LATE_USED_CNT : Nat := 0x60060
/-- FUS_LATE_DROP_CNT (R218). -/
abbrev FUS_LATE_DROP_CNT : Nat := 0x60064
/-- FUS_AMEND_CNT (R218). -/
abbrev FUS_AMEND_CNT : Nat := 0x60068
/-- FUS_DISPUTE_CNT (R218). -/
abbrev FUS_DISPUTE_CNT : Nat := 0x6006c
/-- FUS_OFF_SHEET_CNT (R218). -/
abbrev FUS_OFF_SHEET_CNT : Nat := 0x60070
/-- FUS_FLOW_LATE_EV (R218). -/
abbrev FUS_FLOW_LATE_EV : Nat := 0x60074
/-- FUS_REF_REJECT_CNT (R218). -/
abbrev FUS_REF_REJECT_CNT : Nat := 0x60078
/-- FUS_UNBARRED_CNT (R218). -/
abbrev FUS_UNBARRED_CNT : Nat := 0x6007c
/-- FUS_HIST_DROP_CNT (R218). -/
abbrev FUS_HIST_DROP_CNT : Nat := 0x60080
/-- FUS_BAR_CFG (R219). -/
abbrev FUS_BAR_CFG (p : Nat) : Nat := 0x61000 + 0x1000 * p + 0x40
/-- FUS_BAR_XC (R219). -/
abbrev FUS_BAR_XC (p : Nat) : Nat := 0x61000 + 0x1000 * p + 0x44
/-- FUS_BAR_PORTS (R219). -/
abbrev FUS_BAR_PORTS (p : Nat) : Nat := 0x61000 + 0x1000 * p + 0x48
/-- FUS_BAR_WHEEL (R219). -/
abbrev FUS_BAR_WHEEL (p : Nat) : Nat := 0x61000 + 0x1000 * p + 0x4c
/-- FUS_BAR_WSCALE (R219). -/
abbrev FUS_BAR_WSCALE (p : Nat) (i : Nat) : Nat := 0x61000 + 0x1000 * p + 0x50 + 0x4 * i
/-- FUS_BAR_INS (R219). -/
abbrev FUS_BAR_INS (p : Nat) : Nat := 0x61000 + 0x1000 * p + 0x60
/-- FUS_BAR_IMAP (R219). -/
abbrev FUS_BAR_IMAP (p : Nat) (i : Nat) : Nat := 0x61000 + 0x1000 * p + 0x64 + 0x4 * i
/-- FUS_BAR_ISCALE (R219). -/
abbrev FUS_BAR_ISCALE (p : Nat) (i : Nat) : Nat := 0x61000 + 0x1000 * p + 0x74 + 0x4 * i
/-- FUS_BAR_FLOW (R219). -/
abbrev FUS_BAR_FLOW (p : Nat) (i : Nat) : Nat := 0x61000 + 0x1000 * p + 0x84 + 0x4 * i
/-- FUS_BAR_VOTE (R219). -/
abbrev FUS_BAR_VOTE (p : Nat) : Nat := 0x61000 + 0x1000 * p + 0x94
/-- FUS_BAR_FLAGS (R219). -/
abbrev FUS_BAR_FLAGS (p : Nat) : Nat := 0x61000 + 0x1000 * p + 0xe0
/-- FUS_BAR_SEQ (R219). -/
abbrev FUS_BAR_SEQ (p : Nat) : Nat := 0x61000 + 0x1000 * p + 0xe4
/-- FUS_BAR_IRQ_SRC (R219). -/
abbrev FUS_BAR_IRQ_SRC (p : Nat) : Nat := 0x61000 + 0x1000 * p + 0xe8
/-- FUS_BAR_SRC_STAT (R219). -/
abbrev FUS_BAR_SRC_STAT (p : Nat) (i : Nat) : Nat := 0x61000 + 0x1000 * p + 0x100 + 0x4 * i
/-- FUS_BAR_POSE (R219). -/
abbrev FUS_BAR_POSE (p : Nat) (i : Nat) : Nat := 0x61000 + 0x1000 * p + 0x2c0 + 0x4 * i
/-- FUS_BAR_TOL (R219). -/
abbrev FUS_BAR_TOL (p : Nat) (i : Nat) : Nat := 0x61000 + 0x1000 * p + 0x98 + 0x4 * i
/-- FUS_BAR_AMEND (R219). -/
abbrev FUS_BAR_AMEND (p : Nat) (i : Nat) : Nat := 0x61000 + 0x1000 * p + 0xbc + 0x4 * i
/-- FUS_OVL (R220). -/
abbrev FUS_OVL (i : Nat) : Nat := 0x69040 + 0x4 * i
/-- FUS_GRID_CTRL (R220). -/
abbrev FUS_GRID_CTRL (i : Nat) : Nat := 0x69100 + 0x10 * i
/-- FUS_GRID_CORR (R220). -/
abbrev FUS_GRID_CORR (i : Nat) : Nat := 0x69104 + 0x10 * i
/-- FUS_GRID_CORR2 (R220). -/
abbrev FUS_GRID_CORR2 (i : Nat) : Nat := 0x69108 + 0x10 * i
/-- FUS_GRID_REF_VER (R220). -/
abbrev FUS_GRID_REF_VER (i : Nat) : Nat := 0x6910c + 0x10 * i
/-- FUS_REG_IRQ_PORT (R220). -/
abbrev FUS_REG_IRQ_PORT : Nat := 0x690c0
/-- FAB_CAIRN_FT_LO (R246). -/
abbrev FAB_CAIRN_FT_LO : Nat := 0x70040
/-- FAB_CAIRN_FT_HI (R246). -/
abbrev FAB_CAIRN_FT_HI : Nat := 0x70044
/-- FAB_CAIRN_SEQ (R246). -/
abbrev FAB_CAIRN_SEQ : Nat := 0x70048
/-- FAB_VC_STALL (R246). -/
abbrev FAB_VC_STALL (i : Nat) : Nat := 0x7004c + 0x4 * i
/-- FAB_UNROUTED_CNT (R246). -/
abbrev FAB_UNROUTED_CNT : Nat := 0x70058
/-- FAB_RESET_DROP_CNT (R246). -/
abbrev FAB_RESET_DROP_CNT : Nat := 0x7005c
/-- FAB_RGN_CTRL (R247). -/
abbrev FAB_RGN_CTRL : Nat := 0x71040
/-- FAB_RGN_DATA (R247). -/
abbrev FAB_RGN_DATA (i : Nat) : Nat := 0x71044 + 0x4 * i
/-- FAB_FO_BASE (R248). -/
abbrev FAB_FO_BASE : Nat := 0x72040
/-- FAB_FO_MSG_CNT (R248). -/
abbrev FAB_FO_MSG_CNT : Nat := 0x72044
/-- FAB_FO_NULL_CNT (R248). -/
abbrev FAB_FO_NULL_CNT : Nat := 0x72048
/-- FAB_FO_INVALID_CNT (R248). -/
abbrev FAB_FO_INVALID_CNT : Nat := 0x7204c
/-- FAB_FO_PINNED (R248). -/
abbrev FAB_FO_PINNED : Nat := 0x72050
/-- SB_CLOSE_TMO (R249). -/
abbrev SB_CLOSE_TMO (p : Nat) : Nat := 0x78000 + 0x1000 * p + 0x40
/-- SB_SLOT_CFG (R249). -/
abbrev SB_SLOT_CFG (p : Nat) (i : Nat) : Nat := 0x78000 + 0x1000 * p + 0x100 + 0x10 * i
/-- SB_SLOT_GEOM (R249). -/
abbrev SB_SLOT_GEOM (p : Nat) (i : Nat) : Nat := 0x78000 + 0x1000 * p + 0x104 + 0x10 * i
/-- SB_SLOT_BASE (R249). -/
abbrev SB_SLOT_BASE (p : Nat) (i : Nat) : Nat := 0x78000 + 0x1000 * p + 0x108 + 0x10 * i
/-- SB_SLOT_WIN (R249). -/
abbrev SB_SLOT_WIN (p : Nat) (i : Nat) : Nat := 0x78000 + 0x1000 * p + 0x10c + 0x10 * i
/-- SB_OUTSIDE_CNT (R249). -/
abbrev SB_OUTSIDE_CNT (p : Nat) : Nat := 0x78000 + 0x1000 * p + 0x900
/-- SB_TYPE_CNT (R249). -/
abbrev SB_TYPE_CNT (p : Nat) : Nat := 0x78000 + 0x1000 * p + 0x904
/-- SB_LATE_CNT (R249). -/
abbrev SB_LATE_CNT (p : Nat) : Nat := 0x78000 + 0x1000 * p + 0x908
/-- SB_SAT_CNT (R249). -/
abbrev SB_SAT_CNT (p : Nat) : Nat := 0x78000 + 0x1000 * p + 0x90c
/-- SB_STALL_FCY (R249). -/
abbrev SB_STALL_FCY (p : Nat) : Nat := 0x78000 + 0x1000 * p + 0x910
/-- SB_IRQ_SLOT (R249). -/
abbrev SB_IRQ_SLOT (p : Nat) : Nat := 0x78000 + 0x1000 * p + 0x914
/-- NC_MEM_BASE (R283). -/
abbrev NC_MEM_BASE (p : Nat) : Nat := ncPage p + 0x40
/-- NC_SYN_BASE (R283). -/
abbrev NC_SYN_BASE (p : Nat) : Nat := ncPage p + 0x44
/-- NC_SYN_SIZE (R283). -/
abbrev NC_SYN_SIZE (p : Nat) : Nat := ncPage p + 0x48
/-- NC_HOLD_BASE (R283). -/
abbrev NC_HOLD_BASE (p : Nat) : Nat := ncPage p + 0x4c
/-- NC_HOLD_CAP (R283). -/
abbrev NC_HOLD_CAP (p : Nat) : Nat := ncPage p + 0x50
/-- NC_IN_CFG (R283). -/
abbrev NC_IN_CFG (p : Nat) : Nat := ncPage p + 0x54
/-- NC_IN_GEOM (R283). -/
abbrev NC_IN_GEOM (p : Nat) : Nat := ncPage p + 0x58
/-- NC_IN_BASE (R283). -/
abbrev NC_IN_BASE (p : Nat) : Nat := ncPage p + 0x5c
/-- NC_STEP (R283). -/
abbrev NC_STEP (p : Nat) : Nat := ncPage p + 0x60
/-- NC_STRETCH (R283). -/
abbrev NC_STRETCH (p : Nat) : Nat := ncPage p + 0x64
/-- NC_TRACE_BASE (R283). -/
abbrev NC_TRACE_BASE (p : Nat) : Nat := ncPage p + 0x68
/-- NC_TRACE_CAP (R283). -/
abbrev NC_TRACE_CAP (p : Nat) : Nat := ncPage p + 0x6c
/-- NC_STATUS (R284). -/
abbrev NC_STATUS (p : Nat) : Nat := ncPage p + 0x70
/-- NC_STEP_END_LO (R284). -/
abbrev NC_STEP_END_LO (p : Nat) : Nat := ncPage p + 0x74
/-- NC_STEP_END_HI (R284). -/
abbrev NC_STEP_END_HI (p : Nat) : Nat := ncPage p + 0x78
/-- NC_FRONT_LO (R284). -/
abbrev NC_FRONT_LO (p : Nat) : Nat := ncPage p + 0x7c
/-- NC_FRONT_HI (R284). -/
abbrev NC_FRONT_HI (p : Nat) : Nat := ncPage p + 0x80
/-- NC_HOLD_FILL (R284). -/
abbrev NC_HOLD_FILL (p : Nat) : Nat := ncPage p + 0x84
/-- NC_STEP_CNT (R284). -/
abbrev NC_STEP_CNT (p : Nat) : Nat := ncPage p + 0xa0
/-- NC_SPIKE_CNT (R284). -/
abbrev NC_SPIKE_CNT (p : Nat) : Nat := ncPage p + 0xa4
/-- NC_SYN_CNT (R284). -/
abbrev NC_SYN_CNT (p : Nat) : Nat := ncPage p + 0xa8
/-- NC_SAT_CNT (R284). -/
abbrev NC_SAT_CNT (p : Nat) : Nat := ncPage p + 0xac
/-- NC_STATE_SAT_CNT (R284). -/
abbrev NC_STATE_SAT_CNT (p : Nat) : Nat := ncPage p + 0xb0
/-- NC_NAN_CNT (R284). -/
abbrev NC_NAN_CNT (p : Nat) : Nat := ncPage p + 0xb4
/-- NC_STRETCH_CNT (R284). -/
abbrev NC_STRETCH_CNT (p : Nat) : Nat := ncPage p + 0xb8
/-- NC_DROP_STEPS (R284). -/
abbrev NC_DROP_STEPS (p : Nat) : Nat := ncPage p + 0xbc
/-- NC_DROP_EV (R284). -/
abbrev NC_DROP_EV (p : Nat) : Nat := ncPage p + 0xc0
/-- NC_LATE_CNT (R284). -/
abbrev NC_LATE_CNT (p : Nat) : Nat := ncPage p + 0xc4
/-- NC_HOLD_FULL_CNT (R284). -/
abbrev NC_HOLD_FULL_CNT (p : Nat) : Nat := ncPage p + 0xc8
/-- NC_TRACE_FULL_CNT (R284). -/
abbrev NC_TRACE_FULL_CNT (p : Nat) : Nat := ncPage p + 0xcc
/-- NC_SYN_RANGE_CNT (R284). -/
abbrev NC_SYN_RANGE_CNT (p : Nat) : Nat := ncPage p + 0xd0
/-- NC_INACTIVE_CNT (R284). -/
abbrev NC_INACTIVE_CNT (p : Nat) : Nat := ncPage p + 0xd4
/-- NC_IN_OUTSIDE_CNT (R284). -/
abbrev NC_IN_OUTSIDE_CNT (p : Nat) : Nat := ncPage p + 0xd8
/-- NC_OUT_STALL_CCY (R284). -/
abbrev NC_OUT_STALL_CCY (p : Nat) : Nat := ncPage p + 0xdc
/-- NC_CLS_CFG (R285). -/
abbrev NC_CLS_CFG (p : Nat) (i : Nat) : Nat := ncPage p + 0x100 + 0x4 * i
/-- NC_CLS_K (R285). -/
abbrev NC_CLS_K (p : Nat) (i : Nat) : Nat := ncPage p + 0x200 + 0x4 * i
/-- NC_UPROG (R285). -/
abbrev NC_UPROG (p : Nat) (i : Nat) : Nat := ncPage p + 0x800 + 0x4 * i
/-- ANC_VAL_LO (R316). -/
abbrev ANC_VAL_LO (i : Nat) : Nat := 0x520000 + 0x10 * i
/-- ANC_VAL_HI (R316). -/
abbrev ANC_VAL_HI (i : Nat) : Nat := 0x520004 + 0x10 * i
/-- ANC_CTRL (R316). -/
abbrev ANC_CTRL (i : Nat) : Nat := 0x520008 + 0x10 * i
/-- ANC_OP (R316). -/
abbrev ANC_OP (i : Nat) : Nat := 0x52000c + 0x10 * i
/-- ANC_STALE_CNT (R323). -/
abbrev ANC_STALE_CNT : Nat := 0x4040
/-- ANC_FOREIGN_CNT (R323). -/
abbrev ANC_FOREIGN_CNT : Nat := 0x4044
/-- ANC_FAULT_CNT (R323). -/
abbrev ANC_FAULT_CNT : Nat := 0x4048
/-- ANC_OVF_CNT (R323). -/
abbrev ANC_OVF_CNT : Nat := 0x404c
/-- ANC_LAST (R323). -/
abbrev ANC_LAST : Nat := 0x4050
/-- TT_STATUS (R326). -/
abbrev TT_STATUS (p : Nat) : Nat := tilePage p + 0x40
/-- TT_QUEUE (R326). -/
abbrev TT_QUEUE (p : Nat) : Nat := tilePage p + 0x44
/-- TT_RET_CTRL (R326). -/
abbrev TT_RET_CTRL (p : Nat) : Nat := tilePage p + 0x48
/-- TT_RET_STATUS (R326). -/
abbrev TT_RET_STATUS (p : Nat) : Nat := tilePage p + 0x4c
/-- TT_SRAM_UE_ADDR (R326). -/
abbrev TT_SRAM_UE_ADDR (p : Nat) : Nat := tilePage p + 0x50
/-- TT_WAVE_LO (R326). -/
abbrev TT_WAVE_LO (p : Nat) : Nat := tilePage p + 0x80
/-- TT_WAVE_HI (R326). -/
abbrev TT_WAVE_HI (p : Nat) : Nat := tilePage p + 0x84
/-- TT_OPND_STALL_CCY (R326). -/
abbrev TT_OPND_STALL_CCY (p : Nat) : Nat := tilePage p + 0x88
/-- TT_ANC_WAIT_CCY (R326). -/
abbrev TT_ANC_WAIT_CCY (p : Nat) : Nat := tilePage p + 0x8c
/-- TT_BANK_CONFLICT_CCY (R326). -/
abbrev TT_BANK_CONFLICT_CCY (p : Nat) : Nat := tilePage p + 0x90
/-- TT_CVT_SAT_CNT (R326). -/
abbrev TT_CVT_SAT_CNT (p : Nat) : Nat := tilePage p + 0x94
/-- TT_NAN_CNT (R326). -/
abbrev TT_NAN_CNT (p : Nat) : Nat := tilePage p + 0x98
/-- TT_ACC_WRAP_CNT (R326). -/
abbrev TT_ACC_WRAP_CNT (p : Nat) : Nat := tilePage p + 0x9c
/-- TT_SRAM_CE_CNT (R326). -/
abbrev TT_SRAM_CE_CNT (p : Nat) : Nat := tilePage p + 0xa0
/-- TT_SRAM_UE_CNT (R326). -/
abbrev TT_SRAM_UE_CNT (p : Nat) : Nat := tilePage p + 0xa4
/-- TT_STASH_LINES (R326). -/
abbrev TT_STASH_LINES (p : Nat) : Nat := tilePage p + 0xa8
/-- TT_STASH_XFER_CNT (R326). -/
abbrev TT_STASH_XFER_CNT (p : Nat) : Nat := tilePage p + 0xac
/-- TT_STASH_FAULT_CNT (R326). -/
abbrev TT_STASH_FAULT_CNT (p : Nat) : Nat := tilePage p + 0xb0
/-- TT_CMD_CNT (R326). -/
abbrev TT_CMD_CNT (p : Nat) : Nat := tilePage p + 0xb4
/-- WW_STATUS (R352). -/
abbrev WW_STATUS (p : Nat) : Nat := tilePage p + 0x400
/-- WW_POS (R352). -/
abbrev WW_POS (p : Nat) : Nat := tilePage p + 0x404
/-- WW_LAST_STATUS (R352). -/
abbrev WW_LAST_STATUS (p : Nat) : Nat := tilePage p + 0x408
/-- WW_LAST_OUT (R352). -/
abbrev WW_LAST_OUT (p : Nat) : Nat := tilePage p + 0x40c
/-- WW_LAST_COMP_BYTES (R352). -/
abbrev WW_LAST_COMP_BYTES (p : Nat) : Nat := tilePage p + 0x410
/-- WW_HALO_WAIT_CCY (R352). -/
abbrev WW_HALO_WAIT_CCY (p : Nat) : Nat := tilePage p + 0x414
/-- WW_HALO_STALE_CNT (R352). -/
abbrev WW_HALO_STALE_CNT (p : Nat) : Nat := tilePage p + 0x418
/-- WW_COMP_STALL_CCY (R352). -/
abbrev WW_COMP_STALL_CCY (p : Nat) : Nat := tilePage p + 0x41c
/-- WW_PAD_SAMPLES (R352). -/
abbrev WW_PAD_SAMPLES (p : Nat) : Nat := tilePage p + 0x420
/-- WW_EMPTY_CNT (R352). -/
abbrev WW_EMPTY_CNT (p : Nat) : Nat := tilePage p + 0x424
/-- WW_ZERO_DIM_CNT (R352). -/
abbrev WW_ZERO_DIM_CNT (p : Nat) : Nat := tilePage p + 0x428
/-- WW_GEOM_ERR_CNT (R352). -/
abbrev WW_GEOM_ERR_CNT (p : Nat) : Nat := tilePage p + 0x42c
/-- WW_HEAD (R352). -/
abbrev WW_HEAD (p : Nat) (i : Nat) : Nat := tilePage p + 0x440 + 0x4 * i
/-- WW_VHEAD (R352). -/
abbrev WW_VHEAD (p : Nat) (i : Nat) : Nat := tilePage p + 0x4c0 + 0x4 * i
/-- CC_SCRUB (R327). -/
abbrev CC_SCRUB (p : Nat) : Nat := 0x100000 + 0x40000 * p + 0x100
/-- CC_SRAM_CE_CNT (R327). -/
abbrev CC_SRAM_CE_CNT (p : Nat) : Nat := 0x100000 + 0x40000 * p + 0x104
/-- CC_SRAM_UE_CNT (R327). -/
abbrev CC_SRAM_UE_CNT (p : Nat) : Nat := 0x100000 + 0x40000 * p + 0x108
/-- CC_SRAM_UE_ADDR (R327). -/
abbrev CC_SRAM_UE_ADDR (p : Nat) : Nat := 0x100000 + 0x40000 * p + 0x10c
/-- CC_RET_CTRL (R327). -/
abbrev CC_RET_CTRL (p : Nat) : Nat := 0x100000 + 0x40000 * p + 0x110
/-- CC_RET_STATUS (R327). -/
abbrev CC_RET_STATUS (p : Nat) : Nat := 0x100000 + 0x40000 * p + 0x114
/-- CC_PART (R428). -/
abbrev CC_PART (p : Nat) : Nat := 0x100000 + 0x40000 * p + 0x40
/-- CC_BIND (R428). -/
abbrev CC_BIND (p : Nat) : Nat := 0x100000 + 0x40000 * p + 0x44
/-- CC_FW_VER (R428). -/
abbrev CC_FW_VER (p : Nat) : Nat := 0x100000 + 0x40000 * p + 0x48
/-- CC_FW_GEN (R428). -/
abbrev CC_FW_GEN (p : Nat) : Nat := 0x100000 + 0x40000 * p + 0x4c
/-- CC_TILES_BOUND (R428). -/
abbrev CC_TILES_BOUND (p : Nat) : Nat := 0x100000 + 0x40000 * p + 0x50
/-- CC_NC_BOUND (R428). -/
abbrev CC_NC_BOUND (p : Nat) : Nat := 0x100000 + 0x40000 * p + 0x54
/-- CC_CMD_CNT (R428). -/
abbrev CC_CMD_CNT (p : Nat) : Nat := 0x100000 + 0x40000 * p + 0x58
/-- CC_STASH_LATE_CNT (R428). -/
abbrev CC_STASH_LATE_CNT (p : Nat) : Nat := 0x100000 + 0x40000 * p + 0x5c
/-- CC_RELOAD_CNT (R428). -/
abbrev CC_RELOAD_CNT (p : Nat) : Nat := 0x100000 + 0x40000 * p + 0x60
/-- APX_LEAN_STAT (R380). -/
abbrev APX_LEAN_STAT : Nat := 0x500040
/-- APX_LEAN_OVR (R380). -/
abbrev APX_LEAN_OVR : Nat := 0x500044
/-- APX_POLICY (R380). -/
abbrev APX_POLICY : Nat := 0x500048
/-- APX_HYST_STAT (R380). -/
abbrev APX_HYST_STAT : Nat := 0x50004c
/-- APX_REPLAY_RATE (R380). -/
abbrev APX_REPLAY_RATE : Nat := 0x500050
/-- APX_REPLAY_CEIL (R380). -/
abbrev APX_REPLAY_CEIL : Nat := 0x500054
/-- APX_REPLAY_LO (R380). -/
abbrev APX_REPLAY_LO : Nat := 0x500058
/-- APX_REPLAY_HI (R380). -/
abbrev APX_REPLAY_HI : Nat := 0x50005c
/-- APX_BEAT_LO (R380). -/
abbrev APX_BEAT_LO : Nat := 0x500060
/-- APX_BEAT_HI (R380). -/
abbrev APX_BEAT_HI : Nat := 0x500064
/-- APX_STEP_DOWN_CNT (R380). -/
abbrev APX_STEP_DOWN_CNT : Nat := 0x500068
/-- APX_STEP_UP_CNT (R380). -/
abbrev APX_STEP_UP_CNT : Nat := 0x50006c
/-- APX_LEAN0_MM_CNT (R380). -/
abbrev APX_LEAN0_MM_CNT : Nat := 0x500070
/-- APX_RES_MS (R380). -/
abbrev APX_RES_MS (i : Nat) : Nat := 0x500080 + 0x4 * i
/-- APX_TT_REPLAY (R380). -/
abbrev APX_TT_REPLAY (i : Nat) : Nat := 0x500200 + 0x4 * i
/-- APX_NC_REPLAY (R380). -/
abbrev APX_NC_REPLAY (i : Nat) : Nat := 0x500400 + 0x4 * i
/-- APX_CHK_CFG (R381). -/
abbrev APX_CHK_CFG : Nat := 0x501040
/-- APX_CHK_WIN (R381). -/
abbrev APX_CHK_WIN : Nat := 0x501044
/-- APX_CHK_CMP_LO (R381). -/
abbrev APX_CHK_CMP_LO : Nat := 0x501048
/-- APX_CHK_CMP_HI (R381). -/
abbrev APX_CHK_CMP_HI : Nat := 0x50104c
/-- APX_CHK_MM_CNT (R381). -/
abbrev APX_CHK_MM_CNT : Nat := 0x501050
/-- APX_CHK_SKIP_CNT (R381). -/
abbrev APX_CHK_SKIP_CNT : Nat := 0x501054
/-- APX_CHK_QFILL (R381). -/
abbrev APX_CHK_QFILL : Nat := 0x501058
/-- APX_CHK_LAST (R381). -/
abbrev APX_CHK_LAST : Nat := 0x50105c
/-- APX_CHK_LAST_SEQ (R381). -/
abbrev APX_CHK_LAST_SEQ : Nat := 0x501060
/-- APX_CHK_LAST_FT_LO (R381). -/
abbrev APX_CHK_LAST_FT_LO : Nat := 0x501064
/-- APX_CHK_LAST_FT_HI (R381). -/
abbrev APX_CHK_LAST_FT_HI : Nat := 0x501068
/-- APX_ESC_GUARD (R382). -/
abbrev APX_ESC_GUARD : Nat := 0x502040
/-- APX_ESC_EXACT_LATE (R382). -/
abbrev APX_ESC_EXACT_LATE : Nat := 0x502044
/-- APX_ESC_PAIRS (R382). -/
abbrev APX_ESC_PAIRS : Nat := 0x502048
/-- APX_ESC_CFG (R382). -/
abbrev APX_ESC_CFG (i : Nat) : Nat := 0x502100 + 0x10 * i
/-- APX_ESC_THR (R382). -/
abbrev APX_ESC_THR (i : Nat) : Nat := 0x502104 + 0x10 * i
/-- APX_ESC_CNT (R382). -/
abbrev APX_ESC_CNT (i : Nat) : Nat := 0x502108 + 0x10 * i
/-- APX_ESC_LEAN_CNT (R382). -/
abbrev APX_ESC_LEAN_CNT (i : Nat) : Nat := 0x50210c + 0x10 * i
/-- OUT_CFG (R404). -/
abbrev OUT_CFG : Nat := 0x510040
/-- OUT_SHEET (R404). -/
abbrev OUT_SHEET : Nat := 0x510044
/-- OUT_SHEET_ANGLE0 (R404). -/
abbrev OUT_SHEET_ANGLE0 : Nat := 0x510048
/-- OUT_SHEET_CUR (R404). -/
abbrev OUT_SHEET_CUR : Nat := 0x51004c
/-- OUT_TRACK_CFG (R404). -/
abbrev OUT_TRACK_CFG : Nat := 0x510050
/-- OUT_VSLACK_MIN (R404). -/
abbrev OUT_VSLACK_MIN : Nat := 0x510054
/-- OUT_VLAT_MAX (R404). -/
abbrev OUT_VLAT_MAX : Nat := 0x510058
/-- OUT_VERDICT_CNT (R404). -/
abbrev OUT_VERDICT_CNT : Nat := 0x510060
/-- OUT_NORESULT_CNT (R404). -/
abbrev OUT_NORESULT_CNT : Nat := 0x510064
/-- OUT_LATE_RESULT_CNT (R404). -/
abbrev OUT_LATE_RESULT_CNT : Nat := 0x510068
/-- OUT_UNTILED_CNT (R404). -/
abbrev OUT_UNTILED_CNT : Nat := 0x51006c
/-- OUT_TRACK_FULL_CNT (R404). -/
abbrev OUT_TRACK_FULL_CNT : Nat := 0x510070
/-- OUT_CORR_BAD_CNT (R404). -/
abbrev OUT_CORR_BAD_CNT : Nat := 0x510074
/-- OUT_AMEND_CNT (R404). -/
abbrev OUT_AMEND_CNT : Nat := 0x510078
/-- OUT_ETH0_ADDR (R404). -/
abbrev OUT_ETH0_ADDR (i : Nat) : Nat := 0x510080 + 0x4 * i
/-- OUT_ETH1_ADDR (R404). -/
abbrev OUT_ETH1_ADDR (i : Nat) : Nat := 0x5100a0 + 0x4 * i
/-- OUT_BAR_X (R405). -/
abbrev OUT_BAR_X (i : Nat) : Nat := 0x511100 + 0x20 * i
/-- OUT_BAR_TILE (R405). -/
abbrev OUT_BAR_TILE (i : Nat) : Nat := 0x511104 + 0x20 * i
/-- OUT_BAR_YMIN (R405). -/
abbrev OUT_BAR_YMIN (i : Nat) : Nat := 0x511108 + 0x20 * i
/-- OUT_BAR_OFFS (R405). -/
abbrev OUT_BAR_OFFS (i : Nat) : Nat := 0x51110c + 0x20 * i
/-- OUT_UNIT_CFG (R405). -/
abbrev OUT_UNIT_CFG (i : Nat) : Nat := 0x511400 + 0x20 * i
/-- OUT_UNIT_DL (R405). -/
abbrev OUT_UNIT_DL (i : Nat) : Nat := 0x511404 + 0x20 * i
/-- OUT_UNIT_SLACK_LAST (R405). -/
abbrev OUT_UNIT_SLACK_LAST (i : Nat) : Nat := 0x511408 + 0x20 * i
/-- OUT_UNIT_SLACK_MIN (R405). -/
abbrev OUT_UNIT_SLACK_MIN (i : Nat) : Nat := 0x51140c + 0x20 * i
/-- OUT_UNIT_MISS_CNT (R405). -/
abbrev OUT_UNIT_MISS_CNT (i : Nat) : Nat := 0x511410 + 0x20 * i
/-- OUT_UNIT_HELD_CNT (R405). -/
abbrev OUT_UNIT_HELD_CNT (i : Nat) : Nat := 0x511414 + 0x20 * i
/-- OUT_UNIT_IRQ_SRC (R405). -/
abbrev OUT_UNIT_IRQ_SRC : Nat := 0x511040
/-- OUT_STR_CFG (R406). -/
abbrev OUT_STR_CFG (p : Nat) : Nat := 0x512000 + 0x1000 * p + 0x40
/-- OUT_STR_RING_LO (R406). -/
abbrev OUT_STR_RING_LO (p : Nat) (i : Nat) : Nat := 0x512000 + 0x1000 * p + 0x44 + 0x4 * i
/-- OUT_STR_RING (R406). -/
abbrev OUT_STR_RING (p : Nat) : Nat := 0x512000 + 0x1000 * p + 0x4c
/-- OUT_STR_HEAD (R406). -/
abbrev OUT_STR_HEAD (p : Nat) : Nat := 0x512000 + 0x1000 * p + 0x50
/-- OUT_STR_TAIL (R406). -/
abbrev OUT_STR_TAIL (p : Nat) : Nat := 0x512000 + 0x1000 * p + 0x54
/-- OUT_STR_DST_IP (R406). -/
abbrev OUT_STR_DST_IP (p : Nat) (i : Nat) : Nat := 0x512000 + 0x1000 * p + 0x58 + 0x4 * i
/-- OUT_STR_DST_MAC_LO (R406). -/
abbrev OUT_STR_DST_MAC_LO (p : Nat) (i : Nat) : Nat := 0x512000 + 0x1000 * p + 0x68 + 0x4 * i
/-- OUT_STR_PORTS (R406). -/
abbrev OUT_STR_PORTS (p : Nat) : Nat := 0x512000 + 0x1000 * p + 0x70
/-- OUT_STR_UDP (R406). -/
abbrev OUT_STR_UDP (p : Nat) : Nat := 0x512000 + 0x1000 * p + 0x74
/-- OUT_STR_REC_CNT (R406). -/
abbrev OUT_STR_REC_CNT (p : Nat) : Nat := 0x512000 + 0x1000 * p + 0x80
/-- OUT_STR_DROP_CNT (R406). -/
abbrev OUT_STR_DROP_CNT (p : Nat) : Nat := 0x512000 + 0x1000 * p + 0x84
/-- OUT_STR_DGRAM_CNT (R406). -/
abbrev OUT_STR_DGRAM_CNT (p : Nat) : Nat := 0x512000 + 0x1000 * p + 0x88
/-- OUT_STR_BUF_FILL (R406). -/
abbrev OUT_STR_BUF_FILL (p : Nat) : Nat := 0x512000 + 0x1000 * p + 0x8c
/-- HIF_W_STATUS (R436). -/
abbrev HIF_W_STATUS (p : Nat) : Nat := 0x10000000 + 0x10000 * p + 0x8000
/-- HIF_W_NEXT_SEQ (R436). -/
abbrev HIF_W_NEXT_SEQ (p : Nat) : Nat := 0x10000000 + 0x10000 * p + 0x8004
/-- HIF_W_CQ_BASE_LO (R436). -/
abbrev HIF_W_CQ_BASE_LO (p : Nat) : Nat := 0x10000000 + 0x10000 * p + 0x8008
/-- HIF_W_CQ_BASE_HI (R436). -/
abbrev HIF_W_CQ_BASE_HI (p : Nat) : Nat := 0x10000000 + 0x10000 * p + 0x800c
/-- HIF_W_CQ_CFG (R436). -/
abbrev HIF_W_CQ_CFG (p : Nat) : Nat := 0x10000000 + 0x10000 * p + 0x8010
/-- HIF_W_CQ_HEAD (R436). -/
abbrev HIF_W_CQ_HEAD (p : Nat) : Nat := 0x10000000 + 0x10000 * p + 0x8014
/-- HIF_W_CQ_TAIL (R436). -/
abbrev HIF_W_CQ_TAIL (p : Nat) : Nat := 0x10000000 + 0x10000 * p + 0x8018
/-- HIF_W_HELD (R436). -/
abbrev HIF_W_HELD (p : Nat) : Nat := 0x10000000 + 0x10000 * p + 0x801c
/-- HIF_W_REFUSE_CNT (R436). -/
abbrev HIF_W_REFUSE_CNT (p : Nat) : Nat := 0x10000000 + 0x10000 * p + 0x8020
/-- HIF_W_OVER_BUDGET_CNT (R436). -/
abbrev HIF_W_OVER_BUDGET_CNT (p : Nat) : Nat := 0x10000000 + 0x10000 * p + 0x8024
/-- HIF_W_DONE_CNT (R436). -/
abbrev HIF_W_DONE_CNT (p : Nat) : Nat := 0x10000000 + 0x10000 * p + 0x8028
/-- HIF_W_ABORT (R436). -/
abbrev HIF_W_ABORT (p : Nat) : Nat := 0x10000000 + 0x10000 * p + 0x802c
/-- GLB_IRQ_PEND (R454). -/
abbrev GLB_IRQ_PEND (i : Nat) : Nat := 0x3040 + 0x4 * i
/-- GLB_IRQ_ROUTE (R454). -/
abbrev GLB_IRQ_ROUTE (i : Nat) : Nat := 0x3400 + 0x4 * i
/-- HIF_LINK (R455). -/
abbrev HIF_LINK : Nat := 0x10040
/-- HIF_NUM_VFS (R455). -/
abbrev HIF_NUM_VFS : Nat := 0x10044
/-- HIF_SEQ_ERR_CNT (R455). -/
abbrev HIF_SEQ_ERR_CNT : Nat := 0x10048
/-- HIF_WIN_DENIED_CNT (R455). -/
abbrev HIF_WIN_DENIED_CNT : Nat := 0x1004c
/-- HIF_LATE_DISCARD_CNT (R455). -/
abbrev HIF_LATE_DISCARD_CNT : Nat := 0x10050
/-- HIF_DMA_ERR_CNT (R455). -/
abbrev HIF_DMA_ERR_CNT : Nat := 0x10054
/-- HIF_CTX_SEL (R456). -/
abbrev HIF_CTX_SEL : Nat := 0x11040
/-- HIF_CTX_OWN (R456). -/
abbrev HIF_CTX_OWN : Nat := 0x11044
/-- HIF_CTX_MEM_BASE (R456). -/
abbrev HIF_CTX_MEM_BASE : Nat := 0x11048
/-- HIF_CTX_MEM_SIZE (R456). -/
abbrev HIF_CTX_MEM_SIZE : Nat := 0x1104c
/-- HIF_CTX_BUDGET (R456). -/
abbrev HIF_CTX_BUDGET : Nat := 0x11050
/-- HIF_CTX_ANC (R456). -/
abbrev HIF_CTX_ANC : Nat := 0x11054
/-- HIF_CTX_STAT (R456). -/
abbrev HIF_CTX_STAT : Nat := 0x11058
/-- LNK_ADDR (R488). -/
abbrev LNK_ADDR : Nat := 0x600040
/-- LNK_ROPE (R488). -/
abbrev LNK_ROPE : Nat := 0x600044
/-- LNK_FM (R488). -/
abbrev LNK_FM : Nat := 0x600048
/-- LNK_SW_CFG (R488). -/
abbrev LNK_SW_CFG : Nat := 0x60004c
/-- LNK_GEN (R488). -/
abbrev LNK_GEN : Nat := 0x600050
/-- LNK_FWD_CNT (R488). -/
abbrev LNK_FWD_CNT : Nat := 0x600060
/-- LNK_LOCAL_CNT (R488). -/
abbrev LNK_LOCAL_CNT : Nat := 0x600064
/-- LNK_NOROUTE_CNT (R488). -/
abbrev LNK_NOROUTE_CNT : Nat := 0x600068
/-- LNK_TTL_CNT (R488). -/
abbrev LNK_TTL_CNT : Nat := 0x60006c
/-- LNK_SR_BAD_CNT (R488). -/
abbrev LNK_SR_BAD_CNT : Nat := 0x600070
/-- LNK_CRC_CNT (R488). -/
abbrev LNK_CRC_CNT : Nat := 0x600074
/-- LNK_STOMP_CNT (R488). -/
abbrev LNK_STOMP_CNT : Nat := 0x600078
/-- LNK_FAILOVER_CNT (R488). -/
abbrev LNK_FAILOVER_CNT : Nat := 0x60007c
/-- LNK_SEQ_GAP_CNT (R488). -/
abbrev LNK_SEQ_GAP_CNT : Nat := 0x600080
/-- LNK_SEQ_OLD_CNT (R488). -/
abbrev LNK_SEQ_OLD_CNT : Nat := 0x600084
/-- LNK_CROSS_ROPE_CNT (R488). -/
abbrev LNK_CROSS_ROPE_CNT : Nat := 0x600088
/-- LNK_RELAY_DROP_CNT (R488). -/
abbrev LNK_RELAY_DROP_CNT : Nat := 0x60008c
/-- LNK_SKEW_CNT (R488). -/
abbrev LNK_SKEW_CNT : Nat := 0x600090
/-- LNK_RELAY_CFG (R488). -/
abbrev LNK_RELAY_CFG : Nat := 0x6000a0
/-- LNK_RELAY_TX_LO (R488). -/
abbrev LNK_RELAY_TX_LO (i : Nat) : Nat := 0x6000a4 + 0x4 * i
/-- LNK_RELAY_TX_HEAD (R488). -/
abbrev LNK_RELAY_TX_HEAD : Nat := 0x6000ac
/-- LNK_RELAY_TX_TAIL (R488). -/
abbrev LNK_RELAY_TX_TAIL : Nat := 0x6000b0
/-- LNK_RELAY_RX_LO (R488). -/
abbrev LNK_RELAY_RX_LO (i : Nat) : Nat := 0x6000b4 + 0x4 * i
/-- LNK_RELAY_RX_HEAD (R488). -/
abbrev LNK_RELAY_RX_HEAD : Nat := 0x6000bc
/-- LNK_RELAY_RX_TAIL (R488). -/
abbrev LNK_RELAY_RX_TAIL : Nat := 0x6000c0
/-- LNK_RBAR (R488). -/
abbrev LNK_RBAR (i : Nat) : Nat := 0x600100 + 0x10 * i
/-- LNK_RBAR_SKEW (R488). -/
abbrev LNK_RBAR_SKEW (i : Nat) : Nat := 0x600104 + 0x10 * i
/-- LNK_RBAR_SEQ (R488). -/
abbrev LNK_RBAR_SEQ (i : Nat) : Nat := 0x600108 + 0x10 * i
/-- LNK_FWD (R488). -/
abbrev LNK_FWD (i : Nat) : Nat := 0x600180 + 0x4 * i
/-- LNK_CFG (R489). -/
abbrev LNK_CFG (p : Nat) : Nat := 0x601000 + 0x1000 * p + 0x40
/-- LNK_STATUS (R489). -/
abbrev LNK_STATUS (p : Nat) : Nat := 0x601000 + 0x1000 * p + 0x44
/-- LNK_PEER_UID_LO (R489). -/
abbrev LNK_PEER_UID_LO (p : Nat) (i : Nat) : Nat := 0x601000 + 0x1000 * p + 0x48 + 0x4 * i
/-- LNK_PEER (R489). -/
abbrev LNK_PEER (p : Nat) : Nat := 0x601000 + 0x1000 * p + 0x50
/-- LNK_PEER_ROPE (R489). -/
abbrev LNK_PEER_ROPE (p : Nat) : Nat := 0x601000 + 0x1000 * p + 0x54
/-- LNK_PEER_OFF (R489). -/
abbrev LNK_PEER_OFF (p : Nat) : Nat := 0x601000 + 0x1000 * p + 0x58
/-- LNK_PEER_DELAY (R489). -/
abbrev LNK_PEER_DELAY (p : Nat) : Nat := 0x601000 + 0x1000 * p + 0x5c
/-- LNK_FEC_CORR_CNT (R489). -/
abbrev LNK_FEC_CORR_CNT (p : Nat) : Nat := 0x601000 + 0x1000 * p + 0x60
/-- LNK_FEC_UNCORR_CNT (R489). -/
abbrev LNK_FEC_UNCORR_CNT (p : Nat) : Nat := 0x601000 + 0x1000 * p + 0x64
/-- LNK_REPLAY_CNT (R489). -/
abbrev LNK_REPLAY_CNT (p : Nat) : Nat := 0x601000 + 0x1000 * p + 0x68
/-- LNK_DOWN_CNT (R489). -/
abbrev LNK_DOWN_CNT (p : Nat) : Nat := 0x601000 + 0x1000 * p + 0x6c
/-- LNK_HELLO_MISS_CNT (R489). -/
abbrev LNK_HELLO_MISS_CNT (p : Nat) : Nat := 0x601000 + 0x1000 * p + 0x70
/-- LNK_TX_FRAMES (R489). -/
abbrev LNK_TX_FRAMES (p : Nat) : Nat := 0x601000 + 0x1000 * p + 0x74
/-- LNK_RX_FRAMES (R489). -/
abbrev LNK_RX_FRAMES (p : Nat) : Nat := 0x601000 + 0x1000 * p + 0x78
/-- LNK_VC_STALL0 (R489). -/
abbrev LNK_VC_STALL0 (p : Nat) : Nat := 0x601000 + 0x1000 * p + 0x7c
/-- LNK_VC_STALL1 (R489). -/
abbrev LNK_VC_STALL1 (p : Nat) : Nat := 0x601000 + 0x1000 * p + 0x80
/-- LNK_VC_STALL2 (R489). -/
abbrev LNK_VC_STALL2 (p : Nat) : Nat := 0x601000 + 0x1000 * p + 0x84
/-- REC_CFG (R520). -/
abbrev REC_CFG : Nat := 0x800040
/-- REC_TMO (R520). -/
abbrev REC_TMO : Nat := 0x800044
/-- REC_STATE (R520). -/
abbrev REC_STATE : Nat := 0x800048
/-- REC_TARGET (R520). -/
abbrev REC_TARGET : Nat := 0x80004c
/-- REC_CAUSE (R520). -/
abbrev REC_CAUSE : Nat := 0x800050
/-- REC_HEARTBEAT (R520). -/
abbrev REC_HEARTBEAT : Nat := 0x800054
/-- REC_DUMP_BASE (R520). -/
abbrev REC_DUMP_BASE : Nat := 0x800058
/-- REC_DUMP_SLOTS (R520). -/
abbrev REC_DUMP_SLOTS : Nat := 0x80005c
/-- REC_DUMP_SEQ (R520). -/
abbrev REC_DUMP_SEQ : Nat := 0x800060
/-- REC_PWRCYC (R520). -/
abbrev REC_PWRCYC : Nat := 0x800064
/-- REC_WDT (R520). -/
abbrev REC_WDT : Nat := 0x800068
/-- REC_PART_GEN (R520). -/
abbrev REC_PART_GEN (i : Nat) : Nat := 0x800070 + 0x4 * i
/-- REC_E1_CNT (R520). -/
abbrev REC_E1_CNT : Nat := 0x8000a0
/-- REC_E2_CNT (R520). -/
abbrev REC_E2_CNT : Nat := 0x8000a4
/-- REC_E3_CNT (R520). -/
abbrev REC_E3_CNT : Nat := 0x8000a8
/-- REC_E4_CNT (R520). -/
abbrev REC_E4_CNT : Nat := 0x8000ac
/-- REC_E5_CNT (R520). -/
abbrev REC_E5_CNT : Nat := 0x8000b0
/-- REC_STALE_CNT (R520). -/
abbrev REC_STALE_CNT : Nat := 0x8000b4
/-- REC_BLAME_CNT (R520). -/
abbrev REC_BLAME_CNT : Nat := 0x8000b8
/-- REC_NOBLAME_CNT (R520). -/
abbrev REC_NOBLAME_CNT : Nat := 0x8000bc
/-- REC_ABSORB_CNT (R520). -/
abbrev REC_ABSORB_CNT : Nat := 0x8000c0
/-- REC_DUMP_CNT (R520). -/
abbrev REC_DUMP_CNT : Nat := 0x8000c4
/-- REC_DUMP_INVALID_CNT (R520). -/
abbrev REC_DUMP_INVALID_CNT : Nat := 0x8000c8
/-- REC_DUMP_TIMEOUT_CNT (R520). -/
abbrev REC_DUMP_TIMEOUT_CNT : Nat := 0x8000cc
/-- REC_DUMP_UE_CNT (R520). -/
abbrev REC_DUMP_UE_CNT : Nat := 0x8000d0
/-- REC_DUMP_OVERWRITE_CNT (R520). -/
abbrev REC_DUMP_OVERWRITE_CNT : Nat := 0x8000d4
/-- REC_HELPER_RST_CNT (R520). -/
abbrev REC_HELPER_RST_CNT : Nat := 0x8000d8
/-- REC_WAIT_TIMEOUT_CNT (R520). -/
abbrev REC_WAIT_TIMEOUT_CNT : Nat := 0x8000dc
/-- REC_PROG_CMD (R520). -/
abbrev REC_PROG_CMD (i : Nat) : Nat := 0x800100 + 0x8 * i
/-- REC_PROG_STEP (R520). -/
abbrev REC_PROG_STEP (i : Nat) : Nat := 0x800104 + 0x8 * i
/-- UPD_BOOT_STAT (R556). -/
abbrev UPD_BOOT_STAT : Nat := 0x900040
/-- UPD_SLOT_STATE (R556). -/
abbrev UPD_SLOT_STATE : Nat := 0x900044
/-- UPD_VER_A (R556). -/
abbrev UPD_VER_A : Nat := 0x900048
/-- UPD_VER_B (R556). -/
abbrev UPD_VER_B : Nat := 0x90004c
/-- UPD_HEALTH (R556). -/
abbrev UPD_HEALTH : Nat := 0x900050
/-- UPD_CFG (R556). -/
abbrev UPD_CFG : Nat := 0x900054
/-- UPD_XFER_ID (R556). -/
abbrev UPD_XFER_ID : Nat := 0x900058
/-- UPD_XFER_STAT (R556). -/
abbrev UPD_XFER_STAT : Nat := 0x90005c
/-- UPD_BITMAP (R556). -/
abbrev UPD_BITMAP (i : Nat) : Nat := 0x900060 + 0x4 * i
/-- UPD_HOLDUP_V (R556). -/
abbrev UPD_HOLDUP_V : Nat := 0x9000c0
/-- UPD_HOLDUP_E (R556). -/
abbrev UPD_HOLDUP_E : Nat := 0x9000c4
/-- UPD_FRAG_CNT (R556). -/
abbrev UPD_FRAG_CNT : Nat := 0x9000d0
/-- UPD_FRAG_DROP_CNT (R556). -/
abbrev UPD_FRAG_DROP_CNT : Nat := 0x9000d4
/-- UPD_CHUNK_BAD_CNT (R556). -/
abbrev UPD_CHUNK_BAD_CNT : Nat := 0x9000d8
/-- UPD_CHUNK_DUP_CNT (R556). -/
abbrev UPD_CHUNK_DUP_CNT : Nat := 0x9000dc
/-- UPD_STORE_CNT (R556). -/
abbrev UPD_STORE_CNT : Nat := 0x9000e0
/-- UPD_HOLDUP_REFUSE_CNT (R556). -/
abbrev UPD_HOLDUP_REFUSE_CNT : Nat := 0x9000e4
/-- UPD_FLASH_ERR_CNT (R556). -/
abbrev UPD_FLASH_ERR_CNT : Nat := 0x9000e8
/-- UPD_SET_SKIP_CNT (R556). -/
abbrev UPD_SET_SKIP_CNT : Nat := 0x9000ec
/-- UPD_FL_ADDR (R556). -/
abbrev UPD_FL_ADDR : Nat := 0x900100
/-- UPD_FL_CTRL (R556). -/
abbrev UPD_FL_CTRL : Nat := 0x900104
/-- UPD_FL_DATA_LO (R556). -/
abbrev UPD_FL_DATA_LO : Nat := 0x900108
/-- UPD_FL_DATA_HI (R556). -/
abbrev UPD_FL_DATA_HI : Nat := 0x90010c
/-- UPD_FL_STAT (R556). -/
abbrev UPD_FL_STAT : Nat := 0x900110
/-- SEC_STATUS (R572). -/
abbrev SEC_STATUS : Nat := 0x901040
/-- SEC_CFG_SEQ (R572). -/
abbrev SEC_CFG_SEQ : Nat := 0x901044
/-- SEC_FLOOR (R572). -/
abbrev SEC_FLOOR : Nat := 0x901048
/-- SEC_UID_LO (R572). -/
abbrev SEC_UID_LO (i : Nat) : Nat := 0x90104c + 0x4 * i
/-- SEC_PUF_STAT (R572). -/
abbrev SEC_PUF_STAT : Nat := 0x901054
/-- SEC_AK_PK (R572). -/
abbrev SEC_AK_PK (i : Nat) : Nat := 0x901060 + 0x4 * i
/-- SEC_MEAS_ACC (R572). -/
abbrev SEC_MEAS_ACC (i : Nat) : Nat := 0x9010a0 + 0x4 * i
/-- SEC_MEAS_CNT (R572). -/
abbrev SEC_MEAS_CNT : Nat := 0x9010e0
/-- SEC_Q_NONCE (R572). -/
abbrev SEC_Q_NONCE (i : Nat) : Nat := 0x901100 + 0x4 * i
/-- SEC_Q_CTRL (R572). -/
abbrev SEC_Q_CTRL : Nat := 0x901140
/-- SEC_Q_STAT (R572). -/
abbrev SEC_Q_STAT : Nat := 0x901144
/-- SEC_Q_ADDR (R572). -/
abbrev SEC_Q_ADDR : Nat := 0x901148
/-- SEC_Q_DATA_LO (R572). -/
abbrev SEC_Q_DATA_LO (i : Nat) : Nat := 0x90114c + 0x4 * i
/-- SEC_DBG_CHAL (R572). -/
abbrev SEC_DBG_CHAL (i : Nat) : Nat := 0x901180 + 0x4 * i
/-- SEC_DBG_STAT (R572). -/
abbrev SEC_DBG_STAT : Nat := 0x9011a0
/-- SEC_DBG_CTRL (R572). -/
abbrev SEC_DBG_CTRL : Nat := 0x9011a4
/-- SEC_VERIFY_FAIL_CNT (R572). -/
abbrev SEC_VERIFY_FAIL_CNT : Nat := 0x9011b0
/-- SEC_DBG_FAIL_CNT (R572). -/
abbrev SEC_DBG_FAIL_CNT : Nat := 0x9011b4
/-- GLB_PWR_STAT (R596). -/
abbrev GLB_PWR_STAT : Nat := 0x1040
/-- GLB_VCORE_TGT (R596). -/
abbrev GLB_VCORE_TGT : Nat := 0x1044
/-- GLB_VCORE_MEAS (R596). -/
abbrev GLB_VCORE_MEAS : Nat := 0x1048
/-- GLB_VCORE_BASE (R596). -/
abbrev GLB_VCORE_BASE : Nat := 0x104c
/-- GLB_CLUSTER_UP (R596). -/
abbrev GLB_CLUSTER_UP : Nat := 0x1050
/-- GLB_MEMCH_UP (R596). -/
abbrev GLB_MEMCH_UP : Nat := 0x1054
/-- GLB_PWR_LATE_CNT (R596). -/
abbrev GLB_PWR_LATE_CNT : Nat := 0x1058
/-- GLB_AVS_ERR_CNT (R596). -/
abbrev GLB_AVS_ERR_CNT : Nat := 0x105c
/-- GLB_AVS_CFG (R596). -/
abbrev GLB_AVS_CFG : Nat := 0x1060
/-- TMUX_SEL (R617). -/
abbrev TMUX_SEL (i : Nat) : Nat := 0xa01040 + 0x4 * i
/-- TMUX_MERGE_CNT (R624). -/
abbrev TMUX_MERGE_CNT (i : Nat) : Nat := 0xa01050 + 0x4 * i
/-- DBG_TEMP (R623). -/
abbrev DBG_TEMP (i : Nat) : Nat := 0xa00040 + 0x4 * i
/-- DBG_TJ (R623). -/
abbrev DBG_TJ : Nat := 0xa00090
/-- DBG_PKG_PWR (R623). -/
abbrev DBG_PKG_PWR : Nat := 0xa00094
/-- DBG_PKG_PWR_PEAK (R623). -/
abbrev DBG_PKG_PWR_PEAK : Nat := 0xa00098
/-- DBG_JTAG_REFUSE_CNT (R623). -/
abbrev DBG_JTAG_REFUSE_CNT : Nat := 0xa0009c
/-- DBG_PMC_SEL (R623). -/
abbrev DBG_PMC_SEL (i : Nat) : Nat := 0xa00100 + 0x10 * i
/-- DBG_PMC_LO (R623). -/
abbrev DBG_PMC_LO (i : Nat) : Nat := 0xa00104 + 0x10 * i
/-- DBG_PMC_HI (R623). -/
abbrev DBG_PMC_HI (i : Nat) : Nat := 0xa00108 + 0x10 * i
/-- DBG_SNAP (R623). -/
abbrev DBG_SNAP : Nat := 0xa00180
/-- DBG_SNAP_FT_LO (R623). -/
abbrev DBG_SNAP_FT_LO (i : Nat) : Nat := 0xa00184 + 0x4 * i
/-- DBG_SNAP_K (R623). -/
abbrev DBG_SNAP_K (i : Nat) : Nat := 0xa00190 + 0x4 * i
/-- GLB_B4_BASE_A (R74). -/
abbrev GLB_B4_BASE_A : Nat := 0x6040
/-- GLB_B4_BASE_B (R74). -/
abbrev GLB_B4_BASE_B : Nat := 0x6044

end Sys2Proof.Machine
end

