-- ==== Sys2Proof/Machine/Tbl.lean ====
section
/-!
DEFINITION. Sparse tables in one canonical form: keys strictly rising, and no entry equal to what an
unlisted key reads as. Memories, register files and every numbered set of units are held in this form.
-/
namespace Sys2Proof.Machine

/-- The value at key k, where an unlisted key reads as d k. -/
def tget {α : Type} (d : Nat → α) : List (Nat × α) → Nat → α
  | [], k => d k
  | (a, v) :: m, k => if a = k then v else tget d m k

/-- The table with key k set to v, in canonical form. -/
def tset {α : Type} [DecidableEq α] (d : Nat → α) : List (Nat × α) → Nat → α → List (Nat × α)
  | [], k, v => if v = d k then [] else [(k, v)]
  | (a, w) :: m, k, v =>
    if k < a then (if v = d k then (a, w) :: m else (k, v) :: (a, w) :: m)
    else if k = a then (if v = d k then m else (k, v) :: m)
    else (a, w) :: tset d m k v

/-- Keys above b strictly rise and no entry equals the default. -/
def twfFrom {α : Type} [DecidableEq α] (d : Nat → α) : Option Nat → List (Nat × α) → Bool
  | _, [] => true
  | b, (a, v) :: m =>
    (match b with | none => true | some x => decide (x < a)) && !decide (v = d a) && twfFrom d (some a) m

/-- The canonical form of a table. -/
def twf {α : Type} [DecidableEq α] (d : Nat → α) (m : List (Nat × α)) : Bool := twfFrom d none m

/-- The table with key k changed by f. -/
def tupd {α : Type} [DecidableEq α] (d : Nat → α) (m : List (Nat × α)) (k : Nat) (f : α → α) : List (Nat × α) :=
  tset d m k (f (tget d m k))

/-- The table with k consecutive keys from a set to the values of a list. -/
def tsetL {α : Type} [DecidableEq α] (d : Nat → α) (m : List (Nat × α)) (a : Nat) : List α → List (Nat × α)
  | [] => m
  | v :: t => tsetL d (tset d m a v) (a + 1) t

/-- The values at k consecutive keys from a. -/
def tgetL {α : Type} (d : Nat → α) (m : List (Nat × α)) (a : Nat) : Nat → List α
  | 0 => []
  | k + 1 => tget d m a :: tgetL d m (a + 1) k

/-- The table with every key in [lo, hi) returned to its default. -/
def tclear {α : Type} (m : List (Nat × α)) (lo hi : Nat) : List (Nat × α) :=
  m.filter (fun e => decide (e.1 < lo) || decide (hi ≤ e.1))

end Sys2Proof.Machine
end

