-- ==== Sys2Proof/Machine/State.lean ====
section
/-!
DEFINITION. The state of the block: every register, FIFO, buffer, counter, mode and pin the spec gives it, as plain
data, and the queue of commands that wait. Every numbered set of units is a sparse table in canonical form
(Machine/Tbl.lean): a unit that is not listed is as at reset.
-/
namespace Sys2Proof.Machine
open Sys2Proof

/-! ## Records of the register and interrupt machinery -/

/-- One MSI-X table entry (spec/14_host_interface.md R453): address, data, the mask bit and the pending bit.
After reset a vector is masked, as PCI Express gives it (log entry 6). -/
structure MsixVec where
  addr : Nat := 0
  data : Nat := 0
  masked : Bool := true
  pend : Bool := false
  deriving DecidableEq, Repr

/-- An MSI-X message that left the device. -/
structure Msg where
  fn : Nat
  vec : Nat
  addr : Nat
  data : Nat
  deriving DecidableEq, Repr

/-- The loops whose automatic actions are logged (spec/01_architecture.md R39). -/
inductive LoopId
  | lean | stretch | voting | refinement | time | spill | mode | hang | slot | job | other
  deriving DecidableEq, Repr

/-- An entry of the log of automatic actions (R39). -/
structure LogEntry where
  ft : Nat
  loop : LoopId
  old : Nat
  new : Nat
  reason : Nat
  /-- of a lean entry: H, the replay rate of the last 1 ms, the mismatches of the open window (R377) -/
  data : List Nat := []
  deriving DecidableEq, Repr

/-! ## Records of the time unit (spec/04_time_bases.md) -/

/-- A segment of a PTP mapping (R141). -/
structure Segment where
  base : Nat
  off : Int
  rate : Int
  deriving DecidableEq, Repr

/-- A master that an instance has heard in Announce messages (R139): identity, port number, the Ethernet port, its data set as the
best master clock algorithm ranks it (the lower the better), FT of the last Announce and its interval in ns. -/
structure Foreign where
  master : Nat
  mport : Nat
  eth : Nat
  rank : Nat
  last : Nat
  annNs : Nat
  deriving DecidableEq, Repr

/-- A PTP message that an instance sends (R139), with the stamps that it was sent at or carries: Delay_Req, Pdelay_Req,
Pdelay_Resp with the stamp of the request it answers, and Pdelay_Resp_Follow_Up with the stamp of that answer. -/
inductive PtpMsg
  | delayReq (tx : Int)
  | pdelayReq (tx : Int)
  | pdelayResp (reqRx : Int)
  | pdelayRespFollowUp (tx : Int)
  deriving DecidableEq, Repr

/-- What a PTP domain keeps beside its registers (R132, R134, R139, R141): the kept segments (newest first), the masters heard,
the last accepted Sync (the master's time, the stamp) and the stamp of the request that waits for its answer; whether it was ever
locked, the consecutive Syncs from the present master, that master and the Ethernet port that hears it, the FT of its last Announce
with the Announce interval in ns, and the FT of its last Sync. -/
structure PtpSt where
  segs : List Segment := []
  foreign : List Foreign := []
  sync : Option (Int × Int) := none
  req : Option Int := none
  everLocked : Bool := false
  syncs : Nat := 0
  master : Nat := 0
  masterPort : Nat := 0
  masterEth : Nat := 0
  lastAnn : Option Nat := none
  annNs : Nat := 0
  lastSync : Nat := 0
  deriving DecidableEq, Repr

/-- What a qualification changed (R158): its FT, the registers as they were, and the discipline's own state. -/
structure QualUndo where
  at_ : Nat
  regs : List (Nat × Word)
  slew : Int
  slewPart : Nat
  fromFree : Bool
  lastMeas : Nat
  u0 : Nat
  everQual : Bool
  lostNs : Nat
  deriving DecidableEq, Repr

/-- What the discipline keeps beside its registers (R130 to R137): the rate correction in 2^-40 ns per cycle, the phase
correction still to slew in ns, whether ACQUIRE was entered from FREE, the FT of the last accepted measurement, the
filtered offset there, whether a source was ever qualified; the part of a ns slewed already, in 10^-6 ns; FT of the loss of the
reference and the ns without it since the last measurement; FT of the last loss of the source; what the last qualification
changed (R158). -/
structure DiscSt where
  rate : Int := 0
  slew : Int := 0
  slewPart : Nat := 0
  refLost : Option Nat := none
  lostNs : Nat := 0
  lossAt : Option Nat := none
  undo : Option QualUndo := none
  fromFree : Bool := true
  lastMeas : Nat := 0
  u0 : Nat := 0
  everQual : Bool := false
  deriving DecidableEq, Repr

/-- The 1PPS input and output (R142 to R144): the last edge, the last accepted edge, the good edges in a row, the output
level and the FT at which it falls. -/
structure PpsSt where
  last : Option Nat := none
  acc : Option Nat := none
  good : Nat := 0
  out : Bool := false
  fall : Nat := 0
  deriving DecidableEq, Repr

/-- The discipline states (R131) are codes of TIME_STATUS.STATE; a servo's states (R146). -/
inductive SrvMode
  | idle | acquire | track
  deriving DecidableEq, Repr

/-- The state of a port's servo (R146). -/
structure SrvSt where
  a : Int := 0
  t0 : Int := 0
  rate : Int := 0
  cnt : Nat := 0
  emin : Int := 0
  tlast : Int := 0
  err : Int := 0
  mode : SrvMode := .idle
  deriving DecidableEq, Repr

/-- The machine phase (R151 to R153): validity, angle in 2^-32 revolution, signed revolution count, direction, the
indexes, newest first (their FT, the count there, and the position before and after a reset by ZRESET; R168), and the history of
(FT, angle, revolution, reverse), newest first, of at most 65,536 entries. -/
structure MpSt where
  valid : Bool := false
  angle : Nat := 0
  rev : Int := 0
  reverse : Bool := false
  idxs : List (Nat × Int × Int × Int) := []
  hist : List (Nat × Nat × Int × Bool) := []
  deriving DecidableEq, Repr

/-! ## Records of the stream ports and I3C buses (spec/03_stream_ports.md) -/

/-- A word in an ingest buffer or spill: the word, its packet's arrival stamp and number, and whether a packet before it
was dropped, so that T is invalid from it on (R97). -/
structure BufWord where
  w : Word
  arr : Nat
  pkt : Nat
  inval : Bool
  deriving DecidableEq, Repr

/-- A stamped event that registration has not released yet (R194): stamp in 16 ns units, u, v, polarity, flags. -/
structure WEvent where
  stamp : Nat
  u : Nat
  v : Nat
  pol : Bool
  gap : Bool
  arrival : Bool
  unlocked : Bool
  w : Nat
  h : Nat
  deriving DecidableEq, Repr

/-- An event of the flow window (R196): stamp in 16 ns units, u, v, polarity, arrival stamp, and the WIDTH and HEIGHT that it was
decoded under (R207). -/
structure FlowEv where
  stamp : Nat
  u : Nat
  v : Nat
  pol : Bool
  arr : Nat
  w : Nat
  h : Nat
  deriving DecidableEq, Repr

/-- What a stream port keeps beside its registers (R97 to R108, R121 to R125). -/
structure PortSt where
  /-- the arrival stamp of the packet in progress -/
  rx : Option Nat := none
  /-- the words of the port's own that the packet in progress announces -/
  rxWords : Nat := 0
  /-- whether a data lane is in HS, and FT of the last moment at which one was -/
  lane : Bool := false
  hs : Option Nat := none
  /-- packets taken, and whether one was dropped since the last word that entered -/
  pkt : Nat := 0
  dropped : Bool := false
  /-- the 44-bit sensor time T, valid or not, and T_LAST -/
  t : Option Nat := none
  tLast : Option Nat := none
  /-- the row state: Y and POL -/
  row : Option (Nat × Bool) := none
  /-- payload words of an EXTENDED word still to skip -/
  skip : Nat := 0
  skipPkt : Nat := 0
  /-- the exemption of TIME_RESTART -/
  restart : Bool := false
  /-- consecutive backward TIME_BASE words -/
  back : Nat := 0
  /-- the next event word carries GAP -/
  gap : Bool := false
  /-- WIDTH and HEIGHT latched at enable -/
  w : Nat := 0
  h : Nat := 0
  /-- CLK_ACC of the descriptor -/
  clkAcc : Nat := 0
  lastUid : Option Nat := none
  buf : List BufWord := []
  spill : List BufWord := []
  /-- words already read back from the spill's first segment -/
  spOff : Nat := 0
  waiting : List WEvent := []
  /-- events of the flow window, newest first -/
  flow : List FlowEv := []
  /-- the last stamp of an event or progress mark, in 16 ns units (R148, R226) -/
  lastStamp : Nat := 0
  /-- FT of the enable and of the last accepted packet -/
  enFt : Nat := 0
  lastPkt : Nat := 0
  /-- whether a descriptor read is owed (R90) -/
  reread : Bool := false
  /-- whether the stream has ended and its FINAL WATERMARK is owed (R226) -/
  finalDue : Bool := false
  /-- the events before that FINAL of a stream that a new one has followed -/
  old : Option Nat := none
  /-- legacy: T_HIGH, wraps, the arrival of the last TIME_HIGH -/
  tHigh : Nat := 0
  wraps : Nat := 0
  lastTh : Option Nat := none
  /-- the latch halves of the legacy window -/
  offLo : Nat := 0
  cntHi : Nat := 0
  deriving DecidableEq, Repr

/-- A target of an I3C bus: its dynamic address, its descriptor, the slot it holds, its NACKs in a row, FT from which its next
poll counts. -/
structure I3cTarget where
  addr : Nat
  desc : List Byte
  slot : Option Nat
  nacks : Nat
  polled : Nat := 0
  deriving DecidableEq, Repr

/-- What the ingest helper puts on a bus (R84, R88, R90, R116, R629). -/
inductive I3cCmd
  | rstdaa | entdaa | disec | enec | getstatus (slot : Nat) | nackJoin | readDesc (addr : Nat) | transfer (slot : Nat)
  deriving DecidableEq, Repr

/-- What an I3C bus keeps beside its registers (R83 to R88, R117, R629): its targets, what was sent on it, oldest first, the
descriptor reads in progress, and whether a host transfer waits for the first of them. -/
structure I3cSt where
  targets : List I3cTarget := []
  cmds : List I3cCmd := []
  reads : List Nat := []
  waits : Bool := false
  deriving DecidableEq, Repr

/-! ## Records of the host interface (spec/14_host_interface.md) -/

/-- A completion record (R446). -/
structure Cpl where
  seq : Nat
  tag : Nat
  status : Nat
  typ : Nat
  cflags : Nat
  ctx : Nat
  cgen : Nat
  pgen : Nat
  part : Nat
  endFt : Nat
  result : Nat
  runUs : Nat
  deriving DecidableEq, Repr

/-- An accepted command that has not completed (R439, R442, R443): the device's copy of the descriptor's 16 words, the
FT at which it became startable, whether it has started, the context's generation and the partition (8 + p, 0 none) with
its tag when it started, whether it outlasted its budget, the ns of core clock pauses since it became startable (R444), the status once one is
decided, RESULT, whether its record is discarded at its end (R457), the 64 bytes that a STAMP caught at its start (R440), and its waits that were
satisfied, with whether FAULT released them (R318). -/
structure CmdSt where
  seq : Nat
  words : List Nat
  since : Option Nat := none
  started : Bool := false
  cgen : Nat := 0
  part : Nat := 0
  pgen : Nat := 0
  beyond : Bool := false
  paused : Nat := 0
  status : Option Nat := none
  result : Nat := 0
  orphan : Bool := false
  snap : List Byte := []
  met : List (Nat × Nat × Bool) := []
  deriving DecidableEq, Repr

/-- A context (R433 to R436, R456): what the administration page holds of it, its generation, whether it is in an E1
step or in error, its accepted commands in SEQ order, the completions held for ring room, the phase of the ring's next
entry, and the last 16 accepted descriptors (R515), newest first. -/
structure CtxSt where
  en : Bool := false
  func : Nat := 0
  memBase : Nat := 0
  memSize : Nat := 0
  defBudget : Nat := 0x01F4
  maxBudget : Nat := 0xFFFF
  ancLo : Nat := 0
  ancN : Nat := 0
  cgen : Nat := 0
  resetting : Bool := false
  error : Bool := false
  cmds : List CmdSt := []
  held : List (Cpl × Bool) := []
  phase : Bool := true
  recent : List (List Nat) := []
  deriving DecidableEq, Repr

/-! ## Records of anchors and tile queues (spec/09_tensor_tiles.md) -/

/-- An anchor (R316): VALUE, FAULT, OVF, GEN and OWNER. The registered waits are those of the queues and contexts. -/
structure AncSt where
  val : Nat := 0
  fault : Bool := false
  ovf : Bool := false
  gen : Nat := 0
  owner : Nat := 15
  deriving DecidableEq, Repr

/-- A command queue of a tile (R286, R287): its commands, head first; whether the head has started and at which FT; its
status once one is decided; since when the head waits; the FT at which it became the head, whether it has outlasted its
budget, and its waits that were satisfied, with whether FAULT released them (R318). -/
structure QueueSt where
  cmds : List TileCmd := []
  started : Bool := false
  status : Option Nat := none
  since : Option Nat := none
  head : Option Nat := none
  beyond : Bool := false
  met : List (Nat × Nat × Bool) := []
  deriving DecidableEq, Repr

/-- A tile (R286, R300, R313): its tensor, vector and stash queues, the stash transfers in flight (at most 4, oldest
first), the accumulator entries of the last position block (at bank × 16384 + position × 64 + column), the weights of the
two sets (at set × 4096 + row × 64 + column, as the bits of an element) and the bank in use, the CRCs that retention
computed per bank, whether the tile sleeps, the pairs completed and the samples offered (R368), and the passes of a convolution
that the binder has still to queue (spec/10_convolution.md R337). -/
structure TileSt where
  tq : QueueSt := {}
  vq : QueueSt := {}
  sq : QueueSt := {}
  flight : List TileCmd := []
  acc : List (Nat × Word) := []
  wts : List (Nat × Nat) := []
  bank : Nat := 0
  crcs : List Nat := []
  asleep : Bool := false
  pairs : Nat := 0
  offered : Nat := 0
  split : List TileCmd := []
  deriving DecidableEq, Repr

/-! ## Records of the binder (spec/13_ronrix_binding.md) -/

/-- The states of a job, as CC_BIND.STATE codes them (R428). -/
inductive JobPhase
  | binding | bound | standby | draining
  deriving DecidableEq, Repr

/-- A job (R412 to R427): its partition, the context, SEQ, TAG of its BIND, its placement, the masks of bars, encoders,
chains and print units its map gives it, its output roles (item, stream mask), the generations of its anchors at the bind
(R320), the command that is now being executed for it, the cairn it starts at, the one its UNBIND takes effect at, T_L of
a REBIND, the t_exit of its last verdict (R426), and its lost windows (R510). -/
structure JobSt where
  handle : Nat
  part : Nat
  phase : JobPhase
  ctx : Nat
  seq : Nat
  tag : Nat
  /-- the context's generation and the FT at which the BIND became startable -/
  cgen : Nat := 0
  since : Nat := 0
  plan : BindPlan
  bars : Nat
  encs : Nat
  chains : Nat
  units : Nat
  roles : List (Nat × Nat)
  ancGen : List (Nat × Nat)
  /-- the unit tag of each bound tile, as the cluster controllers recorded it (spec/10_convolution.md R348) -/
  tileGen : List (Nat × Nat) := []
  cmd : Option (Nat × Nat)
  startFt : Option Nat := none
  endFt : Option Nat := none
  drain : Bool := false
  lossFrom : Option Nat := none
  lastExit : Nat := 0
  lost : List Nat := []
  /-- the budget in force of the BIND, in µs (R445) -/
  budget : Nat := 0
  /-- the digest of its package -/
  digest : List Byte := []
  deriving DecidableEq, Repr

/-! ## Records of the recovery ladder (spec/16_hang_recovery.md) -/

/-- A trigger of the ladder (R500, R501): the step, the target (R513), the cause (R514), the FT of its detection, the
context of the charged command (0xFFFFFFFF none) and its number, whether a replay is asked for, and the
RESET commands (context, SEQ) that end with it. -/
structure Trigger where
  step : Nat
  target : Nat
  cause : Nat
  ft : Nat
  ctx : Nat
  cmdSeq : Nat
  blame : Bool
  cmds : List (Nat × Nat) := []
  deriving DecidableEq, Repr

/-! ## Records of the motion inputs (spec/05_motion_inputs.md) -/

/-- An encoder's estimate at fusion (R168, R180): the FT of the instant, V, PE, the flags. -/
structure EncEst where
  tf : Nat
  v : Int
  pe : Int
  stopped : Bool
  low : Bool
  rev : Bool
  slip : Bool
  qerr : Bool
  deriving DecidableEq, Repr

/-- An encoder (R164 to R170): the filtered levels of A, B and Z with the consecutive samples that disagree with each, and the level
of Z at its input; the capture entries (FT, position), newest first; the direction of the last counted edge and the FT from which
it and those before it hold, newest first; whether an index has been seen, the count since it, its direction, and whether an edge
has turned back since; the estimate of the last instant (V, PE, flags STOPPED, LOW_SPEED, REVERSE) with its FT and the FT of the last
capture in it; QERR since then; the estimate that fusion has, none where the FIFO to it was full, and the moments of those that
entered the FIFO last; and the slip detector: whether active, the consecutive instants with pair and without bad. -/
structure EncSt where
  fa : Bool := false
  fb : Bool := false
  fz : Bool := false
  ra : Nat := 0
  rb : Nat := 0
  rz : Nat := 0
  zin : Bool := false
  caps : List (Nat × Int) := []
  dir : Int := 0
  dirs : List (Nat × Int) := []
  idx : Bool := false
  since : Int := 0
  one : Int := 0
  turned : Bool := false
  v : Int := 0
  pe : Int := 0
  stopped : Bool := false
  low : Bool := false
  rev : Bool := false
  tf : Option Nat := none
  t1 : Option Nat := none
  qerr : Bool := false
  est : Option EncEst := none
  fifo : List Nat := []
  slip : Bool := false
  pairN : Nat := 0
  goodN : Nat := 0
  deriving DecidableEq, Repr

/-- What an inertial port puts on its bus (R171, R172): SETDASA from a static address to a dynamic one, RSTDAA, and a
transaction: over SPI with the SPI mode (3 or 0), over I3C with the target's address; the command bytes, and the bytes read. -/
inductive ImuCmd
  | setdasa (saddr addr : Nat)
  | rstdaa
  | spi (mode3 : Bool) (cmd : List Nat) (len : Nat)
  | i3c (addr : Nat) (cmd : List Nat) (len : Nat)
  deriving DecidableEq, Repr

/-- An inertial port (R171 to R174): the transactions whose samples are not delivered yet, oldest first, each with its sample's
stamp and the FT of its end; the NACKs in a row; the filter of DRDY; the target's dynamic address, 0 for none; what was put on the
bus, oldest first. -/
structure ImuSt where
  busy : List (Nat × Nat) := []
  nacks : Nat := 0
  fd : Bool := false
  rd : Nat := 0
  addr : Nat := 0
  cmds : List ImuCmd := []
  deriving DecidableEq, Repr

/-- A value in a chain (R176, R177): stamp, channels, whether it follows a gap or was made across one, whether a stage
saturated on the way. -/
structure ChainVal where
  stamp : Nat
  vals : List Int
  gap : Bool
  sat : Bool
  deriving DecidableEq, Repr

/-- An output of a chain at fusion (R180), with its number since the enable, its 16-bit sequence number, and its due time (R191). -/
structure ChainOut where
  seq : Nat
  num : Nat
  due : Nat
  x : ChainVal
  deriving DecidableEq, Repr

/-- A decimation chain (R175 to R180): the samples that wait to enter it, each stage's delay line (newest first) with
its inputs since its last output and whether it has emitted, the stamp of the last input, FT of the last input or of the start,
the outputs made since the chain was enabled, the last outputs at fusion, newest first, and the moments of those that entered the
FIFO to it last. -/
structure ChainSt where
  inq : List ChainVal := []
  lines : List (List ChainVal) := []
  cnt : List Nat := []
  lastIn : Option Nat := none
  seen : Nat := 0
  made : Nat := 0
  outs : List ChainOut := []
  fifo : List Nat := []
  deriving DecidableEq, Repr

/-! ## Records of fusion and registration (spec/06_fusion_alignment.md) -/

/-- What a vote of an instant was made of (R195, R198, R203): the measurements (slot, q, value) of wheel and inertial
sources, the flow estimates (slot, fv, fl, fw), the sources that may vote (9 × slot + q), the wheel slots that slip, the
values and the last undisputed values before it, and each inertial slot's velocities and rates at it. -/
structure VoteIn where
  vals : List (Nat × Nat × Int) := []
  flow : List (Nat × Int × Int × Int) := []
  elig : List Nat := []
  slips : List Nat := []
  last : List Int := []
  undis : List Int := []
  vels : List (Nat × List Int × List Int) := []
  deriving DecidableEq, Repr

/-- An issued result (R190, R193, R197 to R199): k, t_k, the integrated state, the nine values, the masks DISPUTED, FALLBACK,
HELD, SINGLE and AMENDED of the quantities, the sources (9 × slot + q) that are DISPUTED for the instant, and the count of the
amendments made for it. -/
structure Issued where
  k : Nat
  t : Nat
  s : Int
  l : Int
  th : Int
  dx : Int
  dy : Int
  rz : Int
  q : List Int
  disp : Nat
  fall : Nat
  held : Nat
  single : Nat := 0
  amask : Nat := 0
  dsrc : List Nat := []
  amended : Nat
  ins : VoteIn
  deriving DecidableEq, Repr

/-- An inertial slot of a bar (R195): velocities, rates, the due time of its latest sample, the chain outputs it has
taken. -/
structure InSlot where
  vel : List Int := [0, 0, 0]
  rate : List Int := [0, 0, 0]
  due : Option Nat := none
  taken : Nat := 0
  deriving DecidableEq, Repr

/-- A bar (R193 to R199, R217): the next instant to issue, the integrated state, the last values, uncertainties and last
undisputed values of the nine quantities, the history of 1,024 results (newest first), t of its first result, the inertial
slots, and the instants of which the wheel estimates are known and that are not issued yet (k, wheel measurements, slipping wheel slots). -/
structure BarSt where
  nextK : Option Nat := none
  s : Int := 0
  l : Int := 0
  th : Int := 0
  dx : Int := 0
  dy : Int := 0
  rz : Int := 0
  qv : List Int := [0, 0, 0, 0, 0, 0, 0, 0, 0]
  qu : List Int := [0, 0, 0, 0, 0, 0, 0, 0, 0]
  und : List Int := [0, 0, 0, 0, 0, 0, 0, 0, 0]
  hist : List Issued := []
  firstT : Option Nat := none
  slots : List InSlot := [{}, {}, {}, {}]
  wheel : List (Nat × List (Nat × Nat × Int) × List Nat) := []
  deriving DecidableEq, Repr

/-- A measurement of the open refinement cycle (R212, R213): port, the reference port of an overlap (none for a mark), where it
was made (of a mark, its grid-mapped position in 1/8 cell; of an overlap, the corner nodes of the two ports' grids), and the numbers
it gives. -/
structure RefMeas where
  port : Nat
  ref : Option Nat
  pos : List Int
  vals : List Int
  deriving DecidableEq, Repr

/-- What fusion keeps beside the bars: t of the last instant, the measurements of the open cycle, the newest stamp that
any port has released, the cairn of each port's last swap (R210), and the values of FUS_REG_VER with the FT from which each
holds, newest first (R211). -/
structure FusSt where
  lastT : Option Nat := none
  meas : List RefMeas := []
  newest : Nat := 0
  grids : List (Nat × Nat) := []
  vers : List (Nat × Nat) := []
  lastCycle : Nat := 0
  deriving DecidableEq, Repr

/-! ## Records of the event fabric (spec/07_event_fabric.md) -/

/-- A device-wide cairn (R221, R223, R224): its FT, SEQ, REASON mask (bit 4 PERIODIC, 3 REGISTRATION, 2 MODE, 1 OFFSET,
0 LEAN, as bits [63:59]), MODE and REG_VER, and the FT at which the device inserted it (R40). -/
structure CairnRec where
  ft : Nat
  seq : Nat
  reason : Nat
  mode : Nat
  regVer : Nat
  at_ : Nat := 0
  deriving DecidableEq, Repr

/-- A fabric word at a consumer: the 64-bit word (R221), the FT of the last cairn before it on its path (R225), its
source (0–31 a port, 32 + n a neuron core), and its second word (a cairn's FT, or the record of a SPIKE message). -/
structure FabWord where
  w : Quad
  base : Nat
  src : Nat
  ext : Nat
  deriving DecidableEq, Repr

/-- A destination of fabric words: a neuron core, or a surface slot of a tile. -/
inductive Dest
  | core (n : Nat)
  | slot (t k : Nat)
  deriving DecidableEq, Repr

/-- A message on its way in the fabric (R228 to R230): its word and the destinations that it still has to reach. -/
structure FabMsg where
  w : FabWord
  ds : List Dest
  deriving DecidableEq, Repr

/-- The stream of a source (R225 to R227, R631): whether it has sent nothing since it was enabled or bound, the FT up to which
device-wide cairns stand in it, the last device-wide one, the FT of the last cairn of any kind, its last WATERMARK, and by path
(destination) the latest stamp or WATERMARK value sent on it; a destination that is not listed is a new path; and the cairn words of a
forwarded port that go out with its next word (R484). -/
structure SrcSt where
  fresh : Bool := true
  sent : Nat := 0
  cairn : CairnRec := { ft := 0, seq := 0, reason := 0, mode := 0, regVer := 0 }
  base : Nat := 0
  mark : Nat := 0
  paths : List (Dest × Nat) := []
  fwd : List Nat := []
  deriving DecidableEq, Repr

/-- A pinned fan-out entry (R235 to R239): its valid bit, its destination records, its spike-map target (tile, slot, X, Y). -/
structure FanEntry where
  v : Bool := false
  recs : List Nat := []
  sv : Option (Nat × Nat × Nat × Nat) := none
  deriving DecidableEq, Repr

/-- What a surface slot keeps beside its descriptor (R240 to R244): whether its first cairn is still to come, B, the
number of closed windows, the sources it knows (source, latest watermark, final), the words waiting in its input FIFO,
the rows written in each bank's window, whether the open window's bank is prepared, since when it waits, the sources that
its binding fixes (R242), whether the release was signalled (R318), and whether its wait was charged (R244). -/
structure SlotSt where
  arm : Bool := false
  b : Option Nat := none
  closed : Nat := 0
  known : List (Nat × Nat × Bool) := []
  inq : List FabWord := []
  rows0 : List Nat := []
  rows1 : List Nat := []
  ready : Bool := true
  waitFt : Option Nat := none
  stallPulsed : Bool := false
  met : Bool := false
  charged : Bool := false
  bound : List Nat := []
  deriving DecidableEq, Repr

/-! ## Records of the neuron cores (spec/08_neuron_cores.md) -/

/-- A held input: the word and its effective stamp (R255, R274). -/
structure HeldIn where
  w : FabWord
  eff : Nat
  deriving DecidableEq, Repr

/-- A trace event of the open step (R272, R273): its key (src, neuron, stamp, pos), its slot, channel, multiplicity. -/
structure TraceEv where
  src : Nat
  neuron : Nat
  stamp : Nat
  pos : Nat
  slot : Nat
  ch : Nat
  mult : Nat
  deriving DecidableEq, Repr

/-- What a neuron core keeps beside its registers and its tile's SRAM (R257 to R282): whether its first cairn is still to
come, B, the start of the open step, the stretch factor n, the delay of the due time (R279), the counting sources with
their positions and FINAL marks, the held inputs, the trace events, the accumulator bank in use, the steps opened, the
intervals of the steps that dropped, the slot that the open step samples with its synaptic events so far (R369), and
whether the open step runs under BELAY (R280). -/
structure NcSt where
  arm : Bool := false
  b : Option Nat := none
  stepStart : Nat := 0
  n : Nat := 0
  shift : Nat := 0
  known : List (Nat × Nat × Bool) := []
  hold : List HeldIn := []
  trace : List TraceEv := []
  bank : Nat := 0
  opened : Nat := 0
  drops : List (Nat × Nat) := []
  sample : Option Nat := none
  samples : List (Int × Nat × Nat) := []
  belay : Bool := false
  deriving DecidableEq, Repr

/-- The register file and flags that a slot's program runs on (R263): S0–S3, I0, I1, T0, T1 as 32-bit words, F, Q, N, Z,
M and θ; the class it runs for, the stretch factor m, the microinstructions still to skip, and what it has counted. -/
structure UopSt where
  r : List Word := [0, 0, 0, 0, 0, 0, 0, 0]
  f : Bool := false
  q : Bool := false
  n : Bool := false
  z : Bool := false
  m : Nat := 0
  theta : Word := 0
  cls : Nat := 0
  stretch : Nat := 1
  skip : Nat := 0
  sat : Nat := 0
  deriving DecidableEq, Repr

/-! ## Records of the lean settings and the shadow checker (spec/11_approximation.md) -/

/-- What the lean-stepping policy keeps beside its registers (R374): the FT of the last step down and up, the clean windows
since, the mismatches of the open window, the reason of the pending change, the FT of the last evaluation, and the ms of
FT at which LEAN_VERDICT last pulsed. -/
structure LeanSt where
  tDown : Nat := 0
  tUp : Nat := 0
  clean : Nat := 0
  mm : Nat := 0
  why : Nat := 0
  last : Nat := 0
  verdictMs : Option Nat := none
  deriving DecidableEq, Repr

/-- A sample in the checker's queue (R368 to R371): tensor or neuron, the setting in force at its capture, its tile or
core, its column or slot, its sequence number, the FT of its capture, its bytes, and the accumulator values that were captured; of a
tensor sample the formats, the starting accumulator and each wave's activations and weights with their block exponents, of a neuron
sample the synaptic events (weight, multiplicity, channel). -/
structure Sample where
  neuron : Bool
  setting : Nat
  unit : Nat
  place : Nat
  seq : Nat
  ft : Nat
  bytes : Nat
  final : List Word := [0]
  aFmt : Nat := 0
  wFmt : Nat := 0
  start : Nat := 0
  waves : List (List ((Nat × Int) × (Nat × Int))) := []
  events : List (Int × Nat × Nat) := []
  deriving DecidableEq, Repr

/-! ## Records of the output block (spec/12_verdicts_corrections.md) -/

/-- A sheet that has started (R384): j, t_j, and R_j by bar where it is fixed. -/
structure SheetSt where
  j : Int
  t : Nat
  rows : List (Nat × Int) := []
  deriving DecidableEq, Repr

/-- A result of a verdict stage (R387): class, severity, confidence (FP32), path, LEAN. -/
structure TileRes where
  cls : Nat
  sev : Nat
  conf : Nat
  path : Nat
  lean : Bool
  deriving DecidableEq, Repr

/-- An inspection tile that owes a verdict (R383 to R389): its job, bar, sheet (none: NOSHEET), place, first raster row,
rows, PARTIAL, t_exit once it has left with its deadline, the cheap result that waits for an exact one with its pair, the
cheap result that waits for a place in the pair's queue (BELAY), the final result, its track, a GAP owed to a rebind, and the
first raster row of its sheet (0 with NOSHEET). -/
structure PendTile where
  job : Nat
  bar : Nat
  sheet : Option Int
  trow : Nat
  tcol : Nat
  row0 : Int
  part : Bool
  tExit : Option Nat := none
  dl : Option Nat := none
  cheap : Option TileRes := none
  pair : Option Nat := none
  waitQ : Bool := false
  final : Option TileRes := none
  track : Option Nat := none
  gap : Bool := false
  rows : Nat := 0
  base : Int := 0
  deriving DecidableEq, Repr

/-- A verdict that was written (R389, R393, R394): the tile, its SEQ, FLAGS and REG_VER, and whether it had no result. -/
structure Written where
  tile : PendTile
  seq : Nat
  flags : Nat
  reg : Nat
  none : Bool
  deriving DecidableEq, Repr

/-- A registered event as the verdicts see it (R387, R388): bar, column, raster row, stamp, k, FUS_REG_VER, and the flag bits
DISPUTED, GAP and LEGACY; bit 3 says that it is stamped at t_k itself (R204). -/
structure EvMark where
  bar : Nat
  x : Nat
  y : Int
  stamp : Nat
  k : Nat
  reg : Nat
  flags : Nat
  deriving DecidableEq, Repr

/-- A record in the output buffer (R399, R400): stream, type, bytes, the destinations still owed, the FT it entered. -/
structure OutRec where
  str : Nat
  typ : Nat
  bytes : List Byte
  dests : Nat
  ft : Nat
  deriving DecidableEq, Repr

/-- What a stream keeps beside its registers: HEAD and the FT at the last interrupt, the next DSEQ, and whether the ring is
more than 7/8 full. -/
structure StrSt where
  irqHead : Nat := 0x40
  irqFt : Option Nat := none
  dseq : Nat := 0
  high : Bool := false
  deriving DecidableEq, Repr

/-- A UDP datagram that left an Ethernet port (R401). -/
structure Dgram where
  port : Nat
  v6 : Bool
  src : List Nat
  dstIp : List Nat
  dstMac : Nat
  sport : Nat
  dport : Nat
  bytes : List Byte
  deriving DecidableEq, Repr

/-- The output block: sheets started (oldest first) with the highest machine count seen, the next raster row to leave each bar with the tile row's
index in its sheet, the tiles that owe a verdict, the verdicts written, the corrections written or HELD (job, sheet,
unit, HELD), each unit's last values, the next SEQ by type and job, the buffer, the streams, the datagrams sent, the
registered events of tiles not written yet, and the amended instants (bar, k). -/
structure OutSt where
  sheets : List SheetSt := []
  rows : List (Nat × Int) := []
  pend : List PendTile := []
  written : List Written := []
  corr : List (Nat × Int × Nat × Bool) := []
  last : List (Nat × Int × Int × Int × List Nat) := []
  seqs : List (Nat × Nat) := []
  buf : List OutRec := []
  strs : List (Nat × StrSt) := []
  sent : List Dgram := []
  marks : List EvMark := []
  amended : List (Nat × Nat) := []
  deriving DecidableEq, Repr

/-! ## Records of the Ridge links (spec/15_rope_fabric.md) -/

/-- What a link port keeps beside its registers (R460 to R466, R476): the FT at which the present training began, the FT since
which it is in FAULT, the FT since which it is UP, the FTs of the HELLO sent last and of the HELLO received last with the TX_FT that one
carried, the UID seen last, whether its entries have switched over to ALT, the numbers of the next flit to send and of the next to
receive, the flits in the replay buffer (number, frame, index in the frame; oldest first), the FTs of the replays of the last 1 ms, the flits for
which a NAK was sent, and the flits sent again (number, 64 bytes). -/
structure LinkSt where
  trainAt : Nat := 0
  faultAt : Nat := 0
  upAt : Nat := 0
  helloTx : Option Nat := none
  helloRx : Option Nat := none
  peerTx : Nat := 0
  seen : Option Nat := none
  failed : Bool := false
  txFlit : Nat := 0
  rxFlit : Nat := 0
  buf : List (Nat × Frame × Nat) := []
  replays : List Nat := []
  naks : List Nat := []
  resent : List (Nat × List Byte) := []
  deriving DecidableEq, Repr

/-- What a remote bar keeps beside its registers (R485): the generation of its source and whether a frame has been taken, the
cairn words that wait for the word that tells their port, the ports that owe a GAP, the cairns (port, FT) last passed on with
their REG_VER, and whether a cairn's first word waits for its second. -/
structure RbarSt where
  sgen : Option Nat := none
  held : List (Nat × Nat) := []
  half : Option Nat := none
  gaps : List Nat := []
  bases : List (Nat × Nat) := []
  vers : List (Nat × Nat) := []
  deriving DecidableEq, Repr

/-- The main link page: whether the relay's RX_HEAD has moved since its last message and that message's FT (R483), and
the FT of the last heartbeat (R426). -/
structure RelaySt where
  moved : Bool := false
  last : Option Nat := none
  beat : Option Nat := none
  deriving DecidableEq, Repr


/-- A unit that was reset and awaits its rejoin (R509, R510): the unit (tile t at t, neuron core n at 128 + n), the job that
it served, the FT of the trigger, the windows of the job that it held, the signals (anchor, increment) that its discarded
commands owed, whether it is to be rebound, and the REJOIN commands that ask for it. -/
structure Rejoin where
  unit : Nat
  job : Nat
  ft : Nat
  windows : List Nat
  owed : List (Nat × Nat)
  ask : Bool
  cmds : List (Nat × Nat) := []
  deriving DecidableEq, Repr

/-- A request that a unit had outstanding when it was reset, or a read of the dump agent that it left unanswered (R493, R495, R516): the
unit (tile t at t, neuron core n at 128 + n, cluster controller c at 640 + c), the queue of a tile command (0 to 2) or 3 for a read of the
dump agent, the unit tag at the request, and the anchor that the command signals. -/
structure Ghost where
  unit : Nat
  kind : Nat
  gen : Nat
  sig : Option Nat
  deriving DecidableEq, Repr

/-- The ladder beside its registers (R498 to R511): the trigger whose step is in progress, the FT at which its phase began,
the steps taken (step, target, FT, newest first), whether the device is HALTED, the dump slots held (oldest first), the slot
of the last dump and that of the dump of this step (255 none), the commands that the unit of an E2 held at the trigger, the jobs it
served, the context that an E1 stopped with the number of the command it blames, whether the step in progress blamed a context, the helper
reloads (helper, FT, newest first), the FT at which the warden watchdog was last restarted and whether it has expired, the units that await a rejoin, the replies that are still to come from before a reset, and the host completions (context, SEQ, CGEN) that
are still to come of commands which an E1 ended (R493). -/
structure LadSt where
  cur : Option Trigger := none
  begun : Nat := 0
  hist : List (Nat × Nat × Nat) := []
  halted : Bool := false
  held : List Nat := []
  last : Nat := 7
  slot : Nat := 255
  heldCmds : List TileCmd := []
  served : List Nat := []
  stopped : Option (Nat × Option Nat) := none
  blamed : Bool := false
  helpers : List (Nat × Nat) := []
  wdt : Nat := 0
  wdtOut : Bool := false
  rejoins : List Rejoin := []
  ghosts : List Ghost := []
  late : List (Nat × Nat × Nat) := []
  deriving DecidableEq, Repr

/-! ## Records of security and boot (chapters 17, 18) -/

/-- A KEY item (R564): its roles (bit 0 IMAGE, 1 PKG, 2 DEBUG), its KEY_ID and its public key. -/
structure KeyItem where
  roles : Nat
  id : Nat
  pk : List Byte
  deriving DecidableEq, Repr

/-- The configuration record in force (R562, R564): its items with the values that R564 gives where one is absent, in
their register units; the HOLDUP item is C, V_MIN, P_STORE, MARGIN, T_ERASE_MAX, T_PROG_MAX. -/
structure CfgSt where
  seq : Nat := 0
  floor : Nat := 0
  rootIdx : Nat := 0
  copy : Nat := 0
  grade : Nat := 0
  rootMask : Nat := 0
  keys : List KeyItem := []
  bifur : Bool := false
  vfCap : Nat := 64
  fwBase : Nat := 0
  spillBase : Nat := 0x4000
  fanBase : Nat := 1
  dumpBase : Nat := 2
  spillSize : Nat := 2048
  /-- whether the record names a memory map -/
  mapSet : Bool := false
  masks : List (List Nat) := []
  holdup : Option (List Nat) := none
  links : Nat := 15
  mgmt : List (List Nat) := []
  pkgSigned : Bool := false
  debug : Bool := false
  regInit : List (Nat × Nat) := []
  deriving DecidableEq, Repr

/-- Security (R557 to R570): the device seed where it was reconstructed, the record in force, the entries of the
measurement log (oldest first), the quote that is being signed and the quote buffer, the token under verification, the
refusals since power-on, and the FT at which the DEBUG grant ends. -/
structure SecSt where
  seed : Option (List Byte) := none
  cfg : CfgSt := {}
  log : List (List Byte) := []
  signing : Option (List Byte) := none
  quote : List Byte := []
  token : Option (List Byte) := none
  refusals : Nat := 0
  until_ : Nat := 0
  /-- the FT of the last revocation (R570) -/
  revoked : Option Nat := none
  deriving DecidableEq, Repr

/-- A boot control record (R523). -/
structure BcrSt where
  seq : Nat := 0
  active : Nat := 0
  next : Nat := 0
  stA : Nat := 0
  stB : Nat := 0
  trials : Nat := 0
  bankA : Nat := 255
  bankB : Nat := 255
  orig : Nat := 255
  verA : Nat := 0
  verB : Nat := 0
  deriving DecidableEq, Repr

/-- A buffer of the chunk assembly (R538): the chunk and its fragments. -/
structure ChunkBuf where
  chunk : Nat
  frags : List (Nat × List Byte)
  deriving DecidableEq, Repr

/-- A store of the device's own that was refused (R552): a chunk, a boot control record with what it brings about (0
nothing more, 1 a confirmation, 2 a slot READY), or bytes of the log; with the FT of the first refusal and of the last attempt. -/
inductive StoreKind
  | chunk (i : Nat) (bs : List Byte)
  | bcr (b : BcrSt) (why : Nat)
  | logPage (bs : List Byte)
  deriving DecidableEq, Repr

structure Retry where
  what : StoreKind
  first : Nat
  last : Nat
  deriving DecidableEq, Repr

/-- Boot and update (R523 to R556): the boot control record in force, the running slot, whether it runs as a trial, IMG_VER, SET_VER and SET_MIN of
its image, the FT of the later of the start and the last error, whether UPD_CONFIRM was accepted, whether the open delivery's header is valid and
whether the delivery is complete, the assembly buffers (least recently written first), the stores to retry, RESCUE, the reason for which a warm
boot is asked for, the next free page of the flash log area, and whether boot stage 7 is past. -/
structure BootSt where
  bcr : BcrSt := {}
  slot : Nat := 0
  trial : Bool := false
  img : Nat := 0
  setVer : Nat := 0
  setMin : Nat := 0
  healthFrom : Nat := 0
  hostOk : Bool := false
  hdrOk : Bool := false
  complete : Bool := false
  bufs : List ChunkBuf := []
  retries : List Retry := []
  rescue : Bool := false
  warm : Option Nat := none
  logNext : Nat := 0
  /-- the chunk digests and the components (ID, OFFSET, LENGTH) of the running image, as the warden holds them -/
  digests : List (List Byte) := []
  comps : List (Nat × Nat × Nat) := []
  up : Bool := false
  deriving DecidableEq, Repr

/-! ## The JTAG port (spec/21_debug_test.md R612 to R616) -/

/-- The test access port: the instruction in force, the boundary register, and the answer of the last DBG_ACCESS (DATA, STATUS). -/
structure JtagSt where
  ir : Nat := 2
  bsr : List Bool := []
  data : Nat := 0
  status : Nat := 0
  /-- what the last capture shifted out, low bit first, as a number -/
  tdo : Nat := 0
  deriving DecidableEq, Repr


/-! ## Records of modes, voltage and power (chapters 01, 19, 20) -/

/-- What the mode and voltage control keeps beside its registers: the automatic mode change that waits with its reason
(R33), the core clock pause since its FT (R30), the next cluster to power up with the FT of its start (R32, R590), the
last acknowledged VDD_CORE target, the FT of the last change of the target, whether its wait was counted late and timed
out (R584), whether the regulator does not answer (R585), the trims made and the FT of the last trim (R583) and of the last power evaluation (R608), whether T_J lies above the ordering
code's maximum (R609), THERMTRIP_N low (R595), PWRCYC_REQ_N low since its FT (R594), the cores that are held at a step boundary since
the wait for a mode cairn began (R29), whether the clusters power up at boot, and whether PWR_OK is low (R589). -/
structure PwrSt where
  auto : Option (Nat × Nat) := none
  pause : Option Nat := none
  upNext : Option (Nat × Nat) := none
  ack : Nat := 750
  since : Nat := 0
  late : Bool := false
  timedOut : Bool := false
  noAnswer : Bool := false
  trims : Nat := 0
  lastTrim : Nat := 0
  lastEval : Nat := 0
  overMax : Bool := false
  trip : Bool := false
  /-- FL_RESET_N low (R586): from power-on reset until the warden leaves reset -/
  flRst : Bool := true
  /-- mV by which the target still stands above that of V_R after a start (R583) -/
  above : Nat := 0
  cyc : Option Nat := none
  watch : List Nat := []
  booting : Bool := true
  down : Bool := false
  deriving DecidableEq, Repr

/-! ## Records of the test multiplexers (spec/21_debug_test.md) -/

/-- A TMUX pin (R617 to R620): its toggled level, the FT until which its pulse lasts, the FT until which further events
merge, and the FT until which it is held low after a change of selection. -/
structure PinSt where
  level : Bool := false
  high : Nat := 0
  merge : Nat := 0
  low : Nat := 0
  /-- the selected level source as it was last seen -/
  was : Bool := false
  deriving DecidableEq, Repr


/-- Why the machine stops. No rule of the spec stops the block as a whole: errors are recorded, counted or reported in
completions. No command raises one; it stands for the form of the interface. Safe: never reached. -/
inductive Fault
  /-- Raised by no command of the model; safe. -/
  | none
  deriving DecidableEq, Repr

/-- Why a command is refused. -/
inductive Refusal
  /-- A command of the table that has no meaning yet, by its mnemonic. Raised by Machine/Dispatch.lean only; safe. -/
  | notModelled (mnemonic : String)
  /-- A command whose operands are outside what its row can carry (Sys2Proof/WellFormed.lean); raised by none of the
  meanings; safe. -/
  | illFormed
  deriving DecidableEq, Repr

/-- The state of the block. -/
structure State where
  /-- the commands that wait, first in first out: the model's own field -/
  pending : List Instr := []
  /-- free values drawn so far: the model's own field (log entry 3) -/
  free : Nat := 0
  /-- every register of BAR0 and of the command windows, by address (per-class sets and per-function generation checks at keys above) -/
  regs : List (Nat × Word) := []
  /-- enables whose disable is pending (R50, R64), by the address of the register that holds EN -/
  pendDis : List (Nat × Bool) := []
  /-- pulse-on-first-event sources that have pulsed since their counter was read (R627), by the counter's address -/
  disarmed : List (Nat × Bool) := []
  /-- operations that a register set has in progress, by the key of the set's control register (R67, R163, R632) -/
  opBusy : List (Nat × Bool) := []
  /-- the MSI-X tables, at function × 512 + vector -/
  msix : List (Nat × MsixVec) := []
  /-- Bus Master Enable by function (R457) -/
  bme : List (Nat × Bool) := []
  /-- messages sent, oldest first -/
  msgs : List Msg := []
  /-- the log of automatic actions, oldest first (R39) -/
  log : List LogEntry := []
  /-- the automatic actions of each loop since power-on (R39), by the loop's code -/
  loopCnt : List (Nat × Nat) := []
  /-- fusion time in ns and its fraction in 2^-40 ns (R128) -/
  ft : Nat := 0
  ftFrac : Int := 0
  disc : DiscSt := {}
  ptp : List (Nat × PtpSt) := []
  pps : PpsSt := {}
  srv : List (Nat × SrvSt) := []
  mp : MpSt := {}
  ports : List (Nat × PortSt) := []
  i3c : List (Nat × I3cSt) := []
  /-- live 64-bit values whose low half latches the high half when read, by the address of the low half (R160 and the chapters' tables) -/
  wide : List (Nat × Nat) := []
  /-- device-wide cairns, the latest FT first (R224, R227) -/
  cairns : List CairnRec := []
  /-- the streams of the sources (R225) -/
  srcs : List (Nat × SrcSt) := []
  /-- the messages that the fabric holds back (R229, R230), oldest first: at 16384 + source those that a source has formed and not
  sent, at 512 × VC + 16 × router + port those in the receiving buffer of a hop (port 1 the injection, 2 to 5 the mesh links, 6 + t tile t) -/
  hops : List (Nat × List FabMsg) := []
  /-- the region router's entry words, at 4 × entry + word (R233) -/
  rgn : List (Nat × Word) := []
  /-- the pinned fan-out entries, by global neuron slot (R235) -/
  pins : List (Nat × FanEntry) := []
  /-- the spike words that a cluster's fan-out unit has to serve (R239) -/
  spikeQ : List (Nat × List FabWord) := []
  /-- the surface slots, at 8 × tile + slot (R240) -/
  slots : List (Nat × SlotSt) := []
  /-- units that await rebinding (R245, R510): tile t at t, neuron core n at 128 + n -/
  awaiting : List (Nat × Bool) := []
  /-- the input FIFOs of the neuron cores (R225) -/
  ncFifo : List (Nat × List FabWord) := []
  /-- the neuron cores -/
  nc : List (Nat × NcSt) := []
  /-- the program register file of each neuron core (R263) -/
  uop : List (Nat × UopSt) := []
  /-- LPDDR5X, by byte address (R73); what nothing has written reads 0 (log entry 7) -/
  mem : List Host.Cell := []
  /-- 8-byte words of LPDDR5X with an uncorrectable error (R76, R314) -/
  memUe : List (Nat × Bool) := []
  /-- the failing addresses that the MEM_ pages have logged (R76, R314), oldest first, by channel -/
  memFail : List (Nat × Nat) := []
  /-- tile and cluster SRAM, at BAR4 offset less 0x0C_0000_0000 (R73, R309) -/
  sram : List Host.Cell := []
  /-- 8-byte words of SRAM with an uncorrectable error or a poison syndrome (R308) -/
  poison : List (Nat × Bool) := []
  /-- 8-byte words of SRAM with a single-bit error that no read has corrected yet (R308) -/
  ce : List (Nat × Bool) := []
  /-- FT of each cluster's last scrub pass (R309) -/
  scrubs : List (Nat × Nat) := []
  /-- writes to SRAM that wait for the end of a core clock pause (spec/09_tensor_tiles.md R324), oldest first: place in the aperture,
  bytes -/
  held : List (Nat × List Byte) := []
  /-- the tables of BAR4, at BAR4 offset less 0x0D_0000_0000 (R73) -/
  tabs : List Host.Cell := []
  /-- host memory as the device has written it -/
  hostMem : List Host.Cell := []
  /-- the serial flash; an erased byte reads 0xFF -/
  flash : List Host.Cell := []
  /-- descriptor slots of the command windows, at context × 32768 + offset (R435, R438) -/
  desc : List Host.Cell := []
  ctxs : List (Nat × CtxSt) := []
  ancs : List (Nat × AncSt) := []
  tiles : List (Nat × TileSt) := []
  /-- the bound, standby and binding jobs, oldest first, and the handle given last (R416) -/
  jobs : List JobSt := []
  lastJob : Nat := 0
  /-- the accepted, unfinished commands of contexts and tile queues, oldest first (R497) -/
  accepted : List CmdRef := []
  /-- the binder's commands (context, SEQ), the one in execution first (R420) -/
  binder : List (Nat × Nat) := []
  /-- frames that this device has to route, oldest first, and frames delivered to its agents (R473) -/
  txq : List Frame := []
  inbox : List Frame := []
  /-- frames sent on a port (0–3), oldest first -/
  sent : List (Nat × Frame) := []
  /-- SEQ of the next frame by 4 × DST + VC (R467) -/
  txSeq : List (Nat × Nat) := []
  /-- the triggers that wait, in order (R501) -/
  triggers : List Trigger := []
  /-- PTP messages sent, by instance (R139) -/
  ptpTx : List (Nat × PtpMsg) := []
  /-- what the last read access returned, and whether it completed poisoned -/
  rdata : Nat := 0
  rpois : Bool := false
  /-- events emitted by all ports: the millisecond of FT, the count in it, and the count of the one before (R114) -/
  evMs : Nat := 0
  evCnt : Nat := 0
  evLast : Nat := 0
  /-- TRIGGER words passed to fusion: port, FT stamp, edge (R101) -/
  trigs : List (Nat × Nat × Bool) := []
  /-- SRAM of tile t (at t) and of cluster c (at 128 + c) whose contents were lost (R310), by the draw that stands for them, and the bytes written since -/
  lost : List (Nat × Nat) := []
  known : List (Nat × Bool) := []
  lean : LeanSt := {}
  /-- the shadow checker's queue, oldest first (R370) -/
  samples : List Sample := []
  pwr : PwrSt := {}
  /-- the TMUX pins -/
  tmux : List (Nat × PinSt) := []
  /-- bars whose last issued instant has a disputed quantity (R618) -/
  disputed : List (Nat × Bool) := []
  enc : List (Nat × EncSt) := []
  imu : List (Nat × ImuSt) := []
  chain : List (Nat × ChainSt) := []
  bars : List (Nat × BarSt) := []
  fus : FusSt := {}
  out : OutSt := {}
  /-- the recovery ladder -/
  ladder : LadSt := {}
  sec : SecSt := {}
  boot : BootSt := {}
  jtag : JtagSt := {}
  /-- the Ridge link ports, the remote bars, and the relay -/
  links : List (Nat × LinkSt) := []
  rbars : List (Nat × RbarSt) := []
  relay : RelaySt := {}
  /-- the messages sent on the SVC port, oldest first (R541) -/
  svc : List (List Byte) := []
  deriving DecidableEq, Repr

/-- The block right after power-on reset: every register at its reset value (no entry in the sparse tables), every
buffer empty, FT 0 (R128), and no command waiting. The fields' initial values above are the reset values; those that
the spec does not give are named in the log entries 2 and 4. -/
def State.reset : State := {}

end Sys2Proof.Machine
end

