-- ==== Sys2Proof/Machine/Ops.lean ====
section
/-!
DEFINITION. The named operations over registers, sparse tables, bytes and free values that every command uses.
-/
namespace Sys2Proof.Machine
open Sys2Proof

/-- What a command answers. -/
abbrev Out := Host.Outcome State Fault Refusal

/-- The first element of a list that passes a test, and the others in their order. -/
def takeFirst {α : Type} (f : α → Bool) : List α → Option (α × List α)
  | [] => none
  | a :: t => if f a then some (a, t) else (takeFirst f t).map (fun r => (r.1, a :: r.2))

/-! ## Registers -/

/-- The register at an address (R14: the current value). -/
def rd (s : State) (a : Nat) : Word := tget resetWord s.regs a

/-- The state with a register set to a word. -/
def wr (s : State) (a : Nat) (v : Word) : State := { s with regs := tset resetWord s.regs a v }

/-- Bits [hi:lo] of a register. -/
def fld (s : State) (a hi lo : Nat) : Nat := bits (rd s a) hi lo

/-- Whether bit i of a register is 1. -/
def flag (s : State) (a i : Nat) : Bool := fld s a i i == 1

/-- The state with bits [hi:lo] of a register set to x. -/
def setFld (s : State) (a hi lo x : Nat) : State := wr s a (putBits (rd s a) hi lo x)

/-- The state with bit i of a register set to a truth value. -/
def setFlag (s : State) (a i : Nat) (b : Bool) : State := setFld s a i i (b2n b)

/-- The number a register holds. -/
def rdN (s : State) (a : Nat) : Nat := (rd s a).toNat

/-- The signed number a register holds. -/
def rdS (s : State) (a : Nat) : Int := sx 32 (rdN s a)

/-- The state with a register set to a number. -/
def wrN (s : State) (a n : Nat) : State := wr s a (word n)

/-- The state with a register set to a signed number, saturated to 32 bits. -/
def wrS (s : State) (a : Nat) (i : Int) : State := wrN s a (twos 32 (satS 32 i))

/-- The state with a pair of registers, low word first, set to a 64-bit number. -/
def wr64 (s : State) (lo hi n : Nat) : State := wrN (wrN s lo (n % 4294967296)) hi (n / 4294967296)

/-- The 64-bit number a pair of registers holds, low word first. -/
def rd64 (s : State) (lo hi : Nat) : Nat := rdN s lo + 4294967296 * rdN s hi

/-- A 32-bit saturating counter plus n. -/
def bumpN (s : State) (a n : Nat) : State := wrN s a (satN 0xFFFFFFFF (rdN s a + n))

/-- A 32-bit saturating counter plus 1. -/
def bump (s : State) (a : Nat) : State := bumpN s a 1

/-- A 32-bit wrapping counter plus 1. -/
def bumpWrap (s : State) (a : Nat) : State := wrN s a (rdN s a + 1)

/-- A register raised to at least n. -/
def peak (s : State) (a n : Nat) : State := if rdN s a < n then wrN s a n else s

/-! ## Live 64-bit values (R160) -/

/-- The default of tables of numbers, and of truth values. -/
def natD (_ : Nat) : Nat := 0
def boolD (_ : Nat) : Bool := false

/-- The live 64-bit value whose low half lies at an address. -/
def wideOf (s : State) (a : Nat) : Nat := tget natD s.wide a
def setWide (s : State) (a n : Nat) : State := { s with wide := tset natD s.wide a (n % 18446744073709551616) }
def bumpWide (s : State) (a n : Nat) : State := setWide s a (wideOf s a + n)

/-! ## The numbered sets of units -/

def portD (_ : Nat) : PortSt := {}
def srvD (_ : Nat) : SrvSt := {}
def ptpD (_ : Nat) : PtpSt := {}
def i3cD (_ : Nat) : I3cSt := {}
def msixD (_ : Nat) : MsixVec := {}
def byte0 (_ : Nat) : Byte := 0
def byteF (_ : Nat) : Byte := 0xFF

/-- Stream port p. -/
def port (s : State) (p : Nat) : PortSt := tget portD s.ports p
def setPort (s : State) (p : Nat) (x : PortSt) : State := { s with ports := tset portD s.ports p x }
/-- The servo of port p. -/
def servo (s : State) (p : Nat) : SrvSt := tget srvD s.srv p
def setServo (s : State) (p : Nat) (x : SrvSt) : State := { s with srv := tset srvD s.srv p x }
/-- PTP domain n. -/
def ptpOf (s : State) (n : Nat) : PtpSt := tget ptpD s.ptp n
def setPtp (s : State) (n : Nat) (x : PtpSt) : State := { s with ptp := tset ptpD s.ptp n x }
/-- I3C bus b. -/
def bus (s : State) (b : Nat) : I3cSt := tget i3cD s.i3c b
def setBus (s : State) (b : Nat) (x : I3cSt) : State := { s with i3c := tset i3cD s.i3c b x }

/-- Whether a disable is pending at the register that holds an EN field. -/
def disPend (s : State) (a : Nat) : Bool := tget boolD s.pendDis a
def setDisPend (s : State) (a : Nat) (b : Bool) : State := { s with pendDis := tset boolD s.pendDis a b }

/-- Whether the operation of a register set is in progress. -/
def opOn (s : State) (a : Nat) : Bool := tget boolD s.opBusy a
def setOp (s : State) (a : Nat) (b : Bool) : State := { s with opBusy := tset boolD s.opBusy a b }

/-! ## Free values (log entry 3) -/

/-- The next value that the spec leaves open, and the state that has drawn it. -/
def drawNat (s : State) : Nat × State := (Config.freeValue s.free, { s with free := s.free + 1 })

/-- The next signed value that the spec leaves open, and the state that has drawn it. -/
def drawInt (s : State) : Int × State := (Config.freeInt s.free, { s with free := s.free + 1 })

/-! ## Lists -/

/-- The state changed by f for each element of a list, in order. -/
def eachL {α : Type} (f : State → α → State) (l : List α) (s : State) : State := l.foldl f s

/-- f applied for i = 0 … n − 1, in order. -/
def eachN (n : Nat) (f : State → Nat → State) (s : State) : State := (List.range n).foldl f s

/-- The first n elements kept of a list. -/
def keep {α : Type} (n : Nat) (l : List α) : List α := l.take n

/-! ## The log of automatic actions (spec/01_architecture.md R39) -/

/-- The number of a loop. -/
def loopCode : LoopId → Nat
  | .lean => 0 | .stretch => 1 | .voting => 2 | .refinement => 3 | .time => 4 | .spill => 5 | .mode => 6 | .hang => 7
  | .slot => 8 | .job => 9 | .other => 10

/-- An automatic action: it increments the counter of its loop and writes a log entry with the FT, the loop, the old and the new
state, a reason code and what the loop's rule adds. -/
def addLogData (s : State) (l : LoopId) (old new reason : Nat) (data : List Nat) : State :=
  { s with log := s.log ++ [{ ft := s.ft, loop := l, old := old, new := new, reason := reason, data := data }]
           loopCnt := tset natD s.loopCnt (loopCode l) (tget natD s.loopCnt (loopCode l) + 1) }

def addLog (s : State) (l : LoopId) (old new reason : Nat) : State := addLogData s l old new reason []

/-! ## Modes (spec/01_architecture.md R34, R35) -/

def modeRidge : Nat := 0
def modeSummit : Nat := 1
def modeValley : Nat := 2
def modeBelay : Nat := 3
def modeBivouac : Nat := 4

/-- The mode in force, GLB_MODE_STAT.CURRENT. -/
def mode (s : State) : Nat := fld s GLB_MODE_STAT 2 0

def inBelay (s : State) : Bool := mode s == modeBelay
def inBivouac (s : State) : Bool := mode s == modeBivouac

end Sys2Proof.Machine
end

