-- ==== Sys2Proof/Machine/Flags.lean ====
section
/-!
DEFINITION. The status and interrupt flags of a page: PAGE_STAT, PAGE_IRQ_STAT, PAGE_ERR_CODE, PAGE_GEN, the routes of
interrupts to MSI-X vectors, and the pulse sources of R627 (spec/02_register_pages.md, spec/14_host_interface.md).
-/
namespace Sys2Proof.Machine
open Sys2Proof

abbrev PAGE_ID (pg : Nat) : Nat := pg
abbrev PAGE_VER (pg : Nat) : Nat := pg + 0x04
abbrev PAGE_CTRL (pg : Nat) : Nat := pg + 0x08
abbrev PAGE_STAT (pg : Nat) : Nat := pg + 0x0C
abbrev PAGE_IRQ_RAW (pg : Nat) : Nat := pg + 0x10
abbrev PAGE_IRQ_EN (pg : Nat) : Nat := pg + 0x14
abbrev PAGE_IRQ_STAT (pg : Nat) : Nat := pg + 0x18
abbrev PAGE_ERR_CODE (pg : Nat) : Nat := pg + 0x1C
abbrev PAGE_ERR_INFO (pg : Nat) : Nat := pg + 0x20
abbrev PAGE_GEN (pg : Nat) : Nat := pg + 0x24
abbrev PAGE_ACCESS (pg : Nat) : Nat := pg + 0x28
abbrev PAGE_CLKDOM (pg : Nat) : Nat := pg + 0x2C

/-- The unit states of R52. -/
def stOff : Nat := 0
def stReset : Nat := 1
def stInit : Nat := 2
def stReady : Nat := 3
def stHalted : Nat := 4
def stError : Nat := 5

/-! ## MSI-X (R453) -/

/-- The place of a function's vector in the MSI-X tables. -/
def vecKey (fn vec : Nat) : Nat := fn * 512 + vec

/-- How many vectors a function has (R429). -/
def vecCount (fn : Nat) : Nat := if fn < 2 then 512 else if fn < 66 then 16 else 0

def vecOf (s : State) (fn vec : Nat) : MsixVec := tget msixD s.msix (vecKey fn vec)
def setVec (s : State) (fn vec : Nat) (x : MsixVec) : State := { s with msix := tset msixD s.msix (vecKey fn vec) x }

/-- Whether a function may master the bus. -/
def busMaster (s : State) (fn : Nat) : Bool := tget boolD s.bme fn

/-- One message of a vector: a masked vector, or one of a function that may not master the bus, sets its pending bit. -/
def sendMsix (s : State) (fn vec : Nat) : State :=
  let v := vecOf s fn vec
  if v.masked || !busMaster s fn then setVec s fn vec { v with pend := true }
  else { s with msgs := s.msgs ++ [{ fn := fn, vec := vec, addr := v.addr, data := v.data }] }

/-! ## Interrupt bits (R53, R54, R454) -/

/-- An interrupt source of a page pulses: the status bit sets where it is enabled, and each bit that sets sends the
message of the page's route, where the route is enabled. -/
def irq (s : State) (pg bit : Nat) : State :=
  if flag s (PAGE_IRQ_EN pg) bit then
    if flag s (PAGE_IRQ_STAT pg) bit then s
    else
      let s1 := setFlag s (PAGE_IRQ_STAT pg) bit true
      let r := GLB_IRQ_ROUTE (pg / 0x10000 % 256)
      if flag s1 r 31 then sendMsix s1 (fld s1 r 30 30) (fld s1 r 8 0) else s1
  else s

/-- The three sources common to all pages. -/
def irqErr : Nat := 31
def irqGen : Nat := 30
def irqState : Nat := 29

/-! ## Unit state, generation and errors (R51, R55 to R58) -/

/-- PAGE_STAT.STATE of a page. -/
def unitState (s : State) (pg : Nat) : Nat := fld s (PAGE_STAT pg) 3 0

/-- STATE set, with its interrupt where it changes. -/
def setUnitState (s : State) (pg st : Nat) : State :=
  if unitState s pg = st then s else irq (setFld s (PAGE_STAT pg) 3 0 st) pg irqState

/-- PAGE_GEN.GEN of a page. -/
def pageGen (s : State) (pg : Nat) : Nat := fld s (PAGE_GEN pg) 7 0

/-- GEN advanced by 1, wrapping, with its interrupt (R58, R70). -/
def advGen (s : State) (pg : Nat) : State :=
  irq (setFld s (PAGE_GEN pg) 7 0 (pageGen s pg + 1)) pg irqGen

/-- An error recorded in a page (R55, R57): the first since ERR_CLR sets CODE and INFO, each counts. -/
def recErr (s : State) (pg code : Nat) (info : Word) : State :=
  let c := rd s (PAGE_ERR_CODE pg)
  let s1 := setFld s (PAGE_ERR_CODE pg) 31 24 (satN 0xFF (bits c 31 24 + 1))
  let s2 := if bits c 15 0 = 0 then
      wr (setFlag (setFld s1 (PAGE_ERR_CODE pg) 15 0 code) (PAGE_STAT pg) 8 true) (PAGE_ERR_INFO pg) info
    else s1
  irq s2 pg irqErr

def errWidth : Nat := 0x0001
def errDenied : Nat := 0x0002
def errStaleGen : Nat := 0x0003
def errInReset : Nat := 0x0004
def errLocked : Nat := 0x0005
def errBusyWrite : Nat := 0x0006
def errReservedEnc : Nat := 0x0007
def errBound : Nat := 0x0008
def errTimeout : Nat := 0x0009
def errLegacyWidth : Nat := 0x000A

/-! ## Pulse on the first event after a read (R627) -/

/-- A counted event of a counter whose interrupt pulses on the first event after a read: the counter counts, and the
source pulses once until the counter is read. -/
def bumpPulse (s : State) (a pg bit : Nat) : State :=
  let s1 := bump s a
  if tget boolD s1.disarmed a then s1
  else irq { s1 with disarmed := tset boolD s1.disarmed a true } pg bit

/-- The source of a counter is armed again. -/
def rearm (s : State) (a : Nat) : State := { s with disarmed := tset boolD s.disarmed a false }

end Sys2Proof.Machine
end

