-- ==== Sys2Proof/Machine/Memory.lean ====
section
/-!
DEFINITION. The addressed memories: LPDDR5X, tile and cluster SRAM with its uncorrectable words, the tables of BAR4, host
memory as the device writes it, and flash (spec/02_register_pages.md R73 to R76, spec/09_tensor_tiles.md R305, R308).
-/
namespace Sys2Proof.Machine
open Sys2Proof

/-- The bytes of usable LPDDR5X (R74). -/
def memSize : Nat := 133143986176

/-- The bytes of a tile's SRAM and of a cluster's (R305). -/
def tileSize : Nat := 0x300000
def clusterSize : Nat := 0x800000

/-- The place of a tile's and of a cluster's SRAM in the SRAM aperture (R73). -/
def tileAt (t : Nat) : Nat := 0x400000 * t
def clusterAt (c : Nat) : Nat := 0x20000000 + 0x800000 * c

/-! ## Bytes -/

def memRead (s : State) (a n : Nat) : List Byte := tgetL byte0 s.mem a n
/-- The unit that holds an SRAM byte: tile t, or 128 + c for cluster c. -/
def sramUnit (a : Nat) : Nat := if a < 0x20000000 then a / 0x400000 else 128 + (a - 0x20000000) / 0x800000

/-- A byte of SRAM: a free value where its contents were lost and nothing has been written since (R310). -/
def sramByte (s : State) (a : Nat) : Byte :=
  let k := tget natD s.lost (sramUnit a)
  if k = 0 || tget boolD s.known a then tget byte0 s.sram a else Config.lostByte k a

def sramRead (s : State) (a n : Nat) : List Byte := (rangeFrom a n).map (sramByte s)
def tabRead (s : State) (a n : Nat) : List Byte := tgetL byte0 s.tabs a n
def flashRead (s : State) (a n : Nat) : List Byte := tgetL byteF s.flash a n
def descRead (s : State) (a n : Nat) : List Byte := tgetL byte0 s.desc a n

/-- Numbers held in memory, low byte first (R11). -/
def memNum (s : State) (a n : Nat) : Nat := ofLe (memRead s a n)
def sramNum (s : State) (a n : Nat) : Nat := ofLe (sramRead s a n)
def tabNum (s : State) (a n : Nat) : Nat := ofLe (tabRead s a n)

/-- The 8-byte words that lie whole in n bytes from a. -/
def wholeWords (a n : Nat) : List Nat := rangeFrom ((a + 7) / 8) ((a + n) / 8 - (a + 7) / 8)

/-- The 8-byte words that n bytes from a touch. -/
def touched (a n : Nat) : List Nat := if n = 0 then [] else rangeFrom (a / 8) ((a + n - 1) / 8 + 1 - a / 8)

/-- The marks of a list of words removed. -/
def unmark (t : List (Nat × Bool)) (ws : List Nat) : List (Nat × Bool) := t.filter (fun e => !ws.contains e.1)

/-- Bytes written to LPDDR5X; a word written whole has fresh check bits. -/
def memWrite (s : State) (a : Nat) (bs : List Byte) : State :=
  { s with mem := tsetL byte0 s.mem a bs, memUe := unmark s.memUe (wholeWords a bs.length) }

/-- Bytes written to SRAM; a word written whole has fresh check bits. -/
def sramWrite (s : State) (a : Nat) (bs : List Byte) : State :=
  { s with sram := tsetL byte0 s.sram a bs, poison := unmark s.poison (wholeWords a bs.length), ce := unmark s.ce (wholeWords a bs.length)
           known := if tget natD s.lost (sramUnit a) = 0 then s.known
                    else tsetL boolD s.known a (List.replicate bs.length true) }

/-- The SRAM of a unit zeroed with valid check bits (R309). -/
def sramZero (s : State) (u : Nat) : State :=
  let lo := if u < 128 then tileAt u else clusterAt (u - 128)
  let hi := lo + (if u < 128 then 0x400000 else clusterSize)
  { s with sram := tclear s.sram lo hi, known := tclear s.known lo hi, poison := tclear s.poison (lo / 8) (hi / 8), ce := tclear s.ce (lo / 8) (hi / 8)
           lost := tset natD s.lost u 0 }

/-- The contents of a unit's SRAM are lost (R310): what it holds is a free value from here on. -/
def sramLose (s : State) (u : Nat) : State :=
  let s1 := sramZero s u
  { s1 with lost := tset natD s1.lost u (s1.free + 1), free := s1.free + 1 }

def tabWrite (s : State) (a : Nat) (bs : List Byte) : State := { s with tabs := tsetL byte0 s.tabs a bs }
def hostWrite (s : State) (a : Nat) (bs : List Byte) : State := { s with hostMem := tsetL byte0 s.hostMem a bs }
def flashWrite (s : State) (a : Nat) (bs : List Byte) : State := { s with flash := tsetL byteF s.flash a bs }
def descWrite (s : State) (a : Nat) (bs : List Byte) : State := { s with desc := tsetL byte0 s.desc a bs }

/-- Flash bytes erased to 0xFF. -/
def flashErase (s : State) (a n : Nat) : State := { s with flash := tclear s.flash a (a + n) }

/-- The pieces of n bytes from an offset: aligned 8-byte words, with a part of one at each end. -/
def pieces (off n : Nat) : List (Nat × Nat) :=
  ((rangeFrom (off / 8) ((off + n + 7) / 8 - off / 8)).map (fun k =>
    (max off (8 * k), min (off + n) (8 * k + 8) - max off (8 * k)))).filter (fun e => decide (0 < e.2))

/-! ## Uncorrectable words (R76, R308, R314) -/

/-- Whether n bytes from a of LPDDR5X, or of SRAM, hold an uncorrectable word. -/
def memBad (s : State) (a n : Nat) : Bool := (touched a n).any (fun w => tget boolD s.memUe w)
def sramBad (s : State) (a n : Nat) : Bool := (touched a n).any (fun w => tget boolD s.poison w)

/-- The first uncorrectable word of n bytes from a, as a byte address. -/
def firstBad (t : List (Nat × Bool)) (a n : Nat) : Nat :=
  8 * (((touched a n).find? (fun w => tget boolD t w)).getD (a / 8))

def poisonWords (s : State) (ws : List Nat) : State :=
  { s with poison := ws.foldl (fun t w => tset boolD t w true) s.poison }
def memUeWords (s : State) (ws : List Nat) : State :=
  { s with memUe := ws.foldl (fun t w => tset boolD t w true) s.memUe }

/-- The failing addresses of n bytes read from a are logged in the MEM_ page of their channels (R76, R314): the page's registers and the
channel of an address are not given (log entry 74). -/
def memUeLog (s : State) (a n : Nat) : State :=
  { s with memFail := s.memFail ++ ((touched a n).filter (fun w => tget boolD s.memUe w)).map (fun w =>
      (Config.memChannel (8 * w) % 32, 8 * w)) }

/-- The cluster controller page of cluster c. -/
def ccPage (c : Nat) : Nat := 0x100000 + 0x40000 * c

/-- The record of an uncorrectable SRAM word at an aperture place (R308): in the tile page, or in the cluster controller
page for cluster SRAM (under the one code that the name has, log entry 9); the event counts, and the first offset is
kept. -/
def sramUe (s : State) (a : Nat) : State :=
  if a < 0x20000000 then
    let t := a / 0x400000
    let off := a % 0x400000
    let s1 := bump (recErr s (tilePage t) 0x0101 (word off)) (TT_SRAM_UE_CNT t)
    let s2 := irq s1 (tilePage t) 0
    if flag s2 (TT_SRAM_UE_ADDR t) 31 then s2 else wrN s2 (TT_SRAM_UE_ADDR t) (0x80000000 + off)
  else
    let c := (a - 0x20000000) / 0x800000
    let off := (a - 0x20000000) % 0x800000
    let s1 := bump (recErr s (ccPage c) 0x0101 (word off)) (CC_SRAM_UE_CNT c)
    if flag s1 (CC_SRAM_UE_ADDR c) 31 then s1 else wrN s1 (CC_SRAM_UE_ADDR c) (0x80000000 + off)

/-- The marked words that some spans of bytes touch. -/
def markedIn (m : List (Nat × Bool)) (l : List (Nat × Nat)) : List Nat :=
  (m.map (·.1)).filter (fun w => l.any (fun e => decide (0 < e.2) && decide (e.1 / 8 ≤ w) && decide (w ≤ (e.1 + e.2 - 1) / 8)))

/-- The counter of corrected errors of the SRAM that holds an 8-byte word. -/
def ceCnt (w : Nat) : Nat :=
  if w < 0x4000000 then TT_SRAM_CE_CNT (w / 0x80000) else CC_SRAM_CE_CNT ((w - 0x4000000) / 0x100000)

/-- A single-bit error corrected, written back and counted (R308). -/
def correctWord (s : State) (w : Nat) : State := bump { s with ce := tset boolD s.ce w false } (ceCnt w)

/-- A read of spans of SRAM corrects the single-bit errors that it meets. -/
def correct (s : State) (l : List (Nat × Nat)) : State :=
  (markedIn s.ce l).foldl correctWord s

/-- Words of 32 bits from bytes, low byte first. -/
def wordsOf : Nat → List Byte → List Nat
  | 0, _ => []
  | k + 1, bs => ofLe (bs.take 4) :: wordsOf k (bs.drop 4)

/-- The bytes of a list of 32-bit words. -/
def bytesOf (ws : List Nat) : List Byte := ws.flatMap (fun w => leBytes 4 w)

end Sys2Proof.Machine
end

