-- ==== Sys2Proof/Machine/Probe.lean ====
section
/-!
DEFINITION. The event sources of the test multiplexers and the performance counters (spec/21_debug_test.md R617 to R622).
-/
namespace Sys2Proof.Machine
open Sys2Proof

/-! ## The sources (R618) -/

def evReplay : Nat := 0x02
def lvStretch : Nat := 0x03
def evDrop : Nat := 0x04
def evStep : Nat := 0x05
def lvFifo : Nat := 0x06
def evVote : Nat := 0x07
def lvDisputed : Nat := 0x08
def evInstant : Nat := 0x09
def evAnchor : Nat := 0x0A
def lvAncWait : Nat := 0x0B
def evCairn : Nat := 0x0C
def evLean : Nat := 0x0D
def lvRec : Nat := 0x0E

/-- Whether a source is a level. -/
def isLevel (src : Nat) : Bool := src == lvStretch || src == lvFifo || src == lvDisputed || src == lvAncWait || src == lvRec

/-- Whether a select register names a source at an ARG; REPLAY takes 0x3FF for any unit. -/
def selects (s : State) (a src arg : Nat) : Bool :=
  flag s a 31 && fld s a 23 16 == src && (fld s a 15 0 == arg || (src == evReplay && fld s a 15 0 == 0x3FF))

def pinD (_ : Nat) : PinSt := {}
def tpin (s : State) (n : Nat) : PinSt := tget pinD s.tmux n
def setTpin (s : State) (n : Nat) (x : PinSt) : State := { s with tmux := tset pinD s.tmux n x }

/-! ## Events on a pin (R617, R620) -/

/-- One event at a pin: shown, merged and counted, or lost in the low gap of a change of selection. -/
def pinEvent (s : State) (n : Nat) : State :=
  let x := tpin s n
  let md := fld s (TMUX_SEL n) 30 29
  if s.ft < x.low then s
  else if md = 1 then
    if s.ft < x.merge then bump s (TMUX_MERGE_CNT n)
    else setTpin s n { x with high := s.ft + 10, merge := s.ft + 20 }
  else if md = 2 then
    if s.ft < x.merge then bump s (TMUX_MERGE_CNT n)
    else setTpin s n { x with level := !x.level, merge := s.ft + 5 }
  else s

/-- An event of a source: the counters that select it count it exactly (R622), and the pins show it (R620). -/
def srcEvent (s : State) (src arg : Nat) : State :=
  let s1 := (List.range 8).foldl (fun t k =>
    if selects t (DBG_PMC_SEL k) src arg then bumpWide t (DBG_PMC_LO k) 1 else t) s
  (List.range 4).foldl (fun t n => if selects t (TMUX_SEL n) src arg then pinEvent t n else t) s1

/-- n events of a source at once. -/
def srcEvents (s : State) (src arg : Nat) : Nat → State
  | 0 => s
  | n + 1 => srcEvents (srcEvent s src arg) src arg n

end Sys2Proof.Machine
end

