-- ==== Sys2Proof/Machine/Anchor.lean ====
section
/-!
DEFINITION. Anchors (spec/09_tensor_tiles.md R316 to R323): their operations, the waits on them, and the signals of units
and of the host interface.
-/
namespace Sys2Proof.Machine
open Sys2Proof

def ancD (_ : Nat) : AncSt := {}
def tileD (_ : Nat) : TileSt := {}
def ctxD (_ : Nat) : CtxSt := {}

def anc (s : State) (a : Nat) : AncSt := tget ancD s.ancs a
def setAnc (s : State) (a : Nat) (x : AncSt) : State := { s with ancs := tset ancD s.ancs a x }
def tileOf (s : State) (t : Nat) : TileSt := tget tileD s.tiles t
def setTile (s : State) (t : Nat) (x : TileSt) : State := { s with tiles := tset tileD s.tiles t x }
def ctxOf (s : State) (c : Nat) : CtxSt := tget ctxD s.ctxs c
def setCtx (s : State) (c : Nat) (x : CtxSt) : State := { s with ctxs := tset ctxD s.ctxs c x }

def ancMax : Nat := 18446744073709551615
def ownHost : Nat := 8
def ownFree : Nat := 15

/-! ## Waits (R318, R437, R329) -/

/-- Whether a wait on an anchor is satisfied or released. -/
def waitDone (s : State) (w : Nat × Nat) : Bool := (anc s w.1).fault || decide (w.2 ≤ (anc s w.1).val) || (anc s w.1).owner == ownFree

/-- Whether a wait ends its command with ERR_ANCHOR_FAULT. -/
def waitFault (s : State) (w : Nat × Nat) : Bool := (anc s w.1).fault || (anc s w.1).owner == ownFree

/-- The waits in four pairs of words from index i on. -/
def waitsOf (ws : List Nat) (i : Nat) : List (Nat × Nat) :=
  ((List.range 4).filter (fun w => nbit (at0 ws (i + 2 * w)) 31)).map (fun w =>
    (nbits (at0 ws (i + 2 * w)) 13 0, nbits (at0 ws (i + 2 * w)) 29 14 * 4294967296 + at0 ws (i + 1 + 2 * w)))

/-- The signal in a word. -/
def sigOf (w : Nat) : Option (Nat × Nat) := if nbit w 31 then some (nbits w 29 16, nbits w 15 0) else none

/-- The waits, the signal, the budget and the number of a tile command. -/
def cmdWaits (c : TileCmd) : List (Nat × Nat) := match c.work with | .window ws => waitsOf ws 20 | _ => c.waits
def cmdSig (c : TileCmd) : Option (Nat × Nat) := match c.work with | .window ws => sigOf (at0 ws 28) | _ => c.sig
def cmdBudget (c : TileCmd) : Nat := match c.work with | .window ws => nbits (at0 ws 29) 31 16 | _ => c.budget
def cmdNum (c : TileCmd) : Nat := match c.work with | .window ws => at0 ws 30 | _ => c.seq

/-- Whether a command of a context is startable (R442): every command with a lower SEQ has started, or has completed with
FENCE. `cmds` are in SEQ order, and lower commands that are not accepted yet hold NEXT_SEQ back. -/
def startable (s : State) (c : Nat) (k : CmdSt) : Bool :=
  !k.started && decide (k.seq = rdN s (HIF_W_NEXT_SEQ c)) &&
    (!nbit (at0 k.words 0) 21 || (ctxOf s c).cmds.all (fun j => j.seq == k.seq || !j.started))

/-- Waits (anchor, target) without those that were satisfied once since they were registered: such a wait never blocks again (R318).
-/
def leftOf (met : List (Nat × Nat × Bool)) (ws : List (Nat × Nat)) : List (Nat × Nat) :=
  ws.filter (fun w => !met.any (fun m => m.1 == w.1 && m.2.1 == w.2))

/-- The waits of a queue's head that has not started, registered and not satisfied yet. -/
def queueWaits (q : QueueSt) : List (Nat × Nat) :=
  if q.started then [] else match q.cmds with | [] => [] | c :: _ => leftOf q.met (cmdWaits c)

/-- The waits of a host command that have not been satisfied. -/
def hostWaits (k : CmdSt) : List (Nat × Nat) := leftOf k.met (waitsOf k.words 2)

/-- Whether some wait of a command was, or would now be, released by FAULT or registered on a FREE anchor; of a wait that VALUE and
FAULT satisfy at once FAULT is taken (log entry 157). -/
def releasedBad (s : State) (met : List (Nat × Nat × Bool)) (left : List (Nat × Nat)) : Bool :=
  met.any (fun m => m.2.2) || left.any (waitFault s)

/-- The release anchor and target of slot e.1's open window: ANC + 1 at the number of closed windows less 1 (R243). -/
def slotWait (s : State) (e : Nat × SlotSt) : Nat × Nat :=
  (fld s (SB_SLOT_WIN (e.1 / 128) (e.1 % 128)) 13 0 + 1, e.2.closed - 1)

/-- The release anchor waits of the surface slots whose open window waits for its bank (R243). -/
def slotWaits (s : State) : List (Nat × Nat) :=
  (s.slots.filter (fun e => !e.2.ready && e.2.b.isSome && !e.2.met)).map (slotWait s)

/-- The waits of the queue heads of a tile. -/
def tileWaits (x : TileSt) : List (Nat × Nat) := queueWaits x.tq ++ queueWaits x.vq ++ queueWaits x.sq

/-- The waits of the commands of a context that are startable and have not started. -/
def ctxWaits (s : State) (c : Nat) (x : CtxSt) : List (Nat × Nat) :=
  (x.cmds.filter (startable s c)).flatMap hostWaits

/-- The registered waits on an anchor that it does not satisfy (R316 WAITERS). -/
def waiters (s : State) (a : Nat) : Nat :=
  let all := (s.tiles.flatMap (fun e => tileWaits e.2)) ++ (s.ctxs.flatMap (fun e => ctxWaits s e.1 e.2)) ++ slotWaits s
  (all.filter (fun w => w.1 == a && !waitDone s w)).length

/-! ## Operations (R317, R319) -/

/-- ANC_LAST and a counter of the anchor control page. -/
def ancCount (s : State) (kind cnt a : Nat) : State := wrN (bump s cnt) ANC_LAST (kind * 16384 + a % 16384)

/-- The waits on an anchor that are satisfied now, as they are kept. -/
def metNow (s : State) (a : Nat) (ws : List (Nat × Nat)) : List (Nat × Nat × Bool) :=
  (ws.filter (fun w => w.1 == a && waitDone s w)).map (fun w => (w.1, w.2, waitFault s w))

/-- The registered waits on an anchor that are satisfied are kept as satisfied, before the anchor changes in a way that they are not to
see (R318). -/
def latchOn (s : State) (a : Nat) : State :=
  let lq (q : QueueSt) : QueueSt := { q with met := q.met ++ metNow s a (queueWaits q) }
  { s with
    tiles := s.tiles.map (fun e => (e.1, { e.2 with tq := lq e.2.tq, vq := lq e.2.vq, sq := lq e.2.sq }))
    ctxs := s.ctxs.map (fun e => (e.1, { e.2 with cmds := e.2.cmds.map (fun k =>
      if startable s e.1 k then { k with met := k.met ++ metNow s a (hostWaits k) } else k) }))
    slots := s.slots.map (fun e => (e.1, { e.2 with
      met := e.2.met || (!e.2.ready && e.2.b.isSome && (slotWait s e).1 == a && waitDone s (slotWait s e)) })) }

/-- FAULT set on an anchor. -/
def ancFault (s : State) (a : Nat) : State :=
  let s1 := latchOn s a
  irq (ancCount (setAnc s1 a { anc s1 a with fault := true }) 2 ANC_FAULT_CNT a) 0x4000 0

/-- VALUE advanced by an increment, saturating with OVF. -/
def ancAdd (s : State) (a inc : Nat) : State :=
  let x := anc s a
  if x.val + inc ≤ ancMax then setAnc s a { x with val := x.val + inc }
  else irq (ancCount (setAnc s a { x with val := ancMax, ovf := true }) 3 ANC_OVF_CNT a) 0x4000 1

/-- VALUE, FAULT and OVF returned to 0. -/
def ancReset (s : State) (a : Nat) : State := setAnc (latchOn s a) a { anc s a with val := 0, fault := false, ovf := false }

/-- A new owner: VALUE, FAULT and OVF are 0 and GEN advances. -/
def ancOwner (s : State) (a o : Nat) : State :=
  setAnc (latchOn s a) a { val := 0, fault := false, ovf := false, gen := ((anc s a).gen + 1) % 256, owner := o }

/-! ## Signals (R320) -/

/-- The signaller of an anchor: a unit of partition p with the GEN recorded in its binding, or the host interface. -/
inductive Signaller
  | unit (p gen : Nat)
  | host
  deriving DecidableEq, Repr

/-- What becomes of a signal or a command FAULT: dropped as foreign, dropped as stale, or applied. -/
def guardSig (s : State) (who : Signaller) (a : Nat) (eff : State → State) : State :=
  match who with
  | .host => if (anc s a).owner = ownHost then eff s else ancCount s 1 ANC_FOREIGN_CNT a
  | .unit p g =>
    if (anc s a).owner ≠ p then ancCount s 1 ANC_FOREIGN_CNT a
    else if (anc s a).gen ≠ g then irq (ancCount s 0 ANC_STALE_CNT a) 0x4000 2
    else eff s

/-- A SIGNAL applied (R319); it is an event of the test multiplexers (R618). -/
def ancSignal (s : State) (a inc : Nat) : State := srcEvent (ancAdd s a inc) evAnchor a

def sigAdd (s : State) (who : Signaller) (a inc : Nat) : State := guardSig s who a (fun t => ancSignal t a inc)
def sigFault (s : State) (who : Signaller) (a : Nat) : State := guardSig s who a (fun t => ancFault t a)

/-! ## Accepted commands (spec/16_hang_recovery.md R497) -/

/-- A command is accepted, and a command has ended. -/
def accept (s : State) (r : CmdRef) : State := { s with accepted := s.accepted ++ [r] }
def unaccept (s : State) (r : CmdRef) : State := { s with accepted := s.accepted.filter (fun x => x != r) }

/-! ## Jobs as owners of anchors -/

/-- The job with a handle. -/
def jobOf (s : State) (h : Nat) : Option JobSt := s.jobs.find? (fun j => j.handle == h)

/-- The job with a handle changed. -/
def updJob (s : State) (h : Nat) (f : JobSt → JobSt) : State :=
  { s with jobs := s.jobs.map (fun j => if j.handle = h then f j else j) }

/-- The signaller that a unit of a job is, for an anchor: its partition and the GEN recorded at its binding. A unit of no
job has no binding, and its partition code is none. -/
def unitSig (s : State) (h a : Nat) : Signaller :=
  match jobOf s h with
  | none => .unit 14 0
  | some j => .unit j.part (((j.ancGen.find? (fun e => e.1 == a)).map (·.2)).getD 0)

/-- Whether a job is running: bound, or draining. -/
def running (j : JobSt) : Bool := decide (j.phase = .bound) || decide (j.phase = .draining)

/-- Whether a running job of a partition uses an anchor. -/
def ancInUse (s : State) (p a : Nat) : Bool :=
  s.jobs.any (fun j => running j && j.part == p && j.plan.anchors.contains a)

end Sys2Proof.Machine
end

