-- ==== Sys2Proof/Machine/HostRec.lean ====
section
/-!
DEFINITION. What the device sends: frames (spec/15_rope_fabric.md R467, R479, R482), completion records and their rings
(spec/14_host_interface.md R443, R446, R447, R449), and the end of a job (spec/13_ronrix_binding.md).
-/
namespace Sys2Proof.Machine
open Sys2Proof

/-! ## Frames and notices -/

def fmAddr : Nat := 0x0FE

/-- A frame that this device sends stands in the queue of frames to route (R467, R473): SRC is LNK_ADDR, TTL is TTL_DEF,
SGEN is LNK_GEN, and SEQ counts per (SRC, DST, VC). -/
def sendFrame (s : State) (typ vc dst : Nat) (payload : List Byte) : State :=
  let k := 4 * dst + vc
  let n := tget natD s.txSeq k
  let f : Frame := { typ := typ, vc := vc, sr := false, clsB := false, dst := dst, src := fld s LNK_ADDR 11 0
                     ttl := fld s LNK_SW_CFG 31 24, sgen := fld s LNK_GEN 7 0, seq := n, codes := [], payload := payload, bad := 0 }
  { s with txq := s.txq ++ [f], txSeq := tset natD s.txSeq k ((n + 1) % 4294967296) }

/-- A list of bytes cut or filled with zeros to a length. -/
def padTo (n : Nat) (bs : List Byte) : List Byte := (bs ++ List.replicate (n - bs.length) 0).take n

/-- A NOTICE to the fabric manager (R482), with the FT of the event and its detail bytes. -/
def notice (s : State) (code arg : Nat) (detail : List Byte) : State :=
  sendFrame s 0x06 0 fmAddr (leBytes 2 code ++ leBytes 2 arg ++ leBytes 4 0 ++ leBytes 8 s.ft ++ padTo 16 detail)

/-! ## Remote bar traffic (spec/15_rope_fabric.md R484) -/

/-- A STREAM frame of bar b's traffic, where the bar is forwarded: KIND 1 WORDS, 2 FUSION, 3 AMEND. -/
def fwdFrame (s : State) (b kind n : Nat) (body : List Byte) : State :=
  if flag s (LNK_FWD b) 31 then
    sendFrame s 0x10 1 (fld s (LNK_FWD b) 11 0)
      (leBytes 1 b ++ leBytes 1 kind ++ leBytes 2 n ++ leBytes 4 0 ++ leBytes 8 s.ft ++ body)
  else s

/-! ## Contexts (R433, R436) -/

def stDisabled : Nat := 0
def stActive : Nat := 1
def stStalled : Nat := 2
def stResetting : Nat := 3
def stCtxError : Nat := 4

/-- Whether a context belongs to the management channel. -/
def isMgmt (x : CtxSt) : Bool := x.func == 0xFF

/-- HIF_W_STATUS.STATE: a context is DISABLED unless both enables of R433 hold. -/
def ctxState (s : State) (c : Nat) : Nat :=
  let x := ctxOf s c
  if !x.en then stDisabled
  else if x.resetting then stResetting
  else if x.error then stCtxError
  else if !isMgmt x && !flag s (HIF_W_CQ_CFG c) 31 then stDisabled
  else if x.held.isEmpty then stActive else stStalled

/-- Whether a context is ACTIVE or STALLED. -/
def ctxLive (s : State) (c : Nat) : Bool := ctxState s c == stActive || ctxState s c == stStalled

/-- A context changed by f. -/
def updCtx (s : State) (c : Nat) (f : CtxSt → CtxSt) : State := setCtx s c (f (ctxOf s c))

/-- The accepted command of a context with a SEQ. -/
def cmdOf (s : State) (c q : Nat) : Option CmdSt := (ctxOf s c).cmds.find? (fun k => k.seq == q)

/-- That command changed by f. -/
def updCmd (s : State) (c q : Nat) (f : CmdSt → CmdSt) : State :=
  updCtx s c (fun x => { x with cmds := x.cmds.map (fun k => if k.seq = q then f k else k) })

/-- A status and a result decided for a running command. -/
def setStatus (s : State) (c q status result : Nat) : State :=
  updCmd s c q (fun k => if k.status.isSome then k else { k with status := some status, result := result })

/-! ## Completion records -/

def okSt : Nat := 0x0000
def emptySt : Nat := 0x0001

/-- The 32 bytes of a record (R446), with the phase of its ring entry. -/
def cplBytes (r : Cpl) (phase : Bool) : List Byte :=
  leBytes 4 r.seq ++ leBytes 2 r.tag ++ leBytes 2 r.status ++ leBytes 1 r.typ ++ leBytes 1 (r.cflags / 2 * 2 + b2n phase)
    ++ leBytes 2 r.ctx ++ leBytes 1 r.cgen ++ leBytes 1 r.pgen ++ leBytes 1 r.part ++ leBytes 1 0 ++ leBytes 8 r.endFt
    ++ leBytes 4 r.result ++ leBytes 4 (satN 0xFFFFFFFF r.runUs)

/-- The entries of a context's ring. -/
def ringSize (s : State) (c : Nat) : Nat := 2 ^ fld s (HIF_W_CQ_CFG c) 24 20

/-- Whether the device may write the next entry (R447); a ring that is not enabled takes none. -/
def ringRoom (s : State) (c : Nat) : Bool :=
  flag s (HIF_W_CQ_CFG c) 31 && decide ((fld s (HIF_W_CQ_TAIL c) 19 0 + 1) % ringSize s c ≠ fld s (HIF_W_CQ_HEAD c) 19 0)

/-- One entry written at TAIL, then the context's vector where it is asked for (R443, R447). -/
def ringPut (s : State) (c : Nat) (r : Cpl) (irqOn : Bool) : State :=
  let x := ctxOf s c
  let t := fld s (HIF_W_CQ_TAIL c) 19 0
  let t' := (t + 1) % ringSize s c
  let s1 := hostWrite s (rd64 s (HIF_W_CQ_BASE_LO c) (HIF_W_CQ_BASE_HI c) + 32 * t) (cplBytes r x.phase)
  let s2 := updCtx (wrN s1 (HIF_W_CQ_TAIL c) t') c (fun x => { x with phase := if t' = 0 then !x.phase else x.phase })
  let s3 := bump s2 (HIF_W_DONE_CNT c)
  if irqOn || flag s3 (HIF_W_CQ_CFG c) 30 then sendMsix s3 x.func (fld s3 (HIF_W_CQ_CFG c) 8 0) else s3

/-- A record of a context goes to its ring, waits for ring room, or travels as a CPL frame (R447, R479). -/
def putCpl (s : State) (c : Nat) (r : Cpl) (irqOn : Bool) : State :=
  let x := ctxOf s c
  if isMgmt x then
    sendFrame (bump s (HIF_W_DONE_CNT c)) 0x04 0 fmAddr (leBytes 2 c ++ leBytes 6 0 ++ cplBytes r true)
  else if x.held.isEmpty && ringRoom s c then ringPut s c r irqOn
  else updCtx s c (fun x => { x with held := x.held ++ [(r, irqOn)] })

/-- Held records are written, in order, while the ring has room (R447). -/
def releaseHeld (c : Nat) : Nat → State → State
  | 0, s => s
  | n + 1, s =>
    match (ctxOf s c).held with
    | [] => s
    | (r, b) :: t => if ringRoom s c then releaseHeld c n (ringPut (updCtx s c (fun x => { x with held := t })) c r b) else s

/-- The record of a command at its end. -/
def cplOf (s : State) (c : Nat) (k : CmdSt) (status : Nat) (sigDone sigFlt : Bool) : Cpl :=
  { seq := k.seq, tag := nbits (at0 k.words 15) 15 0, status := status, typ := nbits (at0 k.words 0) 31 24
    cflags := 4 * b2n sigDone + 8 * b2n sigFlt + 16 * b2n k.beyond, ctx := c, cgen := k.cgen, pgen := k.pgen, part := k.part
    endFt := s.ft, result := k.result, runUs := (s.ft - k.since.getD s.ft) / 1000 }

/-- Whether the signal anchor of a descriptor lies in its context's range (R434). -/
def inAncRange (x : CtxSt) (a : Nat) : Bool := decide (x.ancLo ≤ a) && decide (a < x.ancLo + x.ancN)

/-- The signal of a host command at its end (R443): the increment on OK and EMPTY, FAULT on every error but ERR_DENIED for
an anchor outside the context's range; and whether the signal and whether FAULT was performed, which an anchor that
HOST does not own drops. -/
def hostSignal (s : State) (c : Nat) (k : CmdSt) (status : Nat) : State × Bool × Bool :=
  match sigOf (at0 k.words 1) with
  | none => (s, false, false)
  | some (a, inc) =>
    let own := decide ((anc s a).owner = ownHost)
    if status = okSt ∨ status = emptySt then (sigAdd s .host a inc, own, false)
    else if status = 0x0101 ∧ !inAncRange (ctxOf s c) a then (s, false, false)
    else (sigFault s .host a, false, own)

/-- A command leaves its context: steps 2 to 4 of R443, or no record where it is discarded (R457). -/
def endCmd (s : State) (c : Nat) (k : CmdSt) (status : Nat) : State :=
  let (s1, d, f) := hostSignal s c k status
  let s2 := updCtx (unaccept s1 (.host c k.seq)) c (fun x => { x with cmds := x.cmds.filter (fun j => j.seq != k.seq) })
  let s2 := if status = 0x0104 then irq (bump s2 HIF_DMA_ERR_CNT) 0x10000 2 else s2
  if k.orphan then bump s2 HIF_LATE_DISCARD_CNT
  else putCpl s2 c (cplOf s2 c k status d f) (nbit (at0 k.words 0) 22)

/-- The command at the front of a context's SEQ order becomes startable now, where nothing holds it back (R442, R444). -/
def markStartable (s : State) (c : Nat) : State :=
  updCtx s c (fun x => { x with cmds := x.cmds.map (fun k =>
    if k.since.isNone && startable s c k then { k with since := some s.ft } else k) })

/-! ## The end of a job (R449) -/

/-- The tag of a partition. -/
def partGen (s : State) (p : Nat) : Nat := fld s (REC_PART_GEN p) 7 0

/-- The asynchronous record of a job that ends other than by UNBIND. -/
def asyncRecord (s : State) (j : JobSt) (status : Nat) : State :=
  if ctxLive s j.ctx then
    putCpl s j.ctx { seq := j.seq, tag := j.tag, status := status, typ := 0x10, cflags := 2, ctx := j.ctx, cgen := j.cgen
                     pgen := partGen s j.part, part := 8 + j.part, endFt := s.ft, result := j.handle
                     runUs := (s.ft - j.since) / 1000 } true
  else bump s HIF_LATE_DISCARD_CNT

/-- A job ends other than by UNBIND: it stops running, its record is written, and the end is logged (R39, R449). Its
resources are released by UNBIND_RELEASE. -/
def endJob (s : State) (status h : Nat) : State :=
  match jobOf s h with
  | none => s
  | some j =>
    if j.phase = .bound ∨ (j.phase = .draining ∧ j.cmd.isSome) then
      let s1 := updJob s h (fun j => { j with phase := .draining, drain := false, endFt := some s.ft })
      addLog (asyncRecord s1 j status) .job 1 0 status
    else s

/-- Every running job that a test picks ends with a status. -/
def endJobs (s : State) (status : Nat) (pick : JobSt → Bool) : State :=
  ((s.jobs.filter (fun j => running j && pick j)).map (·.handle)).foldl (fun t h => endJob t status h) s

/-- Whether a running job uses bar b, or a bar that port p belongs to. -/
def jobBar (j : JobSt) (b : Nat) : Bool := nbit j.bars b
def jobPort (s : State) (j : JobSt) (p : Nat) : Bool :=
  (List.range 8).any (fun b => jobBar j b && flag s (FUS_BAR_PORTS b) p)

/-- Whether a tile, or a neuron core, is bound to a running job. -/
def boundTile (s : State) (t : Nat) : Bool := s.jobs.any (fun j => running j && j.plan.tiles.contains t)
def boundCore (s : State) (n : Nat) : Bool := s.jobs.any (fun j => running j && j.plan.cores.contains n)
def boundCluster (s : State) (c : Nat) : Bool :=
  s.jobs.any (fun j => running j && (j.plan.tiles.any (fun t => t / 8 == c) || j.plan.cores.any (fun n => n / 32 == c)))

/-- The partition of a cluster, where it is assigned (R419). -/
def partOf (s : State) (c : Nat) : Option Nat := if flag s (CC_PART c) 3 then some (fld s (CC_PART c) 2 0) else none

/-- Whether any job is bound, and whether a bound job uses a bar. -/
def anyBound (s : State) : Bool := s.jobs.any running
def boundBar (s : State) (b : Nat) : Bool := s.jobs.any (fun j => running j && jobBar j b)

def errOverrun : Nat := 0x0400
def errThermal : Nat := 0x0401
def errMismatch : Nat := 0x0402
def errJobReset : Nat := 0x0403

end Sys2Proof.Machine
end

