-- ==== Sys2Proof/Machine/Cairn.lean ====
section
/-!
DEFINITION. Time advancing, cairns, and the sending of words on the paths of a source (spec/07_event_fabric.md R221 to
R231 and R631, spec/04_time_bases.md R128, R129, R155).
-/
namespace Sys2Proof.Machine
open Sys2Proof

/-! ## Units as destinations -/

def srcD (_ : Nat) : SrcSt := {}
def slotD (_ : Nat) : SlotSt := {}
def fanD (_ : Nat) : FanEntry := {}
def fabQD (_ : Nat) : List FabWord := []
def rgnD (_ : Nat) : Word := 0

def ncD (_ : Nat) : NcSt := {}

/-- Neuron core n, and its state set. -/
def ncOf (s : State) (n : Nat) : NcSt := tget ncD s.nc n
def setNc (s : State) (n : Nat) (x : NcSt) : State := { s with nc := tset ncD s.nc n x }

def srcOf (s : State) (k : Nat) : SrcSt := tget srcD s.srcs k
def setSrc (s : State) (k : Nat) (x : SrcSt) : State := { s with srcs := tset srcD s.srcs k x }
def slotOf (s : State) (t k : Nat) : SlotSt := tget slotD s.slots (8 * t + k)
def setSlot (s : State) (t k : Nat) (x : SlotSt) : State := { s with slots := tset slotD s.slots (8 * t + k) x }
def rgnWord (s : State) (e i : Nat) : Word := tget rgnD s.rgn (4 * e + i)
def setRgnWord (s : State) (e i : Nat) (v : Word) : State := { s with rgn := tset rgnD s.rgn (4 * e + i) v }

/-- Whether a unit awaits rebinding: tile t at t, neuron core n at 128 + n. -/
def isAwaiting (s : State) (u : Nat) : Bool := tget boolD s.awaiting u
def setAwaiting (s : State) (u : Nat) (b : Bool) : State := { s with awaiting := tset boolD s.awaiting u b }

/-- Whether neuron core n runs: enabled, or with a disable pending. -/
def ncEnabled (s : State) (n : Nat) : Bool := flag s (PAGE_CTRL (ncPage n)) 0 || disPend s (PAGE_CTRL (ncPage n))

/-- SB_SLOT_CFG of slot k of tile t, and the other three words of its descriptor (R249). -/
def slotCfg (t k : Nat) : Nat := SB_SLOT_CFG (t / 16) (8 * (t % 16) + k)
def slotGeom (t k : Nat) : Nat := SB_SLOT_GEOM (t / 16) (8 * (t % 16) + k)
def slotBase (t k : Nat) : Nat := SB_SLOT_BASE (t / 16) (8 * (t % 16) + k)
def slotWin (t k : Nat) : Nat := SB_SLOT_WIN (t / 16) (8 * (t % 16) + k)

def slotEnabled (s : State) (t k : Nat) : Bool := flag s (slotCfg t k) 31

/-- Whether a destination can take words (R245). -/
def takes (s : State) : Dest → Bool
  | .core n => ncEnabled s n && decide (unitState s (ncPage n) = stReady) && !isAwaiting s (128 + n)
  | .slot t k => slotEnabled s t k && decide (unitState s (tilePage t) = stReady) && !isAwaiting s t

/-! ## Bars and the region router (R187, R233, R234) -/

/-- The enabled bar that a port belongs to (R187). -/
def barOf (s : State) (p : Nat) : Option Nat :=
  (List.range 8).find? (fun b => flag s (FUS_BAR_CFG b) 31 && flag s (FUS_BAR_PORTS b) p)

/-- Whether a bar is one that another device ingests (spec/15_rope_fabric.md R485). -/
def isRemote (s : State) (b : Nat) : Bool := flag s (LNK_RBAR b) 31

/-- Whether region entry e is in use for words of port p of bar b, at all. -/
def rgnPort (s : State) (e b p : Nat) : Bool :=
  let w0 := rgnWord s e 0
  bits w0 31 31 == 1 && bits w0 30 28 == b && bits (rgnWord s e 1) p p == 1 && bits w0 27 26 != 0

/-- Whether region entry e matches a word of port p of bar b with column x and polarity. -/
def rgnMatch (s : State) (e b p x : Nat) (pol : Bool) : Bool :=
  let w0 := rgnWord s e 0
  rgnPort s e b p && bits w0 (26 + b2n pol) (26 + b2n pol) == 1 && decide (bits w0 25 13 ≤ x) && decide (x ≤ bits w0 12 0)

/-- The destinations that entry e names. -/
def rgnDests (s : State) (e : Nat) : List Dest :=
  let w2 := rgnWord s e 2
  let w3 := rgnWord s e 3
  let cores := if bits w2 31 31 = 1 then
      (rangeFrom (bits w2 26 18) (bits w2 8 0 + 1 - bits w2 26 18)).map Dest.core else []
  let slots := if bits w3 31 31 = 1 then
      (rangeFrom (bits w3 30 24) (bits w3 22 16 + 1 - bits w3 30 24)).flatMap (fun t =>
        ((List.range 8).filter (fun k => bits w3 k k == 1)).map (fun k => Dest.slot t k)) else []
  cores ++ slots

/-- A list without repeats, in order of first appearance. -/
def uniq {α : Type} [DecidableEq α] (l : List α) : List α := l.foldl (fun r x => if x ∈ r then r else r ++ [x]) []

/-- The region entries that hold a non-zero first word, in ascending order. -/
def rgnUsed (s : State) : List Nat := (s.rgn.filter (fun e => e.1 % 4 = 0)).map (fun e => e.1 / 4)

/-- The union of the destinations of every matching entry (R234). -/
def eventDests (s : State) (b p x : Nat) (pol : Bool) : List Dest :=
  uniq (((rgnUsed s).filter (fun e => rgnMatch s e b p x pol)).flatMap (rgnDests s))

/-- Every destination on some path of port p of bar b. -/
def barPaths (s : State) (b p : Nat) : List Dest :=
  uniq (((rgnUsed s).filter (fun e => rgnPort s e b p)).flatMap (rgnDests s))

/-- Every destination on some path of port p: of its bar. -/
def portPaths (s : State) (p : Nat) : List Dest :=
  match barOf s p with
  | some b => barPaths s b p
  | none => []

/-- Whether port p, of this device or of a remote bar, has a path to a destination. -/
def reaches (s : State) (p : Nat) (d : Dest) : Bool :=
  (portPaths s p).contains d || (List.range 8).any (fun b => isRemote s b && (barPaths s b p).contains d)

/-- Every destination on some path of neuron core n: the targets of its pinned entries. -/
def corePaths (s : State) (n : Nat) : List Dest :=
  uniq ((s.pins.filter (fun e => e.1 / 8192 = n)).flatMap (fun e =>
    (e.2.recs.map (fun r => Dest.core (nbits r 63 55))) ++
    (match e.2.sv with | some (t, k, _, _) => [Dest.slot t k] | none => [])))

/-- Every destination on some path of a source. -/
def pathsOf (s : State) (src : Nat) : List Dest := if src < 32 then portPaths s src else corePaths s (src - 32)

/-! ## The words (R221, R222) -/

def kindEvent : Nat := 0
def kindSpike : Nat := 1
def kindCairn : Nat := 2
def kindMark : Nat := 3

def quad (n : Nat) : Quad := BitVec.ofNat 64 n

def eventWord (toff x y : Nat) (pol : Bool) (p flags : Nat) : Quad :=
  quad (toff % 2 ^ 24 * 2 ^ 40 + x % 2 ^ 13 * 2 ^ 27 + y % 2 ^ 13 * 2 ^ 14 + b2n pol * 2 ^ 13 + p % 32 * 2 ^ 8 + flags % 64)

def spikeWord (toff neuron mult : Nat) : Quad :=
  quad (toff % 2 ^ 24 * 2 ^ 40 + neuron % 2 ^ 22 * 2 ^ 18 + (mult - 1) % 4 * 2 ^ 16 + 0x40)

def cairnWord (reason md seq regVer : Nat) : Quad :=
  quad (reason % 32 * 2 ^ 59 + md % 8 * 2 ^ 56 + seq % 2 ^ 16 * 2 ^ 40 + regVer % 2 ^ 32 * 2 ^ 8 + 0x80)

def markWord (toff src : Nat) (final : Bool) : Quad :=
  quad (toff % 2 ^ 24 * 2 ^ 40 + src % 1024 * 2 ^ 30 + 0xC0 + b2n final * 0x20)

/-- KIND, TOFF and the other fields of a word. -/
def qf (w : Quad) (hi lo : Nat) : Nat := nbits w.toNat hi lo
def kindOf (w : Quad) : Nat := qf w 7 6

/-- The FT stamp a consumer forms (R225). -/
def stampOf (w : FabWord) : Nat := if kindOf w.w = kindCairn then w.ext else w.base + 16 * qf w.w 63 40

/-! ## Input FIFOs -/

/-- The input FIFO of neuron core n. -/
def ncIn (s : State) (n : Nat) : List FabWord := tget fabQD s.ncFifo n
def setNcIn (s : State) (n : Nat) (q : List FabWord) : State := { s with ncFifo := tset fabQD s.ncFifo n q }

/-- The 64-bit words of a message to a destination: two of a cairn, and of a SPIKE message to a core (R221, R239). -/
def wordCount (w : FabWord) (d : Dest) : Nat :=
  if kindOf w.w = kindCairn then 2
  else match d with
    | .core _ => if kindOf w.w = kindSpike then 2 else 1
    | .slot _ _ => 1

/-- The 64-bit words that wait in the input FIFO of a destination. -/
def fifoWords (s : State) (d : Dest) : Nat :=
  (match d with | .core n => ncIn s n | .slot t k => (slotOf s t k).inq).foldl (fun n w => n + wordCount w d) 0

/-- The words that an input FIFO of CD_CORE, or a tile's spike FIFO, holds (the crossings of spec/01_architecture.md R26). -/
def fifoDepth : Nat := 64

/-- Whether a word may enter the input FIFO of a destination; one that takes no words always takes them, to discard. -/
def hasRoom (s : State) (w : FabWord) (d : Dest) : Bool :=
  !takes s d || decide (fifoWords s d + wordCount w d ≤ fifoDepth)

/-- A word delivered to a destination, or discarded and counted where the destination cannot take it (R245). -/
def deliver (s : State) (w : FabWord) (d : Dest) : State :=
  if takes s d then
    match d with
    | .core n => setNcIn s n (ncIn s n ++ [w])
    | .slot t k => setSlot s t k { slotOf s t k with inq := (slotOf s t k).inq ++ [w] }
  else bumpN s FAB_RESET_DROP_CNT (wordCount w d)

def deliverAll (s : State) (w : FabWord) (ds : List Dest) : State := ds.foldl (fun t d => deliver t w d) s

/-! ## Hops and credits (R228 to R230) -/

def hopD (_ : Nat) : List FabMsg := []

/-- The messages that wait at a place of the fabric (State.hops). -/
def hop (s : State) (k : Nat) : List FabMsg := tget hopD s.hops k
def setHop (s : State) (k : Nat) (l : List FabMsg) : State := { s with hops := tset hopD s.hops k l }

/-- The virtual channel of a source's words (R229): the binder's and the stash's control traffic on VC 2 is none of them (log
entry 8). -/
def vcOf (src : Nat) : Nat := if src < 32 then 0 else 1

/-- The router at which the words of a source enter: of a port, the injection point it is assigned to, C0, C3, C12 or C15 (which
one is not given: log entry 8); of a neuron core, its cluster. -/
def entryOf (src : Nat) : Nat := if src < 32 then at0 [0, 3, 12, 15] (Config.portCorner src % 4) else (src - 32) / 32

/-- The place of the words that a source has formed and not sent. -/
def srcPlace (src : Nat) : Nat := 16384 + src

/-- The virtual channel of a place. -/
def placeVc (k : Nat) : Nat := if 16384 ≤ k then vcOf (k - 16384) else k / 512

def destTile : Dest → Nat
  | .core n => n / 4
  | .slot t _ => t

/-- The receiving buffer that a message for d takes from router r: X first, then Y, then the tile's port (R228). -/
def nextHop (r : Nat) (d : Dest) : Nat :=
  let c := destTile d / 8
  if r % 4 < c % 4 then 16 * (r + 1) + 2
  else if c % 4 < r % 4 then 16 * (r - 1) + 3
  else if r / 4 < c / 4 then 16 * (r + 4) + 4
  else if c / 4 < r / 4 then 16 * (r - 4) + 5
  else 16 * r + 6 + destTile d % 8

/-- The words of a message on a link. -/
def msgWords (m : FabMsg) : Nat := m.ds.foldl (fun n d => max n (wordCount m.w d)) 0

/-- Whether a receiving buffer has the credit for a message: 32 words per virtual channel (R230). -/
def credit (s : State) (k : Nat) (m : FabMsg) : Bool :=
  decide ((hop s k).foldl (fun n x => n + msgWords x) 0 + msgWords m ≤ 32)

/-- A message into a receiving buffer. -/
def pushHop (s : State) (k : Nat) (m : FabMsg) : State := setHop s k (hop s k ++ [m])

/-- One step of the part of a message that goes to one next buffer, or the destinations of it that stay. -/
def splitStep (v : Nat) (m : FabMsg) (a : State × List Dest) (e : Nat × List Dest) : State × List Dest :=
  let k := 512 * v + e.1
  if credit a.1 k { m with ds := e.2 } then (pushHop a.1 k { m with ds := e.2 }, a.2) else (a.1, a.2 ++ e.2)

/-- The destinations of a message by the next buffer, each once: a word is copied at the last router that they share. -/
def branches (r : Nat) (ds : List Dest) : List (Nat × List Dest) :=
  (uniq (ds.map (nextHop r))).map (fun k => (k, ds.filter (fun d => nextHop r d == k)))

/-- The message at the head of a place goes on as far as the credits of the next buffers, or the input FIFOs, let it. -/
def moveHead (s : State) (k : Nat) : State :=
  match hop s k with
  | [] => s
  | m :: t =>
    let (s1, stay) :=
      if 16384 ≤ k then splitStep (placeVc k) m (s, []) (16 * entryOf (k - 16384) + 1, m.ds)
      else if k % 16 < 6 then (branches (k % 512 / 16) m.ds).foldl (splitStep (placeVc k) m) (s, [])
      else m.ds.foldl (fun (a : State × List Dest) d =>
        if hasRoom a.1 m.w d then (deliver a.1 m.w d, a.2) else (a.1, a.2 ++ [d])) (s, [])
    setHop s1 k (if stay.isEmpty then t else { m with ds := stay } :: t)

/-- Every message goes on until each waits for a credit: the fabric's latencies (R232) are left out. -/
def settleFor : Nat → State → State
  | 0, s => s
  | n + 1, s =>
    let s1 := (s.hops.map (·.1)).foldl moveHead s
    if s1.hops = s.hops then s else settleFor n s1

def settle (s : State) : State := settleFor (s.hops.foldl (fun n e => e.2.foldl (fun n m => n + 10 * m.ds.length) n) 0) s

/-- A word of a source put into the fabric for a list of destinations: where nothing waits in the fabric and every FIFO has room,
it stands in them at once. -/
def inject (s : State) (w : FabWord) (ds : List Dest) : State :=
  if ds.isEmpty then s
  else if s.hops.isEmpty && ds.all (hasRoom s w) then deliverAll s w ds
  else settle (setHop s (srcPlace w.src) (hop s (srcPlace w.src) ++ [{ w := w, ds := ds }]))

/-- Whether a source waits for a credit: it forms no further word (R230). -/
def srcBlocked (s : State) (src : Nat) : Bool := !(hop s (srcPlace src)).isEmpty

/-- A destination taken out of the messages of a place, and the words that this discards. -/
def withoutDest (d : Dest) (l : List FabMsg) : List FabMsg :=
  (l.map (fun m => { m with ds := m.ds.filter (fun x => x != d) })).filter (fun m => !m.ds.isEmpty)

/-- The words in flight to a unit that takes none any more are discarded and counted, and their credits returned (R245). -/
def purge (s : State) (d : Dest) : State :=
  let n := s.hops.foldl (fun n e => e.2.foldl (fun n m => if m.ds.contains d then n + wordCount m.w d else n) n) 0
  if n = 0 then s
  else settle (bumpN { s with hops := (s.hops.map (fun e => (e.1, withoutDest d e.2))).filter (fun e => !e.2.isEmpty) }
    FAB_RESET_DROP_CNT n)

/-! ## The spike FIFOs of the tiles (R239; the crossings of spec/01_architecture.md) -/

/-- The spikes and WATERMARKs of cluster c that its fan-out unit has to serve: those in the tiles' spike FIFOs, oldest first. -/
def fanQ (s : State) (c : Nat) : List FabWord := tget fabQD s.spikeQ c
def setFanQ (s : State) (c : Nat) (q : List FabWord) : State := { s with spikeQ := tset fabQD s.spikeQ c q }

/-- The words of tile t among them. -/
def tileSpikes (s : State) (t : Nat) : List FabWord := (fanQ s (t / 8)).filter (fun w => (w.src - 32) / 4 == t)

/-- Whether a core has output that its tile's spike FIFO does not take: it stalls. -/
def outStalled (s : State) (n : Nat) : Bool := ((tileSpikes s (n / 4)).drop fifoDepth).any (fun w => w.src == 32 + n)

/-! ## Levels as time passes (R618, R622) -/

/-- Whether Ridge link p is UP or DEGRADED. -/
def linkUp (s : State) (p : Nat) : Bool := fld s (LNK_STATUS p) 19 16 == 5 || fld s (LNK_STATUS p) 19 16 == 6

/-- Whether a level source is high at an ARG. -/
def levelHigh (s : State) (src arg : Nat) : Bool :=
  if src = lvStretch then decide (1 < (ncOf s arg).n)
  else if src = lvFifo then
    (if arg / 4096 = 0 then !(port s (arg % 32)).spill.isEmpty
     else if arg / 4096 = 1 then decide (fifoDepth ≤ fifoWords s (.core (arg % 512)))
     else if arg / 4096 = 2 then decide (fifoDepth ≤ (tileSpikes s (arg % 128)).length)
     else arg / 4096 == 3 && linkUp s (arg / 4 % 4) && Config.linkHeld (arg / 4 % 4) (arg % 4) s.ft)
  else if src = lvDisputed then tget boolD s.disputed arg
  else if src = lvAncWait then decide (waiters s arg ≠ 0)
  else if src = lvRec then decide (fld s REC_STATE 2 0 ≠ 0)
  else false

/-- A performance counter of a level source counts the ns during which the level is high. -/
def pmcTime (dt : Nat) (s : State) (k : Nat) : State :=
  let src := fld s (DBG_PMC_SEL k) 23 16
  if flag s (DBG_PMC_SEL k) 31 && isLevel src && levelHigh s src (fld s (DBG_PMC_SEL k) 15 0) then
    bumpWide s (DBG_PMC_LO k) dt else s

/-- A pin that shows the events of a level source sees its rising edge. -/
def pinTime (s : State) (n : Nat) : State :=
  let src := fld s (TMUX_SEL n) 23 16
  if flag s (TMUX_SEL n) 31 && isLevel src && (fld s (TMUX_SEL n) 30 29 == 1 || fld s (TMUX_SEL n) 30 29 == 2) then
    let h := levelHigh s src (fld s (TMUX_SEL n) 15 0)
    let s1 := if h && !(tpin s n).was then pinEvent s n else s
    setTpin s1 n { tpin s1 n with was := h }
  else s

/-- CD_CORE of a mode in MHz. -/
def modeMHz (m : Nat) : Nat :=
  if m = modeSummit then 3200 else if m = modeValley then 2000 else if m = modeBivouac then 0 else 2800

/-- FAB_VC_STALL of a virtual channel counts the fcy in which it holds a word without credit (R246). What VC 2 carries is not
described: the model bounds its count by the time that passes and leaves it free; without a job and a binder command it carries nothing
(log entry 8). -/
def vcTime (till : Nat) (s : State) (v : Nat) : State :=
  let fcy := till * 8 / 5 - s.ft * 8 / 5
  let n := if v = 2 then (if s.jobs.isEmpty && s.binder.isEmpty then 0 else min fcy (Config.vc2Stall s.ft till)) else if s.hops.any (fun e => placeVc e.1 == v) then fcy else 0
  if n = 0 then s else bumpN s (FAB_VC_STALL v) n

/-- NC_OUT_STALL_CCY of the cores of a cluster that wait for their spike FIFO. -/
def spikeTime (till : Nat) (s : State) (e : Nat × List FabWord) : State :=
  let mhz := modeMHz (mode s)
  let n := till * mhz / 1000 - s.ft * mhz / 1000
  if n = 0 ∨ s.pwr.pause.isSome then s
  else (uniq (e.2.map (·.src))).foldl (fun t x => if outStalled s (x - 32) then bumpN t (NC_OUT_STALL_CCY (x - 32)) n else t) s

/-- What the lanes of a link that is up show as time passes: the ns in which a VC holds a flit without credit, at most those that pass, and
the codewords that FEC corrects, at most those that go by, one in 12.143 ns (R459, R489; both left free, log entry 8). -/
def linkTime (till : Nat) (s : State) (p : Nat) : State :=
  if linkUp s p then
    let n (v : Nat) : Nat := min (till - s.ft) (Config.linkStall p v s.ft till)
    let s1 := bumpN s (LNK_FEC_CORR_CNT p) (min ((till - s.ft) * 1000 / 12143) (Config.linkCorr p s.ft till))
    bumpN (bumpN (bumpN s1 (LNK_VC_STALL0 p) (n 0)) (LNK_VC_STALL1 p) (n 1)) (LNK_VC_STALL2 p) (n 2)
  else s

/-- Time passes up to a moment with the levels as they are. -/
def probeTime (s : State) (till : Nat) : State :=
  let s1 := (List.range 4).foldl pinTime ((List.range 8).foldl (pmcTime (till - s.ft)) s)
  s1.spikeQ.foldl (spikeTime till) ((List.range 4).foldl (linkTime till) ((List.range 3).foldl (vcTime till) s1))

/-! ## FT (R128, R129) -/

/-- The phase correction left after an elapsed time, slewed at SLEW_PPM (R133), with the part of a ns slewed beyond it. -/
def slewLeft (d : DiscSt) (elapsed ppm : Nat) : DiscSt :=
  let n := (d.slewPart + elapsed * ppm) / 1000000
  if absI d.slew ≤ n then { d with slew := 0, slewPart := 0 }
  else { d with slew := if d.slew < 0 then d.slew + (n : Int) else d.slew - (n : Int)
                slewPart := (d.slewPart + elapsed * ppm) % 1000000 }

/-- SLEWING, FAR and TIME_SLEW_REM follow the phase correction that remains (R136). -/
def slewRegs (s : State) : State :=
  let rem := s.disc.slew
  wrS (setFlag (setFlag s TIME_STATUS 6 (decide (rem ≠ 0))) TIME_STATUS 7 (decide (1000000000 < absI rem))) TIME_SLEW_REM rem

/-- The slew over an elapsed time, with what shows it. -/
def slewFor (s : State) (elapsed : Nat) : State :=
  if s.disc.slew = 0 then s else slewRegs { s with disc := slewLeft s.disc elapsed (fld s TIME_CTRL 17 9) }

/-- FT moves forward to a moment, and never back (R129); the phase correction is slewed in meanwhile (log entry 5). In reset for
want of power FT stands. -/
def advance (s0 : State) (now : Nat) : State :=
  if now ≤ s0.ft ∨ s0.pwr.down then s0
  else
    let s := probeTime s0 now
    slewFor { s with ft := now } (now - s.ft)

/-- One CD_TIME cycle: FT advances by 1 ns plus the rate correction and the slew correction, kept in 2^-40 ns and held to
±500 ppm (R128). -/
def tick (s0 : State) : State :=
  let s := probeTime s0 (s0.ft + 1)
  if s0.pwr.down then s0 else
  let lim : Int := 549755813
  let slewRate : Int := sgn s.disc.slew * ((fld s TIME_CTRL 17 9 * 1099511 : Nat) : Int)
  let corr := clampI (-lim) lim (s.disc.rate + slewRate)
  let acc := s.ftFrac + 1099511627776 + corr
  slewFor { s with ft := s.ft + (acc / 1099511627776).toNat, ftFrac := acc % 1099511627776 } 1

/-! ## The stream of a source (R225 to R227, R631) -/

/-- The words of a port of a bar that is forwarded go to the computing device too, in frames of at most 254 (R484). A cairn names no port:
the cairns of a port go out with its next word (DEDUCED, log entry 166). -/
def fwdWords (s : State) (src : Nat) (ws : List Nat) (word : Bool) : State :=
  if src < 32 then
    match barOf s src with
    | some b =>
      let x := srcOf s src
      let l := x.fwd ++ ws
      if !flag s (LNK_FWD b) 31 then s
      else if word then
        ((List.range ((l.length + 253) / 254)).map (fun i => (l.drop (254 * i)).take 254)).foldl
          (fun t c => fwdFrame t b 1 c.length (c.flatMap (leBytes 8))) (setSrc s src { x with fwd := [] })
      else setSrc s src { x with fwd := l }
    | none => s
  else s

/-- A device-wide cairn as a fabric word of a source. -/
def cairnMsg (src : Nat) (c : CairnRec) : FabWord :=
  { w := cairnWord c.reason c.mode c.seq c.regVer, base := c.ft, src := src, ext := c.ft }

/-- The last cairn of a source's stream: the last device-wide one, or the source-local one after it. -/
def lastMsg (s : State) (src : Nat) : FabWord :=
  let x := srcOf s src
  cairnMsg src (if x.base = x.cairn.ft then x.cairn else { x.cairn with reason := 2, ft := x.base })

/-- Words have gone to destinations with a stamp or WATERMARK value: those paths are no longer new. -/
def markPaths (ds : List Dest) (v : Nat) (l : List (Dest × Nat)) : List (Dest × Nat) :=
  ds.foldl (fun l d =>
    (d, match l.find? (fun e => e.1 == d) with | some e => max e.2 v | none => v) :: l.filter (fun e => e.1 != d)) l

/-- A cairn of a source sent on every path of it. -/
def castCairn (s : State) (src : Nat) (x : SrcSt) (w : FabWord) : State :=
  let ds := pathsOf s src
  let s1 := setSrc s src { x with paths := markPaths ds 0 x.paths }
  inject (fwdWords s1 src [w.w.toNat, w.ext] false) w ds

/-- One device-wide cairn sent on every path of a source. -/
def sendCairn (src : Nat) (s : State) (c : CairnRec) : State :=
  let x := srcOf s src
  castCairn s src { x with sent := max x.sent c.ft, cairn := c, base := c.ft } (cairnMsg src c)

/-- Every device-wide cairn that lies after those in a stream and not after a stamp, oldest first. -/
def cairnsDue (s : State) (src stamp : Nat) : List CairnRec :=
  (s.cairns.filter (fun c => decide ((srcOf s src).sent < c.ft) && decide (c.ft ≤ stamp))).reverse

/-- A source that sends its first word since it was enabled or bound: the last cairn before the word is the last of its
stream. -/
def startStream (s : State) (src stamp : Nat) : State :=
  let x := srcOf s src
  if !x.fresh then s
  else match s.cairns.find? (fun c => decide (c.ft ≤ stamp)) with
    | none => setSrc s src { x with fresh := false }
    | some c =>
      fwdWords (setSrc s src { x with fresh := false, sent := c.ft, cairn := c, base := c.ft }) src
        [(cairnMsg src c).w.toNat, c.ft] false

/-- Before a source sends a word stamped at `stamp` (ns): the device-wide cairns that precede it (R227), and a
source-local cairn where TOFF would not fit (R631). -/
def openStream (s : State) (src stamp : Nat) : State :=
  let s0 := startStream s src stamp
  let s1 := (cairnsDue s0 src stamp).foldl (sendCairn src) s0
  let x := srcOf s1 src
  if (stamp - x.base) / 16 < 16777216 then s1
  else
    let lf := stamp / 16 * 16
    castCairn s1 src { x with base := lf } (cairnMsg src { x.cairn with reason := 2, ft := lf })

/-- A copy of the last cairn of a source's stream on a path that is new (R225). -/
def openPath (src : Nat) (s : State) (d : Dest) : State :=
  let x := srcOf s src
  if x.paths.any (fun e => e.1 == d) || (x.base == 0 && x.cairn.seq == 0) then s
  else inject (setSrc s src { x with paths := markPaths [d] 0 x.paths }) (lastMsg s src) [d]

/-- A word of a source stamped at `stamp`, sent to a list of destinations; the word is built from its TOFF. -/
def sendWord (s : State) (src stamp : Nat) (mk : Nat → Quad) (ext : Nat) (ds : List Dest) : State :=
  let s1 := ds.foldl (openPath src) (openStream s src stamp)
  let x := srcOf s1 src
  let o := (stamp - x.base) / 16
  let s2 := fwdWords (setSrc s1 src { x with paths := markPaths ds stamp x.paths }) src [(mk o).toNat] true
  inject s2 { w := mk o, base := x.base, src := src, ext := ext } ds

/-- A WATERMARK of a source on every path of it (R226). -/
def sendMark (s : State) (src stamp : Nat) (final : Bool) : State :=
  let s1 := openStream s src stamp
  let s2 := setSrc s1 src { srcOf s1 src with mark := max (srcOf s1 src).mark stamp }
  sendWord s2 src stamp (fun t => markWord t src final) 0 (pathsOf s2 src)

/-- The latest value that a source has sent on a path. -/
def pathLast (s : State) (src : Nat) (d : Dest) : Nat :=
  (((srcOf s src).paths.find? (fun e => e.1 == d)).map (·.2)).getD 0

/-- A FINAL WATERMARK on one path: it carries the latest value that the source has sent on it (R226). -/
def sendFinalTo (src : Nat) (s : State) (d : Dest) : State :=
  let x := srcOf s src
  sendWord s src (max (pathLast s src d) x.base) (fun t => markWord t src true) 0 [d]

/-- FINAL on every path of a source; what it sends next starts a stream anew. -/
def sendFinal (s : State) (src : Nat) : State := (pathsOf s src).foldl (sendFinalTo src) (startStream s src s.ft)

/-- A source that is enabled or bound: its stream starts anew, and every path of it is new (R225). -/
def newSource (s : State) (src : Nat) : State := setSrc s src {}

/-- A destination that is enabled or bound: every path to it is new (R225). -/
def newDest (s : State) (d : Dest) : State :=
  { s with srcs := s.srcs.map (fun e => (e.1, { e.2 with paths := e.2.paths.filter (fun p => p.1 != d) })) }

/-! ## Device-wide cairns (R155, R223, R224) -/

def rsnPeriodic : Nat := 16
def rsnReg : Nat := 8
def rsnMode : Nat := 4
def rsnLean : Nat := 1

/-- FT rounded up to a multiple of 16 ns. -/
def up16 (n : Nat) : Nat := (n + 15) / 16 * 16

/-- The FT of the last device-wide cairn. -/
def lastCairnFt (s : State) : Nat := wideOf s FAB_CAIRN_FT_LO

/-- The FT that a cairn inserted now carries: a multiple of 16 ns, and not before the last one. -/
def cairnFt (s : State) : Nat := max (up16 s.ft) (lastCairnFt s)

/-- A slot that waits for its first cairn starts its first window there (R242, R249). -/
def startSlot (ft : Nat) (x : SlotSt) : SlotSt := if x.arm then { x with arm := false, b := some ft } else x

/-- A neuron core that waits for its first cairn begins its first step there (R257). -/
def startCore (ft : Nat) (belay : Bool) (x : NcSt) : NcSt :=
  if x.arm then { x with arm := false, b := some ft, stepStart := ft, n := 1, opened := 1, belay := belay } else x

/-- A job whose step 8 waits for its cairn starts there, and an UNBIND that waits for its cairn takes effect there (R413,
R421). -/
def cairnJob (ft : Nat) (j : JobSt) : JobSt :=
  if j.phase = .binding ∧ j.startFt.isNone then { j with startFt := some ft }
  else if j.phase = .draining ∧ j.endFt.isNone then { j with endFt := some ft } else j

/-- NC_STATUS shows n of the open step of a core. -/
def showN (s : State) (n : Nat) : State := setFld s (NC_STATUS n) 18 16 (ncOf s n).n

/-- The cairn that was inserted last. -/
def lastCairn (s : State) : Option CairnRec := s.cairns.find? (fun c => c.seq == fld s FAB_CAIRN_SEQ 15 0)

/-- Whether no stream holds a cairn yet, so that it can still take a further reason. -/
def unsent (s : State) (c : CairnRec) : Bool := s.srcs.all (fun e => e.2.fresh || decide (e.2.sent < c.ft))

/-- The cairn that an action falling due now shares (R40, R223): the last one, where it was inserted at this same moment and
stands in no stream yet. -/
def sharedNow (s : State) : Option CairnRec := (lastCairn s).filter (fun c => c.at_ == s.ft && unsent s c)

/-- A cairn in its place by FT, the latest first. -/
def putCairn (c : CairnRec) : List CairnRec → List CairnRec
  | [] => [c]
  | x :: t => if x.ft ≤ c.ft then c :: x :: t else x :: putCairn c t

/-- The registers of the fabric page show the last cairn. -/
def showCairn (s : State) (c : CairnRec) : State :=
  setFld (setFld { s with wide := tset natD s.wide FAB_CAIRN_FT_LO (c.ft % 18446744073709551616) } FAB_CAIRN_SEQ 15 0 c.seq)
    FAB_CAIRN_SEQ 20 16 c.reason

/-- A source whose stream lies past a cairn already takes it at once (R227). -/
def castLate (c : CairnRec) (s : State) (src : Nat) : State :=
  if (srcOf s src).fresh || decide ((srcOf s src).sent < c.ft) then s else sendCairn src s c

/-- A new device-wide cairn (R223, R224): SEQ advances, and the slots, the cores and the jobs that wait for their first cairn
start at it. -/
def newCairn (s : State) (ft reasons : Nat) : State :=
  let c : CairnRec := { ft := ft, seq := (fld s FAB_CAIRN_SEQ 15 0 + 1) % 65536, reason := reasons, mode := mode s
                        regVer := rdN s FUS_REG_VER, at_ := s.ft }
  let s1 : State := { s with cairns := putCairn c s.cairns
                             jobs := s.jobs.map (cairnJob ft)
                             slots := s.slots.map (fun e => (e.1, startSlot ft e.2))
                             nc := s.nc.map (fun e => (e.1, startCore ft (inBelay s) e.2)) }
  let s2 := s1.nc.foldl (fun t e => showN t e.1) s1
  (s2.srcs.map (·.1)).foldl (castLate c) (srcEvent (showCairn s2 c) evCairn 0)

/-- What started at a cairn moves with it. -/
def moved (old new : Nat) (x : Option Nat) : Option Nat := if x = some old then some new else x

/-- A further action shares a cairn: its reason bit is set, the cairn shows MODE and REG_VER as the actions leave them, and it
stands at an FT (R40, R210). -/
def joinCairn (s : State) (c : CairnRec) (ft reasons : Nat) : State :=
  let d := { c with ft := ft, reason := c.reason ||| reasons, mode := mode s, regVer := rdN s FUS_REG_VER }
  let s1 : State := { s with cairns := putCairn d (s.cairns.filter (fun x => x != c)) }
  let s2 : State := if c.seq = fld s FAB_CAIRN_SEQ 15 0 then showCairn s1 d else s1
  if ft = c.ft then s2
  else { s2 with jobs := s2.jobs.map (fun j => { j with startFt := moved c.ft ft j.startFt, endFt := moved c.ft ft j.endFt })
                 slots := s2.slots.map (fun e => (e.1, { e.2 with b := moved c.ft ft e.2.b }))
                 nc := s2.nc.map (fun e => (e.1, if e.2.b = some c.ft ∧ e.2.stepStart = c.ft
                   then { e.2 with b := some ft, stepStart := ft } else e.2)) }

/-- A device-wide cairn for actions that fall due now: one that another action of this moment has, or a new one. -/
def insertCairn (s : State) (reasons : Nat) : State :=
  match sharedNow s with
  | some c => joinCairn s c c.ft reasons
  | none => newCairn s (cairnFt s) reasons

/-- Whether a registration cairn stands at an FT already: a further swap is one of its swaps (R211). -/
def regCairnAt (s : State) (ft : Nat) : Bool := s.cairns.any (fun c => c.ft == ft && nbit c.reason 3)

/-- Cairns after an FT that stand in no stream yet carry the FUS_REG_VER that holds from that FT on. -/
def reversion (s : State) (ft : Nat) : State :=
  { s with cairns := s.cairns.map (fun c => if ft < c.ft ∧ unsent s c = true then { c with regVer := rdN s FUS_REG_VER } else c) }

/-- The cairn of registration swaps at the FT that R210 gives it, which FUS_REG_VER has already reached: one that stands there, one
that another action of this moment has, or a new one. -/
def insertReg (s0 : State) (ft : Nat) : State :=
  let s := reversion s0 ft
  if regCairnAt s ft then s
  else match (s.cairns.find? (fun c => c.ft == ft)).filter (unsent s) with
    | some c => joinCairn s c ft rsnReg
    | none => match sharedNow s with
      | some c => joinCairn s c ft rsnReg
      | none => newCairn s ft rsnReg

end Sys2Proof.Machine
end

