-- ==== Sys2Proof/Machine/Format.lean ====
section
/-!
DEFINITION. The number formats of spec/09_tensor_tiles.md R289 to R293, the values of their codes, and the sums of a wave (R297 to
R299).
-/
namespace Sys2Proof.Machine
open Sys2Proof

/-! ## Formats (R289, R290) -/

def fInt2 : Nat := 0x01
def fInt8 : Nat := 0x04
def fUint8 : Nat := 0x05
def fInt32 : Nat := 0x07
def fFp32 : Nat := 0x0F
def fBs8 : Nat := 0x10
def fBs4 : Nat := 0x11
def fSpk : Nat := 0x12

/-- Whether a code names a format. -/
def fmtOk (f : Nat) : Bool := decide (1 ≤ f) && decide (f ≤ 0x12)

/-- Whether a code names a format of anything but tensor weights, for which alone INT2 is (R289). -/
def dataFmt (f : Nat) : Bool := fmtOk f && f != fInt2

/-- The bits of an element. -/
def fmtBits (f : Nat) : Nat := at0 [0, 2, 4, 4, 8, 8, 16, 32, 4, 6, 6, 8, 8, 16, 16, 32, 8, 4, 8] f

/-- The floating-point layout of a format, the elements of BS4 among them. -/
def fmtFloat (f : Nat) : Option FFmt :=
  match f with
  | 0x08 | 0x11 => some fmtFp4
  | 0x09 => some fmtFp6a
  | 0x0A => some fmtFp6b
  | 0x0B => some fmtFp8a
  | 0x0C => some fmtFp8b
  | 0x0D => some fmtFp16
  | 0x0E => some fmtBf16
  | 0x0F => some fmtFp32
  | _ => none

/-- Whether an integer format is unsigned. -/
def fmtUnsigned (f : Nat) : Bool := f == 0x03 || f == 0x05

/-- Whether a format is an integer one, and whether it is a block format. -/
def isInt (f : Nat) : Bool := decide (1 ≤ f) && decide (f ≤ 7)
def isBlock (f : Nat) : Bool := f == fBs8 || f == fBs4

/-- The range of an integer format. -/
def fmtLo (f : Nat) : Int := if fmtUnsigned f then 0 else -((2 ^ (fmtBits f - 1) : Nat) : Int)
def fmtHi (f : Nat) : Int :=
  if fmtUnsigned f then ((2 ^ fmtBits f : Nat) : Int) - 1 else ((2 ^ (fmtBits f - 1) : Nat) : Int) - 1

/-- The value of an element's code; of a block format, before its scale (R290, R292, R293). -/
def codeVal (f n : Nat) : FVal :=
  if f = fSpk then (if nbit n 2 then fOf ((n % 4 + 1 : Nat) : Int) 0 else fZero)
  else match fmtFloat f with
    | some x => fDecode x n
    | none => if fmtUnsigned f then fOf ((n % 2 ^ fmtBits f : Nat) : Int) 0 else fOf (sx (fmtBits f) n) 0

/-- The integer that a value without a fraction is. -/
def valInt : FVal → Int
  | .fin s m e => atExp s m e 0
  | _ => 0

/-- The value of an element from its code and the exponent of its block. -/
def elemVal (f : Nat) (e : Nat × Int) : FVal := if isBlock f then fScale (codeVal f e.1) e.2 else codeVal f e.1

/-! ## Waves (R297 to R299) -/

/-- The exact sum of the products of a wave: activations and weights, each with its block's exponent. -/
def waveOf (fa fw : Nat) (l : List ((Nat × Int) × (Nat × Int))) : FVal :=
  l.foldl (fun v p => fAdd v (fMul (elemVal fa p.1) (elemVal fw p.2))) fZero

/-- What an accumulation counts: wave additions that wrapped, wave sums that are NaN. -/
structure AccCnt where
  wraps : Nat := 0
  nans : Nat := 0

/-- One wave of a column: its exact sum added to the accumulator (an INT32 or FP32 pattern). -/
def waveAdd (int : Bool) (acc : Nat) (sum : FVal) (n : AccCnt) : Nat × AccCnt :=
  if int then
    let v := sx 32 acc + valInt sum
    (twos 32 v, if v = satS 32 v then n else { n with wraps := n.wraps + 1 })
  else if sum = .nan then (0x7FC00000, { n with nans := n.nans + 1 })
  else (r32 (fAdd (f32 acc) sum), n)

/-- Whether a pair accumulates in INT32. -/
def intPair (a : Nat) : Bool := isInt a || a == fSpk

/-- The accumulator after some waves, in their order. -/
def accWaves (fa fw start : Nat) (ws : List (List ((Nat × Int) × (Nat × Int)))) : Nat × AccCnt :=
  ws.foldl (fun a w => waveAdd (intPair fa) a.1 (waveOf fa fw w) a.2) (start, {})

end Sys2Proof.Machine
end

