-- ==== Sys2Proof/Machine/Regs.lean ====
section
/-!
DEFINITION. Register accesses: the checks of spec/02_register_pages.md R42 to R44 and R60 to R65 in the order of R63,
the field effects of spec/00_scope.md R13 to R16, latching reads, and the soft reset of R68.
-/
namespace Sys2Proof.Machine
open Sys2Proof

/-- The class codes (the table before R60). -/
def classCode : PortClass → Nat
  | .owner => 0 | .operator => 1 | .tenant => 2 | .service => 3 | .fabric => 4 | .debug => 5

/-- The bank of the per-class register sets that an accessor reaches (R77): its class, and for a virtual function its
own (R62, last paragraph). -/
def bankOf (w : Who) : Nat := if w.cls = .tenant then 8 + w.fn else classCode w.cls

/-- Whether a kind of page, at an offset, keeps one register set per class (R77, R163, R456, R556). -/
def banked (k : PageKind) (off : Nat) : Bool :=
  match k with
  | .glbIw | .timeConv | .hifCtx => decide (0x40 ≤ off)
  | .upd => decide (0x100 ≤ off) && decide (off ≤ 0x110)
  | _ => false

/-- The key under which an accessor's register at an address is held. -/
def keyOf (w : Who) (a : Nat) : Nat :=
  match pageKind (a / 4096) with
  | some (k, _) => if banked k (a % 4096) then bankKey (bankOf w) a else a
  | none => a

/-- Whether an address lies in the MSI-X table or pending bit array of a function, which have no header. -/
def inMsix (a : Nat) : Bool := decide (0x1C000 ≤ a) && decide (a < 0x1F000)

/-- The page whose header governs an address: its own, the anchor control page for the anchor array (R46), or the main page of the host
interface for the MSI-X pages, which have no header (log entry 139). -/
def headerPage (a : Nat) : Nat :=
  if 0x520000 ≤ a ∧ a < 0x560000 then 0x4000 else if inMsix a then 0x10000 else pageOf a

/-- PAGE_ERR_INFO of an access (R57); of one in the anchor array or the MSI-X pages OFFSET is the address modulo 4 KiB (log entry 140). -/
def accInfo (w : Who) (isWr : Bool) (a : Nat) : Word :=
  word (b2n isWr * 0x80000000 + classCode w.cls * 0x10000000 + w.fn * 0x100000 + a % 4096)

/-! ## The debug grant (spec/18_security.md R569, R570, spec/21_debug_test.md R615, R616) -/

/-- Whether a DEBUG grant is in force. -/
def granted (s : State) : Bool := flag s SEC_STATUS 2 && decide (s.ft < s.sec.until_)

/-- The scope in force. -/
def scope (s : State) : Nat := if granted s then fld s SEC_DBG_STAT 3 0 else 0

/-- Whether an access of an accessor has the SCOPE bits that fit it; only class DEBUG needs one (R616). -/
def scopeOk (s : State) (w : Who) (isWr : Bool) (pg : Nat) : Bool :=
  w.cls != .debug || (if isWr then nbit (scope s) 1 && (pg != 0xA01000 || nbit (scope s) 2) else nbit (scope s) 0)

/-- The verdict of the checks on an access. `noGrant`: class DEBUG without a grant, which reaches nothing (R615). -/
inductive Chk
  | ok
  | noGrant
  | unmapped
  | fail (code : Nat)
  deriving DecidableEq, Repr

/-- Whether the class of an accessor has the right at a page, by the masks in force in PAGE_ACCESS (R60, R62) and the scope of
the debug grant. -/
def mayRead (s : State) (w : Who) (pg : Nat) : Bool := flag s (PAGE_ACCESS pg) (8 + classCode w.cls) && scopeOk s w false pg
def mayWrite (s : State) (w : Who) (pg : Nat) : Bool := flag s (PAGE_ACCESS pg) (classCode w.cls) && scopeOk s w true pg

/-- Whether an address lies in an assigned page, in the anchor array or in the MSI-X pages (R44, R45). -/
def assigned (a : Nat) : Bool :=
  (decide (0x520000 ≤ a) && decide (a < 0x560000)) || inMsix a || (pageKind (a / 4096)).isSome

/-- Whether the register at an address holds an RWL field. -/
def hasRwl (a : Nat) : Bool :=
  match regRow a with
  | some r => r.flds.any (fun x => x.acc = .rwl)
  | none => false

/-- The checks of R63, in order. `size` is the width in bytes of one 32-bit access, or the width that is refused. -/
def checkAcc (s : State) (w : Who) (isWr : Bool) (size a : Nat) : Chk :=
  let pg := headerPage a
  let off := a % 4096
  if w.cls = .debug ∧ granted s = false then .noGrant
  else if !assigned a then .unmapped
  else if ¬(size = 4 ∧ a % 4 = 0) then .fail errWidth
  else if !isWr && pg == pageOf a && (off = 0x00 || off = 0x04 || off = 0x28 || off = 0x2C) then .ok
  else if !(if isWr then mayWrite s w pg else mayRead s w pg) then .fail errDenied
  else if pg == pageOf a && decide (off < 0x40) then .ok
  else if isWr && flag s (genKey w.fn pg) 16 && decide (fld s (genKey w.fn pg) 15 8 ≠ pageGen s pg) then .fail errStaleGen
  else if unitState s pg < 3 then .fail errInReset
  else if isWr && hasRwl a && flag s (PAGE_CTRL pg) 2 then .fail errLocked
  else .ok

/-- The effect of a failed check (R42, R44, R61): the record in the page that was targeted, and the counters. -/
def failAcc (s : State) (w : Who) (isWr : Bool) (a : Nat) : Chk → State
  | .ok => s
  | .noGrant => bump s DBG_JTAG_REFUSE_CNT
  | .unmapped => bump s GLB_UNMAPPED_CNT
  | .fail c =>
    let s1 := recErr s (headerPage a) c (accInfo w isWr a)
    if c = errDenied then bump s1 (GLB_DENIED_CNT (classCode w.cls)) else s1

/-- A write that passes the checks has its effect; one that fails them leaves its record. -/
def guardW (s : State) (w : Who) (size a : Nat) (eff : State → State) : State :=
  match checkAcc s w true size a with
  | .ok => eff s
  | c => failAcc s w true a c

/-- An error of the page of a write, recorded with the access (R57). -/
def wErr (s : State) (w : Who) (a code : Nat) : State := recErr s (headerPage a) code (accInfo w true a)

/-! ## Field effects (R13, R14) -/

/-- The fields of a row written with v into the word held: the new word, and whether a reserved value was met. -/
def applyFlds : List Fld → Word → Word → Bool → Word × Bool
  | [], _, cur, bad => (cur, bad)
  | x :: t, v, cur, bad =>
    let n := bits v x.hi x.lo
    match x.acc with
    | .rw | .rwl => if x.ok n then applyFlds t v (putBits cur x.hi x.lo n) bad else applyFlds t v cur true
    | .w1c => applyFlds t v (putBits cur x.hi x.lo (bits (cur &&& ~~~v) x.hi x.lo)) bad
    | .w1s => applyFlds t v (putBits cur x.hi x.lo (bits (cur ||| v) x.hi x.lo)) bad
    | _ => applyFlds t v cur bad

/-- A plain write: every field takes its effect; a reserved value is dropped for its field and recorded (R13). -/
def plainWrite (s : State) (w : Who) (a : Nat) (v : Word) : State :=
  match regRow a with
  | none => s
  | some r =>
    let k := keyOf w a
    let (n, bad) := applyFlds r.flds v (rd s k) false
    let s1 := wr s k n
    if bad then wErr s1 w a errReservedEnc else s1

/-- Whether every field of a write holds a value that its field accepts. -/
def allOk (a : Nat) (v : Word) : Bool :=
  match regRow a with
  | none => true
  | some r => r.flds.all (fun x => (x.acc ≠ .rw && x.acc ≠ .rwl) || x.ok (bits v x.hi x.lo))

/-- Whether a write would change a field other than bit i. -/
def changesOther (s : State) (a : Nat) (v : Word) (i : Nat) : Bool :=
  match regRow a with
  | none => false
  | some r =>
    let n := (applyFlds r.flds v (rd s a) false).1
    decide (putBits n i i 0 ≠ putBits (rd s a) i i 0)

/-- A write of a register that is static under a condition: dropped with the block's code while the condition holds. -/
def staticWrite (s : State) (w : Who) (a : Nat) (v : Word) (cond : Bool) (code : Nat) : State :=
  if cond then wErr s w a code else plainWrite s w a v

/-- What a write of a register whose bit i enables something asks for (R64). -/
inductive EnAct
  /-- the unit was disabled and is enabled now: the other fields are taken -/
  | enable
  /-- a pending disable is cancelled: the other fields stay -/
  | cancel
  /-- the unit is disabled: the other fields stay -/
  | disable
  /-- a write while disabled that leaves it disabled: the fields are taken -/
  | config
  /-- EN stays 1 and nothing else changes, or a further write of EN = 0 while a disable is pending: the other fields stay,
  whatever values it carries for them -/
  | same
  /-- EN stays 1 and another field would change: dropped as a write to a static field -/
  | static
  deriving DecidableEq, Repr

def enAct (s : State) (a : Nat) (v : Word) (i : Nat) : EnAct :=
  if disPend s a then (if v.toNat / 2 ^ i % 2 = 1 then .cancel else .same)
  else if flag s a i then
    (if v.toNat / 2 ^ i % 2 = 1 then (if changesOther s a v i then .static else .same) else .disable)
  else (if v.toNat / 2 ^ i % 2 = 1 then .enable else .config)

/-! ## Reads -/

/-- The registers whose read latches a partner: from the low half's address to the high half's. -/
def latchOf (a : Nat) : Option Nat :=
  if 0x520000 ≤ a ∧ a < 0x560000 then (if a % 16 = 0 then some (a + 4) else none)
  else match pageKind (a / 4096) with
    | some (.timeMain, _) => if a = TIME_FT_LO then some TIME_FT_HI else none
    | some (.timeMp, _) => if a = TIME_MP_ANGLE then some TIME_MP_REV else none
    | some (.fabMain, _) => if a = FAB_CAIRN_FT_LO then some FAB_CAIRN_FT_HI else none
    | some (.nc, _) => if a % 4096 = 0x74 then some (a + 4) else if a % 4096 = 0x7C then some (a + 4) else none
    | some (.tile, _) => if a % 4096 = 0x80 then some (a + 4) else none
    | some (.apxMain, _) => if a = APX_REPLAY_LO ∨ a = APX_BEAT_LO then some (a + 4) else none
    | some (.apxChk, _) => if a = APX_CHK_CMP_LO ∨ a = APX_CHK_LAST_FT_LO then some (a + 4) else none
    | some (.dbg, _) =>
      if 0x104 ≤ a % 4096 ∧ a % 4096 < 0x180 ∧ a % 16 = 4 then some (a + 4) else none
    | _ => none

/-- The effect of a read on RC fields: they clear, and the pulse tied to the counter is armed again (R14, R627). A field whose reset value
is not 0 clears to that value (log entry 141). -/
def clearRc (s : State) (k a : Nat) : State :=
  match regRow a with
  | none => s
  | some r =>
    if r.flds.any (fun x => x.acc = .rc) then
      let n := r.flds.foldl (fun v x => if x.acc = .rc then putBits v x.hi x.lo x.rst else v) (rd s k)
      rearm (wr s k n) a
    else s

/-! ## Soft reset (R68) -/

/-- What a register's word becomes at a soft reset: its RW, W1C, W1S and RC fields return to reset values, every other
field keeps its value. -/
def softWord (a : Nat) (v : Word) : Word :=
  match regRow a with
  | none => v
  | some r => r.flds.foldl (fun n x =>
      match x.acc with
      | .rw | .w1c | .w1s | .rc => putBits n x.hi x.lo x.rst
      | _ => n) v

/-- The address of a register from the key it is held under. -/
def keyAddr (k : Nat) : Nat := if k < 0x100000000 then k else k % 0x100000000

/-- Every block-specific register of a page put through a function, in every bank. -/
def mapRegs (s : State) (pg : Nat) (f : Nat → Word → Word) : State :=
  let keys := (s.regs.map (·.1)).filter (fun k =>
    decide (k < 0x10000000000) && decide (pageOf (keyAddr k) = pg) && decide (0x40 ≤ keyAddr k % 4096))
  keys.foldl (fun t k => wr t k (f (keyAddr k) (rd t k))) s

/-- Every block-specific register of a page at its soft-reset value, in every bank. -/
def softRegs (s : State) (pg : Nat) : State := mapRegs s pg softWord

/-- Every counter of a page cleared: the soft reset of pages whose chapter says that it clears the counters only. -/
def softCounters (s : State) (pg : Nat) : State :=
  let keys := (s.regs.map (·.1)).filter (fun k => decide (pageOf k = pg) && decide (0x40 ≤ k % 4096))
  keys.foldl (fun t k =>
    match regRow k with
    | none => t
    | some r => if r.flds.all (fun x => x.acc = .rc) then wr t k (word (rowReset r)) else t) s

/-- The counters whose pulse a soft reset arms again. -/
def rearmPage (s : State) (pg : Nat) : State :=
  { s with disarmed := s.disarmed.filter (fun e => decide (pageOf e.1 ≠ pg)) }

/-- The end of every soft reset: a pending disable ends, EN returns to its reset value, the pulses are armed, GEN
advances, the unit is READY again unless it is OFF, held in RESET or stopped by the ladder, and the GEN and STATE bits set where enabled. -/
def softEnd (s : State) (pg : Nat) : State :=
  let s1 := setDisPend s (PAGE_CTRL pg) false
  let s2 := setFlag s1 (PAGE_CTRL pg) 0 (bits (resetWord (PAGE_CTRL pg)) 0 0 == 1)
  let s3 := rearmPage s2 pg
  let s4 := setFld s3 (PAGE_GEN pg) 7 0 (pageGen s3 pg + 1)
  let s5 := irq s4 pg irqGen
  if unitState s5 pg < 2 ∨ unitState s5 pg = stHalted then s5 else irq (setFld s5 (PAGE_STAT pg) 3 0 stReady) pg irqState

end Sys2Proof.Machine
end

