-- ==== Sys2Proof/Machine/Approx.lean ====
section
/-!
DEFINITION. Lean settings, their policy and the shadow checker (spec/11_approximation.md), the VDD_CORE target and its
regulator (spec/19_package_power.md R582 to R585), and the limits of temperature and power (spec/20_electrical.md).
-/
namespace Sys2Proof.Machine
open Sys2Proof

def pgPwr : Nat := 0x1000
def pgApx : Nat := 0x500000
def pgChk : Nat := 0x501000
def pgPair : Nat := 0x502000

def updPwr (s : State) (g : PwrSt → PwrSt) : State := { s with pwr := g s.pwr }

/-- Whether a request or an automatic mode change waits for its cairn (spec/01_architecture.md R29, R33). -/
def modeWaits (s : State) : Bool := flag s GLB_MODE_STAT 3 || s.pwr.auto.isSome

/-- A wait for the step boundaries begins: no core is held at one yet (R29). -/
def startWatch (s : State) : State := updPwr s (fun p => { p with watch := [] })

/-- Whether core n is held at a step boundary. -/
def heldCore_ (s : State) (n : Nat) : Bool := modeWaits s && s.pwr.watch.contains n
def updLean (s : State) (g : LeanSt → LeanSt) : State := { s with lean := g s.lean }

/-! ## Settings and ranks (R358 to R360) -/

def topRank (m : Nat) : Nat :=
  if m = modeSummit ∨ m = modeValley then 4 else if m = modeRidge then 3 else 0

/-- The setting at a rank of a mode, and the rank of a setting. -/
def settingAt (m rank : Nat) : Nat := if m = modeValley ∧ rank = 4 then 5 else rank
def rankOf (setting : Nat) : Nat := if setting = 5 then 4 else setting

/-- The VDD_CORE offset of a setting below the mode's target, in mV. -/
def leanDrop (setting : Nat) : Nat := at0 [0, 25, 55, 80, 100, 100] setting

/-- The replay ceiling of a setting, as a fraction; none at LEAN0. -/
def ceilOf (setting : Nat) : Option (Nat × Nat) :=
  match setting with
  | 1 => some (1, 10000)
  | 2 => some (1, 1000)
  | 3 => some (5, 1000)
  | 4 => some (2, 100)
  | 5 => some (2, 100)
  | _ => none

/-- APX_REPLAY_CEIL of a setting, in units of 2^-32 to the nearest (log entry 22). -/
def ceilReg (setting : Nat) : Nat :=
  match ceilOf setting with
  | none => 0xFFFFFFFF
  | some (n, d) => (2 * n * 4294967296 + d) / (2 * d)

def leanH (s : State) : Nat := fld s APX_LEAN_STAT 20 18
def leanPend (s : State) : Bool := flag s APX_LEAN_STAT 14
def leanPendSet (s : State) : Nat := fld s APX_LEAN_STAT 17 15
def leanCur (s : State) : Nat := fld s APX_LEAN_STAT 2 0
def leanOvr (s : State) : Nat := fld s APX_LEAN_OVR 5 4
def leanMult (s : State) : Nat := fld s APX_HYST_STAT 4 0
def chkEn (s : State) : Bool := flag s APX_CHK_CFG 31

def rsMismatch : Nat := 1
def rsCeil : Nat := 2
def rsHystUp : Nat := 3
def rsMode : Nat := 4
def rsCap : Nat := 5
def rsChkOff : Nat := 6
def rsLean0 : Nat := 7

/-- The setting that R360 and R373 give in a mode. -/
def settingFor (s : State) (m : Nat) : Nat :=
  let c := if leanOvr s = 1 then rankOf (fld s APX_LEAN_OVR 2 0) else 4
  if chkEn s then settingAt m (min (topRank m) (min (leanH s) c)) else 0

/-- The pending setting, or the one in force (R374 setting_p). -/
def settingP (s : State) : Nat := if leanPend s then leanPendSet s else leanCur s

/-! ## The VDD_CORE target (R582, R584, R585) -/

def avsState (s : State) : Nat := fld s GLB_PWR_STAT 7 4
def avsActive : Nat := 1
def avsSettling : Nat := 2
def avsFault : Nat := 3
def vTgt (s : State) : Nat := fld s GLB_VCORE_TGT 15 0

/-- The target of a mode and a setting, in mV. After a start the rail stands above V_R until the trim has brought it down (the worked
example of R596; log entry 168). -/
def vTarget (s : State) (m setting : Nat) : Nat :=
  let vr := fld s GLB_VCORE_BASE 15 0 + s.pwr.above
  let b := if m = modeSummit then vr + 100 else if m = modeValley then vr - 60 else vr
  if m = modeBivouac then 550 else max 550 (b - leanDrop setting)

/-- The mode that a pending change enters: an automatic one first (R33). -/
def modeNext (s : State) : Option Nat :=
  match s.pwr.auto with
  | some (m, _) => some m
  | none => if flag s GLB_MODE_STAT 3 then some (fld s GLB_MODE_STAT 6 4) else none

/-- The target that the mode and the setting in force and those that wait need: the highest of them. -/
def vWant (s : State) : Nat :=
  let now := vTarget s (mode s) (leanCur s)
  let l := if leanPend s then vTarget s (mode s) (leanPendSet s) else 0
  let m := match modeNext s with
    | some m => vTarget s m (settingFor s m)
    | none => 0
  max now (max l m)

/-- Whether a change waits for a higher voltage. -/
def riseWaits (s : State) : Bool := decide (vTarget s (mode s) (leanCur s) < vWant s)

/-- A target sent to the regulator, unless it does not answer. -/
def retarget (s : State) : State :=
  let v := vWant s
  if v = vTgt s ∨ s.pwr.noAnswer then s
  else
    let s1 := setFld (setFld s GLB_VCORE_TGT 15 0 v) GLB_PWR_STAT 7 4 avsSettling
    updPwr s1 (fun p => { p with ack := vTgt s, since := s.ft, late := false, timedOut := false })

/-- Whether the rail stands settled at a voltage that suffices for v (R584). -/
def railAt (s : State) (v : Nat) : Bool := (avsState s == avsActive || avsState s == 0) && decide (v ≤ vTgt s)

/-- A wait beyond 10 µs, counted once (R584). -/
def countLate (s : State) : State :=
  if s.pwr.late || !riseWaits s || decide (s.ft ≤ s.pwr.since + 10000) then s
  else updPwr (irq (bump s GLB_PWR_LATE_CNT) pgPwr 1) (fun p => { p with late := true })

/-- A measurement of VSENSE that has stood for 1 µs: within ±8 mV of the target, the rail has settled (R584). -/
def execRailSettled (now mv : Nat) (s0 : State) : Out :=
  let s := countLate (advance s0 now)
  let s1 := setFld s GLB_VCORE_MEAS 15 0 mv
  if s1.pwr.noAnswer || avsState s1 < 2 || decide (8 < absI ((mv : Int) - (vTgt s1 : Int))) then .next s1
  else .next (updPwr (setFld s1 GLB_PWR_STAT 7 4 avsActive) (fun p => { p with ack := vTgt s1 }))

/-- 1 ms without settling (R584). -/
def execErrAvsTimeout (now : Nat) (s0 : State) : Out :=
  let s := countLate (advance s0 now)
  if avsState s ≠ avsSettling ∨ !riseWaits s ∨ s.ft < s.pwr.since + 1000000 ∨ s.pwr.timedOut then .next s
  else
    let s1 := recErr s pgPwr 0x0101 0
    .next (updPwr (irq (setFld s1 GLB_PWR_STAT 7 4 avsFault) pgPwr 0) (fun p => { p with timedOut := true }))

/-- Three AVSBus commands in a row without an answer (R585): the last acknowledged target is kept. -/
def execAvsNoAnswer (now : Nat) (s0 : State) : Out :=
  let s := advance s0 now
  let v := if avsState s = avsSettling then s.pwr.ack else vTgt s
  let s1 := setFld (setFld (bump s GLB_AVS_ERR_CNT) GLB_VCORE_TGT 15 0 v) GLB_PWR_STAT 7 4 avsFault
  .next (updPwr (irq s1 pgPwr 0) (fun p => { p with noAnswer := true }))

/-- The regulator answers again (R585): the changes that wait get their target. -/
def execAvsRegulatorAnswer (now : Nat) (s0 : State) : Out :=
  let s := advance s0 now
  if !s.pwr.noAnswer then .next s
  else .next (retarget (updPwr (setFld s GLB_PWR_STAT 7 4 avsActive) (fun p => { p with noAnswer := false })))

/-- The trim of V_R (R583): the target moves at most 5 mV per 100 ms towards the level that the monitors require, and never below
it. -/
def execAvsTrim (now level : Nat) (s0 : State) : Out :=
  let s := advance s0 now
  if !flag s GLB_AVS_CFG 31 || decide (s.ft < s.pwr.lastTrim + 100000000) then .next s
  else
    let s := updPwr s (fun p => { p with lastTrim := s.ft })
    let vr := fld s GLB_VCORE_BASE 15 0 + s.pwr.above
    let want := max 690 (min 750 level)
    let v := if vr < want then min (vr + 5) want else max (vr - 5) want
    if v = vr then .next s
    else
      let s1 := updPwr (setFld s GLB_VCORE_BASE 15 0 (min v want)) (fun p => { p with above := v - want, trims := p.trims + 1 })
      .next (retarget (addLog s1 .other vr v 0))

/-! ## Changes of the setting (R361, R372, R377) -/

/-- The checker's window starts again. -/
def winRestart (s : State) : State := wrN (updLean s (fun l => { l with mm := 0 })) APX_CHK_WIN 0

/-- An entry of the log for a change of H or of the setting (R377). -/
def leanLog (s : State) (old new reason : Nat) : State :=
  addLogData s .lean old new reason [leanH s, rdN s APX_REPLAY_RATE, s.lean.mm]

/-- A setting comes into force at a cairn. -/
def takeSetting (s : State) (st reason : Nat) : State :=
  let old := leanCur s
  if old = st then setFlag s APX_LEAN_STAT 14 false
  else
    let s1 := setFld (setFlag (setFld s APX_LEAN_STAT 2 0 st) APX_LEAN_STAT 14 false) APX_LEAN_STAT 11 8 reason
    let s2 := winRestart (wrN s1 APX_REPLAY_CEIL (ceilReg st))
    let s3 := srcEvent (leanLog s2 old st reason) evLean 0
    irq s3 pgApx (if rankOf st < rankOf old then 0 else 1)

/-- The policy or an override is evaluated: a setting that differs from the one in force waits for its cairn, in place of
the one that waited (R361). -/
def leanDecide (s : State) (reason : Nat) : State :=
  let t := settingFor s (mode s)
  let s1 :=
    if t = leanCur s then setFlag s APX_LEAN_STAT 14 false
    else if leanPend s && leanPendSet s == t then s
    else updLean (setFlag (setFld s APX_LEAN_STAT 17 15 t) APX_LEAN_STAT 14 true) (fun l => { l with why := reason })
  retarget s1

/-- Whether the pending setting may take effect now: the rail has settled where the voltage rises (R361, R584), and no
mode change or clock pause is in hand. -/
def leanReady (s : State) : Bool :=
  leanPend s && (decide (vTarget s (mode s) (leanPendSet s) ≤ vTarget s (mode s) (leanCur s))
    || railAt s (vTarget s (mode s) (leanPendSet s)))
    && !(s.pwr.noAnswer && decide (vTarget s (mode s) (leanPendSet s) ≠ vTgt s))

/-! ## The policy (R374 to R376) -/

def hystNs (s : State) : Nat := fld s APX_POLICY 31 16 * 1000000000

/-- step_down of R374. -/
def stepDown (s : State) (reason : Nat) : State :=
  let h := rankOf (settingP s) - 1
  let m := leanMult s
  let m' := if s.ft < s.lean.tUp + 2 * hystNs s * m then min (2 * m) (2 ^ fld s APX_POLICY 2 0) else 1
  let s1 := setFld (setFld s APX_LEAN_STAT 20 18 h) APX_HYST_STAT 4 0 m'
  let s2 := winRestart (updLean s1 (fun l => { l with tDown := s.ft, clean := 0 }))
  leanDecide (leanLog (bump s2 APX_STEP_DOWN_CNT) (settingP s) (settingFor s2 (mode s2)) reason) reason

/-- A mismatch at LEAN0 (R375). -/
def lean0Mismatch (s : State) : State :=
  let s1 := irq (leanLog (bump s APX_LEAN0_MM_CNT) 0 0 rsLean0) pgApx 2
  if inBelay s1 then endJobs s1 errMismatch (fun _ => true) else s1

/-- The replays of the units since the last evaluation, counted. -/
def countReplays (s : State) (tts ncs : List (Nat × Nat)) (beats : Nat) : State :=
  let s1 := tts.foldl (fun t e => srcEvents (bumpN t (APX_TT_REPLAY e.1) e.2) evReplay e.1 e.2) s
  let s2 := ncs.foldl (fun t e => srcEvents (bumpN t (APX_NC_REPLAY e.1) e.2) evReplay (512 + e.1) e.2) s1
  let n := (tts ++ ncs).foldl (fun n e => n + e.2) 0
  bumpWide (bumpWide s2 APX_REPLAY_LO n) APX_BEAT_LO beats

/-- The evaluation of every 1 ms (R356, R374), with the replays of tensor engines and neuron cores and the beats of that
ms. -/
def execLeanPolicyTick (now beats : Nat) (tts ncs : List (Nat × Nat)) (s0 : State) : Out :=
  let s := advance s0 now
  if s.pwr.pause.isSome ∨ s.ft < s.lean.last + 1000000 then .next s
  else
    let s1 := countReplays (updLean s (fun l => { l with last := s.ft })) tts ncs beats
    let n := (tts ++ ncs).foldl (fun n e => n + e.2) 0
    let s2 := wrN s1 APX_REPLAY_RATE (if beats = 0 then 0 else satN 0xFFFFFFFF (n * 4294967296 / beats))
    let s3 := if inBivouac s2 then s2 else bump s2 (APX_RES_MS (leanCur s2))
    let st := settingP s3
    let beyond := match ceilOf st with
      | some (a, b) => decide (a * beats < n * b)
      | none => false
    if beyond && !inBelay s3 then .next (irq (stepDown s3 rsCeil) pgApx 3)
    else if !inBelay s3 && leanOvr s3 != 2 && decide (leanH s3 < 4)
        && decide (max s3.lean.tDown s3.lean.tUp + hystNs s3 * leanMult s3 ≤ s3.ft) && decide (1 ≤ s3.lean.clean) then
      let h := leanH s3
      let s4 := updLean (setFld s3 APX_LEAN_STAT 20 18 (h + 1)) (fun l => { l with clean := 0, tUp := s3.ft })
      .next (leanDecide (leanLog (bump s4 APX_STEP_UP_CNT) st (settingFor s4 (mode s4)) rsHystUp) rsHystUp)
    else .next (leanDecide s3 rsHystUp)

/-! ## The shadow checker (R367 to R373) -/

/-- The KiB that the queue holds. -/
def chkFill (s : State) : Nat := (s.samples.foldl (fun n x => n + x.bytes) 0 + 1023) / 1024

/-- A sample offered by an engine or core: queued where the queue has room, else skipped and counted; it is skipped as well where the
capture path is busy, which a free value says (R370; log entry 163). -/
def offer (s0 : State) (x : Sample) : State :=
  if !chkEn s0 then s0 else
  let (busy, s) := drawNat s0
  if busy % 2 = 1 then bumpPulse s APX_CHK_SKIP_CNT pgChk 1
  else if s.samples.foldl (fun n y => n + y.bytes) 0 + x.bytes ≤ 1048576 then { s with samples := s.samples ++ [x] }
  else bumpPulse s APX_CHK_SKIP_CNT pgChk 1

/-- The accumulators that the checker recomputes from a sample's operands: those of a tensor sample under R297 and R298, those of a
neuron sample, I0 and I1, under spec/08_neuron_cores.md R256. -/
def recompute (x : Sample) : List Word :=
  if x.neuron then [0, 1].map (fun ch => (x.events.filter (fun e => e.2.2 == ch)).foldl (fun a e => a + word (twos 32 (e.1 * (e.2.1 : Int)))) 0)
  else [word (accWaves x.aFmt x.wFmt x.start x.waves).1]

/-- The place that APX_CHK_LAST shows: a tensor sample's column; a neuron sample's slot with the first channel that differs. -/
def lastPlace (x : Sample) (got : List Word) : Nat :=
  if x.neuron then x.place % 8192 + (if got.head? = (recompute x).head? then 8192 else 0) else x.place % 16384

/-- The oldest sample is recomputed and compared (R371, R372, R374). `diff` is the bits of the captured values (32 bits each, the first
lowest) that a late transition which no detector saw has flipped: engines give exact results (R288). -/
def execSampleCompare (now diff : Nat) (s0 : State) : Out :=
  let s := advance s0 now
  match s.samples with
  | [] => .next s
  | x :: t =>
    let s1 := bumpWide { s with samples := t } APX_CHK_CMP_LO 1
    let got := x.final.zipIdx.map (fun e => e.1 ^^^ word (diff / 2 ^ (32 * e.2) % 4294967296))
    let mm := decide (got ≠ recompute x)
    let s2 := if !mm then s1 else
      let last := 0x80000000 + b2n x.neuron * 0x40000000 + x.setting * 0x8000000 + x.unit % 512 * 0x40000 + lastPlace x got
      let s2 := wrN (wrN (bump s1 APX_CHK_MM_CNT) APX_CHK_LAST last) APX_CHK_LAST_SEQ x.seq
      irq (setWide s2 APX_CHK_LAST_FT_LO x.ft) pgChk 0
    let n := fld s2 APX_CHK_WIN 11 0 + 1
    let st := settingP s2
    let hit := mm && decide (x.setting = st)
    let m := s2.lean.mm + b2n hit
    let s3 := updLean s2 (fun l => { l with mm := m })
    let s3 := setFld (setFld s3 APX_CHK_WIN 31 24 (satN 255 m)) APX_CHK_WIN 11 0 n
    let stepped := hit && decide (st ≠ 0) && !inBelay s3 && leanOvr s3 != 2 && decide (fld s3 APX_POLICY 15 8 ≤ m)
    let s4 := if hit && decide (st = 0) then lean0Mismatch s3 else if stepped then stepDown s3 rsMismatch else s3
    if n = 4096 && !stepped then
      .next (winRestart (if m = 0 then updLean s4 (fun l => { l with clean := l.clean + 1 }) else s4))
    else .next s4

/-- A write of APX_CHK_CFG (R367, R373). -/
def chkCfgWrite (s : State) (w : Who) (v : Word) : State :=
  let tileNew := bits v 22 16
  if (nbit v.toNat 31 || decide (tileNew ≠ fld s APX_CHK_CFG 22 16)) && boundTile s tileNew then
    wErr s w APX_CHK_CFG errBound
  else
    let s1 := plainWrite s w APX_CHK_CFG v
    if chkEn s && !chkEn s1 then leanDecide s1 rsChkOff
    else if !chkEn s && chkEn s1 then
      let (r, s2) := drawNat s1
      leanDecide s2 (r % 16)
    else s1

def execCheckerCfgWrite (w : Who) (v : Word) (s : State) : Out :=
  .next (guardW s w 4 APX_CHK_CFG (fun t => chkCfgWrite t w v))

/-! ## Register writes, live registers, soft reset (R379 to R382) -/

/-- The pair whose set holds an address of the pair page. -/
def pairSet (a : Nat) : Option Nat :=
  if pgPair + 0x100 ≤ a ∧ a < pgPair + 0x500 then some ((a - pgPair - 0x100) / 16) else none

/-- Whether a pair is bound. -/
def pairBound (s : State) (n : Nat) : Bool := decide (fld s (APX_ESC_CFG n) 24 16 ≠ 0)

/-- A write of a register of the approximation pages. -/
def apxWrite (s : State) (w : Who) (a : Nat) (v : Word) : State :=
  if a = APX_CHK_CFG then chkCfgWrite s w v
  else if a = APX_LEAN_OVR then leanDecide (plainWrite s w a v) rsCap
  else match pairSet a with
    | some n => if pairBound s n then plainWrite s w a v else wErr s w a errBound
    | none => plainWrite s w a v

/-- What a register of the approximation pages reads as where it is not held as a word. -/
def apxLive (s : State) (a : Nat) : Option Nat :=
  if a = APX_HYST_STAT then
    let due := max s.lean.tDown s.lean.tUp + hystNs s * leanMult s
    some (satN 0xFFFFFF ((due - s.ft + 999999999) / 1000000000) * 256 + leanMult s)
  else if a = APX_REPLAY_LO ∨ a = APX_BEAT_LO ∨ a = APX_CHK_CMP_LO ∨ a = APX_CHK_LAST_FT_LO then
    some (wideOf s a % 4294967296)
  else if a = APX_CHK_QFILL then some (chkFill s)
  else none

/-- H, mult, t_down and t_up as R379 gives them at power-on, on exit from BIVOUAC and at a soft reset; a change of H is logged (R377). -/
def leanStart (s : State) : State :=
  let s1 := setFld (setFld s APX_LEAN_STAT 20 18 0) APX_HYST_STAT 4 0 1
  let s2 := if leanH s = 0 then s1 else leanLog s1 (settingP s) (settingFor s1 (mode s1)) 0
  updLean s2 (fun l => { l with tDown := s.ft, tUp := 0, clean := 0 })

/-- The soft reset of an approximation page (R379). -/
def apxSrst (s : State) (pg : Nat) : State :=
  if pg = pgApx then
    let (r, s1) := drawNat (leanStart (softRegs s pg))
    leanDecide s1 (r % 16)
  else if pg = pgChk then
    let s1 := winRestart { softRegs s pg with samples := [] }
    let (r, s2) := drawNat s1
    leanDecide s2 (if chkEn s then rsChkOff else r % 16)
  else softRegs s pg

/-! ## Temperature and power (R33, R605 to R609) -/

/-- The highest reading of the last sample, in 1/16 °C. -/
def tj (s : State) : Int := sx 16 (fld s DBG_TJ 15 0)

/-- Whether the part is a KH96-A-X. -/
def gradeX (s : State) : Bool := flag s GLB_GRADE 0

/-- The reset value of GLB_MODE_LIMIT.TJ_C by the grade (spec/01_architecture.md R38). -/
def tjReset (x : Bool) : Nat := if x then 0x64 else 0x5F

/-- The highest of a list of 16-bit readings. -/
def hottest : List Nat → Int
  | [] => -32768
  | x :: t => max (sx 16 x) (hottest t)

/-- One sample of the 20 sensors (R606); each crossing of the ordering code's maximum is logged (R609). -/
def takeTemps (s : State) (l : List Nat) : State :=
  if l.length ≠ 20 then s
  else
    let s1 := (l.zip (List.range 20)).foldl (fun t e => setFld t (DBG_TEMP e.2) 15 0 e.1) s
    let h := hottest l
    let s2 := setFld s1 DBG_TJ 15 0 (twos 16 h)
    let beyond := decide (16 * (if gradeX s2 then 110 else 105) < h)
    if beyond = s2.pwr.overMax then s2
    else updPwr (addLog s2 .other (b2n s2.pwr.overMax) (b2n beyond) 0) (fun p => { p with overMax := beyond })

/-- A temperature sample (R606, R609). -/
def execTjMaxCrossing (now : Nat) (temps : List Nat) (s : State) : Out := .next (takeTemps (advance s now) temps)

/-- An automatic mode change is decided (R33); it waits for its cairn. -/
def autoMode (s : State) (m reason : Nat) : State :=
  if s.pwr.auto.isSome then s
  else
    let s1 := if modeWaits s then s else startWatch s
    retarget (updPwr s1 (fun p => { p with auto := some (m, reason) }))

def rsnThermal : Nat := 2
def rsnPower : Nat := 3

/-- The evaluation of every 1 ms: package power from the four measured rails, in mW, and the SUMMIT limits (R605, R608). -/
def execSummitLimitEval (now rails : Nat) (s0 : State) : Out :=
  let s := advance s0 now
  if s.ft < s.pwr.lastEval + 1000000 then .next s
  else
    let p := rails + (if inBivouac s then 3500 else 15500)
    let s1 := peak (wrN (updPwr s (fun q => { q with lastEval := s.ft })) DBG_PKG_PWR p) DBG_PKG_PWR_PEAK p
    if mode s1 ≠ modeSummit then .next s1
    else if 16 * (fld s1 GLB_MODE_LIMIT 15 8 : Int) ≤ tj s1 then .next (autoMode s1 modeRidge rsnThermal)
    else if 1000 * fld s1 GLB_MODE_LIMIT 24 16 ≤ p then .next (autoMode s1 modeRidge rsnPower)
    else .next s1

/-- A temperature sample at or above the BELAY limit ends the BELAY jobs and enters RIDGE (R33, R607). -/
def execBelayThermalLimit (now : Nat) (temps : List Nat) (s0 : State) : Out :=
  let s := takeTemps (advance s0 now) temps
  if inBelay s && decide (16 * (if gradeX s then 110 else 105) ≤ tj s) then
    .next (autoMode (endJobs s errThermal (fun _ => true)) modeRidge rsnThermal)
  else .next s

end Sys2Proof.Machine
end

