-- ==== Sys2Proof/Machine/Time.lean ====
section
/-!
DEFINITION. The time unit (spec/04_time_bases.md): the discipline of FT, PTP instances, 1PPS, sensor servos, machine phase
as it is read, conversions and the periodic cairn.
-/
namespace Sys2Proof.Machine
open Sys2Proof

def pgTime : Nat := 0x40000
def pgPtp (n : Nat) : Nat := 0x41000 + 0x1000 * n
def pgSrv : Nat := 0x45000
def pgMp : Nat := 0x46000
def pgConv : Nat := 0x47000

/-- The page of port p. -/
def portPage (p : Nat) : Nat := PORT_CFG p - 0x40

/-- Whether port p is enabled, or has a disable pending (R64). -/
def portOn (s : State) (p : Nat) : Bool := flag s (PAGE_CTRL (portPage p)) 0 || disPend s (PAGE_CTRL (portPage p))

/-- Whether encoder e is enabled. -/
def encOn (s : State) (e : Nat) : Bool := flag s (MOT_ENC_CFG e) 31

/-! ## The enables of sets (R64) -/

/-- A write of a register whose bit i is the EN of a set: `code` is recorded for a write to a static field, `refuse` gives
the code that refuses an enable, `on` and `off` are what enabling and disabling do beside the fields. -/
def enWrite (s : State) (w : Who) (a : Nat) (v : Word) (i code : Nat) (refuse : State → Option Nat)
    (on off : State → State) : State :=
  match enAct s a v i with
  | .enable =>
    match refuse (plainWrite s w a v) with
    | some c => wErr s w a c
    | none => on (plainWrite s w a v)
  | .cancel => setDisPend s a false
  | .disable => off (setFlag s a i false)
  | .config => plainWrite s w a v
  | .same => s
  | .static => wErr s w a code

/-! ## The discipline (R130 to R137) -/

def dFree : Nat := 0
def dAcquire : Nat := 1
def dLocked : Nat := 2
def dHoldover : Nat := 3

def discState (s : State) : Nat := fld s TIME_STATUS 3 0
def srcSel (s : State) : Nat := fld s TIME_CTRL 2 0
def srcPps : Nat := 5

/-- Whether PPS_OUT may be high (R144). -/
def ppsMay (s : State) : Bool := flag s TIME_PPS_OUT 31 && (flag s TIME_PPS_OUT 30 || decide (2 ≤ discState s))

/-- PPS_OUT is driven low where it may not be high. -/
def ppsGate (s : State) : State := if s.pps.out && !ppsMay s then { s with pps := { s.pps with out := false } } else s

/-- The discipline's STATE set, with its interrupt on LOCKED and HOLDOVER. -/
def setDiscState (s : State) (st : Nat) : State :=
  if discState s = st then s
  else
    let s1 := ppsGate (setFld s TIME_STATUS 3 0 st)
    let s1 := addLog s1 .time (discState s) st st
    if st = dLocked then irq s1 pgTime 0 else if st = dHoldover then irq s1 pgTime 1 else s1

/-- The rate correction in force, in 2^-40 ns per cycle, and TIME_RATE, which shows its bits [39:8]. -/
def setRate (s : State) (r : Int) : State :=
  wrN { s with disc := { s.disc with rate := r } } TIME_RATE (twos 32 (asr r 8))

/-- TIME_RATE_MAN as a rate. -/
def manRate (s : State) : Int := rdS s TIME_RATE_MAN * 256

/-- SLEWING, FAR and TIME_SLEW_REM follow the phase correction that remains; FAR pulses when it sets (R136). -/
def showSlew (s : State) : State :=
  slewRegs (if decide (1000000000 < absI s.disc.slew) && !flag s TIME_STATUS 7 then irq s pgTime 6 else s)

/-- The phase correction still to slew in. -/
def setSlew (s : State) (r : Int) : State := showSlew { s with disc := { s.disc with slew := r, slewPart := 0 } }

/-- HOLDOVER: the rate stays at its value of the last accepted measurement, and the phase correction is discarded (R134). -/
def enterHoldover (s : State) : State := setSlew (setDiscState s dHoldover) 0

/-- The selected source is lost: LOCKED enters HOLDOVER, the other states stay (R134, R159). -/
def srcLost (s : State) (src : Nat) : State :=
  if srcSel s = src ∧ discState s = dLocked then enterHoldover { s with disc := { s.disc with lossAt := some s.ft } } else s

/-- Whether the source was lost in this cycle of CD_TIME: a measurement of it in the same cycle still counts (R158). -/
def lostNow (s : State) (src : Nat) : Bool :=
  srcSel s == src && discState s == dHoldover && s.disc.lossAt == some s.ft

/-- ACQUIRE, entered from LOCKED, HOLDOVER or FREE; FT goes on at its last rate (R131, R136). -/
def enterAcquire (s : State) : State :=
  let ff := discState s = dFree ∨ (discState s = dAcquire ∧ s.disc.fromFree)
  setSlew (setDiscState { s with disc := { s.disc with fromFree := decide ff } } dAcquire) 0

/-- FREE: FT runs at TIME_RATE_MAN (R131). -/
def enterFree (s : State) : State := setSlew (setRate (setDiscState s dFree) (manRate s)) 0

/-- Whether TIME_HOLD_AGE and TIME_UNC grow (R135). -/
def ageing (s : State) : Bool :=
  discState s == dHoldover || (discState s == dAcquire && !s.disc.fromFree)

/-- The hold age in ns. -/
def holdAge (s : State) : Nat := if ageing s then s.ft - s.disc.lastMeas else 0

/-- The ns without the reference since the last accepted measurement, up to now. -/
def noRefNs (s : State) : Nat :=
  s.disc.lostNs + (match s.disc.refLost with | some l => s.ft - max l s.disc.lastMeas | none => 0)

/-- TIME_UNC (R135, R138): U0 + F × t + W × t² / 2, with 100 ppm for F over the time without the reference. -/
def uncNs (s : State) : Nat :=
  if ageing s then
    let t := holdAge s
    let r := min t (noRefNs s)
    s.disc.u0 + (2000000000 * (fld s TIME_HOLD_CFG 31 16 * (t - r) + 100000 * r) + fld s TIME_HOLD_CFG 15 0 * t * t) / 2000000000000000000
  else 0

/-- A measurement accepted in LOCKED: the offset feeds the loop (R133). -/
def measure (s : State) (off : Int) : State :=
  let kp := fld s TIME_LOOP 7 4
  let ki := fld s TIME_LOOP 3 0
  let s1 := wrS s TIME_OFFSET off
  let s2 := setRate s1 (clampI (-219902325) 219902325 (Config.loopRate kp ki s1.disc.rate off))
  let s3 := setSlew s2 (Config.loopPhase kp ki s2.disc.slew off)
  { s3 with disc := { s3.disc with lastMeas := s3.ft, u0 := Config.offsetFilter s3.disc.u0 off, lostNs := 0 } }

/-- A measurement of a source that was lost in the same cycle: it is applied first, and the loss then enters HOLDOVER (R158). -/
def measureLost (s : State) (off : Int) : State := setSlew (measure s off) 0

/-- Whether the step of R130 may be made. -/
def mayStep (s : State) : Bool :=
  flag s TIME_CTRL 8 && !s.disc.everQual && !(List.range 32).any (portOn s) && !anyBound s

/-- What a qualification is about to change. -/
def beforeQual (s : State) : QualUndo :=
  { at_ := s.ft
    regs := [TIME_STATUS, TIME_OFFSET, TIME_SLEW_REM, TIME_UNC_EXCEED_CNT, TIME_MASTER_ID0, TIME_MASTER_ID1, TIME_MASTER_PORT].map
      (fun a => (a, rd s a))
    slew := s.disc.slew, slewPart := s.disc.slewPart, fromFree := s.disc.fromFree, lastMeas := s.disc.lastMeas, u0 := s.disc.u0
    everQual := s.disc.everQual, lostNs := s.disc.lostNs }

/-- A qualification of the same cycle discarded (R158); a pulse of LOCK that it gave stays. -/
def discardQual (s : State) : State :=
  match s.disc.undo with
  | none => s
  | some u =>
    if u.at_ ≠ s.ft then s
    else
      let s1 := u.regs.foldl (fun t e => wr t e.1 e.2) s
      { s1 with disc := { s1.disc with slew := u.slew, slewPart := u.slewPart, fromFree := u.fromFree, lastMeas := u.lastMeas
                                       u0 := u.u0, everQual := u.everQual, lostNs := u.lostNs, undo := none } }

/-- A source qualifies: its first offset is compared with TIME_UNC (R137), FT steps where R130 allows it, and otherwise the
whole offset is slewed out (R136). -/
def qualify (s : State) (off : Int) : State :=
  let s1 := if ageing s && decide (uncNs s < absI off) then bump s TIME_UNC_EXCEED_CNT else s
  let step := mayStep s1
  let s2 := setDiscState (wrS s1 TIME_OFFSET off) dLocked
  let s3 := { s2 with disc := { s2.disc with everQual := true, lastMeas := s2.ft, fromFree := false, lostNs := 0
                                             u0 := Config.offsetFilter s2.disc.u0 off, undo := some (beforeQual s) } }
  if step && decide (off < 0) then
    setSlew (setFlag { s3 with ft := s3.ft + absI off, disc := { s3.disc with lastMeas := s3.ft + absI off } } TIME_STATUS 5 true) 0
  else setSlew s3 (-off)

/-! ## PTP (R132, R134, R139 to R141) -/

/-- The state of an instance, coded as R131. -/
def ptState (s : State) (n : Nat) : Nat := fld s (TIME_PT_STATUS n) 3 0
def setPtState (s : State) (n st : Nat) : State := setFld s (TIME_PT_STATUS n) 3 0 st

/-- The identity registers of an instance, or of the discipline, from the identity, the port number, the domain and the
Ethernet port that heard it. -/
def masterRegs (s : State) (a0 a1 a2 master mport dom eth : Nat) : State :=
  wrN (wrN (wrN s a0 (master % 4294967296)) a1 (master / 4294967296)) a2 (mport % 65536 * 65536 + dom % 256 * 256 + 2 ^ eth % 256)

/-- An instance loses its master: it holds its last segment, and FT follows R134 where the instance disciplines it. -/
def ptLost (s : State) (n : Nat) : State :=
  let s1 := setPtp s n { ptpOf s n with syncs := 0 }
  srcLost (if ptState s1 n = dLocked then setPtState s1 n dHoldover else s1) (n + 1)

/-- The change of an instance's master; the same master heard on the other Ethernet port is no change of identity. -/
def ptMaster (s : State) (n master mport eth : Nat) : State :=
  let p := ptpOf s n
  if p.master = master ∧ p.masterPort = mport ∧ p.masterEth = eth then s
  else
    let lost := ¬(p.master = master ∧ p.masterPort = mport) ∧ ¬(p.syncs = 0 ∧ ptState s n ≠ dLocked)
    let s1 := if lost then irq (ptLost s n) pgTime 2 else s
    let s2 := setPtp s1 n { ptpOf s1 n with master := master, masterPort := mport, masterEth := eth
                                            syncs := if lost then 0 else (ptpOf s1 n).syncs }
    masterRegs s2 (TIME_PT_MASTER n 0) (TIME_PT_MASTER n 1) (TIME_PT_MASTER n 2) master mport (fld s2 (TIME_PT_CFG n) 15 8) eth

/-- Whether a message is one of an instance: on an Ethernet port of it, of its domain, over its transport (R139). -/
def ptHears (s : State) (n : Nat) (m : PtpFrom) : Bool :=
  (flag s (TIME_PT_CFG n) 31 || lostNow s (n + 1)) && decide (m.eth < 2) && flag s (TIME_PT_CFG n) (29 + m.eth)
    && m.dom == fld s (TIME_PT_CFG n) 15 8 && m.transport == fld s (TIME_PT_CFG n) 28 27

/-- The time after an Announce at which its sender counts as gone (R134). -/
def annEnd (s : State) (n : Nat) (f : Foreign) : Nat := f.last + fld s (TIME_PT_CFG n) 25 22 * f.annNs

/-- The best of the masters that an instance has heard and that are not gone, by the rank of the best master clock algorithm
(R139); of equals the one on ETH0. -/
def ptBest (s : State) (n : Nat) : Option Foreign :=
  ((ptpOf s n).foreign.filter (fun f => decide (s.ft < annEnd s n f))).foldl (fun b f =>
    match b with
    | none => some f
    | some g => if f.rank < g.rank ∨ (f.rank = g.rank ∧ f.eth < g.eth) then some f else some g) none

def sameMaster (m : PtpFrom) (f : Foreign) : Bool := f.master == m.master && f.mport == m.mport && f.eth == m.eth

/-- Whether a Sync is taken: its sender is the best master, or none has announced itself. -/
def ptTakes (s : State) (n : Nat) (m : PtpFrom) : Bool :=
  match ptBest s n with
  | none => true
  | some f => sameMaster m f

/-- TIME_PT_SEG shows the present segment. -/
def showSegment (s : State) (n : Nat) (g : Segment) : State :=
  wrN (wrN (wr64 s (TIME_PT_SEG n 0) (TIME_PT_SEG n 1) g.base) (TIME_PT_SEG n 2) (twos 32 g.off)) (TIME_PT_SEG n 3) (twos 32 g.rate)

/-- A new segment of an instance at FT t with an offset (R141); the last 256 are kept. -/
def newSegment (s : State) (n t : Nat) (off : Int) : State :=
  let p := ptpOf s n
  let rate := match p.segs with
    | [] => 0
    | g :: _ => satS 32 (Config.ptRate ((t : Int) - (g.base : Int)) (off - g.off))
  let s1 := setPtp s n { p with segs := keep 256 ({ base := t, off := off, rate := rate } :: p.segs), lastSync := t }
  showSegment s1 n { base := t, off := off, rate := rate }

/-- The present segment restated after a step of FT by d (R130): the mapping of the times from here on stays. -/
def stepSegment (s : State) (n d : Nat) : State :=
  match (ptpOf s n).segs with
  | [] => s
  | g :: t =>
    let g' : Segment := { base := g.base + d, off := g.off - (d : Int), rate := g.rate }
    showSegment (setPtp s n { ptpOf s n with segs := g' :: t, lastSync := (ptpOf s n).lastSync + d }) n g'

/-- A stamp of the MACs corrected by ASYM_NS (R140). -/
def ptStamp (s : State) (n t : Nat) : Int := (t : Int) - sx 32 (rdN s (TIME_PT_ASYM n))

/-- FT − source at a Sync: the master's time with the correction field applied, and the mean path delay. -/
def ptOffset (s : State) (n origin : Nat) (corr : Int) (rx : Nat) : Int :=
  ptStamp s n rx - ((origin : Int) + corr + (rdN s (TIME_PT_PATH n) : Int))

/-- A Sync (R132, R133, R140, R141). `rx` is the MAC's stamp, `origin` the master's time, from the Sync or its follow-up, and `corr`
the correction field in ns. -/
def execPtpSync (n : Nat) (m : PtpFrom) (origin : Nat) (corr : Int) (rx : Nat) (s0 : State) : Out :=
  let s := advance s0 rx
  if !ptHears s n m || !ptTakes s n m then .next s
  else if lostNow s (n + 1) && (ptpOf s n).master == m.master && (ptpOf s n).masterPort == m.mport then
    .next (measureLost s (ptOffset s n origin corr rx))
  else
    let s1 := ptMaster s n m.master m.mport m.eth
    let p := ptpOf s1 n
    let s2 := setPtp s1 n { p with syncs := satN 1000000 (p.syncs + 1), sync := some ((origin : Int) + corr, ptStamp s1 n rx) }
    let off : Int := ptOffset s2 n origin corr rx
    let sel := decide (srcSel s2 = n + 1)
    let s3 := if sel && decide (discState s2 = dHoldover) then enterAcquire s2 else s2
    if (ptpOf s3 n).syncs < fld s3 (TIME_PT_CFG n) 21 16 then
      .next (if ptState s3 n = dLocked then s3 else setPtState s3 n dAcquire)
    else
      let s4 := setPtState s3 n dLocked
      let s4 := setPtp s4 n { ptpOf s4 n with everLocked := true }
      let s5 := newSegment s4 n rx (-off)
      if !sel then .next s5
      else if discState s5 = dAcquire then
        let s6 := qualify s5 off
        let s7 := if s5.ft < s6.ft then stepSegment s6 n (s6.ft - s5.ft) else s6
        .next (masterRegs s7 TIME_MASTER_ID0 TIME_MASTER_ID1 TIME_MASTER_PORT m.master m.mport (fld s5 (TIME_PT_CFG n) 15 8) m.eth)
      else if discState s5 = dLocked then .next (measure s5 off)
      else .next s5

/-- The sender of an Announce among the masters that an instance has heard. -/
def hearMaster (s : State) (n : Nat) (m : PtpFrom) (rank interval now : Nat) : State :=
  setPtp s n { ptpOf s n with foreign :=
    { master := m.master, mport := m.mport, eth := m.eth, rank := rank, last := now, annNs := interval }
      :: (ptpOf s n).foreign.filter (fun f => !sameMaster m f) }

/-- An Announce (R134, R139): the best master clock algorithm chooses among the masters heard; the receipt timer of the chosen one
starts again, and a change of identity loses the source. `rank` orders the data sets as IEEE 1588 compares them (log entry 150). -/
def execPtpAnnounce (n : Nat) (m : PtpFrom) (rank interval now : Nat) (s0 : State) : Out :=
  let s := advance s0 now
  if !ptHears s n m then .next s
  else
    let s1 := hearMaster s n m rank interval now
    match ptBest s1 n with
    | none => .next s1
    | some f =>
      let s2 := ptMaster s1 n f.master f.mport f.eth
      .next (setPtp s2 n { ptpOf s2 n with lastAnn := some f.last, annNs := f.annNs })

/-- The announce receipt timeout (R134): due when the configured number of intervals has passed since the last Announce. -/
def execAnnounceTimeout (n now : Nat) (s0 : State) : Out :=
  let s := advance s0 now
  let p := ptpOf s n
  match p.lastAnn with
  | none => .next s
  | some a =>
    if now < a + fld s (TIME_PT_CFG n) 25 22 * p.annNs then .next s
    else .next (ptLost (setPtp s n { p with lastAnn := none }) n)

/-- The mean path delay of an instance, once its answer has come. -/
def setPath (s : State) (n : Nat) (twice : Int) : State :=
  wrN (setPtp s n { ptpOf s n with req := none }) (TIME_PT_PATH n) (satN 0xFFFFFFFF (twice / 2).toNat)

/-- The delay messages (R139, R140): a request is sent, its answer gives the mean path delay, and a peer's request is answered. -/
def execPtpExchange (n : Nat) (x : PtpExchange) (s : State) : Out :=
  let p := ptpOf s n
  let peer := flag s (TIME_PT_CFG n) 26
  let send (s : State) (l : List PtpMsg) : State := { s with ptpTx := s.ptpTx ++ l.map (fun m => (n, m)) }
  if !flag s (TIME_PT_CFG n) 31 then .next s
  else
    match x with
    | .request tx =>
      let t := ptStamp s n tx
      .next (setPtp (send s [if peer then .pdelayReq t else .delayReq t]) n { p with req := some t })
    | .delayResp t4 corr =>
      match p.sync, p.req with
      | some (t1, t2), some t3 => if peer then .next s else .next (setPath s n ((t2 - t1) + ((t4 : Int) - t3) - corr))
      | _, _ => .next s
    | .pdelayResp t2 t3 rx corr =>
      match p.req with
      | some t1 => if peer then .next (setPath s n ((ptStamp s n rx - t1) - ((t3 : Int) - (t2 : Int)) - corr)) else .next s
      | none => .next s
    | .pdelayReq rx tx =>
      if peer then .next (send s [.pdelayResp (ptStamp s n rx), .pdelayRespFollowUp (ptStamp s n tx)]) else .next s

/-! ## 1PPS (R132, R134, R142 to R144) -/

/-- The phase of a time within its second, from −500,000,000 to +499,999,999 ns (R143). -/
def ppsPhase (t : Int) : Int :=
  let m := t % 1000000000
  if 500000000 ≤ m then m - 1000000000 else m

/-- A rising PPS_IN edge captured at FT t, whose pulse stays high for `high` ns. -/
def execPpsInEdge (t high : Nat) (s0 : State) : Out :=
  let s := advance s0 t
  if !flag s TIME_PPS_IN 16 || decide (high < 100) then .next s
  else
    let e := t - fld s TIME_PPS_IN 15 0
    let good := match s.pps.acc with
      | none => true
      | some a => decide (a + 999000000 ≤ e) && decide (e ≤ a + 1001000000)
    if !good then
      .next (irq (bump { s with pps := { s.pps with last := some e, good := 0 } } TIME_PPS_IN_BAD_CNT) pgTime 5)
    else
      let s1 := { s with pps := { s.pps with last := some e, acc := some e, good := satN 3 (s.pps.good + 1) } }
      let off := ppsPhase e
      if lostNow s srcPps then .next (measureLost s1 off)
      else if srcSel s1 ≠ srcPps then .next s1
      else
        let s2 := if discState s1 = dHoldover then enterAcquire s1 else s1
        if discState s2 = dAcquire then (if s2.pps.good < 3 then .next s2 else .next (qualify s2 off))
        else if discState s2 = dLocked then .next (measure s2 off)
        else .next s2

/-- No accepted edge for 1.5 s (R134). -/
def execPpsLoss (now : Nat) (s0 : State) : Out :=
  let s := advance s0 now
  match s.pps.acc with
  | none => .next s
  | some a =>
    if now ≤ a + 1500000000 then .next s
    else .next (srcLost { s with pps := { s.pps with acc := none, good := 0 } } srcPps)

/-! ## Conversions (R141, R153, R154) -/

def cOk : Nat := 0
def cExtra : Nat := 1
def cNone : Nat := 2
def cBusy : Nat := 3

/-- One segment applied to an FT. -/
def segAt (g : Segment) (t : Int) : Int := t + g.off + asr ((t - (g.base : Int)) * g.rate) 32

/-- FT in a PTP scale, with its status. -/
def ftToPt (s : State) (n : Nat) (t : Nat) : Nat × Int :=
  let p := ptpOf s n
  if !p.everLocked then (cNone, 0)
  else
    match p.segs.find? (fun g => decide (g.base ≤ t)) with
    | some g => (cOk, segAt g t)
    | none =>
      match p.segs.getLast? with
      | some g => (cExtra, segAt g t)
      | none => (cNone, 0)

/-- The smallest FT at which one segment reaches v, at or after the segment's base, or before it where it is the oldest. -/
def segInv (g : Segment) (v : Int) (oldest : Bool) : Int :=
  let w := v - (g.base : Int) - g.off
  let r : Int := 4294967296 + g.rate
  let d := -((-(w * 4294967296)) / r)
  (g.base : Int) + (if oldest || 0 ≤ d then d else 0)

/-- The smallest FT whose forward conversion is at least v; the segments are given oldest first. -/
def invSegs (v : Int) : Bool → List Segment → Option Int
  | _, [] => none
  | o, [g] => some (segInv g v o)
  | o, g :: g' :: t =>
    let x := segInv g v o
    if x < (g'.base : Int) then some x else invSegs v false (g' :: t)

def ptToFt (s : State) (n : Nat) (v : Int) : Nat × Int :=
  let p := ptpOf s n
  if !p.everLocked then (cNone, 0)
  else
    match invSegs v true p.segs.reverse with
    | none => (cNone, 0)
    | some x => ((match p.segs.getLast? with | some g => if x < (g.base : Int) then cExtra else cOk | none => cOk), x)

/-- The 64-bit count of a machine phase. -/
def mpCount (rev : Int) (angle : Nat) : Int := rev * 4294967296 + (angle : Int)

/-- How far MP moves from one entry of the history to the next: along the direction of the later one (R153). -/
def mpMove (m0 m1 : Int) (reverse : Bool) : Int :=
  let d := m1 - m0
  if reverse then (if d ≤ 0 then d else -((-d) % 4294967296)) else (if 0 ≤ d then d else d % 4294967296)

/-- MP at an FT from the history, newest first: at an entry, or between two entries. -/
def mpIn (t : Nat) : List (Nat × Nat × Int × Bool) → Option Int
  | [] => none
  | [e] => if e.1 = t then some (mpCount e.2.2.1 e.2.1) else none
  | e :: e' :: r =>
    if e.1 = t then some (mpCount e.2.2.1 e.2.1)
    else if e'.1 ≤ t ∧ t < e.1 then
      let m0 := mpCount e'.2.2.1 e'.2.1
      let m1 := mpCount e.2.2.1 e.2.1
      some (m0 + mpMove m0 m1 e.2.2.2 * ((t : Int) - (e'.1 : Int)) / ((e.1 : Int) - (e'.1 : Int)))
    else mpIn t (e' :: r)

def mpAtFt (s : State) (t : Nat) : Option Int := if s.mp.valid then mpIn t s.mp.hist else none

/-- The latest FT of the history at which MP has a value. -/
def mpInv (m : Int) : List (Nat × Nat × Int × Bool) → Option Nat
  | [] => none
  | [e] => if mpCount e.2.2.1 e.2.1 = m then some e.1 else none
  | e :: e' :: r =>
    let m0 := mpCount e'.2.2.1 e'.2.1
    let m1 := mpCount e.2.2.1 e.2.1
    let d := mpMove m0 m1 e.2.2.2
    if m1 = m then some e.1
    else if (m0 < m ∧ m < m0 + d) ∨ (m0 + d < m ∧ m < m0) then
      some (e'.1 + ((m - m0) * ((e.1 : Int) - (e'.1 : Int)) / d).toNat)
    else mpInv m (e' :: r)

/-- A value of a scale as FT: 0 FT, 1–4 PT0–PT3, 5 MP. -/
def toFt (s : State) (scale v : Nat) : Nat × Int :=
  if scale = 0 then (cOk, v)
  else if scale ≤ 4 then ptToFt s (scale - 1) v
  else if !s.mp.valid then (cNone, 0)
  else match mpInv (mpCount (sx 32 (v / 4294967296)) (v % 4294967296)) s.mp.hist with
    | some t => (cOk, t)
    | none => (cNone, 0)

/-- FT as a value of a scale. -/
def fromFt (s : State) (scale : Nat) (t : Int) : Nat × Nat :=
  if scale = 0 then (cOk, twos 64 t)
  else if scale ≤ 4 then
    let r := ftToPt s (scale - 1) t.toNat
    (r.1, twos 64 r.2)
  else match mpAtFt s t.toNat with
    | some m => (cOk, twos 32 (m / 4294967296) * 4294967296 + twos 32 m)
    | none => (cNone, 0)

/-- A conversion: status and result, 0 where it is not available (R154, R163). -/
def convert (s : State) (frm dst v : Nat) : Nat × Nat :=
  if frm = dst then (cOk, v)
  else
    let a := toFt s frm v
    if a.1 = cNone then (cNone, 0)
    else
      let b := fromFt s dst a.2
      if b.1 = cNone then (cNone, 0) else (max a.1 b.1, b.2)

/-- A write of the conversion set's input or control registers (R163). -/
def convWrite (s : State) (w : Who) (a : Nat) (v : Word) : State :=
  let k := keyOf w TIME_CONV_CTRL
  if opOn s k then wErr s w a 0x0103
  else
    let s1 := plainWrite s w a v
    if a = TIME_CONV_CTRL ∧ nbit v.toNat 31 = true then setOp (wrN s1 (keyOf w TIME_CONV_STAT) cBusy) k true else s1

def execConversionGo (w : Who) (v : Word) (s : State) : Out :=
  .next (guardW s w 4 TIME_CONV_CTRL (fun t => convWrite t w TIME_CONV_CTRL v))

/-- The conversion of a set completes. -/
def execConversionDone (w : Who) (s : State) : Out :=
  let k := keyOf w TIME_CONV_CTRL
  if !opOn s k then .next s
  else
    let r := convert s (fld s k 6 4) (fld s k 2 0) (rd64 s (keyOf w (TIME_CONV_IN_LO 0)) (keyOf w (TIME_CONV_IN_LO 1)))
    .next (setOp (wrN (wr64 s (keyOf w (TIME_CONV_OUT_LO 0)) (keyOf w (TIME_CONV_OUT_LO 1)) r.2)
      (keyOf w TIME_CONV_STAT) r.1) k false)

/-! ## 1PPS out (R144) -/

/-- The time of PPS_OUT's scale at FT, where the scale has one. -/
def ppsScale (s : State) : Option Int :=
  let sc := fld s TIME_PPS_OUT 29 27
  if sc = 0 then some s.ft
  else
    let r := ftToPt s (sc - 1) s.ft
    if r.1 = cNone then none else some r.2

/-- PPS_OUT rises at a whole second of its scale plus OFFSET_NS. -/
def execPpsOutRise (now : Nat) (s0 : State) : Out :=
  let s := advance s0 now
  match ppsScale s with
  | none => .next s
  | some t =>
    if ppsMay s && decide ((t - rdS s TIME_PPS_OUT_OFF) % 1000000000 = 0) then
      .next { s with pps := { s.pps with out := true, fall := (t + (fld s TIME_PPS_OUT 16 7 * 1000000 : Nat)).toNat } }
    else .next s

/-- PPS_OUT falls WIDTH_MS after its rise. -/
def execPpsOutFall (now : Nat) (s0 : State) : Out :=
  let s := advance s0 now
  match ppsScale s with
  | none => .next { s with pps := { s.pps with out := false } }
  | some t => if s.pps.out && decide ((s.pps.fall : Int) ≤ t) then .next { s with pps := { s.pps with out := false } } else .next s

/-! ## The reference (R138) and the slew (R136) -/

def execRefLost (s : State) : Out :=
  if flag s TIME_STATUS 8 then
    .next (irq (setFlag { s with disc := { s.disc with refLost := some s.ft } } TIME_STATUS 8 false) pgTime 3)
  else .next s

def execRefBack (s : State) : Out :=
  if flag s TIME_STATUS 8 then .next s
  else .next (irq (setFlag { s with disc := { s.disc with refLost := none, lostNs := noRefNs s } } TIME_STATUS 8 true) pgTime 4)

/-- Time passes, and SLEWING and FAR follow the remainder. -/
def execSlewComplete (now : Nat) (s : State) : Out := .next (showSlew (advance s now))

/-! ## Register writes (R159 to R163) -/

/-- Whether a source that TIME_CTRL.SRC can name is enabled. -/
def srcEnabled (s : State) (src : Nat) : Bool :=
  if src = srcPps then flag s TIME_PPS_IN 16 else flag s (TIME_PT_CFG (src - 1)) 31

/-- A write of TIME_CTRL (R159); one of SRC wins over a qualification of the same cycle (R158). -/
def timeCtrlWrite (s : State) (w : Who) (v : Word) : State :=
  let old := srcSel s
  let new := bits v 2 0
  if new = old ∨ 5 < new then plainWrite s w TIME_CTRL v
  else if new = 0 then enterFree (plainWrite (discardQual s) w TIME_CTRL v)
  else if !srcEnabled s new then wErr (plainWrite s w TIME_CTRL (putBits v 2 0 old)) w TIME_CTRL 0x0101
  else enterAcquire (plainWrite (discardQual s) w TIME_CTRL v)

def execTimeCtrlWrite (w : Who) (v : Word) (s : State) : Out :=
  .next (guardW s w 4 TIME_CTRL (fun t => timeCtrlWrite t w v))

/-- A write of TIME_RATE_MAN, clamped to ±200 ppm; in FREE it is the rate in force (R131, R160). -/
def rateManWrite (s : State) (v : Word) : State :=
  let s1 := wrN s TIME_RATE_MAN (twos 32 (clampI (-858993) 858993 (sx 32 v.toNat)))
  if discState s1 = dFree then setRate s1 (manRate s1) else s1

/-- A write of TIME_PPS_IN: disabling the 1PPS input that disciplines FT loses the source (R159). -/
def ppsInWrite (s : State) (w : Who) (v : Word) : State :=
  let s1 := plainWrite s w TIME_PPS_IN v
  if flag s TIME_PPS_IN 16 && !flag s1 TIME_PPS_IN 16 then
    srcLost { s1 with pps := { s1.pps with acc := none, good := 0 } } srcPps
  else s1

/-- A write of TIME_PT_CFG (R159, R161). PORTS = 0b00 in a write that leaves EN at 1 is a reserved encoding: it is dropped for its
field (R13), so that PORTS keeps its value. -/
def ptCfgWrite (s : State) (w : Who) (n : Nat) (v0 : Word) : State :=
  let a := TIME_PT_CFG n
  let bad := decide (enAct s a v0 31 = .enable) && bits v0 30 29 == 0
  let v := if bad then putBits v0 30 29 (fld s a 30 29) else v0
  let s1 := enWrite s w a v 31 0x0104 (fun _ => none)
    (fun t => setPtState (setPtp t n { ptpOf t n with syncs := 0, lastAnn := none, foreign := [], req := none, sync := none }) n dAcquire)
    (fun t => setPtState (ptLost t n) n (if (ptpOf t n).everLocked then dHoldover else dFree))
  if bad then wErr s1 w a errReservedEnc else s1

/-- A write of TIME_MP_CFG (R151, R163). -/
def mpCfgWrite (s : State) (w : Who) (v : Word) : State :=
  if nbit v.toNat 31 && !encOn s (bits v 26 24) then wErr s w TIME_MP_CFG 0x0102
  else
    let s1 := plainWrite s w TIME_MP_CFG v
    if flag s TIME_MP_CFG 31 && flag s1 TIME_MP_CFG 31 then s1
    else setFlag { s1 with mp := { s1.mp with valid := false } } TIME_MP_STATUS 0 false

/-- A write of a register of the time unit's pages. -/
def timeWrite (s : State) (w : Who) (a : Nat) (v : Word) : State :=
  if a = TIME_CTRL then timeCtrlWrite s w v
  else if a = TIME_RATE_MAN then rateManWrite s v
  else if a = TIME_PPS_OUT then ppsGate (plainWrite s w a v)
  else if a = TIME_PPS_IN then ppsInWrite s w v
  else if pgPtp 0 ≤ a ∧ a < pgSrv ∧ a % 4096 = 0x40 then ptCfgWrite s w ((a - pgPtp 0) / 4096) v
  else if pgSrv ≤ a ∧ a < pgMp ∧ 0x100 ≤ a % 4096 ∧ a % 32 = 0 then
    staticWrite s w a v (portOn s ((a % 4096 - 0x100) / 32)) 0x0104
  else if a = TIME_MP_CFG then mpCfgWrite s w v
  else if pgConv ≤ a ∧ a < pgConv + 0x1000 then convWrite s w a v
  else plainWrite s w a v

/-! ## Servos (R145 to R149) -/

/-- map(T) of a servo. -/
def srvMap (x : SrvSt) (t : Int) : Int := x.a + (t - x.t0) * 1000 + asr ((t - x.t0) * x.rate) 32

/-- TIME_SRV_STATUS, _RATE and _ERR show the servo. -/
def showServo (s : State) (p : Nat) : State :=
  let x := servo s p
  let st := match x.mode with | .idle => 0 | .acquire => 1 | .track => 2
  wrS (wrS (setFld s (TIME_SRV_STATUS p) 1 0 st) (TIME_SRV_RATE p) x.rate) (TIME_SRV_ERR p) x.err

/-- ACQUIRE with cnt 0 (R149). -/
def srvAcquire (s : State) (p : Nat) : State := showServo (setServo s p { servo s p with mode := .acquire, cnt := 0 }) p

/-- The servo is IDLE while its port is disabled (R162). -/
def srvIdle (s : State) (p : Nat) : State := showServo (setServo s p { servo s p with mode := .idle, cnt := 0 }) p

/-- One pair of R146; the servo of a disabled port is IDLE and takes none. -/
def srvPair (s : State) (p : Nat) (t a : Int) : State :=
  if (servo s p).mode = .idle then s else
  let x := servo s p
  let cfg := TIME_SRV_CFG p
  let lat : Int := (fld s cfg 31 16 : Nat)
  let x1 := if x.mode = .acquire ∧ x.cnt = 0 then { x with a := a - lat, t0 := t, rate := 0, tlast := t } else x
  let e := a - srvMap x1 t
  let emin := if x1.cnt = 0 then e else min x1.emin e
  let x2 := { x1 with emin := emin, cnt := x1.cnt + 1 }
  if x2.cnt < 2 ^ fld s cfg 15 12 then showServo (setServo s p x2) p
  else
    let err := emin - lat
    let span := max (t - x2.tlast) 1
    let lim := Int.tdiv (span * ((fld s (TIME_SRV_SLEW p) 8 0 : Nat) : Int)) 1000
    let a' := x2.a + clampI (-lim) lim (asr err (fld s cfg 11 8))
    let rate := if x2.mode = .acquire then x2.rate
      else x2.rate + asr (Int.tdiv (err * 4294967296) span) (fld s cfg 7 4)
    let beyond := (2 * (port s p).clkAcc + 100) * 429497 < absI rate
    let x3 := { x2 with a := a', err := err
                        rate := if beyond then 0 else rate
                        mode := if beyond then .acquire else .track }
    let x4 := if 16777216 ≤ t - x3.t0 then { x3 with a := srvMap x3 t, t0 := t } else x3
    let s1 := showServo (setServo s p { x4 with cnt := 0, tlast := t }) p
    if beyond then irq (wrN (bump s1 (TIME_SRV_RANGE_CNT p)) TIME_SRV_PORT p) pgSrv 0
    else if x2.mode = .acquire then irq (wrN s1 TIME_SRV_PORT p) pgSrv 1
    else s1

/-- The stamp of a sensor time in 16 ns units: nearest, ties up (R147). -/
def srvStamp (x : SrvSt) (t : Int) : Nat := ((srvMap x t + 8) / 16).toNat

/-! ## The periodic cairn (R155) -/

def execPeriodicCairn (now : Nat) (s0 : State) : Out :=
  let s := advance s0 now
  if s.cairns.isEmpty then .next s
  else if now < lastCairnFt s + 16 * fld s TIME_CAIRN 23 0 then .next s
  else .next (insertCairn s rsnPeriodic)

/-! ## Live registers and soft reset (R157) -/

/-- What a register of the time unit reads as where it is not held as a word. -/
def timeLive (s : State) (a : Nat) : Option Nat :=
  if a = TIME_FT_LO then some (s.ft % 4294967296)
  else if a = TIME_SLEW_REM then some (twos 32 (satS 32 s.disc.slew))
  else if a = TIME_HOLD_AGE then some (satN 0xFFFFFFFF (holdAge s / 1000000))
  else if a = TIME_UNC then some (satN 0xFFFFFFFF (uncNs s))
  else if pgPtp 0 ≤ a ∧ a < pgSrv ∧ a % 4096 = 0x60 then
    let n := (a - pgPtp 0) / 4096
    if ptState s n = dLocked ∨ (ptpOf s n).segs.isEmpty then some 0
    else some (satN 0xFFFFFFFF ((s.ft - (ptpOf s n).lastSync) / 1000000))
  else if a = TIME_MP_ANGLE then some s.mp.angle
  else none

/-- Whether a soft reset of a page of the time unit is refused with ERR_BOUND. -/
def timeSrstRefused (s : State) (pg : Nat) : Bool := (pg == pgSrv || pg == pgMp) && anyBound s

/-- The soft reset of a page of the time unit (R149, R157). -/
def timeSrst (s : State) (pg : Nat) : State :=
  if pg = pgTime then
    let r := s.disc.rate
    let s1 := softRegs s pg
    enterFree (wrN s1 TIME_RATE_MAN (twos 32 (clampI (-858993) 858993 (asr r 8))))
  else if pgPtp 0 ≤ pg ∧ pg < pgSrv then
    let n := (pg - pgPtp 0) / 4096
    let s1 := srcLost (softRegs s pg) (n + 1)
    let zs := [TIME_PT_SEG n 0, TIME_PT_SEG n 1, TIME_PT_SEG n 2, TIME_PT_SEG n 3, TIME_PT_PATH n,
      TIME_PT_MASTER n 0, TIME_PT_MASTER n 1, TIME_PT_MASTER n 2]
    setPtState (zs.foldl (fun t a => wrN t a 0) (setPtp s1 n {})) n dFree
  else if pg = pgSrv then
    (List.range 32).foldl (fun t p => if (servo t p).mode = .idle then t else srvAcquire t p) (softRegs s pg)
  else if pg = pgMp then
    setFlag { softRegs s pg with mp := { s.mp with valid := false } } TIME_MP_STATUS 0 false
  else softRegs s pg

end Sys2Proof.Machine
end

