-- ==== Sys2Proof/Machine/Motion.lean ====
section
/-!
DEFINITION. Encoders with their velocity estimator and slip detector, inertial ports, decimation chains, and the machine
phase as it follows the encoder (spec/05_motion_inputs.md; spec/04_time_bases.md R151 to R153).
-/
namespace Sys2Proof.Machine
open Sys2Proof

def pgEnc : Nat := 0x50000
def pgImu : Nat := 0x51000
def pgDec : Nat := 0x52000

def encD (_ : Nat) : EncSt := {}
def imuD (_ : Nat) : ImuSt := {}
def chainD (_ : Nat) : ChainSt := {}

def encOf (s : State) (e : Nat) : EncSt := tget encD s.enc e
def setEnc (s : State) (e : Nat) (x : EncSt) : State := { s with enc := tset encD s.enc e x }
def imuOf (s : State) (p : Nat) : ImuSt := tget imuD s.imu p
def setImu (s : State) (p : Nat) (x : ImuSt) : State := { s with imu := tset imuD s.imu p x }
def chainOf (s : State) (c : Nat) : ChainSt := tget chainD s.chain c
def setChain (s : State) (c : Nat) (x : ChainSt) : State := { s with chain := tset chainD s.chain c x }

/-- An interrupt of a set of a motion page: MOT_IRQ_SRC holds the set. -/
def motIrq (s : State) (pg set bit : Nat) : State := irq (wrN s (pg + 0x40) set) pg bit

/-- The fusion period in ns (R190). -/
def fusPeriod (s : State) : Nat := fld s FUS_CTRL 21 12 * 1000

/-! ## Encoder inputs (R164 to R167) -/

/-- One sample through a level filter: the filtered level and the run of samples that disagree with it (R164). -/
def filtStep (n : Nat) (lvl : Bool) (run : Nat) (x : Bool) : Bool × Nat :=
  if x = lvl then (lvl, 0)
  else if n ≤ run then (x, 0)
  else (lvl, run + 1)

/-- The position of an encoder. -/
def encPos (s : State) (e : Nat) : Int := rdS s (MOT_ENC_POS e)

/-- One counted edge (R165, R166): the position moves, and a capture entry follows unless the capture FIFO is full. -/
def countEdge (s : State) (e : Nat) (up : Bool) (cap : Nat) (full : Bool) : State :=
  let up := if flag s (MOT_ENC_CFG e) 27 then !up else up
  let d : Int := if up then 1 else -1
  let p := twos 32 (encPos s e + d)
  let s1 := wrN s (MOT_ENC_POS e) p
  let x := encOf s1 e
  let t := cap - fld s (MOT_ENC_CFG e) 30 28 * 5
  let x1 := { x with dir := d, since := x.since + d, turned := x.turned || decide (x.one = -d)
                     one := if x.one = 0 then d else x.one
                     dirs := if x.dir = d then x.dirs else (t, d) :: x.dirs }
  if full then bump (setEnc s1 e x1) (MOT_ENC_CAP_DROP e)
  else setEnc s1 e { x1 with caps := (t, sx 32 p) :: x1.caps }

/-- One 5 ns sample of A and B. With x ≠ y the levels of A and B before an edge of one of them, an edge of A to the level
that B does not have counts up, and so does an edge of B to the level that A has (R165, ×4 decoding; log entry 24). -/
def abSample (e : Nat) (full : Bool) (s : State) (t : Nat) (x : Bool × Bool) : State :=
  let r := encOf s e
  let n := fld s (MOT_ENC_CFG e) 30 28
  let (a, ra) := filtStep n r.fa r.ra x.1
  let (b, rb) := filtStep n r.fb r.rb x.2
  let s1 := setEnc s e { r with fa := a, fb := b, ra := ra, rb := rb }
  if a ≠ r.fa ∧ b ≠ r.fb then
    motIrq (bump (setEnc s1 e { encOf s1 e with qerr := true }) (MOT_ENC_QERR_CNT e)) pgEnc e 0
  else if a ≠ r.fa then countEdge s1 e (decide (a ≠ b)) t full
  else if b ≠ r.fb then countEdge s1 e (decide (b = a)) t full
  else s1

/-! ## Machine phase at an index (R151 to R153) -/

/-- The machine count that a position estimate gives, from the position at an index and the count there (R168). -/
def mpFrom (s : State) (e : Nat) (base p pe : Int) : Int :=
  base + Int.tdiv ((pe - p * 65536) * 4294967296) (fld s (MOT_ENC_CPR e) 23 0 * 65536 : Nat)

/-- The machine count at an instant, from the last index at or before it: where no edge was captured after that index, PE is
still counted from before a reset of the position (DESIGN CHOICE, log entry 154). -/
def mpAt (s : State) (e tf : Nat) : Option Int :=
  (s.mp.idxs.find? (fun r => decide (r.1 ≤ tf))).map (fun r =>
    let x := encOf s e
    let fresh := match x.t1 with | some t => decide (r.1 < t) | none => true
    mpFrom s e r.2.1 (if fresh then r.2.2.2 else r.2.2.1) x.pe)

/-- MP at a count. -/
def setMp (s : State) (m : Int) : State :=
  { s with mp := { s.mp with angle := twos 32 m, rev := m / 4294967296 } }

/-- The encoder that gives MP its phase, where MP is enabled. -/
def mpEnc (s : State) (e : Nat) : Bool := flag s TIME_MP_CFG 31 && fld s TIME_MP_CFG 26 24 == e

/-- The index of MP's encoder at FT t, with the positions before and after it. -/
def mpIndex (s : State) (e t : Nat) (p0 p1 : Int) : State :=
  let off : Int := (rdN s TIME_MP_ANGLE_OFF : Nat)
  let put (s : State) (l : List (Nat × Int × Int × Int)) (c : Int) : State :=
    setMp { s with mp := { s.mp with valid := true, idxs := keep 64 ((t, c, p0, p1) :: l) } } c
  match s.mp.valid, s.mp.idxs with
  | true, r :: l =>
    let c := mpFrom s e r.2.1 r.2.2.2 (p0 * 65536)
    let d := sx 32 (twos 32 (c - off))
    put (if 67108864 < absI d then irq s pgMp 1 else s) (r :: l) (c - d)
  | _, _ =>
    let s1 : State := { s with mp := { s.mp with hist := [] }, out := { s.out with sheets := [] } }
    irq (setFlag (put s1 [] off) TIME_MP_STATUS 0 true) pgMp 0

/-- An accepted index at FT t (R167). -/
def encIndex (s : State) (e t : Nat) : State :=
  let x := encOf s e
  let bad := x.idx && !x.turned && decide (absI x.since ≠ fld s (MOT_ENC_CPR e) 23 0)
  let s1 := if bad then motIrq (bump s (MOT_ENC_COUNT_ERR_CNT e)) pgEnc e 1 else s
  let p0 := encPos s1 e
  let s2 := if flag s1 (MOT_ENC_CFG e) 25 then wrN s1 (MOT_ENC_POS e) 0 else s1
  let s3 := setFlag (setEnc s2 e { encOf s2 e with idx := true, since := 0, one := x.dir, turned := false }) (MOT_ENC_STATUS e) 0 true
  if mpEnc s3 e then mpIndex s3 e t p0 (encPos s3 e) else s3

/-- One 5 ns sample of Z, at FT t. -/
def zSample (e : Nat) (s : State) (t : Nat) (x : Bool) : State :=
  let r := encOf s e
  let n := fld s (MOT_ENC_CFG e) 30 28
  let (z, rz) := filtStep n r.fz r.rz x
  let s1 := setEnc s e { r with fz := z, rz := rz, zin := x }
  if z && !r.fz && (!flag s (MOT_ENC_CFG e) 26 || (r.fa && r.fb)) then encIndex s1 e (t - n * 5) else s1

/-- Samples of A, B and Z, 5 ns apart, from FT t on: in each, the count is applied first and the index second (R167). -/
def encSamples (e : Nat) (full : Bool) : Nat → List (Bool × Bool × Bool) → State → State
  | _, [], s => s
  | t, x :: r, s => encSamples e full (t + 5) r (zSample e (abSample e full s t (x.1, x.2.1)) t x.2.2)

/-- Samples of A and B of an encoder from FT t on (the capture FT less the path delay of R150), with Z as it was; `full` says that
the capture FIFO has no room. -/
def execEncoderEdge (e t : Nat) (smp : List (Bool × Bool)) (full : Bool) (s0 : State) : Out :=
  let s := advance s0 (t + 5 * smp.length)
  if !encOn s e then .next s
  else .next (encSamples e full t (smp.map (fun x => (x.1, x.2, (encOf s e).zin))) s)

/-- Samples of A, B and Z of an encoder from FT t on. -/
def execEncoderIndex (e t : Nat) (smp : List (Bool × Bool × Bool)) (full : Bool) (s0 : State) : Out :=
  let s := advance s0 (t + 5 * smp.length)
  if !encOn s e then .next s else .next (encSamples e full t smp s)

/-! ## The estimator (R168) -/

/-- A quotient, truncated toward zero; by zero the spec states none, and the value is left open (log entry 3). -/
def quo (a b : Int) : Int := if b = 0 then Config.openInt 1 [a] else Int.tdiv a b

/-- The direction of the last counted edge at or before an instant; 0 where there was none. -/
def dirAt (x : EncSt) (tf : Nat) : Int := ((x.dirs.find? (fun d => decide (d.1 ≤ tf))).map (·.2)).getD 0

/-- The direction changes that instants from tf on need. -/
def dirsFrom (tf : Nat) : List (Nat × Int) → List (Nat × Int)
  | [] => []
  | d :: t => if tf < d.1 then d :: dirsFrom tf t else [d]

/-- The estimate of an encoder at instant tf, in 64-bit arithmetic. -/
def estimate (s : State) (e tf : Nat) : State :=
  let x := encOf s e
  let vwin := fld s (MOT_ENC_WIN e) 31 16 * 1000
  let stop := fld s (MOT_ENC_WIN e) 15 0 * 1000
  let dir := dirAt x tf
  let y := { x with rev := decide (dir < 0), dirs := dirsFrom tf x.dirs }
  match x.caps.filter (fun c => decide (c.1 ≤ tf)) with
  | [] => setEnc s e { y with v := 0, pe := encPos s e * 65536, stopped := true, low := false, t1 := none }
  | (t1, p1) :: rest =>
    let y := { y with t1 := some t1, caps := x.caps.filter (fun c => decide (t1 ≤ c.1 + vwin)) }
    if t1 + stop ≤ tf then setEnc s e { y with v := 0, pe := p1 * 65536, stopped := true, low := false }
    else
      match (rest.filter (fun c => decide (t1 ≤ c.1 + vwin))).getLast? with
      | none =>
        setEnc s e { y with v := dir * quo 16777216000 ((tf : Int) - (t1 : Int)), pe := p1 * 65536, stopped := false, low := true }
      | some (t0, p0) =>
        let v := quo ((p1 - p0) * 16777216 * 1000) ((t1 : Int) - (t0 : Int))
        let d := asr (Int.tdiv (v * ((tf : Int) - (t1 : Int))) 1000) 8
        setEnc s e { y with v := v, pe := p1 * 65536 + clampI (-65535) 65535 d, stopped := false, low := false }

/-! ## The slip detector (R169, R170) -/

/-- The detector's state set, with the log and the interrupt where it changes; MOT_ENC_STATUS shows it. -/
def setSlip (s : State) (e : Nat) (b : Bool) (why : Nat) : State :=
  if (encOf s e).slip = b then s
  else
    let s1 := setFlag (setEnc s e { encOf s e with slip := b }) (MOT_ENC_STATUS e) 4 b
    let s2 := if b then bump s1 (MOT_ENC_SLIP_CNT e) else s1
    motIrq (addLogData s2 .voting (b2n !b) (b2n b) why [e]) pgEnc e (if b then 2 else 3)

/-- The reasons of a change: a jump, the pair test, CLEAR_N good instants, the override. -/
def rsnJump : Nat := 1
def rsnPair : Nat := 2
def rsnClear : Nat := 3
def rsnOvr : Nat := 4

/-- SLIP_OVR forces the detector's state (DESIGN CHOICE, log entry 153: when it is taken back, the state stays until the tests
change it). -/
def slipOvr (s : State) (e : Nat) : State :=
  let o := fld s (MOT_ENC_OVR e) 1 0
  if o = 1 then setSlip s e false rsnOvr else if o = 2 then setSlip s e true rsnOvr else s

/-- The two tests at an instant; `v0` and `tf0` are of the instant before. They run under an override too, which alone then sets the
state. -/
def slipTest (s : State) (e tf : Nat) (v0 : Int) (tf0 : Option Nat) : State :=
  let x := encOf s e
  let cfg := MOT_ENC_CFG e
  let jump := match tf0 with
    | none => false
    | some t0 => decide (Int.tdiv ((fld s (MOT_ENC_SLIP_CFG e) 31 16 : Int) * ((tf : Int) - (t0 : Int))) 1000 < (absI (x.v - v0) : Int))
  let vref := (encOf s (fld s cfg 23 21)).v
  let pair := flag s cfg 24 &&
    decide (asr ((fld s (MOT_ENC_SLIP_TOL e) 15 0 : Int) * (absI vref : Int)) 16
      < (absI (x.v - asr ((rdN s (MOT_ENC_SLIP_RATIO e) : Int) * vref) 16) : Int))
  let pn := if pair then x.pairN + 1 else 0
  let gn := if jump || pair then 0 else x.goodN + 1
  let s1 := setEnc s e { x with pairN := pn, goodN := gn }
  if fld s (MOT_ENC_OVR e) 1 0 ≠ 0 then slipOvr s1 e
  else if !x.slip && jump then setSlip s1 e true rsnJump
  else if !x.slip && decide (fld s (MOT_ENC_SLIP_CFG e) 15 8 ≤ pn) then setSlip s1 e true rsnPair
  else if x.slip && decide (fld s (MOT_ENC_SLIP_CFG e) 7 0 ≤ gn) then setSlip s1 e false rsnClear
  else s1

/-- MOT_ENC_VEL and _STATUS show the estimate; the register takes the low 32 bits of V (log entry 151). -/
def showEnc (s : State) (e : Nat) : State :=
  let x := encOf s e
  let s1 := wrN s (MOT_ENC_VEL e) (twos 32 x.v)
  let s2 := if x.stopped && !flag s (MOT_ENC_STATUS e) 3 then motIrq s1 pgEnc e 4 else s1
  setFlag (setFlag (setFlag s2 (MOT_ENC_STATUS e) 3 x.stopped) (MOT_ENC_STATUS e) 2 x.low) (MOT_ENC_STATUS e) 1 x.rev

/-- The moments of a FIFO of CD_TIME to CD_FAB that may still be in it: its latency is at most 4 fcy (R180). -/
def fifoNow (now : Nat) (l : List Nat) : List Nat := l.filter (fun t => decide (now < t + 3))

/-- The estimate goes to fusion, or is dropped where its FIFO of 32 is full (R180). -/
def encEmit (s : State) (e tf : Nat) : State :=
  let x := encOf s e
  let q := fifoNow tf x.fifo
  let y := { x with tf := some tf, qerr := false, est := none, fifo := q }
  let o : EncEst :=
    { tf := tf, v := x.v, pe := x.pe, stopped := x.stopped, low := x.low, rev := x.rev, slip := x.slip, qerr := x.qerr }
  if 32 ≤ q.length then bump (setEnc s e y) (MOT_ENC_CAP_DROP e)
  else setEnc s e { y with fifo := q ++ [tf], est := some o }

/-- The samples that wait to enter a chain, one more. -/
def chainFeed (s : State) (c : Nat) (v : ChainVal) : State := setChain s c { chainOf s c with inq := (chainOf s c).inq ++ [v] }

/-- The chains that are enabled on a source. -/
def chainsOn (s : State) (typ src : Nat) : List Nat :=
  (List.range 16).filter (fun c => flag s (MOT_DEC_CFG c) 31 && fld s (MOT_DEC_CFG c) 30 30 == typ && fld s (MOT_DEC_CFG c) 29 27 == src)

/-- Every enabled encoder's estimate at the instant tf, its slip tests, the chains that it feeds, and MP with its history
(R153, R168, R169). -/
def encInstant (s : State) (tf : Nat) : State :=
  let on := (List.range 8).filter (encOn s)
  let before := on.map (fun e => ((encOf s e).v, (encOf s e).tf))
  let s1 := on.foldl (fun t e => estimate t e tf) s
  let s2 := (on.zip before).foldl (fun t x => slipTest t x.1 tf x.2.1 x.2.2) s1
  let s3 := on.foldl (fun t e =>
    let t1 := encEmit (showEnc t e) e tf
    (chainsOn t1 1 e).foldl (fun u c =>
      chainFeed u c { stamp := tf, vals := [sx 24 (twos 24 (asr (encOf t1 e).v 8))], gap := false, sat := false }) t1) s2
  let e := fld s3 TIME_MP_CFG 26 24
  match mpAt s3 e tf with
  | some m =>
    if flag s3 TIME_MP_CFG 31 && s3.mp.valid && encOn s3 e then
      let s4 := setMp s3 m
      let r := (encOf s4 e).rev
      setFlag { s4 with mp := { s4.mp with reverse := r, hist := keep 65536 ((tf, s4.mp.angle, s4.mp.rev, r) :: s4.mp.hist) } }
        TIME_MP_STATUS 1 r
    else s3
  | none => s3

/-! ## Inertial ports (R171 to R174) -/

def imuRun : Nat := 1
def imuLost : Nat := 2
def imuState (s : State) (p : Nat) : Nat := fld s (MOT_IMU_STATUS p) 1 0

/-- The command bytes of a transaction, CMD_LEN of CMD with the high byte first (R172; DEDUCED, log entry 155: of one byte the high
one). -/
def imuCmd (s : State) (p : Nat) : List Nat :=
  [fld s (MOT_IMU_CFG p) 15 8, fld s (MOT_IMU_CFG p) 7 0].take (fld s (MOT_IMU_CFG p) 23 22)

/-- The transaction of a sample as the bus sees it (R171, R172). -/
def imuXfer (s : State) (p : Nat) : ImuCmd :=
  let n := fld s (MOT_IMU_CFG p) 21 19 + 12
  if flag s (MOT_IMU_CFG p) 30 then .i3c (imuOf s p).addr (imuCmd s p) n else .spi (flag s (MOT_IMU_CFG p) 27) (imuCmd s p) n

/-- The duration of a transaction in ns (R174). -/
def imuDur (s : State) (p : Nat) : Nat :=
  let n := fld s (MOT_IMU_CFG p) 23 22 + fld s (MOT_IMU_CFG p) 21 19
  let k := fld s (MOT_IMU_CFG p) 29 28
  if flag s (MOT_IMU_CFG p) 30 then (9 * (n + 14) + 4) * at0 [80, 160, 320, 1000] k else 8 * (n + 12) * at0 [20, 40, 80, 160] k + 40

/-- A trigger at FT `now` whose sample is stamped at t: a transaction starts and takes its duration, or the one before is still in
progress (R174). -/
def imuTrigger (s : State) (p now t : Nat) : State :=
  let x := imuOf s p
  if imuState s p ≠ imuRun ∨ inBivouac s = true then s
  else if x.busy.any (fun b => decide (now < b.2)) then motIrq (bump s (MOT_IMU_OVERRUN_CNT p)) pgImu p 0
  else setImu s p { x with busy := x.busy ++ [(t - fld s (MOT_IMU_LAT p) 15 0, now + imuDur s p)], cmds := x.cmds ++ [imuXfer s p] }

/-- One 5 ns sample of DRDY, with a filter of FILT = 1 (R164, R173); a rising edge of its filtered level triggers. -/
def drdySample (p : Nat) (full : Bool) (s : State) (t : Nat) (x : Bool) : State :=
  let r := imuOf s p
  let (d, rd) := filtStep 1 r.fd r.rd x
  let s1 := setImu s p { r with fd := d, rd := rd }
  if !d || r.fd || flag s (MOT_IMU_CFG p) 26 then s1
  else if full then bump s1 (MOT_IMU_CAP_DROP p)
  else imuTrigger s1 p t (t - 5)

def drdySamples (p : Nat) (full : Bool) : Nat → List Bool → State → State
  | _, [], s => s
  | t, x :: r, s => drdySamples p full (t + 5) r (drdySample p full s t x)

/-- Samples of DRDY, 5 ns apart, from FT t on (the capture FT less the path delay); `full` says that the capture FIFO has no
room. -/
def execImuDrdy (p t : Nat) (smp : List Bool) (full : Bool) (s0 : State) : Out :=
  let s := advance s0 (t + 5 * smp.length)
  if !flag s (MOT_IMU_CFG p) 31 then .next s else .next (drdySamples p full t smp s)

/-- The timer's trigger at an FT that is a multiple of PERIOD_NS (R173). -/
def execImuTimerTrigger (p now : Nat) (s0 : State) : Out :=
  let s := advance s0 now
  if flag s (MOT_IMU_CFG p) 26 && rdN s (MOT_IMU_PERIOD p) != 0 && now % rdN s (MOT_IMU_PERIOD p) == 0 then
    .next (imuTrigger s p now now)
  else .next s

/-- The 16-bit values of a transaction's data bytes, in the order of their delivery. -/
def imuVals (be : Bool) : Nat → List Byte → List Int
  | 0, _ => []
  | k + 1, b => (let x := b.take 2; sx 16 (ofLe (if be then x.reverse else x))) :: imuVals be k (b.drop 2)

/-- The transaction of a port ends: with the bytes read after the command, at the end of its duration, or over I3C by a NACK
(R172, R174). -/
def execImuTransactionDone (p : Nat) (d : Option (List Byte)) (now : Nat) (s0 : State) : Out :=
  let s := advance s0 now
  let x := imuOf s p
  match x.busy with
  | [] => .next s
  | (st, fin) :: rest =>
    match d with
    | none =>
      if !flag s (MOT_IMU_CFG p) 30 then .next s else
      let s1 := motIrq (bump (setImu s p { x with busy := rest, nacks := x.nacks + 1 }) (MOT_IMU_NACK_CNT p)) pgImu p 2
      if 3 ≤ x.nacks + 1 then .next (motIrq (wrN s1 (MOT_IMU_STATUS p) imuLost) pgImu p 1) else .next s1
    | some b =>
      if s.ft < fin then .next s else
      let vs := imuVals (flag s (MOT_IMU_CFG p) 25) 6 (padTo 12 (b.drop (fld s (MOT_IMU_CFG p) 21 19)))
      let lo (i : Nat) : Nat := twos 16 (vs.getD i 0)
      let s1 := wrN (wrN (wrN s (MOT_IMU_LAST0 p) (lo 0 + 65536 * lo 1)) (MOT_IMU_LAST1 p) (lo 2 + 65536 * lo 3))
        (MOT_IMU_LAST2 p) (lo 4 + 65536 * lo 5)
      let s2 := bump (setImu s1 p { x with busy := rest, nacks := 0 }) (MOT_IMU_SAMPLE_CNT p)
      .next ((chainsOn s2 0 p).foldl (fun t c =>
        chainFeed t c { stamp := st, vals := vs.map (· * 256), gap := false, sat := false }) s2)

/-! ## Decimation chains (R175 to R180) -/

/-- The taps of a response (R175). -/
def respTaps (r : Nat) : Nat := at0 [7, 11, 15, 19, 23, 27, 31, 35, 39, 47, 55, 63] r

/-- Whether numbers can be the coefficients of a response: as many as it has taps, 20-bit signed each, with a DC gain of exactly 1
in Q1.19 (R175). -/
def romOk (r : Nat) (l : List Int) : Bool :=
  l.length == respTaps r && l.all (fun c => decide (-524288 ≤ c) && decide (c ≤ 524287)) && l.foldl (· + ·) 0 == 524288

/-- The coefficients of a response: the ROM's own, which are not printed, within what R175 says of them; three taps about the centre
stand in for numbers that it rules out. -/
def romTaps (r : Nat) : List Int :=
  if romOk r (Config.halfBand r) then Config.halfBand r
  else (List.range (respTaps r)).map (fun i => if i = respTaps r / 2 then 262144 else if i + 1 = respTaps r / 2 ∨ i = respTaps r / 2 + 1 then 131072 else 0)

def romTap (r i : Nat) : Int := (romTaps r).getD i 0

def decStages (s : State) (c : Nat) : Nat := fld s (MOT_DEC_CFG c) 3 0
def decResp (s : State) (c i : Nat) : Nat := fld s (MOT_DEC_RESP c) (4 * i + 3) (4 * i)

/-- T_in of a chain in ns (R177). -/
def decTin (s : State) (c : Nat) : Nat :=
  if flag s (MOT_DEC_CFG c) 30 then fusPeriod s else rdN s (MOT_IMU_PERIOD (fld s (MOT_DEC_CFG c) 29 27))

/-- The time between a chain's outputs (R195 Tc). -/
def decTc (s : State) (c : Nat) : Nat := 2 ^ decStages s c * decTin s c

/-- MOT_DEC_DELAY (R177). -/
def decDelay (s : State) (c : Nat) : Nat :=
  ((List.range (decStages s c)).map (fun i => (respTaps (decResp s c i) - 1) / 2 * 2 ^ i * decTin s c)).foldl (· + ·) 0

def cIdle : Nat := 0
def cWarm : Nat := 1
def cRun : Nat := 2
def cNoInput : Nat := 3
def decState (s : State) (c : Nat) : Nat := fld s (MOT_DEC_STATUS c) 1 0

/-- The delay lines of a chain emptied. -/
def chainFlush (s : State) (c : Nat) : State := setChain s c { chainOf s c with lines := [], cnt := [], lastIn := none }

/-- Σ of taps times values. -/
def dotTaps : List Int → List Int → Int
  | c :: r, x :: t => c * x + dotTaps r t
  | _, _ => 0

/-- Channel k of a delay line. -/
def lineChan (l : List ChainVal) (k : Nat) : List Int := l.map (fun v => v.vals.getD k 0)

/-- A stage's output from a full delay line (newest first): each channel rounded and saturated to 24 bits (R176), stamped
at the centre (R177). At the first stage, a gap before the oldest value lies outside the window. -/
def stageOut (first : Bool) (r : Nat) (l : List ChainVal) : ChainVal :=
  let raw := (List.range (match l with | v :: _ => v.vals.length | [] => 0)).map (fun k => asr (dotTaps (romTaps r) (lineChan l k) + 262144) 19)
  let inner := if first then l.dropLast else l
  { stamp := (match l[(l.length - 1) / 2]? with | some v => v.stamp | none => 0), vals := raw.map (satS 24)
    gap := inner.any (·.gap), sat := raw.any (fun v => decide (satS 24 v ≠ v)) || l.any (·.sat) }

/-- The saturations in a stage's output. -/
def stageSats (r : Nat) (l : List ChainVal) : Nat :=
  ((List.range (match l with | v :: _ => v.vals.length | [] => 0)).filter (fun k =>
    let v := asr (dotTaps (romTaps r) (lineChan l k) + 262144) 19
    decide (satS 24 v ≠ v))).length

/-- A value through stages i, i + 1, … of a chain: the lines and counts as they become, what leaves the last stage, and
the saturations met. -/
def runStages (resp : Nat → Nat) : Nat → Nat → List (List ChainVal) → List Nat → ChainVal → List (List ChainVal) × List Nat × Option ChainVal × Nat
  | _, 0, ls, cs, v => (ls, cs, some v, 0)
  | i, n + 1, ls, cs, v =>
    let taps := respTaps (resp i)
    let l := (v :: ls.headD []).take taps
    let k := cs.headD 0
    if l.length < taps then (l :: ls.tail, 0 :: cs.tail, none, 0)
    else if k = 1 then (l :: ls.tail, 0 :: cs.tail, none, 0)
    else
      let o := stageOut (i == 0) (resp i) l
      let (ls', cs', out, sats) := runStages resp (i + 1) n ls.tail cs.tail { o with sat := o.sat }
      (l :: ls', 1 :: cs', out, stageSats (resp i) l + sats)

/-- A chain's output reaches fusion (R180). -/
def chainEmit (s : State) (c : Nat) (v : ChainVal) (full : Bool) : State :=
  let s1 := if decState s c = cRun then s else motIrq (wrN s (MOT_DEC_STATUS c) cRun) pgDec c 2
  let s2 := if v.gap then bump s1 (MOT_DEC_GAP_CNT c) else s1
  let at_ := v.stamp + rdN s2 (MOT_DEC_DELAY c)
  let x := chainOf s2 c
  let q := fifoNow at_ x.fifo
  if full || decide (32 ≤ q.length) then bump s2 (MOT_DEC_FUS_DROP c)
  else
    let o : ChainOut := { seq := x.made, num := x.made % 65536, due := at_ + 2000, x := v }
    bump (setChain s2 c { x with made := x.made + 1, outs := keep 1024 (o :: x.outs), fifo := q ++ [at_] }) (MOT_DEC_OUT_CNT c)

/-- The oldest sample that waits enters a chain; `full` says that the FIFO of 32 to fusion has no room. -/
def execChainInput (c : Nat) (full : Bool) (s : State) : Out :=
  let x := chainOf s c
  match x.inq with
  | [] => .next s
  | v :: t =>
    let s1 := setChain s c { x with inq := t }
    if !flag s (MOT_DEC_CFG c) 31 || inBivouac s then .next s1
    else
      let gap := match x.lastIn with
        | none => false
        | some p => decide (3 * decTin s c < 2 * (v.stamp - p))
      let s2 := if decState s1 c = cNoInput ∨ decState s1 c = cIdle then wrN s1 (MOT_DEC_STATUS c) cWarm else s1
      let (ls, cs, out, sats) := runStages (decResp s2 c) 0 (decStages s2 c) x.lines x.cnt { v with gap := gap }
      let s3 := setChain s2 c { chainOf s2 c with lines := ls, cnt := cs, lastIn := some v.stamp, seen := s.ft }
      let s4 := if sats = 0 then s3 else motIrq (bumpN s3 (MOT_DEC_SAT_CNT c) sats) pgDec c 0
      match out with
      | none => .next s4
      | some o => .next (chainEmit s4 c o full)

/-- A chain that has had no input for 4 × T_in, since its last one or since it started to warm up (R179); in BIVOUAC it stands
still (R181). -/
def execNoInput (c now : Nat) (s0 : State) : Out :=
  let s := advance s0 now
  let up := decState s c == cWarm || decState s c == cRun
  if !flag s (MOT_DEC_CFG c) 31 || !up || inBivouac s || decide (s.ft < (chainOf s c).seen + 4 * decTin s c) then .next s
  else .next (motIrq (wrN (chainFlush s c) (MOT_DEC_STATUS c) cNoInput) pgDec c 1)

/-! ## Register writes, live registers, soft reset (R182 to R186) -/

/-- The set of an address of a motion page: its number and its offset. -/
def motSet (a : Nat) : Nat × Nat := ((a % 4096 - 0x100) / 64, (a % 4096 - 0x100) % 64)

/-- Whether a write takes the other fields of a register that holds an EN (R64): it enables, or EN stays 0. -/
def takesFlds (s : State) (a : Nat) (v : Word) : Bool :=
  match enAct s a v 31 with
  | .enable | .config => true
  | _ => false

def encCfgWrite (s : State) (w : Who) (e : Nat) (v : Word) : State :=
  if takesFlds s (MOT_ENC_CFG e) v && bits v 23 21 == e then wErr s w (MOT_ENC_CFG e) 0x0103
  else enWrite s w (MOT_ENC_CFG e) v 31 0x0101 (fun _ => none)
    (fun t => slipOvr (setEnc t e {}) e) (fun t => t)

/-- An inertial port that starts anew; in I3C mode its target gets the dynamic address 0x08 from SADDR (R171). -/
def imuEnable (s : State) (p : Nat) : State :=
  let x : ImuSt := { cmds := (imuOf s p).cmds, addr := (imuOf s p).addr }
  let y := if flag s (MOT_IMU_CFG p) 30 then { x with addr := 8, cmds := x.cmds ++ [.setdasa (fld s (MOT_IMU_I3C p) 6 0) 8] } else x
  wrN (setImu s p y) (MOT_IMU_STATUS p) imuRun

def imuCfgWrite (s : State) (w : Who) (p : Nat) (v : Word) : State :=
  enWrite s w (MOT_IMU_CFG p) v 31 0x0101
    (fun t => if flag t (MOT_IMU_CFG p) 26 && decide (rdN t (MOT_IMU_PERIOD p) < max 15625 (imuDur t p)) then some 0x0102 else none)
    (fun t => imuEnable t p)
    (fun t => wrN (setImu t p { imuOf t p with busy := [], nacks := 0, fd := false, rd := 0 }) (MOT_IMU_STATUS p) 0)

/-- Whether a chain's source is enabled. -/
def decSrcOn (s : State) (c : Nat) : Bool :=
  let n := fld s (MOT_DEC_CFG c) 29 27
  if flag s (MOT_DEC_CFG c) 30 then encOn s n else flag s (MOT_IMU_CFG n) 31

/-- A chain starts: its delay is computed, and it warms up, or waits on a disabled source (R177, R179). -/
def chainStart (s : State) (c : Nat) : State :=
  let s1 := wrN (setChain s c { seen := s.ft }) (MOT_DEC_DELAY c) (decDelay s c)
  wrN s1 (MOT_DEC_STATUS c) (if decSrcOn s1 c then cWarm else cNoInput)

/-- Whether the responses of the stages in use exist (R186). -/
def respsOk (stages resp : Nat) : Bool := (List.range stages).all (fun i => decide (nbits resp (4 * i + 3) (4 * i) ≤ 11))

def decCfgWrite (s : State) (w : Who) (c : Nat) (v : Word) : State :=
  if takesFlds s (MOT_DEC_CFG c) v && (decide (8 < bits v 3 0) || !respsOk (bits v 3 0) (rdN s (MOT_DEC_RESP c))) then wErr s w (MOT_DEC_CFG c) errReservedEnc
  else enWrite s w (MOT_DEC_CFG c) v 31 0x0101 (fun _ => none) (fun t => chainStart t c)
    (fun t => wrN (setChain t c {}) (MOT_DEC_STATUS c) cIdle)

/-- A write of a register of the motion pages. -/
def motWrite (s : State) (w : Who) (a : Nat) (v : Word) : State :=
  if a % 4096 < 0x100 ∨ 0x800 ≤ a % 4096 then plainWrite s w a v
  else
    let (n, off) := motSet a
    if pageOf a = pgEnc then
      if off = 0 then encCfgWrite s w n v
      else if off = 0x34 then
        let s1 := plainWrite s w a v
        if encOn s1 n then slipOvr s1 n else s1
      else if off ≤ 0x14 then staticWrite s w a v (encOn s n) 0x0101
      else plainWrite s w a v
    else if pageOf a = pgImu then
      if off = 0 then imuCfgWrite s w n v
      else if off ≤ 0x0C then staticWrite s w a v (flag s (MOT_IMU_CFG n) 31) 0x0101
      else plainWrite s w a v
    else if off = 0 then decCfgWrite s w n v
    else if off = 4 then
      if flag s (MOT_DEC_CFG n) 31 then wErr s w a 0x0101
      else if respsOk (decStages s n) v.toNat then plainWrite s w a v else wErr s w a errReservedEnc
    else plainWrite s w a v

/-- The ROM window (R183). -/
def motLive (s : State) (a : Nat) : Option Nat :=
  if pageOf a = pgDec ∧ 0x800 ≤ a % 4096 ∧ a % 4096 < 0x900 then
    let r := fld s MOT_DEC_ROM_SEL 3 0
    let i := (a % 4096 - 0x800) / 4
    some (if i < respTaps r then twos 32 (romTap r i) else 0)
  else none

/-- The chains of a mask that take their input from inertial ports (0) or encoders (1). -/
def chainsFrom (s : State) (mask typ : Nat) : Bool :=
  (List.range 16).any (fun c => nbit mask c && fld s (MOT_DEC_CFG c) 30 30 == typ)

/-- Whether a bound job uses a unit of a motion page, on its own or as the source of a chain (R182). -/
def motBound (s : State) (pg : Nat) : Bool :=
  s.jobs.any (fun j => running j &&
    (if pg = pgEnc then decide (j.encs ≠ 0) || chainsFrom s j.chains 1
     else if pg = pgImu then chainsFrom s j.chains 0
     else decide (j.chains ≠ 0)))

/-- The soft reset of a motion page (R182). -/
def motSrst (s : State) (pg : Nat) : State :=
  let s1 := softRegs s pg
  if pg = pgEnc then
    (List.range 8).foldl (fun t e => wrN (wrN (wrN t (MOT_ENC_POS e) 0) (MOT_ENC_VEL e) 0) (MOT_ENC_STATUS e) 0) { s1 with enc := [] }
  else if pg = pgImu then
    (List.range 8).foldl (fun t p =>
      let x := imuOf t p
      setImu (wrN t (MOT_IMU_STATUS p) 0) p { cmds := if x.addr = 0 then x.cmds else x.cmds ++ [.rstdaa] }) s1
  else (List.range 16).foldl (fun t c => wrN (wrN t (MOT_DEC_STATUS c) 0) (MOT_DEC_DELAY c) 0) { s1 with chain := [] }

/-- Entry to BIVOUAC stops inertial ports; on exit each enabled chain warms up again (R181). -/
def motBivouac (s : State) (enter : Bool) : State :=
  if enter then (List.range 8).foldl (fun t p => setImu t p { imuOf t p with busy := [] }) s
  else (List.range 16).foldl (fun t c => if flag t (MOT_DEC_CFG c) 31 then chainStart t c else t) s

end Sys2Proof.Machine
end

