-- ==== Sys2Proof/Machine/Pose.lean ====
section
/-!
DEFINITION. The bars' pose history (spec/06_fusion_alignment.md R193, R197, R208), as fusion, registration and the output
block read it.
-/
namespace Sys2Proof.Machine
open Sys2Proof

def barD (_ : Nat) : BarSt := {}
def bar (s : State) (b : Nat) : BarSt := tget barD s.bars b
def setBar (s : State) (b : Nat) (x : BarSt) : State := { s with bars := tset barD s.bars b x }
def updBar (s : State) (b : Nat) (g : BarSt → BarSt) : State := setBar s b (g (bar s b))

/-- Whether bar b is enabled. -/
def barOn (s : State) (b : Nat) : Bool := flag s (FUS_BAR_CFG b) 31

/-- PITCH_UM of a bar. -/
def pitch (s : State) (b : Nat) : Nat := fld s (FUS_BAR_CFG b) 25 16

/-- The issued result of instant k that the history holds. -/
def issued (s : State) (b k : Nat) : Option Issued := (bar s b).hist.find? (fun r => r.k == k)

/-- The last issued result of a bar. -/
def lastIssued (s : State) (b : Nat) : Option Issued := (bar s b).hist.head?

/-- The two results that place a stamp: k with t_k ≤ stamp < t_(k+1), and k + 1, where both are held (R194, R630). -/
def around (s : State) (b stamp : Nat) : Option (Issued × Issued) :=
  match (bar s b).hist.find? (fun r => decide (r.t ≤ stamp)) with
  | none => none
  | some r => match issued s b (r.k + 1) with
    | none => none
    | some r' => some (r, r')

/-- A quantity of w bits between two results at f ns after the first (R208). -/
def lerp (w : Nat) (a a' : Int) (f p : Nat) : Int :=
  sx w (twos w (a + (sx w (twos w (a' - a)) * (f : Int)) / (p : Int)))

/-- S of a bar at a stamp. -/
def poseS (s : State) (b stamp : Nat) : Option Int :=
  (around s b stamp).map (fun r => lerp 64 r.1.s r.2.s (stamp - r.1.t) (r.2.t - r.1.t))

/-! ## Grids (spec/06_fusion_alignment.md R205, R206) -/

/-- The bank in force of a port's grid. -/
def gridBank (s : State) (p : Nat) : Nat := fld s (FUS_GRID_CTRL p) 16 16

/-- The place of node (i, j) of a bank of a port's grid. -/
def nodeAt (p bank i j : Nat) : Nat := 0x10000000 + p * 0x10000 + bank * 0x8000 + 4 * (65 * j + i)

/-- A node's X and Y, in 1/8 cell. -/
def nodeX (s : State) (p bank i j : Nat) : Int := (tabNum s (nodeAt p bank i j + 2) 2 : Nat)
def nodeY (s : State) (p bank i j : Nat) : Int := sx 16 (tabNum s (nodeAt p bank i j) 2)

/-- The highest bar-frame row that a bar's camera fields reach: the greatest node Y of its ports' grids, in 1/8 cell. -/
def fieldTop (s : State) (b : Nat) : Int :=
  ((List.range 32).filter (fun p => flag s (FUS_BAR_PORTS b) p)).foldl (fun m p =>
    (List.range 65).foldl (fun m i => (List.range 65).foldl (fun m j => max m (nodeY s p (gridBank s p) i j)) m) m) (-32768)

end Sys2Proof.Machine
end

