-- ==== Sys2Proof/Machine/Output.lean ====
section
/-!
DEFINITION. The output block: sheets and inspection tiles, verdicts, amendments and corrections, tracks, streams and their
delivery, and the cheap and exact paths (spec/12_verdicts_corrections.md; spec/11_approximation.md R362 to R366).
-/
namespace Sys2Proof.Machine
open Sys2Proof

def pgOut : Nat := 0x510000
def pgOutBar : Nat := 0x511000
def pgOutStr (n : Nat) : Nat := 0x512000 + 0x1000 * n

def updOut (s : State) (g : OutSt → OutSt) : State := { s with out := g s.out }
def strD (_ : Nat) : StrSt := {}
def strOf (s : State) (n : Nat) : StrSt := tget strD s.out.strs n
def setStr (s : State) (n : Nat) (x : StrSt) : State := updOut s (fun o => { o with strs := tset strD o.strs n x })

def rtVerdict : Nat := 1
def rtCorr : Nat := 2
def rtAmend : Nat := 3

/-! ## The buffer and the streams (R386, R400) -/

/-- The bytes that the output buffer holds, of all streams or of one. -/
def bufFill (s : State) : Nat := s.out.buf.foldl (fun n r => n + r.bytes.length) 0
def strFill (s : State) (n : Nat) : Nat := s.out.buf.foldl (fun m r => if r.str = n then m + r.bytes.length else m) 0

/-- The enabled streams that take records of a type. -/
def strTakes (s : State) (typ : Nat) : List Nat :=
  (List.range 8).filter (fun n => flag s (OUT_STR_CFG n) 31 && flag s (OUT_STR_CFG n) (24 + typ) && fld s (OUT_STR_CFG n) 30 28 != 0)

/-- The output streams that the roles of a job name (R412). -/
def jobStreams (j : JobSt) : Nat → Bool := fun n => j.roles.any (fun r => nbit r.2 n)

/-- The newest verdict or correction record of a stream taken out of a list, newest first. -/
def dropNewest (n : Nat) : List OutRec → Option (List OutRec)
  | [] => none
  | r :: t => if r.str = n ∧ r.typ ≠ rtAmend then some t else (dropNewest n t).map (r :: ·)

/-- Verdict and correction records of a stream discarded, newest first, until a length fits. -/
def makeRoom (n len : Nat) : Nat → State → State
  | 0, s => s
  | k + 1, s =>
    if bufFill s + len ≤ 1048576 then s
    else match dropNewest n s.out.buf.reverse with
      | none => s
      | some b => makeRoom n len k (irq (bump (updOut s (fun o => { o with buf := b.reverse })) (OUT_STR_DROP_CNT n)) (pgOutStr n) 0)

/-- A record given to a stream (R400). -/
def appendRec (typ : Nat) (bytes : List Byte) (s : State) (n : Nat) : State :=
  let r : OutRec := { str := n, typ := typ, bytes := bytes, dests := fld s (OUT_STR_CFG n) 30 28, ft := s.ft }
  let put (t : State) : State := updOut t (fun o => { o with buf := o.buf ++ [r] })
  if bufFill s + bytes.length ≤ 1048576 then put s
  else if inBelay s then endJobs s errOverrun (fun j => jobStreams j n)
  else if typ = rtAmend then put (makeRoom n bytes.length s.out.buf.length s)
  else irq (bump s (OUT_STR_DROP_CNT n)) (pgOutStr n) 0

/-- The next SEQ of a type and job. -/
def nextSeq (s : State) (typ job : Nat) : Nat := tget natD s.out.seqs (job * 4 + typ)
def takeSeq (s : State) (typ job : Nat) : State :=
  updOut s (fun o => { o with seqs := tset natD o.seqs (job * 4 + typ) ((tget natD o.seqs (job * 4 + typ) + 1) % 4294967296) })

/-- WRITE_FT (R386). -/
def writeFt (s : State) : Nat := if inBelay s then 0 else s.ft

def recHeader (s : State) (typ len seq : Nat) : List Byte :=
  leBytes 1 typ ++ leBytes 1 1 ++ leBytes 2 len ++ leBytes 4 seq ++ leBytes 8 (writeFt s)

/-- An effect that the block had at an earlier moment t: what it writes is stamped with t. -/
def atMoment (s : State) (t : Nat) (g : State → State) : State := { g { s with ft := t } with ft := s.ft }

/-- A register lowered to at most a signed value. -/
def setMinS (s : State) (a : Nat) (v : Int) : State := if v < rdS s a then wrS s a v else s

/-! ## Sheets (R384) -/

def spr (s : State) : Nat := fld s OUT_SHEET 1 0 + 1

/-- M_j. -/
def sheetM (s : State) (j : Int) : Int := (rdN s OUT_SHEET_ANGLE0 : Int) + j * 4294967296 / (spr s : Int)

/-- The first FT at which MP reaches a count, from the history oldest first; the history before it did not reach it. -/
def firstReach (m : Int) : List (Nat × Nat × Int × Bool) → Option Nat
  | [] => none
  | [e] => if m ≤ mpCount e.2.2.1 e.2.1 then some e.1 else none
  | e :: e' :: r =>
    let m0 := mpCount e.2.2.1 e.2.1
    let m1 := mpCount e'.2.2.1 e'.2.1
    if m ≤ m0 then some e.1
    else if m ≤ m1 then some (e.1 + ((m - m0) * ((e'.1 : Int) - (e.1 : Int)) + (m1 - m0 - 1)).toNat / (m1 - m0).toNat)
    else firstReach m (e' :: r)

/-- The FT at which MP first reached a count, as far as the history shows it. -/
def reached (s : State) (m : Int) : Option Nat := if s.mp.valid then firstReach m s.mp.hist.reverse else none

/-- R_j on bar b, where the pose history holds t_j. -/
def sheetRow0 (s : State) (b t : Nat) : Option Int :=
  (poseS s b t).map (fun v =>
    let d : Int := (256 * pitch s b : Nat)
    (v + 256 * rdS s (OUT_BAR_OFFS b)) / d)

/-- The rows of the sheets that the pose history of bar b fixes now. -/
def fixRows (s : State) (b : Nat) : State :=
  updOut s (fun o => { o with sheets := o.sheets.map (fun sh =>
    if sh.rows.any (fun r => r.1 == b) then sh
    else match sheetRow0 s b sh.t with
      | none => sh
      | some r => { sh with rows := sh.rows ++ [(b, r)] }) })

/-- The sheet to start next: the one after the last started, or the first that MP can reach once it is valid. -/
def nextSheet (s : State) : Int :=
  match s.out.sheets.getLast? with
  | some sh => sh.j + 1
  | none => match s.mp.hist.getLast? with
    | none => 0
    | some e => -((-((mpCount e.2.2.1 e.2.1 - (rdN s OUT_SHEET_ANGLE0 : Int)) * (spr s : Int))) / 4294967296)

/-- MP has reached the start of the next sheet: it starts, with the first raster row of each bar that has the pose. -/
def execSheetStart (now : Nat) (s0 : State) : Out :=
  let s := advance s0 now
  let j := nextSheet s
  if !flag s OUT_SHEET 31 || s.mp.hist.isEmpty then .next s
  else match reached s (sheetM s j) with
    | none => .next s
    | some t =>
      let s1 := updOut s (fun o => { o with sheets := o.sheets ++ [{ j := j, t := t }] })
      .next (wrN ((List.range 8).foldl (fun u b => if barOn u b then fixRows u b else u) s1) OUT_SHEET_CUR (twos 32 j))

/-! ## Inspection tiles (R383, R385) -/

def rowOf (sh : SheetSt) (b : Nat) : Option Int := (sh.rows.find? (fun r => r.1 == b)).map (·.2)

/-- Whether the surface is divided into sheets: the division is on and MP is valid (R384: else verdicts carry NOSHEET and no correction
is issued). -/
def sheetsOn (s : State) : Bool := flag s OUT_SHEET 31 && s.mp.valid

/-- The sheet of bar b that holds a raster row: its number and first row. -/
def sheetAt (s : State) (b : Nat) (r : Int) : Option (Int × Int) :=
  if !sheetsOn s then none else ((s.out.sheets.filterMap (fun sh => (rowOf sh b).map (fun x => (sh.j, x)))).filter (fun e => decide (e.2 ≤ r))).getLast?

/-- The first row of the first sheet that starts after a raster row. -/
def sheetAfter (s : State) (b : Nat) (r : Int) : Option Int :=
  if !sheetsOn s then none else (s.out.sheets.filterMap (fun sh => rowOf sh b)).find? (fun x => decide (r < x))

def tileW (s : State) (b : Nat) : Nat := fld s (OUT_BAR_TILE b) 31 16
def tileH (s : State) (b : Nat) : Nat := fld s (OUT_BAR_TILE b) 15 0
def xOrg (s : State) (b : Nat) : Nat := fld s (OUT_BAR_X b) 28 16
def xEnd (s : State) (b : Nat) : Nat := fld s (OUT_BAR_X b) 12 0

/-- The tile columns of bar b. -/
def tileCols (s : State) (b : Nat) : Nat := (xEnd s b + 1 - xOrg s b + tileW s b - 1) / tileW s b

/-- The tile row that holds a raster row: its sheet, that sheet's first row, its index, first row and rows. -/
def tileRowAt (s : State) (b : Nat) (r : Int) : Option Int × Int × Nat × Int × Nat :=
  let h : Int := tileH s b
  let (sheet, base) : Option Int × Int := match sheetAt s b r with
    | some (j, x) => (some j, x)
    | none => (none, 0)
  let i := (r - base) / h
  let r0 := base + i * h
  let e := match sheetAfter s b r with
    | some x => min (r0 + h) x
    | none => r0 + h
  (sheet, base, i.toNat, r0, (e - r0).toNat)

/-- Whether an exit time of a rebound job lies in its loss interval (spec/13_ronrix_binding.md R427). -/
def inLoss (j : JobSt) (t : Nat) : Bool :=
  match j.lossFrom, j.startFt with
  | some l, some f => decide (l < t) && decide (t < f)
  | _, _ => false

/-- The job whose verdicts bar b gives at an exit time. -/
def verdictJob (s : State) (b t : Nat) : Option JobSt :=
  s.jobs.find? (fun j => running j && jobBar j b
    && (match j.startFt with | some f => decide (f ≤ t) || inLoss j t | none => false)
    && (match j.endFt with | some e => decide (t < e) | none => true))

def sameTile (p : PendTile) (t : TileRef) : Bool :=
  p.bar == t.bar && p.sheet == t.sheet && p.trow == t.trow && p.tcol == t.tcol

/-- The verdict bound of the mode (R385); none in BELAY. -/
def verdictBound (s : State) : Option Nat :=
  if inBelay s then none else if mode s = modeValley then some 1400000 else some 1000000

def setPend (s : State) (l : List PendTile) : State := updOut s (fun o => { o with pend := l })

/-! ## Verdict records (R387 to R391) -/

/-- The raster columns of a tile: the first and the last. -/
def tileX (s : State) (p : PendTile) : Nat × Nat :=
  let x0 := xOrg s p.bar + p.tcol * tileW s p.bar
  (x0, min (xEnd s p.bar) (x0 + tileW s p.bar - 1))

/-- The registered events of a tile. -/
def tileMarks (s : State) (p : PendTile) : List EvMark :=
  let (x0, x1) := tileX s p
  s.out.marks.filter (fun m => m.bar == p.bar && decide (x0 ≤ m.x) && decide (m.x ≤ x1) && decide (p.row0 ≤ m.y) &&
    decide (m.y < p.row0 + p.rows))

/-- Whether a neuron core of the tile's job dropped a step between the tile's first event and its exit (R388 GAP). -/
def coreDropped (s : State) (p : PendTile) (ms : List EvMark) : Bool :=
  match s.jobs.find? (fun j => j.handle == p.job), ms with
  | some j, m :: _ =>
    let lo := ms.foldl (fun a e => min a e.stamp) m.stamp
    j.plan.cores.any (fun n => (ncOf s n).drops.any (fun d => decide (lo < d.2) && decide (d.1 < p.tExit.getD 0)))
  | _, _ => false

/-- FLAGS bits 0, 1, 3 to 6 of a tile (R388). -/
def tileFlags (s : State) (p : PendTile) : Nat :=
  let ms := tileMarks s p
  let any (i : Nat) : Bool := ms.any (fun m => nbit m.flags i)
  let am := ms.any (fun m => s.out.amended.any (fun a => a.1 == m.bar && (a.2 == m.k || (a.2 == m.k + 1 && !nbit m.flags 3))))
  b2n (any 0) + 2 * b2n (am && !inBelay s) + 8 * b2n p.part + 16 * b2n p.sheet.isNone
    + 32 * b2n (any 1 || p.gap || coreDropped s p ms) + 64 * b2n (any 2)

/-- REG_VER of a tile; of a tile without events the spec states none, and the value is left open (log entry 3). -/
def tileReg (s : State) (p : PendTile) : Nat :=
  match tileMarks s p with
  | [] => twos 32 (Config.openInt 2 [p.bar, p.sheet.getD 0, p.trow, p.tcol])
  | ms => ms.foldl (fun a m => max a m.reg) 0

/-- MP at an FT, as angle then revolution; while MP has no value there the spec states none, and the value is left open (log entry
3). -/
def mpBytes (s : State) (t : Nat) : List Byte :=
  match mpAtFt s t with
  | some m => leBytes 4 (twos 32 m) ++ leBytes 4 (twos 32 (m / 4294967296))
  | none => leBytes 8 (twos 64 (Config.openInt 3 [t]))

/-- The entry of a track in the tables of BAR4. -/
def trackAt (i : Nat) : Nat := 0x10600000 + 64 * i

/-- A verdict record of a tile, with its result or none, and extra FLAGS. -/
def writeVerdict (s : State) (p : PendTile) (r : Option TileRes) (extra : Nat) (old : Option Written) : State :=
  let seq := nextSeq s rtVerdict p.job
  let belay := inBelay s
  let base := match old with | some w => w.flags % 128 / 8 * 8 + w.flags % 2 + w.flags / 2 % 2 * 2 | none => tileFlags s p
  let lean := match r with | some x => x.lean && !belay | none => false
  let fl := base + 4 * b2n lean + 128 * b2n p.track.isSome + (if belay then 0 else extra)
  let reg := match old with | some w => w.reg | none => tileReg s p
  let x0 := (tileX s p).1
  let path := match r with | some x => x.path | none => 3
  let body := recHeader s rtVerdict 64 seq
    ++ leBytes 4 (match p.sheet with | some j => twos 32 j | none => 0x80000000)
    ++ leBytes 2 p.tcol ++ leBytes 2 p.trow ++ leBytes 4 (x0 * pitch s p.bar)
    ++ leBytes 4 (twos 32 ((p.row0 - p.base) * (pitch s p.bar : Int)))
    ++ leBytes 2 (match r with | some x => x.cls | none => 0xFFFF) ++ leBytes 1 (match r with | some x => x.sev | none => 0)
    ++ leBytes 1 (path * 64 + p.bar % 8 * 8) ++ leBytes 4 (match r with | some x => x.conf | none => 0)
    ++ leBytes 2 fl ++ leBytes 2 (p.track.getD 0) ++ leBytes 4 reg ++ leBytes 8 (p.tExit.getD 0) ++ mpBytes s (p.tExit.getD 0)
  let js := match s.jobs.find? (fun j => j.handle == p.job) with | some j => jobStreams j | none => fun _ => false
  let s3 := ((strTakes s rtVerdict).filter js).foldl (appendRec rtVerdict body) (takeSeq s rtVerdict p.job)
  let s4 := bump s3 OUT_VERDICT_CNT
  let s5 := if r.isNone then bumpPulse s4 OUT_NORESULT_CNT pgOut 0 else s4
  let s6 := match p.dl with | some d => if belay then s5 else setMinS s5 OUT_VSLACK_MIN ((d : Int) - (s5.ft : Int)) | none => s5
  let s7 := match p.tExit with | some t => peak s6 OUT_VLAT_MAX (satN 0xFFFFFFFF (s6.ft - t)) | none => s6
  let s8 := match p.track with | some i => tabWrite s7 (trackAt i + 48) (leBytes 4 seq) | none => s7
  let w : Written := { tile := p, seq := seq, flags := fl, reg := reg, none := r.isNone }
  let s9 := updJob s8 p.job (fun j => { j with lastExit := max j.lastExit (p.tExit.getD 0) })
  updOut s9 (fun o => { o with
    written := o.written ++ [w]
    marks := o.marks.filter (fun m => !(tileMarks s p).contains m) })

/-- A tile leaves the list of those that owe a verdict. -/
def removePend (s : State) (p : PendTile) : State :=
  setPend s (s.out.pend.filter (fun q => !(q.bar == p.bar && q.sheet == p.sheet && q.trow == p.trow && q.tcol == p.tcol)))

def replacePend (s : State) (p : PendTile) : State :=
  setPend s (s.out.pend.map (fun q =>
    if q.bar = p.bar ∧ q.sheet = p.sheet ∧ q.trow = p.trow ∧ q.tcol = p.tcol then p else q))

/-- The order in which BELAY writes verdicts (R390). -/
def tileKey (p : PendTile) : List Int :=
  [(p.tExit.getD 0 : Int), (p.bar : Int), (match p.sheet with | some j => j | none => -2147483648), (p.trow : Int), (p.tcol : Int)]

def keyLt : List Int → List Int → Bool
  | a :: s, b :: t => decide (a < b) || (decide (a = b) && keyLt s t)
  | _, _ => false

/-- The least of a list of tiles in that order. -/
def leastTile : List PendTile → Option PendTile
  | [] => none
  | p :: t => match leastTile t with
    | none => some p
    | some q => if keyLt (tileKey q) (tileKey p) then some q else some p

/-- The t_k that every bar of a running job has issued. -/
def issuedAll (s : State) : Nat :=
  let l := (List.range 8).filter (fun b => barOn s b && boundBar s b)
  match l.map (fun b => match lastIssued s b with | some r => r.t | none => 0) with
  | [] => 0
  | x :: t => t.foldl min x

/-- In BELAY, verdicts are written in order, each once its result is final and no earlier tile is still to come (R390). -/
def belayFlush : Nat → State → State
  | 0, s => s
  | n + 1, s =>
    match leastTile (s.out.pend.filter (fun p => p.tExit.isSome)) with
    | none => s
    | some p =>
      if p.final.isNone ∨ issuedAll s < p.tExit.getD 0 then s
      else belayFlush n (removePend (writeVerdict s p p.final 0 none) p)

/-- Tiles with a final result that have left their bar are written. -/
def flushFinal (s : State) : State :=
  if inBelay s then belayFlush s.out.pend.length s
  else (s.out.pend.filter (fun p => p.final.isSome && p.tExit.isSome)).foldl (fun t p => removePend (writeVerdict t p p.final 0 none) p) s

/-- A result of a tile is final. -/
def finishTile (s : State) (p : PendTile) (r : TileRes) : State :=
  flushFinal (replacePend s { p with final := some r, cheap := none, waitQ := false })

/-! ## The exits of tiles (R385) -/

/-- Whether a raster row of bar b had entered its camera fields by a moment: it lies at or below their highest row in the
pose that stands then. -/
def enteredBy (s : State) (b : Nat) (row : Int) (t : Nat) : Bool :=
  match (bar s b).hist.find? (fun r => decide (r.t ≤ t)) with
  | some r => decide (8 * row * ((256 * pitch s b : Nat) : Int) - 8 * r.s ≤ fieldTop s b * ((256 * pitch s b : Nat) : Int))
  | none => false

/-- GAP of a tile of a rebound share: its first row entered the fields before T_R (spec/13_ronrix_binding.md R427). -/
def rebindGap (s : State) (j : JobSt) (b : Nat) (row : Int) : Bool :=
  match j.lossFrom, j.startFt with
  | some _, some f => enteredBy s b row f
  | _, _ => false


/-- A tile that leaves its bar at t_exit: its exit is fixed, and a result that is ready is written. -/
def tileExit (s : State) (p : PendTile) : State :=
  match s.out.pend.find? (fun q => q.bar == p.bar && q.sheet == p.sheet && q.trow == p.trow && q.tcol == p.tcol) with
  | some q => replacePend s { q with tExit := p.tExit, dl := p.dl, job := p.job, rows := p.rows, part := p.part, gap := p.gap }
  | none => setPend s (s.out.pend ++ [p])

/-- The tile rows of bar b that leave with the result r. -/
def rowExits (b : Nat) (r : Issued) : Nat → State → State
  | 0, s => s
  | n + 1, s =>
    let next := match s.out.rows.find? (fun e => e.1 == b) with | some e => e.2 | none => 0
    let (sheet, base, i, r0, h) := tileRowAt s b next
    let r1 := r0 + (h : Int) - 1
    if (r1 - rdS s (OUT_BAR_YMIN b)) * ((256 * pitch s b : Nat) : Int) < r.s then
      let s1 := updOut s (fun o => { o with rows := (b, r1 + 1) :: o.rows.filter (fun e => e.1 != b) })
      match verdictJob s1 b r.t with
      | none => rowExits b r n s1
      | some j =>
        let cols := tileCols s1 b
        let one (t : State) (c : Nat) : State :=
          let p : PendTile := { job := j.handle, bar := b, sheet := sheet, trow := i, tcol := c, row0 := r0, rows := h, base := base
                                tExit := some r.t, dl := (verdictBound t).map (r.t + ·)
                                gap := rebindGap t j b r0 || inLoss j r.t
                                part := decide (h < tileH t b) || decide (xEnd t b < xOrg t b + c * tileW t b + tileW t b - 1) }
          if inLoss j r.t then writeVerdict t p none 0x100 none else tileExit t p
        rowExits b r n ((List.range cols).foldl one s1)
    else s

/-- What the output block does with a new result of bar b. -/
def outResult (s : State) (b : Nat) : State :=
  match lastIssued s b with
  | none => s
  | some r => flushFinal (rowExits b r 65536 (fixRows s b))

/-! ## Results (R362 to R366, R389) -/

/-- A result for a tile that is already written: issued again or discarded (R389). -/
def lateResult (s : State) (w : Written) (r : TileRes) (exact : Bool) : State :=
  if w.none then
    let s1 := bump s OUT_LATE_RESULT_CNT
    if flag s1 OUT_CFG 0 && !inBelay s1 then writeVerdict s1 w.tile (some r) 0x300 (some w) else s1
  else if exact then bump s APX_ESC_EXACT_LATE
  else s

/-- The verdict of a tile that was written last. -/
def writtenOf (s : State) (t : TileRef) : Option Written := s.out.written.reverse.find? (fun w => sameTile w.tile t)

/-- The tile that a result names, where it lies in the grid of a bar and has not left yet (R383). -/
def earlyTile (s : State) (t : TileRef) : Option PendTile :=
  let base : Option Int := match t.sheet with
    | none => some 0
    | some j => (s.out.sheets.find? (fun sh => sh.j == j)).bind (fun sh => rowOf sh t.bar)
  match base, verdictJob s t.bar s.ft with
  | some b0, some j =>
    let r0 := b0 + (t.trow * tileH s t.bar : Nat)
    let (sh, base, i, x0, h) := tileRowAt s t.bar r0
    if t.tcol < tileCols s t.bar ∧ sh = t.sheet ∧ i = t.trow then
      some { job := j.handle, bar := t.bar, sheet := t.sheet, trow := t.trow, tcol := t.tcol, row0 := x0, rows := h, base := base, part := false }
    else none
  | _, _ => none

/-- A result given to the tile that it names; `g` acts on the tile that owes its verdict. -/
def withTile (s : State) (t : TileRef) (r : TileRes) (exact : Bool) (g : State → PendTile → State) : State :=
  if inBivouac s then s
  else match s.out.pend.find? (fun p => sameTile p t) with
  | some p => g s p
  | none =>
    match writtenOf s t with
    | some w => lateResult s w r exact
    | none =>
      match earlyTile s t with
      | some p => g (setPend s (s.out.pend ++ [p])) p
      | none => bump s OUT_UNTILED_CNT

/-- The package threshold and the bound X_p of a pair, at a mode (R363, R416). -/
def pairPlan (s : State) (n : Nat) : Option (Nat × List Nat) :=
  (s.jobs.findSome? (fun j => if running j then j.plan.pairs.find? (fun e => e.1 == n) else none)).map (·.2)

def xpOf (s : State) (xs : List Nat) : Nat :=
  at0 xs (if mode s = modeSummit then 0 else if mode s = modeValley then 2 else if inBelay s then 3 else 1)

def qDepth (s : State) (n : Nat) : Nat := fld s (APX_ESC_CFG n) 24 16
def qFill (s : State) (n : Nat) : Nat := fld s (APX_ESC_CFG n) 8 0

/-- An escalated verdict enters the pair's exact queue. -/
def escalate (s : State) (p : PendTile) (n : Nat) (r : TileRes) : State :=
  let s1 := bump (setFld s (APX_ESC_CFG n) 8 0 (qFill s n + 1)) (APX_ESC_CNT n)
  replacePend s1 { p with cheap := some r, pair := some n, waitQ := false }

/-- A verdict finishes on the cheap path with LEAN (R363); LEAN_VERDICT pulses at most once per ms. -/
def leanVerdict (s : State) (n : Nat) : State :=
  let s1 := bump s (APX_ESC_LEAN_CNT n)
  if s1.lean.verdictMs = some (s1.ft / 1000000) then s1
  else irq (updLean s1 (fun l => { l with verdictMs := some (s1.ft / 1000000) })) pgPair 0

/-- Places of a pair's exact queue that stay free take the cheap results that wait for them, oldest first (R366). -/
def refillQ (n : Nat) : Nat → State → State
  | 0, s => s
  | k + 1, s =>
    if qDepth s n ≤ qFill s n then s
    else match s.out.pend.find? (fun p => p.waitQ && p.pair == some n), (s.out.pend.find? (fun p => p.waitQ && p.pair == some n)).bind (·.cheap) with
      | some p, some r => refillQ n k (escalate s p n r)
      | _, _ => s

/-- A place of a pair's exact queue is freed. -/
def leaveQ (s : State) (n : Nat) : State :=
  let s1 := setFld s (APX_ESC_CFG n) 8 0 (qFill s n - 1)
  refillQ n s1.out.pend.length s1

/-- A tile at its deadline (R389); where only the cheap result is ready, it finishes with LEAN and counts so (R363, R382). -/
def atDeadline (s : State) (p : PendTile) : State :=
  match p.cheap with
  | some c =>
    let s0 := match p.pair with | some n => leanVerdict s n | none => s
    let s1 := removePend (writeVerdict s0 p (some { c with lean := true }) 0 none) p
    (match p.pair with | some n => if p.waitQ then s1 else leaveQ s1 n | none => s1)
  | none => removePend (writeVerdict s p none 0x100 none) p

/-- The deadlines that FT has passed, in their order: each record is written at its D, and what reaches the block at D itself still
counts as ready (R389). -/
def deadlines : Nat → State → State
  | 0, s => s
  | n + 1, s =>
    match leastTile (s.out.pend.filter (fun p => match p.dl with | some d => decide (d < s.ft) | none => false)) with
    | none => s
    | some p => deadlines n (atMoment s (p.dl.getD s.ft) (fun t => atDeadline t p))

/-- The deadlines passed so far are served; in BELAY none applies, and in BIVOUAC no verdict is produced (R385, R403). -/
def passDeadlines (s : State) : State := if inBelay s || inBivouac s then s else deadlines s.out.pend.length s

/-- The output block at a moment: whatever comes next finds every deadline before it served. -/
def outAt (now : Nat) (s0 : State) : State := passDeadlines (advance s0 now)

/-- A result of a graph without a pair (path SINGLE). -/
def execVerdictResult (t : TileRef) (v : TileVal) (now : Nat) (s0 : State) : Out :=
  let s := outAt now s0
  let r : TileRes := { cls := v.cls, sev := v.sev, conf := v.conf, path := 2, lean := false }
  .next (withTile s t r false (fun u p => finishTile u p r))

/-- The threshold in force (R364, R365). -/
def tauOf (s : State) (n pkg : Nat) : Nat := if flag s (APX_ESC_CFG n) 31 && !inBelay s then rdN s (APX_ESC_THR n) else pkg

/-- A cheap-path result with its margin m (FP32) for pair n (R362 to R366). -/
def execCheapResult (t : TileRef) (n m : Nat) (v : TileVal) (now : Nat) (s0 : State) : Out :=
  let s := outAt now s0
  match pairPlan s n with
  | none => .next s
  | some (tau, xs) =>
    let r : TileRes := { cls := v.cls, sev := v.sev, conf := v.conf, path := 0, lean := false }
    let lean : TileRes := { r with lean := true }
    let done := f32Gt m (tauOf s n tau)
    .next (withTile s t (if done then r else lean) false (fun u p =>
      if done then finishTile u p r
      else if inBelay u then
        (if qFill u n < qDepth u n then escalate u p n r
         else replacePend u { p with cheap := some r, pair := some n, waitQ := true })
      else
        let d := p.dl.getD (u.ft + (verdictBound u).getD 0)
        if d < u.ft + xpOf u xs + fld u APX_ESC_GUARD 15 0 * 1000 ∨ qDepth u n ≤ qFill u n then
          finishTile (leanVerdict u n) p lean
        else escalate u p n r))

/-- An exact-path result of pair n (R363, R366). -/
def execExactResult (t : TileRef) (n : Nat) (v : TileVal) (now : Nat) (s0 : State) : Out :=
  let s := outAt now s0
  let r : TileRes := { cls := v.cls, sev := v.sev, conf := v.conf, path := 1, lean := false }
  .next (withTile s t r true (fun u p =>
    if p.pair = some n ∧ p.waitQ = false ∧ p.cheap.isSome then leaveQ (finishTile u p r) n else finishTile u p r))

/-- The deadlines before a moment pass (R389). -/
def execVerdictDeadline (now : Nat) (s0 : State) : Out := .next (outAt now s0)

/-- The pending verdicts of a job written at once as NO_RESULT with MISSED (R421). -/
def flushJob (s : State) (h : Nat) : State :=
  let s0 := passDeadlines s
  let l := s0.out.pend.filter (fun p => p.job == h)
  let s1 := l.foldl (fun t p => if p.tExit.isSome then writeVerdict t p none 0x100 none else t) s0
  let s2 := l.foldl (fun t p => match p.pair with
    | some n => if p.waitQ || p.cheap.isNone then t else setFld t (APX_ESC_CFG n) 8 0 (qFill t n - 1)
    | none => t) s1
  setPend s2 (s2.out.pend.filter (fun p => p.job != h))

/-! ## Amendments (R392, R393) -/

/-- An amendment of instant k of bar b. -/
def writeAmend (sa : State) (b : Nat) (r : Issued) (qmask : Nat) (rerun : List Int) : State :=
  let s := passDeadlines sa
  let job := match s.jobs.find? (fun j => running j && jobBar j b) with | some j => j.handle | none => 0
  let seq := nextSeq s rtAmend job
  let hit := s.out.written.filter (fun w => w.tile.bar == b && w.tile.job == job && decide (r.t < w.tile.tExit.getD 0 + fusPeriod s))
  let first := match hit with
    | [] => twos 32 (Config.openInt 4 [b, r.k])
    | w :: _ => w.seq
  let cnt := match hit with | [] => 0 | w :: _ => (nextSeq s rtVerdict job + 4294967296 - w.seq) % 4294967296
  let w32 (l : List Int) : List Byte := ((List.range 9).map (fun i => leBytes 4 (twos 32 (l.getD i 0)))).flatten
  let body := recHeader s rtAmend 128 seq ++ leBytes 4 r.k ++ leBytes 1 b ++ leBytes 1 r.amended ++ leBytes 2 qmask
    ++ leBytes 8 r.t ++ leBytes 4 first ++ leBytes 4 cnt ++ w32 rerun ++ w32 r.q ++ leBytes 16 0
  let s1 := (strTakes s rtAmend).foldl (appendRec rtAmend body) (takeSeq s rtAmend job)
  fwdFrame (bump (updOut s1 (fun o => { o with amended := (b, r.k) :: o.amended })) OUT_AMEND_CNT) b 3 1 (body.drop 16)

/-! ## Corrections (R394 to R396) -/

/-- The machine count at which sheet j is due at unit u (R395). -/
def corrDue (s : State) (j : Int) (u : Nat) : Int := sheetM s j + (rdN s (OUT_UNIT_DL u) : Int) * 65536

/-- MP now and how far it moved over the last 1 ms, by encoder stamps only. -/
def mpRate (s : State) : Option (Nat × Int × Int) :=
  match s.mp.hist with
  | [] => none
  | e :: _ =>
    let m := mpCount e.2.2.1 e.2.1
    (mpIn (e.1 - 1000000) s.mp.hist).map (fun m0 => (e.1, m, m - m0))

/-- DEADLINE_FT: where MP reached it, or the prediction; no prediction is stated while MP does not advance. -/
def corrDeadline (s : State) (j : Int) (u : Nat) : Option Nat × Bool :=
  match reached s (corrDue s j u) with
  | some t => (some t, true)
  | none => match mpRate s with
    | some (t, m, d) => if 0 < d then (some (t + ((corrDue s j u - m) * 1000000 / d).toNat), false) else (none, false)
    | none => (none, false)

/-- The verdicts of a sheet that a job has written. -/
def sheetVerdicts (s : State) (job : Nat) (j : Int) : List Written :=
  s.out.written.filter (fun w => w.tile.job == job && w.tile.sheet == some j)

def unitIrq (s : State) (u bit : Nat) : State := irq (wrN s OUT_UNIT_IRQ_SRC u) pgOutBar bit

/-- A correction record (R394). -/
def writeCorr (s : State) (job u : Nat) (j : Int) (v : CorrVal) (held missed : Bool) (dl : Option Nat) : State :=
  let seq := nextSeq s rtCorr job
  let belay := inBelay s
  let vs := sheetVerdicts s job j
  let any (i : Nat) : Bool := vs.any (fun w => nbit w.flags i)
  let reg := match vs with
    | [] => twos 32 (Config.openInt 5 [j, u])
    | _ => vs.foldl (fun (a : Nat) (w : Written) => max a w.reg) 0
  let d := dl.getD (twos 64 (Config.openInt 6 [j, u]))
  let slack : Int := satS 32 ((d : Int) - (s.ft : Int))
  let nz := v.zones.length
  let len := 64 + 64 * ((nz + 31) / 32)
  let fl := b2n (any 0) + 2 * b2n (any 1) + 4 * b2n (any 2) + 8 * b2n held + 16 * b2n (missed && !belay) + 32 * b2n (any 5)
  let m := sheetM s j
  let body := recHeader s rtCorr len seq ++ leBytes 4 (twos 32 j) ++ leBytes 1 u ++ leBytes 1 fl ++ leBytes 2 nz
    ++ leBytes 4 (twos 32 v.dx) ++ leBytes 4 (twos 32 v.dy) ++ leBytes 4 (twos 32 v.skew) ++ leBytes 4 reg
    ++ leBytes 8 (if belay then 0 else d) ++ leBytes 4 (if belay then 0 else twos 32 slack) ++ leBytes 4 vs.length
    ++ leBytes 4 (twos 32 m) ++ leBytes 4 (twos 32 (m / 4294967296)) ++ (v.zones.map (leBytes 2)).flatten
  let js := match s.jobs.find? (fun (q : JobSt) => q.handle == job) with | some j => jobStreams j | none => fun _ => false
  let s3 := ((strTakes s rtCorr).filter js).foldl (appendRec rtCorr (padTo len body)) (takeSeq s rtCorr job)
  let s4 := setMinS (wrS s3 (OUT_UNIT_SLACK_LAST u) slack) (OUT_UNIT_SLACK_MIN u) slack
  let s5 := if missed then unitIrq (bump s4 (OUT_UNIT_MISS_CNT u)) u 0 else s4
  updOut s5 (fun o => { o with
    corr := (job, j, u, held) :: o.corr.filter (fun c => !(c.1 == job && c.2.1 == j && c.2.2.1 == u))
    last := if held then o.last else (u, v.dx, v.dy, v.skew, v.zones) :: o.last.filter (fun e => e.1 != u) })

/-- Whether the correction of (job, j, u) was written, and how. -/
def corrOf (s : State) (job u : Nat) (j : Int) : Option Bool :=
  (s.out.corr.find? (fun c => c.1 == job && c.2.1 == j && c.2.2.1 == u)).map (·.2.2.2)

/-- The running job that owns a print unit. -/
def unitJob (s : State) (u : Nat) : Option JobSt := s.jobs.find? (fun j => running j && nbit j.units u)

/-- The oldest sheet whose correction at unit u is owed and whose predicted time to the deadline fell to FALLBACK_US before now, with the
moment: a capture that brings the prediction there counts at the capture. -/
def heldDue (s : State) (job u : Nat) : Option (Int × Nat) :=
  s.out.sheets.findSome? (fun sh =>
    if (corrOf s job u sh.j).isSome then none
    else match corrDeadline s sh.j u with
      | (some d, _) =>
        let t := max (d - fld s (OUT_UNIT_CFG u) 15 0 * 1000) (match s.mp.hist with | e :: _ => e.1 | [] => 0)
        if t < s.ft then some (sh.j, t) else none
      | (none, _) => none)

/-- A HELD record of (job, u, j) with the values of the unit's last correction, or zeros. -/
def writeHeld (s : State) (job u : Nat) (j : Int) : State :=
  let v : CorrVal := match s.out.last.find? (fun e => e.1 == u) with
    | some (_, dx, dy, sk, z) => { dx := dx, dy := dy, skew := sk, zones := z }
    | none => { dx := 0, dy := 0, skew := 0, zones := [] }
  let (dl, beyond) := corrDeadline s j u
  unitIrq (bump (writeCorr s job u j v true beyond dl) (OUT_UNIT_HELD_CNT u)) u 1

/-- The HELD records that unit u owes by now, oldest first (R396): each is written at the moment the prediction fell to FALLBACK_US, and
a result of that same moment still goes in its place. -/
def heldRecords (job u : Nat) : Nat → State → State
  | 0, s => s
  | n + 1, s => match heldDue s job u with
    | none => s
    | some (j, t) => heldRecords job u n (atMoment s t (fun x => writeHeld x job u j))

/-- The HELD records of unit u up to now: none in BELAY and BIVOUAC, with FALLBACK_US = 0, or while MP is invalid. -/
def unitHeld (s : State) (u : Nat) : State :=
  match unitJob s u with
  | none => s
  | some jb =>
    if !flag s (OUT_UNIT_CFG u) 31 || inBelay s || inBivouac s || !sheetsOn s || fld s (OUT_UNIT_CFG u) 15 0 == 0 then s
    else heldRecords jb.handle u s.out.sheets.length s

/-- A correction stage's result for sheet j at unit u (R394, R396). Late means that MP has reached the deadline (DEDUCED, log entry 87):
only that is counted as missed. -/
def execCorrectionResult (u : Nat) (j : Int) (v : CorrVal) (now : Nat) (s0 : State) : Out :=
  let s := unitHeld (outAt now s0) u
  if 256 < v.zones.length then .next (bump s OUT_CORR_BAD_CNT)
  else
    match unitJob s u with
    | none => .next s
    | some jb =>
      if !flag s (OUT_UNIT_CFG u) 31 || inBivouac s || !sheetsOn s || !s.out.sheets.any (fun sh => sh.j == j) then .next s
      else
        let (dl, beyond) := corrDeadline s j u
        if (beyond || corrOf s jb.handle u j == some true) && flag s (OUT_UNIT_CFG u) 30 && !inBelay s then
          .next (if beyond then unitIrq (bump s (OUT_UNIT_MISS_CNT u)) u 0 else s)
        else .next (writeCorr s jb.handle u j v false beyond dl)

/-- HELD (R396): the predicted time to a deadline of unit u has fallen to FALLBACK_US without a correction. -/
def execHeld (u now : Nat) (s0 : State) : Out := .next (unitHeld (outAt now s0) u)

/-- What the output block owed up to now: verdicts at their deadlines and HELD records. -/
def outDue (s : State) : State := (List.range 16).foldl unitHeld (passDeadlines s)

/-! ## Tracks (R397, R398) -/

/-- Bytes of a track entry. -/
def trackNum (s : State) (i off n : Nat) : Nat := tabNum s (trackAt i + off) n

/-- The open tracks, in ascending order. -/
def openTracks (s : State) : List Nat :=
  (s.tabs.filter (fun e => decide (0x10600000 ≤ e.1) && decide (e.1 < 0x10A00000) && e.1 % 64 == 3 && decide (128 ≤ e.2.toNat))).map
    (fun e => (e.1 - 0x10600000) / 64)

/-- A track closed: V = 0. -/
def closeTrack (s : State) (i : Nat) : State :=
  tabWrite s (trackAt i + 3) (leBytes 1 (trackNum s i 3 1 % 128))

/-- The distance of a track's predicted position from a detection on an axis, in 1/256 cell × 10^6. -/
def trackMiss (s : State) (i stamp : Nat) (pos vel w : Nat) (x : Int) : Nat :=
  let p := sx (8 * w) (trackNum s i pos w)
  let v := sx 32 (trackNum s i vel 4)
  let age : Int := (stamp : Int) - (trackNum s i 16 8 : Int)
  absI ((p - x) * 1000000 + v * age)

/-- The open track of a bar and class that a detection joins. -/
def nearest (s : State) (b cls stamp : Nat) (x y : Int) : Option Nat :=
  let gate := fld s OUT_TRACK_CFG 30 16 * 256 * 1000000
  let c := (openTracks s).filter (fun i => nbits (trackNum s i 0 4) 30 28 == b && nbits (trackNum s i 0 4) 15 0 == cls &&
    decide (trackMiss s i stamp 24 28 4 x ≤ gate) && decide (trackMiss s i stamp 32 40 8 y ≤ gate))
  let d (i : Nat) : Nat := trackMiss s i stamp 24 28 4 x ^ 2 + trackMiss s i stamp 32 40 8 y ^ 2
  c.foldl (fun r i => match r with | none => some i | some k => if d i < d k then some i else some k) none

/-- The lowest entry at or above i that is not open. -/
def freeTrack (used : List Nat) : Nat → Nat → Option Nat
  | 0, _ => none
  | n + 1, i => if i < 65536 then (if used.contains i then freeTrack used n (i + 1) else some i) else none

/-- A velocity of R398, truncated toward zero; over no time the spec states none. -/
def trackVel (d dt : Int) : Nat := twos 32 (quo (d * 1000000) dt)

/-- The verdicts of a tile, the one that it owes and those written, name a track; a tile that has not left yet is noted for it. -/
def nameTrack (t : TileRef) (i : Nat) (s : State) : State :=
  let s1 := if s.out.pend.any (fun p => sameTile p t) || (writtenOf s t).isSome then s
    else match earlyTile s t with | some p => setPend s (s.out.pend ++ [p]) | none => s
  updOut s1 (fun o => { o with
    pend := o.pend.map (fun p => if sameTile p t then { p with track := some i } else p)
    written := o.written.map (fun w => if sameTile w.tile t then { w with tile := { w.tile with track := some i } } else w) })

/-- A detection of a verdict stage, for the tile whose verdict names its track. -/
def execDetection (t : TileRef) (stamp cls : Nat) (x y : Int) (now : Nat) (s0 : State) : Out :=
  let s := outAt now s0
  if !flag s OUT_TRACK_CFG 31 || inBivouac s then .next s
  else
    let tmo := fld s OUT_TRACK_CFG 15 0 * 1000000
    let s1 := ((openTracks s).filter (fun i => nbits (trackNum s i 0 4) 30 28 == t.bar &&
      decide (trackNum s i 16 8 + tmo < stamp))).foldl closeTrack s
    let sheet := match t.sheet with | some j => twos 32 j | none => 0x80000000
    match nearest s1 t.bar cls stamp x y with
    | some i =>
      let dt : Int := (stamp : Int) - (trackNum s1 i 16 8 : Int)
      let vx := trackVel (x - sx 32 (trackNum s1 i 24 4)) dt
      let vy := trackVel (y - sx 64 (trackNum s1 i 32 8)) dt
      let s2 := tabWrite s1 (trackAt i + 4) (leBytes 4 (trackNum s1 i 4 4 + 1))
      .next (nameTrack t i (tabWrite s2 (trackAt i + 16) (leBytes 8 stamp ++ leBytes 4 (twos 32 x) ++ leBytes 4 vx ++ leBytes 8 (twos 64 y)
        ++ leBytes 4 vy ++ leBytes 4 sheet)))
    | none =>
      match freeTrack (openTracks s1) 65537 0 with
      | none => .next (bump s1 OUT_TRACK_FULL_CNT)
      | some i =>
        .next (nameTrack t i (tabWrite s1 (trackAt i) (leBytes 4 (0x80000000 + t.bar * 0x10000000 + cls % 65536) ++ leBytes 4 1
          ++ leBytes 8 stamp ++ leBytes 8 stamp ++ leBytes 4 (twos 32 x) ++ leBytes 4 0 ++ leBytes 8 (twos 64 y) ++ leBytes 4 0
          ++ leBytes 4 sheet ++ leBytes 4 0 ++ leBytes 12 0)))

/-! ## Delivery (R399, R401) -/

def ringBytes (s : State) (n : Nat) : Nat := 2 ^ fld s (OUT_STR_RING n) 4 0
def ringHead (s : State) (n : Nat) : Nat := rdN s (OUT_STR_HEAD n)
def ringTail (s : State) (n : Nat) : Nat := rdN s (OUT_STR_TAIL n)
def ringBase (s : State) (n : Nat) : Nat := rd64 s (OUT_STR_RING_LO n 0) (OUT_STR_RING_LO n 1)

/-- The bytes of a ring between TAIL and HEAD. -/
def ringUsed (s : State) (n : Nat) : Nat :=
  let z := ringBytes s n - 64
  (ringHead s n + z - ringTail s n) % z

/-- The bytes skipped at the ring's end before a record of a length. -/
def ringPad (s : State) (n len : Nat) : Nat :=
  let rest := ringBytes s n - ringHead s n
  if rest < len then rest else 0

/-- A PAD record: a header (R386); it belongs to no job, so its SEQ is open, and so is what it holds beyond the header (log entry 86). -/
def padRec (s : State) (n len : Nat) : List Byte :=
  let x (i : Nat) : Int := Config.openInt 10 [n, ringHead s n, i]
  recHeader s 0 len (twos 32 (x 0)) ++ ((List.range (len - 16)).map (fun i => leBytes 1 (twos 8 (x (i + 1))))).flatten

/-- One destination of a record is served; a record with none left leaves the buffer and counts as delivered. -/
def served (s : State) (r : OutRec) (bit : Nat) : State :=
  let left := nput r.dests bit bit 0
  let rec go : List OutRec → List OutRec
    | [] => []
    | q :: t => if q = r then (if left = 0 then t else { q with dests := left } :: t) else q :: go t
  let s1 := updOut s (fun o => { o with buf := go o.buf })
  if left = 0 then bump s1 (OUT_STR_REC_CNT r.str) else s1

/-- HEAD moved, in the register and in the control block; RING_HIGH pulses when the ring becomes more than 7/8 full. -/
def setHead (s : State) (n h : Nat) : State :=
  let s1 := hostWrite (wrN s (OUT_STR_HEAD n) h) (ringBase s n) (leBytes 8 h)
  let hi := decide (7 * (ringBytes s1 n - 64) < 8 * ringUsed s1 n)
  let s2 := if hi && !(strOf s1 n).high then irq s1 (pgOutStr n) 1 else s1
  setStr s2 n { strOf s2 n with high := hi }

/-- The oldest record of stream n that is owed to its ring is written, where the ring has room and the function may master
the bus (R399, R457). -/
def execRecordDeliver (n now : Nat) (s0 : State) : Out :=
  let s := outAt now s0
  match s.out.buf.find? (fun r => r.str == n && nbit r.dests 0) with
  | none => .next s
  | some r =>
    let len := r.bytes.length
    let pad := ringPad s n len
    if !busMaster s (fld s (OUT_STR_CFG n) 18 11) || decide (ringBytes s n - 64 ≤ ringUsed s n + pad + len) then .next s
    else
      let h := ringHead s n
      let s1 := if pad = 0 then s else hostWrite s (ringBase s n + h) (padRec s n pad)
      let h1 := if pad = 0 then h else 64
      let s2 := hostWrite s1 (ringBase s1 n + h1) r.bytes
      let h2 := if h1 + len = ringBytes s2 n then 64 else h1 + len
      .next (served (setHead s2 n h2) r 0)

/-- A write of OUT_STR_TAIL: a value that is no multiple of 64 or lies beyond the ring is dropped (R406). -/
def tailWrite (s : State) (n : Nat) (v : Word) : State :=
  let t := v.toNat
  if t % 64 ≠ 0 ∨ t < 64 ∨ ringBytes s n ≤ t then s
  else
    let s1 := wrN s (OUT_STR_TAIL n) t
    setStr s1 n { strOf s1 n with high := decide (7 * (ringBytes s1 n - 64) < 8 * ringUsed s1 n) }

def execOutStrTailWrite (w : Who) (n : Nat) (v : Word) (s : State) : Out :=
  .next (guardW s w 4 (OUT_STR_TAIL n) (fun t => tailWrite t n v))

/-- The stream's vector, at most once per IRQ_US while HEAD has moved since the last (R399). -/
def execRingIrq (n now : Nat) (s0 : State) : Out :=
  let s := advance s0 now
  let x := strOf s n
  let due := match x.irqFt with | none => true | some t => decide (t + fld s (OUT_STR_RING n) 31 21 * 1000 ≤ s.ft)
  if x.irqHead = ringHead s n ∨ due = false then .next s
  else .next (sendMsix (setStr s n { x with irqHead := ringHead s n, irqFt := some s.ft }) (fld s (OUT_STR_CFG n) 18 11) (fld s (OUT_STR_CFG n) 10 0))

/-- The records that one datagram takes: whole records up to a number of bytes. -/
def fitRecs : Nat → List OutRec → List OutRec
  | _, [] => []
  | n, r :: t => if r.bytes.length ≤ n then r :: fitRecs (n - r.bytes.length) t else []

/-- TX_PT (R401): seconds and ns of the stream's PTP scale, most significant byte first; 0 while it is not locked. -/
def txPt (s : State) (sel : Nat) : List Byte :=
  if ptState s sel ≠ dLocked then leBytes 10 0
  else
    let r := ftToPt s sel s.ft
    let v := r.2.toNat
    (leBytes 6 (v / 1000000000)).reverse ++ (leBytes 4 (v % 1000000000)).reverse

/-- The source address registers of an Ethernet port. -/
def ethAddr (p i : Nat) : Nat := if p = 0 then OUT_ETH0_ADDR i else OUT_ETH1_ADDR i

/-- A datagram of stream n (R401): when the next record would not fit, or FLUSH_US after its first record. -/
def execDatagramSend (n now : Nat) (s0 : State) : Out :=
  let s := outAt now s0
  let q := s.out.buf.filter (fun r => r.str == n && decide (2 ≤ r.dests))
  let recs := fitRecs (fld s (OUT_STR_UDP n) 31 18 - 32) q
  match recs with
  | [] => .next s
  | r :: _ =>
    if recs.length = q.length ∧ s.ft < r.ft + fld s (OUT_STR_UDP n) 15 0 * 1000 then .next s
    else
      let x := strOf s n
      let (ck, s1) := drawNat s
      let body := leBytes 4 0x56524B48 ++ leBytes 1 1 ++ leBytes 1 n ++ leBytes 2 recs.length ++ leBytes 4 x.dseq ++ leBytes 8 s.ft
        ++ txPt s (fld s (OUT_STR_CFG n) 24 22) ++ leBytes 2 ck ++ (recs.map (·.bytes)).flatten
      let one (p : Nat) : Dgram :=
        { port := p, v6 := fld s (OUT_STR_UDP n) 17 16 == 1, src := (List.range 6).map (fun i => rdN s (ethAddr p i))
          dstIp := (List.range 4).map (fun i => rdN s (OUT_STR_DST_IP n i)), dstMac := rd64 s (OUT_STR_DST_MAC_LO n 0) (OUT_STR_DST_MAC_LO n 1)
          sport := fld s (OUT_STR_PORTS n) 15 0, dport := fld s (OUT_STR_PORTS n) 31 16, bytes := body }
      let ports := (List.range 2).filter (fun p => nbit r.dests (1 + p))
      let s2 := setStr s1 n { x with dseq := (x.dseq + 1) % 4294967296 }
      let s3 := bumpN (updOut s2 (fun o => { o with sent := o.sent ++ ports.map one })) (OUT_STR_DGRAM_CNT n) ports.length
      .next (recs.foldl (fun t r => ports.foldl (fun u p =>
        match u.out.buf.find? (fun q => q.bytes == r.bytes && q.str == n && nbit q.dests (1 + p)) with
        | some q => served u q (1 + p)
        | none => u) t) s3)

/-! ## Register writes, live registers, soft reset (R403 to R406) -/

/-- A write of a register of the output pages. -/
def outWrite (s : State) (w : Who) (a : Nat) (v : Word) : State :=
  if a = OUT_SHEET then
    let t := staticWrite s w a v (anyBound s) 0x0101
    if flag t OUT_SHEET 31 && spr t == spr s then t else updOut t (fun o => { o with sheets := [] })
  else if a = OUT_TRACK_CFG then staticWrite s w a v (anyBound s) 0x0101
  else if pageOf a = pgOutBar then
    let off := a % 4096
    if 0x100 ≤ off ∧ off < 0x200 then
      let b := (off - 0x100) / 32
      if barOn s b then wErr s w a 0x0101
      else if off % 32 = 0 ∧ bits v 12 0 < bits v 28 16 then wErr s w a 0x0102
      else if off % 32 = 4 ∧ allOk a v = false then wErr s w a 0x0102
      else plainWrite s w a v
    else if 0x400 ≤ off then
      let u := (off - 0x400) / 32
      if off % 32 = 0 then enWrite s w a v 31 0x0101 (fun _ => none) id id
      else if off % 32 = 4 then
        if flag s (OUT_UNIT_CFG u) 31 then wErr s w a 0x0101 else plainWrite s w a v
      else plainWrite s w a v
    else plainWrite s w a v
  else if pgOutStr 0 ≤ pageOf a then
    let n := (a - pgOutStr 0) / 4096
    if a = OUT_STR_TAIL n then tailWrite s n v
    else if a = OUT_STR_CFG n then enWrite s w a v 31 0x0101 (fun _ => none) id id
    else if flag s (OUT_STR_CFG n) 31 && decide (a % 4096 < 0x80) then wErr s w a 0x0101
    else if a = OUT_STR_RING_LO n 0 ∧ v.toNat % 4096 ≠ 0 then wErr s w a 0x0102
    else if (a = OUT_STR_RING n ∨ a = OUT_STR_UDP n) ∧ allOk a v = false then
      (if a = OUT_STR_RING n ∨ !rng 576 8972 (bits v 31 18) then wErr s w a 0x0102 else plainWrite s w a v)
    else plainWrite s w a v
  else plainWrite s w a v

/-- What a register of the output pages reads as where it is not held as a word. -/
def outLive (s : State) (a : Nat) : Option Nat :=
  if pgOutStr 0 ≤ a ∧ a < pgOutStr 8 ∧ a % 4096 = 0x8C then some (strFill s ((a - pgOutStr 0) / 4096)) else none

/-- Whether a bound job uses an output page (R403). -/
def outBound (s : State) (pg : Nat) : Bool :=
  if pgOutStr 0 ≤ pg then
    let n := (pg - pgOutStr 0) / 4096
    s.jobs.any (fun j => running j && jobStreams j n)
  else anyBound s

/-- The soft reset of an output page (R403). -/
def outSrst (s : State) (pg : Nat) : State :=
  let s0 := softRegs s pg
  let s1 := if pg = pgOut then updOut s0 (fun o => { o with sheets := [] }) else s0
  if pgOutStr 0 ≤ pg then
    let n := (pg - pgOutStr 0) / 4096
    wrN (updOut s1 (fun o => { o with buf := o.buf.filter (fun r => r.str != n), strs := o.strs.filter (fun e => e.1 != n) })) (OUT_STR_HEAD n) 0x40
  else s1

end Sys2Proof.Machine
end

