-- ==== Sys2Proof/Machine/Ports.lean ====
section
/-!
DEFINITION. Stream ports, ingest buffers and spill, the VES and TK-3 words, and the I3C buses (spec/03_stream_ports.md).
-/
namespace Sys2Proof.Machine
open Sys2Proof

def pgIng : Nat := 0x80000
def pgI3c (b : Nat) : Nat := 0x81000 + 0x1000 * b

/-- A port changed by f. -/
def updPort (s : State) (p : Nat) (f : PortSt → PortSt) : State := setPort s p (f (port s p))

/-! ## Discovery state (R89 to R94) -/

def pEmpty : Nat := 0
def pDiscovered : Nat := 1
def pWaiting : Nat := 2
def pStreaming : Nat := 3
def pLost : Nat := 4
def pFault : Nat := 5
def pDeclared : Nat := 6

def disc (s : State) (p : Nat) : Nat := fld s (PORT_STATUS p) 23 20
def setDisc (s : State) (p d : Nat) : State := setFld s (PORT_STATUS p) 23 20 d
def setReason (s : State) (p r : Nat) : State := setFld s (PORT_STATUS p) 19 16 r
def isLegacy (s : State) (p : Nat) : Bool := flag s (PORT_CFG p) 10

/-- Whether the port is enabled and waits for packets or takes them. -/
def inStream (s : State) (p : Nat) : Bool := disc s p == pWaiting || disc s p == pStreaming

/-- The port's stream has ended: its FINAL WATERMARK is owed (R226). -/
def streamEnd (s : State) (p : Nat) : State := updPort s p (fun x => { x with finalDue := true })

/-- LOST with a reason (R90). -/
def goLost (s : State) (p reason : Nat) : State :=
  irq (setReason (setDisc (streamEnd s p) p pLost) p reason) (portPage p) 2

/-- FAULT with a reason (R90). -/
def goFault (s : State) (p reason : Nat) : State := irq (setReason (setDisc s p pFault) p reason) (portPage p) 3

/-- EMPTY: the descriptor registers read 0 (R112); LOSS where the port was in another state. -/
def goEmpty (s : State) (p : Nat) : State :=
  let s1 := (List.range 8).foldl (fun t i => wrN t (PORT_DESC p i) 0) s
  if disc s p = pEmpty then s1 else irq (setDisc s1 p pEmpty) (portPage p) 2

/-- Whether PORT_LEG_RES holds a valid value (R119). -/
def legResOk (v : Word) : Bool := rng 1 2048 (bits v 27 16) && rng 1 1024 (bits v 10 0)

/-! ## I3C targets (R83 to R88) -/

def updBus (s : State) (b : Nat) (f : I3cSt → I3cSt) : State := setBus s b (f (bus s b))
def busCmd (s : State) (b : Nat) (c : I3cCmd) : State := updBus s b (fun x => { x with cmds := x.cmds ++ [c] })

/-- The target that holds a slot. -/
def slotTarget (s : State) (b k : Nat) : Option I3cTarget := (bus s b).targets.find? (fun t => t.slot == some k)

/-- A descriptor read put on a bus. -/
def readDesc (s : State) (b addr : Nat) : State :=
  updBus s b (fun x => { x with cmds := x.cmds ++ [.readDesc addr], reads := x.reads ++ [addr] })

/-- A descriptor read that has ended; a host transfer that waited for it starts (R117). -/
def readDone (s : State) (b addr : Nat) : State :=
  let s1 := updBus s b (fun x => { x with reads := x.reads.erase addr, waits := false })
  if (bus s b).waits then busCmd s1 b (.transfer (fld s (I3C_XFER_CTRL b) 17 16)) else s1

/-- The slot's descriptor is to be read: at once EMPTY where no target holds the slot, else a read is owed (R90). -/
def reread (s : State) (p : Nat) : State :=
  match slotTarget s (p / 4) (p % 4) with
  | none => goEmpty s p
  | some t => readDesc (updPort s p (fun x => { x with reread := true })) (p / 4) t.addr

/-- The lowest free dynamic address of 0x10–0x17 (R629). -/
def freeAddr (l : List I3cTarget) : Option Nat := (rangeFrom 0x10 8).find? (fun a => !l.any (fun t => t.addr == a))

/-- One target given an address, or left without one and counted (R629). -/
def joinOne (s : State) (b : Nat) : State :=
  match freeAddr (bus s b).targets with
  | none => bump s (I3C_NOADDR_CNT b)
  | some a =>
    readDesc (updBus s b (fun x => { x with targets := x.targets ++ [{ addr := a, desc := [], slot := none, nacks := 0 }] })) b a

/-- ENTDAA with a number of targets that answer. -/
def entdaa (s : State) (b n : Nat) : State := (List.range n).foldl (fun t _ => joinOne t b) (busCmd s b .entdaa)

/-- RSTDAA and ENTDAA on a bus (R84): every target is addressed afresh. -/
def execDaaRound (b n : Nat) (s : State) : Out :=
  let s1 := busCmd (updBus s b (fun x => { x with targets := [], reads := [] })) b .rstdaa
  let s2 := (List.range 4).foldl (fun t k => wrN t (PORT_I3C (4 * b + k)) 0) s1
  .next (entdaa s2 b n)

/-- A Hot-Join request (R629). -/
def execHotJoin (b : Nat) (s : State) : Out :=
  if !flag s (I3C_CFG b) 7 then .next (busCmd (busCmd s b .nackJoin) b .disec)
  else if (freeAddr (bus s b).targets).isNone then .next (bump (busCmd s b .nackJoin) (I3C_NOADDR_CNT b))
  else .next (entdaa s b 1)

/-- CRC-16/CCITT-FALSE of a list of bytes (R85). -/
def crc16 (bs : List Byte) : Nat :=
  bs.foldl (fun c b =>
    (List.range 8).foldl (fun r _ =>
      let m := r * 2 % 65536
      if r / 32768 = 1 then m ^^^ 0x1021 else m) (c ^^^ (b.toNat * 256))) 0xFFFF

/-- The first reason at which a descriptor is refused, 0 where it is accepted (R85, R86). -/
def descReason (d : List Byte) : Nat :=
  let n (i k : Nat) : Nat := ofLe ((d.drop i).take k)
  if crc16 (d.take 30) ≠ n 30 2 ∨ d.length ≠ 32 then 2
  else if n 0 1 ≠ 1 then 4
  else if !(rng 1 4096 (n 2 2) && rng 1 4096 (n 4 2)) then 3
  else if 4 ≤ n 12 1 ∨ ¬(n 13 1 = 1 ∨ n 13 1 = 2 ∨ n 13 1 = 4) ∨ ¬(1 ≤ n 14 1 ∧ n 14 1 ≤ 45) ∨ 8 ≤ n 15 1 ∨ n 24 6 ≠ 0 then 5
  else 0

/-- The descriptor registers of a port. -/
def showDesc (s : State) (p : Nat) (d : List Byte) : State :=
  (List.range 8).foldl (fun t i => wrN t (PORT_DESC p i) (ofLe ((d.drop (4 * i)).take 4))) s

/-- A port takes what a read of its slot's descriptor gave: DISCOVERED or FAULT (R90). -/
def takeDesc (s : State) (p : Nat) (d : List Byte) : State :=
  let s1 := showDesc (updPort s p (fun x => { x with reread := false })) p d
  let r := descReason d
  if r ≠ 0 then goFault s1 p r
  else
    let uid := ofLe ((d.drop 16).take 8)
    let known := decide ((port s1 p).lastUid = some uid)
    let s2 := updPort s1 p (fun x => { x with lastUid := some uid, clkAcc := ofLe ((d.drop 10).take 2) })
    irq (setDisc s2 p pDiscovered) (portPage p) (if known then 1 else 0)

/-- A valid descriptor read at a slot whose port stays as it is: the registers show it, and its UID is the last one seen. -/
def keepDesc (s : State) (p : Nat) (d : List Byte) : State :=
  if descReason d ≠ 0 then s
  else updPort (showDesc s p d) p (fun x => { x with lastUid := some (ofLe ((d.drop 16).take 8)), clkAcc := ofLe ((d.drop 10).take 2) })

/-- A read of a target's descriptor completes, with its bytes or without an answer. DESIGN CHOICE (log entry 144): the slot of a
descriptor whose CRC is wrong is taken from its SLOT byte all the same. -/
def execDescriptorRead (b addr : Nat) (d : Option (List Byte)) (s0 : State) : Out :=
  let s := readDone s0 b addr
  match (bus s b).targets.find? (fun t => t.addr == addr) with
  | none => .next s
  | some t =>
    match d with
    | none =>
      match t.slot with
      | none => .next s
      | some k =>
        let p := 4 * b + k
        let s1 := wrN (updBus s b (fun x => { x with targets := x.targets.filter (fun u => u.addr != addr) })) (PORT_I3C p) 0
        if (port s1 p).reread then .next (goEmpty (updPort s1 p (fun x => { x with reread := false })) p) else .next s1
    | some d =>
      let k := (ofLe ((d.drop 12).take 1)) % 4
      let p := 4 * b + k
      let held := (bus s b).targets.any (fun u => u.slot == some k && u.addr != addr)
      if held then
        .next (irq (bump (updBus s b (fun x => { x with targets := x.targets.map (fun u =>
          if u.addr = addr then { u with desc := d } else u) })) (I3C_JOIN_CONFLICT_CNT b)) (pgI3c b) 1)
      else
        let s1 := wrN (updBus s b (fun x => { x with targets := x.targets.map (fun u =>
          if u.addr = addr then { u with desc := d, slot := some k, polled := s.ft } else u) })) (PORT_I3C p) addr
        if isLegacy s1 p then .next s1
        else if disc s1 p = pEmpty ∨ (port s1 p).reread then .next (takeDesc s1 p d)
        else .next (keepDesc s1 p d)

/-- A target that stopped answering (R88, R90). -/
def targetGone (s : State) (b k : Nat) : State :=
  let p := 4 * b + k
  let s1 := wrN (updBus s b (fun x => { x with targets := x.targets.filter (fun t => t.slot != some k) })) (PORT_I3C p) 0
  if isLegacy s1 p then s1
  else if (port s1 p).reread then goEmpty (updPort s1 p (fun x => { x with reread := false })) p
  else if disc s1 p = pDiscovered then goEmpty s1 p
  else if inStream s1 p then goLost s1 p 7
  else s1

/-- The moment from which the poll of a target is due: POLL_MS after the one before, or after it took the slot (R88). -/
def pollAt (s : State) (b : Nat) (t : I3cTarget) : Nat := t.polled + fld s (I3C_CFG b) 15 8 * 1000000

/-- A GETSTATUS poll of a slot's target, due every POLL_MS, and its answer (R88, R120). -/
def execGetstatusPoll (b k : Nat) (ack : Bool) (now : Nat) (s0 : State) : Out :=
  let s := advance s0 now
  match slotTarget s b k with
  | none => .next s
  | some t =>
    if isLegacy s (4 * b + k) || decide (s.ft < pollAt s b t) then .next s
    else
      let set (n : Nat) (s : State) : State := updBus s b (fun x => { x with targets := x.targets.map (fun u =>
        if u.slot = some k then { u with nacks := n, polled := s.ft } else u) })
      let s1 := busCmd s b (.getstatus k)
      if ack then .next (set 0 s1)
      else
        let s2 := set (t.nacks + 1) (bump s1 (I3C_NACK_CNT b))
        .next (if 3 ≤ t.nacks + 1 then targetGone s2 b k else s2)

/-- A write of I3C_CFG; a change of HJ_EN is put on the bus (R629). `n` targets wait to be addressed. -/
def i3cCfgWrite (s : State) (w : Who) (b n : Nat) (v : Word) : State :=
  let s1 := plainWrite s w (I3C_CFG b) v
  if flag s (I3C_CFG b) 7 && !flag s1 (I3C_CFG b) 7 then busCmd s1 b .disec
  else if !flag s (I3C_CFG b) 7 && flag s1 (I3C_CFG b) 7 then entdaa (busCmd s1 b .enec) b n
  else s1

def execHjEnWrite (w : Who) (b n : Nat) (v : Word) (s : State) : Out :=
  .next (guardW s w 4 (I3C_CFG b) (fun t => i3cCfgWrite t w b n v))

/-! ## Host transfers (R116, R117) -/

/-- A transfer completes with a STATUS. -/
def xferDone (s : State) (b st : Nat) : State :=
  irq (setOp (wrN s (I3C_XFER_STAT b) (st * 16)) (I3C_XFER_CTRL b) false) (pgI3c b) 0

/-- A host transfer goes on the bus, or waits for the descriptor read in progress (R117). -/
def xferStart (s : State) (b k : Nat) : State :=
  if (bus s b).reads.isEmpty then busCmd s b (.transfer k) else updBus s b (fun x => { x with waits := true })

/-- A write of I3C_XFER_CTRL. DESIGN CHOICE (log entry 145): LEN = 0 completes as EMPTY even where the slot has no target. -/
def xferWrite (s : State) (w : Who) (b : Nat) (v : Word) : State :=
  let a := I3C_XFER_CTRL b
  if opOn s a then wErr s w a errBusyWrite
  else
    let s1 := plainWrite s w a v
    if !nbit v.toNat 31 then s1
    else if fld s1 a 5 0 = 0 then xferDone s1 b 1
    else if (slotTarget s1 b (fld s1 a 17 16)).isNone then xferDone s1 b 3
    else xferStart (wrN (setOp s1 a true) (I3C_XFER_STAT b) 1) b (fld s1 a 17 16)

def execI3cXferGo (w : Who) (b : Nat) (v : Word) (s : State) : Out :=
  .next (guardW s w 4 (I3C_XFER_CTRL b) (fun t => xferWrite t w b v))

/-- A host transfer ends; one that waits has not begun. -/
def execI3cXferDone (b : Nat) (x : XferEnd) (s : State) : Out :=
  let a := I3C_XFER_CTRL b
  if !opOn s a then .next s
  else if (slotTarget s b (fld s a 17 16)).isNone then .next (xferDone (updBus s b (fun x => { x with waits := false })) b 4)
  else if (bus s b).waits && !(bus s b).reads.isEmpty then .next s
  else
    match x with
    | .ok d =>
      let n := fld s a 5 0
      let d' := padTo 32 (d.take n)
      let s1 := if flag s a 15 then
          (List.range ((n + 3) / 4)).foldl (fun t i => wrN t (I3C_XFER_DATA b i) (ofLe ((d'.drop (4 * i)).take 4))) s
        else s
      .next (xferDone s1 b 0)
    | .nack => .next (xferDone (bump s (I3C_NACK_CNT b)) b 2)
    | .aborted => .next (xferDone s b 4)
    | .busErr => .next (xferDone s b 5)

/-! ## Ingest buffers and spill (R104 to R107) -/

def bufBytes (x : PortSt) : Nat := 4 * x.buf.length
def bufCap : Nat := 262144

/-- The 64 KiB segments that a port's spill takes. -/
def spillSegs (x : PortSt) : Nat := if x.spill.isEmpty then 0 else (x.spOff + x.spill.length + 16383) / 16384

/-- The segments in use, all ports, and the segments of the region. -/
def segsUsed (s : State) : Nat := (s.ports.map (fun e => spillSegs e.2)).foldl (· + ·) 0
def segsAll (s : State) : Nat := fld s ING_SPILL_SIZE 11 0 * 16

/-- A port with one more word in its spill. -/
def spillPush (x : PortSt) (w : BufWord) : PortSt := { x with spill := x.spill ++ [w] }

/-- Whether a port's spill can take a word: its quota and the region have room. -/
def spillRoom (s : State) (p : Nat) (w : BufWord) : Bool :=
  let x := port s p
  let y := spillPush x w
  decide (4 * y.spill.length ≤ fld s (PORT_SPILL_CFG p) 31 16 * 1048576) &&
    decide (segsUsed s + spillSegs y - spillSegs x ≤ segsAll s)

/-- The reasons of the spill loop's actions in the log: the fill has reached HI, the spill is empty again. -/
def rsnSpillHi : Nat := 1
def rsnSpillEmpty : Nat := 2

/-- SPILLING, with its interrupt when it rises; a change is an action of the spill loop (spec/01_architecture.md R39). -/
def setSpilling (s : State) (p : Nat) (b : Bool) : State :=
  if flag s (PORT_STATUS p) 12 = b then s
  else
    let s1 := addLogData (setFlag s (PORT_STATUS p) 12 b) .spill (b2n !b) (b2n b) (if b then rsnSpillHi else rsnSpillEmpty) [p]
    if b then irq s1 (portPage p) 4 else s1

/-- A word that finds no place (R105, R106). -/
def loseWord (s : State) (p : Nat) : State :=
  let s0 := if inBelay s then endJobs s errOverrun (fun j => jobPort s j p) else s
  updPort (irq (bump s0 (PORT_LOST_WORDS p)) (portPage p) 5) p (fun x => { x with gap := true })

/-- A word goes to the tail of the spill. -/
def toSpill (s : State) (p : Nat) (w : BufWord) : State :=
  let before := segsUsed s
  let s1 := setSpilling (updPort s p (fun x => spillPush x w)) p true
  let s2 := peak s1 ING_SPILL_PEAK (64 * segsUsed s1)
  if before < segsAll s2 ∧ segsUsed s2 = segsAll s2 then irq s2 pgIng 0 else s2

/-- A word enters the ingest path (R104, R105); the first one after a dropped packet that finds a place carries the mark of it. -/
def pushWord (p : Nat) (s : State) (w0 : BufWord) : State :=
  let s := bump s (PORT_WORD_CNT p)
  let x := port s p
  let w := { w0 with inval := x.dropped }
  let took (s : State) : State := updPort s p (fun x => { x with dropped := false })
  if !x.spill.isEmpty then (if spillRoom s p w then toSpill (took s) p w else loseWord s p)
  else if fld s (PORT_SPILL_CFG p) 11 8 * 32768 ≤ bufBytes x ∧ spillRoom s p w = true then toSpill (took s) p w
  else if bufBytes x + 4 ≤ bufCap then
    let s1 := updPort s p (fun x => { x with buf := x.buf ++ [w], dropped := false })
    peak s1 (PORT_BUF_PEAK p) (bufBytes (port s1 p))
  else loseWord s p

/-- The words of a payload. -/
def packetWords (x : PortSt) (arr : Nat) (bs : List Byte) : List BufWord :=
  (List.range (bs.length / 4)).map (fun i =>
    { w := word (ofLe ((bs.drop (4 * i)).take 4)), arr := arr, pkt := x.pkt, inval := false })

/-- TIME_VALID follows T. -/
def showTime (s : State) (p : Nat) : State := setFlag s (PORT_STATUS p) 13 (port s p).t.isSome

/-- T is invalid from here (R97). -/
def timeInvalid (s : State) (p : Nat) : State := showTime (updPort s p (fun x => { x with t := none })) p

/-- The drop of a packet takes effect on T once no word before it is left. -/
def settleDrop (s : State) (p : Nat) : State :=
  let x := port s p
  if x.dropped && x.buf.isEmpty && x.spill.isEmpty then timeInvalid (updPort s p (fun x => { x with dropped := false })) p else s

/-- A packet was dropped: T is invalid once the words before it are decoded (R97). -/
def packetDropped (s : State) (p : Nat) : State := settleDrop (updPort s p (fun x => { x with dropped := true })) p

/-! ## Packets (R79 to R82, R628) -/

/-- A progress mark of a port, in 16 ns units (R148, R226). -/
def markAt (s : State) (p stamp : Nat) : State := updPort s p (fun x => { x with lastStamp := max x.lastStamp stamp })

/-- A stamp by arrival in 16 ns units (R123): nearest, ties up. -/
def arrStamp (s : State) (p arr : Nat) : Nat := (((arr : Int) + rdS s (PORT_LEG_OFFSET p) + 8) / 16).toNat

/-- An accepted packet: link activity, and its words while the port waits or streams. -/
def acceptPacket (s : State) (p arr now : Nat) (bs : List Byte) : State :=
  if !inStream s p then s
  else
    let s1 := if disc s p = pWaiting then setDisc s p pStreaming else s
    let s2 := updPort s1 p (fun x => { x with lastPkt := now, pkt := x.pkt + 1 })
    let ws := packetWords (port s2 p) arr bs
    let s3 := ws.foldl (pushWord p) s2
    if ws.isEmpty && isLegacy s3 p && flag s3 (PORT_STATUS p) 14 && (port s3 p).buf.isEmpty then markAt s3 p (arrStamp s3 p arr)
    else s3

/-- The checks on a long packet. DESIGN CHOICE (log entry 146): one that fails its CRC and is too long counts for its CRC only. -/
def checkPacket (s : State) (p arr now : Nat) (x : Packet) : State :=
  if 2 ≤ x.hdrErr then packetDropped (bump s (PORT_ECC_UNCORR p)) p
  else
    let s1 := if x.hdrErr = 1 then bump s (PORT_ECC_CORR p) else s
    if x.vc ≠ fld s1 (PORT_CFG p) 7 4 ∨ x.dt ≠ 0x30 + fld s1 (PORT_CFG p) 2 0 then bump s1 (PORT_OTHER_PKT p)
    else if !x.crcOk then packetDropped (irq (bump s1 (PORT_CRC_ERR p)) (portPage p) 6) p
    else if 16384 < x.payload.length then packetDropped (bump s1 (PORT_PKT_FORMAT p)) p
    else
      let s2 := if x.payload.length % 4 = 0 then s1 else bump s1 (PORT_PKT_FORMAT p)
      acceptPacket s2 p arr now x.payload

/-- A data lane goes into HS, or the last one leaves it. -/
def laneSet (s : State) (p now : Nat) (hs : Bool) : State := updPort s p (fun x => { x with lane := hs, hs := some now })

/-- HS_ACTIVE: a data lane was in HS within the last 1 µs (R111). -/
def hsActive (s : State) (p : Nat) : Bool :=
  (port s p).lane || (match (port s p).hs with | some h => decide (s.ft ≤ h + 1000) | none => false)

/-- The words of a port in a packet that its header announces: none where the packet is another channel's or type's, or the port
neither waits nor streams. -/
def ownWords (s : State) (p vc dt len : Nat) : Nat :=
  if inStream s p && vc == fld s (PORT_CFG p) 7 4 && dt == 0x30 + fld s (PORT_CFG p) 2 0 then len / 4 else 0

/-- What the lanes of a port show: the start or the end of a long packet, or HS without one. The end of a packet that a soft reset
has discarded moves the lanes only. -/
def execPacketReceive (p : Nat) (e : PacketEvent) (s0 : State) : Out :=
  match e with
  | .start arr vc dt len =>
    let s := laneSet (advance s0 arr) p arr true
    .next (updPort s p (fun x => { x with rx := some arr, rxWords := ownWords s p vc dt len }))
  | .lane now hs => .next (laneSet (advance s0 now) p now hs)
  | .finish now x =>
    let s := laneSet (advance s0 now) p now false
    match (port s p).rx with
    | none => .next s
    | some arr => .next (checkPacket (updPort s p (fun y => { y with rx := none, rxWords := 0 })) p arr now x)

/-- Words move from the spill's head while the fill is below HI. -/
def refill (hi : Nat) (x : PortSt) : Nat → PortSt
  | 0 => x
  | n + 1 =>
    let x' := refill hi x n
    match x'.spill with
    | [] => { x' with spOff := 0 }
    | w :: t =>
      if bufBytes x' < hi then { x' with buf := x'.buf ++ [w], spill := t, spOff := if t.isEmpty then 0 else (x'.spOff + 1) % 16384 }
      else x'

/-- The buffer is refilled from the head of the spill once its fill has fallen to LO (R104). -/
def execSpillRefill (p : Nat) (s : State) : Out :=
  let x := port s p
  if x.spill.isEmpty || decide (fld s (PORT_SPILL_CFG p) 3 0 * 32768 < bufBytes x) then .next s
  else
    let y := refill (fld s (PORT_SPILL_CFG p) 11 8 * 32768) x x.spill.length
    let s1 := peak (setPort s p y) (PORT_BUF_PEAK p) (bufBytes y)
    .next (if y.spill.isEmpty then setSpilling s1 p false else s1)

/-! ## Events (R98, R99, R147, R148) -/

/-- The count of events in the present millisecond, and in the last complete one (R114). -/
def countEvent (s : State) : State :=
  let ms := s.ft / 1000000
  if ms = s.evMs then { s with evCnt := s.evCnt + 1 }
  else { s with evMs := ms, evLast := if ms = s.evMs + 1 then s.evCnt else 0, evCnt := 1 }

/-- A stamped event leaves the port for registration, or is counted where the port is in no enabled bar (R187), or where
the device is in BIVOUAC (R107). -/
def emit (s : State) (p u v : Nat) (pol : Bool) (stamp arr : Nat) (arrival : Bool) : State :=
  if inBivouac s then bump s (PORT_BIVOUAC_DROP p)
  else
    let x := port s p
    let s1 := if stamp < x.lastStamp then bump s (PORT_TIME_BACK p) else s
    let st := max stamp x.lastStamp
    let s2 := countEvent (bump s1 (PORT_EVENT_CNT p))
    let s3 := updPort s2 p (fun x => { x with lastStamp := st })
    if (barOf s3 p).isNone then bump s3 FUS_UNBARRED_CNT
    else
      let e : WEvent := { stamp := st, u := u, v := v, pol := pol, gap := x.gap, arrival := arrival
                          unlocked := decide ((servo s3 p).mode = .acquire), w := x.w, h := x.h }
      let fl := !arrival && !e.unlocked && !isLegacy s3 p
      updPort s3 p (fun x => { x with waiting := x.waiting ++ [e], gap := false
                                      flow := if fl then { stamp := st, u := u, v := v, pol := pol, arr := arr, w := x.w, h := x.h } :: x.flow
                                              else x.flow })

/-- An event of a VES word at the port's T and row. DESIGN CHOICE (log entry 147): without a valid T an event counts in
PORT_NO_TIME_DROP, whatever its place. -/
def vesEvent (p arr : Nat) (s : State) (x : Nat) : State :=
  let q := port s p
  match q.t, q.row with
  | some t, some (y, pol) =>
    if q.w ≤ x ∨ q.h ≤ y then bump s (PORT_RANGE_DROP p)
    else emit s p x y pol (srvStamp (servo s p) t) arr false
  | _, _ => bump s (PORT_NO_TIME_DROP p)

/-! ## The word at the head of a port's buffer -/

/-- The head word leaves the buffer; T is invalid where a packet was dropped before it. -/
def popWord (s : State) (p : Nat) : State :=
  match (port s p).buf with
  | [] => s
  | b :: t =>
    let s1 := updPort s p (fun x => { x with buf := t })
    settleDrop (if b.inval then timeInvalid s1 p else s1) p

/-- Whether a word is one of the payload words that an EXTENDED word has announced (R103). -/
def skipping (x : PortSt) (b : BufWord) : Bool := decide (0 < x.skip) && decide (b.pkt = x.skipPkt)

/-- The head word, where the port is in the mode and the word satisfies the test, is taken by f. -/
def withWord (s : State) (p : Nat) (legacy : Bool) (test : Nat → Bool) (f : State → BufWord → State) : Out :=
  match (port s p).buf with
  | [] => .next s
  | b :: _ =>
    if isLegacy s p = legacy ∧ skipping (port s p) b = false ∧ test b.w.toNat = true then .next (f (popWord s p) b) else .next s

/-- The opcode of a VES word (R95). -/
def vop (w : Nat) : Nat := nbits w 31 28

/-- Whether a VES word is rejected (R96). -/
def vesBad (w : Nat) : Bool :=
  match vop w with
  | 0 => nbits w 27 0 != 0
  | 1 => false
  | 2 => nbits w 27 16 != 0
  | 3 => nbits w 27 14 != 0
  | 4 => nbits w 27 21 != 0 || nbits w 7 0 == 0
  | 5 => nbit w 27 || nbits w 13 0 == 0
  | 6 => nbits w 27 1 != 0
  | 7 => decide (6 ≤ nbits w 27 24)
  | 15 => false
  | _ => true

/-- Whether a word is an accepted VES word of an opcode. -/
def vesIs (op w : Nat) : Bool := vop w == op && !vesBad w

def execPad (p : Nat) (s : State) : Out := withWord s p false (vesIs 0) (fun t _ => t)

/-- The servo gets a pair and registration a progress mark, at the port's T (R145, R226). -/
def pairAndMark (s : State) (p t arr : Nat) : State :=
  let s1 := srvPair s p t arr
  markAt s1 p (srvStamp (servo s1 p) t)

/-- T set, and T_LAST with it. -/
def setTime (s : State) (p t : Nat) : State := showTime (updPort s p (fun x => { x with t := some t, tLast := some t })) p

/-- TIME_BASE (R97, R100). -/
def execTimeBase (p : Nat) (s : State) : Out :=
  withWord s p false (vesIs 1) (fun s b =>
    let x := port s p
    let t := nbits b.w.toNat 27 0 * 65536
    let backward := match x.tLast with | some l => decide (t < l) | none => false
    let s1 := updPort s p (fun x => { x with restart := false, back := if backward then x.back + 1 else 0 })
    if backward && !x.restart && decide (x.back + 1 < 16) then bump s1 (PORT_TIME_BACK p)
    else
      let s2 := setTime (updPort s1 p (fun x => { x with row := none, back := 0 })) p t
      let s3 := if backward then srvAcquire (irq s2 (portPage p) 9) p else s2
      pairAndMark s3 p t b.arr)

/-- TIME_DELTA (R97). -/
def execTimeDelta (p : Nat) (s : State) : Out :=
  withWord s p false (vesIs 2) (fun s b =>
    match (port s p).t with
    | none => s
    | some t0 =>
      let t := (t0 + nbits b.w.toNat 15 0) % 17592186044416
      pairAndMark (setTime s p t) p t b.arr)

def execRow (p : Nat) (s : State) : Out :=
  withWord s p false (vesIs 3) (fun s b =>
    updPort s p (fun x => { x with row := some (nbits b.w.toNat 12 0, nbit b.w.toNat 13) }))

def execRun (p : Nat) (s : State) : Out :=
  withWord s p false (vesIs 4) (fun s b =>
    (rangeFrom (nbits b.w.toNat 20 8) (nbits b.w.toNat 7 0)).foldl (vesEvent p b.arr) s)

def execMask (p : Nat) (s : State) : Out :=
  withWord s p false (vesIs 5) (fun s b =>
    (((List.range 14).filter (fun i => nbit b.w.toNat i)).map (fun i => nbits b.w.toNat 26 14 + i)).foldl (vesEvent p b.arr) s)

/-- TRIGGER (R101). -/
def execTrigger (p : Nat) (s : State) : Out :=
  withWord s p false (vesIs 6) (fun s b =>
    match (port s p).t with
    | none => bump s (PORT_NO_TIME_DROP p)
    | some t =>
      let s1 := bump s (PORT_TRIG_CNT p)
      { s1 with trigs := s1.trigs ++ [(p, 16 * srvStamp (servo s1 p) t, nbit b.w.toNat 0)] })

/-- SENSOR_STATUS (R102). -/
def execSensorStatus (p : Nat) (s : State) : Out :=
  withWord s p false (vesIs 7) (fun s b =>
    let s1 := irq (wr s (PORT_STATUS_WORD p) b.w) (portPage p) 8
    match nbits b.w.toNat 27 24 with
    | 2 => updPort s1 p (fun x => { x with gap := true })
    | 4 => updPort s1 p (fun x => { x with restart := true })
    | 5 => if inStream s1 p then goLost s1 p 8 else s1
    | _ => s1)

/-- EXTENDED (R103): the word is skipped and counted, and then, one at a time, the COUNT words after it in its packet. -/
def execExtended (p : Nat) (s : State) : Out :=
  match (port s p).buf with
  | [] => .next s
  | b :: _ =>
    if isLegacy s p then .next s
    else if skipping (port s p) b then .next (updPort (popWord s p) p (fun x => { x with skip := x.skip - 1 }))
    else if vesIs 15 b.w.toNat then
      .next (updPort (bump (popWord s p) (PORT_EXT_SKIP p)) p (fun x => { x with skip := nbits b.w.toNat 19 16, skipPkt := b.pkt }))
    else .next s

/-! ## TK-3 words (R121 to R125) -/

/-- Whether a TK-3 word is rejected. -/
def tkBad (w : Nat) : Bool :=
  match nbits w 31 30 with
  | 0 => nbits w 7 6 != 0
  | 1 => nbits w 29 22 != 0
  | _ => true

/-- A rejected word (R96). -/
def reject (s : State) (p : Nat) (b : BufWord) : State :=
  irq (wr (bump s (PORT_VES_REJECT p)) (PORT_VES_LAST_REJ p) b.w) (portPage p) 7

def execVesReject (p : Nat) (s : State) : Out :=
  if isLegacy s p then withWord s p true tkBad (fun s b => reject s p b)
  else withWord s p false vesBad (fun s b => reject s p b)

/-- ARRIVAL_STAMP, with its interrupt when it rises. -/
def setArrival (s : State) (p : Nat) (b : Bool) : State :=
  if flag s (PORT_STATUS p) 14 = b then s
  else
    let s1 := setFlag s (PORT_STATUS p) 14 b
    if b then irq s1 (portPage p) 10 else s1

/-- Stamping by arrival begins where more than 4 ms has passed since the last TIME_HIGH (R123). -/
def checkArrival (s : State) (p arr : Nat) : State :=
  match (port s p).lastTh with
  | none => setArrival s p true
  | some l => if l + 4000000 < arr then setArrival s p true else s

/-- TIME_HIGH (R122, R124, R145). -/
def execTimeHigh (p : Nat) (s : State) : Out :=
  withWord s p true (fun w => nbits w 31 30 == 1 && !tkBad w) (fun s b =>
    let s1 := checkArrival s p b.arr
    let x := port s1 p
    let close := match x.lastTh with | some l => decide (b.arr ≤ l + 4000000) | none => false
    let s2 := if close then setArrival s1 p false else s1
    let h := nbits b.w.toNat 21 0
    let wraps := if x.lastTh.isSome && decide (h < x.tHigh) then x.wraps + 1 else x.wraps
    let t := wraps * 268435456 + h * 64
    let s3 := setTime (updPort s2 p (fun x => { x with tHigh := h, wraps := wraps, lastTh := some b.arr })) p t
    if flag s3 (PORT_STATUS p) 14 then markAt s3 p (arrStamp s3 p b.arr) else pairAndMark s3 p t b.arr)

/-- A TK-3 EVENT (R121 to R125). DESIGN CHOICE (log entry 147): one outside PORT_LEG_RES counts in PORT_RANGE_DROP, with or
without a valid T. -/
def execTkEvent (p : Nat) (s : State) : Out :=
  withWord s p true (fun w => nbits w 31 30 == 0 && !tkBad w) (fun s b =>
    let s1 := checkArrival s p b.arr
    let w := b.w.toNat
    let x := port s1 p
    let u := nbits w 29 19
    let v := nbits w 18 9
    if x.w ≤ u ∨ x.h ≤ v then bump s1 (PORT_RANGE_DROP p)
    else if flag s1 (PORT_STATUS p) 14 then emit s1 p u v (nbit w 8) (arrStamp s1 p b.arr) b.arr true
    else match x.t with
      | none => bump s1 (PORT_NO_TIME_DROP p)
      | some t => emit s1 p u v (nbit w 8) (srvStamp (servo s1 p) ((t + nbits w 5 0 : Nat) : Int)) b.arr false)

/-! ## Enabling and disabling a port (R90 to R92, R97, R149) -/

/-- Whether a port may be enabled (R92). -/
def mayEnablePort (s : State) (p : Nat) : Bool :=
  (disc s p == pDiscovered || disc s p == pDeclared) && !(inBelay s && isLegacy s p && s.jobs.any (fun j => jobPort s j p))

/-- The stream of a port starts anew; a FINAL still owed for the one before follows that stream's last event (R225, R226). -/
def newStream (s : State) (p : Nat) : State :=
  if (port s p).finalDue then updPort s p (fun x => { x with old := some x.waiting.length }) else newSource s p

/-- The effects of an enable. -/
def portEnable (s0 : State) (p : Nat) : State :=
  let s := newStream s0 p
  let leg := isLegacy s p
  let d0 := rdN s (PORT_DESC p 0)
  let d1 := rdN s (PORT_DESC p 1)
  let w := if leg then fld s (PORT_LEG_RES p) 27 16 else nbits d0 31 16
  let h := if leg then fld s (PORT_LEG_RES p) 10 0 else nbits d1 15 0
  let s1 := updPort (setDisc s p pWaiting) p (fun x =>
    { x with t := none, tLast := none, row := none, skip := 0, restart := false, back := 0, w := w, h := h
             enFt := s.ft, lastPkt := s.ft, tHigh := 0, wraps := 0, lastTh := none
             clkAcc := if leg then 0 else x.clkAcc })
  let s2 := srvAcquire (showTime s1 p) p
  if leg then setArrival s2 p true else s2

/-- The effects of a disable, once it takes effect. -/
def portDisable (s : State) (p : Nat) : State :=
  let home := if isLegacy s p then pDeclared else pDiscovered
  let s1 := srvIdle s p
  if inStream s1 p then setDisc (streamEnd s1 p) p home
  else if isLegacy s1 p then setDisc s1 p pDeclared
  else reread s1 p

/-- EN = 0 written to a port that is disabled already: one in FAULT has its descriptor read again (R90, R91). -/
def portDisableAgain (s : State) (p : Nat) : State :=
  if disc s p = pFault ∧ (port s p).reread = false then portDisable s p else s

/-- NO_STREAM (R90): due 50 ms after the enable while no packet was accepted. -/
def execNoStream (p now : Nat) (s0 : State) : Out :=
  let s := advance s0 now
  if disc s p = pWaiting ∧ (port s p).enFt + 50000000 ≤ now then .next (goFault (streamEnd s p) p 1) else .next s

/-- LINK_TIMEOUT (R90): due LOSS_TMO ms after the last accepted packet. -/
def execLinkTimeout (p now : Nat) (s0 : State) : Out :=
  let s := advance s0 now
  if disc s p = pStreaming ∧ (port s p).lastPkt + fld s (PORT_CFG p) 31 24 * 1000000 ≤ now then .next (goLost s p 6)
  else .next s

/-! ## Register writes (R110, R112, R114, R118 to R120) -/

/-- Whether PAGE_CTRL.EN of a port keeps its registers static (R64). -/
def portStatic (s : State) (p : Nat) : Bool := portOn s p

/-- A write of PORT_CFG (R110, R118, R120). -/
def portCfgWrite (s : State) (w : Who) (p : Nat) (v : Word) : State :=
  let a := PORT_CFG p
  if portStatic s p then wErr s w a 0x0101
  else if nbit v.toNat 10 && decide (4 ≤ p) then wErr s w a 0x0104
  else if nbit v.toNat 10 && inBelay s then wErr s w a 0x0105
  else
    let old := isLegacy s p
    let s1 := plainWrite s w a v
    if !old && isLegacy s1 p then
      let s2 := (List.range 8).foldl (fun t i => wrN t (PORT_DESC p i) 0) (setFlag s1 (PORT_STATUS p) 15 true)
      setDisc (updPort s2 p (fun x => { x with reread := false })) p (if legResOk (rd s2 (PORT_LEG_RES p)) then pDeclared else pEmpty)
    else if old && !isLegacy s1 p then
      let s2 := setFlag (setFlag (wrN s1 (PORT_LEG_RES p) 0) (PORT_STATUS p) 15 false) (PORT_STATUS p) 14 false
      reread (setDisc s2 p pEmpty) p
    else s1

def execLegacyWrite (w : Who) (p : Nat) (v : Word) (s : State) : Out :=
  .next (guardW s w 4 (PORT_CFG p) (fun t => portCfgWrite t w p v))

/-- A write of PORT_LEG_RES (R119, R120). -/
def legResWrite (s : State) (w : Who) (p : Nat) (v : Word) : State :=
  let a := PORT_LEG_RES p
  if portStatic s p then wErr s w a 0x0101
  else if !legResOk v then wErr s w a 0x0103
  else
    let s1 := plainWrite s w a v
    if isLegacy s1 p && disc s1 p == pEmpty then setDisc s1 p pDeclared else s1

def execPortLegResWrite (w : Who) (p : Nat) (v : Word) (s : State) : Out :=
  .next (guardW s w 4 (PORT_LEG_RES p) (fun t => legResWrite t w p v))

/-- A write of PORT_SPILL_CFG: LO stays below HI (R112). -/
def spillCfgWrite (s : State) (w : Who) (p : Nat) (v : Word) : State :=
  if portStatic s p then wErr s w (PORT_SPILL_CFG p) 0x0101
  else if bits v 11 8 ≤ bits v 3 0 then wErr s w (PORT_SPILL_CFG p) errReservedEnc
  else plainWrite s w (PORT_SPILL_CFG p) v

/-- A write of a register of a stream port page. -/
def portWrite (s : State) (w : Who) (p a : Nat) (v : Word) : State :=
  if a = PORT_CFG p then portCfgWrite s w p v
  else if a = PORT_LEG_RES p then legResWrite s w p v
  else if a = PORT_SPILL_CFG p then spillCfgWrite s w p v
  else if a = PORT_LEG_OFFSET p then
    (if portStatic s p then wErr s w a 0x0101 else updPort (plainWrite s w a v) p (fun x => { x with offLo := bits v 15 0 }))
  else plainWrite s w a v

/-- PAGE_STAT.BUSY of the ingest page (R114). -/
def ingBusy (s : State) : Bool := (List.range 32).any (fun p => portOn s p || !(port s p).spill.isEmpty)

/-- A write of a register of the ingest page (R114). -/
def ingWrite (s : State) (w : Who) (a : Nat) (v : Word) : State :=
  let base := if a = ING_SPILL_BASE then bits v 20 0 else fld s ING_SPILL_BASE 20 0
  let size := if a = ING_SPILL_SIZE then bits v 11 0 else fld s ING_SPILL_SIZE 11 0
  if a ≠ ING_SPILL_BASE ∧ a ≠ ING_SPILL_SIZE then plainWrite s w a v
  else if ingBusy s then wErr s w a errBusyWrite
  else if 2048 < size ∨ memSize < base * 65536 + size * 1048576 then wErr s w a 0x0101
  else plainWrite s w a v

/-- A write of a register of an I3C page. -/
def i3cWrite (s : State) (w : Who) (b a : Nat) (v : Word) : State :=
  if a = I3C_CFG b then i3cCfgWrite s w b 0 v
  else if a = I3C_XFER_CTRL b then xferWrite s w b v
  else plainWrite s w a v

/-! ## The TK-3 window (R43, R127) -/

/-- What a TK-3 register reads as, and the state after the read. -/
def tkRead (s : State) (p off : Nat) : State × Nat :=
  match off with
  | 0x000 => (s, 0x0C03)
  | 0x002 => (s, fld s (PAGE_CTRL (portPage p)) 0 0)
  | 0x004 => (s, b2n (disc s p == pLost) * 4 + b2n (!flag s (PORT_STATUS p) 14) * 2 + b2n (hsActive s p))
  | 0x006 => (s, fld s (PORT_LEG_RES p) 27 16)
  | 0x008 => (s, fld s (PORT_LEG_RES p) 10 0)
  | 0x00A =>
    let n := rdN s (PORT_EVENT_CNT p)
    (updPort s p (fun x => { x with cntHi := n / 65536 }), n % 65536)
  | 0x00C => (s, (port s p).cntHi)
  | 0x00E => (s, fld s (PORT_LEG_OFFSET p) 15 0)
  | 0x010 => (s, fld s (PORT_LEG_OFFSET p) 31 16)
  | _ => (s, 0)

/-- A write of TK_OFFSET_HI commits the offset (R127). -/
def tkOffsetHi (s : State) (w : Who) (p v : Nat) : State :=
  if portStatic s p then wErr s w (PORT_LEG_OFFSET p) 0x0101
  else wrN s (PORT_LEG_OFFSET p) (v % 65536 * 65536 + (port s p).offLo)

/-- A write of one dimension of PORT_LEG_RES through the window; one out of its range is dropped (R119). The other dimension may
not have been written yet: the port becomes DECLARED when both are in range (log entry 148). -/
def tkRes (s : State) (w : Who) (p lim n : Nat) (v : Word) : State :=
  if portStatic s p then wErr s w (PORT_LEG_RES p) 0x0101
  else if !rng 1 lim n then wErr s w (PORT_LEG_RES p) 0x0103
  else
    let s1 := wr s (PORT_LEG_RES p) v
    if legResOk v && disc s1 p == pEmpty then setDisc s1 p pDeclared else s1

/-- The checks of an access through the window (R43, R63, R127): width, class, state and legacy mode. -/
def tkCheck (s : State) (w : Who) (isWr : Bool) (size p off : Nat) : Chk :=
  let pg := portPage p
  if w.cls = .debug ∧ granted s = false then .noGrant
  else if ¬(size = 2 ∧ off % 2 = 0) then .fail errLegacyWidth
  else if !(if isWr then mayWrite s w pg else mayRead s w pg) then .fail errDenied
  else if isWr && flag s (genKey w.fn pg) 16 && decide (fld s (genKey w.fn pg) 15 8 ≠ pageGen s pg) then .fail errStaleGen
  else if unitState s pg < 3 then .fail errInReset
  else if !isLegacy s p then .fail 0x0106
  else .ok

/-- A refused access through the window is recorded in the port's page. -/
def tkFail (s : State) (w : Who) (isWr : Bool) (p off c : Nat) : State :=
  let s1 := recErr s (portPage p) c (accInfo w isWr (portPage p + off))
  if c = errDenied then bump s1 (GLB_DENIED_CNT (classCode w.cls)) else s1

/-- Live registers of the port and ingest pages. DESIGN CHOICE (log entry 149): PORT_SPILL_FILL counts a part of a KiB as one. -/
def portLive (s : State) (a : Nat) : Option Nat :=
  if portPage 0 ≤ a ∧ a < portPage 0 + 0x20000 then
    let p := (a - portPage 0) / 4096
    if a = PORT_BUF_FILL p then some (bufBytes (port s p))
    else if a = PORT_SPILL_FILL p then some ((4 * (port s p).spill.length + 1023) / 1024)
    else if a = PORT_STATUS p then some (nput (rdN s a) 11 11 (b2n (hsActive s p)))
    else none
  else if a = ING_SPILL_FILL then some (64 * segsUsed s)
  else if a = ING_EVENT_RATE then
    some (if s.ft / 1000000 = s.evMs then s.evLast else if s.ft / 1000000 = s.evMs + 1 then s.evCnt else 0)
  else none

/-! ## Soft reset (R108) and BIVOUAC (R107) -/

/-- Whether a port feeds a running job. -/
def portBound (s : State) (p : Nat) : Bool := s.jobs.any (fun j => running j && jobPort s j p)

/-- The soft reset of a port that feeds no running job. -/
def portSrst (s : State) (p : Nat) : State :=
  let x := port s p
  let lost := (if x.rx.isSome then x.rxWords else 0) + x.buf.length + x.spill.length + x.waiting.length
  let was := inStream s p
  let d := disc s p
  let s1 := softRegs s (portPage p)
  let s2 := setPort s1 p { pkt := x.pkt, lastUid := x.lastUid, clkAcc := x.clkAcc, lastStamp := x.lastStamp
                           lane := x.lane, hs := x.hs, finalDue := x.finalDue || was, gap := x.gap }
  let s3 := ([PORT_STATUS p, PORT_VES_LAST_REJ p, PORT_STATUS_WORD p] ++ (List.range 8).map (PORT_DESC p)).foldl
    (fun t a => wrN t a 0) s2
  let s4 := srvIdle (bumpN s3 (PORT_LOST_WORDS p) lost) p
  reread (setDisc s4 p d) p

/-- Every buffered word of every port discarded on entry to BIVOUAC. -/
def ingestDiscard (s : State) : State :=
  (List.range 32).foldl (fun t p =>
    let x := port t p
    let n := x.buf.length + x.spill.length
    if n = 0 then t
    else
      let cut := x.dropped || (x.buf ++ x.spill).any (fun w => w.inval)
      settleDrop (setSpilling (bumpN (setPort t p { x with buf := [], spill := [], spOff := 0, dropped := cut })
        (PORT_LOST_WORDS p) n) p false) p) s

end Sys2Proof.Machine
end

