-- ==== Sys2Proof/Machine/Vote.lean ====
section
/-!
DEFINITION. The vote of a fusion instant as a function of what it takes (spec/06_fusion_alignment.md R195, R198, R199).
-/
namespace Sys2Proof.Machine
open Sys2Proof

/-- 64-bit signed arithmetic (R195). -/
def w64 (i : Int) : Int := sx 64 (twos 64 i)

/-- A measurement put into a list in order of value, ties by slot (R198). -/
def insVal (x : Nat × Int) : List (Nat × Int) → List (Nat × Int)
  | [] => [x]
  | y :: t => if x.2 < y.2 ∨ (x.2 = y.2 ∧ x.1 ≤ y.1) then x :: y :: t else y :: insVal x t

def sortVals (l : List (Nat × Int)) : List (Nat × Int) := l.foldr insVal []

/-- The median of sorted measurements (R198). -/
def medOf (l : List (Nat × Int)) : Int :=
  let n := l.length
  if n % 2 = 1 then (l.getD (n / 2) (0, 0)).2
  else asr ((l.getD (n / 2 - 1) (0, 0)).2 + (l.getD (n / 2) (0, 0)).2) 1

/-- How a vote ends. -/
inductive VoteKind
  | held | voted | disputed
  deriving DecidableEq, Repr

/-- The result of a vote: how it ended, the value, the largest deviation of an agreeing source, the median, and the voting
sources with whether each lies outside tolerance. -/
structure VoteRes where
  kind : VoteKind
  v : Int
  dev : Nat
  med : Int
  srcs : List (Nat × Bool)
  deriving DecidableEq, Repr

/-- The fallback value of a disputed vote (R199). -/
def fallback (q : Nat) (ss : List (Nat × Int)) (und : Int) : Int :=
  if q = 0 then
    let wheels := ss.filter (fun e => decide (e.1 < 4))
    if wheels.isEmpty then und else medOf wheels
  else if q ≤ 2 then und else 0

/-- The vote of one quantity over its sources (R198). -/
def voteOne (q tol : Nat) (last und : Int) (srcs : List (Nat × Int)) : VoteRes :=
  let ss := sortVals srcs
  if ss.isEmpty then { kind := .held, v := last, dev := 0, med := 0, srcs := [] }
  else
    let m := medOf ss
    let bad := ss.map (fun e => (e.1, decide (tol < absI (e.2 - m))))
    let nb := (bad.filter (·.2)).length
    if 2 ≤ ss.length ∧ ss.length < 2 * nb then { kind := .disputed, v := fallback q ss und, dev := 0, med := m, srcs := bad }
    else
      let dev := ss.foldl (fun d e => if absI (e.2 - m) ≤ tol then max d (absI (e.2 - m)) else d) 0
      { kind := .voted, v := m, dev := dev, med := m, srcs := bad }

/-- The measurements of quantity q, flow estimates corrected by the bar's own motion at the instant (R195). -/
def measured (i : VoteIn) (q : Nat) (vx vy wz : Int) : List (Nat × Int) :=
  (i.vals.filter (fun e => e.2.1 == q)).map (fun e => (e.1, e.2.2)) ++
  (if q = 0 then i.flow.map (fun f => (f.1, w64 (f.2.1 + vy)))
   else if q = 1 then i.flow.map (fun f => (f.1, w64 (f.2.2.1 + vx)))
   else if q = 2 then i.flow.map (fun f => (f.1, w64 (f.2.2.2 + wz))) else [])

/-- The measurements that vote: of sources that may vote, and of wheels that do not slip. -/
def voting (i : VoteIn) (q : Nat) (l : List (Nat × Int)) : List (Nat × Int) :=
  l.filter (fun e => i.elig.contains (9 * e.1 + q) && !i.slips.contains e.1)

/-- The nine votes of an instant: q3 to q8, then q0 to q2 (R198). -/
def voteAll (tol : Nat → Nat) (i : VoteIn) : List VoteRes :=
  let one (vx vy wz : Int) (q : Nat) : VoteRes :=
    voteOne q (tol q) (i.last.getD q 0) (i.undis.getD q 0) (voting i q (measured i q vx vy wz))
  let own := (rangeFrom 3 6).map (one 0 0 0)
  let val (k : Nat) : Int := (own.map (·.v)).getD k 0
  (List.range 3).map (one (val 0) (val 1) (val 5)) ++ own

end Sys2Proof.Machine
end

