-- ==== Sys2Proof/Machine/Fusion.lean ====
section
/-!
DEFINITION. Fusion (spec/06_fusion_alignment.md R187 to R204, R215 to R219): instants, sources, votes, late samples,
amendments, and the bars.
-/
namespace Sys2Proof.Machine
open Sys2Proof

def pgFus : Nat := 0x60000
def pgBar (b : Nat) : Nat := 0x61000 + 0x1000 * b
def pgReg : Nat := 0x69000

/-- ISSUE_DLY in ns. -/
def issueDly (s : State) : Nat := fld s FUS_CTRL 11 4 * 1000

/-- Whether a bar's results come from another device (R424, R485). -/
def remoteBar (s : State) (b : Nat) : Bool := flag s (LNK_RBAR b) 31

/-- The bars that this device issues results of. -/
def localBars (s : State) : List Nat := (List.range 8).filter (fun b => barOn s b && !remoteBar s b)

/-! ## Sources (R195, R196) -/

def hp (s : State) (b : Nat) : Nat := fld s (FUS_BAR_CFG b) 15 12

/-- The encoder of wheel slot n, the chain of inertial slot n, the ports of flow slot n. -/
def wheelEnc (s : State) (b n : Nat) : Option Nat :=
  let x := fld s (FUS_BAR_WHEEL b) (8 * n + 7) (8 * n)
  if nbit x 7 then some (x % 8) else none

def insChain (s : State) (b n : Nat) : Option Nat :=
  let x := fld s (FUS_BAR_INS b) (8 * n + 7) (8 * n)
  if nbit x 7 then some (x % 16) else none

def flowPorts (s : State) (b n : Nat) : Nat := rdN s (FUS_BAR_FLOW b n)

/-- Whether a slot is configured and measures a quantity. -/
def configured (s : State) (b slot q : Nat) : Bool :=
  if slot < 4 then (wheelEnc s b slot).isSome && q == 0
  else if slot < 8 then (insChain s b (slot - 4)).isSome && decide (3 ≤ q)
  else decide (flowPorts s b (slot - 8) ≠ 0) && decide (q < 3)

/-- The wheel measurements of an instant that was just computed, and the wheel slots that slip. -/
def wheelIn (s : State) (b : Nat) : List (Nat × Nat × Int) × List Nat :=
  let on := (List.range 4).filterMap (fun n => match wheelEnc s b n with
    | some e => if encOn s e then (encOf s e).est.map (fun x => (n, x)) else none
    | none => none)
  (on.map (fun x => (x.1, 0, asr (w64 (x.2.v * (rdN s (FUS_BAR_WSCALE b x.1) : Int))) 24)),
   (on.filter (fun x => x.2.slip)).map (·.1))

/-- c[m & 7], negated where bit 3 of m is 1 (R195). -/
def selChan (vals : List Int) (m : Nat) : Int := if nbit m 3 then -(vals.getD (m % 8) 0) else vals.getD (m % 8) 0

/-- An inertial slot after one chain output (R195). -/
def insStep (s : State) (b n c : Nat) (x : InSlot) (o : ChainOut) : InSlot :=
  let m (a : Nat) : Nat := fld s (FUS_BAR_IMAP b n) (4 * a + 3) (4 * a)
  let asc : Int := (fld s (FUS_BAR_ISCALE b n) 31 16 : Nat)
  let gsc : Int := (fld s (FUS_BAR_ISCALE b n) 15 0 : Nat)
  let tc : Int := (decTc s c : Nat)
  let vel (a : Nat) : Int :=
    let v := x.vel.getD a 0
    w64 (v - asr v (hp s b) + Int.tdiv (w64 (asr (selChan o.x.vals (m a) * asc) 8 * tc)) 1000)
  { x with vel := (List.range 3).map vel
           rate := (rangeFrom 3 3).map (fun a => asr (selChan o.x.vals (m a) * gsc) 8)
           due := some o.due, taken := o.seq + 1 }

/-- The outputs of a chain that a slot has not taken, oldest first. -/
def untaken (s : State) (c : Nat) (x : InSlot) : List ChainOut :=
  let t := if (chainOf s c).made < x.taken then 0 else x.taken
  ((chainOf s c).outs.filter (fun o => decide (t ≤ o.seq))).reverse

/-- The first instant whose issue time is at or after a due time (R191). -/
def instantOf (s : State) (due : Nat) : Nat := (due - issueDly s + fusPeriod s - 1) / fusPeriod s

def insSlot (s : State) (b n : Nat) : InSlot := (bar s b).slots.getD n {}
def setIns (s : State) (b n : Nat) (x : InSlot) : State := updBar s b (fun y => { y with slots := y.slots.set n x })

/-- The six measurements of an inertial slot. -/
def insVals (n : Nat) (vel rate : List Int) : List (Nat × Nat × Int) :=
  (List.range 3).map (fun a => (4 + n, 3 + a, vel.getD a 0)) ++ (List.range 3).map (fun a => (4 + n, 6 + a, rate.getD a 0))

/-- The inertial slots that have a value for the instant at t: current for 2 × Tc after the due time. -/
def insIn (s : State) (b t : Nat) : List (Nat × Nat × Int) :=
  (List.range 4).flatMap (fun n => match insChain s b n, (insSlot s b n).due with
    | some c, some d => if t ≤ d + 2 * decTc s c then insVals n (insSlot s b n).vel (insSlot s b n).rate else []
    | _, _ => [])

/-! ## Grids (R205 to R207) -/

def gridPend (s : State) (p : Nat) : Bool := flag s (FUS_GRID_CTRL p) 17

/-- The bank for an event of a port at a stamp in ns: the old one before the cairn of the last swap, after PEND has cleared too
(R210). -/
def bankFor (s : State) (p stamp : Nat) : Nat :=
  match s.fus.grids.find? (fun g => g.1 == p) with
  | some g => if stamp < g.2 then 1 - gridBank s p else gridBank s p
  | none => gridBank s p

/-- One interpolated field (R207); u and v are in units of which W and H make up the field of view. -/
def interp (f : Nat → Nat → Int) (w h u v : Nat) : Int :=
  let i := 64 * u / w
  let a := 64 * u - i * w
  let j := 64 * v / h
  let b := 64 * v - j * h
  (2 * (f i j * (w - a : Nat) * (h - b : Nat) + f (i + 1) j * a * (h - b : Nat)
    + f i (j + 1) * (w - a : Nat) * b + f (i + 1) (j + 1) * a * b) + w * h) / (2 * w * h)

/-- (Xg8, Yg8) of a pixel of a port (R207). -/
def gridMap (s : State) (p bank w h u v : Nat) : Int × Int :=
  (interp (nodeX s p bank) w h u v, interp (nodeY s p bank) w h u v)

/-! ## Flow (R196) -/

/-- The ports of a flow slot that count: in the bar, and not in legacy mode. -/
def flowList (s : State) (b n : Nat) : List Nat :=
  (List.range 32).filter (fun p => nbit (flowPorts s b n) p && flag s (FUS_BAR_PORTS b) p && !isLegacy s p)

/-- The usable events of a flow slot at the instant t, oldest first of each port. -/
def flowEvents (s : State) (b n t : Nat) : List (Int × Int × Nat × Bool) :=
  let win := fld s FUS_FLOW 15 8 * fusPeriod s
  let guard := fld s FUS_FLOW 31 16 * 1000
  (flowList s b n).flatMap (fun p =>
    let x := port s p
    ((x.flow.filter (fun e => decide (t < 16 * e.stamp + win) && decide (16 * e.stamp ≤ t) && decide (e.arr ≤ t + guard))).reverse).map
      (fun e =>
        let g := gridMap s p (bankFor s p (16 * e.stamp)) e.w e.h e.u e.v
        (g.1, g.2, e.stamp, e.pol)))

/-- The flow measurements of the instant t. -/
def flowIn (s : State) (b t : Nat) : List (Nat × Int × Int × Int) :=
  (List.range 4).filterMap (fun n =>
    if flowPorts s b n = 0 then none
    else
      let es := flowEvents s b n t
      if es.length < fld s FUS_FLOW_MIN 15 0 then none
      else some (8 + n, Config.flowEstimate es 0, Config.flowEstimate es 1, Config.flowEstimate es 2))

/-- Whether an event of the flow window passes the guard of its instant, and that is seen at the instant t. -/
def flowLate (s : State) (t : Nat) (e : FlowEv) : Bool :=
  let p := fusPeriod s
  let g := fld s FUS_FLOW 31 16 * 1000
  let tj := (16 * e.stamp + p - 1) / p * p
  decide (tj ≤ t) && decide (tj + g < e.arr) && decide (e.arr ≤ t + issueDly s) &&
    (tj == t || decide (t < e.arr + p - issueDly s))

/-- After an issue: the events that passed the guard are counted, and those that no later instant takes are dropped. -/
def flowDone (s : State) (b t : Nat) : State :=
  let ps := (List.range 32).filter (fun p => flag s (FUS_BAR_PORTS b) p && !(port s p).flow.isEmpty)
  let used (p : Nat) : Bool := (List.range 4).any (fun n => nbit (flowPorts s b n) p)
  ps.foldl (fun u p =>
    let x := port u p
    let n := if used p then (x.flow.filter (flowLate u t)).length else 0
    setPort (if n = 0 then u else bumpN u FUS_FLOW_LATE_EV n) p { x with flow := x.flow.filter (fun e =>
      decide (t < 16 * e.stamp + fld u FUS_FLOW 15 8 * fusPeriod u) || decide (t + issueDly u < e.arr)) }) s

/-! ## Source states (R198, R200) -/

/-- FUS_BAR_SRC_STAT of a source. -/
def srcStat (b slot q : Nat) : Nat := FUS_BAR_SRC_STAT b (9 * slot + q)

def ovr (s : State) (b slot q : Nat) : Nat := fld s (srcStat b slot q) 3 2
def srcState (s : State) (b slot q : Nat) : Nat := fld s (srcStat b slot q) 1 0
def sOk : Nat := 0
def sSuspect : Nat := 1
def sExcluded : Nat := 2
def sInactive : Nat := 3

/-- Whether a source may vote, by its state and override. -/
def mayVote (s : State) (b slot q : Nat) : Bool :=
  ovr s b slot q == 1 || (ovr s b slot q == 0 && decide (srcState s b slot q < 2))

/-- A source's state changed, with its interrupt and log entry. -/
def setSource (s : State) (b slot q st bit : Nat) : State :=
  let old := srcState s b slot q
  let s1 := addLog (setFld s (srcStat b slot q) 1 0 st) .voting old st (128 * b + 9 * slot + q)
  irq (srcEvent (wrN s1 (FUS_BAR_IRQ_SRC b) (9 * slot + q)) evVote b) (pgBar b) bit

/-- step of R198. -/
def stepSource (s : State) (b q slot : Nat) (bad : Bool) : State :=
  let a := srcStat b slot q
  if bad then
    let n := satN 255 (fld s a 15 8 + 1)
    let s1 := setFld (setFld s a 31 16 0) a 15 8 n
    let s2 := if srcState s1 b slot q = sOk ∧ fld s (FUS_BAR_VOTE b) 31 24 ≤ n then setSource s1 b slot q sSuspect 0 else s1
    if srcState s2 b slot q ≠ sExcluded ∧ fld s (FUS_BAR_VOTE b) 23 16 ≤ n then setSource s2 b slot q sExcluded 1 else s2
  else
    let n := satN 65535 (fld s a 31 16 + 1)
    let s1 := setFld (setFld s a 15 8 0) a 31 16 n
    if srcState s1 b slot q = sSuspect ∧ fld s (FUS_BAR_VOTE b) 15 0 ≤ n then setSource s1 b slot q sOk 2 else s1

/-- readmit of R198. -/
def readmit (s : State) (b q slot : Nat) (good : Bool) : State :=
  let a := srcStat b slot q
  let n := if good then satN 65535 (fld s a 31 16 + 1) else 0
  let s1 := setFld s a 31 16 n
  if fld s (FUS_BAR_VOTE b) 15 0 ≤ n then setSource (setFld s1 a 15 8 0) b slot q sOk 2 else s1

def tolOf (s : State) (b q : Nat) : Nat := rdN s (FUS_BAR_TOL b q)

/-- What a vote does to the sources of q: `l` are the measurements of q. -/
def applyVote (b : Nat) (i : VoteIn) (s : State) (q : Nat) (r : VoteRes) (l : List (Nat × Int)) : State :=
  if r.kind ≠ .voted then s
  else
    let s1 := r.srcs.foldl (fun t e => if ovr t b e.1 q = 0 then stepSource t b q e.1 e.2 else t) s
    l.foldl (fun t e =>
      if r.srcs.any (fun x => x.1 == e.1) || i.slips.contains e.1 || srcState t b e.1 q ≠ sExcluded then t
      else readmit t b q e.1 (decide (absI (e.2 - r.med) ≤ tolOf s b q))) s1

/-! ## An instant of a bar (R190, R193, R197, R198) -/

/-- A mask of the quantities whose vote ended in a way. -/
def kindMask (k : VoteKind) (l : List VoteRes) : Nat :=
  (l.zip (List.range 9)).foldl (fun n e => if e.1.kind = k then n + 2 ^ e.2 else n) 0

/-- The quantities whose value comes from the vote of one source (R198). -/
def singleMask (l : List VoteRes) : Nat :=
  (l.zip (List.range 9)).foldl (fun n e => if e.1.kind = .voted ∧ e.1.srcs.length = 1 then n + 2 ^ e.2 else n) 0

/-- The sources of the disputed votes (R199), as 9 × slot + q. -/
def disputedSrcs (l : List VoteRes) : List Nat :=
  (l.zip (List.range 9)).flatMap (fun e => if e.1.kind = .disputed then e.1.srcs.map (fun x => 9 * x.1 + e.2) else [])

/-- The integration of R197; S, L and TH are 0 at the first instant after the bar is enabled. -/
def integrate (s : State) (b : Nat) (x : BarSt) (v : List Int) : BarSt :=
  let pus : Int := (fusPeriod s / 1000 : Nat)
  let q (i : Nat) : Int := v.getD i 0
  let w (i : Int) : Int := sx 32 (twos 32 i)
  { x with s := if x.hist.isEmpty then 0 else w64 (x.s + asr (q 0 * pus) 8)
           l := if x.hist.isEmpty then 0 else w (x.l + asr (q 1 * pus) 8)
           th := if x.hist.isEmpty then 0 else w (x.th + q 2 * pus)
           dx := w (x.dx + asr (q 3 * pus) 8 - asr x.dx (hp s b))
           dy := w (x.dy + asr (q 4 * pus) 8 - asr x.dy (hp s b))
           rz := w (x.rz + q 8 * pus - asr x.rz (hp s b)) }

/-- The 16 words of FUS_BAR_POSE. -/
def poseWords (r : Issued) : List Nat :=
  [twos 32 r.s, twos 64 r.s / 4294967296, twos 32 r.l, twos 32 r.th, twos 32 r.dx, twos 32 r.dy, twos 32 r.rz] ++ r.q.map (twos 32)

/-- FUS_BAR_FLAGS of a result. -/
def barFlags (r : Issued) : Nat := r.fall * 512 + r.disp

/-- A result enters the history and the mirror registers, and goes to the output block (R193, R424). -/
def publish (s : State) (b : Nat) (r : Issued) : State :=
  let s1 := updBar s b (fun x => { x with hist := keep 1024 (r :: x.hist) })
  let s2 := wrN (wrN s1 (FUS_BAR_FLAGS b) (barFlags r)) (FUS_BAR_SEQ b) r.k
  let s3 := ((poseWords r).zip (List.range 16)).foldl (fun t e => wrN t (FUS_BAR_POSE b e.2) e.1) s2
  let s4 := srcEvent { s3 with disputed := tset boolD s3.disputed b (decide (r.disp ≠ 0)) } evInstant b
  let s5 := if r.disp = 0 then s4 else irq s4 (pgBar b) 3
  outResult s5 b

/-- What the vote of the instant takes. -/
def voteIn (s : State) (b k : Nat) : VoteIn :=
  let x := bar s b
  let t := k * fusPeriod s
  let wh := ((x.wheel.find? (fun e => e.1 == k)).map (·.2)).getD ([], [])
  { vals := wh.1 ++ insIn s b t
    flow := flowIn s b t
    elig := (List.range 12).flatMap (fun slot => ((List.range 9).filter (mayVote s b slot)).map (fun q => 9 * slot + q))
    slips := wh.2
    last := x.qv
    undis := x.und
    vels := (List.range 4).filterMap (fun n =>
      if (insChain s b n).isSome then some (n, (insSlot s b n).vel, (insSlot s b n).rate) else none) }

/-- The order in which the quantities are voted (R198). -/
def voteOrder : List Nat := [3, 4, 5, 6, 7, 8, 0, 1, 2]

/-- Instant k of a bar is voted, integrated and issued. -/
def issueBar (s : State) (b k : Nat) : State :=
  let i := voteIn s b k
  let rs := voteAll (tolOf s b) i
  let res (q : Nat) : VoteRes := rs.getD q { kind := .held, v := 0, dev := 0, med := 0, srcs := [] }
  let s1 := voteOrder.foldl (fun t q =>
    applyVote b i t q (res q) (measured i q (res 3).v (res 4).v (res 8).v)) s
  let disp := kindMask .disputed rs
  let nd := (rs.filter (fun r => decide (r.kind = .disputed))).length
  let s2 := if nd = 0 then s1 else bumpN s1 FUS_DISPUTE_CNT nd
  let x := bar s2 b
  let vs := rs.map (·.v)
  let y := integrate s2 b x vs
  let qu := (List.range 9).map (fun q =>
    let w : Int := asr (tolOf s2 b q : Int) 4
    if (res q).kind = .voted then ((res q).dev : Int) + w else x.qu.getD q 0 + w)
  let und := (List.range 9).map (fun q => if (res q).kind = .voted then (res q).v else x.und.getD q 0)
  let r : Issued := { k := k, t := k * fusPeriod s2, s := y.s, l := y.l, th := y.th, dx := y.dx, dy := y.dy, rz := y.rz, q := vs
                      disp := disp, fall := disp, held := kindMask .held rs, single := singleMask rs, dsrc := disputedSrcs rs
                      amended := 0, ins := i }
  let s3 := setBar s2 b { y with nextK := some (k + 1), qv := vs, qu := qu, und := und
                                 wheel := y.wheel.filter (fun e => decide (k < e.1)) }
  let s4 := fwdFrame s3 b 2 1 (leBytes 4 r.k ++ leBytes 4 (barFlags r) ++ leBytes 8 r.t ++ (poseWords r).flatMap (leBytes 4))
  flowDone (publish s4 b r) b r.t

/-! ## Late samples (R202, R203) -/

/-- The amendment check of instant j with a late sample of inertial slot n (R203). -/
def amendCheck (s : State) (b n c j : Nat) (o : ChainOut) : State :=
  match issued s b j with
  | none => s
  | some r =>
    match r.ins.vels.find? (fun e => e.1 == n) with
    | none => s
    | some e =>
      let y := insStep s b n c { vel := e.2.1, rate := e.2.2 } o
      let i' : VoteIn := { r.ins with vals := r.ins.vals.filter (fun v => v.1 != 4 + n) ++ insVals n y.vel y.rate }
      let rerun := (voteAll (tolOf s b) i').map (·.v)
      let mask := (List.range 9).foldl (fun m q =>
        if rdN s (FUS_BAR_AMEND b q) < absI (rerun.getD q 0 - r.q.getD q 0) then m + 2 ^ q else m) 0
      if mask = 0 then s
      else
        let r' := { r with amended := satN 255 (r.amended + 1), amask := r.amask ||| mask }
        let s1 := updBar s b (fun x => { x with hist := x.hist.map (fun h => if h.k = j then r' else h) })
        writeAmend (irq (bump s1 FUS_AMEND_CNT) (pgBar b) 4) b r' mask rerun

/-- A sample that became visible while instant k is being formed, after its own instant was issued (R202). -/
def lateSample (s : State) (b n c k : Nat) (o : ChainOut) : State :=
  let p := fusPeriod s
  let j := instantOf s o.due
  let h := min (fld s FUS_LATE 31 16 * 1000) (1023 * p)
  if (k - j) * p ≤ h then
    amendCheck (bump (setIns s b n (insStep s b n c (insSlot s b n) o)) FUS_LATE_USED_CNT) b n c j o
  else irq (bump (setIns s b n { insSlot s b n with taken := o.seq + 1 }) FUS_LATE_DROP_CNT) pgFus 0

/-- A chain output enters its slot while instant k is being formed: late outside BELAY where its instant was issued. -/
def takeSample (b n c k : Nat) (s : State) (o : ChainOut) : State :=
  if instantOf s o.due < k ∧ !inBelay s then lateSample s b n c k o
  else setIns s b n (insStep s b n c (insSlot s b n) o)

/-- The samples that belong to instant k or earlier enter their slots. -/
def takeSamples (s : State) (b k : Nat) : State :=
  (List.range 4).foldl (fun t n => match insChain t b n with
    | none => t
    | some c => ((untaken t c (insSlot t b n)).filter (fun o => decide (instantOf t o.due ≤ k))).foldl (takeSample b n c k) t) s

/-- LATE_SAMPLE: the oldest output of a slot's chain that became visible after its instant was issued. -/
def execLateSample (b n now : Nat) (s0 : State) : Out :=
  let s := advance s0 now
  match (bar s b).nextK, insChain s b n with
  | some k, some c =>
    if !barOn s b || inBivouac s then .next s
    else match untaken s c (insSlot s b n) with
      | o :: _ => if instantOf s o.due < k then .next (takeSample b n c k s o) else .next s
      | [] => .next s
  | _, _ => .next s

/-! ## Instants (R190, R192) -/

/-- Whether a bar holds the issue of instant k in BELAY: an output of a chain in RUN is expected and not visible (R192). -/
def holds (s : State) (b k : Nat) : Bool :=
  inBelay s && (List.range 4).any (fun n => match insChain s b n with
    | none => false
    | some c => decState s c == cRun && (match (chainOf s c).outs with
      | [] => false
      | o :: _ => decide (o.x.stamp + decTc s c + rdN s (MOT_DEC_DELAY c) + 2000 ≤ k * fusPeriod s + issueDly s)))

/-- Whether instant k is the next of the device: no instant that an encoder or a bar needs lies between. -/
def nextInstant (s : State) (k : Nat) : Bool :=
  let prev := match s.fus.lastT with | none => true | some t => decide (t < k * fusPeriod s)
  let succ := match s.fus.lastT with | none => k == 0 | some t => decide (k * fusPeriod s ≤ t + fusPeriod s)
  prev && (succ || (!(List.range 8).any (encOn s) && (localBars s).all (fun b => match (bar s b).nextK with
    | some j => decide (k ≤ j)
    | none => true)))

/-- The estimates and slip tests of every encoder at instant k, kept for the bars. -/
def computeInstant (s : State) (k : Nat) : State :=
  let s1 := encInstant { s with fus := { s.fus with lastT := some (k * fusPeriod s) } } (k * fusPeriod s)
  if inBivouac s1 then s1
  else (localBars s1).foldl (fun t b => updBar t b (fun x =>
    match x.nextK with
    | some j => if j ≤ k then { x with wheel := x.wheel ++ [(k, wheelIn s1 b)] } else x
    | none => x)) s1

/-- Instant k of the bars that have it next. -/
def issueAll (s : State) (k : Nat) : State :=
  if inBivouac s then s
  else (localBars s).foldl (fun t b =>
    if (bar t b).nextK = some k then
      let t1 := takeSamples t b k
      if holds t1 b k then t1 else issueBar t1 b k
    else t) s

/-- FUSION_ISSUE: FT reaches t_k + ISSUE_DLY, or a sample that a bar holds for has become visible. -/
def execFusionIssue (k now : Nat) (s0 : State) : Out :=
  let s := outDue (advance s0 now)
  if s.ft < k * fusPeriod s + issueDly s then .next s
  else
    let s1 := if nextInstant s k then computeInstant s k else s
    match s1.fus.lastT with
    | none => .next s1
    | some t => if k * fusPeriod s1 ≤ t then .next (issueAll s1 k) else .next s1

/-- BELAY_WAIT: a hold that lasts BELAY_WAIT_US beyond the nominal issue time (R192). -/
def execBelayWait (b now : Nat) (s0 : State) : Out :=
  let s := advance s0 now
  match (bar s b).nextK with
  | none => .next s
  | some k =>
    let ready := match s.fus.lastT with | some t => decide (k * fusPeriod s ≤ t) | none => false
    if !barOn s b || !ready || !holds s b k
        || decide (s.ft < k * fusPeriod s + issueDly s + fld s FUS_LATE 15 0 * 1000) then .next s
    else
      let s1 := endJobs s errOverrun (fun j => jobBar j b)
      let s2 := irq (recErr s1 pgFus 0x0109 (word b)) pgFus 1
      .next (issueBar (takeSamples s2 b k) b k)

/-! ## Bars (R209, R210, R213, R216, R217) -/

/-- Every source of a bar OK with its counters at 0, and INACTIVE where it is not configured. -/
def resetSources (s : State) (b : Nat) : State :=
  (List.range 108).foldl (fun t i =>
    wrN t (FUS_BAR_SRC_STAT b i) (fld t (FUS_BAR_SRC_STAT b i) 3 2 * 4 + (if configured t b (i / 9) (i % 9) then sOk else sInactive))) s

/-- The first instant after a moment. -/
def firstAfter (s : State) (ft : Nat) : Nat := ft / fusPeriod s + 1

/-- The inertial slots take only what comes from here on. -/
def freshSlots (s : State) (b : Nat) : List InSlot :=
  (List.range 4).map (fun n => match insChain s b n with
    | some c => { taken := (chainOf s c).made }
    | none => {})

/-- A bar is enabled (R217). -/
def barEnable (s : State) (b : Nat) : State :=
  let k := firstAfter s s.ft
  let s1 := resetSources s b
  let s2 := setBar s1 b { nextK := some k, firstT := some (k * fusPeriod s1), slots := freshSlots s1 b }
  let zs := [FUS_BAR_FLAGS b, FUS_BAR_SEQ b] ++ (List.range 16).map (FUS_BAR_POSE b)
  { zs.foldl (fun t a => wrN t a 0) s2 with disputed := tset boolD s2.disputed b false }

/-- PEND of a port clears, and the old bank becomes the staging bank (R210). -/
def pendClear (s : State) (p : Nat) : State := setFlag s (FUS_GRID_CTRL p) 17 false

/-- A bar is disabled: its ports' waiting events are discarded and counted, and their PEND clears (R217). -/
def barDisable (s : State) (b : Nat) : State :=
  let ps := (List.range 32).filter (fun p => flag s (FUS_BAR_PORTS b) p)
  ps.foldl (fun t p =>
    let n := (port t p).waiting.length
    let t1 := if n = 0 then t else bumpN (updPort t p (fun x => { x with waiting := [], flow := [] })) FUS_UNBARRED_CNT n
    if gridPend t1 p then pendClear t1 p else t1) (updBar s b (fun x => { x with nextK := none, wheel := [] }))

/-- The code that refuses the enabling of a bar whose registers hold the new values (R216); the bar of another device has
no ports of its own (R485). In BELAY a bar of a job takes no legacy port (spec/01_architecture.md R28; log entry 143). -/
def barRefuse (b : Nat) (s : State) : Option Nat :=
  let ps := (List.range 32).filter (fun p => flag s (FUS_BAR_PORTS b) p)
  let rp := fld s (FUS_BAR_CFG b) 30 26
  if ps.any (fun p => fld s (FUS_GRID_CTRL p) 15 0 == 0) then some 0x0107
  else if ps.any (fun p => (List.range 8).any (fun c => c != b && barOn s c && flag s (FUS_BAR_PORTS c) p)) then some 0x010A
  else if isLegacy s rp && flag s (FUS_BAR_PORTS b) rp then some 0x0106
  else if inBelay s && s.jobs.any (fun j => jobBar j b) && ps.any (fun p => isLegacy s p && portOn s p) then some 0x0106
  else if !flag s (FUS_BAR_PORTS b) rp && !remoteBar s b then some 0x010B
  else none

/-- A write of FUS_BAR_CFG. -/
def barCfgWrite (s : State) (w : Who) (b : Nat) (v : Word) : State :=
  enWrite s w (FUS_BAR_CFG b) v 31 0x0101 (barRefuse b) (fun t => barEnable t b) (fun t => barDisable t b)

def execBarEnable (w : Who) (b : Nat) (v : Word) (s : State) : Out :=
  .next (guardW s w 4 (FUS_BAR_CFG b) (fun t => barCfgWrite t w b v))

def execBarDisable (w : Who) (b : Nat) (v : Word) (s : State) : Out :=
  .next (guardW s w 4 (FUS_BAR_CFG b) (fun t => barCfgWrite t w b v))

/-- Whether any bar is enabled. -/
def anyBar (s : State) : Bool := (List.range 8).any (barOn s)

/-- A write of FUS_CTRL or FUS_FLOW (R218). -/
def timingWrite (s : State) (w : Who) (a : Nat) (v : Word) : State :=
  if anyBar s then wErr s w a 0x0101
  else
    let s1 := plainWrite s w a v
    if fld s1 FUS_CTRL 11 4 < fld s1 FUS_FLOW 31 16 + 8 then wErr s w a 0x0108 else s1

/-- A write of FUS_BAR_VOTE (R219). -/
def voteWrite (s : State) (w : Who) (b : Nat) (v : Word) : State :=
  if barOn s b then wErr s w (FUS_BAR_VOTE b) 0x0101
  else
    let s1 := plainWrite s w (FUS_BAR_VOTE b) v
    if fld s1 (FUS_BAR_VOTE b) 23 16 < fld s1 (FUS_BAR_VOTE b) 31 24 then wErr s w (FUS_BAR_VOTE b) errReservedEnc else s1

/-- BIVOUAC ends (R215): every source returns to OK, and the first result is that of the first instant after the cairn. -/
def fusBivouacExit (s : State) (ft : Nat) : State :=
  (localBars s).foldl (fun t b =>
    let k := firstAfter t ft
    updBar (resetSources t b) b (fun x => { x with nextK := some k, firstT := some (k * fusPeriod t), wheel := [], slots := freshSlots t b })) s

end Sys2Proof.Machine
end

