-- ==== Sys2Proof/Machine/Regist.lean ====
section
/-!
DEFINITION. Registration (spec/06_fusion_alignment.md R187, R194, R205 to R214, R220, R630; spec/07_event_fabric.md R226):
release of events, watermarks, grids and their refinement.
-/
namespace Sys2Proof.Machine
open Sys2Proof

/-! ## Release (R194, R207, R208, R630) -/

/-- The next event word of a port carries GAP. -/
def passGap (s : State) (p : Nat) : State :=
  updPort s p (fun x => match x.waiting with
    | [] => { x with gap := true }
    | e :: t => { x with waiting := { e with gap := true } :: t })

/-- The place of an event in the sheet raster (R208): column and whole row. -/
def place (s : State) (b p : Nat) (e : WEvent) (r r' : Issued) : Int × Int :=
  let t := 16 * e.stamp
  let f := t - r.t
  let per := r'.t - r.t
  let g := gridMap s p (bankFor s p t) e.w e.h e.u e.v
  let d : Int := (32 * pitch s b : Nat)
  let sv := lerp 64 r.s r'.s f per
  let l := lerp 32 r.l r'.l f per
  let dx := lerp 32 r.dx r'.dx f per
  let dy := lerp 32 r.dy r'.dy f per
  let phi := lerp 32 r.th r'.th f per + lerp 32 r.rz r'.rz f per
  let x8 := g.1 - (l + dx) / d - asr (phi * g.2) 32
  let y8 := g.2 + (sv + dy) / d + asr (phi * (g.1 - (8 * fld s (FUS_BAR_XC b) 12 0 : Nat))) 32
  (asr (x8 + 4) 3, asr (y8 + 4) 3)

/-- The event at the head of a port's queue discarded and counted; a GAP it carries passes to the next word. -/
def discardEvent (s : State) (p : Nat) (e : WEvent) (t : List WEvent) (cnt : Nat) (gap : Bool) : State :=
  let s1 := bump (updPort s p (fun x => { x with waiting := t, old := x.old.map (· - 1) })) cnt
  if gap || e.gap then passGap s1 p else s1

/-- How far a port's stream has come: no word of it still to be released is stamped before. -/
def portReach (s : State) (p : Nat) : Nat :=
  let x := port s p
  match x.waiting with
  | [] => 16 * x.lastStamp
  | e :: _ => min (16 * e.stamp) (16 * x.lastStamp)

/-- What a port's stream sends before its next event: the WATERMARK of the latest issued instant that it has reached (R226), and the
device-wide cairns up to there (R227). -/
def portMark (s : State) (p b : Nat) : State :=
  let lim := portReach s p
  let s1 := match (bar s b).hist.find? (fun r => decide (r.t ≤ lim)) with
    | none => s
    | some r => if (srcOf s p).mark < r.t then sendMark s p r.t false else s
  (cairnsDue s1 p lim).foldl (sendCairn p) s1

/-- FUS_REG_VER as it holds for an event of a stamp (R23, R211). -/
def regAt (s : State) (stamp : Nat) : Nat :=
  ((s.fus.vers.find? (fun e => decide (e.1 ≤ stamp))).map (·.2)).getD 0

/-- The flag bits of an event word (R222). -/
def wordFlags (s : State) (p : Nat) (e : WEvent) : Nat :=
  32 * b2n e.gap + 16 * b2n e.arrival + 8 * b2n e.unlocked + 4 * b2n (isLegacy s p)

/-- The quantities whose dispute flags a verdict: VS, VL, WS, VX, VY and WZ (R201). -/
def dispMask : Nat := 0x11F

/-- Whether a mask of disputed quantities flags a verdict. -/
def flagsVerdict (m : Nat) : Bool := (List.range 9).any (fun q => nbit m q && nbit dispMask q)

/-- An event placed and sent (R208, R234). -/
def releaseEvent (s : State) (b p : Nat) (e : WEvent) (t : List WEvent) (r r' : Issued) : State :=
  let stamp := 16 * e.stamp
  let (x, y) := place s b p e r r'
  if x < 0 ∨ 8191 < x then discardEvent s p e t FUS_OFF_SHEET_CNT false
  else
    let fl := wordFlags s p e
    let mk : EvMark := { bar := b, x := x.toNat, y := y, stamp := stamp, k := r.k, reg := regAt s stamp
                         flags := b2n (flagsVerdict r.disp || flagsVerdict r'.disp) + 2 * b2n e.gap + 4 * b2n (isLegacy s p)
                                    + 8 * b2n (stamp == r.t) }
    let s1 := updPort s p (fun z => { z with waiting := t, old := z.old.map (· - 1) })
    let s2 := { s1 with fus := { s1.fus with newest := max s1.fus.newest stamp }, out := { s1.out with marks := s1.out.marks ++ [mk] } }
    let ds := eventDests s2 b p x.toNat e.pol
    let s3 := if ds.isEmpty then bumpPulse s2 FAB_UNROUTED_CNT 0x70000 0 else s2
    sendWord s3 p stamp (fun o => eventWord o x.toNat (twos 13 y) e.pol p fl) 0 ds

/-- FINAL of a stream that has ended, once its last event has been released (R226); a stream that has followed it starts then. -/
def endStream (s : State) (p : Nat) : State :=
  let x := port s p
  let done := match x.old with | some n => n == 0 | none => x.buf.isEmpty && x.spill.isEmpty && x.waiting.isEmpty
  if x.finalDue && done then
    let s1 := sendFinal (updPort s p (fun x => { x with finalDue := false, old := none })) p
    if x.old.isSome then newSource s1 p else s1
  else s

/-- EVENT_RELEASE: the event at the head of a port's queue in registration; none while a word of the port waits for a credit
(R230). -/
def execEventRelease (p : Nat) (s0 : State) : Out :=
  let s := if (port s0 p).old.isSome && !srcBlocked s0 p then endStream s0 p else s0
  if srcBlocked s p then .next s
  else match (port s p).waiting, barOf s p with
  | [], _ => .next s
  | e :: t, none => .next (discardEvent s p e t FUS_UNBARRED_CNT false)
  | e :: t, some b =>
    let s := portMark s p b
    let stamp := 16 * e.stamp
    let x := bar s b
    if stamp < x.firstT.getD 0 then .next (discardEvent s p e t FUS_UNBARRED_CNT false)
    else match around s b stamp with
      | some (r, r') => .next (releaseEvent s b p e t r r')
      | none =>
        if x.hist.length = 1024 ∧ x.hist.all (fun r => decide (stamp < r.t)) then
          .next (discardEvent s p e t FUS_HIST_DROP_CNT true)
        else .next s

/-- PORT_WATERMARK: the WATERMARK of an issued instant, and FINAL after the last event of a stream (R226). -/
def execPortWatermark (p : Nat) (s : State) : Out :=
  if srcBlocked s p then .next s else
  let s1 := match barOf s p with
    | none => s
    | some b => portMark s p b
  .next (endStream s1 p)

/-! ## Commits (R209 to R211) -/

def errGridActive : Nat := 0x0102
def errGridOwned : Nat := 0x0103
def errGridFold : Nat := 0x0104
def errCommitPending : Nat := 0x0105

def ownerHost (s : State) (p : Nat) : Bool := flag s (FUS_GRID_CTRL p) 30

/-- Whether numbers strictly rise, or strictly fall. -/
def rises : List Int → Bool
  | a :: b :: t => decide (a < b) && rises (b :: t)
  | _ => true

def falls : List Int → Bool
  | a :: b :: t => decide (b < a) && falls (b :: t)
  | _ => true

/-- Whether a bank is free of folds (R209). -/
def gridOk (s : State) (p bank : Nat) : Bool :=
  let rows := (List.range 65).map (fun j => (List.range 65).map (fun i => nodeX s p bank i j))
  let cols := (List.range 65).map (fun i => (List.range 65).map (fun j => nodeY s p bank i j))
  (rows.all rises || rows.all falls) && (cols.all rises || cols.all falls)

/-- The swap of a port's banks: PVER advances, and its version is recorded (R211). -/
def swapBank (s : State) (p : Nat) : State :=
  let v := fld s (FUS_GRID_CTRL p) 15 0
  let s1 := setFld s (FUS_GRID_CTRL p) 15 0 (if v = 0xFFFF then 1 else v + 1)
  let s2 := setFld s1 (FUS_GRID_CTRL p) 16 16 (1 - gridBank s1 p)
  let s3 := wr s2 (FUS_GRID_REF_VER p) (rd s2 FUS_REG_VER)
  irq (wrN s3 FUS_REG_IRQ_PORT p) pgReg 0

/-- The FT of a port's last swap; 0 where it was made without a cairn. -/
def noteSwap (s : State) (p ft : Nat) : State :=
  { s with fus := { s.fus with grids := (p, ft) :: s.fus.grids.filter (fun g => g.1 != p) } }

/-- FUS_REG_VER advances, for events from an FT on (R211). -/
def stepRegVer (s : State) (ft : Nat) : State :=
  let s1 := bumpWrap s FUS_REG_VER
  { s1 with fus := { s1.fus with vers := (ft, rdN s1 FUS_REG_VER) :: s1.fus.vers } }

/-- Commits of a list of ports at one moment: one cairn for those of enabled bars, at the first multiple of 16 ns after the newest
released stamp, and at once for the others (R210, R211). -/
def commitPorts (s : State) (ps : List Nat) : State :=
  let free := ps.filter (fun p => (barOf s p).isNone)
  let barred := ps.filter (fun p => (barOf s p).isSome)
  let s1 := free.foldl (fun t p => noteSwap (swapBank (stepRegVer t t.ft) p) p 0) s
  if barred.isEmpty then s1
  else
    let ft := s1.fus.newest / 16 * 16 + 16
    let s2 := insertReg (if regCairnAt s1 ft then s1 else stepRegVer s1 ft) ft
    barred.foldl (fun t p => noteSwap (swapBank (setFlag t (FUS_GRID_CTRL p) 17 true) p) p ft) s2

/-- The code that refuses a commit of a port, by the owner that must hold it. -/
def commitRefuse (s : State) (p : Nat) (host : Bool) : Option Nat :=
  if ownerHost s p != host then some errGridOwned
  else if gridPend s p then some errCommitPending
  else if !gridOk s p (1 - gridBank s p) then some errGridFold
  else none

/-- A write of FUS_GRID_CTRL (R209). -/
def gridCtrlWrite (s : State) (w : Who) (p : Nat) (v : Word) : State :=
  let a := FUS_GRID_CTRL p
  let s1 := if nbit v.toNat 31 then
      (match commitRefuse s p true with
       | some c => wErr s w a c
       | none => commitPorts s [p])
    else s
  plainWrite s1 w a (putBits v 31 31 0)

def execGridCommit (w : Who) (p : Nat) (v : Word) (s : State) : Out :=
  .next (guardW s w 4 (FUS_GRID_CTRL p) (fun t => gridCtrlWrite t w p v))

/-- GRID_PEND_CLEAR: a port has released every event stamped before its registration cairn (R210). -/
def execGridPendClear (p : Nat) (s : State) : Out :=
  match s.fus.grids.find? (fun g => g.1 == p) with
  | none => .next s
  | some g =>
    let x := port s p
    let reached := decide (g.2 ≤ 16 * x.lastStamp) || (!inStream s p && x.buf.isEmpty && x.spill.isEmpty)
    if gridPend s p && reached && x.waiting.all (fun e => decide (g.2 ≤ 16 * e.stamp)) then .next (pendClear s p) else .next s

/-! ## BAR4 accesses to the grids (R206) -/

/-- The verdict on a write to a grid at port p, bank and offset: none where it is made or has no effect. -/
def gridPoke (s : State) (p bank : Nat) : Option Nat :=
  if bank = gridBank s p then some errGridActive
  else if gridPend s p then some errCommitPending
  else if !ownerHost s p then some errGridOwned
  else none

/-! ## Refinement (R212 to R214) -/

/-- A measurement that the solver discards. -/
def rejectMeas (s : State) (p : Nat) : State :=
  irq (wrN (bump s FUS_REF_REJECT_CNT) FUS_REG_IRQ_PORT p) pgReg 2

/-- MARK_MEASUREMENT: port, pixel in 1/16, the expected bar-frame position in 1/8 cell, and whether an event of it carried
ARRIVAL_STAMP or TIME_UNLOCKED. -/
def execMarkMeasurement (p u v : Nat) (x y : Int) (tainted : Bool) (s : State) : Out :=
  if isLegacy s p || tainted then .next (rejectMeas s p)
  else if (barOf s p).isNone || (port s p).w = 0 || (port s p).h = 0 then .next s
  else
    let g := gridMap s p (gridBank s p) (16 * (port s p).w) (16 * (port s p).h) u v
    .next { s with fus := { s.fus with meas := s.fus.meas ++ [{ port := p, ref := none, pos := [g.1, g.2], vals := [g.1 - x, g.2 - y] }] } }

/-- The corner nodes of a port's active grid. -/
def cornerNodes (s : State) (p : Nat) : List Int :=
  [(0, 0), (64, 0), (0, 64), (64, 64)].flatMap (fun (n : Nat × Nat) =>
    [nodeX s p (gridBank s p) n.1 n.2, nodeY s p (gridBank s p) n.1 n.2])

/-- An overlap measured in the cycle: pair, dx and dy in 1/8 cell, tainted. -/
def takeOverlap (s : State) (o : Nat × Int × Int × Bool) : State :=
  let r := fld s (FUS_OVL o.1) 30 26
  let m := fld s (FUS_OVL o.1) 25 21
  if !flag s (FUS_OVL o.1) 31 || (barOf s r).isNone || (barOf s m).isNone then s
  else if isLegacy s r || o.2.2.2 then rejectMeas s m
  else { s with fus := { s.fus with meas := s.fus.meas ++
      [{ port := m, ref := some r, pos := cornerNodes s r ++ cornerNodes s m, vals := [o.2.1, o.2.2.1] }] } }

/-- The measurements that touch a port: marks alone for the bar's reference port. -/
def touching (s : State) (b p : Nat) : Nat :=
  let rp := decide (fld s (FUS_BAR_CFG b) 30 26 = p)
  (s.fus.meas.filter (fun m => (m.port == p && (m.ref.isNone || !rp)) || (m.ref == some p && !rp))).length

/-- The common denominator of ppm and 2^-20 rad. -/
def refDen : Int := 1000000 * 1048576

/-- The displacement of a node offset (ex, ey) in 1/8 cell from node (32, 32), in 1/64 cell times the denominator. -/
def displace (dx dy ph dk ex ey : Int) : Int × Int :=
  (dx * refDen + 8 * (dk * 1048576 * ex - ph * 1000000 * ey), dy * refDen + 8 * (dk * 1048576 * ey + ph * 1000000 * ex))

/-- The offset of node (i, j) from node (32, 32). -/
def nodeOff (s : State) (p bank i j : Nat) : Int × Int :=
  (nodeX s p bank i j - nodeX s p bank 32 32, nodeY s p bank i j - nodeY s p bank 32 32)

/-- The square of the largest displacement at the corner nodes. -/
def largest (s : State) (p : Nat) (c : Nat → Int) : Int :=
  [(0, 0), (64, 0), (0, 64), (64, 64)].foldl (fun m (n : Nat × Nat) =>
    let e := nodeOff s p (gridBank s p) n.1 n.2
    let d := displace (c 0) (c 1) (c 2) (c 3) e.1 e.2
    max m (d.1 * d.1 + d.2 * d.2)) 0

/-- A node moved, rounded to 1/8 cell with ties toward +∞ (R214). -/
def movedNode (s : State) (p : Nat) (c : Nat → Int) (i j : Nat) : Nat :=
  let k := gridBank s p
  let e := nodeOff s p k i j
  let d := displace (c 0) (c 1) (c 2) (c 3) e.1 e.2
  let rnd (v m : Int) : Int := (8 * refDen * v + m + 4 * refDen) / (8 * refDen)
  twos 16 (rnd (nodeX s p k i j) d.1) * 65536 + twos 16 (rnd (nodeY s p k i j) d.2)

/-- The staging bank of a port written with the transformed nodes. -/
def writeGrid (s : State) (p : Nat) (c : Nat → Int) : State :=
  let bytes := (List.range 65).flatMap (fun j => (List.range 65).flatMap (fun i => leBytes 4 (movedNode s p c i j)))
  tabWrite s (nodeAt p (1 - gridBank s p) 0 0) bytes

/-- FUS_GRID_CORR and FUS_GRID_CORR2 show a correction. -/
def showCorr (s : State) (p : Nat) (c : Nat → Int) : State :=
  let h (i : Nat) : Nat := twos 16 (satS 16 (c i))
  wrN (wrN s (FUS_GRID_CORR p) (h 0 * 65536 + h 1)) (FUS_GRID_CORR2 p) (h 2 * 65536 + h 3)

/-- What the solver knows of each port of an enabled bar: its node (32, 32), about which dφ and dk act, and whether it is its bar's
REFPORT, which takes only marks (R212). -/
def solverPorts (s : State) : List (Nat × Int × Int × Bool) :=
  (List.range 32).filterMap (fun p => (barOf s p).map (fun b =>
    (p, nodeX s p (gridBank s p) 32 32, nodeY s p (gridBank s p) 32 32, decide (fld s (FUS_BAR_CFG b) 30 26 = p))))

/-- One port at the close of a cycle: the state, and whether its staging bank is to be committed. -/
def refinePort (s : State) (meas : List (Nat × Option Nat × List Int × List Int)) (b p : Nat) : State × Bool :=
  if touching s b p < fld s FUS_REF_MINMEAS 7 0 then (s, false)
  else
    let c := Config.refineSolve (solverPorts s) meas p
    let s1 := showCorr s p c
    let big := largest s p c
    let lo : Int := (fld s FUS_REF_CFG 7 0 : Nat) * refDen
    let hi : Int := (8 * fld s FUS_REF_CFG 15 8 : Nat) * refDen
    if big < lo * lo then (s1, false)
    else if hi * hi < big then
      (irq (wrN (addLog s1 .refinement 0 0 (256 + p)) FUS_REG_IRQ_PORT p) pgReg 1, false)
    else if ownerHost s1 p || gridPend s1 p then (s1, false)
    else
      let s2 := writeGrid s1 p c
      if gridOk s2 p (1 - gridBank s2 p) then
        (addLog s2 .refinement (fld s2 (FUS_GRID_CTRL p) 15 0) (fld s2 (FUS_GRID_CTRL p) 15 0 + 1) p, true)
      else (recErr s2 pgReg errGridFold 0, false)

/-- REFINEMENT_CYCLE: the close of a cycle, with the overlaps measured in it (pair, dx, dy, tainted). -/
def execRefinementCycle (now : Nat) (ovl : List (Nat × Int × Int × Bool)) (s0 : State) : Out :=
  let s := advance s0 now
  let per := fld s FUS_REF_CFG 31 16 * 1000000
  let c := s.ft / per * per
  if c ≤ s.fus.lastCycle then .next s
  else
    let s1 := ovl.foldl takeOverlap { s with fus := { s.fus with lastCycle := c } }
    let meas := s1.fus.meas.map (fun m => (m.port, m.ref, m.pos, m.vals))
    let (s2, ps) := (List.range 32).foldl (fun (a : State × List Nat) p =>
      match barOf a.1 p with
      | none => a
      | some b =>
        let (t, yes) := refinePort a.1 meas b p
        (t, if yes then a.2 ++ [p] else a.2)) (s1, [])
    .next (commitPorts { s2 with fus := { s2.fus with meas := [] } } ps)

/-! ## Register writes and soft reset (R213, R217 to R220) -/

/-- A write of an overlap-pair register. -/
def ovlWrite (s : State) (w : Who) (n : Nat) (v : Word) : State :=
  let a := FUS_OVL n
  if (barOf s (fld s a 30 26)).isSome || (barOf s (fld s a 25 21)).isSome then wErr s w a 0x0101
  else if bits v 30 26 = bits v 25 21 then wErr s w a errReservedEnc
  else if isLegacy s (bits v 30 26) then wErr s w a 0x0106
  else plainWrite s w a v

/-- A write of a register of the fusion pages. -/
def fusWrite (s : State) (w : Who) (a : Nat) (v : Word) : State :=
  if a = FUS_CTRL ∨ a = FUS_FLOW then timingWrite s w a v
  else if a = FUS_FLOW_MIN then staticWrite s w a v (anyBar s) 0x0101
  else if pgBar 0 ≤ a ∧ a < pgReg then
    let b := (a - pgBar 0) / 4096
    if a = FUS_BAR_CFG b then barCfgWrite s w b v
    else if a = FUS_BAR_VOTE b then voteWrite s w b v
    else if a % 4096 ≤ 0xDC then staticWrite s w a v (barOn s b) 0x0101
    else plainWrite s w a v
  else if FUS_OVL 0 ≤ a ∧ a ≤ FUS_OVL 31 ∧ a % 4 = 0 then ovlWrite s w ((a - FUS_OVL 0) / 4) v
  else if pgReg + 0x100 ≤ a ∧ a < pgReg + 0x300 ∧ a % 16 = 0 then gridCtrlWrite s w ((a - (pgReg + 0x100)) / 16) v
  else plainWrite s w a v

/-- Whether a soft reset of a fusion page is refused with ERR_BOUND. -/
def fusBound (s : State) (pg : Nat) : Bool :=
  if pg = pgFus ∨ pg = pgReg then anyBar s else boundBar s ((pg - pgBar 0) / 4096)

/-- What a register of a fusion page becomes at a soft reset: its reset value, status fields too, but for FUS_REG_VER, BANK, PVER and
FUS_GRID_REF_VER, which keep their values (R217). -/
def fusSoftWord (a : Nat) (v : Word) : Word :=
  if a = FUS_REG_VER then v
  else if pgReg + 0x100 ≤ a ∧ a < pgReg + 0x300 then
    (if a % 16 = 0 then putBits (resetWord a) 16 0 (bits v 16 0) else if a % 16 = 12 then v else resetWord a)
  else resetWord a

/-- The soft reset of a fusion page (R217). -/
def fusSrst (s : State) (pg : Nat) : State :=
  let b := (pg - pgBar 0) / 4096
  if pg = pgFus ∨ pg = pgReg then mapRegs s pg fusSoftWord
  else mapRegs { (if barOn s b then barDisable s b else s) with disputed := tset boolD s.disputed b false } pg fusSoftWord

end Sys2Proof.Machine
end

