-- ==== Sys2Proof/Machine/Fabric.lean ====
section
/-!
DEFINITION. The fan-out units, the region router's registers and the surface builders (spec/07_event_fabric.md R233 to R249).
-/
namespace Sys2Proof.Machine
open Sys2Proof

def pgFab : Nat := 0x70000
def pgRgn : Nat := 0x71000
def pgFo : Nat := 0x72000
def pgSb (g : Nat) : Nat := 0x78000 + 0x1000 * g

/-! ## Fan-out (R239) -/

/-- The pinned entry of a neuron slot. -/
def pinOf (s : State) (g : Nat) : FanEntry := tget fanD s.pins g

/-- One record of a spike's entry: a two-word message to its core. -/
def sendRecord (src stamp : Nat) (w : Quad) (s : State) (r : Nat) : State :=
  if nbits r 31 20 = 0 then s
  else
    sendWord (bump s FAB_FO_MSG_CNT) src stamp (fun t => quad (w.toNat % 2 ^ 40 + t % 2 ^ 24 * 2 ^ 40)) r [.core (nbits r 63 55)]

/-- A spike served from its pinned entry. -/
def serveSpike (s : State) (w : FabWord) : State :=
  let e := pinOf s (qf w.w 39 18)
  let stamp := w.base
  if !e.v then bump s FAB_FO_INVALID_CNT
  else
    let s1 := e.recs.foldl (sendRecord w.src stamp w.w) s
    match e.sv with
    | some (t, k, x, y) =>
      sendWord s1 w.src stamp (fun o => quad (w.w.toNat % 2 ^ 40 + o % 2 ^ 24 * 2 ^ 40)) (x * 8192 + y) [.slot t k]
    | none => if e.recs.isEmpty then bump s1 FAB_FO_NULL_CNT else s1

/-- A WATERMARK of a core sent on its paths; a FINAL one carries the latest value that the core has sent (R226). -/
def sendFanMark (s : State) (w : FabWord) : State :=
  if qf w.w 5 5 = 1 then sendFinal s w.src else sendMark s w.src w.base false

/-- Whether a core's words wait for a credit at the fan-out unit of cluster c (R230). -/
def fanBlocked (s : State) (c : Nat) : Bool := (rangeFrom (32 * c) 32).any (fun n => srcBlocked s (32 + n))

/-- A spike or WATERMARK of a core goes out. -/
def serveFan (s : State) (w : FabWord) : State := if kindOf w.w = kindMark then sendFanMark s w else serveSpike s w

/-- WATERMARKs at the front of a fan-out unit's queue go out after the spikes before them. -/
def drainMarks (c : Nat) : Nat → State → State
  | 0, s => s
  | n + 1, s =>
    match fanQ s c with
    | w :: t =>
      if kindOf w.w = kindMark && !fanBlocked s c then drainMarks c n (sendFanMark (setFanQ s c t) w) else s
    | [] => s

/-- Everything that a fan-out unit has to serve goes out: before the entries that it is served from are given up (R226). -/
def drainFan (s : State) (c : Nat) : State := (fanQ s c).foldl serveFan (setFanQ s c [])

/-- A spike or WATERMARK of a core enters its cluster's fan-out unit; `base` holds its stamp. -/
def pushFan (s : State) (c : Nat) (w : FabWord) : State :=
  drainMarks c 1 (setFanQ s c (fanQ s c ++ [w]))

/-- SPIKE_FANOUT: the spike at the front of a cluster's fan-out unit; none while a word of the unit waits for a credit. -/
def execSpikeFanout (c : Nat) (s : State) : Out :=
  match fanQ s c with
  | [] => .next s
  | w :: t =>
    if fanBlocked s c then .next s
    else .next (drainMarks c (t.length) (serveFan (setFanQ s c t) w))

/-! ## The region router's registers (R233, R247) -/

/-- Whether a running job uses a region entry. -/
def rgnInUse (s : State) (e : Nat) : Bool := s.jobs.any (fun j => running j && j.plan.rgn.any (fun r => r.1 == e))

/-- The code that refuses the words in DATA0–3 for entry e. -/
def rgnRefuse (s : State) (e : Nat) : Option Nat :=
  let w0 := rd s (FAB_RGN_DATA 0)
  let w2 := rd s (FAB_RGN_DATA 2)
  let w3 := rd s (FAB_RGN_DATA 3)
  if rgnInUse s e then some errBound
  else if bits w2 30 27 ≠ 0 ∨ bits w2 17 9 ≠ 0 ∨ bits w3 23 23 ≠ 0 ∨ bits w3 15 8 ≠ 0 then some errReservedEnc
  else if bits w0 12 0 < bits w0 25 13 ∨ bits w2 8 0 < bits w2 26 18 ∨ bits w3 22 16 < bits w3 30 24 then some 0x0101
  else none

/-- A write of FAB_RGN_CTRL: SEL, then WR, then RD. -/
def rgnCtrlWrite (s : State) (w : Who) (v : Word) : State :=
  let s1 := plainWrite s w FAB_RGN_CTRL (putBits v 31 30 0)
  let e := fld s1 FAB_RGN_CTRL 7 0
  let s2 := if !nbit v.toNat 31 then s1 else
    match rgnRefuse s1 e with
    | some c => wErr s1 w FAB_RGN_CTRL c
    | none => (List.range 4).foldl (fun t i => setRgnWord t e i (rd t (FAB_RGN_DATA i))) s1
  if nbit v.toNat 30 then (List.range 4).foldl (fun t i => wr t (FAB_RGN_DATA i) (rgnWord t e i)) s2 else s2

def execFabRgnWr (w : Who) (v : Word) (s : State) : Out := .next (guardW s w 4 FAB_RGN_CTRL (fun t => rgnCtrlWrite t w v))

def execFabRgnRd (w : Who) (v : Word) (s : State) : Out := .next (guardW s w 4 FAB_RGN_CTRL (fun t => rgnCtrlWrite t w v))

/-! ## Surface slots: geometry (R240, R241, R249) -/

def tyTs : Nat := 0
def tyCnt8 : Nat := 1
def tyCnt16 : Nat := 2
def tyVox : Nat := 3
def tySpk : Nat := 4

def sbType (s : State) (t k : Nat) : Nat := fld s (slotCfg t k) 30 28
def sbCell (s : State) (t k : Nat) : Nat := fld s (slotCfg t k) 27 26
def sbX0 (s : State) (t k : Nat) : Nat := fld s (slotCfg t k) 25 13
def sbW (s : State) (t k : Nat) : Nat := fld s (slotGeom t k) 31 19 + 1
def sbH (s : State) (t k : Nat) : Nat := 2 ^ fld s (slotGeom t k) 18 15
def sbBins (s : State) (t k : Nat) : Nat := fld s (slotGeom t k) 14 10
def sbBase (s : State) (t k : Nat) : Nat := fld s (slotBase t k) 21 6 * 64
def sbLen (s : State) (t k : Nat) : Nat := fld s (slotWin t k) 31 16 * 1000
def sbAnc (s : State) (t k : Nat) : Nat := fld s (slotWin t k) 13 0

/-- Channels and element bytes of a slot. -/
def sbChans (s : State) (t k : Nat) : Nat :=
  let y := sbType s t k
  if y = tyVox then 2 * sbBins s t k else if y = tySpk then 1 else 2

def sbElem (s : State) (t k : Nat) : Nat :=
  let y := sbType s t k
  if y = tyTs then 4 else if y = tyCnt16 then 2 else 1

/-- The size of a bank, and the distance of bank 1 from bank 0. -/
def sbBank (s : State) (t k : Nat) : Nat := sbChans s t k * sbH s t k * sbW s t k * sbElem s t k
def sbPitch (s : State) (t k : Nat) : Nat := (sbBank s t k + 63) / 64 * 64

/-- The place in the SRAM aperture of an element of a bank. -/
def sbAt (s : State) (t k bank c r col : Nat) : Nat :=
  tileAt t + sbBase s t k + bank * sbPitch s t k + ((c * sbH s t k + r) * sbW s t k + col) * sbElem s t k

/-- The code that refuses the enabling of a slot whose descriptor holds the new values (R240, R249). -/
def slotRefuse (t k : Nat) (s : State) : Option Nat :=
  if 4 < sbType s t k then some errReservedEnc
  else if 8192 < sbW s t k ∨ sbLen s t k = 0 ∨ 13 < fld s (slotGeom t k) 18 15
    ∨ (sbType s t k = tyVox ∧ ¬(2 ≤ sbBins s t k ∧ sbBins s t k ≤ 16)) ∨ (sbType s t k ≠ tyVox ∧ sbBins s t k ≠ 0)
    ∨ 8192 < sbH s t k * 2 ^ sbCell s t k
    ∨ tileSize < sbBase s t k + sbPitch s t k + sbBank s t k then some 0x0102
  else none

/-! ## Surface slots: words (R241, R242) -/

/-- The page of a tile's surface builder. -/
def sbPage (t : Nat) : Nat := pgSb (t / 16)

/-- An interrupt of a slot. -/
def sbIrq (s : State) (t k bit : Nat) : State := irq (wrN s (SB_IRQ_SLOT (t / 16)) ((8 * t + k) % 128)) (sbPage t) bit

/-- The end of window n of a slot. -/
def winEnd (s : State) (t k b n : Nat) : Nat := b + n * sbLen s t k

/-- The window of a stamp: n ≥ 1, or 0 before the first. -/
def winOf (s : State) (t k b stamp : Nat) : Nat := if stamp < b then 0 else (stamp - b) / sbLen s t k + 1

/-- What a source's word says of it: a known source (R242), its latest WATERMARK, FINAL. -/
def knowSrc (l : List (Nat × Nat × Bool)) (w : FabWord) : List (Nat × Nat × Bool) :=
  let old := match l.find? (fun e => e.1 == w.src) with | some e => e.2.1 | none => 0
  let isMark := kindOf w.w == kindMark
  (w.src, (if isMark then max old (stampOf w) else old), isMark && qf w.w 5 5 == 1) :: l.filter (fun e => e.1 != w.src)

/-- Whether a word is an event or a spike. -/
def isData (w : FabWord) : Bool := kindOf w.w == kindEvent || kindOf w.w == kindSpike

/-- The raster place of a word at a slot, and its polarity: a spike's place comes with it. -/
def wordPlace (w : FabWord) : Nat × Nat × Nat :=
  if kindOf w.w = kindSpike then (w.ext / 8192 % 8192, w.ext % 8192, 0) else (qf w.w 39 27, qf w.w 26 14, qf w.w 13 13)

/-- The new value of an element, and whether it saturated (R240). -/
def update (ty old stamp mult : Nat) : Nat × Bool :=
  if ty = tyTs then
    let v := stamp / 16 % 4294967296
    let later := decide (old = 0) || decide ((v + 4294967296 - old) % 4294967296 < 2147483648)
    let n := if later then v else old
    ((if n = 0 then 1 else n), false)
  else if ty = tySpk then
    let m := (if nbit old 2 then old % 4 + 1 else 0) + mult
    (4 + (min m 4 - 1), decide (4 < m))
  else
    let top := if ty = tyCnt16 then 0xFFFF else 0xFF
    (satN top (old + 1), decide (top < old + 1))

/-- A word of the open window n placed and applied; where its element's word is uncorrectable the update is abandoned, the word keeps
its poison, and the window goes on (spec/09_tensor_tiles.md R308). -/
def applyWord (s : State) (t k n : Nat) (w : FabWord) : State :=
  let g := t / 16
  let ty := sbType s t k
  let spike := kindOf w.w == kindSpike
  if spike != (ty == tySpk) then bump s (SB_TYPE_CNT g)
  else
    let (x, y, pol) := wordPlace w
    let col := (x - sbX0 s t k) / 2 ^ sbCell s t k
    let r := y / 2 ^ sbCell s t k % sbH s t k
    if x < sbX0 s t k ∨ sbW s t k ≤ col then bump s (SB_OUTSIDE_CNT g)
    else
      let st := stampOf w
      let b := (slotOf s t k).b.getD 0
      let bin := (st - winEnd s t k b (n - 1)) * sbBins s t k / sbLen s t k
      let c := if ty = tySpk then 0 else if ty = tyVox then 2 * bin + pol else pol
      let bank := (n - 1) % 2
      let a := sbAt s t k bank c r col
      if sramBad s a (sbElem s t k) then sramUe s (a / 8 * 8) else
      let s := correct s [(a, sbElem s t k)]
      let (v, sat) := update ty (sramNum s a (sbElem s t k)) st (qf w.w 17 16 + 1)
      let s1 := sramWrite s a (leBytes (sbElem s t k) v)
      let row := c * sbH s t k + r
      let x1 := slotOf s1 t k
      let add (l : List Nat) : List Nat := if l.contains row then l else row :: l
      let s2 := setSlot s1 t k (if bank = 0 then { x1 with rows0 := add x1.rows0 } else { x1 with rows1 := add x1.rows1 })
      if sat then bump s2 (SB_SAT_CNT g) else s2

/-- Whether the builder may take a word now: it belongs to the open window with its bank prepared, or to no later one. -/
def mayApply (s : State) (t k b : Nat) (w : FabWord) : Bool :=
  let x := slotOf s t k
  if isData w then
    let n := winOf s t k b (stampOf w)
    decide (n ≤ x.closed) || (decide (n = x.closed + 1) && x.ready)
  else true

/-- The first waiting word that a test picks of a source of which no word waits before it, and the others. -/
def takeWord (f : FabWord → Bool) (srcs : List Nat) : List FabWord → Option (FabWord × List FabWord)
  | [] => none
  | w :: t => if f w && !srcs.contains w.src then some (w, t)
    else (takeWord f (w.src :: srcs) t).map (fun r => (r.1, w :: r.2))

/-- Whether a tile's surface builder goes on: its tile in no reset and not awaiting its rebind (R245), and no clock pause
(spec/09_tensor_tiles.md R324). -/
def sbRuns (s : State) (t : Nat) : Bool :=
  unitState s (tilePage t) == stReady && !isAwaiting s t && s.pwr.pause.isNone && !inBivouac s

/-- The first word that may be taken is taken: applied, or counted late in a closed window (R244). -/
def applyOne (s : State) (t k : Nat) : State :=
  let x := slotOf s t k
  match x.b with
  | none => s
  | some b =>
    match takeWord (mayApply s t k b) [] x.inq with
    | none => s
    | some (w, rest) =>
      let s1 := settle (setSlot s t k { x with inq := rest, known := knowSrc x.known w })
      if !isData w then s1
      else
        let n := winOf s t k b (stampOf w)
        if n = 0 then s1
        else if n ≤ x.closed then sbIrq (bump s1 (SB_LATE_CNT (t / 16))) t k 0
        else applyWord s1 t k n w

/-- SB_WORD_APPLY. -/
def execSbWordApply (t k : Nat) (s : State) : Out := if sbRuns s t then .next (applyOne s t k) else .next s

/-! ## Surface slots: windows (R242 to R244) -/

/-- The running job that a tile is bound to; 0 none. -/
def tileJob (s : State) (t : Nat) : Nat :=
  match s.jobs.find? (fun j => running j && j.plan.tiles.contains t) with
  | some j => j.handle
  | none => 0

/-- The sources of a slot that its binding fixes (BELAY, R242). -/
def boundSources (s : State) (t k : Nat) : List Nat :=
  (List.range 32).filter (fun p => reaches s p (.slot t k)) ++
  (uniq (s.pins.map (fun e => e.1 / 8192))).filterMap (fun n => if (corePaths s n).contains (.slot t k) then some (32 + n) else none)

/-- The latest WATERMARKs of the known sources that have not ended, of every word received: those that wait in the input FIFO
too. -/
def knownMarks (s : State) (t k : Nat) : List Nat :=
  let x := slotOf s t k
  let l := x.inq.foldl knowSrc x.known
  if inBelay s then
    x.bound.filterMap (fun p => match l.find? (fun e => e.1 == p) with
      | some e => if e.2.2 then none else some e.2.1
      | none => some 0)
  else (l.filter (fun e => !e.2.2)).map (fun e => e.2.1)

/-- The open window of a slot closes: its anchor counts it, and from window 3 on the next bank waits to be prepared (R243). A
window whose own bank was not prepared has written no row. -/
def closeWindow (s : State) (t k : Nat) : State :=
  let x := slotOf s t k
  let lost := !x.ready && sbType s t k == tyTs
  let y := { x with closed := x.closed + 1, ready := decide (x.closed = 0), waitFt := some s.ft, stallPulsed := false, met := false, charged := false
                    rows0 := if lost && x.closed % 2 == 0 then [] else x.rows0
                    rows1 := if lost && x.closed % 2 == 1 then [] else x.rows1 }
  let s1 := setSlot s t k y
  let a := sbAnc s t k
  sigAdd s1 (unitSig s1 (tileJob s1 t) a) a 1

/-- SB_WINDOW_CLOSE: by the WATERMARKs of every known source, or by FT where none is known. -/
def execSbWindowClose (t k now : Nat) (s0 : State) : Out :=
  let s := advance s0 now
  let x := slotOf s t k
  match x.b with
  | none => .next s
  | some b =>
    let e := winEnd s t k b (x.closed + 1)
    let ms := knownMarks s t k
    let due := if ms.isEmpty then decide (e ≤ s.ft) else ms.all (fun m => decide (e ≤ m))
    if sbRuns s t && x.ready && due && (takeWord (mayApply s t k b) [] x.inq).isNone then .next (closeWindow s t k) else .next s

/-- Every word that may be taken is taken. -/
def applyAll (t k : Nat) : Nat → State → State
  | 0, s => s
  | n + 1, s => applyAll t k n (applyOne s t k)

/-- SB_CLOSE_TIMEOUT: outside BELAY, FT passes the window's end by SB_CLOSE_TMO_US. -/
def execSbCloseTimeout (t k now : Nat) (s0 : State) : Out :=
  let s := advance s0 now
  let x := slotOf s t k
  match x.b with
  | none => .next s
  | some b =>
    if !sbRuns s t || inBelay s || decide (s.ft ≤ winEnd s t k b (x.closed + 1) + fld s (SB_CLOSE_TMO (t / 16)) 15 0 * 1000) then .next s
    else .next (closeWindow (applyAll t k x.inq.length s) t k)

/-- The part of an 8-byte word copied to the place d bytes above its own, or below; of an uncorrectable word the copy is abandoned
(spec/09_tensor_tiles.md R308). -/
def copyPiece (src dst : Nat) (s : State) (e : Nat × Nat) : State :=
  if sramBad s e.1 e.2 then sramUe s (e.1 / 8 * 8) else sramWrite s (e.1 + dst - src) (sramRead s e.1 e.2)

/-- One row of a bank cleared, or copied from the other bank. -/
def prepRow (t k bank : Nat) (copy : Bool) (s : State) (row : Nat) : State :=
  let n := sbW s t k * sbElem s t k
  let a := tileAt t + sbBase s t k + bank * sbPitch s t k + row * n
  let src := tileAt t + sbBase s t k + (1 - bank) * sbPitch s t k + row * n
  if !copy then sramWrite s a (List.replicate n 0)
  else
    let s1 := correct s [(src, n)]
    if sramBad s1 src n then (pieces src n).foldl (copyPiece src a) s1 else sramWrite s1 a (sramRead s1 src n)

/-- SB_BANK_PREPARE: the release of the bank has been signalled, and the bank is prepared (R243). -/
def execSbBankPrepare (t k now : Nat) (s0 : State) : Out :=
  let s := advance s0 now
  let x := slotOf s t k
  if x.ready || x.b.isNone || !sbRuns s t then .next s
  else if !x.met && !waitDone s (slotWait s (8 * t + k, x)) then .next s
  else
    let bank := x.closed % 2
    let ts := sbType s t k == tyTs
    let rows := if ts = (bank == 0) then x.rows1 else x.rows0
    let s1 := rows.foldl (prepRow t k bank ts) s
    let y := slotOf s1 t k
    let y' := { y with ready := true, waitFt := none, met := false, charged := false }
    let s2 := setSlot s1 t k (if bank = 0 then { y' with rows0 := [] } else { y' with rows1 := [] })
    let fcy := s.ft * 8 / 5 - x.waitFt.getD s.ft * 8 / 5
    .next (if fcy = 0 then s2 else bumpN s2 (SB_STALL_FCY (t / 16)) fcy)

/-! ## Slot registers (R249) -/

/-- The words that a slot has not taken, in its FIFO and in flight to it, are discarded and counted (R245). -/
def slotDrop (t : Nat) (s : State) (k : Nat) : State :=
  let n := fifoWords s (.slot t k)
  purge (setSlot (if n = 0 then s else bumpN s FAB_RESET_DROP_CNT n) t k { slotOf s t k with inq := [] }) (.slot t k)

def dropSlots (s : State) (t : Nat) : State := (List.range 8).foldl (slotDrop t) s

/-- A slot disabled: the words it has not taken are discarded. -/
def slotOff (s : State) (t k : Nat) : State := setSlot (slotDrop t s k) t k {}

/-- A surface slot starts to wait for its first cairn; every path to it is new. -/
def slotArm (s : State) (t k : Nat) : State :=
  newDest (setSlot s t k { arm := true, bound := boundSources s t k }) (.slot t k)

/-- A write of SB_SLOT_CFG. -/
def slotCfgWrite (s : State) (w : Who) (t k : Nat) (v : Word) : State :=
  enWrite s w (slotCfg t k) v 31 errBusyWrite (slotRefuse t k) (fun u => slotArm u t k) (fun u => slotOff u t k)

/-- SB_SLOT_ENABLE. -/
def execSbSlotEnable (w : Who) (t k : Nat) (v : Word) (s : State) : Out :=
  .next (guardW s w 4 (slotCfg t k) (fun u => slotCfgWrite u w t k v))

/-- A write of a register of the fabric pages. -/
def fabWrite (s : State) (w : Who) (a : Nat) (v : Word) : State :=
  if a = FAB_RGN_CTRL then rgnCtrlWrite s w v
  else if a = FAB_FO_BASE then (if 495 < bits v 8 0 then wErr s w a 0x0103 else plainWrite s w a v)
  else if pgSb 0 ≤ a ∧ a < pgSb 8 ∧ 0x100 ≤ a % 4096 ∧ a % 4096 < 0x900 then
    let i := (a % 4096 - 0x100) / 16
    let t := 16 * ((a - pgSb 0) / 4096) + i / 8
    let k := i % 8
    if a % 16 = 0 then slotCfgWrite s w t k v
    else if slotEnabled s t k then wErr s w a errBusyWrite
    else plainWrite s w a v
  else plainWrite s w a v

/-- What a register of the fabric pages reads as where it is not held as a word. -/
def fabLive (s : State) (a : Nat) : Option Nat :=
  if a = FAB_CAIRN_FT_LO then some (wideOf s a % 4294967296)
  else if a = FAB_FO_PINNED then some (8192 * ((List.range 512).filter (boundCore s)).length)
  else none

/-- The soft reset of a fabric page: slots are left disabled, region entries as they are (R68, R247). -/
def fabSrst (s : State) (pg : Nat) : State :=
  if pgSb 0 ≤ pg ∧ pg < pgSb 8 then
    let g := (pg - pgSb 0) / 4096
    softRegs ((List.range 128).foldl (fun u i =>
      if slotEnabled u (16 * g + i / 8) (i % 8) then slotOff u (16 * g + i / 8) (i % 8) else u) s) pg
  else softRegs s pg

end Sys2Proof.Machine
end

