-- ==== Sys2Proof/Machine/Uop.lean ====
section
/-!
DEFINITION. Microinstructions (spec/08_neuron_cores.md R263 to R273): one definition per operation on the register file of a
slot's program, and the update of a per-event trace.
-/
namespace Sys2Proof.Machine
open Sys2Proof

/-- What a class gives its program: format, RESID, the constants and the DECAY LUT as they are stored (16 bits each). -/
structure UopEnv where
  fp : Bool
  resid : Bool
  k : Nat → Nat
  lut : Nat → Nat

/-! ## Registers -/

def ureg (u : UopSt) (i : Nat) : Word := u.r.getD i 0
def setUreg (u : UopSt) (i : Nat) (v : Word) : UopSt := { u with r := u.r.set i v }

/-- A register as an integer, or as an FP32 value. -/
def uint (u : UopSt) (i : Nat) : Int := sx 32 (ureg u i).toNat
def ufp (u : UopSt) (i : Nat) : FVal := f32 (ureg u i).toNat

/-- K[i] as an integer, or as an FP16 constant widened exactly. -/
def kInt (e : UopEnv) (i : Nat) : Int := sx 16 (e.k i)
def kFp (e : UopEnv) (i : Nat) : FVal := fDecode fmtFp16 (e.k i)

/-- An integer or FP32 result as a register word: saturated to 32 bits, or rounded (R267, R268). -/
def wInt (v : Int) : Word := word (twos 32 (satS 32 v))
def wFp (v : FVal) : Word := word (r32 v)

/-- A shift right with rounding, ties toward +∞ (R267). -/
def rshr (v : Int) (k : Nat) : Int := if k = 0 then v else asr (v + ((2 ^ (k - 1) : Nat) : Int)) k

/-- A result that sets N and Z (R265). -/
def uresult (e : UopEnv) (u : UopSt) (d : Nat) (v : Word) : UopSt :=
  let u1 := setUreg u d v
  if e.fp then { u1 with n := fLt (f32 v.toNat) fZero, z := fIsZero (f32 v.toNat) }
  else { u1 with n := decide (sx 32 v.toNat < 0), z := decide (v = 0) }

/-- B/K: register B, or K[K] where X = 1. -/
def bkInt (e : UopEnv) (u : UopSt) (i : UopF) : Int := if i.x then kInt e i.k else uint u i.b
def bkFp (e : UopEnv) (u : UopSt) (i : UopF) : FVal := if i.x then kFp e i.k else ufp u i.b

/-! ## Operations (R265) -/

def uopNop (_e : UopEnv) (_i : UopF) (u : UopSt) : UopSt := u

def uopAdd (e : UopEnv) (i : UopF) (u : UopSt) : UopSt :=
  uresult e u i.d (if e.fp then wFp (fAdd (ufp u i.a) (bkFp e u i)) else wInt (uint u i.a + bkInt e u i))

def uopSub (e : UopEnv) (i : UopF) (u : UopSt) : UopSt :=
  uresult e u i.d (if e.fp then wFp (fAdd (ufp u i.a) (fNeg (bkFp e u i))) else wInt (uint u i.a - bkInt e u i))

def uopMulc (e : UopEnv) (i : UopF) (u : UopSt) : UopSt :=
  uresult e u i.d (if e.fp then wFp (fMul (ufp u i.a) (kFp e i.k)) else wInt (rshr (uint u i.a * kInt e i.k) (i.imm % 16)))

/-- MAC is one operation: in FP16 classes it rounds once. -/
def uopMac (e : UopEnv) (i : UopF) (u : UopSt) : UopSt :=
  uresult e u i.d (if e.fp then wFp (fAdd (ufp u i.d) (fMul (ufp u i.a) (kFp e i.k)))
    else wInt (uint u i.d + rshr (uint u i.a * kInt e i.k) (i.imm % 16)))

def uopShr (e : UopEnv) (i : UopF) (u : UopSt) : UopSt :=
  uresult e u i.d (if e.fp then wFp (fScale (ufp u i.a) (-((i.imm % 32 : Nat) : Int))) else wInt (rshr (uint u i.a) (i.imm % 32)))

def uopClamp (e : UopEnv) (i : UopF) (u : UopSt) : UopSt :=
  uresult e u i.d
    (if e.fp then
      (if ufp u i.a = .nan then wFp (kFp e i.k) else wFp (fMin (fMax (ufp u i.a) (kFp e i.k)) (kFp e (i.imm % 8))))
    else wInt (min (max (uint u i.a) (kInt e i.k)) (kInt e (i.imm % 8))))

/-- One LUT entry applied m times (R271). -/
def decayInt (l : Nat) : Nat → Int → Int
  | 0, v => v
  | m + 1, v => decayInt l m (satS 32 (rshr (v * (l : Int)) 16))

def decayFp (l : FVal) : Nat → FVal → FVal
  | 0, v => v
  | m + 1, v => decayFp l m (q32 (fMul v l))

def uopDecay (e : UopEnv) (i : UopF) (u : UopSt) : UopSt :=
  if e.fp then
    let j := if i.x then (fFloor 0 255 0 (ufp u i.b)).toNat else i.imm
    uresult e u i.d (wFp (decayFp (fDecode fmtFp16 (e.lut j)) u.stretch (ufp u i.a)))
  else
    let j := if i.x then (clampI 0 255 (uint u i.b)).toNat else i.imm
    uresult e u i.d (wInt (decayInt (e.lut j % 65536) u.stretch (uint u i.a)))

/-- F and M of a threshold test that reached j (R269). -/
def fired (u : UopSt) (theta : Word) (j : Nat) : UopSt :=
  { u with theta := theta, f := decide (1 ≤ j), m := min j 4, sat := u.sat + (if j = 5 then 1 else 0) }

/-- CMPTH (R269). -/
def uopCmpth (e : UopEnv) (i : UopF) (u : UopSt) : UopSt :=
  if e.fp then
    let th := q32 (bkFp e u i)
    let pass (j : Nat) : Bool := fLe (q32 (fMul (fOf j 0) th)) (ufp u i.a)
    if u.q || fLe th fZero then fired u (wFp th) 0
    else fired u (wFp th) (if pass 5 then 5 else if pass 4 then 4 else if pass 3 then 3 else if pass 2 then 2 else if pass 1 then 1 else 0)
  else
    let th := bkInt e u i
    if u.q || decide (th ≤ 0) then fired u (wInt th) 0
    else fired u (wInt th) (if uint u i.a < 0 then 0 else min 5 (uint u i.a / th).toNat)

/-- RESET (R270). -/
def uopReset (e : UopEnv) (i : UopF) (u : UopSt) : UopSt :=
  if !u.f then u
  else if e.fp then
    let th := f32 u.theta.toNat
    if e.resid then
      setUreg u i.d (wFp (fMin (q32 (fAdd (ufp u i.d) (fNeg (q32 (fMul (fOf u.m 0) th))))) (q32 (fMul (fOf 4 0) th))))
    else setUreg u i.d (wFp (kFp e i.k))
  else
    let th := sx 32 u.theta.toNat
    setUreg u i.d (if e.resid then wInt (min (uint u i.d - (u.m : Int) * th) (4 * th)) else wInt (kInt e i.k))

/-- REFRAC (R265, R271). -/
def uopRefrac (e : UopEnv) (i : UopF) (u : UopSt) : UopSt :=
  if i.x then (if u.f then setUreg u i.d (if e.fp then wFp (kFp e i.k) else wInt (kInt e i.k)) else u)
  else if e.fp then
    let v := fMax (q32 (fAdd (ufp u i.d) (fOf (-(u.stretch : Int)) 0))) fZero
    { setUreg u i.d (wFp v) with q := fLt fZero v }
  else
    let v := max (satS 32 (uint u i.d - (u.stretch : Int))) 0
    { setUreg u i.d (wInt v) with q := decide (0 < v) }

/-- The conditions of R266. -/
def cond (u : UopSt) (c : Nat) : Bool :=
  let v := if c / 2 = 0 then u.f else if c / 2 = 1 then u.q else if c / 2 = 2 then u.n else u.z
  v != (c % 2 == 1)

def uopSelect (_e : UopEnv) (i : UopF) (u : UopSt) : UopSt :=
  setUreg u i.d (if cond u i.c then ureg u i.a else ureg u i.b)

def uopSkip (_e : UopEnv) (i : UopF) (u : UopSt) : UopSt := if cond u i.c then { u with skip := i.imm % 32 } else u

/-! ## Programs (R262 to R264) -/

/-- The fields of a microinstruction's word. -/
def uopFields (w : Nat) : UopF :=
  { d := nbits w 26 24, a := nbits w 23 21, b := nbits w 20 18, k := nbits w 17 15, x := nbit w 14, c := nbits w 10 8
    imm := nbits w 7 0 }

def uopCode (w : Nat) : Nat := nbits w 31 27

/-- The operation of a code; NOP, TRACE and the reserved codes, which no enabled program holds, do nothing. -/
def uopOf (op : Nat) : UopEnv → UopF → UopSt → UopSt :=
  if op = 0x01 then uopAdd else if op = 0x02 then uopSub else if op = 0x03 then uopMulc else if op = 0x04 then uopMac
  else if op = 0x05 then uopShr else if op = 0x06 then uopClamp else if op = 0x07 then uopDecay
  else if op = 0x08 then uopCmpth else if op = 0x09 then uopReset else if op = 0x0A then uopRefrac
  else if op = 0x0C then uopSelect else if op = 0x0D then uopSkip else uopNop

/-- One microinstruction in its turn: skipped, or performed. -/
def uopTurn (f : UopEnv → UopF → UopSt → UopSt) (e : UopEnv) (i : UopF) (u : UopSt) : UopSt :=
  if u.skip = 0 then f e i u else { u with skip := u.skip - 1 }

/-- A program run on a register file. -/
def runProg (e : UopEnv) (ws : List Nat) (u : UopSt) : UopSt :=
  ws.foldl (fun v w => uopTurn (uopOf (uopCode w)) e (uopFields w) v) u

/-- The register file before the first microinstruction (R263): state variables and channel sums as they are stored. -/
def loadRegs (e : UopEnv) (wshift m cls : Nat) (st : List Nat) (i0 i1 : Nat) : UopSt :=
  let s (v : Nat) : Word := if e.fp then word (r32 (fDecode fmtFp16 v)) else wInt (sx 16 v)
  let i (v : Nat) : Word := if e.fp then wFp (fScale (fOf (sx 32 v) 0) (-(wshift : Int))) else word v
  { r := (List.range 4).map (fun k => s (at0 st k)) ++ [i i0, i i1, 0, 0], cls := cls, stretch := m }

/-- A state variable written back: its 16 bits, and what it counted (R263). -/
def storeReg (e : UopEnv) (v : Word) : Nat × Cvt :=
  if e.fp then
    match f32 v.toNat with
    | .nan => (0, .nan)
    | .inf s => (withSign fmtFp16 s fmtFp16.top, .sat)
    | x => fConvert fmtFp16 x
  else
    let i := sx 32 v.toNat
    (twos 16 (satS 16 i), if satS 16 i = i then .exact else .sat)

/-! ## Weights and traces (R256, R271 to R273) -/

/-- w of a synaptic event; none for a NaN weight, for which the spec states no integer. -/
def weight (fp : Bool) (wshift w : Nat) : Option Int :=
  if !fp then some (sx 16 w)
  else match fToInt (-2147483648) 2147483647 (fScale (fDecode fmtFp16 w) wshift) with
    | (_, .nan) => none
    | (i, _) => some i

/-- The TRACE update of D, 16 bits as stored. -/
def traceUpdate (e : UopEnv) (i : UopF) (mult d : Nat) : Nat :=
  if e.fp then
    let v := q32 (fAdd (q32 (fMul (fDecode fmtFp16 d) (fDecode fmtFp16 (e.lut i.imm)))) (q32 (fMul (fOf mult 0) (kFp e i.k))))
    (fConvert fmtFp16 v).1
  else
    let v := rshr (sx 16 d * ((e.lut i.imm % 65536 : Nat) : Int)) 16 + (mult : Int) * kInt e i.k
    twos 16 (satS 16 v)

/-- The order of R273. -/
def traceBefore (a b : TraceEv) : Bool :=
  if a.src ≠ b.src then decide (a.src < b.src)
  else if a.neuron ≠ b.neuron then decide (a.neuron < b.neuron)
  else if a.stamp ≠ b.stamp then decide (a.stamp < b.stamp) else decide (a.pos < b.pos)

def insTrace (x : TraceEv) : List TraceEv → List TraceEv
  | [] => [x]
  | y :: t => if traceBefore x y then x :: y :: t else y :: insTrace x t

/-- Trace events in canonical order. -/
def sortTrace (l : List TraceEv) : List TraceEv := l.foldr insTrace []

end Sys2Proof.Machine
end

