-- ==== Sys2Proof/Machine/Neuron.lean ====
section
/-!
DEFINITION. Neuron cores (spec/08_neuron_cores.md R250 to R285): inputs, steps, dynamics, overload, and their registers.
-/
namespace Sys2Proof.Machine
open Sys2Proof

def uopD (_ : Nat) : UopSt := {}

/-! ## Layout (R250 to R252) -/

def updNc (s : State) (n : Nat) (f : NcSt → NcSt) : State := setNc s n (f (ncOf s n))

/-- The place in the SRAM aperture of byte `off` of core n's tile. -/
def ncAt (n off : Nat) : Nat := tileAt (n / 4) + off

/-- The place of byte `off` of a core's memory block. -/
def ncMem (s : State) (n off : Nat) : Nat := ncAt n (fld s (NC_MEM_BASE n) 21 6 * 64 + off)

def slotByte (s : State) (n k : Nat) : Nat := sramNum s (ncMem s n (0x10000 + k)) 1

def clsCfg (n c : Nat) : Nat := NC_CLS_CFG n c
def clsOn (s : State) (n c : Nat) : Bool := flag s (clsCfg n c) 31
def clsLen (s : State) (n c : Nat) : Nat := min 32 (fld s (clsCfg n c) 5 0)
def clsFp (s : State) (n c : Nat) : Bool := flag s (clsCfg n c) 30

/-- The class of an active slot (R251). -/
def slotClass (s : State) (n k : Nat) : Option Nat :=
  let b := slotByte s n k
  if nbit b 7 && clsOn s n (b % 16) then some (b % 16) else none

/-- The words of a class's program. -/
def clsProg (s : State) (n c : Nat) : List Nat := (List.range (clsLen s n c)).map (fun i => rdN s (NC_UPROG n (32 * c + i)))

/-- What a class gives its programs. -/
def clsEnv (s : State) (n c : Nat) : UopEnv :=
  { fp := clsFp s n c
    resid := flag s (clsCfg n c) 29
    k := fun i => let w := rdN s (NC_CLS_K n (4 * c + i / 2 % 4)); if i % 2 = 0 then w % 65536 else w / 65536
    lut := fun i => tabNum s (0x10200000 + 0x2000 * n + 512 * c + 2 * i) 2 }

/-- The TRACE microinstructions of a class's program. -/
def clsTraces (s : State) (n c : Nat) : List UopF := ((clsProg s n c).filter (fun w => uopCode w == 0x0B)).map uopFields

/-- The place of accumulator channel ch of slot k in a bank. -/
def accAt (s : State) (n bank k ch : Nat) : Nat := ncMem s n (0x12000 + 0x10000 * bank + 8 * k + 4 * ch)

/-! ## Errors of memory (R308) -/

/-- A range of SRAM is read: where it holds an uncorrectable word the page goes to ERROR and nothing else happens. -/
def ncRead (s : State) (n a len : Nat) (k : State → State) : State :=
  if sramBad s a len then setUnitState (sramUe s (firstBad s.poison a len)) (ncPage n) stError else k (correct s [(a, len)])

/-- Whether a core's steps go on: enabled and READY, and no clock pause (R279). -/
def ncRuns (s : State) (n : Nat) : Bool :=
  ncEnabled s n && unitState s (ncPage n) == stReady && s.pwr.pause.isNone && !inBivouac s

/-! ## Sources and the frontier (R258) -/

/-- The sources that the binding of a core fixes. -/
def coreSources (s : State) (n : Nat) : List Nat :=
  (List.range 32).filter (fun p => reaches s p (.core n)) ++
  (uniq (s.pins.map (fun e => e.1 / 8192))).filterMap (fun m => if (corePaths s m).contains (.core n) then some (32 + m) else none)

/-- What a received word says of its source: the latest stamp or WATERMARK value, and FINAL. A cairn's FT bounds every later
stamp of its path, and counts. -/
def knowPos (l : List (Nat × Nat × Bool)) (w : FabWord) : List (Nat × Nat × Bool) :=
  let old := match l.find? (fun e => e.1 == w.src) with | some e => e.2.1 | none => 0
  (w.src, max old (stampOf w), kindOf w.w == kindMark && qf w.w 5 5 == 1) :: l.filter (fun e => e.1 != w.src)

/-- The positions of the counting sources: of every word received, those in the input FIFO too. -/
def positions (s : State) (n : Nat) : List Nat :=
  let known := (ncIn s n).foldl knowPos (ncOf s n).known
  let count := (known.filter (fun e => !e.2.2)).map (fun e => e.2.1)
  if (ncOf s n).belay then
    count ++ ((coreSources s n).filter (fun p => !known.any (fun e => e.1 == p))).map (fun _ => 0)
  else count

/-- The frontier. -/
def frontier (s : State) (n : Nat) : Nat :=
  match positions s n with
  | [] => s.ft
  | x :: t => t.foldl min x

/-! ## Steps (R257) -/

def tsNs (s : State) (n : Nat) : Nat := fld s (NC_STEP n) 10 0 * 1000

/-- E_s of the open step. -/
def stepEnd (s : State) (n : Nat) : Nat := (ncOf s n).stepStart + (ncOf s n).n * tsNs s n

/-- The effective stamp of a word (R255). -/
def effStamp (s : State) (n : Nat) (w : FabWord) : Nat :=
  if kindOf w.w = kindSpike then stampOf w + nbits w.ext 54 51 * tsNs s n else stampOf w

/-- A job that a core serves ends with ERR_BELAY_OVERRUN (R274). -/
def ncOverrun (s : State) (n which : Nat) : State :=
  let s1 := endJobs s errOverrun (fun j => j.plan.cores.contains n)
  irq (recErr s1 (ncPage n) 0x0104 (word which)) (ncPage n) 5

/-- NC_HOLD_FILL shows the hold queue. -/
def showHold (s : State) (n : Nat) : State :=
  let f := (ncOf s n).hold.length
  let a := NC_HOLD_FILL n
  setFld (setFld s a 15 0 f) a 31 16 (max f (fld s a 31 16))

/-! ## Synaptic events (R251, R253 to R256, R272) -/

/-- A trace event enters the buffer (R272, R274). -/
def addTrace (s : State) (n : Nat) (e : TraceEv) : State :=
  if (ncOf s n).trace.length < fld s (NC_TRACE_CAP n) 15 0 then updNc s n (fun x => { x with trace := x.trace ++ [e] })
  else if (ncOf s n).belay then ncOverrun s n 1
  else bump s (NC_TRACE_FULL_CNT n)

/-- One synaptic event: its record, multiplicity, and the key of a trace event of it. -/
def synEvent (n mult src neuron stamp : Nat) (s : State) (e : Nat × Nat) : State :=
  let (pos, rec) := e
  let k := nbits rec 31 19
  let ch := nbits rec 18 18
  ncRead s n (ncMem s n (0x10000 + k)) 1 (fun s =>
    match slotClass s n k with
    | none => bump s (NC_INACTIVE_CNT n)
    | some c =>
      let x := ncOf s n
      let a := accAt s n x.bank k ch
      ncRead s n a 4 (fun s =>
        let w := (weight (clsFp s n c) (fld s (clsCfg n c) 26 22) (nbits rec 15 0)).getD (Config.openInt 7 [(nbits rec 15 0 : Nat)])
        let s2 := sramWrite s a (leBytes 4 (twos 32 (sx 32 (sramNum s a 4) + w * (mult : Int))))
        let s3 := bump s2 (NC_SYN_CNT n)
        let s4 := if x.sample = some k then updNc s3 n (fun x => { x with samples := x.samples ++ [(w, mult, ch)] }) else s3
        if (clsTraces s4 n c).any (fun i => b2n i.x == ch) then
          addTrace s4 n { src := src, neuron := neuron, stamp := stamp, pos := pos, slot := k, ch := ch, mult := mult }
        else s4))

/-- A synapse row applied. -/
def applyRow (s : State) (n row len mult src neuron stamp : Nat) : State :=
  if fld s (NC_SYN_SIZE n) 19 0 < row + len then irq (bump s (NC_SYN_RANGE_CNT n)) (ncPage n) 4
  else
    let a := ncAt n (fld s (NC_SYN_BASE n) 21 6 * 64 + 4 * row)
    ncRead s n a (4 * len) (fun s =>
      ((List.range len).map (fun i => (i, sramNum s (a + 4 * i) 4))).foldl (synEvent n mult src neuron stamp) s)

/-- The input map index of an EVENT word; none outside the map (R254). -/
def inIndex (s : State) (n : Nat) (w : Quad) : Option Nat :=
  let cell := fld s (NC_IN_CFG n) 27 26
  let x0 := fld s (NC_IN_CFG n) 25 13
  let wd := fld s (NC_IN_GEOM n) 31 18
  let h := 2 ^ fld s (NC_IN_GEOM n) 17 14
  let x := qf w 39 27
  let col := (x - x0) / 2 ^ cell
  if !flag s (NC_IN_CFG n) 31 || decide (x < x0) || decide (wd ≤ col) then none
  else some ((qf w 13 13 * h + qf w 26 14 / 2 ^ cell % h) * wd + col)

/-- A word of the open step applied. -/
def applyInput (n : Nat) (s : State) (w : FabWord) : State :=
  let eff := effStamp s n w
  if kindOf w.w = kindSpike then
    applyRow s n (nbits w.ext 50 32) (nbits w.ext 31 20) (qf w.w 17 16 + 1) 32 (qf w.w 39 18) eff
  else
    match inIndex s n w.w with
    | none => bump s (NC_IN_OUTSIDE_CNT n)
    | some i =>
      let a := ncAt n (fld s (NC_IN_BASE n) 21 6 * 64 + 4 * i)
      ncRead s n a 4 (fun s =>
        let e := sramNum s a 4
        if nbits e 12 1 = 0 then s else applyRow s n (nbits e 31 13) (nbits e 12 1) 1 (qf w.w 12 8) i eff)

/-- The canonical key of a held word. -/
def holdKey (s : State) (n : Nat) (h : HeldIn) : List Int :=
  if kindOf h.w.w = kindSpike then [h.eff, 32, qf h.w.w 39 18]
  else [h.eff, qf h.w.w 12 8, match inIndex s n h.w.w with | some i => i | none => -1]

/-- The held input that a full queue discards: the latest effective stamp, ties to the later key. -/
def worstHeld (s : State) (n : Nat) : List HeldIn → HeldIn → HeldIn
  | [], x => x
  | h :: t, x => worstHeld s n t (if keyLt (holdKey s n x) (holdKey s n h) then h else x)

/-- A list with the first copy of an element removed. -/
def dropOne {α : Type} [DecidableEq α] (x : α) : List α → List α
  | [] => []
  | y :: t => if y = x then t else y :: dropOne x t

/-- An input enters the hold queue (R274). -/
def holdInput (s : State) (n : Nat) (h : HeldIn) : State :=
  let x := ncOf s n
  if x.hold.length < fld s (NC_HOLD_CAP n) 15 0 then showHold (setNc s n { x with hold := x.hold ++ [h] }) n
  else if x.belay then ncOverrun s n 0
  else
    let worst := worstHeld s n x.hold h
    let hold := if worst = h then x.hold else dropOne worst x.hold ++ [h]
    irq (bump (setNc s n { x with hold := hold }) (NC_HOLD_FULL_CNT n)) (ncPage n) 3

/-- A word whose step has closed, or that comes before the first step (R257, R275). -/
def lateInput (s : State) (n eff : Nat) : State :=
  let x := ncOf s n
  if decide (x.b.getD 0 ≤ eff) && x.drops.any (fun d => decide (d.1 ≤ eff) && decide (eff < d.2)) then bump s (NC_DROP_EV n)
  else bumpPulse s (NC_LATE_CNT n) (ncPage n) 2

/-- An input word in its place: late, of the open step, or held. -/
def placeInput (s : State) (n : Nat) (w : FabWord) : State :=
  let eff := effStamp s n w
  let x := ncOf s n
  if eff < x.b.getD 0 ∨ eff < x.stepStart then lateInput s n eff
  else if eff < stepEnd s n then applyInput n s w
  else holdInput s n { w := w, eff := eff }

/-- NC_WORD_APPLY: the word at the head of a core's input FIFO. -/
def execNcWordApply (n : Nat) (s : State) : Out :=
  match ncIn s n with
  | [] => .next s
  | w :: t =>
    if !ncRuns s n || (isData w && (ncOf s n).b.isNone) then .next s
    else
      let s1 := settle (updNc (setNcIn s n t) n (fun x => { x with known := knowPos x.known w }))
      .next (if isData w then placeInput s1 n w else s1)

/-! ## Dynamics (R260, R262, R263) -/

def inBank (s : State) (n k ch : Nat) : Nat := sramNum s (accAt s n (ncOf s n).bank k ch) 4
def stateAt (s : State) (n k i : Nat) : Nat := ncMem s n (8 * k + 2 * i)

/-- One trace event of the step applied (R262 step 1). -/
def applyTrace (n : Nat) (s : State) (e : TraceEv) : State :=
  match slotClass s n e.slot with
  | none => s
  | some c => ((clsTraces s n c).filter (fun i => b2n i.x == e.ch)).foldl (fun t i =>
      let a := stateAt t n e.slot (i.d % 4)
      sramWrite t a (leBytes 2 (traceUpdate (clsEnv t n c) i e.mult (sramNum t a 2)))) s

/-- A slot's program run and its state written back; whether it fired, and its multiplicity. -/
def runSlot (n : Nat) (s : State) (k c : Nat) : State × Option Nat :=
  let ws := clsProg s n c
  if ws.isEmpty then (s, none)
  else
    let e := clsEnv s n c
    let st := (List.range 4).map (fun i => sramNum s (stateAt s n k i) 2)
    let u := runProg e ws (loadRegs e (fld s (clsCfg n c) 26 22) (ncOf s n).n c st (inBank s n k 0) (inBank s n k 1))
    let out := (List.range 4).map (fun i => storeReg e (ureg u i))
    let s1 := sramWrite s (stateAt s n k 0) (out.flatMap (fun o => leBytes 2 o.1))
    let nn := (out.filter (fun o => decide (o.2 = .nan))).length
    let ns := (out.filter (fun o => decide (o.2 = .sat))).length
    let s2 := if nn = 0 then s1 else bumpN s1 (NC_NAN_CNT n) nn
    let s3 := if ns = 0 then s2 else bumpN s2 (NC_STATE_SAT_CNT n) ns
    let s4 := if u.sat = 0 then s3 else bumpN s3 (NC_SAT_CNT n) u.sat
    ({ s4 with uop := tset uopD s4.uop n u }, if u.f then some u.m else none)

/-- The active slots of a core, in ascending order. -/
def activeSlots (s : State) (n : Nat) : List (Nat × Nat) :=
  (List.range 8192).filterMap (fun k => (slotClass s n k).map (fun c => (k, c)))

/-- A spike of a core into its cluster's fan-out unit (R221, R260). -/
def spike (n stamp : Nat) (s : State) (k m : Nat) : State :=
  pushFan (bump s (NC_SPIKE_CNT n)) (n / 32) { w := spikeWord 0 (8192 * n + k) m, base := stamp, src := 32 + n, ext := 0 }

/-- A WATERMARK of a core behind its spikes. -/
def coreMark (s : State) (n stamp : Nat) (final : Bool) : State :=
  pushFan s (n / 32) { w := markWord 0 (32 + n) final, base := stamp, src := 32 + n, ext := 0 }

/-- The slot that a step opened as the `opened`th samples: the lowest active slot at or above, wrapping (R369). -/
def sampleSlot (s : State) (n opened : Nat) : Option Nat :=
  if flag s APX_CHK_CFG 31 && flag s APX_CHK_CFG 30 && decide (opened % 2 ^ fld s APX_CHK_CFG 4 0 = 0) then
    let act := (activeSlots s n).map (·.1)
    match act.find? (fun k => decide (opened % 8192 ≤ k)) with
    | some k => some k
    | none => act.head?
  else none

/-- The sample of the step that closes is offered (R369, R370). -/
def offerStep (s : State) (n : Nat) : State :=
  let x := ncOf s n
  match x.sample with
  | none => s
  | some k =>
    offer s { neuron := true, setting := leanCur s, unit := n, place := k, seq := x.opened % 4294967296, ft := s.ft
              bytes := 16 + 8 * x.samples.length, final := [word (inBank s n k 0), word (inBank s n k 1)], events := x.samples }

/-- The held inputs that the open step covers are placed. -/
def releaseHeldIn (s : State) (n : Nat) : State :=
  let x := ncOf s n
  let e := stepEnd s n
  let s1 := setNc s n { x with hold := x.hold.filter (fun h => decide (e ≤ h.eff)) }
  showHold ((x.hold.filter (fun h => decide (h.eff < e))).foldl (fun t h => placeInput t n h.w) s1) n

/-- A step of a core closed in a partition (spec/16_hang_recovery.md R498). -/
def progStep (s : State) (n : Nat) : State :=
  match partOf s (n / 32) with
  | some p => bumpWrap s (REC_PROG_STEP p)
  | none => s

/-- The close of the open step, dropped or not: traces, programs, write-back, spikes, WATERMARK, and the step after it (R260,
R262). -/
def closeStep (s : State) (n : Nat) (dropped : Bool) : State :=
  ncRead s n (ncMem s n 0) 0x32000 (fun s =>
    let x := ncOf s n
    let e := stepEnd s n
    let s1 := (sortTrace x.trace).foldl (applyTrace n) s
    let (s2, fired) := (activeSlots s1 n).foldl (fun (a : State × List (Nat × Nat)) kc =>
      let r := runSlot n a.1 kc.1 kc.2
      (r.1, match r.2 with | some m => a.2 ++ [(kc.1, m)] | none => a.2)) (s1, [])
    let s3 := offerStep s2 n
    let s4 := sramWrite s3 (accAt s3 n x.bank 0 0) (List.replicate 0x10000 0)
    let s5 := fired.foldl (fun t f => spike n e t f.1 f.2) s4
    let s6 := coreMark s5 n (e + tsNs s5 n) false
    let s7 := setWide (bump (progStep s6 n) (NC_STEP_CNT n)) (NC_STEP_END_LO n) e
    let s8 := srcEvent s7 evStep n
    let s9 := updNc s8 n (fun y => { y with
      stepStart := e, n := 1, shift := 0, trace := [], bank := 1 - x.bank, opened := x.opened + 1
      drops := if dropped then (x.stepStart, e) :: y.drops else y.drops
      sample := sampleSlot s8 n (x.opened + 1), samples := [], belay := inBelay s8 })
    let s10 := if modeWaits s9 then updPwr s9 (fun p => { p with watch := n :: p.watch }) else s9
    releaseHeldIn (showN s10 n) n)

/-- Whether the open step of a core may close now: it runs, waits at no boundary for a mode change (R29), and its output does not
wait for a full spike FIFO. -/
def mayClose (s : State) (n : Nat) : Bool :=
  ncRuns s n && (ncOf s n).b.isSome && !heldCore_ s n && !outStalled s n

/-- Whether the open step is complete (R259). -/
def stepComplete (s : State) (n : Nat) : Bool :=
  let e := stepEnd s n
  decide (e ≤ s.ft) && decide (e ≤ frontier s n) && (ncIn s n).all (fun w => !isData w || decide (e ≤ effStamp s n w))

/-- NC_STEP_CLOSE: the open step is complete. -/
def execNcStepClose (n now : Nat) (s0 : State) : Out :=
  let s := advance s0 now
  if mayClose s n && stepComplete s n then .next (closeStep s n false) else .next s

/-! ## Overload (R275 to R277) -/

/-- D_s: the due time of the open step. -/
def dueTime (s : State) (n : Nat) : Nat := stepEnd s n + fld s (NC_STEP n) 31 16 * 1000 + (ncOf s n).shift

def rsnStretch : Nat := 1
def rsnDrop : Nat := 2

/-- The log entry of a stretch or a drop (R39, R276): the stretch factor before and after, which of the two it is, and the core, E_s
and the backlog. -/
def stretchLog (s : State) (n old reason backlog : Nat) : State :=
  addLogData s .stretch old (ncOf s n).n reason [n, stepEnd s n, backlog]

/-- The open step stretched to m step lengths. -/
def stretch (s : State) (n m backlog : Nat) : State :=
  let old := (ncOf s n).n
  let s1 := updNc s n (fun x => { x with n := m })
  let s2 := irq (stretchLog (bumpN s1 (NC_STRETCH_CNT n) (m - old)) n old rsnStretch backlog) (ncPage n) 0
  releaseHeldIn (showN s2 n) n

/-- The words that a core has received are placed before a step closes at its due time (R275): of the open step, or held. -/
def takeInputs (s : State) (n : Nat) : State :=
  let q := ncIn s n
  let place (t : State) (w : FabWord) : State :=
    let t1 := updNc t n (fun x => { x with known := knowPos x.known w })
    if isData w then placeInput t1 n w else t1
  settle (q.foldl place (setNcIn s n []))

/-- NC_DUE_TIME: the due time of a step that is not complete. -/
def execNcDueTime (n now : Nat) (s0 : State) : Out :=
  let s := advance s0 now
  let x := ncOf s n
  if !mayClose s n || x.belay || decide (s.ft < dueTime s n) || stepComplete s n then .next s
  else
    let ovr := fld s (NC_STRETCH n) 25 24
    let smax := if ovr = 1 then 1 else fld s (NC_STEP n) 13 12 + 1
    let thresh := fld s (NC_STRETCH n) 23 0 * 16
    let backlog := stepEnd s n - frontier s n
    if ovr = 2 ∧ x.n < smax then .next (stretch s n smax backlog)
    else if thresh < backlog ∧ x.n < smax then .next (stretch s n (x.n + 1) backlog)
    else if thresh < backlog then
      let s1 := irq (stretchLog (bump (takeInputs s n) (NC_DROP_STEPS n)) n x.n rsnDrop backlog) (ncPage n) 1
      .next (closeStep (srcEvent s1 evDrop n) n true)
    else .next (closeStep (takeInputs s n) n false)

/-! ## Microinstructions as commands (R263 to R270) -/

def uopSt (s : State) (n : Nat) : UopSt := tget uopD s.uop n

/-- One microinstruction on a core's program register file, for the class it runs. -/
def uopExec (f : UopEnv → UopF → UopSt → UopSt) (n : Nat) (i : UopF) (s : State) : Out :=
  let u := uopSt s n
  let v := uopTurn f (clsEnv s n u.cls) i u
  let s1 := { s with uop := tset uopD s.uop n { v with sat := 0 } }
  .next (if v.sat = u.sat then s1 else bumpN s1 (NC_SAT_CNT n) (v.sat - u.sat))

def execUopNop (n : Nat) (i : UopF) (s : State) : Out := uopExec uopNop n i s
def execAdd (n : Nat) (i : UopF) (s : State) : Out := uopExec uopAdd n i s
def execSub (n : Nat) (i : UopF) (s : State) : Out := uopExec uopSub n i s
def execMulc (n : Nat) (i : UopF) (s : State) : Out := uopExec uopMulc n i s
def execMac (n : Nat) (i : UopF) (s : State) : Out := uopExec uopMac n i s
def execShr (n : Nat) (i : UopF) (s : State) : Out := uopExec uopShr n i s
def execClamp (n : Nat) (i : UopF) (s : State) : Out := uopExec uopClamp n i s
def execDecay (n : Nat) (i : UopF) (s : State) : Out := uopExec uopDecay n i s
def execCmpth (n : Nat) (i : UopF) (s : State) : Out := uopExec uopCmpth n i s
def execUopReset (n : Nat) (i : UopF) (s : State) : Out := uopExec uopReset n i s
def execRefrac (n : Nat) (i : UopF) (s : State) : Out := uopExec uopRefrac n i s
def execSelect (n : Nat) (i : UopF) (s : State) : Out := uopExec uopSelect n i s
def execSkip (n : Nat) (i : UopF) (s : State) : Out := uopExec uopSkip n i s

/-! ## Enable, disable, reset (R281, R282) -/

/-- The regions of a core in tile SRAM, those of size 0 left out. -/
def ncRegions (s : State) (n : Nat) : List (Nat × Nat) :=
  let b (a : Nat) : Nat := fld s a 21 6 * 64
  let map := if flag s (NC_IN_CFG n) 31 then 2 * 2 ^ fld s (NC_IN_GEOM n) 17 14 * fld s (NC_IN_GEOM n) 31 18 * 4 else 0
  ([(b (NC_MEM_BASE n), 204800), (b (NC_SYN_BASE n), 4 * fld s (NC_SYN_SIZE n) 19 0),
    (b (NC_HOLD_BASE n), 32 * fld s (NC_HOLD_CAP n) 15 0), (b (NC_TRACE_BASE n), 16 * fld s (NC_TRACE_CAP n) 15 0),
    (b (NC_IN_BASE n), map)]).filter (fun r => decide (r.2 ≠ 0))

/-- Whether two regions share a byte. -/
def overlap (a b : Nat × Nat) : Bool := decide (a.1 < b.1 + b.2) && decide (b.1 < a.1 + a.2)

def pairwise : List (Nat × Nat) → Bool
  | [] => true
  | r :: t => t.all (fun x => !overlap r x) && pairwise t

def layoutOk (s : State) (n : Nat) : Bool :=
  (ncRegions s n).all (fun r => decide (r.1 + r.2 ≤ tileSize)) && pairwise (ncRegions s n)

def progOk (s : State) (n : Nat) : Bool :=
  (List.range 16).all (fun c => !clsOn s n c ||
    ((clsProg s n c).all (fun w => decide (uopCode w ≤ 0x0D)) && decide ((clsTraces s n c).length ≤ 2)
      && (clsTraces s n c).all (fun i => decide (i.d < 4))))

/-- The code that refuses a core's enable (R282). -/
def ncRefuse (s : State) (n : Nat) : Option Nat :=
  if !layoutOk s n then some 0x0102 else if !progOk s n then some 0x0103 else none

/-- A core is enabled: banks zeroed, queues empty, its first step to begin at the next cairn (R257, R282). -/
def ncEnable (s : State) (n : Nat) : State :=
  let s1 := sramWrite s (accAt s n 0 0 0) (List.replicate 0x20000 0)
  let s2 := setNc s1 n { arm := true, sample := sampleSlot s1 n 1 }
  let s3 := wrN (wrN s2 (NC_STATUS n) ((activeSlots s2 n).length)) (NC_STEP_CNT n) 0
  showHold (newSource (newDest { s3 with uop := tset uopD s3.uop n {} } (.core n)) (32 + n)) n

/-- A core that a bind or a rejoin enables: dropped with its code where a region or a program is not as R282 has it. -/
def openCore (s : State) (n : Nat) : State :=
  (ncRefuse s n).elim (ncEnable (setFlag s (PAGE_CTRL (ncPage n)) 0 true) n) (fun c => recErr s (ncPage n) c 0)

/-- The words that a core has not taken are discarded (R245). -/
def dropFifo (s : State) (n : Nat) : State :=
  let k := (ncIn s n).foldl (fun m w => m + wordCount w (.core n)) 0
  purge (setNcIn (if k = 0 then s else bumpN s FAB_RESET_DROP_CNT k) n []) (.core n)

/-- A core stops: FINAL on every path of it (R226, R281), its inputs discarded. -/
def ncStop (s : State) (n : Nat) : State :=
  let s1 := if ncEnabled s n then coreMark s n 0 true else s
  showHold (setFld (setNc (dropFifo s1 n) n {}) (NC_STATUS n) 18 16 0) n

/-! ## Registers (R283 to R285) -/

/-- A write of NC_STRETCH: OVR is not static. -/
def ncStretchWrite (s : State) (w : Who) (n : Nat) (v : Word) : State :=
  let a := NC_STRETCH n
  if ncEnabled s n && decide (bits v 23 0 ≠ fld s a 23 0) then wErr (plainWrite s w a (putBits v 23 0 (fld s a 23 0))) w a 0x0101
  else plainWrite s w a v

/-- A write of a register of a neuron core page. -/
def ncWrite (s : State) (w : Who) (n a : Nat) (v : Word) : State :=
  if a = NC_STRETCH n then ncStretchWrite s w n v
  else if (a % 4096 ≤ 0x06C ∨ 0x100 ≤ a % 4096) ∧ ncEnabled s n then wErr s w a 0x0101
  else if a = NC_IN_CFG n ∨ a = NC_IN_GEOM n then
    let s1 := plainWrite s w a v
    if 67108864 < fld s1 (NC_IN_GEOM n) 31 18 * 2 ^ (fld s1 (NC_IN_GEOM n) 17 14 + fld s1 (NC_IN_CFG n) 27 26) then
      wErr s w a errReservedEnc
    else s1
  else plainWrite s w a v

/-- What a register of a neuron core page reads as where it is not held as a word. -/
def ncLive (s : State) (n a : Nat) : Option Nat :=
  if a = NC_STEP_END_LO n then some (wideOf s a % 4294967296)
  else if a = NC_FRONT_LO n then some (if ncEnabled s n then frontier s n % 4294967296 else 0)
  else if a = NC_STATUS n ∧ outStalled s n = true then some (nput (rdN s a) 15 15 1)
  else none

end Sys2Proof.Machine
end

