-- ==== Sys2Proof/Machine/Tensor.lean ====
section
/-!
DEFINITION. Tensors in SRAM: the conversions of spec/09_tensor_tiles.md R294 and R295, the packing of R291, zero compression
(spec/10_convolution.md R342, R343), the reading and the writing of elements, and the counting of conversions.
-/
namespace Sys2Proof.Machine
open Sys2Proof

/-! ## Conversion (R294, R295) -/

/-- A value converted to a format, and what is counted; of a block format, its scaled element (R294). -/
def convTo (f : Nat) (v : FVal) : Nat × Cvt :=
  if f = fSpk then (Config.spkOf (r32 v) % 256, if v = .nan then .nan else .exact)
  else match fmtFloat f with
    | some x => fConvert x v
    | none =>
      if f = fBs8 then (let r := fToInt (-128) 127 v; (twos 8 r.1, r.2))
      else (let r := fToInt (fmtLo f) (fmtHi f) v; (twos (fmtBits f) r.1, r.2))

/-- floor(log2) of a finite magnitude that is not 0. -/
def fLog2 : FVal → Int
  | .fin _ m e => (Nat.log2 m : Nat) + e
  | _ => 0

/-- The exponent of a block (R295). -/
def blockExp (f : Nat) (vs : List FVal) : Int :=
  let m := vs.foldl (fun m v => if v = .nan then m else fMax m (fAbs v)) fZero
  match m with
  | .inf _ => 127
  | _ => if fIsZero m then 0 else clampI (-128) 127 (fLog2 m - (if f = fBs8 then 6 else 2))

/-- Conversions counted in a tile's page (R294). -/
def countCvt (t : Nat) (s : State) (c : Cvt) : State :=
  match c with
  | .exact => s
  | .sat => bumpPulse s (TT_CVT_SAT_CNT t) (tilePage t) 4
  | .nan => bumpPulse s (TT_NAN_CNT t) (tilePage t) 3

def countCvts (t : Nat) (s : State) (cs : List Cvt) : State := cs.foldl (countCvt t) s

/-! ## Packing (R291, R330) -/

/-- n rounded up to a multiple of k. -/
def upTo (k n : Nat) : Nat := (n + k - 1) / k * k

/-- The bytes of a row of n elements. -/
def rowBytes (f n : Nat) : Nat := if fmtBits f = 6 then 3 * ((n + 3) / 4) else (n * fmtBits f + 7) / 8

/-- The bytes that hold element i of a row that starts at a byte: their place and how many. -/
def elemSpan (f base i : Nat) : Nat × Nat :=
  if fmtBits f = 6 then (base + 3 * (i / 4), 3) else (base + i * fmtBits f / 8, (fmtBits f + 7) / 8)

/-- The code of element i of a row in SRAM that starts at a byte. -/
def rowCode (s : State) (f base i : Nat) : Nat :=
  let b := fmtBits f
  let (a, n) := elemSpan f base i
  let sh := if b = 6 then 6 * (i % 4) else i * b % 8
  sramNum s a n / 2 ^ sh % 2 ^ b

/-- The bytes of a row of codes, the last byte or group filled with zero bits. -/
def packRow (f : Nat) (cs : List Nat) : List Byte :=
  leBytes (rowBytes f cs.length) (cs.foldr (fun c n => n * 2 ^ fmtBits f + c % 2 ^ fmtBits f) 0)

/-! ## Planar tensors (R292, R330) -/

/-- A tensor in tile SRAM: format, base (a place in the SRAM aperture), channels, lines, columns. -/
structure Tens where
  f : Nat
  base : Nat
  c : Nat
  r : Nat
  x : Nat
  deriving DecidableEq, Repr

/-- The channels that a tensor stores. -/
def Tens.chans (t : Tens) : Nat := if isBlock t.f then upTo 32 t.c else t.c

/-- The bytes of the elements, and the place of the scales. -/
def Tens.elemBytes (t : Tens) : Nat := t.chans * t.r * rowBytes t.f t.x
def Tens.scaleOff (t : Tens) : Nat := upTo 64 t.elemBytes

/-- The bytes of a tensor. -/
def Tens.size (t : Tens) : Nat := if isBlock t.f then t.scaleOff + t.chans / 32 * t.r * t.x else t.elemBytes

/-- The first byte of row (c, r), and the place of the scale of element (c, r, x). -/
def Tens.row (t : Tens) (c r : Nat) : Nat := t.base + (c * t.r + r) * rowBytes t.f t.x
def Tens.scaleAt (t : Tens) (c r x : Nat) : Nat := t.base + t.scaleOff + (c / 32 * t.r + r) * t.x + x

/-- Element (c, r, x) as it is stored: its code, and the exponent of its block. -/
def Tens.elem (t : Tens) (s : State) (c r x : Nat) : Nat × Int :=
  (rowCode s t.f (t.row c r) x, if isBlock t.f then sx 8 (sramNum s (t.scaleAt c r x) 1) else 0)

/-- The value of element (c, r, x). -/
def Tens.val (t : Tens) (s : State) (c r x : Nat) : FVal :=
  elemVal t.f (t.elem s c r x)

/-- The bytes that a read of element (c, r, x) takes. -/
def Tens.spans (t : Tens) (c r x : Nat) : List (Nat × Nat) :=
  elemSpan t.f (t.row c r) x :: (if isBlock t.f then [(t.scaleAt c r x, 1)] else [])

/-- The codes of a row of values converted, with what they count. -/
def rowConv (f : Nat) (vs : List FVal) : List Nat × List Cvt := (vs.map (convTo f)).unzip

/-- The scaled elements and the exponent of a block of values at one position. -/
def blockConv (f : Nat) (vs : List FVal) : List Nat × List Cvt × Nat :=
  let e := blockExp f vs
  let p := (vs.map (fun v => convTo f (fScale v (-e)))).unzip
  (p.1, p.2, twos 8 e)

/-- A tensor's values written, converted: `v c r x` are they. Rows go in ascending channel and line; what the conversions
count is counted in the tile's page. -/
def Tens.store (t : Tens) (tile : Nat) (v : Nat → Nat → Nat → FVal) (s : State) : State :=
  if isBlock t.f then
    (List.range (t.chans / 32)).foldl (fun s g =>
      (List.range t.r).foldl (fun s r =>
        let cols := (List.range t.x).map (fun x =>
          blockConv t.f ((List.range 32).map (fun j => if 32 * g + j < t.c then v (32 * g + j) r x else fZero)))
        let s1 := (List.range 32).foldl (fun s j =>
          sramWrite s (t.row (32 * g + j) r) (packRow t.f (cols.map (fun k => at0 k.1 j)))) s
        let s2 := sramWrite s1 (t.scaleAt (32 * g) r 0) (cols.flatMap (fun k => leBytes 1 k.2.2))
        cols.foldl (fun s k => countCvts tile s k.2.1) s2) s) s
  else
    (List.range t.c).foldl (fun s c =>
      (List.range t.r).foldl (fun s r =>
        let p := rowConv t.f ((List.range t.x).map (v c r))
        countCvts tile (sramWrite s (t.row c r) (packRow t.f p.1)) p.2) s) s

/-! ## Zero compression (R342, R343) -/

/-- Whether a format may be compressed. -/
def compOk (f : Nat) : Bool := [0x04, 0x05, 0x06, 0x0B, 0x0C, 0x0D, 0x0E, 0x12].contains f

/-- The bytes of an element of a compressed map. -/
def compBytes (f : Nat) : Nat := fmtBits f / 8

/-- Whether a code is of a zero. -/
def codeZero (f n : Nat) : Bool := fIsZero (codeVal f n)

/-- The place of the row data in a compressed tensor: the table rounded up to 64 bytes. -/
def compData (c r : Nat) : Nat := upTo 64 (4 * c * r)

/-- The largest size of a compressed tensor. -/
def compMax (f c r x : Nat) : Nat := compData c r + c * r * ((x + 31) / 32 * (4 + 32 * compBytes f))

/-- The ones among the low k bits of a number. -/
def onesIn (n : Nat) : Nat → Nat
  | 0 => 0
  | k + 1 => onesIn n k + b2n (nbit n k)

/-- The bytes of a block with a mask. -/
def blockLen (f mask : Nat) : Nat := 4 + upTo 4 (onesIn mask 32 * compBytes f)

/-- The place of block j of a compressed row. -/
def compBlock (s : State) (f base : Nat) : Nat → Nat
  | 0 => base
  | j + 1 => let a := compBlock s f base j; a + blockLen f (sramNum s a 4)

/-- The code of element x of a compressed row. -/
def compCode (s : State) (f base x : Nat) : Nat :=
  let a := compBlock s f base (x / 32)
  let m := sramNum s a 4
  if nbit m (x % 32) then sramNum s (a + 4 + compBytes f * onesIn m (x % 32)) (compBytes f) else 0

/-- The start of row (c, r) of a compressed tensor. -/
def compRow (s : State) (t : Tens) (c r : Nat) : Nat :=
  t.base + nbits (sramNum s (t.base + 4 * (c * t.r + r)) 4) 21 0

/-- The end of row (c, r) of a compressed tensor. -/
def compEnd (s : State) (t : Tens) (c r : Nat) : Nat := compBlock s t.f (compRow s t c r) ((t.x + 31) / 32)

/-- One block of codes compressed. -/
def compBlockBytes (f : Nat) (cs : List Nat) : List Byte :=
  let ns := cs.map (fun c => !codeZero f c)
  let mask := ns.foldr (fun b n => n * 2 + b2n b) 0
  let vals := (cs.filter (fun c => !codeZero f c)).flatMap (leBytes (compBytes f))
  leBytes 4 mask ++ vals ++ List.replicate (upTo 4 vals.length - vals.length) 0

/-- A row of codes compressed, block by block. -/
def compRowBytes (f : Nat) : Nat → List Nat → List Byte
  | 0, _ => []
  | n + 1, cs => compBlockBytes f (cs.take 32) ++ compRowBytes f n (cs.drop 32)

/-- A tensor's values written zero-compressed, lines ascending and channels ascending within a line; the bytes written,
table included (R344). -/
def Tens.storeComp (t : Tens) (tile : Nat) (v : Nat → Nat → Nat → FVal) (s : State) : State × Nat :=
  let (s1, off) := (List.range t.r).foldl (fun (a : State × Nat) r =>
    (List.range t.c).foldl (fun (a : State × Nat) c =>
      let p := rowConv t.f ((List.range t.x).map (v c r))
      let bs := compRowBytes t.f ((t.x + 31) / 32) p.1
      let s1 := sramWrite a.1 (t.base + a.2) bs
      let s2 := sramWrite s1 (t.base + 4 * (c * t.r + r)) (leBytes 4 a.2)
      (countCvts tile s2 p.2, a.2 + bs.length)) a) (s, compData t.c t.r)
  (s1, off - compData t.c t.r + 4 * t.c * t.r)

end Sys2Proof.Machine
end

