-- ==== Sys2Proof/Machine/Tile.lean ====
section
/-!
DEFINITION. The command queues of a tile: feeding, starting and completing commands (spec/09_tensor_tiles.md R286, R287, R318,
R320, spec/10_convolution.md R349, R352), and the reads of SRAM with their errors (R308).
-/
namespace Sys2Proof.Machine
open Sys2Proof

/-! ## Statuses (spec/14_host_interface.md R445) -/

def stReserved : Nat := 0x0100
def stAncFault : Nat := 0x0103
def stMemRange : Nat := 0x0105
def stMemUe : Nat := 0x0106
def stZeroDim : Nat := 0x0200
def stFmtPair : Nat := 0x0201
def stGeometry : Nat := 0x0202
def stSramRange : Nat := 0x0203
def stSramUe : Nat := 0x0204
def stOverlap : Nat := 0x0205
def stHaloStale : Nat := 0x0206

/-! ## Queues -/

def updTile (s : State) (t : Nat) (f : TileSt → TileSt) : State := setTile s t (f (tileOf s t))

/-- Queue q of a tile: 0 tensor, 1 vector, 2 stash. -/
def queueOf (x : TileSt) : Nat → QueueSt
  | 0 => x.tq
  | 1 => x.vq
  | _ => x.sq

def updQueue (s : State) (t q : Nat) (f : QueueSt → QueueSt) : State :=
  updTile s t (fun x => match q with
    | 0 => { x with tq := f x.tq }
    | 1 => { x with vq := f x.vq }
    | _ => { x with sq := f x.sq })

/-- Whether a tile's engines run: the tile is READY, no core clock pause is in hand (R30, R324), and its SRAM is not being verified
after retention (R310; log entry 158). -/
def tileRuns (s : State) (t : Nat) : Bool :=
  decide (unitState s (tilePage t) = stReady) && s.pwr.pause.isNone && !inBivouac s && (tileOf s t).crcs.isEmpty

/-- The words of a command that is a window command. -/
def winWords : TileWork → Option (List Nat)
  | .window ws => some ws
  | _ => none

/-- The core clock cycles in a number of ns. -/
def ccyOf (s : State) (ns : Nat) : Nat := ns * modeMHz (mode s) / 1000

/-- A head that waits on an anchor has waited since now. -/
def noteHead (s : State) (t q : Nat) : State :=
  updQueue s t q (fun x =>
    let x := { x with head := if x.cmds.isEmpty then none else some (x.head.getD s.ft) }
    if x.started || x.cmds.isEmpty then { x with since := none }
    else if x.since.isNone && !(queueWaits x).all (waitDone s) then { x with since := some s.ft } else x)

/-- The ccy in which some head waited, counted once however many waited (TT_ANC_WAIT_CCY): a head whose wait ends counts
what no other waiting head will count. -/
def countWait (s : State) (t q : Nat) : State :=
  match (queueOf (tileOf s t) q).since with
  | none => s
  | some a =>
    let others := ([0, 1, 2].filter (fun k => k != q)).filterMap (fun k => (queueOf (tileOf s t) k).since)
    let n := others.foldl min s.ft - a
    let s1 := bumpN s (TT_ANC_WAIT_CCY t) (ccyOf s n)
    match (queueOf (tileOf s t) q).cmds.head?.bind (fun c => winWords c.work) with
    | some ws => if at0 ws 16 / 4096 ≠ 0 then bumpN s1 (WW_HALO_WAIT_CCY t) (ccyOf s (s.ft - a)) else s1
    | none => s1

/-- The status of a head decided. -/
def setTileStatus (s : State) (t q st : Nat) : State :=
  updQueue s t q (fun x => { x with started := true, status := some st })

/-- A command enters a queue that is not full (R286). -/
def feedCmd (s : State) (t q : Nat) (c : TileCmd) : State :=
  if (queueOf (tileOf s t) q).cmds.length < 32 ∧ !isAwaiting s t ∧ !(tileOf s t).asleep then
    noteHead (bump (accept (updQueue s t q (fun x => { x with cmds := x.cmds ++ [c] })) (.tile t q (cmdNum c))) (CC_CMD_CNT (t / 8))) t q
  else s

/-! ## Kernels larger than 7 × 7 (spec/10_convolution.md R337) -/

/-- The pieces of an axis of n taps: first tap and taps of each; 7 from tap 0 on, the last what remains. -/
def tapPieces (n : Nat) : List (Nat × Nat) := (List.range ((n + 6) / 7)).map (fun i => (7 * i, min 7 (n - 7 * i)))

/-- Pass i of n of a convolution, over one piece of each axis: its words are the layer's, with the pass, ACC_IN and ACC_OUT set. The
first pass has the waits and the last one the signal, and the passes are numbered from the layer's number on (log entry 161). -/
def passWords (ws : List Nat) (n i : Nat) (y x : Nat × Nat) : List Nat :=
  let w0 := at0 ws 0 - nbits (at0 ws 0) 6 5 * 32 + b2n (decide (0 < i)) * 64 + b2n (decide (i + 1 < n)) * 32
  let w6 := y.1 * 67108864 + x.1 * 1048576 + y.2 * 131072 + x.2 * 16384
  (List.range 32).map (fun j =>
    if j = 0 then w0
    else if j = 6 then w6
    else if 20 ≤ j ∧ j < 28 ∧ 0 < i then 0
    else if j = 28 ∧ i + 1 < n then 0
    else if j = 30 then (at0 ws 30 + i) % 4294967296
    else at0 ws j)

/-- The passes of a convolution layer, in row-major order of the pieces. -/
def binderPasses (c : TileCmd) : List TileCmd :=
  match c.work with
  | .window ws =>
    let ps := (tapPieces (nbits (at0 ws 3) 31 26)).flatMap (fun y => (tapPieces (nbits (at0 ws 3) 25 20)).map (fun x => (y, x)))
    if ps.isEmpty then [c] else ps.zipIdx.map (fun e => { c with work := .window (passWords ws ps.length e.2 e.1.1 e.1.2) })
  | _ => [c]

/-- The passes that the binder has still to queue enter the tensor queue while it has room, in their order. -/
def feedSplit (s : State) (t : Nat) : List TileCmd → State
  | [] => updTile s t (fun x => { x with split := [] })
  | c :: l => if (tileOf s t).tq.cmds.length < 32 then feedSplit (feedCmd s t 0 c) t l else updTile s t (fun x => { x with split := c :: l })

/-- The binder queues a command: a convolution layer as its passes, with nothing between them; while passes wait for room it queues
nothing else on the tensor queue. -/
def feedWork (s : State) (t q : Nat) (layer : Bool) (c : TileCmd) : State :=
  if q = 0 && !(tileOf s t).split.isEmpty then s
  else if q = 0 && layer && !isAwaiting s t && !(tileOf s t).asleep then feedSplit s t (binderPasses c)
  else feedCmd s t q c

/-- A head whose waits are satisfied starts; one released by FAULT, or that waits on a FREE anchor, is decided without
running (R287, R318). -/
def startHead (s : State) (t q : Nat) : State :=
  let x := queueOf (tileOf s t) q
  match x.cmds with
  | [] => s
  | c :: _ =>
    if x.started || !(queueWaits x).all (waitDone s) then noteHead s t q
    else
      let s1 := updQueue (countWait s t q) t q (fun x => { x with started := true, since := none })
      let s2 := match c.work with | .window _ => wrN s1 (WW_LAST_OUT t) 0 | _ => s1
      if releasedBad s x.met (queueWaits x) then setTileStatus s2 t q stAncFault else s2

/-- TILE_CMD_START: the cluster controller may queue a command, or the passes of a whole convolution layer (`layer`), and the head of
the queue starts if it can. -/
def execTileCmdStart (t q : Nat) (feed : Option TileCmd) (layer : Bool) (now : Nat) (s0 : State) : Out :=
  let s := advance s0 now
  if !tileRuns s t then .next s
  else
    let s1 := if q = 0 then feedSplit s t (tileOf s t).split else s
    let s2 := match feed with | some c => feedWork s1 t q layer c | none => s1
    .next (startHead s2 t q)

/-- The started head of a queue whose status is still open. -/
def openHead (s : State) (t q : Nat) : Option TileCmd :=
  let x := queueOf (tileOf s t) q
  if tileRuns s t && x.started && x.status.isNone then x.cmds.head? else none

/-! ## Completion -/

/-- A tile command completed in a partition (R498). -/
def progCmd (s : State) (t : Nat) : State :=
  match partOf s (t / 8) with
  | some p => bumpWrap s (REC_PROG_CMD p)
  | none => s

/-- The signal of a command, or FAULT on its anchor (R287, R320). A stash transfer whose signal comes after its consumer
began to wait is counted (R428). -/
def signalCmd (s : State) (t q : Nat) (c : TileCmd) (st : Nat) : State :=
  match cmdSig c with
  | none => s
  | some (a, inc) =>
    if st = okSt ∨ st = emptySt then
      let s1 := if q = 2 && waiters s a != 0 then bump s (CC_STASH_LATE_CNT (t / 8)) else s
      sigAdd s1 (unitSig s c.job a) a inc
    else sigFault s (unitSig s c.job a) a

/-- What the window walker's registers show of a window command that completed (R352). -/
def windowDone (s : State) (t st : Nat) : State :=
  let s1 := wrN s (WW_LAST_STATUS t) st
  if st = emptySt then bump s1 (WW_EMPTY_CNT t)
  else if st = stZeroDim then bump s1 (WW_ZERO_DIM_CNT t)
  else if st = stGeometry then bump s1 (WW_GEOM_ERR_CNT t)
  else if st = stHaloStale then bump s1 (WW_HALO_STALE_CNT t)
  else s1

/-- The completion of a command with a status, beside its place in a queue. -/
def finishCmd (s : State) (t q : Nat) (c : TileCmd) (st : Nat) : State :=
  let s := unaccept s (.tile t q (cmdNum c))
  let s1 := match c.work with | .window _ => windowDone s t st | _ => s
  let s2 := match c.work with | .stash _ => bump s1 (TT_STASH_XFER_CNT t) | _ => s1
  signalCmd (progCmd (bump s2 (TT_CMD_CNT t)) t) t q c st

/-- The head of a queue leaves it. -/
def popHead (s : State) (t q : Nat) : State :=
  noteHead (updQueue s t q (fun x => { cmds := x.cmds.tail })) t q

/-- The page of a unit: tile t at t, neuron core n at 128 + n, cluster controller c at 640 + c. -/
def unitPageOf (u : Nat) : Nat := if u < 128 then tilePage u else if u < 640 then ncPage (u - 128) else ccPage (u - 640)

/-- A reply that a unit sends to a request from before its reset is dropped and counted, and the signal that goes with it is stale
(spec/16_hang_recovery.md R493). -/
def lateReply (s : State) (u kind : Nat) : State :=
  match s.ladder.ghosts.find? (fun g => g.unit == u && g.kind == kind) with
  | none => s
  | some g =>
    let s1 := { s with ladder := { s.ladder with ghosts := s.ladder.ghosts.erase g } }
    if g.gen = pageGen s (unitPageOf u) then s1
    else
      let s2 := bumpPulse s1 REC_STALE_CNT 0x800000 5
      match g.sig with
      | some a => irq (ancCount s2 0 ANC_STALE_CNT a) 0x4000 2
      | none => s2

/-- TILE_CMD_COMPLETE: the head of a queue, its status decided, completes. Stash transfers complete in issue order (R313). `late`: the
completion is one that the tile sends for a command from before its reset. -/
def execTileCmdComplete (t q : Nat) (late : Bool) (now : Nat) (s0 : State) : Out :=
  let s := advance s0 now
  let x := queueOf (tileOf s t) q
  if late then .next (lateReply s t q) else
  match x.cmds, x.status with
  | c :: _, some st =>
    if tileRuns s t && (q != 2 || (tileOf s t).flight.isEmpty) then .next (popHead (finishCmd s t q c st) t q) else .next s
  | _, _ => .next s

/-! ## Reads of SRAM (R308) -/

/-- The first span with an uncorrectable word. -/
def badSpan (s : State) (l : List (Nat × Nat)) : Option (Nat × Nat) := l.find? (fun e => sramBad s e.1 e.2)

/-- An engine reads spans: an uncorrectable word ends the command with ERR_SRAM_UE and nothing written; else it goes on. -/
def withReads (s : State) (t q : Nat) (l : List (Nat × Nat)) (k : State → State) : State :=
  match badSpan s l with
  | some e => setTileStatus (sramUe s (firstBad s.poison e.1 e.2)) t q stSramUe
  | none => k (correct s l)

/-- A timing counter takes a number that depends on arbitration: a free value (log entry 3). -/
def bumpFree (s : State) (a : Nat) : State := let (n, s1) := drawNat s; bumpN s1 a n

/-- The same with a bound that the spec gives. -/
def bumpFreeTo (s : State) (a n : Nat) : State := let (k, s1) := drawNat s; bumpN s1 a (k % (n + 1))

/-! ## What a reset does to a tile (R325) -/

/-- The queues are emptied, the accumulators and weight sets are cleared; SRAM is kept. -/
def tileClear (s : State) (t : Nat) : State :=
  let s1 := { s with accepted := s.accepted.filter (fun r => match r with | .tile u _ _ => u != t | _ => true) }
  updTile s1 t (fun x => { crcs := x.crcs, asleep := x.asleep, bank := 0 })

/-! ## Registers (R326, R352) -/

/-- The anchors that the heads of a tile await. -/
def headWaits (s : State) (t : Nat) : Nat := ((tileWaits (tileOf s t)).filter (fun w => !waitDone s w)).length

/-- The words of a queue's head window command. -/
def headWords (x : QueueSt) : Option (List Nat) := x.cmds.head?.bind (fun c => winWords c.work)

/-- Whether any queue of a tile holds a command. -/
def tileBusy (s : State) (t : Nat) : Bool :=
  let x := tileOf s t
  !x.tq.cmds.isEmpty || !x.vq.cmds.isEmpty || !x.sq.cmds.isEmpty || !x.flight.isEmpty

/-- WW_POS: while a convolution runs, the output position of its wave at this moment, an open value below the stripe's 65,536 rows and
columns; else 0 (R352; log entry 162). -/
def wavePos (s : State) (t : Nat) : Nat :=
  let q := (tileOf s t).tq
  match headWords q with
  | some _ => if q.started && q.status.isNone then (Config.openInt 8 [(t : Int), (s.ft : Int)]).toNat % 4294967296 else 0
  | none => 0

/-- What a computed register of a tile page reads as. -/
def tileLive (s : State) (t a : Nat) : Option Nat :=
  let x := tileOf s t
  let depth (q : QueueSt) : Nat := q.cmds.length
  if a = TT_STATUS t then
    some (b2n (!x.tq.cmds.isEmpty) * 0x8000 + b2n (!x.vq.cmds.isEmpty) * 0x4000
      + b2n (!x.sq.cmds.isEmpty || !x.flight.isEmpty) * 0x2000 + x.flight.length * 0x100 + min 12 (headWaits s t))
  else if a = TT_QUEUE t then some (depth x.tq * 0x10000 + depth x.vq * 0x100 + depth x.sq)
  else if a = TT_WAVE_LO t then some (wideOf s a % 4294967296)
  else if a = WW_POS t then some (wavePos s t)
  else if a = WW_STATUS t then
    match headWords x.tq with
    | some ws =>
      let w := at0 ws 0
      let halo := !x.tq.started && x.tq.since.isSome && decide (at0 ws 16 / 4096 ≠ 0)
      some (nbits w 31 24 * 256 + b2n halo * 128 + nbits w 8 8 * 64 + nbits w 6 6 + 2 * nbits w 5 5)
    | none => some 0
  else if WW_HEAD t 0 ≤ a ∧ a < WW_HEAD t 32 then some (at0 ((headWords x.tq).getD []) ((a - WW_HEAD t 0) / 4))
  else if WW_VHEAD t 0 ≤ a ∧ a < WW_VHEAD t 32 then some (at0 ((headWords x.vq).getD []) ((a - WW_VHEAD t 0) / 4))
  else none

end Sys2Proof.Machine
end

