-- ==== Sys2Proof/Machine/Conv.lean ====
section
/-!
DEFINITION. Window commands: their words, their checks, the addressing of the window walker, convolution, pooling and
up-sampling (spec/10_convolution.md R328 to R348, spec/09_tensor_tiles.md R296 to R301).
-/
namespace Sys2Proof.Machine
open Sys2Proof

/-! ## The words (R328, R329) -/

/-- A window command's fields. -/
structure Win where
  op : Nat
  a : Nat
  w : Nat
  o : Nat
  aComp : Bool
  oComp : Bool
  accIn : Bool
  accOut : Bool
  act : Nat
  cols : Bool
  excl : Bool
  cin : Nat
  cout : Nat
  hin : Nat
  win : Nat
  kh : Nat
  kw : Nat
  sh : Nat
  sw : Nat
  dh : Nat
  dw : Nat
  pt : Nat
  pb : Nat
  pl : Nat
  pr : Nat
  pad : Nat
  groups : Nat
  py : Nat
  px : Nat
  ph : Nat
  pw : Nat
  o0 : Nat
  on : Nat
  i0 : Nat
  nloc : Nat
  aBase : Nat
  wBase : Nat
  oBase : Nat
  pBase : Nat
  shift : Nat
  qp : Nat
  zp : Int
  hlo : Nat
  hhi : Nat
  loBase : Nat
  hiBase : Nat
  hseq : Nat
  deriving DecidableEq, Repr

def winCmd (ws : List Nat) : Win :=
  let b (i hi lo : Nat) := nbits (at0 ws i) hi lo
  let fl (i k : Nat) := nbit (at0 ws i) k
  { op := b 0 31 24, a := b 0 23 19, w := b 0 18 14, o := b 0 13 9, aComp := fl 0 8, oComp := fl 0 7, accIn := fl 0 6
    accOut := fl 0 5, act := b 0 4 3, cols := fl 0 2, excl := fl 0 1, cin := b 1 31 16, cout := b 1 15 0
    hin := b 2 31 16, win := b 2 15 0, kh := b 3 31 26, kw := b 3 25 20, sh := b 3 19 16, sw := b 3 15 12, dh := b 3 11 8
    dw := b 3 7 4, pt := b 4 31 28, pb := b 4 27 24, pl := b 4 23 20, pr := b 4 19 16, pad := b 4 15 0
    groups := b 5 31 16, py := b 6 31 26, px := b 6 25 20, ph := b 6 19 17, pw := b 6 16 14, o0 := b 7 31 16, on := b 7 15 0
    i0 := b 8 31 16, nloc := b 8 15 0, aBase := b 9 21 0, wBase := b 10 21 0, oBase := b 11 21 0, pBase := b 12 21 0
    shift := b 13 31 26, qp := b 13 21 0, zp := sx 16 (b 14 31 16), hlo := b 16 31 22, hhi := b 16 21 12
    loBase := b 17 21 0, hiBase := b 18 21 0, hseq := at0 ws 19 }

def opConv : Nat := 0x01
def opPoolMax : Nat := 0x02
def opPoolAvg : Nat := 0x03
def opUpNearest : Nat := 0x04
def opUpBilinear : Nat := 0x05

def Win.isPool (k : Win) : Bool := k.op == opPoolMax || k.op == opPoolAvg
def Win.isUp (k : Win) : Bool := k.op == opUpNearest || k.op == opUpBilinear

/-- The reserved bits of the words, by word. -/
def winReserved : List (Nat × Nat × Nat) :=
  [(0, 0, 0), (3, 3, 0), (5, 15, 0), (6, 13, 0), (9, 31, 22), (9, 5, 0), (10, 31, 22), (10, 5, 0), (11, 31, 22), (11, 5, 0),
   (12, 31, 22), (12, 5, 0), (13, 25, 22), (13, 5, 0), (14, 15, 0), (15, 31, 0), (16, 11, 0), (17, 31, 22), (17, 5, 0),
   (18, 31, 22), (18, 5, 0), (20, 30, 30), (22, 30, 30), (24, 30, 30), (26, 30, 30), (28, 30, 30), (29, 15, 0), (31, 31, 0)]

/-- The bits of PAD_VAL that a format reads (R332). -/
def padBits (f : Nat) : Nat := if isBlock f then 0 else if f = fSpk then 3 else min 16 (fmtBits f)

/-- Whether no reserved bit is set and every field holds a code that it allows (R332, R334); INT2 in a field of anything but weights is
no code that it allows (spec/09_tensor_tiles.md R289; log entry 156). -/
def Win.codesOk (k : Win) (ws : List Nat) : Bool :=
  winReserved.all (fun r => nbits (at0 ws r.1) r.2.1 r.2.2 == 0)
    && (if k.op = opConv then fmtOk k.a else dataFmt k.a) && dataFmt k.o && (if k.op = opConv then fmtOk k.w else decide (k.w ≤ 0x12))
    && decide (k.sh ≤ 8) && decide (k.sw ≤ 8) && decide (k.dh ≤ 8) && decide (k.dw ≤ 8) && decide (k.py ≤ 62) && decide (k.px ≤ 62)
    && decide (k.pad / 2 ^ padBits k.a = 0)
    && (!nbit (at0 ws 28) 31 || decide (nbits (at0 ws 28) 15 0 ≠ 0))

/-! ## Operand pairs (R296) -/

/-- K per wave of a pair; none where the pair is not accepted. -/
def pairK (a w : Nat) : Option Nat :=
  if (a = 0x04 ∨ a = 0x05 ∨ a = 0x12) ∧ (w = 0x04 ∨ w = 0x05) then some 32
  else if (a = 0x04 ∨ a = 0x05) ∧ w = 0x01 then some 64
  else if (a = 0x02 ∨ a = 0x03) ∧ (w = 0x02 ∨ w = 0x03) then some 64
  else if a = 0x06 ∧ w = 0x06 then some 16
  else if (a = 0x0B ∨ a = 0x0C) ∧ (w = 0x0B ∨ w = 0x0C) then some 32
  else if (a = 0x09 ∨ a = 0x0A) ∧ (w = 0x09 ∨ w = 0x0A) then some 32
  else if a = 0x08 ∧ w = 0x08 then some 64
  else if a = 0x0D ∧ w = 0x0D then some 16
  else if a = 0x0E ∧ w = 0x0E then some 16
  else if a = fBs8 ∧ w = fBs8 then some 32
  else if a = fBs4 ∧ w = fBs4 then some 64
  else none

/-- The format of the accumulators of a pair. -/
def accFmt (a : Nat) : Nat := if intPair a then fInt32 else fFp32

/-! ## Geometry (R333, R334, R345) -/

def outAxis (i k s d lo hi : Nat) : Int :=
  fdiv ((i : Int) + lo + hi - d * ((k : Int) - 1) - 1) s + 1

def Win.oh (k : Win) : Int :=
  if k.isUp then ((k.hin * k.sh : Nat) : Int) else outAxis k.hin k.kh k.sh k.dh k.pt k.pb
def Win.ow (k : Win) : Int :=
  if k.isUp then ((k.win * k.sw : Nat) : Int) else outAxis k.win k.kw k.sw k.dw k.pl k.pr

/-- combination_ok of R334. -/
def Win.combOk (k : Win) : Bool :=
  decide (k.cin % k.groups = 0) && decide (k.cout % k.groups = 0) && decide (k.py + k.ph ≤ k.kh) && decide (k.px + k.pw ≤ k.kw)
    && (k.op == opConv || (decide (k.cin = k.cout) && decide (k.groups = 1) && decide (k.w = 0) && !k.accIn && !k.accOut))
    && (!k.isPool || (decide (k.kh = k.kw) && (k.kh == 2 || k.kh == 3) && decide (k.dh = 1) && decide (k.dw = 1)))
    && (!k.isUp || (decide (k.kh = 1) && decide (k.kw = 1) && decide (k.dh = 1) && decide (k.dw = 1)
        && decide (k.pt + k.pb + k.pl + k.pr = 0) && !(k.sh == 1 && k.sw == 1)))
    && (!k.accOut || k.o == accFmt k.a) && !(k.act == 2 && isInt k.o)
    && (!k.aComp || compOk k.a) && (!k.oComp || (compOk k.o && !k.accOut))
    && (!k.aComp || decide (k.hlo + k.hhi = 0)) && (!k.excl || k.op == opPoolAvg)

/-- The first and the last line that the command reads along its stripe axis, clipped to the image (R345). -/
def Win.readLo (k : Win) : Int :=
  let (s, p, y, d) := if k.cols then (k.sw, k.pl, k.px, k.dw) else (k.sh, k.pt, k.py, k.dh)
  if k.isUp then max 0 ((k.o0 / s : Nat) - (if k.op = opUpBilinear then 1 else 0))
  else max 0 ((k.o0 : Int) * s - p + y * d)
def Win.readHi (k : Win) : Int :=
  let (s, p, y, d, i) := if k.cols then (k.sw, k.pl, k.px + k.pw - 1, k.dw, k.win) else (k.sh, k.pt, k.py + k.ph - 1, k.dh, k.hin)
  if k.isUp then min (i - 1) (((k.o0 + k.on - 1) / s : Nat) + (if k.op = opUpBilinear then 1 else 0))
  else min ((i : Int) - 1) (((k.o0 + k.on - 1 : Nat) : Int) * s - p + y * d)

/-- Whether every line that is read is own or halo (R345). -/
def Win.covered (k : Win) : Bool :=
  decide ((k.i0 : Int) - k.hlo ≤ k.readLo) && decide (k.readHi < (k.i0 : Int) + k.nloc + k.hhi)

/-! ## The tensors of a command (R330, R331, R335) -/

/-- The own lines, at a tile's place in SRAM. -/
def Win.own (k : Win) (at0 : Nat) : Tens :=
  if k.cols then { f := k.a, base := at0 + k.aBase, c := k.cin, r := k.hin, x := k.nloc }
  else { f := k.a, base := at0 + k.aBase, c := k.cin, r := k.nloc, x := k.win }

/-- The halo tensor of n lines, at the base of its slot. -/
def Win.halo (k : Win) (n base : Nat) : Tens :=
  if k.cols then { f := k.a, base := base + 64, c := k.cin, r := k.hin, x := n }
  else { f := k.a, base := base + 64, c := k.cin, r := n, x := k.win }

/-- The bytes of a halo slot of n lines. -/
def Win.slotSize (k : Win) (n : Nat) : Nat := upTo 64 (64 + (k.halo n 0).size)

/-- The bases of the halo slots in use. -/
def Win.loSlot (k : Win) (at0 : Nat) : Nat := at0 + k.loBase + k.hseq % 2 * k.slotSize k.hlo
def Win.hiSlot (k : Win) (at0 : Nat) : Nat := at0 + k.hiBase + k.hseq % 2 * k.slotSize k.hhi

/-- The output, in a format at a base. -/
def Win.outT (k : Win) (f base : Nat) : Tens :=
  if k.cols then { f := f, base := base, c := k.cout, r := k.oh.toNat, x := k.on }
  else { f := f, base := base, c := k.cout, r := k.on, x := k.ow.toNat }

/-- The output position of line r and column x of the output tensor. -/
def Win.posOf (k : Win) (r x : Nat) : Nat × Nat := if k.cols then (r, k.o0 + x) else (k.o0 + r, x)

/-- Input channels of a group, rounded up to the pair's K per wave. -/
def Win.kpad (k : Win) (kk : Nat) : Nat := upTo kk (k.cin / k.groups)

/-- The weights: channel o, line ky × KW + kx, column i. -/
def Win.wT (k : Win) (kk at0 : Nat) : Tens :=
  { f := k.w, base := at0 + k.wBase, c := k.cout, r := k.kh * k.kw, x := k.kpad kk }

/-- The bytes of the weights: the elements, and for a block format one scale byte per 32 input channels at the next
64-byte boundary. -/
def Win.wElem (k : Win) (kk : Nat) : Nat := k.cout * k.kh * k.kw * rowBytes k.w (k.kpad kk)
def Win.wSize (k : Win) (kk : Nat) : Nat :=
  if isBlock k.w then upTo 64 (k.wElem kk) + k.cout * k.kh * k.kw * (k.kpad kk / 32) else k.wElem kk

/-- A weight as it is stored: its code, and the exponent of its block. -/
def Win.weight (k : Win) (s : State) (kk at0 o ky kx i : Nat) : Nat × Int :=
  let row := (o * k.kh + ky) * k.kw + kx
  let b := at0 + k.wBase
  (rowCode s k.w (b + row * rowBytes k.w (k.kpad kk)) i,
    if isBlock k.w then sx 8 (sramNum s (b + upTo 64 (k.wElem kk) + row * (k.kpad kk / 32) + i / 32) 1) else 0)

/-- The regions that a command uses, at their largest size, with their ends (R334). -/
def Win.ends (k : Win) : List Nat :=
  let own := k.own 0
  let kk := (pairK k.a k.w).getD 32
  let out := k.outT k.o 0
  let ps := k.outT (accFmt k.a) 0
  [k.aBase + (if k.aComp then compMax k.a own.c own.r own.x else own.size)]
    ++ (if k.op = opConv then [k.wBase + k.wSize kk] else [])
    ++ (if k.accOut then [k.pBase + ps.size] else [k.oBase + (if k.oComp then compMax k.o out.c out.r out.x else out.size)])
    ++ (if k.accIn then [k.pBase + ps.size] else [])
    ++ (if k.op = opConv ∧ ¬k.accOut then [k.qp + 16 + 8 * k.cout] else [])
    ++ (if k.hlo ≠ 0 then [k.loSlot 0 + k.slotSize k.hlo] else [])
    ++ (if k.hhi ≠ 0 then [k.hiSlot 0 + k.slotSize k.hhi] else [])

/-! ## Addressing (R335) -/

/-- The sample of a line and column within the tensor of a source. -/
inductive Sample1
  | pad
  | at (t : Tens) (r x : Nat)

/-- Where input sample (iy, ix) comes from. -/
def Win.source (k : Win) (at0 : Nat) (iy ix : Int) : Sample1 :=
  if iy < 0 ∨ (k.hin : Int) ≤ iy ∨ ix < 0 ∨ (k.win : Int) ≤ ix then .pad
  else
    let i := (if k.cols then ix else iy).toNat
    let (t, j) :=
      if k.i0 ≤ i ∧ i < k.i0 + k.nloc then (k.own at0, i - k.i0)
      else if i < k.i0 then (k.halo k.hlo (k.loSlot at0), i + k.hlo - k.i0)
      else (k.halo k.hhi (k.hiSlot at0), i - (k.i0 + k.nloc))
    if k.cols then .at t iy.toNat j else .at t j ix.toNat

/-- PAD_VAL as an element (R332). -/
def Win.padElem (k : Win) : Nat × Int :=
  (if isBlock k.a then 0 else if k.a = fInt32 then twos 32 (sx 16 k.pad) else if k.a = fFp32 then k.pad * 65536 else k.pad, 0)

/-- The value of PAD_VAL. -/
def Win.padVal (k : Win) : FVal := elemVal k.a k.padElem

/-- Input sample (c, iy, ix) as an element: its code, and the exponent of its block. -/
def Win.sampleElem (k : Win) (s : State) (at0 c : Nat) (iy ix : Int) : Nat × Int :=
  match k.source at0 iy ix with
  | .pad => k.padElem
  | .at t r x => if k.aComp then (compCode s k.a (compRow s t c r) x, 0) else t.elem s c r x

/-- The value of input sample (c, iy, ix). -/
def Win.sample (k : Win) (s : State) (at0 c : Nat) (iy ix : Int) : FVal := elemVal k.a (k.sampleElem s at0 c iy ix)

/-- The bytes that the sample takes. -/
def Win.sampleSpans (k : Win) (s : State) (at0 c : Nat) (iy ix : Int) : List (Nat × Nat) :=
  match k.source at0 iy ix with
  | .pad => []
  | .at t r x =>
    if k.aComp then
      let a := compRow s t c r
      [(t.base + 4 * (c * t.r + r), 4), (a, compBlock s k.a a (x / 32 + 1) - a)]
    else t.spans c r x

/-- The coordinates of tap (ky, kx) of position (oy, ox). -/
def Win.tapAt (k : Win) (oy ox ky kx : Nat) : Int × Int :=
  (((oy * k.sh + ky * k.dh : Nat) : Int) - k.pt, ((ox * k.sw + kx * k.dw : Nat) : Int) - k.pl)

/-- The taps of the pass, row-major. -/
def Win.taps (k : Win) : List (Nat × Nat) :=
  (rangeFrom k.py k.ph).flatMap (fun ky => (rangeFrom k.px k.pw).map (fun kx => (ky, kx)))

/-- The output positions of the stripe with their place in the output tensor, row-major. -/
def Win.positions (k : Win) : List (Nat × Nat) :=
  let t := k.outT k.o 0
  (List.range t.r).flatMap (fun r => (List.range t.x).map (fun x => (r, x)))

/-- Every span of the activations that a convolution or a pooling reads. -/
def Win.actSpans (k : Win) (s : State) (at0 : Nat) : List (Nat × Nat) :=
  k.positions.flatMap (fun p =>
    let q := k.posOf p.1 p.2
    k.taps.flatMap (fun tp =>
      let c := k.tapAt q.1 q.2 tp.1 tp.2
      (List.range k.cin).flatMap (fun ch => k.sampleSpans s at0 ch c.1 c.2)))

/-- The padding taps of all positions. -/
def Win.padTaps (k : Win) : Nat :=
  (k.positions.flatMap (fun p =>
    let q := k.posOf p.1 p.2
    k.taps.filter (fun tp =>
      let c := k.tapAt q.1 q.2 tp.1 tp.2
      decide (c.1 < 0) || decide ((k.hin : Int) ≤ c.1) || decide (c.2 < 0) || decide ((k.win : Int) ≤ c.2)))).length

/-! ## The checks (R334, R344, R348) -/

/-- The two inputs along an axis of n elements and the weight of the second, for output o of factor f (R340). -/
def lerpOf (o f n : Nat) : Nat × Nat × FVal :=
  let i := o / f
  let r := o % f
  if 2 * r + 1 < f then (i, i - 1, q32 (fDivNat (fOf ((f - 2 * r - 1 : Nat) : Int) 0) (2 * f)))
  else (i, min (i + 1) (n - 1), q32 (fDivNat (fOf ((2 * r + 1 - f : Nat) : Int) 0) (2 * f)))

/-- The input samples that one output position of an up-sampling takes. -/
def Win.upCoords (k : Win) (q : Nat × Nat) : List (Nat × Nat) :=
  let (i, n, _) := lerpOf q.1 k.sh k.hin
  let (j, m, _) := lerpOf q.2 k.sw k.win
  if k.op = opUpNearest then [(q.1 / k.sh, q.2 / k.sw)] else [(i, j), (i, m), (n, j), (n, m)]

/-- Every sample that some position and tap of the command addresses (R335). -/
def Win.addressed (k : Win) : List (Int × Int) :=
  k.positions.flatMap (fun p =>
    let q := k.posOf p.1 p.2
    if k.isUp then (k.upCoords q).map (fun e => ((e.1 : Int), (e.2 : Int)))
    else k.taps.map (fun tp => k.tapAt q.1 q.2 tp.1 tp.2))

/-- Whether a row that a compressed command needs ends beyond the tile's SRAM. -/
def Win.compBad (k : Win) (s : State) (base : Nat) : Bool :=
  k.addressed.any (fun p =>
    match k.source base p.1 p.2 with
    | .pad => false
    | .at t r _ => (List.range t.c).any (fun c => decide (base + tileSize < compEnd s t c r)))

/-- The check of R334: a status where the command does not run. -/
def Win.check (k : Win) (s : State) (ws : List Nat) (base : Nat) : Option Nat :=
  if !k.codesOk ws then some stReserved
  else if k.op = opConv ∧ (pairK k.a k.w).isNone then some stFmtPair
  else if [k.kh, k.kw, k.sh, k.sw, k.dh, k.dw, k.ph, k.pw, k.groups].contains 0 then some stZeroDim
  else if [k.cin, k.cout, k.hin, k.win, k.on, k.nloc].contains 0 then some emptySt
  else if !k.combOk then some stGeometry
  else if k.oh ≤ 0 ∨ k.ow ≤ 0 then some emptySt
  else if (if k.cols then k.ow else k.oh) < ((k.o0 + k.on : Nat) : Int) ∨ !k.covered then some stGeometry
  else if k.ends.any (fun e => decide (tileSize < e)) then some stSramRange
  else if k.aComp && k.compBad s base then some stSramRange
  else none

/-- Whether the output size was computed by the check (WW_LAST_OUT, R352). -/
def Win.sized (k : Win) (ws : List Nat) : Bool :=
  k.codesOk ws && (k.op != opConv || (pairK k.a k.w).isSome)
    && !([k.kh, k.kw, k.sh, k.sw, k.dh, k.dw, k.ph, k.pw, k.groups].contains 0)
    && !([k.cin, k.cout, k.hin, k.win, k.on, k.nloc].contains 0) && k.combOk && decide (0 < k.oh) && decide (0 < k.ow)

/-- The unit tag of a tile that the cluster controllers recorded when the tile was bound into a job (R348). -/
def boundGen (s : State) (job t : Nat) : Option Nat :=
  (jobOf s job).bind (fun j => (j.tileGen.find? (fun e => e.1 == t)).map (·.2))

/-- Whether a halo header is what the command expects: SEQ, FIRST, LINES, and TILE and GEN of the producing tile's binding (R346,
R348). -/
def headerOk (s : State) (a seq first lines job prod : Nat) : Bool :=
  sramNum s a 4 == seq && sramNum s (a + 4) 2 == first && sramNum s (a + 6) 2 == lines
    && some (sramNum s (a + 8) 1) == boundGen s job prod && sramNum s (a + 9) 1 == prod

def Win.halosOk (k : Win) (s : State) (base job lo hi : Nat) : Bool :=
  (k.hlo == 0 || headerOk s (k.loSlot base) k.hseq (k.i0 - k.hlo) k.hlo job lo)
    && (k.hhi == 0 || headerOk s (k.hiSlot base) k.hseq (k.i0 + k.nloc) k.hhi job hi)

def Win.headSpans (k : Win) (base : Nat) : List (Nat × Nat) :=
  (if k.hlo = 0 then [] else [(k.loSlot base, 10)]) ++ (if k.hhi = 0 then [] else [(k.hiSlot base, 10)])

/-! ## Accumulation (R297 to R300, R336, R338) -/

/-- The activations and weights of a wave of output channel o: tap (ky, kx), slice sl. -/
def Win.wave (k : Win) (s : State) (kk base o oy ox ky kx sl : Nat) : List ((Nat × Int) × (Nat × Int)) :=
  let ci := k.cin / k.groups
  let g := o / (k.cout / k.groups)
  let c := k.tapAt oy ox ky kx
  (rangeFrom (sl * kk) (min kk (ci - sl * kk))).map (fun i =>
    (k.sampleElem s base (g * ci + i) c.1 c.2, k.weight s kk base o ky kx i))

/-- The waves of one output position, in order: taps row-major, slices ascending. -/
def Win.waves (k : Win) (kk : Nat) : List (Nat × Nat × Nat) :=
  k.taps.flatMap (fun tp => (List.range ((k.cin / k.groups + kk - 1) / kk)).map (fun sl => (tp.1, tp.2, sl)))

/-- The starting accumulator of output (o, r, x), and the operands of its waves. -/
def Win.start (k : Win) (s : State) (base o r x : Nat) : Nat :=
  if k.accIn then sramNum s ((k.outT (accFmt k.a) (base + k.pBase)).row o r + 4 * x) 4 else 0
def Win.operands (k : Win) (s : State) (kk base o r x : Nat) : List (List ((Nat × Int) × (Nat × Int))) :=
  let q := k.posOf r x
  (k.waves kk).map (fun w => k.wave s kk base o q.1 q.2 w.1 w.2.1 w.2.2)

/-- The accumulator of output (o, r, x) after its waves. -/
def Win.accum (k : Win) (s : State) (kk base o r x : Nat) : Nat × AccCnt :=
  accWaves k.a k.w (k.start s base o r x) (k.operands s kk base o r x)

/-- The groups that one wave takes (R338). -/
def Win.perWave (k : Win) (kk : Nat) : Nat :=
  let ci := k.cin / k.groups
  let co := k.cout / k.groups
  if kk ≤ ci ∨ 64 < co then 1 else min (kk / ci) (64 / co)

/-- The column blocks: the output channels of each, by column (R338). -/
def Win.colBlocks (k : Win) (kk : Nat) : List (List Nat) :=
  let co := k.cout / k.groups
  let gp := k.perWave kk
  (List.range ((k.groups + gp - 1) / gp)).flatMap (fun gb =>
    (List.range ((co + 63) / 64)).map (fun cb =>
      (List.range (min gp (k.groups - gb * gp))).flatMap (fun j =>
        (List.range (min 64 (co - 64 * cb))).map (fun c => (gb * gp + j) * co + 64 * cb + c))))

/-- Lists of at most n elements. -/
def chunks {α : Type} (n : Nat) : Nat → List α → List (List α)
  | 0, _ => []
  | k + 1, l => if l.isEmpty then [] else l.take n :: chunks n k (l.drop n)

/-- The blocks of a command in order: column block, position block (R336). -/
def Win.blocks (k : Win) (kk : Nat) : List (List Nat × List (Nat × Nat)) :=
  let ps := k.positions
  (k.colBlocks kk).flatMap (fun cb => (chunks 256 ps.length ps).map (fun pb => (cb, pb)))

/-- The accumulator file and the weight sets as the last two blocks leave them (R300). -/
def Win.leaveArray (k : Win) (kk base t : Nat) (acc : Nat → Nat → Nat → Nat) (s : State) : State :=
  let bs := k.blocks kk
  let n := bs.length
  let b0 := (tileOf s t).bank
  let put (s : State) (i : Nat) : State :=
    match bs[i]? with
    | none => s
    | some (cb, pb) =>
      let bank := (b0 + i) % 2
      let ents := (pb.zipIdx).flatMap (fun p => (cb.zipIdx).map (fun o =>
        (bank * 16384 + p.2 * 64 + o.2, word (acc o.1 p.1.1 p.1.2))))
      updTile s t (fun x => { x with
        acc := ents.foldl (fun m e => tset (fun _ => (0 : Word)) m e.1 e.2) (tclear x.acc (bank * 16384) (bank * 16384 + 16384)) })
  let s1 := if n = 0 then s else put (if n = 1 then s else put s (n - 2)) (n - 1)
  let ws := k.waves kk
  let loads := n * ws.length
  let load (s : State) (i : Nat) : State :=
    match ws[i % ws.length]?, bs[i / ws.length]? with
    | some (ky, kx, sl), some (cb, _) =>
      let ci := k.cin / k.groups
      let co := k.cout / k.groups
      let set := i % 2
      let first (col : Nat) : Nat := if k.perWave kk = 1 then 0 else col / co * ci
      let ents := cb.zipIdx.flatMap (fun o => (List.range (min kk (ci - sl * kk))).map (fun i =>
        let row := (o.1 * k.kh + ky) * k.kw + kx
        (set * 4096 + (first o.2 + i) * 64 + o.2, rowCode s k.w (base + k.wBase + row * rowBytes k.w (k.kpad kk)) (sl * kk + i))))
      updTile s t (fun x => { x with
        wts := ents.foldl (fun m e => tset natD m e.1 e.2) (tclear x.wts (set * 4096) (set * 4096 + 4096)) })
    | _, _ => s
  let s2 := if loads = 0 then s1 else load (if loads = 1 then s1 else load s1 (loads - 2)) (loads - 1)
  updTile s2 t (fun x => { x with bank := (b0 + n) % 2 })

/-! ## The output stage (R301, R335) -/

/-- The bounds and slope of the QP table. -/
def Win.qpHead (k : Win) (s : State) (base i : Nat) : Nat := sramNum s (base + k.qp + 4 * i) 4

/-- A single-step activation on an FP32 value. -/
def actF (act slope lo hi : Nat) (v : FVal) : FVal :=
  match act with
  | 1 => if v = .nan then f32 (Config.vuOpen 1 (r32 v)) else if fLt v fZero then fZero else v
  | 2 => if fLt v fZero then q32 (fMul v (f32 slope)) else v
  | 3 => if v = .nan then f32 (Config.vuOpen 3 (r32 v)) else fMin (fMax v (f32 lo)) (f32 hi)
  | _ => v

/-- A single-step activation on an integer; CLAMP converts its bounds to INT32. -/
def actI (act lo hi : Nat) (v : Int) : Int :=
  match act with
  | 1 => max v 0
  | 3 =>
    let b (n : Nat) := (fToInt (fmtLo fInt32) (fmtHi fInt32) (f32 n)).1
    min (max v (b lo)) (b hi)
  | _ => v

/-- The FP32 fused multiply-add of an accumulator. -/
def fma (a b c : FVal) : FVal := q32 (fAdd (fMul a b) c)

/-- (acc × M + r) >> s. -/
def scaled (acc m : Int) (sh : Nat) : Int := asr (acc * m + (if sh = 0 then 0 else ((2 ^ (sh - 1) : Nat) : Int))) sh

/-- The value that the output stage hands to the conversion. -/
def Win.outVal (k : Win) (s : State) (base o acc : Nat) : FVal :=
  let m := sramNum s (base + k.qp + 16 + 8 * o) 4
  let b := sramNum s (base + k.qp + 20 + 8 * o) 4
  if isInt k.o then
    let y := if intPair k.a then scaled (sx 32 acc) (sx 32 m) k.shift else Config.quantFp acc m k.shift
    fOf (actI k.act (k.qpHead s base 1) (k.qpHead s base 2) y + k.zp) 0
  else
    let a := if intPair k.a then q32 (fOf (sx 32 acc) 0) else f32 acc
    actF k.act (k.qpHead s base 0) (k.qpHead s base 1) (k.qpHead s base 2) (fma a (f32 m) (f32 b))

/-- The output written, compressed or not. -/
def Win.put (k : Win) (t base : Nat) (v : Nat → Nat → Nat → FVal) (s : State) : State :=
  let o := k.outT k.o (base + k.oBase)
  if k.oComp then
    let (s1, n) := o.storeComp t v s
    wrN s1 (WW_LAST_COMP_BYTES t) n
  else o.store t v s

/-! ## CONV (R336) -/

/-- The spans of weights, partial sums and the output-stage table. -/
def Win.paramSpans (k : Win) (kk base : Nat) : List (Nat × Nat) :=
  let ci := k.cin / k.groups
  (List.range k.cout).flatMap (fun o => k.taps.flatMap (fun tp =>
    let row := (o * k.kh + tp.1) * k.kw + tp.2
    (base + k.wBase + row * rowBytes k.w (k.kpad kk), rowBytes k.w ci)
      :: (if isBlock k.w then [(base + k.wBase + upTo 64 (k.wElem kk) + row * (k.kpad kk / 32), (ci + 31) / 32)] else [])))
  ++ (if k.accIn then [(base + k.pBase, (k.outT (accFmt k.a) 0).size)] else [])
  ++ (if k.accOut then [] else [(base + k.qp, 16 + 8 * k.cout)])

/-- One pair of a position and a column block completes: every 2^K-th is offered as a sample, with the operands that its column had in
s0 (spec/11_approximation.md R368, R370). -/
def Win.offerPair (k : Win) (s0 : State) (t seq kk base : Nat) (p : Nat × Nat) (cb : List Nat) (s : State) : State :=
  let x := tileOf s t
  let s1 := setTile s t { x with pairs := x.pairs + 1 }
  if flag s APX_CHK_CFG 31 && decide ((x.pairs + 1) % 2 ^ fld s APX_CHK_CFG 4 0 = 0) then
    let col := x.offered % 64
    let s2 := setTile s1 t { x with pairs := x.pairs + 1, offered := x.offered + 1 }
    let x : Sample := { neuron := false, setting := leanCur s, unit := t, place := col, seq := seq, ft := s.ft
                        bytes := 16 + (if k.w = fInt2 then 80 else 64) * (k.waves kk).length, aFmt := k.a, wFmt := k.w }
    offer s2 (match cb[col]? with
      | some o => { x with start := k.start s0 base o p.1 p.2, waves := k.operands s0 kk base o p.1 p.2
                           final := [word (k.accum s0 kk base o p.1 p.2).1] }
      | none => x)
  else s1

/-- The results of a convolution written, and what it counts. -/
def Win.runConv (k : Win) (t seq kk base : Nat) (s : State) : State :=
  let acc (o r x : Nat) : Nat := (k.accum s kk base o r x).1
  let ps := k.positions
  let cnts := (List.range k.cout).flatMap (fun o => ps.map (fun p => (k.accum s kk base o p.1 p.2).2))
  let wraps := cnts.foldl (fun n c => n + c.wraps) 0
  let nans := cnts.foldl (fun n c => n + c.nans) 0
  let blocks := k.blocks kk
  let nw := (k.waves kk).length
  let s1 := bumpN s (TT_ACC_WRAP_CNT t) wraps
  let s2 := countCvts t s1 (List.replicate nans .nan)
  let s3 := bumpWide s2 (TT_WAVE_LO t) ((k.colBlocks kk).length * ps.length * nw)
  let s4 := bumpN s3 (WW_PAD_SAMPLES t) (k.padTaps * k.cin * ((k.cout / k.groups + 63) / 64))
  let s5 := k.leaveArray kk base t acc s4
  let s6 := blocks.foldl (fun u b => b.2.foldl (fun u p => k.offerPair s t seq kk base p b.1 u) u) s5
  let s7 := if blocks.any (fun b => decide (b.2.length < 16)) then bumpFree s6 (TT_OPND_STALL_CCY t) else s6
  let s8 := if k.aComp then bumpFreeTo s7 (WW_COMP_STALL_CCY t) ((k.colBlocks kk).length * ps.length * nw) else s7
  let s9 := bumpFree s8 (TT_BANK_CONFLICT_CCY t)
  if k.accOut then
    let o := k.outT (accFmt k.a) (base + k.pBase)
    (List.range o.c).foldl (fun s c => (List.range o.r).foldl (fun s r =>
      sramWrite s (o.row c r) ((List.range o.x).flatMap (fun x => leBytes 4 (acc c r x)))) s) s9
  else
    let y (o r x : Nat) : FVal := k.outVal s base o (acc o r x)
    k.put t base y s9

/-- The frame of every window command: the check, the halo headers, the reads, the run; `lo` and `hi` are the tiles that produce its
halos, by its binding. -/
def windowRun (s : State) (t q op lo hi : Nat) (spans : Win → List (Nat × Nat)) (run : Win → Nat → State → State) : State :=
  match openHead s t q with
  | none => s
  | some c =>
    match c.work with
    | .window ws =>
      let k := winCmd ws
      let base := tileAt t
      if k.op ≠ op then s
      else
        let s1 := wrN s (WW_LAST_OUT t) (if k.sized ws then k.oh.toNat % 65536 * 65536 + k.ow.toNat % 65536 else 0)
        match k.check s ws base with
        | some st => setTileStatus s1 t q st
        | none =>
          withReads s1 t q (k.headSpans base) (fun s1 =>
            if !k.halosOk s1 base c.job lo hi then setTileStatus s1 t q stHaloStale
            else withReads s1 t q (spans k) (fun s1 => setTileStatus (run k (cmdNum c) s1) t q okSt))
    | _ => s

/-- CONV. -/
def execConv (t lo hi : Nat) (s : State) : Out :=
  let base := tileAt t
  .next (windowRun s t 0 opConv lo hi
    (fun k => k.actSpans s base ++ k.paramSpans ((pairK k.a k.w).getD 32) base)
    (fun k seq s => k.runConv t seq ((pairK k.a k.w).getD 32) base s))

/-! ## Pooling (R339) -/

/-- The samples of a window, row-major, with whether each is padding. -/
def Win.window (k : Win) (s : State) (base c r x : Nat) : List (FVal × Bool) :=
  let q := k.posOf r x
  k.taps.map (fun tp =>
    let p := k.tapAt q.1 q.2 tp.1 tp.2
    (k.sample s base c p.1 p.2, match k.source base p.1 p.2 with | .pad => true | _ => false))

/-- The average of a window. -/
def Win.average (k : Win) (l : List (FVal × Bool)) : FVal :=
  let n := if k.excl then (l.filter (fun e => !e.2)).length else k.kh * k.kw
  if n = 0 then k.padVal
  else q32 (fDivNat (l.foldl (fun a e => q32 (fAdd a (cvt32 e.1))) fZero) n)

/-- What the conversions of samples to FP32 count (spec/09_tensor_tiles.md R294), for every output that takes the sample (log entry
160); FP32 samples are not converted. -/
def Win.sampleCvts (k : Win) (s : State) (base : Nat) : List Cvt :=
  if k.a = fFp32 then []
  else k.addressed.flatMap (fun p => (List.range k.cin).map (fun c => (fConvert fmtFp32 (k.sample s base c p.1 p.2)).2))

/-- A pooling written, and what it counts; `cs` are the conversions of its samples. -/
def Win.runPool (k : Win) (t base : Nat) (cs : List Cvt) (f : List (FVal × Bool) → FVal) (s : State) : State :=
  let s1 := countCvts t (bumpN s (WW_PAD_SAMPLES t) (k.padTaps * k.cin)) cs
  bumpFree (k.put t base (fun c r x => f (k.window s base c r x)) s1) (TT_BANK_CONFLICT_CCY t)

def execPoolMax (t lo hi : Nat) (s : State) : Out :=
  let base := tileAt t
  .next (windowRun s t 1 opPoolMax lo hi (fun k => k.actSpans s base)
    (fun k _ s => k.runPool t base [] (fun l => l.foldl (fun m e => fMax m e.1) .nan) s))

def execPoolAvg (t lo hi : Nat) (s : State) : Out :=
  let base := tileAt t
  .next (windowRun s t 1 opPoolAvg lo hi (fun k => k.actSpans s base) (fun k _ s => k.runPool t base (k.sampleCvts s base) k.average s))

/-! ## Up-sampling (R340) -/

/-- a + w × (b − a): the subtraction rounded once, the multiply-add fused. -/
def lerp32 (w a b : FVal) : FVal := fma w (q32 (fAdd b (fNeg a))) a

/-- The value of up-sampled output (c, oy, ox). -/
def Win.upVal (k : Win) (s : State) (base c oy ox : Nat) : FVal :=
  if k.op = opUpNearest then k.sample s base c ((oy / k.sh : Nat) : Int) ((ox / k.sw : Nat) : Int)
  else
    let (i, n, wr) := lerpOf oy k.sh k.hin
    let (j, m, wc) := lerpOf ox k.sw k.win
    let at2 (y x : Nat) : FVal := cvt32 (k.sample s base c (y : Int) (x : Int))
    lerp32 wr (lerp32 wc (at2 i j) (at2 i m)) (lerp32 wc (at2 n j) (at2 n m))

/-- The spans that an up-sampling reads. -/
def Win.upSpans (k : Win) (s : State) (base : Nat) : List (Nat × Nat) :=
  k.positions.flatMap (fun p =>
    let q := k.posOf p.1 p.2
    (List.range k.cin).flatMap (fun c => (k.upCoords q).flatMap (fun e => k.sampleSpans s base c (e.1 : Int) (e.2 : Int))))

def Win.runUp (k : Win) (t base : Nat) (s : State) : State :=
  let s1 := if k.op = opUpBilinear then countCvts t s (k.sampleCvts s base) else s
  bumpFree (k.put t base (fun c r x => let q := k.posOf r x; k.upVal s base c q.1 q.2) s1) (TT_BANK_CONFLICT_CCY t)

def execUpNearest (t lo hi : Nat) (s : State) : Out :=
  let base := tileAt t
  .next (windowRun s t 1 opUpNearest lo hi (fun k => k.upSpans s base) (fun k _ s => k.runUp t base s))

def execUpBilinear (t lo hi : Nat) (s : State) : Out :=
  let base := tileAt t
  .next (windowRun s t 1 opUpBilinear lo hi (fun k => k.upSpans s base) (fun k _ s => k.runUp t base s))

end Sys2Proof.Machine
end

