-- ==== Sys2Proof/Machine/Vector.lean ====
section
/-!
DEFINITION. The vector unit's operations (spec/09_tensor_tiles.md R302 to R304, R294, R295, R301). The spec prints no command
layout; log entry 20 names the record and its codes.
-/
namespace Sys2Proof.Machine
open Sys2Proof

/-! ## Operands -/

/-- A vector operand at a tile's place in SRAM. -/
def vecT (v : VecCmd) (f base : Nat) : Tens := { f := f, base := base, c := v.chans, r := 1, x := v.plane }

/-- The operands: the formats and offsets of those that an operation takes. -/
def vecOps (v : VecCmd) (n base : Nat) : List Tens :=
  ([(v.aFmt, v.a), (v.bFmt, v.b), (v.cFmt, v.c)].take n).map (fun e => vecT v e.1 (base + e.2))

/-- The exact value of an operand's element (c, x). -/
def vExact (s : State) (t : Tens) (c x : Nat) : FVal := t.val s c 0 x

/-- The value of an operand's element, read in FP32 (R294). -/
def vFp (s : State) (t : Tens) (c x : Nat) : FVal := cvt32 (t.val s c 0 x)

/-- Whether the first n operands are INT32, so that the operation is one of INT32. -/
def vecInt (v : VecCmd) (n : Nat) : Bool := ([v.aFmt, v.bFmt, v.cFmt].take n).all (fun f => f == fInt32)

/-- An integer result modulo 2^32. -/
def wrap32 (i : Int) : FVal := fOf (sx 32 (twos 32 i)) 0

/-- Whether an operation takes its n operands in FP32: those of INT32 operands, and CMP, SELECT, CVT and ARGMAX, take them exactly. -/
def readsFp (v : VecCmd) (n : Nat) : Bool :=
  !([9, 10, 15, 20].contains v.op) && !vecInt v n && !(v.op == 16 && isInt v.oFmt && isInt v.aFmt)

/-- What the conversions of a command's operands to FP32 count (R294); an FP32 operand is not converted. -/
def readCvts (s : State) (v : VecCmd) (n base : Nat) : List Cvt :=
  if !readsFp v n then []
  else ((vecOps v n base).filter (fun o => o.f != fFp32)).flatMap (fun o =>
    (List.range v.chans).flatMap (fun c => (List.range v.plane).map (fun x => (fConvert fmtFp32 (vExact s o c x)).2)))

/-- Every span of an operand. -/
def tensSpan (t : Tens) : List (Nat × Nat) := [(t.base, t.size)]

/-- The frame of a vector command: the checks, the reads, the results written; `n` operands, further regions read, and the
shape of the output. -/
def vecRun (s : State) (t op n : Nat) (extra : VecCmd → Nat → List (Nat × Nat)) (outT : VecCmd → Nat → Tens)
    (f : VecCmd → Nat → State → Nat → Nat → FVal) : State :=
  match openHead s t 1 with
  | none => s
  | some cmd =>
    match cmd.work with
    | .vector v =>
      let base := tileAt t
      let ins := vecOps v n base
      let out := outT v base
      let spans := ins.flatMap tensSpan ++ extra v base
      if v.op ≠ op then s
      else if !(ins.all (fun x => dataFmt x.f) && dataFmt out.f) then setTileStatus s t 1 stReserved
      else if v.chans * v.plane = 0 ∨ out.c * out.x = 0 then setTileStatus s t 1 emptySt
      else if (spans ++ tensSpan out).any (fun e => decide (base + tileSize < e.1 + e.2)) then setTileStatus s t 1 stSramRange
      else withReads s t 1 spans (fun s =>
        let s1 := countCvts t s (readCvts s v n base)
        setTileStatus (bumpFree (out.store t (fun c _ x => f v base s c x) s1) (TT_BANK_CONFLICT_CCY t)) t 1 okSt)
    | _ => s

def noExtra (_ : VecCmd) (_ : Nat) : List (Nat × Nat) := []
def sameOut (v : VecCmd) (base : Nat) : Tens := vecT v v.oFmt (base + v.o)

/-- An operation of one value per element, on INT32 or on FP32 operands. -/
def elemwise (s : State) (t op n : Nat) (fi : List Int → Int) (ff : List FVal → FVal) : State :=
  vecRun s t op n noExtra sameOut (fun v base s c x =>
    let ins := vecOps v n base
    if vecInt v n then wrap32 (fi (ins.map (fun o => valInt (vExact s o c x))))
    else ff (ins.map (fun o => vFp s o c x)))

/-- Operand i of a list of values. -/
def vi (l : List Int) (i : Nat) : Int := l.getD i 0
def vf (l : List FVal) (i : Nat) : FVal := l.getD i .nan

/-! ## The operations (R302) -/

def execVuAdd (t : Nat) (s : State) : Out :=
  .next (elemwise s t 1 2 (fun l => vi l 0 + vi l 1) (fun l => q32 (fAdd (vf l 0) (vf l 1))))

def execVuSub (t : Nat) (s : State) : Out :=
  .next (elemwise s t 2 2 (fun l => vi l 0 - vi l 1) (fun l => q32 (fAdd (vf l 0) (fNeg (vf l 1)))))

def execVuMul (t : Nat) (s : State) : Out :=
  .next (elemwise s t 3 2 (fun l => vi l 0 * vi l 1) (fun l => q32 (fMul (vf l 0) (vf l 1))))

/-- FMA: a × b + c, fused, in FP32. -/
def execVuFma (t : Nat) (s : State) : Out :=
  .next (vecRun s t 4 3 noExtra sameOut (fun v base s c x =>
    let l := (vecOps v 3 base).map (fun o => vFp s o c x)
    fma (vf l 0) (vf l 1) (vf l 2)))

def execVuMin (t : Nat) (s : State) : Out :=
  .next (elemwise s t 5 2 (fun l => min (vi l 0) (vi l 1)) (fun l => fMin (vf l 0) (vf l 1)))

def execVuMax (t : Nat) (s : State) : Out :=
  .next (elemwise s t 6 2 (fun l => max (vi l 0) (vi l 1)) (fun l => fMax (vf l 0) (vf l 1)))

/-- The negative of an INT32; of −2^31 the spec states none. -/
def negI (op : Nat) (i : Int) : Int := if i = -2147483648 then sx 32 (Config.vuOpen op 0x80000000) else -i

def execVuAbs (t : Nat) (s : State) : Out :=
  .next (elemwise s t 7 1 (fun l => if vi l 0 < 0 then negI 7 (vi l 0) else vi l 0) (fun l => fAbs (vf l 0)))

def execVuNeg (t : Nat) (s : State) : Out :=
  .next (elemwise s t 8 1 (fun l => negI 8 (vi l 0)) (fun l => fNeg (vf l 0)))

/-- CMP: k0 is 0 EQ, 1 LT, 2 LE; the output takes k1 as an FP32 pattern where it holds, k2 where it does not. -/
def execVuCmp (t : Nat) (s : State) : Out :=
  .next (vecRun s t 9 2 noExtra sameOut (fun v base s c x =>
    let l := (vecOps v 2 base).map (fun o => vExact s o c x)
    let h := if v.k0 = 0 then fEq (vf l 0) (vf l 1) else if v.k0 = 1 then fLt (vf l 0) (vf l 1) else fLe (vf l 0) (vf l 1)
    f32 (if h then v.k1 else v.k2)))

/-- SELECT: a where c is not zero, else b. -/
def execVuSelect (t : Nat) (s : State) : Out :=
  .next (vecRun s t 10 3 noExtra sameOut (fun v base s c x =>
    let l := (vecOps v 3 base).map (fun o => vExact s o c x)
    if fIsZero (vf l 2) then vf l 1 else vf l 0))

def execVuRelu (t : Nat) (s : State) : Out :=
  .next (elemwise s t 11 1 (fun l => actI 1 0 0 (vi l 0)) (fun l => actF 1 0 0 0 (vf l 0)))

/-- LEAKY: negatives times the slope k0, one rounding. -/
def execVuLeaky (t : Nat) (s : State) : Out :=
  .next (vecRun s t 12 1 noExtra sameOut (fun v base s c x =>
    actF 2 v.k0 0 0 (vf ((vecOps v 1 base).map (fun o => vFp s o c x)) 0)))

/-- CLAMP to k0 and k1, FP32 patterns; an INT32 element is clamped to the bounds converted to INT32. -/
def execVuClamp (t : Nat) (s : State) : Out :=
  .next (vecRun s t 13 1 noExtra sameOut (fun v base s c x =>
    if vecInt v 1 then fOf (actI 3 v.k0 v.k1 (valInt (vExact s (vecT v v.aFmt (base + v.a)) c x))) 0
    else actF 3 0 v.k0 v.k1 (vFp s (vecT v v.aFmt (base + v.a)) c x)))

/-! ## LUTFN (R303) -/

/-- A node of the table. -/
def lutNode (s : State) (a i : Nat) : FVal := f32 (sramNum s (a + 4 * i) 4)

/-- LUTFN of x: lo and R as FP32 patterns; every step rounds to FP32. -/
def lutfn (s : State) (a lo r : Nat) (x : FVal) : FVal :=
  let t0 := q32 (fMul (q32 (fAdd x (fNeg (f32 lo)))) (f32 r))
  if t0 = .nan then .nan
  else
    let t := fMin (fMax t0 fZero) (fOf 256 0)
    let i := (min (fFloor 0 256 0 t) 255).toNat
    let f := q32 (fAdd t (fNeg (fOf (i : Int) 0)))
    let d := q32 (fAdd (lutNode s a (i + 1)) (fNeg (lutNode s a i)))
    q32 (fAdd (lutNode s a i) (q32 (fMul f d)))

def execLutfn (t : Nat) (s : State) : Out :=
  .next (vecRun s t 14 1 (fun v base => [(base + v.c, 1028)]) sameOut (fun v base s c x =>
    lutfn s (base + v.c) v.k0 v.k1 (vFp s (vecT v v.aFmt (base + v.a)) c x)))

/-! ## CVT and REQUANT (R294, R295, R301) -/

/-- CVT: the elements converted to the output's format, block formats included. -/
def execCvt (t : Nat) (s : State) : Out :=
  .next (vecRun s t 15 1 noExtra sameOut (fun v base s c x => vExact s (vecT v v.aFmt (base + v.a)) c x))

/-- REQUANT: the conversion of R301 with the table of M or A and B by channel at c, the shift k0 and the zero point k1. -/
def execRequant (t : Nat) (s : State) : Out :=
  .next (vecRun s t 16 1 (fun v base => [(base + v.c, 8 * v.chans)]) sameOut (fun v base s c x =>
    let m := sramNum s (base + v.c + 8 * c) 4
    let b := sramNum s (base + v.c + 8 * c + 4) 4
    let e := vExact s (vecT v v.aFmt (base + v.a)) c x
    if isInt v.oFmt then
      let y := if isInt v.aFmt then scaled (valInt e) (sx 32 m) (v.k0 % 64) else Config.quantFp (fConvert fmtFp32 e).1 m (v.k0 % 64)
      fOf (y + sx 16 v.k1) 0
    else fma (cvt32 e) (f32 m) (f32 b)))

/-! ## Reductions (R304) -/

/-- Neighbouring values combined: lane 2j with lane 2j + 1; a lane beyond the end takes no part. -/
def pairUp {α : Type} (f : α → α → α) : List α → List α
  | a :: b :: t => f a b :: pairUp f t
  | l => l

/-- The value of a chunk of at most 64 lanes. -/
def treeRed {α : Type} (f : α → α → α) (l : List α) : Option α :=
  (pairUp f (pairUp f (pairUp f (pairUp f (pairUp f (pairUp f l)))))).head?

/-- The reduction of a list in chunks of 64, ascending. -/
def reduceBy {α : Type} (f : α → α → α) (l : List α) : Option α :=
  (chunks 64 l.length l).foldl (fun r ch =>
    match r, treeRed f ch with
    | some a, some b => some (f a b)
    | none, b => b
    | a, none => a) none

/-- The shape of a reduction: the axis has k0 elements, k1 apart; the others are the output's. -/
def redOut (v : VecCmd) (base : Nat) : Tens :=
  { f := v.oFmt, base := base + v.o, c := v.chans * v.plane / (v.k0 * v.k1), r := 1, x := v.k1 }

/-- The elements that output (c, x) reduces. -/
def redIdx (v : VecCmd) (c x : Nat) : List (Nat × Nat) :=
  (List.range v.k0).map (fun i => let e := (c * v.k0 + i) * v.k1 + x; (e / v.plane, e % v.plane))

/-- A reduction of INT32 or FP32 elements. -/
def reduce (s : State) (t op : Nat) (fi : Int → Int → Int) (ff : FVal → FVal → FVal) : State :=
  vecRun s t op 1 noExtra redOut (fun v base s c x =>
    let o := vecT v v.aFmt (base + v.a)
    if vecInt v 1 then wrap32 ((reduceBy fi ((redIdx v c x).map (fun e => valInt (vExact s o e.1 e.2)))).getD 0)
    else (reduceBy ff ((redIdx v c x).map (fun e => vFp s o e.1 e.2))).getD fZero)

def execVuSum (t : Nat) (s : State) : Out :=
  .next (reduce s t 17 (fun a b => sx 32 (twos 32 (a + b))) (fun a b => q32 (fAdd a b)))

def execVuReduceMax (t : Nat) (s : State) : Out := .next (reduce s t 18 max fMax)

def execVuReduceMin (t : Nat) (s : State) : Out := .next (reduce s t 19 min fMin)

/-- The lowest index of a maximum; a NaN gives way to a number, and where every element is NaN the index is open. -/
def argMax (l : List FVal) : Nat :=
  let m := l.foldl fMax .nan
  match l.zipIdx.find? (fun e => fEq e.1 m) with
  | some e => e.2
  | none => Config.vuOpen 20 l.length

def execArgmax (t : Nat) (s : State) : Out :=
  .next (vecRun s t 20 1 noExtra redOut (fun v base s c x =>
    let o := vecT v v.aFmt (base + v.a)
    fOf ((argMax ((redIdx v c x).map (fun e => vExact s o e.1 e.2)) : Nat) : Int) 0))

end Sys2Proof.Machine
end

