-- ==== Sys2Proof/Machine/Stash.lean ====
section
/-!
DEFINITION. The stash engine, scrubbing, retention and tile sleep (spec/09_tensor_tiles.md R309 to R314).
-/
namespace Sys2Proof.Machine
open Sys2Proof

/-! ## Transfers (R311, R312) -/

/-- The address of an end within its memory. -/
def endOff : StashEnd → Nat
  | .mem a => a
  | .tile _ o => o
  | .cluster _ o => o

def isMem : StashEnd → Bool
  | .mem _ => true
  | _ => false

/-- Whether an end is a tile's own SRAM or its own cluster's. -/
def ownEnd (t : Nat) : StashEnd → Bool
  | .mem _ => false
  | .tile u _ => u == t
  | .cluster c _ => c == t / 8

/-- The place of an end in the SRAM aperture. -/
def endAt : StashEnd → Nat
  | .mem a => a
  | .tile t o => tileAt t + o
  | .cluster c o => clusterAt c + o

/-- The bytes of the memory of an end. -/
def endSize : StashEnd → Nat
  | .mem _ => memSize
  | .tile _ _ => tileSize
  | .cluster _ _ => clusterSize

/-- The offset behind the last byte of rows at a pitch. -/
def rowsEnd (o rows bytes pitch : Nat) : Nat := o + (rows - 1) * pitch + bytes

/-- Whether the table of R311 has a path from x to y or from y to x, for the stash engine of tile t. -/
def pathOk (t : Nat) (x y : StashEnd) : Bool :=
  let one (own other : StashEnd) : Bool :=
    match own with
    | .tile u _ => u == t && (match other with | .tile v _ => v != t | _ => true)
    | .cluster c _ => c == t / 8 && isMem other
    | .mem _ => false
  one x y || one y x

/-- Whether the header of a halo copy lies in its destination's memory, at a multiple of 8 bytes. -/
def hdrOk (x : StashXfer) : Bool :=
  match x.hdr with
  | none => true
  | some h => h.at_ % 8 == 0 && !isMem x.dst && decide (h.at_ + 64 ≤ endSize x.dst)

/-- The checks of a transfer, in the order of R312, then the range of the SRAM (R305). A path that R311 does not list is reserved
(log entry 159). -/
def stashCheck (t : Nat) (x : StashXfer) : Option Nat :=
  let ends := [(x.src, x.srcPitch), (x.dst, x.dstPitch)]
  if [endOff x.src, endOff x.dst, x.rowBytes, x.srcPitch, x.dstPitch].any (fun n => n % 8 != 0) then some stReserved
  else if !pathOk t x.src x.dst then some stReserved
  else if x.rows = 0 ∨ x.rowBytes = 0 then some emptySt
  else if 1 < x.rows ∧ (x.srcPitch = 0 ∨ x.dstPitch = 0) then some stZeroDim
  else if 1 < x.rows ∧ x.dstPitch < x.rowBytes then some stOverlap
  else if ends.any (fun e => isMem e.1 && decide (memSize < rowsEnd (endOff e.1) x.rows x.rowBytes e.2)) then some stMemRange
  else if ends.any (fun e => decide (endSize e.1 < rowsEnd (endOff e.1) x.rows x.rowBytes e.2)) || !hdrOk x then some stSramRange
  else none

/-- STASH_TRANSFER: the head of the stash queue is checked and starts moving; at most 4 are in flight (R313). -/
def execStashTransfer (t : Nat) (s : State) : Out :=
  match openHead s t 2 with
  | none => .next s
  | some c =>
    match c.work with
    | .stash x =>
      match stashCheck t x with
      | some st => .next (setTileStatus s t 2 st)
      | none =>
        if (tileOf s t).flight.length < 4 then
          .next (noteHead (updTile s t (fun y => { y with flight := y.flight ++ [c], sq := { cmds := y.sq.cmds.tail } })) t 2)
        else .next s
    | _ => .next s

/-! ## Moving (R308, R312, R314) -/

/-- The spans of a transfer's source, by row. -/
def srcSpans (x : StashXfer) : List (Nat × Nat) :=
  (List.range x.rows).map (fun i => (endAt x.src + i * x.srcPitch, x.rowBytes))

def readEnd (s : State) (e : StashEnd) (a n : Nat) : List Byte := if isMem e then memRead s a n else sramRead s a n
def writeEnd (s : State) (e : StashEnd) (a : Nat) (bs : List Byte) : State := if isMem e then memWrite s a bs else sramWrite s a bs

/-- The words of the destination lines of 64 bytes that take bytes of uncorrectable LPDDR5X words. -/
def badDest (s : State) (a d n : Nat) : List Nat :=
  ((touched a n).filter (fun w => tget boolD s.memUe w)).flatMap (fun w =>
    rangeFrom ((d + (max (8 * w) a - a)) / 64 * 8) 8)

/-- One row moved. -/
def moveRow (x : StashXfer) (s0 s : State) (i : Nat) : State :=
  writeEnd s x.dst (endAt x.dst + i * x.dstPitch) (readEnd s0 x.src (endAt x.src + i * x.srcPitch) x.rowBytes)

/-- The destination lines of a row that take uncorrectable LPDDR5X words poisoned. -/
def poisonRow (x : StashXfer) (s0 s : State) (i : Nat) : State :=
  poisonWords s (badDest s0 (endAt x.src + i * x.srcPitch) (endAt x.dst + i * x.dstPitch) x.rowBytes)

/-- The 64 bytes of the header of a halo slot: the producing tile with its generation tag, SEQ, FIRST and LINES
(spec/10_convolution.md R346). -/
def haloHeader (s : State) (t : Nat) (h : HaloHdr) : List Byte :=
  padTo 64 (leBytes 4 h.seq ++ leBytes 2 h.first ++ leBytes 2 h.lines ++ leBytes 1 (pageGen s (tilePage t)) ++ leBytes 1 t)

/-- Every row of a transfer moved; then the lines poisoned that took uncorrectable words; and of a halo copy the header, last
(spec/10_convolution.md R347). -/
def moveAll (s : State) (t : Nat) (x : StashXfer) : State :=
  let s1 := (List.range x.rows).foldl (moveRow x s) s
  let s2 := if isMem x.src then (List.range x.rows).foldl (poisonRow x s) s1 else s1
  match x.hdr with
  | some h => writeEnd s2 x.dst (endAt x.dst - endOff x.dst + h.at_) (haloHeader s t h)
  | none => s2

/-- The oldest transfer in flight completes with a status. -/
def finishStash (s : State) (t : Nat) (c : TileCmd) (x : StashXfer) (st : Nat) : State :=
  let s1 := updTile s t (fun y => { y with flight := y.flight.tail })
  finishCmd (bumpN s1 (TT_STASH_LINES t) ((x.rows * x.rowBytes + 63) / 64)) t 2 c st

/-- STASH_DONE: the oldest transfer in flight has moved every byte, and signals (R313, R314). `late`: it is the response of one from
before the tile's reset (spec/16_hang_recovery.md R493). -/
def execStashDone (t : Nat) (late : Bool) (now : Nat) (s0 : State) : Out :=
  let s := advance s0 now
  if late then .next (lateReply s t 2)
  else if s.pwr.pause.isSome then .next s
  else
    match (tileOf s t).flight with
    | [] => .next s
    | c :: _ =>
      match c.work with
      | .stash x =>
        let spans := srcSpans x
        if !isMem x.src && (badSpan s spans).isSome then
          match badSpan s spans with
          | some e => .next (finishStash (sramUe s (firstBad s.poison e.1 e.2)) t c { x with rows := 0 } stSramUe)
          | none => .next s
        else
          let bad := isMem x.src && spans.any (fun e => memBad s e.1 e.2)
          let s1 := moveAll (if isMem x.src then s else correct s spans) t x
          if bad then
            let s2 := irq (bump (spans.foldl (fun u e => memUeLog u e.1 e.2) s1) (TT_STASH_FAULT_CNT t)) (tilePage t) 1
            .next (finishStash s2 t c x stMemUe)
          else .next (finishStash s1 t c x okSt)
      | _ => .next s

/-! ## Scrubbing (R309) -/

/-- Whether a place in the aperture is of the SRAMs of cluster c. -/
def ofCluster (c a : Nat) : Bool := let u := sramUnit a; if u < 128 then u / 8 == c else u == 128 + c

/-- Words with a bit flipped: a second flip of a word makes it uncorrectable. -/
def upset (s : State) (w : Nat) : State :=
  if tget boolD s.poison w then s
  else if tget boolD s.ce w then { s with ce := tset boolD s.ce w false, poison := tset boolD s.poison w true }
  else { s with ce := tset boolD s.ce w true }

/-- SRAM_SCRUB: once per CC_SCRUB.PERIOD_S every line of a cluster's SRAMs is read. `before` are the 8-byte words, by place in the
aperture, where a bit flipped since the last pass, once for each bit, `after` those where one flips after this pass has read them: the
pass corrects and counts the single-bit errors and records the words that are uncorrectable; the later flips stand until a read meets
them (R308). A pass does not read SRAM in a core clock pause (R324), nor of a cluster that is off. -/
def execSramScrub (c : Nat) (before after : List Nat) (now : Nat) (s0 : State) : Out :=
  let s := advance s0 now
  let last := tget natD s.scrubs c
  if !flag s (CC_SCRUB c) 31 || s.pwr.pause.isSome || unitState s (ccPage c) == stOff
      || decide (s.ft < last + fld s (CC_SCRUB c) 7 0 * 1000000000) then .next s
  else
    let words (l : List Nat) : List Nat := (l.filter (ofCluster c)).map (· / 8)
    let s1 := (words before).foldl upset { s with scrubs := tset natD s.scrubs c s.ft }
    let found := ((s1.ce.map (·.1)).filter (fun w => ofCluster c (8 * w))).foldl correctWord s1
    let s2 := ((s1.poison.map (·.1)).filter (fun w => ofCluster c (8 * w))).foldl (fun s w => sramUe s (8 * w)) found
    .next ((words after).foldl upset s2)

/-! ## Retention (R310) -/

/-- One step of the CRC-64 over a bit. -/
def crcBit (c : Nat) (b : Bool) : Nat :=
  let top := nbit c 63 != b
  let n := c * 2 % 18446744073709551616
  if top then n ^^^ 0x42F0E1EBA9EA3693 else n

/-- The CRC-64 over a byte, its most significant bit first (no reflection). -/
def crcByte (c : Nat) (x : Byte) : Nat :=
  [7, 6, 5, 4, 3, 2, 1, 0].foldl (fun c i => crcBit c (nbit x.toNat i)) c

/-- The CRC-64 of bytes: initial value 0, no final XOR. -/
def crc64 (bs : List Byte) : Nat := bs.foldl crcByte 0

/-- The bytes of bank b of a unit's SRAM, in ascending lines: tile t at t, cluster c at 128 + c (R305). -/
def bankBytes (s : State) (u b : Nat) : List Byte :=
  let (base, size) := if u < 128 then (tileAt u, tileSize) else (clusterAt (u - 128), clusterSize)
  (List.range (size / 1024)).flatMap (fun i => sramRead s (base + i * 1024 + b * 64) 64)

/-- The registers that hold REQ and the result of a unit. -/
def retCtrl (u : Nat) : Nat := if u < 128 then TT_RET_CTRL u else CC_RET_CTRL (u - 128)
def retStat (u : Nat) : Nat := if u < 128 then TT_RET_STATUS u else CC_RET_STATUS (u - 128)

/-- A unit's SRAM enters retention where it is asked for: the CRCs of its banks are kept; else its contents are lost. No
result stands from here on. -/
def retain (s0 : State) (u : Nat) (req : Bool) : State :=
  let s := wrN s0 (retStat u) 0
  if req then
    let x := tileOf s u
    setTile s u { x with crcs := (List.range 16).map (fun b => crc64 (bankBytes s u b)) }
  else sramLose s u

/-- RETENTION_VERIFY: the unit has left retention and is on again: the CRCs are computed again and compared; `flips` are bits of the
SRAM that did not hold (byte place, mask). -/
def execRetentionVerify (u : Nat) (flips : List (Nat × Nat)) (s : State) : Out :=
  let x := tileOf s u
  if x.crcs.isEmpty || unitState s (if u < 128 then tilePage u else ccPage (u - 128)) == stOff then .next s
  else
    let mine := flips.filter (fun e => decide (sramUnit e.1 = u))
    let s1 := mine.foldl (fun s e =>
      { s with sram := tset byte0 s.sram e.1 (tget byte0 s.sram e.1 ^^^ BitVec.ofNat 8 e.2) }) s
    let bad := (List.range 16).filter (fun b => decide (crc64 (bankBytes s1 u b) ≠ at0 x.crcs b))
    let mask : Nat := bad.foldl (fun n b => n + 2 ^ b) 0
    let s2 := setTile s1 u { x with crcs := [] }
    let s3 := wrN s2 (retStat u) (mask * 65536 + (if mask = 0 then 1 else 2))
    .next (if mask = 0 ∨ 128 ≤ u then s3 else irq s3 (tilePage u) 2)

/-- TILE_SLEEP: the binder puts an unbound tile to sleep, or wakes it: its generation advances, and it takes no work until
the binder binds it again (R509). -/
def execTileSleep (t : Nat) (sleep : Bool) (s : State) : Out :=
  let x := tileOf s t
  if sleep then
    if x.asleep || s.jobs.any (fun j => j.plan.tiles.contains t) || unitState s (tilePage t) != stReady || tileBusy s t then .next s
    else
      let s1 := retain s t (flag s (TT_RET_CTRL t) 0)
      .next (setUnitState (updTile s1 t (fun x => { x with asleep := true })) (tilePage t) stOff)
  else if x.asleep then
    let s1 := setAwaiting (updTile s t (fun x => { x with asleep := false })) t true
    .next (setUnitState (advGen s1 (tilePage t)) (tilePage t) stReady)
  else .next s

end Sys2Proof.Machine
end

