-- ==== Sys2Proof/Machine/Modes.lean ====
section
/-!
DEFINITION. Operating modes (spec/01_architecture.md R28 to R40): requests, the mode cairn, the core clock pause, BIVOUAC, and the power-up
of the clusters (spec/19_package_power.md R590).
-/
namespace Sys2Proof.Machine
open Sys2Proof

def pgGlb : Nat := 0x0000
def rsnHost : Nat := 1
def rsnLegacy : Nat := 4
def rsnBusy : Nat := 5
/-- The log's reason of a crux beyond its limit (R418); the spec gives the name and no code. -/
def rsnCrux : Nat := 0x418

/-! ## Requests (R34, R37) -/

/-- Whether any context holds an accepted command that has not completed. -/
def anyCommand (s : State) : Bool := s.ctxs.any (fun e => !e.2.cmds.isEmpty)

/-- Whether a TK-3 legacy port feeds a running job (R28). -/
def legacyFeeds (s : State) : Bool :=
  (List.range 32).any (fun p => isLegacy s p && portOn s p && s.jobs.any (fun j => running j && jobPort s j p))

/-- The reason for which a mode is refused now (R37). -/
def modeRefusal (s : State) (m : Nat) : Option Nat :=
  if m = modeBivouac ∧ anyCommand s then some rsnBusy
  else if m = modeBelay ∧ legacyFeeds s then some rsnLegacy
  else none

/-- The running cores that have a step open. -/
def steppingCores (s : State) : List Nat := (s.nc.filter (fun e => ncRuns s e.1 && e.2.b.isSome)).map (·.1)

/-- A request is refused (R37): PEND clears and REASON says why. -/
def refuseMode (s : State) (reason : Nat) : State :=
  retarget (addLog (setFld (setFlag s GLB_MODE_STAT 3 false) GLB_MODE_STAT 15 8 reason) .mode (mode s) (mode s) reason)

/-- A request taken: a refusal at the first check, or a request that waits for its cairn. -/
def takeRequest (s : State) (m : Nat) : State :=
  match modeRefusal s m with
  | some r => refuseMode s r
  | none =>
    let s1 := if modeWaits s then s else startWatch s
    retarget (setFlag (setFld s1 GLB_MODE_STAT 6 4 m) GLB_MODE_STAT 3 true)

/-- A write of GLB_MODE_REQ that passes its checks. -/
def modeReq (s : State) (w : Who) (v : Word) : State :=
  let m := bits v 2 0
  if 4 < m then wErr s w GLB_MODE_REQ errReservedEnc
  else
    let s1 := setFld s GLB_MODE_REQ 2 0 m
    if flag s1 GLB_MODE_STAT 3 then
      if fld s1 GLB_MODE_STAT 6 4 = m then s1
      else
        let s2 := bump s1 GLB_MODE_REPLACED_CNT
        if m = mode s2 then retarget (setFlag s2 GLB_MODE_STAT 3 false) else takeRequest s2 m
    else if m = mode s1 then s1 else takeRequest s1 m

/-- MODE_REQ. -/
def execModeReq (w : Who) (v : Word) (s : State) : Out := .next (guardW s w 4 GLB_MODE_REQ (fun t => modeReq t w v))

/-! ## BIVOUAC (R32, R107, R181, R310, R324) -/

/-- The pages of cluster c's units: the controller, its tiles, its cores. -/
def clusterPages (c : Nat) : List Nat :=
  ccPage c :: ((rangeFrom (8 * c) 8).map tilePage ++ (rangeFrom (32 * c) 32).map ncPage)

/-- A neuron core ends its run: disabled, its stream ended. -/
def coreOff (s : State) (n : Nat) : State :=
  let c := PAGE_CTRL (ncPage n)
  let s1 := if flag s c 0 then ncStop s n else s
  setDisPend (setFlag s1 c 0 false) c false

/-- A cluster goes off: its cores stop, its queues empty, its SRAM is retained where asked for, its pages are OFF. -/
def clusterOff (s : State) (c : Nat) : State :=
  let s1 := (rangeFrom (32 * c) 32).foldl coreOff s
  let s2 := (rangeFrom (8 * c) 8).foldl (fun s t =>
    dropSlots (tileClear (if (tileOf s t).asleep then s else retain s t (flag s (TT_RET_CTRL t) 0)) t) t) s1
  let s3 := retain s2 (128 + c) (flag s2 (CC_RET_CTRL c) 0)
  (clusterPages c).foldl (fun s pg => setUnitState s pg stOff) s3

/-- Entry to BIVOUAC. -/
def bivouacEnter (s : State) : State :=
  let s1 := (List.range 16).foldl drainFan ((List.range 16).foldl clusterOff s)
  let s2 := motBivouac (ingestDiscard s1) true
  wrN (wrN { s2 with spikeQ := [] } GLB_CLUSTER_UP 0) GLB_MEMCH_UP 0

/-- Exit from BIVOUAC at a cairn (R32, R70, R379, R492, R509): every unit awaits rebinding, the partitions' tags advance,
and the clusters power up in turn. A verdict whose deadline fell into BIVOUAC is never produced (R403). -/
def bivouacExit (s : State) (ft : Nat) : State :=
  let s1 := { s with awaiting := (List.range 640).map (fun u => (u, true)) }
  let s2 := (List.range 8).foldl (fun s p => setFld s (REC_PART_GEN p) 7 0 (partGen s p + 1)) s1
  let s3 := motBivouac (fusBivouacExit (setFld (leanStart s2) APX_LEAN_OVR 5 4 0) ft) false
  let s4 := setPend s3 (s3.out.pend.filter (fun p => match p.dl with | some d => decide (ft < d) | none => true))
  updPwr s4 (fun p => { p with upNext := some (0, ft), booting := false })

/-! ## The change (R29 to R33, R40) -/

/-- VB of a mode in ns (spec/12_verdicts_corrections.md R385). -/
def vbOf (m : Nat) : Nat := if m = modeValley then 1400000 else 1000000

/-- The crux bound of a job in a mode, and whether it is beyond its limit (R416, R418). -/
def cruxOver (j : JobSt) (m : Nat) : Bool :=
  let i := if m = modeSummit then 0 else if m = modeRidge then 1 else if m = modeValley then 2 else 3
  decide ((if m = modeBelay then j.plan.deadline else vbOf m) < at0 j.plan.crux (2 * i + 1))

/-- Whether the rail allows a mode: settled where the voltage rises, and reached where the regulator does not answer
(R30, R584, R585). -/
def railAllows (s : State) (m : Nat) : Bool :=
  let v := vTarget s m (settingFor s m)
  (decide (v ≤ vTarget s (mode s) (leanCur s)) || railAt s v) && !(s.pwr.noAnswer && decide (v ≠ vTgt s))

/-- Whether a step of the lean policy toward LEAN0 waits for its cairn (R361). -/
def stepWaits (s : State) : Bool :=
  leanPend s && decide (rankOf (leanPendSet s) < rankOf (leanCur s)) && (s.lean.why == rsMismatch || s.lean.why == rsCeil)

/-- The hold rank after a mode change, where a lean step waits: the step acts on the setting that the mode change leaves (R40). -/
def holdAfter (s : State) (m : Nat) : State :=
  let h := min (leanH s) (min (topRank m) (rankOf (leanCur s)) - 1)
  if !stepWaits s || h == leanH s then s
  else leanLog (setFld s APX_LEAN_STAT 20 18 h) (leanH s) h s.lean.why

/-- The setting that a mode change takes (R31): of a waiting lean step, the one before that step. -/
def modeSetting (s : State) (m : Nat) : Nat :=
  if stepWaits s then settingAt m (min (topRank m) (rankOf (leanCur s))) else settingFor s m

/-- A lean change that is ready takes effect at the cairn of this moment (R40, R361). -/
def applyLean (s : State) : State :=
  if leanReady s then retarget (takeSetting (insertCairn s rsnLean) (leanPendSet s) s.lean.why) else s

/-- A mode comes into force at its own cairn, with the setting that it allows (R31), in the order of R40. -/
def applyMode (s0 : State) (m reason : Nat) : State :=
  let s := outDue s0
  let old := mode s
  let s1 := setFld (setFld (setFld s GLB_MODE_STAT 2 0 m) GLB_MODE_STAT 31 16 (fld s GLB_MODE_STAT 31 16 + 1))
    GLB_MODE_STAT 15 8 reason
  let s2 := if flag s1 GLB_MODE_STAT 3 && fld s1 GLB_MODE_STAT 6 4 == m then setFlag s1 GLB_MODE_STAT 3 false else s1
  let s3 := addLog s2 .mode old m reason
  let st := modeSetting s3 m
  let s4 := insertCairn s3 (rsnMode + (if st = leanCur s3 then 0 else rsnLean))
  let why := if leanPend s4 && !stepWaits s4 && decide (rankOf (leanCur s4) ≤ topRank m) then s4.lean.why else rsMode
  let step := stepWaits s4
  let s5 : State := takeSetting (holdAfter s4 m) st why
  let s5 : State := if step then applyLean (leanDecide s5 s4.lean.why) else s5
  let s5 : State := { s5 with nc := s5.nc.map (fun e => (e.1, if s5.pwr.watch.contains e.1 then { e.2 with belay := m == modeBelay } else e.2)) }
  let s6 := (s5.jobs.filter (fun j => running j && cruxOver j m)).foldl (fun s j => addLog s .job j.handle m rsnCrux) s5
  let s7 := if m = modeBivouac then bivouacEnter s6
    else if old = modeBivouac then bivouacExit s6 (lastCairnFt s6)
    else if modeMHz old ≠ modeMHz m then updPwr s6 (fun p => { p with pause := some s6.ft })
    else s6
  retarget (startWatch s7)

/-- Whether every running core is held at a step boundary (R29). -/
def atBoundary (s : State) : Bool := (steppingCores s).all (fun n => s.pwr.watch.contains n)

/-- The mode change that would take effect now, with its reason; an automatic one goes first (R33). -/
def modeDue (s : State) : Option (Nat × Nat) :=
  (match s.pwr.auto with
    | some e => some e
    | none => if flag s GLB_MODE_STAT 3 then some (fld s GLB_MODE_STAT 6 4, rsnHost) else none).filter
    (fun e => atBoundary s && s.pwr.pause.isNone && railAllows s e.1)

/-- Whether the second check of R37 refuses a change: one that the host asked for. -/
def refusedNow (s : State) (m : Nat) : Option Nat := if s.pwr.auto.isSome then none else modeRefusal s m

/-- MODE_CHANGE_CAIRN: the moment of the dedicated cairn, with the second check of R37; a lean change that is ready shares the
cairn (R40). -/
def execModeChangeCairn (now : Nat) (s0 : State) : Out :=
  let s := countLate (advance s0 now)
  match modeDue s with
  | none => .next s
  | some (m, r) =>
    match refusedNow s m with
    | some c => .next (refuseMode s c)
    | none => .next (applyLean (applyMode (updPwr s (fun p => { p with auto := none })) m r))

/-- LEAN_CHANGE: the LEAN cairn of a pending change (R361); where a mode change falls due at the same moment, it goes first (R40). -/
def execLeanChange (now : Nat) (s0 : State) : Out :=
  let s := countLate (advance s0 now)
  .next (if (modeDue s).isSome then s else applyLean s)

/-- The writes to SRAM that waited for the end of the pause (spec/09_tensor_tiles.md R324). -/
def applyHeld (s : State) : State := s.held.foldl (fun t e => sramWrite t e.1 e.2) { s with held := [] }

/-- CORE_CLOCK_PAUSE_END: compute resumes, and nothing that waited is charged with the pause (R30, R279, R444). -/
def execCoreClockPauseEnd (now : Nat) (s0 : State) : Out :=
  let s := advance s0 now
  match s.pwr.pause with
  | none => .next s
  | some t =>
    let n := min 8000 (s.ft - t)
    let later (q : QueueSt) : QueueSt := { q with since := q.since.map (· + n), head := q.head.map (· + n) }
    .next { updPwr (applyHeld s) (fun p => { p with pause := none }) with
      nc := s.nc.map (fun e => (e.1, if e.2.b.isSome then { e.2 with shift := e.2.shift + n } else e.2))
      tiles := s.tiles.map (fun e => (e.1, { e.2 with tq := later e.2.tq, vq := later e.2.vq, sq := later e.2.sq }))
      ctxs := s.ctxs.map (fun e => (e.1, { e.2 with cmds := e.2.cmds.map (fun k =>
        if k.since.isSome then { k with paused := k.paused + n } else k) }))
      slots := s.slots.map (fun e => (e.1, { e.2 with waitFt := e.2.waitFt.map (· + n) })) }

/-! ## Power-up of the clusters (R32, R309, R590) -/

/-- A unit's page comes up: after BIVOUAC its generation advances (R32, R70), that of a sleeping tile too, which stays off. -/
def unitUp (s : State) (pg : Nat) : State :=
  let s1 := if s.pwr.booting then s else advGen s pg
  setUnitState s1 pg stReady

/-- A cluster is up: at boot its SRAM is zeroed first. -/
def clusterUp (s : State) (c : Nat) : State :=
  let s1 := if s.pwr.booting then (rangeFrom (8 * c) 8).foldl sramZero (sramZero s (128 + c)) else s
  let s2 := setFlag s1 GLB_CLUSTER_UP c true
  let s3 := unitUp s2 (ccPage c)
  let s4 := (rangeFrom (8 * c) 8).foldl (fun s t =>
    if !(tileOf s t).asleep then unitUp s (tilePage t) else if s.pwr.booting then s else advGen s (tilePage t)) s3
  (rangeFrom (32 * c) 32).foldl (fun s n => unitUp s (ncPage n)) s4

/-- The LPDDR5X channels that have left self-refresh d ns after the exit: four waves, 100 µs apart. -/
def memWaves (d : Nat) : Nat := 2 ^ (8 * min 4 (d / 100000 + 1)) - 1

/-- The next cluster of the sequence is up 10 µs after its start, and the one after it starts 25 µs later. -/
def nextCluster (s : State) (c t : Nat) : State :=
  let s1 := clusterUp s c
  let s2 := if s.pwr.booting then s1 else wrN s1 GLB_MEMCH_UP (memWaves (25000 * c + 10000))
  updPwr s2 (fun p => { p with upNext := if c < 15 then some (c + 1, t + 25000) else none })

/-! ## Registers (R38) -/

/-- A write of GLB_MODE_LIMIT: TJ_C no higher than the value of R607 for the ordering code. -/
def limitWrite (s : State) (w : Who) (v : Word) : State :=
  if !gradeX s && decide (95 < bits v 15 8) then
    wErr (plainWrite s w GLB_MODE_LIMIT (putBits v 15 8 (fld s GLB_MODE_LIMIT 15 8))) w GLB_MODE_LIMIT errReservedEnc
  else plainWrite s w GLB_MODE_LIMIT v

end Sys2Proof.Machine
end

