-- ==== Sys2Proof/Machine/Ladder.lean ====
section
/-!
DEFINITION. The triggers of the recovery ladder (spec/16_hang_recovery.md R501, R513, R514) and what charges a unit for a
budget that has run out (R497).
-/
namespace Sys2Proof.Machine
open Sys2Proof

/-! ## Targets and causes (R513, R514) -/

def tgCtx : Nat := 1
def tgTile : Nat := 2
def tgCore : Nat := 3
def tgPart : Nat := 4
def tgChip : Nat := 5
def tgHelper : Nat := 6

/-- A target's code. -/
def tgt (kind i : Nat) : Nat := kind * 0x10000000 + i
def tgtKind (t : Nat) : Nat := t / 0x10000000
def tgtIdx (t : Nat) : Nat := t % 0x10000000

def csBudget : Nat := 0x01
def csHostReq : Nat := 0x02
def csAbort : Nat := 0x03
def csEscalated : Nat := 0x04
def csRepeat : Nat := 0x05
def csUnitError : Nat := 0x06
def csHelperWdt : Nat := 0x07
def csWardenWdt : Nat := 0x08

/-- The cluster of a tile or a neuron core target. -/
def tgtCluster (t : Nat) : Nat := if tgtKind t = tgTile then tgtIdx t / 8 else tgtIdx t / 32

/-- Whether a target is a tile or a neuron core. -/
def isUnit (t : Nat) : Bool := tgtKind t == tgTile || tgtKind t == tgCore

/-- Whether target u lies inside target t. -/
def insideTgt (s : State) (u t : Nat) : Bool :=
  u == t
    || (tgtKind t == tgChip && (isUnit u || tgtKind u == tgPart))
    || (tgtKind t == tgPart && isUnit u && decide (partOf s (tgtCluster u) = some (tgtIdx t)))

/-! ## The queue of triggers (R501) -/

def updLad (s : State) (f : LadSt → LadSt) : State := { s with ladder := f s.ladder }

/-- Whether trigger x goes before trigger y: by FT, ties in ascending target. -/
def trigBefore (x y : Trigger) : Bool := decide (x.ft < y.ft) || (x.ft == y.ft && decide (x.target < y.target))

/-- A trigger put in its place. -/
def insertTrig (x : Trigger) : List Trigger → List Trigger
  | [] => [x]
  | y :: t => if trigBefore x y then x :: y :: t else y :: insertTrig x t

/-- Whether a running or queued trigger y covers x: y's target contains x's, and y's step is no lower. -/
def covers (s : State) (x y : Trigger) : Bool := insideTgt s x.target y.target && decide (x.step ≤ y.step)

/-- The RESET commands of an absorbed trigger end with the step that absorbs it. -/
def joinCmds (s : State) (x : Trigger) (y : Trigger) : Trigger :=
  if covers s x y then { y with cmds := y.cmds ++ x.cmds } else y

/-- The first covering trigger of a list takes the commands of x. -/
def joinFirst (s : State) (x : Trigger) : List Trigger → List Trigger
  | [] => []
  | y :: t => if covers s x y then { y with cmds := y.cmds ++ x.cmds } :: t else y :: joinFirst s x t

/-- REC_STATE.QUEUED follows the queue. -/
def showQueue (s : State) : State := setFld s REC_STATE 21 16 (min 32 s.triggers.length)

/-- A trigger is absorbed where the running step or a queued trigger covers it (a queued step that is higher and contains its
target covers it too); it is queued otherwise, and a 33rd one is not: a RESET completes with ERR_REC_BUSY, another is
absorbed. -/
def trigger (s : State) (x : Trigger) : State :=
  match s.ladder.cur with
  | some y =>
    if covers s x y then updLad (bump s REC_ABSORB_CNT) (fun l => { l with cur := some (joinCmds s x y) })
    else if s.triggers.any (covers s x) then { bump s REC_ABSORB_CNT with triggers := joinFirst s x s.triggers }
    else if 32 ≤ s.triggers.length then
      (if x.cmds.isEmpty then bump s REC_ABSORB_CNT else x.cmds.foldl (fun t e => setStatus t e.1 e.2 0x0504 0xFF) s)
    else showQueue { s with triggers := insertTrig x s.triggers }
  | none =>
    if s.triggers.any (covers s x) then { bump s REC_ABSORB_CNT with triggers := joinFirst s x s.triggers }
    else if 32 ≤ s.triggers.length then
      (if x.cmds.isEmpty then bump s REC_ABSORB_CNT else x.cmds.foldl (fun t e => setStatus t e.1 e.2 0x0504 0xFF) s)
    else showQueue { s with triggers := insertTrig x s.triggers }

/-- A trigger that the device makes itself. -/
def autoTrigger (s : State) (step target cause ctx num : Nat) : State :=
  trigger s { step := step, target := target, cause := cause, ft := s.ft, ctx := ctx, cmdSeq := num, blame := false }

/-! ## Charging (R497, R315, R349) -/

/-- Whether HANG_MODE is COMMAND (R496). -/
def hangCommand (s : State) : Bool := !flag s REC_CFG 28

/-- The tile command that a reference names, and whether it runs: the started head of its queue, or a transfer in flight. -/
def tileCmdOf (s : State) (t q n : Nat) : Option (TileCmd × Bool) :=
  let x := queueOf (tileOf s t) q
  match (tileOf s t).flight.find? (fun c => q == 2 && cmdNum c == n) with
  | some c => some (c, true)
  | none =>
    match x.cmds.find? (fun c => cmdNum c == n) with
    | some c => some (c, x.started && decide ((x.cmds.head?.map cmdNum) = some n))
    | none => none

/-- What charge() asks of an accepted command: its waits, its signal anchor, whether it runs, and the target that stands for
the unit that executes it. -/
structure Charged where
  waits : List (Nat × Nat)
  sig : Option Nat
  runs : Bool
  unit : Nat
  ctx : Nat
  num : Nat
  deriving DecidableEq, Repr

/-- The context that bound a job. -/
def jobCtx (s : State) (h : Nat) : Nat := match jobOf s h with | some j => j.ctx | none => 0xFFFFFFFF

/-- The head of a queue. -/
def headCmd (s : State) (t q : Nat) : Option TileCmd := (queueOf (tileOf s t) q).cmds.head?

def chargedOf (s : State) : CmdRef → Option Charged
  | .host c q => (cmdOf s c q).map (fun k =>
      { waits := hostWaits k, sig := (sigOf (at0 k.words 1)).map (·.1), runs := k.started, unit := tgt tgCtx c, ctx := c
        num := q % 4294967296 })
  | .tile t q n => (tileCmdOf s t q n).map (fun e =>
      { waits := if (headCmd s t q).map cmdNum = some n then queueWaits (queueOf (tileOf s t) q) else cmdWaits e.1, sig := (cmdSig e.1).map (·.1), runs := e.2, unit := tgt tgTile t, ctx := jobCtx s e.1.job, num := n })

/-- The oldest accepted, unfinished command that signals an anchor. -/
def owes (s : State) (a : Nat) : Option CmdRef :=
  s.accepted.find? (fun r => match chargedOf s r with | some x => decide (x.sig = some a) | none => false)

/-- charge(): the command whose unit answers for the missing work; `n` bounds the commands visited at 64. -/
def charge (s : State) : Nat → CmdRef → List CmdRef → Option CmdRef
  | 0, r, _ => some r
  | n + 1, r, seen =>
    match chargedOf s r with
    | none => none
    | some x =>
      if seen.contains r || x.runs then some r
      else
        match ((x.waits.filter (fun w => !waitDone s w)).filterMap (fun w => owes s w.1)).head? with
        | some p => charge s n p (r :: seen)
        | none => none

/-- What follows from charging a command whose budget ran out: the trigger of E2 or E1; none where no command owes it. -/
def chargeStep (s : State) (r : CmdRef) : Option State :=
  match charge s 64 r [] with
  | none => none
  | some p =>
    match chargedOf s p with
    | none => none
    | some x => some (autoTrigger s (if tgtKind x.unit = tgCtx then 1 else 2) x.unit csBudget x.ctx x.num)

end Sys2Proof.Machine
end

