-- ==== Sys2Proof/Machine/Host.lean ====
section
/-!
DEFINITION. The host interface (spec/14_host_interface.md): windows and contexts, submission, the checks at a command's start,
its end and its budget, the simple command types, and the PCI Express events.
-/
namespace Sys2Proof.Machine
open Sys2Proof

def pgHif : Nat := 0x10000

/-! ## Functions and windows (R429, R432) -/

/-- The class of the owner of a context. -/
def funcClass (f : Nat) : PortClass :=
  if f = 0 then .owner else if f = 1 then .operator else if f = 0xFF then .fabric else .tenant

/-- The contexts of a virtual function, in ascending order. -/
def vfCtxs (s : State) (f : Nat) : List Nat := (s.ctxs.filter (fun e => e.2.func == f)).map (·.1)

def isVf (f : Nat) : Bool := decide (2 ≤ f) && decide (f < 66)

/-- The context that a function's window access at a BAR2 offset reaches, where the function owns it. -/
def winCtx (s : State) (fn off : Nat) : Option Nat :=
  let n := off / 0x10000
  if fn < 2 then (if n < 1024 ∧ (ctxOf s n).func = fn then some n else none)
  else if isVf fn ∧ n < 16 then (vfCtxs s fn)[n]? else none

/-- An access to a window of another function. -/
def winDenied (s : State) : State := irq (bump s HIF_WIN_DENIED_CNT) pgHif 1

/-- HIF_CTX_OWN.SLOT of a context. -/
def winSlot (s : State) (c : Nat) : Nat :=
  let f := (ctxOf s c).func
  if isVf f then (vfCtxs s f).findIdx (fun n => n == c) else 0

/-- HIF_W_STATUS. -/
def wStatus (s : State) (c : Nat) : Nat :=
  let x := ctxOf s c
  x.cgen * 0x1000000 + ctxState s c * 0x100000 + min 512 x.cmds.length

/-- What a computed register of a window reads as. -/
def winLive (s : State) (c a : Nat) : Option Nat :=
  if a = HIF_W_STATUS c then some (wStatus s c)
  else if a = HIF_W_HELD c then some (min 64 (ctxOf s c).held.length)
  else none

/-! ## Submission (R437 to R439) -/

/-- A command put in SEQ order behind NEXT_SEQ. -/
def insertCmd (nxt : Nat) (k : CmdSt) : List CmdSt → List CmdSt
  | [] => [k]
  | j :: t =>
    if j.started || decide ((j.seq + 4294967296 - nxt) % 4294967296 ≤ (k.seq + 4294967296 - nxt) % 4294967296) then
      j :: insertCmd nxt k t
    else k :: j :: t

/-- Whether a context accepts a descriptor for a slot. -/
def accepts (s : State) (c slot seq : Nat) : Bool :=
  ctxLive s c
    && decide ((seq + 4294967296 - rdN s (HIF_W_NEXT_SEQ c)) % 4294967296 < 512)
    && seq % 512 == slot
    && !(ctxOf s c).cmds.any (fun k => !k.started && k.seq % 512 == slot)

/-- A submission refused: it is counted and leaves no record. -/
def refuseSubmit (s : State) (c : Nat) : State :=
  irq (bump (bump s (HIF_W_REFUSE_CNT c)) HIF_SEQ_ERR_CNT) pgHif 0

/-- A descriptor submitted: accepted as the device's own copy, or refused. -/
def submit (s : State) (c slot : Nat) (bs : List Byte) : State :=
  let ws := wordsOf 16 bs
  let q := at0 ws 14
  if accepts s c slot q then
    let s1 := updCtx s c (fun x => { x with cmds := insertCmd (rdN s (HIF_W_NEXT_SEQ c)) { seq := q, words := ws } x.cmds
                                            recent := keep 16 (ws :: x.recent) })
    markStartable (accept s1 (.host c q)) c
  else refuseSubmit s c

/-- DESCRIPTOR_SUBMIT: a write of at most 64 bytes within one slot of a window. It is stored in ascending address; where it
covers byte 63 with VALID = 1, the descriptor that the slot then holds is submitted (R435, R438). -/
def execDescriptorSubmit (fn off : Nat) (bs : List Byte) (s : State) : Out :=
  match winCtx s fn off with
  | none => .next (winDenied s)
  | some c =>
    let o := off % 0x10000
    if o < 0x8000 ∧ 0 < bs.length ∧ o % 64 + bs.length ≤ 64 then
      let s1 := descWrite s (c * 32768 + o) bs
      let d := descRead s1 (c * 32768 + o / 64 * 64) 64
      if o % 64 + bs.length = 64 ∧ nbit (ofLe (d.drop 60)) 31 then .next (submit s1 c (o / 64) d) else .next s1
    else .next s

/-! ## Command types (R440, spec/17_boot_update.md R553, spec/16_hang_recovery.md R518) -/

/-- A row of the tables of types: the classes, the lengths that a payload may have (none: no payload), the PAY_DEV that the type
takes (none: either), the mask of TOPT bits with a meaning, and the highest ARG. -/
structure CmdType where
  classes : List PortClass
  len : Option (Nat × Nat)
  dev : Option Bool
  topt : Nat
  arg : Nat
  deriving DecidableEq, Repr

def anyLen : Nat := 0xFFFFFFFF
def clAll : List PortClass := [.owner, .operator, .tenant, .fabric]
def clAdmin : List PortClass := [.owner, .fabric]
def clUpd : List PortClass := [.owner, .service, .fabric]

def cmdType (code : Nat) : Option CmdType :=
  if code = 0x01 then some ⟨clAll, none, none, 0, 0⟩
  else if code = 0x02 then some ⟨clAll, some (1, anyLen), some false, 1, anyLen⟩
  else if code = 0x03 then some ⟨clAll, some (1, anyLen), some true, 0, anyLen⟩
  else if code = 0x04 then some ⟨clAll, some (64, 64), none, 0, 0⟩
  else if code = 0x05 then some ⟨[.owner, .operator, .fabric], some (128, anyLen), none, 0, anyLen⟩
  else if code = 0x10 then some ⟨clAdmin, some (64, anyLen), none, 1, 0⟩
  else if code = 0x11 then some ⟨clAdmin, none, none, 1, anyLen⟩
  else if code = 0x12 then some ⟨clAdmin, some (8, 8), none, 0, anyLen⟩
  else if code = 0x13 then some ⟨clAdmin, some (16, 16), none, 0, 0⟩
  else if code = 0x14 then some ⟨clAdmin, none, none, 0, 7⟩
  else if code = 0x30 then some ⟨clUpd, some (16, 16), none, 1, 0⟩
  else if code = 0x31 then some ⟨clUpd, some (65536, 65536), none, 0, anyLen⟩
  else if code = 0x32 then some ⟨clUpd, none, none, 0, anyLen⟩
  else if code = 0x33 then some ⟨clUpd, none, none, 1, 1⟩
  else if code = 0x34 then some ⟨clUpd, none, none, 0, 0⟩
  else if code = 0x35 then some ⟨clUpd, none, none, 0, 0⟩
  else if code = 0x36 then some ⟨clUpd, some (1, 65536), none, 0, 0⟩
  else if code = 0x37 then some ⟨clUpd, some (128, 1048576), none, 0, 0⟩
  else if code = 0x38 then some ⟨clUpd, none, none, 0, 0⟩
  else if code = 0x40 then some ⟨clAdmin, none, none, 15, anyLen⟩
  else if code = 0x41 then some ⟨[.owner, .operator, .fabric], some (1, 33554432), none, 0, 7⟩
  else if code = 0x42 then some ⟨clAdmin, none, none, 0, 7⟩
  else if code = 0x43 then some ⟨clAdmin, none, none, 0, anyLen⟩
  else none

/-- The fields of a descriptor (R437). -/
def cmdCode (k : CmdSt) : Nat := nbits (at0 k.words 0) 31 24
def cmdDev (k : CmdSt) : Bool := nbit (at0 k.words 0) 23
def cmdTopt (k : CmdSt) : Nat := nbits (at0 k.words 0) 19 16
def cmdPay (k : CmdSt) : Nat := at0 k.words 10 + 4294967296 * at0 k.words 11
def cmdLen (k : CmdSt) : Nat := at0 k.words 12
def cmdArg (k : CmdSt) : Nat := at0 k.words 13

/-! ## The checks at the start (R442) -/

def stDenied : Nat := 0x0101
def stBudget : Nat := 0x0102
def stPayload : Nat := 0x0104
def stBivouac : Nat := 0x0107
def stNoJob : Nat := 0x0108
def stHang : Nat := 0x0500
def stAborted : Nat := 0x0501
def stWaitTimeout : Nat := 0x0502

/-- The memory window of a context in bytes, and whether a range lies in it. -/
def winBytes (x : CtxSt) : Nat := x.memSize * 65536
def inWindow (x : CtxSt) (off n : Nat) : Bool := decide (off + n ≤ winBytes x)

/-- Whether a descriptor holds a reserved bit or code. -/
def descReserved (x : CtxSt) (k : CmdSt) : Bool :=
  let w (i : Nat) : Nat := at0 k.words i
  nbit (w 0) 20 || nbit (w 1) 30 || [2, 4, 6, 8].any (fun i => nbit (w i) 30) || nbits (w 15) 30 16 != 0
    || (nbit (w 1) 31 && nbits (w 1) 15 0 == 0)
    || (isMgmt x && !cmdDev k)
    || match cmdType (cmdCode k) with
       | none => true
       | some t =>
         (cmdTopt k &&& (15 - t.topt)) != 0 || decide (t.arg < cmdArg k)
           || (t.len.isNone && (cmdPay k != 0 || cmdLen k != 0))
           || (match t.dev with | some d => cmdDev k != d | none => false)

/-- Whether a payload's length, or the place of a FILL, is one that its type does not allow. -/
def lenBad (t : CmdType) (k : CmdSt) : Bool :=
  match t.len with
  | none => false
  | some (lo, hi) =>
    decide (cmdLen k < lo) || decide (hi < cmdLen k)
      || (cmdCode k == 0x03 && (cmdLen k % 8 != 0 || cmdPay k % 8 != 0))

/-- Whether a device offset or length of a descriptor leaves the memory window. -/
def rangeBad (x : CtxSt) (t : CmdType) (k : CmdSt) : Bool :=
  (t.len.isSome && cmdDev k && !inWindow x (cmdPay k) (cmdLen k))
    || (cmdCode k == 0x02 && !inWindow x (cmdArg k * 4096) (cmdLen k))

/-- The status at which the checks stop a command, in their order; none where its type's own checks follow. -/
def startCheck (s : State) (c : Nat) (k : CmdSt) : Option Nat :=
  let x := ctxOf s c
  if releasedBad s k.met (hostWaits k) then some stAncFault
  else if descReserved x k then some stReserved
  else match cmdType (cmdCode k) with
    | none => some stReserved
    | some t =>
      if !t.classes.contains (funcClass x.func)
          || (match sigOf (at0 k.words 1) with | some (a, _) => !inAncRange x a | none => false) then some stDenied
      else if x.maxBudget < nbits (at0 k.words 0) 15 0 then some stBudget
      else if inBivouac s && cmdCode k != 0x01 && cmdCode k != 0x04 then some stBivouac
      else if t.len.isSome && cmdLen k == 0 then some emptySt
      else if lenBad t k then some stReserved
      else if rangeBad x t k then some stMemRange
      else none

/-! ## Starting -/

/-- The 64 bytes of a STAMP: FT, MP, PT0 to PT3, and the status of each in that order (R440). -/
def stampBytes (s : State) : List Byte :=
  let pt (n : Nat) := fromFt s (1 + n) s.ft
  let mpv := twos 32 s.mp.rev * 4294967296 + s.mp.angle
  let st := cOk + 4 * (if s.mp.valid then cOk else cNone) + 16 * (pt 0).1 + 64 * (pt 1).1 + 256 * (pt 2).1 + 1024 * (pt 3).1
  leBytes 8 s.ft ++ leBytes 8 mpv ++ leBytes 8 (pt 0).2 ++ leBytes 8 (pt 1).2 ++ leBytes 8 (pt 2).2 ++ leBytes 8 (pt 3).2
    ++ leBytes 2 st ++ leBytes 14 0

/-- The command of a context that starts now: startable, its waits done, its context live with less than 64 completions
held. -/
def readyCmd (s : State) (c : Nat) : Option CmdSt :=
  if ctxLive s c && decide ((ctxOf s c).held.length < 64) then
    (ctxOf s c).cmds.find? (fun k => k.since.isSome && startable s c k && (hostWaits k).all (waitDone s))
  else none

/-- Whether a type is one of the binder's (R420). -/
def isBinder (code : Nat) : Bool := decide (0x10 ≤ code) && decide (code ≤ 0x14)

/-- A command of the binder's that starts joins its queue, one in execution and 16 that wait; a further one completes with
ERR_BINDER_FULL (R420). -/
def joinBinder (s : State) (c q : Nat) : State :=
  if 17 ≤ s.binder.length then setStatus s c q 0x0308 0 else { s with binder := s.binder ++ [(c, q)] }

/-- A command starts: NEXT_SEQ moves past it, and the checks decide its status or let its type execute it. -/
def startCmd (s : State) (c : Nat) (k : CmdSt) : State :=
  let st := startCheck s c k
  let s1 := updCmd s c k.seq (fun j => { j with
    started := true, cgen := (ctxOf s c).cgen, status := st, snap := if cmdCode k = 0x04 then stampBytes s else [] })
  let s2 := if st.isNone && isBinder (cmdCode k) then joinBinder s1 c k.seq else s1
  markStartable (wrN s2 (HIF_W_NEXT_SEQ c) (k.seq + 1)) c

/-- COMMAND_START. -/
def execCommandStart (c now : Nat) (s0 : State) : Out :=
  let s := advance s0 now
  match readyCmd s c with
  | none => .next s
  | some k => .next (startCmd s c k)

/-! ## The end (R443, R447) -/

/-- A record whose write fails: the context enters ERROR. -/
def failRecord (s : State) (c : Nat) (k : CmdSt) (status : Nat) : State :=
  let (s1, _, _) := hostSignal s c k status
  let s2 := updCtx (unaccept s1 (.host c k.seq)) c (fun x =>
    { x with cmds := x.cmds.filter (fun j => j.seq != k.seq), error := true })
  let s3 := if status = stPayload then bump s2 HIF_DMA_ERR_CNT else s2
  irq (irq (bump s3 HIF_DMA_ERR_CNT) pgHif 2) pgHif 3

/-- The completion of a command that an E1 ended comes too late: its context's generation has changed, and it is counted and never written
(spec/16_hang_recovery.md R493). -/
def lateCompletion (s : State) (c q : Nat) : State :=
  if s.ladder.late.any (fun e => e.1 == c && e.2.1 == q) then
    bumpPulse { s with ladder := { s.ladder with late := s.ladder.late.filter (fun e => !(e.1 == c && e.2.1 == q)) } } REC_STALE_CNT 0x800000 5
  else s

/-- COMMAND_END: a command whose status is decided ends. `ok` is whether the host memory takes its record. -/
def execCommandEnd (c q : Nat) (ok : Bool) (now : Nat) (s0 : State) : Out :=
  let s := advance s0 now
  match cmdOf s c q with
  | none => .next (lateCompletion s c q)
  | some k =>
    match k.status with
    | none => .next s
    | some st =>
      let direct := !isMgmt (ctxOf s c) && !k.orphan && (ctxOf s c).held.isEmpty && ringRoom s c
      .next (markStartable (if direct && !ok then failRecord s c k st else endCmd s c k st) c)

/-! ## Budgets (R444, R497) -/

/-- The budget in force of a command of a context, in µs. -/
def budgetOf (x : CtxSt) (k : CmdSt) : Nat :=
  let b := nbits (at0 k.words 0) 15 0
  min (if b = 0 then x.defBudget else b) x.maxBudget

/-- The part of the present core clock pause that has passed, which no budget counts. -/
def pausedNow (s : State) : Nat := match s.pwr.pause with | some t => min 8000 (s.ft - t) | none => 0

/-- Whether a command of a context has outlasted its budget now. A recovery command that has started has none (R518). -/
def hostExpired (s : State) (c : Nat) (k : CmdSt) : Bool :=
  match k.since with
  | none => false
  | some t => !k.beyond && !k.orphan && !(k.started && decide (0x40 ≤ cmdCode k) && decide (cmdCode k ≤ 0x43))
      && decide (t + k.paused + pausedNow s + budgetOf (ctxOf s c) k * 1000 ≤ s.ft)

/-- The budget of a tile command in µs: its own, or that of the BIND it comes from (R445). -/
def tileBudget (s : State) (c : TileCmd) : Nat :=
  if cmdBudget c = 0 then (match jobOf s c.job with | some j => j.budget | none => 0) else cmdBudget c

/-- Whether the head of a queue has outlasted its budget now. -/
def tileExpired (s : State) (t q : Nat) (c : TileCmd) : Bool :=
  let x := queueOf (tileOf s t) q
  !x.beyond && decide (x.cmds.head?.map cmdNum = some (cmdNum c))
    && (match x.head with | some h => decide (h + tileBudget s c * 1000 + pausedNow s ≤ s.ft) | none => false)

/-- A command that no command owes its wait ends alone. -/
def waitTimeout (s : State) : CmdRef → State
  | .host c q =>
    match cmdOf s c q with
    | none => s
    | some k =>
      let s1 := if k.started then s else updCmd (wrN s (HIF_W_NEXT_SEQ c) (k.seq + 1)) c q (fun j =>
        { j with started := true, cgen := (ctxOf s c).cgen })
      match cmdOf s1 c q with
      | none => s1
      | some k => markStartable (endCmd (bump s1 REC_WAIT_TIMEOUT_CNT) c k stWaitTimeout) c
  | .tile t q n =>
    match tileCmdOf s t q n with
    | none => s
    | some (c, _) => popHead (finishCmd (bump s REC_WAIT_TIMEOUT_CNT) t q c stWaitTimeout) t q

/-- Under COMMAND the unit that owes the work is charged; under HOSTWD nothing further happens (R444, R496). -/
def chargeExpiry (s : State) (r : CmdRef) : State :=
  if hangCommand s then (match chargeStep s r with | some t => t | none => waitTimeout s r) else s

/-- The budget of an accepted command in µs. -/
def refBudget (s : State) : CmdRef → Nat
  | .host c q => match cmdOf s c q with | some k => budgetOf (ctxOf s c) k | none => 0
  | .tile t q n => match tileCmdOf s t q n with | some (c, _) => tileBudget s c | none => 0

/-- A builder's wait for a bank that outlasts the budget of the command which owes the release is charged to that command, once
(spec/07_event_fabric.md R244, spec/09_tensor_tiles.md R315). -/
def chargeStall (s : State) (t k : Nat) : State :=
  let x := slotOf s t k
  match owes s (slotWait s (8 * t + k, x)).1 with
  | none => s
  | some r =>
    if x.charged || !hangCommand s || decide (s.ft < x.waitFt.getD s.ft + refBudget s r * 1000 + pausedNow s) then s
    else
      let s1 := setSlot s t k { x with charged := true }
      (chargeStep s1 r).getD s1

/-- SB_STALL: a wait beyond 100 µs pulses once (spec/07_event_fabric.md R249), and one that outlasts the budget of the stage which
holds the bank is charged. -/
def execSbStall (t k now : Nat) (s0 : State) : Out :=
  let s := advance s0 now
  let x := slotOf s t k
  if x.ready || x.b.isNone || x.met || waitDone s (slotWait s (8 * t + k, x)) then .next s
  else
    let s1 := if x.stallPulsed || decide (s.ft ≤ x.waitFt.getD s.ft + 100000) then s
      else sbIrq (setSlot s t k { x with stallPulsed := true }) t k 1
    .next (chargeStall s1 t k)

/-- BUDGET_EXPIRY: a command outlasts its budget. -/
def execBudgetExpiry (r : CmdRef) (now : Nat) (s0 : State) : Out :=
  let s := advance s0 now
  match r with
  | .host c q =>
    match cmdOf s c q with
    | none => .next s
    | some k =>
      if hostExpired s c k then
        .next (chargeExpiry (bump (updCmd s c q (fun j => { j with beyond := true })) (HIF_W_OVER_BUDGET_CNT c)) r)
      else .next s
  | .tile t q n =>
    match tileCmdOf s t q n with
    | none => .next s
    | some (c, _) =>
      if tileExpired s t q c then .next (chargeExpiry (updQueue s t q (fun x => { x with beyond := true })) r) else .next s

/-! ## Payloads -/

/-- The started command of a context whose type still has to be executed. -/
def running1 (s : State) (c q ty : Nat) : Option CmdSt :=
  match cmdOf s c q with
  | some k => if k.started && k.status.isNone && cmdCode k == ty then some k else none
  | none => none

/-- The LPDDR5X address of an offset in a context's memory window (R434). -/
def winAddr (x : CtxSt) (off : Nat) : Nat := x.memBase * 65536 + off

/-- A payload as it is read: from LPDDR5X, or `host` from host memory (none: the access fails); or the status of its failure. -/
def payIn (s : State) (c : Nat) (k : CmdSt) (host : Option (List Byte)) : Sum Nat (List Byte) :=
  if cmdDev k then
    let a := winAddr (ctxOf s c) (cmdPay k)
    if memBad s a (cmdLen k) then .inl stMemUe else .inr (memRead s a (cmdLen k))
  else match host with
    | none => .inl stPayload
    | some bs => .inr (padTo (cmdLen k) bs)

/-- Bytes written to a payload area; `ok` is whether host memory takes them. -/
def payOut (s : State) (c : Nat) (k : CmdSt) (bs : List Byte) (ok : Bool) : Sum Nat State :=
  if cmdDev k then .inr (memWrite s (winAddr (ctxOf s c) (cmdPay k)) bs)
  else if ok then .inr (hostWrite s (cmdPay k) bs) else .inl stPayload

/-! ## NOP, COPY, FILL, STAMP, QUERY (R440) -/

/-- NOP. -/
def execNop (c q : Nat) (s : State) : Out :=
  match running1 s c q 0x01 with
  | none => .next s
  | some _ => .next (setStatus s c q okSt 0)

/-- The first n bytes of a COPY moved; `bs` is what host memory holds. -/
def copyBytes (s : State) (c : Nat) (k : CmdSt) (n : Nat) (bs : List Byte) : State :=
  let a := winAddr (ctxOf s c) (cmdArg k * 4096)
  if nbit (cmdTopt k) 0 then hostWrite s (cmdPay k) (memRead s a n) else memWrite s a (padTo n bs)

/-- COPY: `data` is what host memory holds, or for DIR = 1 whether it takes the bytes (none: the access fails). -/
def execCopy (c q : Nat) (data : Option (List Byte)) (s : State) : Out :=
  match running1 s c q 0x02 with
  | none => .next s
  | some k =>
    let a := winAddr (ctxOf s c) (cmdArg k * 4096)
    let n := cmdLen k
    if nbit (cmdTopt k) 0 then
      if memBad s a n then .next (setStatus s c q stMemUe 0)
      else match data with
        | none => .next (setStatus s c q stPayload 0)
        | some bs => .next (setStatus (copyBytes s c k n bs) c q okSt n)
    else match data with
      | none => .next (setStatus s c q stPayload 0)
      | some bs => .next (setStatus (copyBytes s c k n bs) c q okSt n)

/-- n bytes of a 32-bit pattern, repeated. -/
def patBytes (v n : Nat) : List Byte := (List.range n).map (fun i => BitVec.ofNat 8 (v / 256 ^ (i % 4)))

/-- The first n bytes of a FILL written. -/
def fillBytes (s : State) (c : Nat) (k : CmdSt) (n : Nat) : State :=
  memWrite s (winAddr (ctxOf s c) (cmdPay k)) (patBytes (cmdArg k) n)

/-- FILL. -/
def execFill (c q : Nat) (s : State) : Out :=
  match running1 s c q 0x03 with
  | none => .next s
  | some k =>
    .next (setStatus (fillBytes s c k (cmdLen k)) c q okSt (cmdLen k))

/-- STAMP: what the command caught at its start is written. -/
def execStamp (c q : Nat) (ok : Bool) (s : State) : Out :=
  match running1 s c q 0x04 with
  | none => .next s
  | some k =>
    match payOut s c k k.snap ok with
    | .inl st => .next (setStatus s c q st 0)
    | .inr s1 => .next (setStatus s1 c q okSt 0)

/-- A list of unit numbers as a bit mask. -/
def maskOf (l : List Nat) : Nat := (uniq l).foldl (fun n i => n + 2 ^ i) 0

/-- The bind report of a job (R416). -/
def bindReport (j : JobSt) : List Byte :=
  let path := j.plan.path.flatMap (leBytes 2)
  leBytes 4 j.handle ++ leBytes 1 j.part ++ leBytes 1 j.plan.pairs.length ++ leBytes 2 j.plan.path.length
    ++ leBytes 16 (maskOf j.plan.tiles) ++ leBytes 64 (maskOf j.plan.cores)
    ++ (List.range 8).flatMap (fun i => leBytes 4 (at0 j.plan.crux i)) ++ leBytes 8 0
    ++ j.plan.pairs.flatMap (fun p => (List.range 4).flatMap (fun i => leBytes 4 (at0 p.2.2 i)))
    ++ padTo ((path.length + 63) / 64 * 64) path

/-- QUERY. -/
def execQuery (c q : Nat) (ok : Bool) (s : State) : Out :=
  match running1 s c q 0x05 with
  | none => .next s
  | some k =>
    match (jobOf s (cmdArg k)).filter running with
    | none => .next (setStatus s c q stNoJob 0)
    | some j =>
      let bs := (bindReport j).take (cmdLen k)
      match payOut s c k bs ok with
      | .inl st => .next (setStatus s c q st 0)
      | .inr s1 => .next (setStatus s1 c q okSt bs.length)

/-! ## Ring registers (R436, R448) -/

/-- A write of HIF_W_CQ_CFG. -/
def cqCfgWrite (s : State) (c : Nat) (v : Word) : State :=
  let a := HIF_W_CQ_CFG c
  let vecs := vecCount (ctxOf s c).func
  let size := if 6 ≤ bits v 24 20 ∧ bits v 24 20 ≤ 20 then bits v 24 20 else fld s a 24 20
  let vec := if bits v 8 0 < vecs then bits v 8 0 else fld s a 8 0
  let take (s : State) (en : Nat) : State := wrN s a (en * 0x80000000 + bits v 30 30 * 0x40000000 + size * 0x100000 + vec)
  if flag s a 31 then
    if bits v 31 31 = 0 then setFlag s a 31 false
    else if bits v 30 30 = fld s a 30 30 ∧ bits v 24 20 = fld s a 24 20 ∧ bits v 8 0 = fld s a 8 0 then s
    else bump s (HIF_W_REFUSE_CNT c)
  else if bits v 31 31 = 0 then take s 0
  else
    let s1 := updCtx (wrN (wrN (take s 1) (HIF_W_CQ_HEAD c) 0) (HIF_W_CQ_TAIL c) 0) c (fun x =>
      { x with phase := true, error := false })
    markStartable (releaseHeld c (ctxOf s c).held.length s1) c

/-- CQ_ENABLE: a write of HIF_W_CQ_CFG through a window. -/
def execCqEnable (fn off : Nat) (v : Word) (s : State) : Out :=
  match winCtx s fn off with
  | none => .next (winDenied s)
  | some c => .next (cqCfgWrite s c v)

/-- A write of HIF_W_CQ_HEAD. -/
def cqHeadWrite (s : State) (c : Nat) (v : Word) : State :=
  let n := bits v 19 0
  let size := ringSize s c
  let h := fld s (HIF_W_CQ_HEAD c) 19 0
  let t := fld s (HIF_W_CQ_TAIL c) 19 0
  if !flag s (HIF_W_CQ_CFG c) 31 || decide (size ≤ n) || decide ((t + size - h) % size < (n + size - h) % size) then
    bump s (HIF_W_REFUSE_CNT c)
  else releaseHeld c (ctxOf s c).held.length (wrN s (HIF_W_CQ_HEAD c) n)

/-- CQ_HEAD_WRITE. -/
def execCqHeadWrite (fn off : Nat) (v : Word) (s : State) : Out :=
  match winCtx s fn off with
  | none => .next (winDenied s)
  | some c => .next (cqHeadWrite s c v)

/-- HIF_W_ABORT: 1 requests an E1 step that blames no command (R502). -/
def execHifWAbort (fn off : Nat) (v : Word) (s : State) : Out :=
  match winCtx s fn off with
  | none => .next (winDenied s)
  | some c => if bits v 0 0 = 1 then .next (autoTrigger s 1 (tgt tgCtx c) csAbort 0xFFFFFFFF 0) else .next s

/-- A write of another register of a window. -/
def winWrite (s : State) (c a : Nat) (v : Word) : State :=
  if a = HIF_W_CQ_CFG c then cqCfgWrite s c v
  else if a = HIF_W_CQ_HEAD c then cqHeadWrite s c v
  else if a = HIF_W_CQ_BASE_LO c ∨ a = HIF_W_CQ_BASE_HI c then
    if flag s (HIF_W_CQ_CFG c) 31 then bump s (HIF_W_REFUSE_CNT c)
    else wr s a (if a = HIF_W_CQ_BASE_LO c then putBits v 11 0 0 else v)
  else if a = HIF_W_ABORT c ∧ bits v 0 0 = 1 then autoTrigger s 1 (tgt tgCtx c) csAbort 0xFFFFFFFF 0
  else s

/-! ## Context administration (R434, R456) -/

/-- The context that an accessor's register set selects. -/
def ctxSel (s : State) (w : Who) : Nat := fld s (keyOf w HIF_CTX_SEL) 9 0

def mayAdmin (w : Who) : Bool := decide (w.cls = .owner) || decide (w.cls = .debug)

/-- Whether a memory window is one that the device accepts: within the usable LPDDR5X, off the crash dump region (R511). -/
def windowOk (s : State) (base size : Nat) : Bool :=
  let lo := base * 65536
  let hi := lo + size * 65536
  let d := fld s REC_DUMP_BASE 8 0 * 0x10000000
  decide (hi ≤ memSize) && (size == 0 || decide (hi ≤ d) || decide (d + 0x10000000 ≤ lo))

/-- A context enabled: NEXT_SEQ 0, its generation advanced. -/
def ctxEnable (s : State) (c : Nat) : State :=
  wrN (updCtx s c (fun x => { x with en := true, error := false, cgen := (x.cgen + 1) % 256 })) (HIF_W_NEXT_SEQ c) 0

/-- A write of HIF_CTX_OWN. -/
def ctxOwnWrite (s : State) (w : Who) (v : Word) : State :=
  let c := ctxSel s w
  let x := ctxOf s c
  let f := bits v 15 8
  let codeOk := f < 66 || f == 0xFF
  if x.en then
    if bits v 31 31 = 0 then updCtx s c (fun x => { x with en := false })
    else if f = x.func then s else wErr s w HIF_CTX_OWN 0x0101
  else if isVf f && f != x.func && decide (16 ≤ (vfCtxs s f).length) then wErr s w HIF_CTX_OWN 0x0102
  else
    let s1 := if codeOk then updCtx s c (fun x => { x with func := f }) else wErr s w HIF_CTX_OWN errReservedEnc
    if bits v 31 31 = 1 then markStartable (ctxEnable s1 c) c else s1

/-- A write of a register of the context administration page that passes the access checks. -/
def hifCtxWrite (s : State) (w : Who) (a : Nat) (v : Word) : State :=
  let c := ctxSel s w
  let x := ctxOf s c
  if a = HIF_CTX_SEL then
    if mayAdmin w || decide ((ctxOf s (bits v 9 0)).func = w.fn) then setFld s (keyOf w a) 9 0 (bits v 9 0)
    else failAcc s w true a (.fail errDenied)
  else if a = HIF_CTX_STAT ∨ a < HIF_CTX_SEL ∨ HIF_CTX_STAT < a then s
  else if !mayAdmin w then failAcc s w true a (.fail errDenied)
  else if a = HIF_CTX_OWN then ctxOwnWrite s w v
  else if x.en then wErr s w a 0x0101
  else if a = HIF_CTX_MEM_BASE then
    if windowOk s (bits v 20 0) x.memSize then updCtx s c (fun x => { x with memBase := bits v 20 0 }) else wErr s w a 0x0103
  else if a = HIF_CTX_MEM_SIZE then
    if windowOk s x.memBase (bits v 20 0) then updCtx s c (fun x => { x with memSize := bits v 20 0 }) else wErr s w a 0x0103
  else if a = HIF_CTX_BUDGET then
    let d := if bits v 31 16 = 0 then x.defBudget else bits v 31 16
    let m := if bits v 15 0 = 0 then x.maxBudget else bits v 15 0
    let s1 := if bits v 31 16 = 0 ∨ bits v 15 0 = 0 then wErr s w a errReservedEnc else s
    if m < d then wErr s1 w a 0x0103 else updCtx s1 c (fun x => { x with defBudget := d, maxBudget := m })
  else if a = HIF_CTX_ANC then
    if 16384 < bits v 31 18 + bits v 14 0 then wErr s w a 0x0103
    else updCtx s c (fun x => { x with ancLo := bits v 31 18, ancN := bits v 14 0 })
  else s

/-- CONTEXT_ENABLE: a write of HIF_CTX_OWN (R434). -/
def execContextEnable (w : Who) (v : Word) (s : State) : Out :=
  .next (guardW s w 4 HIF_CTX_OWN (fun t => hifCtxWrite t w HIF_CTX_OWN v))

/-- What a register of the page reads as: a view of the context that the accessor's set selects. -/
def hifCtxLive (s : State) (w : Who) (a : Nat) : Option Nat :=
  let c := ctxSel s w
  let x := ctxOf s c
  if a = HIF_CTX_OWN then some (b2n x.en * 0x80000000 + x.func * 256 + winSlot s c)
  else if a = HIF_CTX_MEM_BASE then some x.memBase
  else if a = HIF_CTX_MEM_SIZE then some x.memSize
  else if a = HIF_CTX_BUDGET then some (x.defBudget * 65536 + x.maxBudget)
  else if a = HIF_CTX_ANC then some (x.ancLo * 262144 + x.ancN)
  else if a = HIF_CTX_STAT then some (wStatus s c)
  else none

/-! ## PCI Express events (R453, R457, R458) -/

/-- A command known under another number from here on: a command that runs on after its context was taken from it. -/
def renameCmd (s : State) (c q q' : Nat) : State :=
  let ren (e : Nat × Nat) : Nat × Nat := if e = (c, q) then (c, q') else e
  { s with
    accepted := s.accepted.map (fun r => if r = .host c q then .host c q' else r)
    binder := s.binder.map ren
    jobs := s.jobs.map (fun j => { j with cmd := j.cmd.map ren })
    triggers := s.triggers.map (fun t => { t with cmds := t.cmds.map ren })
    ladder := { s.ladder with cur := s.ladder.cur.map (fun t => { t with cmds := t.cmds.map ren }) } }

/-- A context taken from its function's work: DISABLED, its generation advanced, commands not started discarded, running ones
run on without a record, held records discarded. -/
def flrCtx (s : State) (c : Nat) : State :=
  let x := ctxOf s c
  let mark := 4294967296 * (1 + x.cgen)
  let live := x.cmds.filter (fun k => k.started && !k.orphan)
  let s1 := (x.cmds.filter (fun k => !k.started)).foldl (fun t k => unaccept t (.host c k.seq)) s
  let s2 := live.foldl (fun t k => renameCmd t c k.seq (k.seq + mark)) s1
  let s3 := updCtx s2 c (fun x => { x with
    en := false, cgen := (x.cgen + 1) % 256, held := []
    cmds := (x.cmds.filter (fun k => k.started)).map (fun k => if k.orphan then k else { k with orphan := true, seq := k.seq + mark }) })
  bumpN s3 HIF_LATE_DISCARD_CNT x.held.length

/-- The contexts of a function. -/
def fnCtxs (s : State) (f : Nat) : List Nat :=
  if f = 0 then (List.range 1024).filter (fun c => (ctxOf s c).func == 0) else vfCtxs s f

/-- An FLR of a function: its contexts, and what PCI Express returns to its reset state with it. -/
def flrFn (s : State) (f : Nat) : State :=
  let s1 := (fnCtxs s f).foldl flrCtx s
  let s2 := { s1 with bme := tset boolD s1.bme f false, msix := tclear s1.msix (vecKey f 0) (vecKey f 512) }
  if f = 0 then setFlag s2 LNK_RELAY_CFG 31 false else s2

/-- FLR. -/
def execFlr (f : Nat) (s : State) : Out := .next (flrFn s f)

/-- BUS_MASTER_DISABLE: acts on the function's contexts as an FLR, and PF0's ends the relay (spec/15_rope_fabric.md R483). -/
def execBusMasterDisable (f : Nat) (s : State) : Out :=
  let s1 := (fnCtxs s f).foldl flrCtx { s with bme := tset boolD s.bme f false }
  .next (if f = 0 then setFlag s1 LNK_RELAY_CFG 31 false else s1)

/-- A pending vector sends where it is unmasked and its function masters the bus. -/
def sendPending (s : State) (f v : Nat) : State :=
  let x := vecOf s f v
  if x.pend && !x.masked && busMaster s f then sendMsix (setVec s f v { x with pend := false }) f v else s

/-- BUS_MASTER_ENABLE. -/
def execBusMasterEnable (f : Nat) (s : State) : Out :=
  .next ((List.range (vecCount f)).foldl (fun t v => sendPending t f v) { s with bme := tset boolD s.bme f true })

/-- SRIOV_DISABLE: an FLR of every VF. -/
def execSriovDisable (s : State) : Out :=
  .next (wrN ((List.range 64).foldl (fun t k => flrFn t (2 + k)) s) HIF_NUM_VFS 0)

/-- The VF contexts lose their owner (R458). -/
def dropVfs (s : State) : State :=
  (s.ctxs.filter (fun e => isVf e.2.func)).foldl (fun t e => updCtx t e.1 (fun x => { x with func := 0, en := false })) s

/-- LINK_HOT_RESET: link 0 is link A, link 1 link B of two ×8 links (R430, R458). -/
def execLinkHotReset (link : Nat) (s : State) : Out :=
  let bifur := flag s HIF_LINK 31
  let fns := if !bifur then List.range 66 else if link = 0 then [0] else rangeFrom 1 65
  let s1 := fns.foldl flrFn s
  .next (if !bifur || link ≠ 0 then dropVfs s1 else s1)

/-- VECTOR_UNMASK. -/
def execVectorUnmask (f v : Nat) (s : State) : Out :=
  if v < vecCount f then .next (sendPending (setVec s f v { vecOf s f v with masked := false }) f v) else .next s

end Sys2Proof.Machine
end

