-- ==== Sys2Proof/Machine/Measure.lean ====
section
/-!
DEFINITION. Digests, keys and the measurement log (spec/18_security.md R557 to R566), and stores into the flash under the
hold-up check (spec/17_boot_update.md R551, R552).
-/
namespace Sys2Proof.Machine
open Sys2Proof

def pgSec : Nat := 0x901000
def pgUpd : Nat := 0x900000

/-! ## Keys (R557, R558, R564) -/

/-- Text as ASCII bytes. -/
def ascii (l : List Nat) : List Byte := l.map (BitVec.ofNat 8)

def strAk : List Byte := ascii [0x4B, 0x48, 0x39, 0x36, 0x2D, 0x41, 0x4B]
def strDbg : List Byte := ascii [0x4B, 0x48, 0x39, 0x36, 0x2D, 0x44, 0x42, 0x47]

/-- The key-generation seeds of AK, and its public key. -/
def akSeeds (seed : List Byte) : List Byte := Config.shake256 (seed ++ strAk) 96
def akPublic (seed : List Byte) : List Byte := padTo 64 (Config.slhPublic (akSeeds seed))

/-- UID from a seed. -/
def uidOf (seed : List Byte) : Nat := ofLe ((Config.shake256 (akPublic seed) 8).take 8)

/-- UID as the device shows it. -/
def uid (s : State) : Nat := rd64 s (SEC_UID_LO 0) (SEC_UID_LO 1)

/-- A 64-byte value written into 16 registers, and 32-bit registers read as bytes. -/
def wrBytes (s : State) (reg : Nat → Nat) (n : Nat) (bs : List Byte) : State :=
  (List.range n).foldl (fun t i => wrN t (reg i) (ofLe ((bs.drop (4 * i)).take 4))) s
def rdBytes (s : State) (reg : Nat → Nat) (n : Nat) : List Byte := (List.range n).flatMap (fun i => leBytes 4 (rdN s (reg i)))

def roleImage : Nat := 0
def rolePkg : Nat := 1
def roleDebug : Nat := 2

/-- Whether a signature verifies with the key of a KEY_ID in a role. -/
def keyVerifies (c : CfgSt) (role id : Nat) (msg sig : List Byte) : Bool :=
  c.keys.any (fun k => k.id == id && nbit k.roles role && Config.slhVerify k.pk msg sig)

/-! ## The measurement log (R565, R566) -/

/-- The accumulator. -/
def accOf (s : State) : List Byte := rdBytes s SEC_MEAS_ACC 16

/-- An object measured: the accumulator takes its digest, and the log an entry while it has room. -/
def measureObj (s : State) (typ : Nat) (digest info : List Byte) : State :=
  let d := padTo 64 digest
  let s1 := wrBytes s SEC_MEAS_ACC 16 (Config.shake256 (accOf s ++ d ++ leBytes 2 typ) 64)
  let n := s.sec.log.length
  if n < 256 then
    let e := leBytes 4 n ++ leBytes 2 typ ++ leBytes 2 0 ++ leBytes 8 s.ft ++ d ++ padTo 48 info
    setFld { s1 with sec := { s1.sec with log := s1.sec.log ++ [e] } } SEC_MEAS_CNT 8 0 (n + 1)
  else setFlag s1 SEC_MEAS_CNT 31 true

/-- The log and the accumulator at a start. -/
def clearLog (s : State) : State :=
  wrN (wrBytes { s with sec := { s.sec with log := [] } } SEC_MEAS_ACC 16 (List.replicate 64 0)) SEC_MEAS_CNT 0

def verifyFail (s : State) : State := bump s SEC_VERIFY_FAIL_CNT

/-! ## The hold-up check (R551) -/

/-- An operation on the flash: a 64 KiB sector erased, or bytes programmed. -/
inductive FlashOp
  | erase (a : Nat)
  | prog (a : Nat) (bs : List Byte)
  deriving DecidableEq, Repr

/-- T_op in µs: T_ERASE_MAX for an erase, T_PROG_MAX for each page that a program touches. -/
def opTime (h : List Nat) : FlashOp → Nat
  | .erase _ => at0 h 4 * 1000
  | .prog a bs => at0 h 5 * (if bs.isEmpty then 0 else (a + bs.length - 1) / 256 + 1 - a / 256)

/-- Twice E_avail in pJ at V mV. -/
def availPj (h : List Nat) (v : Nat) : Nat := if v ≤ at0 h 1 then 0 else at0 h 0 * (v * v - at0 h 1 * at0 h 1)

/-- 256 times E_need in nJ. -/
def needNj (h : List Nat) (op : FlashOp) : Nat := at0 h 3 * at0 h 2 * opTime h op

/-- Whether an operation is admitted: E_avail ≥ E_need. -/
def admitted (h : List Nat) (v : Nat) (op : FlashOp) : Bool := decide (needNj h op * 1000 ≤ availPj h v * 128)

/-- E_avail and E_need in mJ, rounded to the nearest (DEDUCED from the worked figures under R551, which show 267.8 mJ as 0x010C;
log entry 104). -/
def availMj (h : List Nat) (v : Nat) : Nat := (availPj h v + 1000000000) / 2000000000
def needMj (h : List Nat) (op : FlashOp) : Nat := (needNj h op + 128000000) / 256000000

/-- The registers of the last measurement. -/
def showHold1 (s : State) (h : List Nat) (v : Nat) (op : FlashOp) : State :=
  wrN (setFld s UPD_HOLDUP_V 15 0 (satN 0xFFFF v)) UPD_HOLDUP_E
    (satN 0xFFFF (availMj h v) * 65536 + satN 0xFFFF (needMj h op))

/-- A program clears bits and sets none. -/
def progBytes (s : State) (a : Nat) (bs : List Byte) : List Byte :=
  (List.zip bs (flashRead s a bs.length)).map (fun e => e.1 &&& e.2)

def flashOp (s : State) : FlashOp → State
  | .erase a => flashErase s (a / 65536 * 65536) 65536
  | .prog a bs => flashWrite s a (progBytes s a bs)

/-- A store refused (R552). -/
def holdupLow (s : State) (h : List Nat) (v : Nat) (op : FlashOp) : State :=
  notice (irq (bump (showHold1 s h v op) UPD_HOLDUP_REFUSE_CNT) pgUpd 1) 0x0205 0
    (leBytes 4 (availMj h v) ++ leBytes 4 (needMj h op))

/-- A store of several operations at V mV: all of them where each is admitted, else none; no store starts while PWR_OK is
low (R589). Without a HOLDUP item every store is refused. -/
def store (s : State) (v : Nat) (ops : List FlashOp) : State × Bool :=
  if s.pwr.down then (s, false)
  else
    let h := s.sec.cfg.holdup.getD []
    let bad := if s.sec.cfg.holdup.isNone then ops.head? else ops.find? (fun o => !admitted h v o)
    match bad with
    | some o => (holdupLow s h v o, false)
    | none => (ops.foldl (fun t o => flashOp (showHold1 t h v o) o) s, true)

def stHoldup : Nat := 0x0600

end Sys2Proof.Machine
end

