-- ==== Sys2Proof/Machine/Binder.lean ====
section
/-!
DEFINITION. Packages and binding (spec/13_ronrix_binding.md R407 to R428, spec/07_event_fabric.md R235 to R238).
-/
namespace Sys2Proof.Machine
open Sys2Proof

/-! ## Statuses (spec/14_host_interface.md R450) -/

def stPkgFormat : Nat := 0x0300
def stPkgVersion : Nat := 0x0301
def stPkgDigest : Nat := 0x0302
def stPkgSig : Nat := 0x0303
def stBindMap : Nat := 0x0304
def stNoFit : Nat := 0x0305
def stDeadline : Nat := 0x0306
def stPartBusy : Nat := 0x0307
def stPartReset : Nat := 0x0309
def stCcReload : Nat := 0x030A

/-! ## Packages (R407, R408, R411) -/

/-- A number of n bytes at an offset of a byte list. -/
def num (bs : List Byte) (off n : Nat) : Nat := ofLe ((bs.drop off).take n)

/-- Entry i of the section table: type, offset, length. -/
def section_ (bs : List Byte) (i : Nat) : Nat × Nat × Nat :=
  (num bs (88 + 16 * i) 4, num bs (92 + 16 * i) 4, num bs (96 + 16 * i) 8)

def sections (bs : List Byte) : List (Nat × Nat × Nat) := (List.range (num bs 16 2)).map (section_ bs)

/-- How often a section type appears. -/
def countType (l : List (Nat × Nat × Nat)) (t : Nat) : Nat := (l.filter (fun e => e.1 == t)).length

def pkgSigned (bs : List Byte) : Bool := nbit (num bs 18 2) 0

/-- Whether the section table is as R408 has it. -/
def sectionsOk (bs : List Byte) (len : Nat) : Bool :=
  let l := sections bs
  l.all (fun e => decide (1 ≤ e.1) && decide (e.1 ≤ 7) && e.2.1 % 64 == 0 && decide (e.2.1 + e.2.2 ≤ len))
    && [1, 2, 3, 6].all (fun t => countType l t == 1)
    && countType l 7 == b2n (pkgSigned bs)

/-- The bytes that the digest covers: from 88 to the end, without the SIGNATURE section. -/
def digested (bs : List Byte) : List Byte :=
  match (sections bs).find? (fun e => e.1 == 7) with
  | some e => (bs.take e.2.1).drop 88 ++ bs.drop (max 88 (e.2.1 + e.2.2))
  | none => bs.drop 88

def pkgDigest (bs : List Byte) : List Byte := (bs.drop 24).take 64

/-- The signature over bytes 0 to 87 by a key of the record in force with the role PKG. -/
def pkgSigOk (s : State) (bs : List Byte) : Bool :=
  match (sections bs).find? (fun e => e.1 == 7) with
  | some e => s.sec.cfg.keys.any (fun k => nbit k.roles rolePkg &&
      Config.slhVerify k.pk (bs.take 88) ((bs.drop e.2.1).take e.2.2))
  | none => false

/-- The status at which step 1 of R413 stops, on the package's bytes (as many as LENGTH names) and PKG_LEN. -/
def pkgCheck (s : State) (bs : List Byte) (pkgLen : Nat) : Option Nat :=
  let len := num bs 8 8
  let n := num bs 16 2
  if num bs 0 4 ≠ 0x58524E52 then some stPkgFormat
  else if num bs 4 2 ≠ 1 then some stPkgVersion
  else if pkgLen < len ∨ n = 0 ∨ 64 < n ∨ 1 < num bs 18 2 ∨ num bs 20 4 ≠ 0 ∨ len < 88 + 16 * n then some stPkgFormat
  else if !sectionsOk bs len then some stPkgFormat
  else if Config.shake256 (digested bs) 64 ≠ pkgDigest bs then some stPkgDigest
  else if flag s SEC_STATUS 4 && !(pkgSigned bs && pkgSigOk s bs) then some stPkgSig
  else none

/-! ## The bind map (R412, R441) -/

/-- Entry i of a bind map: KIND, INDEX, VALUE. -/
def mapEntry (pay : List Byte) (i : Nat) : Nat × Nat × Nat :=
  let e := num pay (64 + 8 * i) 8
  (nbits e 63 56, nbits e 55 40, nbits e 7 0)

def mapOf (pay : List Byte) : List (Nat × Nat × Nat) := (List.range (num pay 26 2)).map (mapEntry pay)

/-- Whether a payload holds a reserved bit or code, or is too short for its map. -/
def payReserved (pay : List Byte) : Bool :=
  let n := num pay 26 2
  decide (1024 < n) || decide (pay.length < 64 + 8 * n) || num pay 24 1 / 8 != 0 || num pay 25 1 / 2 != 0
    || num pay 28 36 != 0
    || (List.range n).any (fun i => nbits (num pay (64 + 8 * i) 8) 39 8 != 0
        || !(decide (1 ≤ (mapEntry pay i).1) && decide ((mapEntry pay i).1 ≤ 5)))

/-- The units that a map names under a KIND, as a bit mask. -/
def mapMask (m : List (Nat × Nat × Nat)) (kind : Nat) : Nat :=
  maskOf ((m.filter (fun e => e.1 == kind)).map (fun e => e.2.2))

/-- Whether two jobs come from different packages; the shares of one package are one job (R424). -/
def otherJob (digest : List Byte) (j : JobSt) : Bool := j.digest != digest

/-- Whether an enabled legacy port is one of a bar's. -/
def legacyBar (s : State) (b : Nat) : Bool := (List.range 32).any (fun p => flag s (FUS_BAR_PORTS b) p && isLegacy s p && portOn s p)

/-- Whether a map is one that the device accepts: every bar enabled, every unit in range, none held by another job; in BELAY no bar
with a legacy port, which cannot feed a job there (spec/01_architecture.md R28; log entry 143). -/
def mapOk (s : State) (m : List (Nat × Nat × Nat)) (digest : List Byte) : Bool :=
  m.all (fun e =>
    if e.1 = 1 then decide (e.2.2 < 8) && barOn s e.2.2 && !(inBelay s && legacyBar s e.2.2)
    else if e.1 = 2 then decide (e.2.2 < 8)
    else if e.1 = 3 || e.1 = 5 then decide (e.2.2 < 16)
    else true)
  && s.jobs.all (fun j => !otherJob digest j ||
    ((mapMask m 1 &&& j.bars) == 0 && (mapMask m 2 &&& j.encs) == 0 && (mapMask m 3 &&& j.chains) == 0
      && (mapMask m 5 &&& j.units) == 0))

/-! ## The placement (R413 steps 3 to 6) -/

/-- The clusters of a plan's units. -/
def planClusters (p : BindPlan) : List Nat := uniq (p.tiles.map (· / 8) ++ p.cores.map (· / 32))

/-- Whether a tile, or a core, is held by a job. -/
def heldTile (s : State) (t : Nat) : Bool := s.jobs.any (fun j => j.plan.tiles.contains t)
def heldCore (s : State) (n : Nat) : Bool := s.jobs.any (fun j => j.plan.cores.contains n)

/-- Whether a register lies in a page of a plan's units. -/
def planPage (p : BindPlan) (a : Nat) : Bool :=
  p.tiles.any (fun t => tilePage t == pageOf a) || p.cores.any (fun n => ncPage n == pageOf a)

/-- Whether a place in SRAM belongs to a plan's tiles, the tiles of its cores, or their clusters. -/
def planSram (p : BindPlan) (a n : Nat) : Bool :=
  p.tiles.any (fun t => decide (tileAt t ≤ a) && decide (a + n ≤ tileAt t + tileSize))
    || p.cores.any (fun c => decide (tileAt (c / 4) ≤ a) && decide (a + n ≤ tileAt (c / 4) + tileSize))
    || (planClusters p).any (fun c => decide (clusterAt c ≤ a) && decide (a + n ≤ clusterAt c + clusterSize))

/-- Whether a tile is the checker tile, to which no job is bound (spec/11_approximation.md R367). -/
def isChecker (s : State) (t : Nat) : Bool := flag s APX_CHK_CFG 31 && fld s APX_CHK_CFG 22 16 == t

/-- Whether a placement fits: units of the partition that are up and free, in clusters that no standby holds (R425), entries that are
free. -/
def planFits (s : State) (part : Nat) (p : BindPlan) : Bool :=
  (planClusters p).all (fun c => decide (c < 16) && decide (partOf s c = some part) && unitState s (ccPage c) == stReady
      && !s.jobs.any (fun j => decide (j.phase = .standby) && (planClusters j.plan).contains c))
    && p.tiles.all (fun t => unitState s (tilePage t) == stReady && !(tileOf s t).asleep && !heldTile s t
        && !isChecker s t)
    && p.cores.all (fun n => unitState s (ncPage n) == stReady && !heldCore s n && !ncEnabled s n && !isChecker s (n / 4))
    && p.anchors.all (fun a => decide (a < 16384) && (anc s a).owner == ownFree && waiters s a == 0)
    && p.rgn.all (fun e => decide (e.1 < 256) && bits (rgnWord s e.1 0) 31 31 == 0 && !s.jobs.any (fun j => j.plan.rgn.any (fun r => r.1 == e.1)))
    && p.slots.all (fun e => p.tiles.contains e.1 && decide (e.2.1 < 8) && !slotEnabled s e.1 e.2.1)
    && p.pairs.all (fun e => decide (e.1 < 64) && !s.jobs.any (fun j => j.plan.pairs.any (fun r => r.1 == e.1)))
    && p.regs.all (fun e => planPage p e.1)
    && p.sram.all (fun e => planSram p e.1 e.2.length)

/-! ## Fan-out entries (R235 to R238) -/

/-- The master copy of the fan-out table in LPDDR5X. -/
def fanBase (s : State) : Nat := fld s FAB_FO_BASE 8 0 * 0x10000000

def fanWord (s : State) (g : Nat) : Nat := memNum s (fanBase s + 16 * g) 16
def fanRecs (s : State) (e : Nat) : List Nat :=
  (List.range (nbits e 119 110)).map (fun i => memNum s (fanBase s + 0x4000000 + 8 * (nbits e 109 85 + i)) 8)

/-- Whether an entry and its records may be pinned. -/
def fanOk (s : State) (g : Nat) : Bool :=
  let e := fanWord s g
  decide (nbits e 119 110 ≤ 512) && decide (nbits e 109 85 + nbits e 119 110 ≤ 25165824)
    && nbits e 126 120 == 0 && nbits e 84 64 == 0 && nbits e 26 0 == 0
    && (fanRecs s e).all (fun r => nbits r 19 0 == 0)

def fanEntry (s : State) (g : Nat) : FanEntry :=
  let e := fanWord s g
  { v := nbit e 127, recs := fanRecs s e
    sv := if nbit e 63 then some (nbits e 62 56, nbits e 55 53, nbits e 52 40, nbits e 39 27) else none }

/-- The neuron slots of a plan's cores. -/
def planSlots (p : BindPlan) : List Nat := p.cores.flatMap (fun n => rangeFrom (8192 * n) 8192)

/-! ## Step 8: tables, weights, cores (R413) -/

/-- CC_BIND of the clusters of a job. -/
def showBind (s : State) (j : JobSt) (st : Nat) : State :=
  (planClusters j.plan).foldl (fun t c => wrN t (CC_BIND c) ((if st = 0 then 0 else j.handle % 65536) * 65536 + st)) s

/-- CC_TILES_BOUND and CC_NC_BOUND of the clusters of a job, with its bits set or cleared. -/
def showUnits (s : State) (j : JobSt) (on : Bool) : State :=
  let s1 := j.plan.tiles.foldl (fun t x => setFlag t (CC_TILES_BOUND (x / 8)) (x % 8) on) s
  j.plan.cores.foldl (fun t x => setFlag t (CC_NC_BOUND (x / 32)) (x % 32) on) s1

/-- A surface slot's descriptor written and enabled; the enable is dropped with its code where R249 refuses the descriptor. -/
def openSlot (s : State) (e : Nat × Nat × List Nat) : State :=
  let (t, k, ws) := e
  let s1 := wrN (wrN (wrN s (slotGeom t k) (at0 ws 1)) (slotBase t k) (at0 ws 2)) (slotWin t k) (at0 ws 3)
  let s2 := setFlag (wrN s1 (slotCfg t k) (at0 ws 0)) (slotCfg t k) 31 false
  match slotRefuse t k s2 with
  | some c => recErr s2 (sbPage t) c 0
  | none => slotArm (setFlag s2 (slotCfg t k) 31 true) t k

/-- Everything that a bind writes and enables, for a job that is to start at the next cairn. -/
def step8 (s : State) (j : JobSt) : State :=
  let p := j.plan
  let s1 := p.rgn.foldl (fun t e => (List.range 4).foldl (fun t i => setRgnWord t e.1 i (word (at0 e.2 i))) t) s
  let s2 := { s1 with pins := (planSlots p).foldl (fun t g => tset fanD t g (fanEntry s g)) s1.pins }
  let s3 := p.tabs.foldl (fun t e => tabWrite t e.1 e.2) s2
  let s4 := p.sram.foldl (fun t e => sramWrite t e.1 e.2) s3
  let s5 := p.regs.foldl (fun t e => wrN t e.1 e.2) s4
  let s6 := p.pairs.foldl (fun t e => setFld t (APX_ESC_CFG e.1) 24 16 (at0 e.2.2 4)) s5
  let s7 := (p.tiles ++ p.cores.map (128 + ·)).foldl (fun t u => setAwaiting t u false) s6
  let s8 := p.cores.foldl openCore (p.slots.foldl openSlot s7)
  let s9 := updJob s8 j.handle (fun x => { x with tileGen := p.tiles.map (fun t => (t, pageGen s8 (tilePage t))) })
  showUnits (showBind s9 j 1) j true

/-- What step 8 enabled is off again, and what it wrote is free. Cores that run send FINAL (R226, R421). -/
def undo8 (s : State) (j : JobSt) : State :=
  let p := j.plan
  let s1 := (uniq (p.cores.map (· / 32))).foldl drainFan (p.cores.foldl coreOff s)
  let s2 := p.slots.foldl (fun t e => slotOff (setFlag t (slotCfg e.1 e.2.1) 31 false) e.1 e.2.1) s1
  let s3 := p.rgn.foldl (fun t e => (List.range 4).foldl (fun t i => setRgnWord t e.1 i 0) t) s2
  let s4 := { s3 with pins := s3.pins.filter (fun e => !p.cores.contains (e.1 / 8192)) }
  let s5 := p.pairs.foldl (fun t e => wrN (wrN t (APX_ESC_CFG e.1) 0) (APX_ESC_THR e.1) 0) s4
  showUnits s5 j false

/-- The tile commands of a job leave their queues. -/
def dropCmds (s : State) (j : JobSt) : State :=
  j.plan.tiles.foldl (fun t u =>
    let keepQ (q : QueueSt) : QueueSt :=
      let l := q.cmds.filter (fun c => c.job != j.handle)
      if l.head? = q.cmds.head? then { q with cmds := l } else { cmds := l }
    let x := tileOf t u
    let gone := [0, 1, 2].flatMap (fun q => ((queueOf x q).cmds.filter (fun c => c.job == j.handle)).map (fun c => CmdRef.tile u q (cmdNum c)))
    let s1 := gone.foldl unaccept t
    [0, 1, 2].foldl (fun t q => noteHead t u q) (updTile s1 u (fun x => { x with
      tq := keepQ x.tq, vq := keepQ x.vq, sq := keepQ x.sq, flight := x.flight.filter (fun c => c.job != j.handle) }))) s

/-- APX_ESC_PAIRS follows the pairs bound. -/
def showPairs (s : State) : State :=
  setFld s APX_ESC_PAIRS 6 0 ((s.jobs.filter (fun j => decide (j.phase ≠ .standby))).flatMap (fun j => j.plan.pairs)).length

/-- A job's resources return to free (R421). -/
def releaseJob (s : State) (j : JobSt) : State :=
  let s1 := dropCmds (undo8 s j) j
  let s2 := j.plan.anchors.foldl (fun t a => ancOwner (ancFault t a) a ownFree) s1
  let s3 := showBind s2 j 0
  showPairs { s3 with jobs := s3.jobs.filter (fun x => x.handle != j.handle) }

/-! ## The binder's queue (R420) -/

/-- The command that the binder executes, where it is one of a type. -/
def binderCmd (s : State) (c q ty : Nat) : Option CmdSt :=
  if s.binder.head? = some (c, q) then running1 s c q ty else none

/-- The binder is done with a command, whose status is decided. -/
def binderDone (s : State) (c q st res : Nat) : State :=
  setStatus { s with binder := s.binder.filter (fun e => e != (c, q)) } c q st res

/-- A binder command is executed for partition p: its record names the partition and its tag (R446; DEDUCED, log entry 164). -/
def inPart (s : State) (c q p : Nat) : State := updCmd s c q (fun k => { k with part := 8 + p % 8, pgen := partGen s p })

/-- Whether a partition passes an E3 or E4 step now. -/
def partResets (s : State) (p : Nat) : Bool :=
  match s.ladder.cur with
  | some t => (t.step == 3 && t.target == tgt tgPart p) || t.step == 4
  | none => false

/-! ## BIND (R413, R416, R425, R441) -/

/-- The job that a BIND makes. -/
def newJob (s : State) (c : Nat) (k : CmdSt) (pay : List Byte) (digest : List Byte) (plan : BindPlan) : JobSt :=
  let m := mapOf pay
  { handle := s.lastJob + 1, part := num pay 24 1 % 8, phase := if nbit (num pay 25 1) 0 then .standby else .binding
    ctx := c, seq := k.seq, tag := nbits (at0 k.words 15) 15 0, cgen := k.cgen, since := k.since.getD s.ft, plan := plan
    bars := mapMask m 1, encs := mapMask m 2, chains := mapMask m 3, units := mapMask m 5
    roles := (m.filter (fun e => e.1 == 4)).map (fun e => (e.2.1, e.2.2)), ancGen := []
    cmd := some (c, k.seq), budget := budgetOf (ctxOf s c) k, digest := digest }

/-- The status at which steps 1 to 7 stop, none where the job may be bound. -/
def bindCheck (s : State) (x : CtxSt) (pay : List Byte) (j : JobSt) (repDev : Bool) : Option Nat :=
  let off := num pay 0 8
  let plen := num pay 8 8
  let a := winAddr x off
  let len := min plen (num (memRead s a 16) 8 8)
  let bs := memRead s a len
  if payReserved pay then some stReserved
  else if partResets s j.part then some stPartReset
  else if !inWindow x off plen || (repDev && !inWindow x (num pay 16 8) (bindReport j).length) then some stMemRange
  else if memBad s a len then some stMemUe
  else match pkgCheck s bs plen with
    | some st => some st
    | none =>
      if j.plan.status = stPkgFormat then some stPkgFormat
      else if !mapOk s (mapOf pay) j.digest then some stBindMap
      else if j.plan.status ≠ 0 then some j.plan.status
      else if !planFits s j.part j.plan then some stNoFit
      else if !(planSlots j.plan).all (fanOk s) then some stReserved
      else if cruxOver j (mode s) then some stDeadline
      else none

/-- The bind report written to the area that the payload names; none where host memory does not take it. -/
def putReport (s : State) (x : CtxSt) (pay : List Byte) (j : JobSt) (repDev ok : Bool) : Option State :=
  if repDev then some (memWrite s (winAddr x (num pay 16 8)) (bindReport j))
  else if ok then some (hostWrite s (num pay 16 8) (bindReport j)) else none

/-- The anchors of a job take its partition as owner, and their generations are recorded. -/
def claimAnchors (s : State) (j : JobSt) : State × JobSt :=
  let s1 := j.plan.anchors.foldl (fun t a => ancOwner t a j.part) s
  (s1, { j with ancGen := j.plan.anchors.map (fun a => (a, (anc s1 a).gen)) })

/-- A job that passed step 7: a standby completes, another one goes through step 8 and waits for its cairn. -/
def takeJob (s : State) (c q : Nat) (j0 : JobSt) : State :=
  let (s1, j) := claimAnchors s j0
  let s2 := measureObj { j.plan.stage.foldl (fun t e => memWrite t e.1 e.2) s1 with lastJob := j.handle } 0x0005 j.digest (leBytes 4 j.handle ++ leBytes 1 j.part)
  if j.phase = .standby then
    let j := { j with cmd := none }
    binderDone (showBind { s2 with jobs := s2.jobs ++ [j] } j 3) c q okSt j.handle
  else showPairs (step8 { s2 with jobs := s2.jobs ++ [j] } j)

/-- BIND. `host` is its payload in host memory, `plan` the placement that the binder makes, `ok` whether host memory takes the
report. -/
def execBind (c q : Nat) (host : Option (List Byte)) (plan : BindPlan) (ok : Bool) (s : State) : Out :=
  match binderCmd s c q 0x10 with
  | none => .next s
  | some k =>
    if (s.jobs.any (fun j => decide (j.cmd = some (c, q)))) then .next s
    else match payIn s c k host with
      | .inl st => .next (binderDone s c q st 0)
      | .inr pay =>
        let x := ctxOf s c
        let s := inPart s c q (num pay 24 1 % 8)
        let repDev := nbit (cmdTopt k) 0
        let digest := pkgDigest (memRead s (winAddr x (num pay 0 8)) 88)
        let j := newJob s c k pay digest plan
        match bindCheck s x pay j repDev with
        | some st =>
          let s1 := if st = stPkgDigest ∨ st = stPkgSig then verifyFail s else s
          .next (binderDone s1 c q st 0)
        | none =>
          match putReport s x pay j repDev ok with
          | none => .next (binderDone s c q stPayload 0)
          | some s1 => .next (takeJob s1 c q j)

/-! ## Activation (R413 step 8, R427) -/

/-- The tile rows of bar b that left it between two consecutive results r0 and r1, from the row `next` on. -/
def rowsBetween (s : State) (b : Nat) (r0 r1 : Issued) : Nat → Int → List (Option Int × Int × Nat × Int × Nat × Nat)
  | 0, _ => []
  | n + 1, next =>
    let (sheet, base, i, f, h) := tileRowAt s b next
    let e := f + (h : Int) - 1
    let out (r : Issued) : Bool := decide ((e - rdS s (OUT_BAR_YMIN b)) * ((256 * pitch s b : Nat) : Int) < r.s)
    if out r1 then
      (if out r0 then [] else [(sheet, base, i, f, h, r1.t)]) ++ rowsBetween s b r0 r1 n (e + 1)
    else []

/-- Pairs of consecutive results, of a history with the newest first. -/
def resultPairs : List Issued → List (Issued × Issued)
  | r1 :: r0 :: t => (r0, r1) :: resultPairs (r0 :: t)
  | _ => []

/-- The tile rows of bar b that left it in the loss interval of a job, oldest first. -/
def lostRows (s : State) (j : JobSt) (b : Nat) : List (Option Int × Int × Nat × Int × Nat × Nat) :=
  ((resultPairs (bar s b).hist).filter (fun e => inLoss j e.2.t)).reverse.flatMap (fun e =>
    rowsBetween s b e.1 e.2 65536 (e.1.s / ((256 * pitch s b : Nat) : Int) + rdS s (OUT_BAR_YMIN b)))

/-- The verdicts of a lost tile row: NO_RESULT, with MISSED and GAP. -/
def loseRow (j : JobSt) (b : Nat) (s : State) (e : Option Int × Int × Nat × Int × Nat × Nat) : State :=
  let (sheet, base, i, f, h, t) := e
  (List.range (tileCols s b)).foldl (fun u c =>
    writeVerdict u { job := j.handle, bar := b, sheet := sheet, trow := i, tcol := c, row0 := f, rows := h, base := base, tExit := some t
                     dl := (verdictBound u).map (t + ·), gap := true
                     part := decide (h < tileH u b) || decide (xEnd u b < xOrg u b + c * tileW u b + tileW u b - 1) }
      none 0x100 none) s

/-- What REBIND writes for its loss interval. -/
def loseTiles (s : State) (j : JobSt) : State :=
  if j.lossFrom.isNone then s
  else (List.range 8).foldl (fun t b => if jobBar j b && barOn t b then (lostRows t j b).foldl (loseRow j b) t else t) s

/-- BIND_ACTIVATE: the cairn of step 8 has passed, and the command completes. -/
def execBindActivate (h now : Nat) (s0 : State) : Out :=
  let s := advance s0 now
  match jobOf s h with
  | none => .next s
  | some j =>
    match j.phase, j.startFt, j.cmd with
    | .binding, some f, some (c, q) =>
      if s.ft < f then .next s
      else
        let s1 := updJob s h (fun j => { j with phase := .bound, cmd := none })
        let s2 := (planClusters j.plan).foldl (fun t c => irq t (ccPage c) 0) (showBind s1 j 2)
        .next (binderDone (loseTiles s2 { j with phase := .bound }) c q okSt h)
    | _, _, _ => .next s

/-! ## UNBIND (R421) -/

/-- UNBIND: the job drains from the next cairn on. -/
def execUnbind (c q : Nat) (s : State) : Out :=
  match binderCmd s c q 0x11 with
  | none => .next s
  | some k =>
    match jobOf s (cmdArg k) with
    | none => .next (binderDone s c q stNoJob 0)
    | some j =>
      let s := inPart s c q j.part
      if partResets s j.part then .next (binderDone s c q stPartReset 0)
      else if j.phase = .bound ∨ j.phase = .standby then
        let s1 := updJob s j.handle (fun j => { j with phase := .draining, drain := nbit (cmdTopt k) 0, cmd := some (c, q) })
        .next (showBind s1 j 4)
      else if j.phase = .draining ∧ j.cmd = some (c, q) then .next s
      else .next (binderDone s c q stNoJob 0)

/-- Whether every verdict of a job whose tile left before an FT has been written. -/
def drained (s : State) (j : JobSt) (e : Nat) : Bool :=
  s.out.pend.all (fun p => p.job != j.handle || (match p.tExit with | some t => decide (e ≤ t) | none => true))
    && (List.range 8).all (fun b => !(jobBar j b && barOn s b && j.startFt.isSome)
        || (match lastIssued s b with | some r => decide (e ≤ r.t) | none => true))

/-- UNBIND_RELEASE: past its cairn, and drained where it is to drain, a job's resources are released. -/
def execUnbindRelease (h now : Nat) (s0 : State) : Out :=
  let s := advance s0 now
  match jobOf s h with
  | none => .next s
  | some j =>
    match j.phase, j.endFt with
    | .draining, some e =>
      if s.ft < e ∨ (j.drain = true ∧ drained s j e = false) then .next s
      else
        let s1 := releaseJob (flushJob s h) j
        let s2 := (planClusters j.plan).foldl (fun t c => irq t (ccPage c) 1) s1
        match j.cmd with
        | some (c, q) => .next (binderDone s2 c q okSt 0)
        | none => .next s2
    | _, _ => .next s

/-! ## REBIND (R425, R427) -/

/-- REBIND: step 8 of a standby. -/
def execRebind (c q : Nat) (host : Option (List Byte)) (s : State) : Out :=
  match binderCmd s c q 0x12 with
  | none => .next s
  | some k =>
    if s.jobs.any (fun j => decide (j.cmd = some (c, q))) then .next s
    else match payIn s c k host with
      | .inl st => .next (binderDone s c q st 0)
      | .inr pay =>
        match (jobOf s (cmdArg k)).filter (fun j => decide (j.phase = .standby)) with
        | none => .next (binderDone s c q stNoJob 0)
        | some j =>
          let s := inPart s c q j.part
          if partResets s j.part then .next (binderDone s c q stPartReset 0)
          else if inBelay s && (List.range 8).any (fun b => jobBar j b && legacyBar s b) then .next (binderDone s c q stBindMap 0)
          else if !(planSlots j.plan).all (fanOk s) then .next (binderDone s c q stReserved 0)
          else
            let (s0, j0) := if j.ancGen.any (fun e => (anc s e.1).gen != e.2) then claimAnchors s j else (s, j)
            let j1 := { j0 with phase := .binding, cmd := some (c, q), lossFrom := some (num pay 0 8) }
            let s1 := updJob s0 j.handle (fun _ => j1)
            let s2 := measureObj s1 0x0005 j.digest (leBytes 4 j.handle ++ leBytes 1 j.part)
            .next (showPairs (step8 s2 j1))

/-- A binder command in execution is undone: what stood before it stands again (R502). -/
def rollBack (s : State) (c q : Nat) : State :=
  let s1 := { s with binder := s.binder.filter (fun e => e != (c, q)) }
  match s1.jobs.find? (fun j => decide (j.cmd = some (c, q))) with
  | none => s1
  | some j =>
    if j.phase = .draining then
      let ph : JobPhase := if j.startFt.isSome then .bound else .standby
      showBind (updJob s1 j.handle (fun j => { j with phase := ph, drain := false, endFt := none, cmd := none })) j
        (if j.startFt.isSome then 2 else 3)
    else if j.lossFrom.isSome then
      let s2 := undo8 s1 j
      showPairs (showBind (updJob s2 j.handle (fun j => { j with phase := .standby, lossFrom := none, startFt := none, cmd := none })) j 3)
    else releaseJob s1 j

/-! ## Partitions (R419, R422) -/

/-- Whether a partition holds a job. -/
def partBusy (s : State) (p : Nat) : Bool := s.jobs.any (fun j => j.part == p)

/-- CC_PART of a byte of PART_CFG. -/
def partByte (pay : List Byte) (c : Nat) : Nat := let b := num pay c 1; b / 128 * 8 + b % 8

/-- PART_CFG. -/
def execPartCfg (c q : Nat) (host : Option (List Byte)) (s : State) : Out :=
  match binderCmd s c q 0x13 with
  | none => .next s
  | some k =>
    match payIn s c k host with
    | .inl st => .next (binderDone s c q st 0)
    | .inr pay =>
      let cs := List.range 16
      let moved (n : Nat) : Bool := partByte pay n != rdN s (CC_PART n)
      if cs.any (fun n => num pay n 1 / 8 % 16 != 0) then .next (binderDone s c q stReserved 0)
      else if cs.any (fun n => moved n && (match partOf s n with | some p => partResets s p | none => false)) then
        .next (binderDone s c q stPartReset 0)
      else if cs.any (fun n => moved n && (match partOf s n with | some p => partBusy s p | none => false)) then
        .next (binderDone s c q stPartBusy 0)
      else .next (binderDone (cs.foldl (fun t n => wrN t (CC_PART n) (partByte pay n)) s) c q okSt 0)

/-- The firmware region in LPDDR5X (spec/17_boot_update.md R527). -/
def fwRegion (s : State) : Nat := s.sec.cfg.fwBase * 0x10000000
def fwSize : Nat := 0x3000000

/-- Whether every chunk of a component still has the digest that the warden holds of it (R527). -/
def helperOk (s : State) (id : Nat) : Bool :=
  match s.boot.comps.find? (fun e => e.1 == id) with
  | none => false
  | some (_, off, len) =>
    (rangeFrom (off / 65536) ((off + len + 65535) / 65536 - off / 65536)).all (fun i =>
      !memBad s (fwRegion s + 65536 * i) 65536
        && decide (some (Config.shake256 (memRead s (fwRegion s + 65536 * i) 65536) 64) = s.boot.digests[i]?))

/-- An error for the health rule (spec/17_boot_update.md R542). -/
def healthErr (s : State) : State := { s with boot := { s.boot with healthFrom := s.ft } }

/-- The pages of a cluster's tiles and cores. -/
def unitPages (c : Nat) : List Nat := (rangeFrom (8 * c) 8).map tilePage ++ (rangeFrom (32 * c) 32).map ncPage

/-- A cluster's controller reloaded. -/
def reloadCluster (s : State) (c : Nat) : State :=
  let s1 := wrN (setFld s (CC_FW_GEN c) 7 0 (fld s (CC_FW_GEN c) 7 0 + 1)) (CC_FW_VER c) s.boot.img
  let s0 := bump s1 (CC_RELOAD_CNT c)
  let s2 := (unitPages c).foldl advGen (if unitState s0 (ccPage c) = stOff then s0 else setUnitState s0 (ccPage c) stReady)
  irq s2 (ccPage c) 2

/-- The clusters of a partition. -/
def partClusters (s : State) (p : Nat) : List Nat := (List.range 16).filter (fun c => decide (partOf s c = some p))

/-- CC_RELOAD. -/
def execCcReload (c q : Nat) (s : State) : Out :=
  match binderCmd s c q 0x14 with
  | none => .next s
  | some k =>
    let p := cmdArg k
    let s := inPart s c q p
    if partResets s p then .next (binderDone s c q stPartReset 0)
    else if partBusy s p then .next (binderDone s c q stPartBusy 0)
    else if helperOk s 0x02 then .next (binderDone ((partClusters s p).foldl reloadCluster s) c q okSt s.boot.img)
    else
      let s1 := (partClusters s p).foldl (fun t n =>
        setUnitState (recErr t (ccPage n) 0x0101 0) (ccPage n) stError) (healthErr s)
      .next (binderDone s1 c q stCcReload 0)

end Sys2Proof.Machine
end

