-- ==== Sys2Proof/Machine/Link.lean ====
section
/-!
DEFINITION. The Ridge links, the switch, the management and bulk frames, the relay, and remote bars
(spec/15_rope_fabric.md). The register accesses of REG frames are in Machine/Manage.lean.
-/
namespace Sys2Proof.Machine
open Sys2Proof

def pgLnk : Nat := 0x600000
def pgPortL (p : Nat) : Nat := 0x601000 + 0x1000 * p

def lnkD (_ : Nat) : LinkSt := {}
def rbarD (_ : Nat) : RbarSt := {}
def lnk (s : State) (p : Nat) : LinkSt := tget lnkD s.links p
def updLnk (s : State) (p : Nat) (f : LinkSt → LinkSt) : State := { s with links := tset lnkD s.links p (f (lnk s p)) }
def rbarOf (s : State) (b : Nat) : RbarSt := tget rbarD s.rbars b
def updRbar (s : State) (b : Nat) (f : RbarSt → RbarSt) : State := { s with rbars := tset rbarD s.rbars b (f (rbarOf s b)) }

/-! ## States of a port (R462) -/

def lkDisabled : Nat := 0
def lkDetect : Nat := 1
def lkTrain : Nat := 2
def lkAlign : Nat := 3
def lkHello : Nat := 4
def lkUp : Nat := 5
def lkDegraded : Nat := 6
def lkFault : Nat := 7

def lnkState (s : State) (p : Nat) : Nat := fld s (LNK_STATUS p) 19 16
def setLnkState (s : State) (p st : Nat) : State := setFld s (LNK_STATUS p) 19 16 st

/-- Whether a port carries all traffic. -/
def carries (s : State) (p : Nat) : Bool := lnkState s p == lkUp || lnkState s p == lkDegraded

/-- Whether a port has codeword lock and HELLO frames pass. -/
def locked (s : State) (p : Nat) : Bool := lnkState s p == lkHello || carries s p

/-- Whether the peer of a port reports another rope (R465). -/
def crossRope (s : State) (p : Nat) : Bool := decide (fld s (LNK_PEER_ROPE p) 15 0 ≠ fld s LNK_ROPE 15 0)

def relayOn (s : State) : Bool := flag s LNK_RELAY_CFG 31

/-! ## The default route to the fabric manager (R474) -/

/-- The smallest FM_DIST of a peer whose port is up, with the lowest port that reports it. -/
def fmBest (s : State) : Option (Nat × Nat) :=
  ((List.range 4).filter (carries s)).foldl (fun r p =>
    let d := fld s (LNK_PEER p) 31 24
    match r with
    | some (d0, p0) => if d < d0 then some (d, p) else some (d0, p0)
    | none => some (d, p)) none

def fmDist (s : State) : Nat :=
  if relayOn s then 0 else match fmBest s with | some (d, _) => if d < 31 then d + 1 else 0xFF | none => 0xFF

def fmPort (s : State) : Nat := match fmBest s with | some (_, p) => p | none => 0

/-! ## The link routing table (R472, R476) -/

def routeAt (a : Nat) : Nat := 0x10A00000 + 16 * a
def routeWord (s : State) (a : Nat) : Nat := tabNum s (routeAt a) 4

/-- The ports of a 4-bit mask. -/
def maskPorts (m : Nat) : List Nat := (List.range 4).filter (nbit m)

/-- The ports that a field of an entry names. -/
def entryPorts (s : State) (a lo : Nat) : List Nat := maskPorts (nbits (routeWord s a) (lo + 3) lo)

/-- Whether an entry is valid: that of a device address has at most one bit in EGRESS and in ALT. -/
def entryV (s : State) (a : Nat) : Bool :=
  nbit (routeWord s a) 31
    && (decide (0x80 ≤ a) || (decide ((entryPorts s a 26).length ≤ 1) && decide ((entryPorts s a 22).length ≤ 1)))

/-- The addresses whose entries hold something. -/
def routeUsed (s : State) : List Nat :=
  uniq ((s.tabs.filter (fun e => decide (0x10A00000 ≤ e.1) && decide (e.1 < 0x10A10000))).map (fun e => (e.1 - 0x10A00000) / 16))

/-- The ports an entry sends on: ALT in place of EGRESS while one of EGRESS has gone down. -/
def entryOut (s : State) (a : Nat) : List Nat :=
  let eg := entryPorts s a 26
  let alt := entryPorts s a 22
  if !alt.isEmpty && eg.any (fun p => (lnk s p).failed) then alt else eg

/-- An entry's frame count goes up, wrapping. -/
def countEntry (s : State) (a : Nat) : State :=
  tabWrite s (routeAt a + 4) (leBytes 4 ((tabNum s (routeAt a + 4) 4 + 1) % 4294967296))

/-- A port went down: the entries that hold it and have an ALT switch over. -/
def failover (s : State) (p : Nat) : State :=
  if (lnk s p).failed then s
  else
    let s1 := updLnk s p (fun x => { x with failed := true })
    if (routeUsed s1).any (fun a => entryV s1 a && (entryPorts s1 a 26).contains p && !(entryPorts s1 a 22).isEmpty) then
      notice (irq (bump s1 LNK_FAILOVER_CNT) pgLnk 1) 0x0005 p []
    else s1

/-! ## Frames as bytes (R467) -/

/-- The ROUTE of a source-routed frame: NH in [47:43], the port codes from [1:0] up. -/
def routeField (codes : List Nat) : Nat := codes.length % 32 * 2 ^ 43 + codes.foldr (fun c n => c % 4 + 4 * n) 0

/-- Header and payload, without the CRC. -/
def frameBytes (f : Frame) : List Byte :=
  leBytes 1 f.typ ++ leBytes 1 (f.vc % 4 * 64 + b2n f.sr * 32 + b2n f.clsB * 16) ++ leBytes 2 (f.dst % 4096)
    ++ leBytes 2 (f.src % 4096) ++ leBytes 2 f.payload.length ++ leBytes 1 f.ttl ++ leBytes 1 f.sgen
    ++ (if f.sr then leBytes 6 (routeField f.codes) else leBytes 4 f.seq ++ leBytes 2 0) ++ f.payload

/-- One bit step of the reflected CRC-32. -/
def crc32Bit (c : Nat) : Nat := if c % 2 = 1 then c / 2 ^^^ 0xEDB88320 else c / 2

/-- The CRC-32 of a list of bytes. -/
def crc32 (bs : List Byte) : Nat :=
  (bs.foldl (fun c b => (List.range 8).foldl (fun n _ => crc32Bit n) (c ^^^ b.toNat)) 0xFFFFFFFF) ^^^ 0xFFFFFFFF

/-- What the link carries of a frame. -/
def wireBytes (f : Frame) : List Byte :=
  let bs := frameBytes f
  bs ++ leBytes 4 (if f.bad = 0 then crc32 bs else crc32 bs ^^^ 0xFFFFFFFF)

/-- The flits of a frame, and the bytes of one. -/
def flitCount (f : Frame) : Nat := (20 + f.payload.length + 63) / 64
def flitBytes (f : Frame) (i : Nat) : List Byte := padTo 64 ((wireBytes f).drop (64 * i))

/-- A frame from the bytes of a relay slot, with SRC forced to the fabric manager's (R483); none where LEN is above 2,048. -/
def parseFrame (bs0 : List Byte) : Option Frame :=
  let bs := padTo 4096 bs0
  let n (o k : Nat) : Nat := ofLe ((bs.drop o).take k)
  let len := n 6 2
  if 2048 < len then none
  else
    let sr := nbit (n 1 1) 5
    let nh := nbits (n 10 6) 47 43
    some { typ := n 0 1, vc := nbits (n 1 1) 7 6, sr := sr, clsB := false, dst := n 2 2 % 4096, src := fmAddr, ttl := n 8 1
           sgen := n 9 1, seq := if sr then 0 else n 10 4
           codes := if sr then (List.range nh).map (fun i => n 10 6 / 4 ^ i % 4) else []
           payload := (bs.drop 16).take len, bad := 0 }

/-! ## Sending (R460, R470, R473) -/

/-- Flits that a port has sent, into its replay buffer of 32 KiB. -/
def bufferFlits (s : State) (p : Nat) (f : Frame) : State :=
  updLnk s p (fun x =>
    let n := flitCount f
    let new := (List.range n).map (fun i => ((x.txFlit + i) % 4096, f, i))
    let all := x.buf ++ new
    { x with txFlit := (x.txFlit + n) % 4096, buf := all.drop (all.length - 512) })

/-- One copy of a frame sent on a port: TTL decreases, the class is that of R470. -/
def sendOn (inp : Option Nat) (dl : List Nat) (f : Frame) (s : State) (p : Nat) : State :=
  if !carries s p then s
  else if crossRope s p then bump s LNK_CROSS_ROPE_CNT
  else
    let turn := (match inp with | some q => decide (q < 2) | none => false) && decide (2 ≤ p)
    let cls := if f.sr then false else if dl.contains p then true else if turn then false else f.clsB
    let g := { f with ttl := f.ttl - 1, clsB := cls }
    bufferFlits { bump s (LNK_TX_FRAMES p) with sent := s.sent ++ [(p, g)] } p g

/-- Copies sent on ports, never on the one that the frame arrived on; a frame that came in on a port counts as forwarded. -/
def sendCopies (s : State) (inp : Option Nat) (dl out0 : List Nat) (f : Frame) : State :=
  let out := out0.filter (fun p => decide (inp ≠ some p))
  let s1 := out.foldl (sendOn inp dl f) s
  if inp.isSome && out.any (carries s) then bump s1 LNK_FWD_CNT else s1

/-! ## The relay's RX ring (R483) -/

def relaySize (s : State) : Nat := 2 ^ fld s LNK_RELAY_CFG 15 12

/-- A frame for the fabric manager goes to the slot at RX_HEAD, or is dropped where the ring is full. -/
def relayRx (s : State) (f : Frame) : State :=
  let h := fld s LNK_RELAY_RX_HEAD 11 0
  let h' := (h + 1) % relaySize s
  if h' = fld s LNK_RELAY_RX_TAIL 11 0 then irq (bump s LNK_RELAY_DROP_CNT) pgLnk 4
  else
    let s1 := hostWrite s (rd64 s (LNK_RELAY_RX_LO 0) (LNK_RELAY_RX_LO 1) + 4096 * h) (frameBytes f)
    { setFld s1 LNK_RELAY_RX_HEAD 11 0 h' with relay := { s1.relay with moved := true } }

/-! ## Delivery (R471, R473) -/

/-- The frames that a local agent takes up; of BULK frames the requests, since this device sends none (R480). -/
def forAgent (f : Frame) : Bool :=
  let n (o k : Nat) : Nat := ofLe ((f.payload.drop o).take k)
  [0x02, 0x03, 0x07, 0x10].contains f.typ
    || (f.typ == 0x08 && decide (16 ≤ f.payload.length)
      && (n 2 1 == 0x01 || (n 2 1 == 0x02 && f.payload.length == 20 && decide (n 16 4 ≤ 2032))))

/-- A frame for this device's own agents waits for them; a device without an address takes only source-routed frames, and
link-local ones. -/
def deliverFrame (s : State) (f : Frame) : State :=
  if f.bad = 2 then bump s LNK_STOMP_CNT
  else if f.bad ≠ 0 then s
  else
    let s1 := bump s LNK_LOCAL_CNT
    if !f.sr && f.dst == fmAddr then (if relayOn s then relayRx s1 f else s1)
    else if !f.sr && f.dst != 0xFFF && decide (0x7F < fld s LNK_ADDR 11 0) then s
    else if forAgent f then { s1 with inbox := s1.inbox ++ [f] } else s1

/-! ## HELLO (R464 to R466) -/

/-- The half of a difference of stamps; which way an odd one rounds is left open (log entry 3). -/
def half (s : State) (d : Int) : Int × State :=
  if d % 2 = 0 then (d / 2, s) else let (n, t) := drawNat s; (d / 2 + (n % 2 : Nat), t)

/-- The offset and the delay from the four stamps of an exchange (R466). -/
def helloTimes (s : State) (p t1 t2 t3 t4 : Nat) : State :=
  let i (n : Nat) : Int := sx 64 n
  let (d, s1) := half s ((i t4 - i t1) - (i t3 - i t2))
  let (o, s2) := half s1 ((i t2 - i t1) - (i t4 - i t3))
  wrN (wrS s2 (LNK_PEER_OFF p) o) (LNK_PEER_DELAY p) (twos 32 d)

/-- A valid HELLO received on a port. -/
def takeHello (s : State) (p : Nat) (f : Frame) : State :=
  let n (o k : Nat) : Nat := ofLe ((f.payload.drop o).take k)
  let uid := n 0 8
  let x := lnk s p
  let s1 := wr64 s (LNK_PEER_UID_LO p 0) (LNK_PEER_UID_LO p 1) uid
  let s2 := wrN s1 (LNK_PEER p) (n 14 1 * 0x1000000 + n 13 1 * 0x10000 + n 12 1 % 4 * 0x4000 + n 8 2 % 4096)
  let s3 := setFlag (wrN s2 (LNK_PEER_ROPE p) (n 10 2)) (LNK_STATUS p) 10 true
  let s4 := if n 40 8 = 0 then s3 else helloTimes s3 p (n 40 8) (n 32 8) (n 24 8) s.ft
  let s5 := updLnk s4 p (fun y => { y with helloRx := some s.ft, peerTx := n 24 8, seen := some uid })
  let s6 := if x.seen = some uid then s5 else notice (irq s5 (pgPortL p) 2) 0x0003 p (leBytes 8 uid)
  if lnkState s p = lkHello then
    let full := fld s (LNK_STATUS p) 15 12 == 8
    let s7 := setLnkState (updLnk s6 p (fun y => { y with upAt := s.ft })) p (if full then lkUp else lkDegraded)
    notice (irq s7 (pgPortL p) (if full then 0 else 3)) 0x0001 p []
  else s6

/-- Whether a frame is a valid HELLO. -/
def helloOk (f : Frame) : Bool :=
  f.typ == 0x01 && f.vc == 0 && !f.sr && f.dst == 0xFFF && f.bad == 0 && f.payload.length == 48

/-! ## The switch (R468, R473) -/

/-- Whether TYPE and VC of a frame agree. -/
def typeOk (f : Frame) : Bool :=
  if [0x01, 0x02, 0x03, 0x04, 0x05, 0x06].contains f.typ then f.vc == 0
  else if f.typ = 0x07 ∨ f.typ = 0x08 then f.vc == 2
  else f.typ == 0x10 && f.vc == 1

/-- The addresses that are reserved (R471). -/
def reservedAddr (a : Nat) : Bool :=
  (decide (0x080 ≤ a) && decide (a ≤ 0x0FD)) || (decide (0x100 ≤ a) && decide (a ≤ 0x7FF))

def noRoute (s : State) : State := irq (bump s LNK_NOROUTE_CNT) pgLnk 0

/-- route(). -/
def routeFrame (s : State) (inp : Option Nat) (f : Frame) : State :=
  if !typeOk f then bump s LNK_SR_BAD_CNT
  else if f.dst = 0xFFF ∧ !f.sr then
    match inp with
    | some p =>
      if f.typ = 0x01 then (if helloOk f then takeHello s p f else if f.bad = 2 then bump s LNK_STOMP_CNT else s) else deliverFrame s f
    | none => deliverFrame s f
  else if f.ttl = 0 then bump s LNK_TTL_CNT
  else if f.sr then
    if f.vc ≠ 0 then bump s LNK_SR_BAD_CNT
    else match f.codes with
      | [] => deliverFrame s f
      | c :: t => sendCopies s inp [] [c % 4] { f with codes := t }
  else if f.dst = fmAddr ∧ !entryV s fmAddr then
    if relayOn s then deliverFrame s f
    else if fmDist s = 0xFF then noRoute s
    else sendCopies s inp [] [fmPort s] f
  else if !entryV s f.dst || reservedAddr f.dst then noRoute s
  else
    let s1 := countEntry s f.dst
    let s2 := if nbit (routeWord s f.dst) 30 then deliverFrame s1 f else s1
    let out := entryOut s f.dst
    if !out.isEmpty && !out.any (carries s) then noRoute s2
    else sendCopies s2 inp (entryPorts s f.dst 18) out f

/-- A frame that arrives on a port: only HELLO frames pass before the port is up, only link-local ones across ropes; a
CRC that fails is counted here. -/
def arriveFrame (s : State) (p : Nat) (f : Frame) : State :=
  if !locked s p || (lnkState s p == lkHello && f.typ != 0x01) then s
  else
    let s1 := updLnk (bump s (LNK_RX_FRAMES p)) p (fun x => { x with rxFlit := (x.rxFlit + flitCount f) % 4096 })
    let s2 := if f.bad = 1 then bump s1 LNK_CRC_CNT else s1
    if (f.dst ≠ 0xFFF ∨ f.sr) ∧ crossRope s p then bump s2 LNK_CROSS_ROPE_CNT
    else routeFrame s2 (some p) f

/-- FRAME_ROUTE. -/
def execFrameRoute (x : FrameIn) (now : Nat) (s0 : State) : Out :=
  let s := advance s0 now
  match x with
  | .own => (match s.txq with
    | [] => .next s
    | f :: t => .next (routeFrame { s with txq := t } none f))
  | .arrive p f => if p < 4 then .next (arriveFrame s p f) else .next s

/-! ## Training (R462, R463) -/

/-- Whether a JTAG instruction that takes the pins is in force, EXTEST, CLAMP, HIGHZ, EXTEST_PULSE or EXTEST_TRAIN: no link has a
signal then (spec/21_debug_test.md R613; log entry 167). -/
def pinsTaken (s : State) : Bool := [0x00, 0x03, 0x04, 0x05, 0x06].contains s.jtag.ir

/-- LINK_SIGNAL_DETECT. -/
def execLinkSignalDetect (p now : Nat) (s0 : State) : Out :=
  let s := advance s0 now
  if p < 4 ∧ lnkState s p = lkDetect ∧ !pinsTaken s then .next (setLnkState (updLnk s p (fun x => { x with trainAt := s.ft })) p lkTrain) else .next s

/-- LINK_TRAINED: on 8 lanes, or with ALLOW_HALF on 4 (R461), within 20 ms. -/
def execLinkTrained (p lanes now : Nat) (s0 : State) : Out :=
  let s := advance s0 now
  if p < 4 ∧ !pinsTaken s ∧ (lnkState s p = lkTrain ∨ lnkState s p = lkAlign) ∧ s.ft ≤ (lnk s p).trainAt + 20000000
      ∧ (lanes = 8 ∨ (lanes = 4 ∧ flag s (LNK_CFG p) 30)) then
    let s1 := setFlag (setFld (setLnkState s p lkHello) (LNK_STATUS p) 15 12 lanes) (LNK_STATUS p) 11 true
    .next (setFld s1 (LNK_STATUS p) 7 0 0)
  else .next s

/-- A training attempt failed: after 8 in a row the port is in FAULT. -/
def trainFailed (s : State) (p : Nat) : State :=
  let n := satN 0xFF (fld s (LNK_STATUS p) 7 0 + 1)
  let s1 := setFld s (LNK_STATUS p) 7 0 n
  if 8 ≤ n then setLnkState (updLnk s1 p (fun x => { x with faultAt := s.ft })) p lkFault else setLnkState s1 p lkDetect

/-- LINK_TRAIN_TIMEOUT. -/
def execLinkTrainTimeout (p now : Nat) (s0 : State) : Out :=
  let s := advance s0 now
  if p < 4 ∧ (lnkState s p = lkTrain ∨ lnkState s p = lkAlign) ∧ (lnk s p).trainAt + 20000000 ≤ s.ft then .next (trainFailed s p)
  else .next s

/-- LINK_FAULT_RETRY. -/
def execLinkFaultRetry (p now : Nat) (s0 : State) : Out :=
  let s := advance s0 now
  if p < 4 ∧ lnkState s p = lkFault ∧ (lnk s p).faultAt + 1000000000 ≤ s.ft then
    .next (setLnkState (updLnk s p (fun x => { x with trainAt := s.ft })) p lkTrain)
  else .next s

/-- A port that leaves HELLO, UP or DEGRADED for a state; its entries switch over. -/
def portFall (s : State) (p st : Nat) : State :=
  failover (setLnkState (setFld (setFld s (LNK_STATUS p) 15 12 0) (LNK_STATUS p) 11 10 0) p st) p

/-- A port that has lost its link returns to DETECT. -/
def linkFalls (s : State) (p : Nat) : State :=
  notice (irq (bump (portFall s p lkDetect) (LNK_DOWN_CNT p)) (pgPortL p) 1) 0x0002 p []

/-- The replays of the last 1 ms. -/
def lateReplays (s : State) (p : Nat) : Nat := ((lnk s p).replays.filter (fun t => decide (s.ft < t + 1000000))).length

/-- LINK_DOWN. -/
def execLinkDown (p : Nat) (why : LinkLoss) (now : Nat) (s0 : State) : Out :=
  let s := advance s0 now
  let due : Bool := match why with
    | .replays => decide (fld s (LNK_CFG p) 7 0 < lateReplays s p)
    | _ => true
  if p < 4 ∧ locked s p ∧ due then .next (linkFalls s p) else .next s

/-- FAILBACK: UP for FAILBACK_MS, then FB_GAP_US after the ALT egress has sent what it accepted, which in this model is at
once. -/
def execFailback (p now : Nat) (s0 : State) : Out :=
  let s := advance s0 now
  if p < 4 ∧ (lnk s p).failed ∧ lnkState s p = lkUp
      ∧ (lnk s p).upAt + fld s LNK_SW_CFG 15 0 * 1000000 + fld s LNK_SW_CFG 23 16 * 1000 ≤ s.ft then
    .next (updLnk s p (fun x => { x with failed := false }))
  else .next s

/-! ## Replay (R460) -/

/-- FEC_UNCORRECTABLE: the codeword's flits are discarded and a NAK names the first lost one. -/
def execFecUncorrectable (p : Nat) (s : State) : Out :=
  if p < 4 ∧ locked s p then
    .next (updLnk (bump s (LNK_FEC_UNCORR_CNT p)) p (fun x => { x with naks := x.naks ++ [x.rxFlit] }))
  else .next s

/-- NAK: the flits from the named one on are sent again out of the replay buffer. -/
def execNak (p n now : Nat) (s0 : State) : Out :=
  let s := advance s0 now
  let x := lnk s p
  match x.buf.find? (fun e => e.1 == n) with
  | none => .next s
  | some _ =>
    if p < 4 ∧ locked s p then
      let again := (x.buf.dropWhile (fun e => e.1 != n)).map (fun e => (e.1, flitBytes e.2.1 e.2.2))
      .next (updLnk (bump s (LNK_REPLAY_CNT p)) p (fun x => { x with
        replays := s.ft :: x.replays.filter (fun t => decide (s.ft < t + 1000000)), resent := x.resent ++ again }))
    else .next s

/-! ## HELLO rows -/

/-- FLAGS of a HELLO: a compute reset in progress, BIVOUAC, the relay. -/
def helloFlags (s : State) : Nat :=
  b2n (match s.ladder.cur with | some t => decide (2 ≤ t.step) && decide (t.step ≤ 4) | none => false)
    + 2 * b2n (inBivouac s) + 4 * b2n (relayOn s)

/-- The payload of a HELLO on port p. -/
def helloBytes (s : State) (p : Nat) : List Byte :=
  let x := lnk s p
  leBytes 8 (rd64 s (SEC_UID_LO 0) (SEC_UID_LO 1)) ++ leBytes 2 (fld s LNK_ADDR 11 0) ++ leBytes 2 (fld s LNK_ROPE 15 0) ++ leBytes 1 p
    ++ leBytes 1 (fld s LNK_GEN 7 0) ++ leBytes 1 (fmDist s) ++ leBytes 1 (helloFlags s) ++ leBytes 4 (rdN s GLB_PART)
    ++ leBytes 1 (fld s GLB_STEPPING 7 0) ++ leBytes 1 (fld s (LNK_STATUS p) 15 12) ++ leBytes 2 0
    ++ leBytes 8 s.ft ++ leBytes 8 (x.helloRx.getD 0) ++ leBytes 8 x.peerTx

/-- HELLO_SEND: every 100 µs. -/
def execHelloSend (p now : Nat) (s0 : State) : Out :=
  let s := advance s0 now
  let due : Bool := match (lnk s p).helloTx with | some t => decide (t + 100000 ≤ s.ft) | none => true
  if p < 4 ∧ locked s p ∧ due then
    let k := 4 * 0xFFF
    let n := tget natD s.txSeq k
    let f : Frame := { typ := 0x01, vc := 0, sr := false, clsB := false, dst := 0xFFF, src := fld s LNK_ADDR 11 0
                       ttl := fld s LNK_SW_CFG 31 24 - 1, sgen := fld s LNK_GEN 7 0, seq := n, codes := [], payload := helloBytes s p
                       bad := 0 }
    let s1 := { bump s (LNK_TX_FRAMES p) with sent := s.sent ++ [(p, f)], txSeq := tset natD s.txSeq k ((n + 1) % 4294967296) }
    .next (bufferFlits (updLnk s1 p (fun x => { x with helloTx := some s.ft })) p f)
  else .next s

/-- HELLO: one that arrives on a port; a frame that is not a valid HELLO has no effect here. -/
def execHello (p : Nat) (f : Frame) (now : Nat) (s0 : State) : Out :=
  let s := advance s0 now
  if p < 4 ∧ helloOk f then .next (arriveFrame s p f) else .next s

/-- PEER_SILENT: 3 HELLOs missed in a row. -/
def execPeerSilent (p now : Nat) (s0 : State) : Out :=
  let s := advance s0 now
  let late : Bool := match (lnk s p).helloRx with | some t => decide (t + 300000 ≤ s.ft) | none => false
  if p < 4 ∧ flag s (LNK_STATUS p) 10 ∧ late then
    .next (notice (bump (setFlag s (LNK_STATUS p) 10 false) (LNK_HELLO_MISS_CNT p)) 0x0004 p [])
  else .next s

/-! ## Agents: the frames delivered to this device -/

/-- The oldest delivered frame that a test picks, and the state without it. -/
def takeInbox (s : State) (pick : Frame → Bool) : Option (Frame × State) :=
  match takeFirst pick s.inbox with
  | some (f, t) => some (f, { s with inbox := t })
  | none => none

/-- CMD: a descriptor for a management context (R479). -/
def execCmd (s : State) : Out :=
  match takeInbox s (fun f => f.typ == 0x03) with
  | none => .next s
  | some (f, s1) =>
    let c := ofLe (f.payload.take 2) % 1024
    let d := (f.payload.drop 8).take 64
    if f.payload.length ≠ 72 then .next s1
    else if !isMgmt (ctxOf s1 c) then .next (winDenied s1)
    else if nbit (ofLe (d.drop 60)) 31 then .next (submit s1 c (at0 (wordsOf 16 d) 14 % 512) d)
    else .next s1

/-- An answer of the bulk engine: OP, STATUS, and data. -/
def bulkAnswer (s : State) (f : Frame) (op status : Nat) (data : List Byte) : State :=
  sendFrame s 0x08 2 f.src (f.payload.take 2 ++ leBytes 1 op ++ leBytes 1 status ++ (f.payload.drop 4).take 12 ++ data)

/-- The context and the offset of a BULK payload. -/
def bulkCtx (f : Frame) : Nat := ofLe (f.payload.take 2) % 1024
def bulkOff (f : Frame) : Nat := ofLe ((f.payload.drop 8).take 8)
def bulkOp (f : Frame) : Nat := ofLe ((f.payload.drop 2).take 1)

/-- BULK_WRITE: acknowledged after its bytes are in LPDDR5X (R480). -/
def execBulkWrite (s : State) : Out :=
  match takeInbox s (fun f => f.typ == 0x08 && bulkOp f == 0x01 && decide (16 ≤ f.payload.length)) with
  | none => .next s
  | some (f, s1) =>
    let x := ctxOf s1 (bulkCtx f)
    let data := f.payload.drop 16
    if inWindow x (bulkOff f) data.length then .next (bulkAnswer (memWrite s1 (winAddr x (bulkOff f)) data) f 0x81 0x00 [])
    else .next (bulkAnswer s1 f 0x81 0x05 [])

/-- BULK_READ. -/
def execBulkRead (s : State) : Out :=
  match takeInbox s (fun f => f.typ == 0x08 && bulkOp f == 0x02 && f.payload.length == 20
      && decide (ofLe (f.payload.drop 16) ≤ 2032)) with
  | none => .next s
  | some (f, s1) =>
    let x := ctxOf s1 (bulkCtx f)
    let n := ofLe (f.payload.drop 16)
    let a := winAddr x (bulkOff f)
    if !inWindow x (bulkOff f) n then .next (bulkAnswer s1 f 0x82 0x05 [])
    else if memBad s1 a n then .next (bulkAnswer s1 f 0x82 (stMemUe % 256) [])
    else .next (bulkAnswer s1 f 0x82 0x00 (memRead s1 a n))

/-! ## The heartbeat (R426, R481) -/

/-- The payload of a HEARTBEAT. -/
def beatBytes (s : State) : List Byte :=
  let js := (s.jobs.filter running).take 8
  leBytes 8 s.ft ++ leBytes 1 (fld s LNK_GEN 7 0) ++ leBytes 1 js.length ++ leBytes 6 0
    ++ js.flatMap (fun j => leBytes 4 j.handle ++ leBytes 1 j.part ++ leBytes 3 0 ++ leBytes 8 j.lastExit)

/-- HEARTBEAT: Drimon sends it every 250 µs; it stops with Drimon's own watchdog (spec/16_hang_recovery.md R498). -/
def execHeartbeat (now : Nat) (s0 : State) : Out :=
  let s := advance s0 now
  let due : Bool := match s.relay.beat with | some t => decide (t + 250000 ≤ s.ft) | none => true
  if due ∧ !s.ladder.wdtOut then
    .next (sendFrame { s with relay := { s.relay with beat := some s.ft } } 0x05 0 fmAddr (beatBytes s))
  else .next s

/-! ## The relay (R483) -/

/-- The frames of the slots up to a new TX_HEAD stand in line to be routed; `slots` is what host memory holds in them. -/
def relayTx (s : State) (head : Nat) (slots : List (List Byte)) : State :=
  let n := (head + relaySize s - fld s LNK_RELAY_TX_TAIL 11 0) % relaySize s
  let s1 := (List.range n).foldl (fun t i => match parseFrame (slots.getD i []) with
    | some f => { t with txq := t.txq ++ [f] }
    | none => bump t LNK_SR_BAD_CNT) s
  setFld s1 LNK_RELAY_TX_TAIL 11 0 head

/-- A write of TX_HEAD. -/
def relayHead (s : State) (v : Word) (slots : List (List Byte)) : State :=
  if relaySize s ≤ bits v 11 0 then s
  else
    let s1 := setFld s LNK_RELAY_TX_HEAD 11 0 (bits v 11 0)
    if relayOn s then relayTx s1 (bits v 11 0) slots else s1

/-- The TX slots from TAIL on, as this model's host memory holds them (log entry 30): for a write of TX_HEAD that comes another
way than by its own command. -/
def hostSlots (s : State) : List (List Byte) :=
  (List.range (relaySize s)).map (fun i =>
    tgetL byte0 s.hostMem (rd64 s (LNK_RELAY_TX_LO 0) (LNK_RELAY_TX_LO 1)
      + 4096 * ((fld s LNK_RELAY_TX_TAIL 11 0 + i) % relaySize s)) 4096)

/-- RELAY_TX_HEAD_WRITE. -/
def execRelayTxHeadWrite (w : Who) (v : Word) (slots : List (List Byte)) (s : State) : Out :=
  .next (guardW s w 4 LNK_RELAY_TX_HEAD (fun t => relayHead t v slots))

/-- RELAY_IRQ: the relay's vector, at most once per 10 µs. -/
def execRelayIrq (now : Nat) (s0 : State) : Out :=
  let s := advance s0 now
  let due : Bool := match s.relay.last with | some t => decide (t + 10000 ≤ s.ft) | none => true
  if relayOn s ∧ s.relay.moved ∧ due then
    .next (sendMsix { s with relay := { s.relay with moved := false, last := some s.ft } } 0 (fld s LNK_RELAY_CFG 8 0))
  else .next s

/-! ## Remote bars (R484, R485) -/

/-- A cairn of a remote bar passed on to the paths of a port. -/
def passCairn (b p : Nat) (s : State) (c : Nat × Nat) : State :=
  let s1 := updRbar s b (fun x => { x with
    bases := (p, c.2) :: x.bases.filter (fun e => e.1 != p)
    vers := (p, nbits c.1 39 8) :: x.vers.filter (fun e => e.1 != p) })
  inject s1 { w := quad c.1, base := c.2, src := p, ext := c.2 } (barPaths s1 b p)

/-- The cairns that precede a word of port p. -/
def passHeld (s : State) (b p : Nat) : State :=
  (rbarOf s b).held.foldl (passCairn b p) (updRbar s b (fun x => { x with held := [] }))

/-- FUS_REG_VER of the ingest device in a port's stream: that of the last cairn passed on. -/
def remoteVer (s : State) (b p : Nat) : Nat := (((rbarOf s b).vers.find? (fun e => e.1 == p)).map (·.2)).getD 0

def remoteBase (s : State) (b p : Nat) : Nat := (((rbarOf s b).bases.find? (fun e => e.1 == p)).map (·.2)).getD 0

/-- The registered event that the output block keeps of a word of a remote bar. -/
def remoteMark (s : State) (b stamp n : Nat) : List EvMark :=
  match around s b stamp with
  | some (r, r') => [{ bar := b, x := nbits n 39 27, y := sx 13 (nbits n 26 14), stamp := stamp, k := r.k, reg := remoteVer s b (nbits n 12 8)
                       flags := b2n (flagsVerdict r.disp || flagsVerdict r'.disp) + 2 * nbits n 5 5 + 4 * nbits n 2 2
                                  + 8 * b2n (stamp == r.t) }]
  | none => []

/-- An EVENT word of a remote bar injected as if registration had released it. -/
def remoteEvent (s0 : State) (b n0 : Nat) : State :=
  let p := nbits n0 12 8
  let s := passHeld s0 b p
  let n := if (rbarOf s b).gaps.contains p then nput n0 5 5 1 else n0
  let s1 := updRbar s b (fun x => { x with gaps := x.gaps.filter (fun q => q != p) })
  let stamp := remoteBase s1 b p + 16 * nbits n 63 40
  let s2 := { s1 with fus := { s1.fus with newest := max s1.fus.newest stamp }
                      out := { s1.out with marks := s1.out.marks ++ remoteMark s1 b stamp n } }
  let ds := eventDests s2 b p (nbits n 39 27) (nbit n 13)
  let s3 := if ds.isEmpty then bumpPulse s2 FAB_UNROUTED_CNT 0x70000 0 else s2
  inject s3 { w := quad n, base := remoteBase s1 b p, src := p, ext := 0 } ds

/-- One 64-bit word of a WORDS frame. A cairn has two words, and belongs to the port of the next word of its bar. -/
def remoteWord (b : Nat) (s : State) (n : Nat) : State :=
  match (rbarOf s b).half with
  | some w => updRbar s b (fun x => { x with half := none, held := x.held ++ [(w, n)] })
  | none =>
    let k := nbits n 7 6
    if k = kindCairn then updRbar s b (fun x => { x with half := some n })
    else if k = kindEvent then remoteEvent s b n
    else if k = kindMark then
      let p := nbits n 39 30
      let s1 := passHeld s b p
      inject s1 { w := quad n, base := remoteBase s1 b p, src := p, ext := 0 } (barPaths s1 b p)
    else s

/-- A result from the body of a FUSION frame. -/
def remoteResult (bs : List Byte) : Issued :=
  let n (o k : Nat) : Nat := ofLe ((bs.drop o).take k)
  let w (i : Nat) : Int := sx 32 (n (16 + 4 * i) 4)
  { k := n 0 4, t := n 8 8, s := sx 64 (n 16 8), l := w 2, th := w 3, dx := w 4, dy := w 5, rz := w 6
    q := (List.range 9).map (fun i => w (7 + i)), disp := n 4 4 % 512, fall := n 4 4 / 512 % 512, held := 0, amended := 0, ins := {} }

/-- An amendment of the ingest device taken as this device's own (R203). -/
def remoteAmend (s : State) (b : Nat) (bs : List Byte) : State :=
  let n (o k : Nat) : Nat := ofLe ((bs.drop o).take k)
  let vals (o : Nat) : List Int := (List.range 9).map (fun i => sx 32 (n (o + 4 * i) 4))
  match issued s b (n 0 4) with
  | none => s
  | some r =>
    let r' := { r with amended := n 5 1, q := vals 60 }
    let s1 := updBar s b (fun x => { x with hist := x.hist.map (fun h => if h.k = r.k then { h with amended := n 5 1 } else h) })
    writeAmend (irq (bump s1 FUS_AMEND_CNT) (pgBar b) 4) b r' (n 6 2) (vals 24)

/-- The 64-bit words of a list of bytes. -/
def words64 : Nat → List Byte → List Nat
  | 0, _ => []
  | k + 1, bs => ofLe (bs.take 8) :: words64 k (bs.drop 8)

/-- The body of a STREAM frame applied to bar b. -/
def streamBody (s : State) (b : Nat) (f : Frame) : State :=
  let kind := ofLe ((f.payload.drop 1).take 1)
  let n := ofLe ((f.payload.drop 2).take 2)
  let body := f.payload.drop 16
  if !flag s (FUS_BAR_CFG b) 31 then s
  else if kind = 1 ∧ body.length = 8 * n then (words64 n body).foldl (remoteWord b) s
  else if kind = 2 ∧ body.length = 80 then
    let r := remoteResult body
    publish (updBar s b (fun x => { x with firstT := some (x.firstT.getD r.t) })) b r
  else if kind = 3 ∧ body.length = 112 then remoteAmend s b body
  else s

/-- The checks of a STREAM frame on bar b (R485). -/
def takeStream (f : Frame) (s : State) (b : Nat) : State :=
  let d := (f.seq + 4294967296 - rdN s (LNK_RBAR_SEQ b)) % 4294967296
  let same := decide ((rbarOf s b).sgen = some f.sgen)
  if same && decide (2147483648 ≤ d) then bump s LNK_SEQ_OLD_CNT
  else
    let s1 := updRbar (wrN s (LNK_RBAR_SEQ b) f.seq) b (fun x => { x with sgen := some f.sgen })
    let s2 := if same && decide (1 < d) then
        let t := updRbar (notice (irq (bump s1 LNK_SEQ_GAP_CNT) pgLnk 2) 0x0006 b []) b (fun x => { x with gaps := List.range 32 })
        if inBelay t then endJobs t errOverrun (fun j => jobBar j b) else t
      else s1
    let tx := ofLe ((f.payload.drop 8).take 8)
    let late := decide (s.ft < tx) || decide (tx + fld s (LNK_RBAR_SKEW b) 15 0 * 1000 < s.ft)
    streamBody (if late then irq (bump s2 LNK_SKEW_CNT) pgLnk 3 else s2) b f

/-- STREAM: the oldest delivered frame, taken by every remote bar that names its source; none while words of one wait for a credit
of the fabric (R230). -/
def execStream (now : Nat) (s0 : State) : Out :=
  let s := advance s0 now
  if (List.range 32).any (srcBlocked s) then .next s
  else match takeInbox s (fun f => f.typ == 0x10) with
  | none => .next s
  | some (f, s1) =>
    let bars := (List.range 8).filter (fun b => isRemote s1 b && fld s1 (LNK_RBAR b) 11 0 == f.src
      && fld s1 (LNK_RBAR b) 14 12 == ofLe (f.payload.take 1))
    .next (bars.foldl (takeStream f) s1)

/-! ## The link pages (R487 to R489) -/

/-- A write of LNK_CFG. -/
def lnkCfgWrite (s : State) (w : Who) (p : Nat) (v : Word) : State :=
  let a := LNK_CFG p
  let en := bits v 31 31 == 1
  if flag s a 31 then
    if !en then
      let s1 := setFlag s a 31 false
      if locked s1 p then portFall s1 p lkDisabled else setLnkState s1 p lkDisabled
    else if changesOther s a v 31 then wErr s w a 0x0102 else s
  else
    let s1 := plainWrite s w a v
    if en then setLnkState s1 p lkDetect else s1

/-- A write of LNK_RELAY_CFG: the bases and the size are checked where the relay is enabled. -/
def relayCfgWrite (s : State) (w : Who) (v : Word) : State :=
  let a := LNK_RELAY_CFG
  let size := bits v 15 12
  if relayOn s then
    if bits v 31 31 = 0 then setFlag s a 31 false else if changesOther s a v 31 then wErr s w a 0x0102 else s
  else if size < 4 ∨ 12 < size then wErr s w a 0x0103
  else
    let s1 := plainWrite s w a v
    if relayOn s1 then relayTx s1 (fld s1 LNK_RELAY_TX_HEAD 11 0) (hostSlots s1) else s1

/-- The relay's registers that are static while it is enabled. -/
def relayStatic (a : Nat) : Bool :=
  a == LNK_RELAY_TX_LO 0 || a == LNK_RELAY_TX_LO 1 || a == LNK_RELAY_RX_LO 0 || a == LNK_RELAY_RX_LO 1

/-- A bar whose remote traffic is enabled anew starts without history of frames. -/
def rbarStart (s : State) (b : Nat) : State := { s with rbars := tset rbarD s.rbars b {} }

/-- A bar that is forwarded from now on: the path is new, and the last cairn of each port's stream goes before its next word (R225). -/
def fwdStart (s : State) (b : Nat) : State :=
  ((List.range 32).filter (flag s (FUS_BAR_PORTS b))).foldl (fun t p =>
    let x := srcOf t p
    setSrc t p { x with fwd := if x.fresh then [] else [(lastMsg t p).w.toNat, x.base] }) s

/-- The remote bar, or the forwarded bar, that an address belongs to. -/
def rbarIdx (a : Nat) : Option Nat := (List.range 8).find? (fun b => a == LNK_RBAR b || a == LNK_RBAR_SKEW b)
def fwdIdx (a : Nat) : Option Nat := (List.range 8).find? (fun b => a == LNK_FWD b)

/-- A write of a block register of the main link page that passes the access checks. -/
def lnkMainWrite (s : State) (w : Who) (a : Nat) (v : Word) : State :=
  if a = LNK_ADDR then
    let n := bits v 11 0
    if (0x080 ≤ n ∧ n ≤ 0x0FE) ∨ 0x100 ≤ n then wErr s w a 0x0101 else setFld s a 11 0 n
  else if a = LNK_RELAY_CFG then relayCfgWrite s w v
  else if relayStatic a then
    if relayOn s then wErr s w a 0x0102
    else if (a = LNK_RELAY_TX_LO 0 ∨ a = LNK_RELAY_RX_LO 0) ∧ bits v 11 0 ≠ 0 then wErr s w a 0x0103
    else plainWrite s w a v
  else if a = LNK_RELAY_TX_HEAD then relayHead s v (hostSlots s)
  else if a = LNK_RELAY_RX_TAIL then if relaySize s ≤ bits v 11 0 then s else setFld s a 11 0 (bits v 11 0)
  else match rbarIdx a, fwdIdx a with
    | some b, _ =>
      if a = LNK_RBAR_SKEW b then staticWrite s w a v (isRemote s b) 0x0102
      else enWrite s w a v 31 0x0102 (fun _ => none) (fun t => rbarStart t b) (fun t => t)
    | none, some b => enWrite s w a v 31 0x0102 (fun _ => none) (fun t => fwdStart t b) (fun t => t)
    | none, none => plainWrite s w a v

/-- A write of a block register of a link page. -/
def lnkWrite (s : State) (w : Who) (a : Nat) (v : Word) : State :=
  match (List.range 4).find? (fun p => a == LNK_CFG p) with
  | some p => lnkCfgWrite s w p v
  | none => if pageOf a = pgLnk then lnkMainWrite s w a v else plainWrite s w a v

/-- The registers of the main page that are computed. -/
def lnkLive (s : State) (a : Nat) : Option Nat :=
  if a = LNK_ADDR then some (b2n (decide (fld s a 11 0 < 0x80)) * 0x80000000 + fld s a 11 0)
  else if a = LNK_FM then some (b2n (relayOn s) * 1024 + fmPort s * 256 + fmDist s)
  else none

/-- A soft reset: the main page's clears its counters only, a port's retrains it too. -/
def lnkSrst (s : State) (pg : Nat) : State :=
  let s1 := softCounters s pg
  match (List.range 4).find? (fun p => pg == pgPortL p) with
  | none => s1
  | some p =>
    if lnkState s1 p = lkDisabled then s1
    else if locked s1 p then portFall s1 p lkDetect else setLnkState s1 p lkDetect

end Sys2Proof.Machine
end

