-- ==== Sys2Proof/Machine/Recovery.lean ====
section
/-!
DEFINITION. The recovery ladder: steps E1 to E5, the crash dump, replay, rejoin, the watchdogs and the recovery commands
(spec/16_hang_recovery.md).
-/
namespace Sys2Proof.Machine
open Sys2Proof

def pgRec : Nat := 0x800000

def phIdle : Nat := 0
def phDump : Nat := 1
def phReset : Nat := 2
def phReplay : Nat := 3
def phRebind : Nat := 4
def phCycle : Nat := 5
def phHalted : Nat := 6

def setPhase (s : State) (ph : Nat) : State := setFld s REC_STATE 11 8 ph
def phase (s : State) : Nat := fld s REC_STATE 11 8

def stNoDump : Nat := 0x0503
def stPwrCyc : Nat := 0x0505
def stRejoin : Nat := 0x0506

/-! ## What a target covers (R490) -/

/-- The clusters that a step resets whole. -/
def stepClusters (s : State) (t : Trigger) : List Nat :=
  if t.step = 3 then partClusters s (tgtIdx t.target) else if t.step = 4 then List.range 16 else []

def stepTiles (s : State) (t : Trigger) : List Nat :=
  if t.step = 2 then (if tgtKind t.target = tgTile then [tgtIdx t.target] else [])
  else (stepClusters s t).flatMap (fun c => rangeFrom (8 * c) 8)

def stepCores (s : State) (t : Trigger) : List Nat :=
  if t.step = 2 then (if tgtKind t.target = tgCore then [tgtIdx t.target] else [])
  else (stepClusters s t).flatMap (fun c => rangeFrom (32 * c) 32)

/-- The partitions whose tag a step advances. -/
def stepParts (t : Trigger) : List Nat :=
  if t.step = 3 then [tgtIdx t.target] else if t.step = 4 then List.range 8 else []

/-- The tag of a target before its reset. -/
def targetTag (s : State) (t : Nat) : Nat :=
  if tgtKind t = tgTile then pageGen s (tilePage (tgtIdx t))
  else if tgtKind t = tgCore then pageGen s (ncPage (tgtIdx t))
  else if tgtKind t = tgPart then partGen s (tgtIdx t)
  else fld s LNK_GEN 7 0

/-! ## Dump slots (R511) -/

/-- The slot that the next dump takes: the first after the last one used that is not held, else the oldest held. -/
def nextSlot (l : LadSt) : Nat :=
  ((rangeFrom (l.last + 1) 8).map (· % 8)).find? (fun s => !l.held.contains s) |>.getD (l.held.headD 0)

/-- REC_DUMP_SLOTS follows. -/
def showSlots (s : State) : State :=
  setFld (setFld s REC_DUMP_SLOTS 7 0 (s.ladder.held.foldl (fun n k => n + 2 ^ k) 0)) REC_DUMP_SLOTS 18 16 (nextSlot s.ladder)

def dumpBase (s : State) : Nat := fld s REC_DUMP_BASE 8 0 * 0x10000000
def slotAt (s : State) (k : Nat) : Nat := dumpBase s + 0x2000000 * k

/-- Whether bytes lie in the dump region. -/
def inDump (s : State) (a n : Nat) : Bool := decide (a < dumpBase s + 0x10000000) && decide (dumpBase s < a + n)

/-! ## The contents of a dump (R512 to R516) -/

/-- What a register of a cluster's pages reads as, without a read's side effects. -/
def unitReg (s : State) (a : Nat) : Nat :=
  let v := rdN s a
  match pageKind (a / 4096) with
  | some (.tile, t) => if a % 4096 = 0x0C then nput v 4 4 (b2n (tileBusy s t)) else (tileLive s t a).getD v
  | some (.nc, n) => (ncLive s n a).getD v
  | _ => v

/-- The pages in scope, in ascending address (R515). -/
def dumpPages (s : State) (t : Trigger) : List Nat :=
  if t.step = 2 then
    let i := tgtIdx t.target
    if tgtKind t.target = tgTile then [ccPage (i / 8), tilePage i] ++ (rangeFrom (4 * i) 4).map ncPage
    else [ccPage (i / 32), tilePage (i / 4), ncPage i]
  else (stepClusters s t).flatMap (fun c => (List.range 41).map (fun k => ccPage c + 0x1000 * k))

/-- The tiles in scope, for QUEUES and SRAM. -/
def dumpTiles (s : State) (t : Trigger) : List Nat :=
  if t.step = 2 then [if tgtKind t.target = tgTile then tgtIdx t.target else tgtIdx t.target / 4] else stepTiles s t

/-- One 32-bit read of the dump agent: its value, or none where it is unreadable. -/
structure PageRd where
  vals : List (Option Nat)
  run : Nat
  timeouts : Nat
  deriving DecidableEq, Repr

/-- A page read register by register: after 16 consecutive timeouts the rest is filled without access. -/
def readPage (s : State) (silent : List Nat) (pg : Nat) : PageRd :=
  (List.range 1024).foldl (fun r i =>
    let a := pg + 4 * i
    if 16 ≤ r.run then { r with vals := r.vals ++ [none] }
    else if silent.contains a then { vals := r.vals ++ [none], run := r.run + 1, timeouts := r.timeouts + 1 }
    else { r with vals := r.vals ++ [some (unitReg s a)], run := 0 }) { vals := [], run := 0, timeouts := 0 }

/-- A 32-bit half, or 0xDEAD_C0DE in place of one that is unreadable. -/
def halfBytes (v : Option Nat) : List Byte := leBytes 4 (v.getD 0xDEADC0DE)

/-- The 8-byte words (by their place in a list of halves) that hold an unreadable half. -/
def badWords (l : List (Option Nat)) : List Nat :=
  (List.range ((l.length + 1) / 2)).filter (fun i => (l.getD (2 * i) (some 0)).isNone || (l.getD (2 * i + 1) (some 0)).isNone)

/-- The 64 bytes of an entry of the log of R39. -/
def entryBytes (e : LogEntry) : List Byte :=
  (List.range 64).map (fun i => BitVec.ofNat 8 (Config.logByte ([e.ft, loopCode e.loop, e.old, e.new, e.reason] ++ e.data) i))

/-- The last n entries, oldest first. -/
def lastEntries (s : State) (n : Nat) : List LogEntry := s.log.drop (s.log.length - n)

/-- Section CONTEXTS of one context. -/
def ctxBytes (s : State) (c : Nat) : List Byte :=
  let x := ctxOf s c
  let words := [wStatus s c, rdN s (HIF_W_NEXT_SEQ c), rdN s (HIF_W_CQ_HEAD c), rdN s (HIF_W_CQ_TAIL c), min 64 x.held.length,
    b2n x.en * 0x80000000 + x.func * 256 + winSlot s c, x.memBase, x.memSize, x.defBudget * 65536 + x.maxBudget, x.ancLo * 262144 + x.ancN]
  padTo 64 (bytesOf words) ++ padTo 1024 (x.recent.reverse.flatMap (fun ws => padTo 64 (bytesOf ws)))

/-- ANC_CTRL of an anchor. -/
def ancCtrlWord (s : State) (a : Nat) : Nat :=
  let x := anc s a
  b2n x.fault * 0x80000000 + b2n x.ovf * 0x40000000 + x.gen % 256 * 65536 + x.owner % 16 * 256 + min 255 (waiters s a)

def ancBytes (s : State) (a : Nat) : List Byte := leBytes 8 (anc s a).val ++ leBytes 4 (ancCtrlWord s a) ++ leBytes 4 0

/-- The 128 bytes of a queue entry: the words of a window command. The layout of another command is not given; its fields
that R286 names stand at their places in R329. -/
def cmdBytes (c : TileCmd) : List Byte :=
  match c.work with
  | .window ws => padTo 128 (bytesOf ws)
  | _ => padTo 128 (List.replicate 80 0
      ++ padTo 32 (c.waits.flatMap (fun w => leBytes 8 ((0x80000000 + w.1 + w.2 / 4294967296 % 65536 * 16384) + w.2 % 4294967296 * 4294967296)))
      ++ (match c.sig with | some (a, i) => leBytes 4 (0x80000000 + a * 65536 + i) | none => leBytes 4 0)
      ++ leBytes 4 (c.budget * 65536) ++ leBytes 4 c.seq)

def queueBytes (s : State) (t : Nat) : List Byte :=
  let x := tileOf s t
  ([x.tq, x.vq, x.sq]).flatMap (fun q => padTo 4096 (q.cmds.flatMap cmdBytes))

/-- The aperture ranges (place, bytes) that section SRAM holds, in order. -/
def dumpSram (t : Trigger) : List (Nat × Nat) :=
  if t.step ≠ 2 then []
  else
    let u := if tgtKind t.target = tgTile then tgtIdx t.target else tgtIdx t.target / 4
    [(tileAt u, tileSize), (clusterAt (u / 8), clusterSize)]

/-- SRAM with 0xDEAD_C0DE in place of each uncorrectable word. -/
def sramImage (s : State) (a n : Nat) : List Byte :=
  (List.range (n / 8)).flatMap (fun i =>
    if tget boolD s.poison (a / 8 + i) then halfBytes none ++ halfBytes none else sramRead s (a + 8 * i) 8)

/-- The sections as they are written: index, offset in the slot, bytes; VALID is written with the header. -/
structure DumpImg where
  secs : List (Nat × Nat × List Byte)
  /-- 8-byte words of the slot that are invalid -/
  bad : List Nat
  timeouts : Nat
  ues : Nat
  deriving DecidableEq, Repr

/-- The image of a dump. -/
def dumpImage (s : State) (t : Trigger) (d : DumpIn) : DumpImg :=
  let pages := (dumpPages s t).map (readPage s d.silent)
  let queues := (dumpTiles s t).flatMap (queueBytes s)
  let qo := 0x211000 + 0x1000 * pages.length
  let so := (qo + queues.length + 4095) / 4096 * 4096
  let sram := (dumpSram t).map (fun e => (e, sramImage s e.1 e.2))
  let pageBad := (pages.zip (List.range pages.length)).flatMap (fun e => (badWords e.1.vals).map (fun i => (0x211000 + 0x1000 * e.2) / 8 + i))
  let places := [so, so + tileSize]
  let sramBadWs := ((dumpSram t).zip places).flatMap (fun e =>
    ((List.range (e.1.2 / 8)).filter (fun i => tget boolD s.poison (e.1.1 / 8 + i))).map (fun i => e.2 / 8 + i))
  let late := d.unread.flatMap (fun e => touched e.1 e.2)
  { secs := [(2, 0x81000, padTo 0x40000 ((lastEntries s 4096).flatMap entryBytes)),
             (3, 0xC1000, (List.range 1024).flatMap (ctxBytes s)),
             (4, 0x1D1000, (List.range 16384).flatMap (ancBytes s)),
             (5, 0x211000, pages.flatMap (fun r => r.vals.flatMap halfBytes)),
             (6, qo, queues)]
             ++ (if sram.isEmpty then [] else [(7, so, sram.flatMap (·.2))])
    bad := uniq (pageBad ++ sramBadWs ++ late)
    timeouts := (pages.map (·.timeouts)).foldl (· + ·) 0
    ues := sramBadWs.length }

/-- Section VALID: bit i of the slot's words that hold a section and are valid; the words of the header and of VALID are. -/
def validBytes (m : DumpImg) : List Byte :=
  let inSec (w : Nat) : Bool := decide (w < 0x81000 / 8) ||
    m.secs.any (fun e => decide (e.2.1 / 8 ≤ w) && decide (w < (e.2.1 + e.2.2.length + 7) / 8))
  (List.range 0x80000).map (fun i =>
    BitVec.ofNat 8 ((List.range 8).foldl (fun n b => n + b2n (inSec (8 * i + b) && !m.bad.contains (8 * i + b)) * 2 ^ b) 0))

/-- The SECTIONS field: OFFSET and LENGTH of sections 1 to 8. -/
def sectionTable (m : DumpImg) : List Byte :=
  leBytes 4 0x1000 ++ leBytes 4 0x80000 ++ (rangeFrom 2 7).flatMap (fun i =>
    match m.secs.find? (fun e => e.1 == i) with
    | some e => leBytes 4 e.2.1 ++ leBytes 4 e.2.2.length
    | none => leBytes 8 0)

/-- FLAGS: TRUNCATED, OVERWROTE, SRAM, HOST_REQ. -/
def dumpFlags (t : Trigger) (d : DumpIn) (beyond : Bool) : Nat :=
  b2n (!d.unread.isEmpty) + 2 * b2n beyond + 4 * b2n (!(dumpSram t).isEmpty) + 8 * b2n (t.cause == csHostReq)

/-- The header (R512). -/
def dumpHeader (s : State) (t : Trigger) (d : DumpIn) (m : DumpImg) (slot dseq : Nat) (beyond : Bool) : List Byte :=
  let gen := fld s LNK_GEN 7 0
  let before := if t.step = 4 then (gen + 255) % 256 else gen
  padTo 4096 (leBytes 4 0x504D5544 ++ leBytes 1 0x01 ++ leBytes 1 t.step ++ leBytes 1 (dumpFlags t d beyond) ++ leBytes 1 slot
    ++ leBytes 4 dseq ++ leBytes 4 t.target ++ leBytes 8 t.ft ++ leBytes 8 d.from_ ++ leBytes 8 s.ft ++ leBytes 4 t.cause
    ++ leBytes 4 t.ctx ++ leBytes 4 t.cmdSeq ++ leBytes 1 (if t.step = 4 then before else targetTag s t.target) ++ leBytes 1 before
    ++ leBytes 2 0 ++ leBytes 4 m.bad.length ++ leBytes 4 m.timeouts ++ sectionTable m)

/-- Words of the slot that were not read are filled. -/
def fillWords (s : State) (base : Nat) (ws : List Nat) : State :=
  ws.foldl (fun t w => memWrite t (base + 8 * w) (halfBytes none ++ halfBytes none)) s

/-- The errors that the reading of SRAM for a dump meets: each is recorded in its page, a single-bit error corrected
(spec/09_tensor_tiles.md R308). -/
def dumpErrs (s : State) (l : List (Nat × Nat)) : State :=
  (markedIn s.poison l).foldl (fun u w => sramUe u (8 * w)) (correct s l)

/-- The unit of a page of a cluster. -/
def pageUnit (pg : Nat) : Option Nat :=
  match pageKind (pg / 4096) with
  | some (.tile, t) => some t
  | some (.nc, n) => some (128 + n)
  | some (.cc, c) => some (640 + c)
  | _ => none

/-- The reads that units left unanswered may still be answered (R493). -/
def silentGhosts (s : State) (t : Trigger) (d : DumpIn) : List Ghost :=
  ((d.silent.filter (fun a => (dumpPages s t).contains (pageOf a))).filterMap (fun a => pageUnit (pageOf a))).map (fun u =>
    { unit := u, kind := 3, gen := pageGen s (unitPageOf u), sig := none })

/-- The dump of a step: sections, then the header; the slot is held, and DUMP_READY is sent. -/
def dumpStep (s : State) (t : Trigger) (d : DumpIn) : State :=
  let slot := nextSlot s.ladder
  let beyond := s.ladder.held.contains slot
  let dseq := rdN s REC_DUMP_SEQ + 1
  let m := dumpImage s t d
  let base := slotAt s slot
  let s1 := m.secs.foldl (fun u e => memWrite u (base + e.2.1) e.2.2) s
  let s2 := fillWords s1 base (d.unread.flatMap (fun e => touched e.1 e.2))
  let s3 := memWrite (memWrite s2 (base + 0x1000) (validBytes m)) base (dumpHeader s t d m slot dseq beyond)
  let s4 := updLad s3 (fun l => { l with
    slot := slot, last := slot, held := l.held.filter (fun k => k != slot) ++ [slot],
    ghosts := l.ghosts ++ silentGhosts s t d })
  let s5 := bump (wrN (showSlots s4) REC_DUMP_SEQ dseq) REC_DUMP_CNT
  let s6 := bumpN (bumpN (bumpN s5 REC_DUMP_INVALID_CNT m.bad.length) REC_DUMP_TIMEOUT_CNT m.timeouts) REC_DUMP_UE_CNT m.ues
  let s7 := if beyond then bump s6 REC_DUMP_OVERWRITE_CNT else s6
  notice (irq (dumpErrs s7 (dumpSram t)) pgRec 2) 0x0102 slot (leBytes 4 dseq ++ leBytes 1 (dumpFlags t d beyond))

/-! ## Beginning and ending a step (R500) -/

/-- The counter of a step's level. -/
def stepCnt (k : Nat) : Nat := REC_E1_CNT + 4 * (k - 1)

/-- The commands and the jobs that the unit of an E2 holds now. -/
def unitCmds (s : State) (t : Trigger) : List TileCmd :=
  if t.step = 2 ∧ tgtKind t.target = tgTile then
    let x := tileOf s (tgtIdx t.target)
    x.tq.cmds ++ x.vq.cmds ++ x.flight ++ x.sq.cmds
  else []

def unitJobs (s : State) (t : Trigger) : List Nat :=
  if t.step ≠ 2 then []
  else (s.jobs.filter (fun j => running j && (if tgtKind t.target = tgTile then j.plan.tiles.contains (tgtIdx t.target)
    else j.plan.cores.contains (tgtIdx t.target)))).map (·.handle)

/-- The units that a step stopped show HALTED until its reset begins (spec/02_register_pages.md R52). -/
def stopUnits (s : State) (t : Trigger) : State :=
  let pages := (stepClusters s t).map ccPage ++ (stepTiles s t).map tilePage ++ (stepCores s t).map ncPage
  pages.foldl (fun u pg => if unitState u pg = stOff ∨ unitState u pg = stReset then u else setUnitState u pg stHalted) s

/-- A step begins: what it shows, counts and sends. LNK_GEN advances at the start of an E4 (R492), and from an E3 on a step is an
error for the health rule (spec/17_boot_update.md R542). -/
def beginStep (s0 : State) (t : Trigger) : State :=
  let sh := if 3 ≤ t.step then healthErr s0 else s0
  let s := if 2 ≤ t.step ∧ t.step ≤ 4 then stopUnits sh t else sh
  let s1 := updLad s (fun l => { l with
    cur := some t, begun := s.ft, hist := (t.step, t.target, s.ft) :: l.hist, slot := 255, heldCmds := unitCmds s t
    served := unitJobs s t, blamed := false })
  let s2 := setFld (setPhase s1 (if t.step = 1 then phReset else if t.step = 5 then phCycle else phDump)) REC_STATE 2 0 t.step
  let s3 := wrN (wrN s2 REC_TARGET t.target) REC_CAUSE (0xFFFF0000 + t.cause)
  let s4 := irq (bump s3 (stepCnt t.step)) pgRec 0
  let s5 := if t.step = 4 then setFld s4 LNK_GEN 7 0 (fld s4 LNK_GEN 7 0 + 1) else s4
  let s6 := addLog s5 .hang 0 t.step t.cause
  notice s6 0x0100 t.step (leBytes 4 t.target ++ leBytes 4 t.cause
    ++ leBytes 1 (if 2 ≤ t.step ∧ t.step ≤ 4 then nextSlot s6.ladder else 0xFF) ++ leBytes 1 (fld s6 LNK_GEN 7 0))

/-- The RESULT of a RESET (R518). -/
def resetResult (s : State) : Nat :=
  let b := fld s REC_CAUSE 31 16
  (if s.ladder.blamed then 0x80000000 + b % 1024 * 65536 else 0) + s.ladder.slot

/-- The RESET commands of the step end with a status. -/
def endResets (s : State) (t : Trigger) (status : Nat) : State :=
  t.cmds.foldl (fun u e => setStatus u e.1 e.2 status (resetResult u)) s

/-! ## E1 (R502) -/

/-- The unfinished commands of a context that the step ends, in SEQ order. -/
def e1Cmds (s : State) (c : Nat) : List CmdSt := (ctxOf s c).cmds.filter (fun k => !k.orphan)

/-- The context stops: RESETTING, its generation advanced; a binder command is rolled back. -/
def e1Stop (s : State) (t : Trigger) : State :=
  let c := tgtIdx t.target
  let old := (ctxOf s c).cgen
  let s1 := (s.binder.filter (fun e => e.1 == c && (e1Cmds s c).any (fun k => k.seq == e.2))).foldl (fun u e => rollBack u e.1 e.2) s
  let s2 := updCtx s1 c (fun x => { x with
    resetting := true, cgen := (x.cgen + 1) % 256
    cmds := x.cmds.map (fun k => if k.started then k else { k with cgen := old }) })
  updLad s2 (fun l => { l with stopped := some (c, if t.cause = csBudget then some t.cmdSeq else none) })

/-- The records of the stopped commands, in SEQ order, and the context's return to ACTIVE. -/
def e1End (s : State) : State :=
  match s.ladder.stopped with
  | none => s
  | some (c, blame) =>
    let ks := e1Cmds s c
    let s0 := updLad s (fun l => { l with late := l.late ++ (ks.filter (fun k => k.started)).map (fun k => (c, k.seq, k.cgen)) })
    let s1 := ks.foldl (fun u k => endCmd u c k (if blame = some k.seq then stHang else stAborted)) s0
    let s2 := match ks.getLast? with
      | some k => if k.started then s1 else wrN s1 (HIF_W_NEXT_SEQ c) (k.seq + 1)
      | none => s1
    markStartable (updLad (updCtx s2 c (fun x => { x with resetting := false })) (fun l => { l with stopped := none })) c

/-! ## The resets of E2 to E4 (R490, R281, R321, R325, R492) -/

/-- The requests that a tile has outstanding: its running heads and its transfers in flight. -/
def tileGhosts (s : State) (t : Nat) : List Ghost :=
  let x := tileOf s t
  let g (q : Nat) (c : TileCmd) : Ghost := { unit := t, kind := q, gen := pageGen s (tilePage t), sig := (cmdSig c).map (·.1) }
  [0, 1, 2].flatMap (fun q => if (queueOf x q).started then ((queueOf x q).cmds.take 1).map (g q) else []) ++ x.flight.map (g 2)

/-- A unit in reset; one that is OFF stays so. -/
def enterReset (s : State) (pg : Nat) : State := if unitState s pg = stOff then s else setUnitState s pg stReset

/-- A tile enters reset: the words in flight to its surface slots are discarded (R245), and what it had asked for is still to be
answered (R493, R495). -/
def resetTile (s : State) (t : Nat) : State :=
  let s1 := updLad s (fun l => { l with ghosts := l.ghosts ++ tileGhosts s t })
  enterReset (advGen (setAwaiting (tileClear (dropSlots s1 t) t) t true) (tilePage t)) (tilePage t)

/-- A neuron core enters reset: the fan-out unit sends FINAL in its place. -/
def resetCore (s : State) (n : Nat) : State :=
  let s1 := ncStop s n
  enterReset (advGen (setAwaiting { s1 with uop := tset uopD s1.uop n {} } (128 + n) true) (ncPage n)) (ncPage n)

/-- A cluster controller enters reset. -/
def resetCtl (s : State) (c : Nat) : State := enterReset (advGen s (ccPage c)) (ccPage c)

/-- The anchors of a partition take FAULT, and their generations advance. -/
def faultAnchors (s : State) (p : Nat) : State :=
  ((s.ancs.filter (fun e => e.2.owner == p)).map (·.1)).foldl (fun u a =>
    let v := ancFault u a
    setAnc v a { anc v a with gen := ((anc v a).gen + 1) % 256 }) s

/-- The binder's command in execution for a partition ends with ERR_PART_RESET, and what it began is undone. -/
def dropBinder (s : State) (p : Nat) : State :=
  match s.jobs.find? (fun j => j.part == p && j.cmd.isSome) with
  | some j => (match j.cmd with
    | some (c, q) => setStatus (rollBack s c q) c q stPartReset 0
    | none => s)
  | none => s

/-- A job that the ladder ends: its record, and the notice. -/
def ladderEndJob (s : State) (status h : Nat) : State :=
  match jobOf s h with
  | none => s
  | some j =>
    if running j then notice (endJob s status h) 0x0103 j.part (leBytes 4 h ++ leBytes 2 status) else s

/-- The jobs that a test picks end. -/
def ladderEndJobs (s : State) (status : Nat) (pick : JobSt → Bool) : State :=
  ((s.jobs.filter (fun j => running j && pick j)).map (·.handle)).foldl (fun u h => ladderEndJob u status h) s

/-- A partition passes an E3 or E4 step. -/
def resetPart (s : State) (p : Nat) : State :=
  let s1 := setFld (dropBinder s p) (REC_PART_GEN p) 7 0 (partGen s p + 1)
  faultAnchors (ladderEndJobs s1 errJobReset (fun j => j.part == p)) p

/-- The signals that commands owe. -/
def owedSigs (l : List TileCmd) (h : Nat) : List (Nat × Nat) := (l.filter (fun c => c.job == h)).filterMap cmdSig

/-- The unit of an E2 awaits its rejoin for each job that it served and still serves. -/
def noteRejoins (s : State) (t : Trigger) : State :=
  let l := s.ladder
  let u := if tgtKind t.target = tgTile then tgtIdx t.target else 128 + tgtIdx t.target
  let js := l.served.filter (fun h => (jobOf s h).any (fun j => decide (j.phase = .bound)))
  updLad s (fun l => { l with rejoins := l.rejoins.filter (fun r => r.unit != u) ++ js.map (fun h =>
    { unit := u, job := h, ft := t.ft, windows := uniq ((l.heldCmds.filter (fun c => c.job == h)).map (·.window))
      owed := owedSigs l.heldCmds h, ask := flag s REC_CFG 30 }) })

/-- The reset of a step begins. In BELAY an E2 ends every job that the unit serves (R503). -/
def resetUnits (s : State) (t : Trigger) : State :=
  let s1 := (stepParts t).foldl resetPart s
  let s2 := if t.step = 2 ∧ inBelay s1 then s1.ladder.served.foldl (fun u h => ladderEndJob u errJobReset h) s1 else s1
  let s3 := (stepTiles s2 t).foldl resetTile s2
  let s4 := (stepCores s3 t).foldl resetCore s3
  let s5 := (stepClusters s4 t).foldl resetCtl s4
  updLad (setPhase s5 phReset) (fun l => { l with begun := s.ft })

/-- A controller reloaded from the verified image: its page is READY, or ERROR where the image fails (R527). -/
def reloadCtl (s : State) (c : Nat) : State :=
  if helperOk s 0x02 then
    let s1 := wrN (setFld s (CC_FW_GEN c) 7 0 (fld s (CC_FW_GEN c) 7 0 + 1)) (CC_FW_VER c) s.boot.img
    irq (setUnitState (bump s1 (CC_RELOAD_CNT c)) (ccPage c) stReady) (ccPage c) 2
  else setUnitState (recErr (healthErr s) (ccPage c) 0x0101 0) (ccPage c) stError

/-- The units leave reset; while the device is HALTED the compute stays in it. -/
def releaseUnits (s : State) (t : Trigger) : State :=
  if s.ladder.halted then s
  else
    let s1 := (stepClusters s t).foldl reloadCtl s
    let s2 := (stepTiles s1 t).foldl (fun u x => if unitState u (tilePage x) = stReset then setUnitState u (tilePage x) stReady else u) s1
    (stepCores s2 t).foldl (fun u x => if unitState u (ncPage x) = stReset then setUnitState u (ncPage x) stReady else u) s2

/-! ## Escalation (R500, R507) -/

/-- The partition of a binder command that the context of an E1 has not finished. -/
def binderPart (s : State) (c : Nat) : Option Nat :=
  match s.jobs.find? (fun j => match j.cmd with | some e => e.1 == c | none => false) with
  | some j => some j.part
  | none => none

/-- up(). -/
def stepUp (s : State) (t : Trigger) : Nat × Nat :=
  if t.step = 1 then
    match binderPart s (tgtIdx t.target) with
    | some p => (3, tgt tgPart p)
    | none => (4, tgt tgChip 0)
  else if t.step = 2 then
    match partOf s (tgtCluster t.target) with
    | some p => (3, tgt tgPart p)
    | none => (4, tgt tgChip 0)
  else if t.step = 3 then (4, tgt tgChip 0)
  else (5, tgt tgChip 0)

/-- The device enters HALTED: the compute is held in reset. -/
def halt (s : State) : State :=
  let up (u : State) (pg : Nat) : Bool := decide (unitState u pg ≠ stReset ∧ unitState u pg ≠ stOff)
  let s1 := (List.range 128).foldl (fun u t => if up u (tilePage t) then resetTile u t else setUnitState u (tilePage t) stReset) s
  let s2 := (List.range 512).foldl (fun u n => if up u (ncPage n) then resetCore u n else setUnitState u (ncPage n) stReset) s1
  let s3 := (List.range 16).foldl (fun u c => if up u (ccPage c) then resetCtl u c else setUnitState u (ccPage c) stReset) s2
  irq (updLad s3 (fun l => { l with halted := true })) pgRec 4

/-- The end of a run of the ladder: OK, or HALTED. -/
def endRun (s : State) (t : Trigger) (status outcome : Nat) : State :=
  let s1 := endResets s t status
  let s2 := notice (irq s1 pgRec 1) 0x0101 t.step (leBytes 4 t.target ++ leBytes 1 outcome ++ leBytes 1 0 ++ leBytes 2 (fld s1 REC_CAUSE 31 16))
  setPhase (setFld (updLad s2 (fun l => { l with cur := none })) REC_STATE 2 0 0) (if s2.ladder.halted then phHalted else phIdle)

/-- A step 5 that begins: without E5_EN the device is HALTED at once; with it, the notice goes out first (R506). -/
def beginE5 (s : State) (t : Trigger) : State :=
  if flag s REC_CFG 31 then notice s 0x0106 0 (leBytes 4 t.cause)
  else endRun (halt s) t okSt 1

/-- A step begins, with what follows at once. -/
def runStep (s : State) (t : Trigger) : State :=
  let s1 := beginStep s t
  if t.step = 5 then beginE5 s1 t else if t.step = 1 then e1Stop s1 t else s1

/-- The next step above. -/
def stepAbove (s : State) (t : Trigger) (cause : Nat) : State :=
  let (k, g) := stepUp s t
  runStep s { t with step := k, target := g, cause := cause }

/-- How often a level may be taken on a target within REPEAT_S. -/
def maxSteps (s : State) (k : Nat) : Option Nat :=
  if k = 1 then none else if k = 2 then some (fld s REC_CFG 23 16) else if k = 3 then some (fld s REC_CFG 15 8) else some 1

def stepsTaken (s : State) (t : Trigger) : Nat :=
  (s.ladder.hist.filter (fun e => e.1 == t.step && e.2.1 == t.target
    && decide (s.ft ≤ e.2.2 + fld s REC_CFG 7 0 * 1000000000))).length

/-- A step that is done and not taken too often: resume(), and the run ends; an E2 waits for its unit's rejoin first. After a
thermal trip the compute stays in reset (R610). -/
def resumeStep (s : State) (t : Trigger) : State :=
  let s1 := releaseUnits (if t.step = 4 ∧ !s.pwr.trip then updLad s (fun l => { l with halted := false }) else s) t
  let s2 := if t.step = 2 then noteRejoins s1 t else e1End s1
  if t.step = 2 ∧ s2.ladder.rejoins.any (fun r => r.ask && decide (r.ft = t.ft)) then
    updLad (setPhase s2 phRebind) (fun l => { l with begun := s2.ft })
  else endRun s2 t okSt 0

/-- The end of a step whose reset is done. -/
def doneStep (s : State) (t : Trigger) : State :=
  match maxSteps s t.step with
  | some m => if m < stepsTaken s t then stepAbove s t csRepeat else resumeStep s t
  | none => resumeStep s t

/-! ## Replay and blame (R508) -/

/-- Whether the suspects are replayed: with BLAME_EN; under HOSTWD only where the RESET asks for it. -/
def replays (s : State) (t : Trigger) : Bool := t.step == 2 && flag s REC_CFG 29 && (hangCommand s || t.blame)

/-- An element put behind those of no higher context. -/
def insSuspect (x : Nat × Nat) : List (Nat × Nat) → List (Nat × Nat)
  | [] => [x]
  | y :: t => if x.1 < y.1 then x :: y :: t else y :: insSuspect x t

/-- The suspects (context, job): of each command that a tile held, or of each job that a core served, in ascending context
and queue order. -/
def suspects (s : State) (t : Trigger) : List (Nat × Nat) :=
  let l := if tgtKind t.target = tgTile then s.ladder.heldCmds.map (fun c => (jobCtx s c.job, c.job))
    else s.ladder.served.map (fun h => (jobCtx s h, h))
  l.foldl (fun r x => insSuspect x r) []

/-- A blame. -/
def blame (s : State) (x : Nat × Nat) : State :=
  let s1 := irq (bump s REC_BLAME_CNT) pgRec 3
  let s2 := updLad (setFld s1 REC_CAUSE 31 16 x.1) (fun l => { l with blamed := true })
  ladderEndJob s2 stHang x.2

/-- The replay of an E2's suspects; none where the second reset does not end within its bound. -/
def replay (s : State) (t : Trigger) (hung : Option Nat) (again : Bool) : Option State :=
  match hung.bind (fun i => (suspects s t)[i]?) with
  | none => some (bump s REC_NOBLAME_CNT)
  | some x =>
    let pg := if tgtKind t.target = tgTile then tilePage (tgtIdx t.target) else ncPage (tgtIdx t.target)
    let s1 := advGen s pg
    if again then some (blame s1 x) else none

/-! ## The rows of the steps -/

/-- The trigger at the front of the queue starts, where no step runs and it is one of level k. In HALTED only a RESET with step E4,
an E1 or an E5 starts. -/
def startFront (s : State) (k : Nat) : State :=
  match s.ladder.cur, s.triggers with
  | none, t :: rest =>
    if t.step = k && !(s.ladder.halted && (k == 2 || k == 3 || (k == 4 && t.cmds.isEmpty))) then
      runStep (showQueue { s with triggers := rest }) t
    else s
  | _, _ => s

/-- Whether a dump ends now: not in a core clock pause, whose length extends DUMP_MAX_MS (R504); with words not read only once
DUMP_MAX_MS has passed (R516). -/
def dumpMay (s : State) (d : DumpIn) : Bool :=
  s.pwr.pause.isNone && (d.unread.isEmpty || decide (s.ladder.begun + fld s REC_TMO 15 0 * 1000000 ≤ s.ft))

/-- Whether every request that the reset units had outstanding has been answered, or has timed out after 10 µs (R495). -/
def answered (s : State) (t : Trigger) : Bool :=
  decide (s.ladder.begun + 10000 ≤ s.ft)
    || s.ladder.ghosts.all (fun g => g.kind == 3 || !(stepTiles s t).contains g.unit)

/-- A step of level 2 to 4: its start, its dump, the end of its reset and of its replay, and late answers to its dump. -/
def domainStep (s : State) (k : Nat) : StepIn → State
  | .start => startFront s k
  | .dumped d =>
    (match s.ladder.cur with
    | some t => if t.step = k ∧ phase s = phDump ∧ dumpMay s d = true then resetUnits (dumpStep s t d) t else s
    | none => s)
  | .finish =>
    (match s.ladder.cur with
    | some t =>
      if t.step = k ∧ phase s = phReset ∧ answered s t = true then (if replays s t then setPhase s phReplay else doneStep s t) else s
    | none => s)
  | .replayed hung again =>
    (match s.ladder.cur with
    | some t =>
      if t.step = k ∧ phase s = phReplay then
        match replay s t hung again with
        | some u => doneStep u t
        | none => stepAbove s t csEscalated
      else s
    | none => s)
  | .answer u => lateReply s u 3
  | .copied _ _ _ | .cycle _ => s

/-- A COPY or FILL that an E1 stops has moved whole lines of 64 bytes (R502). -/
def stopCopy (s : State) (c q n : Nat) (data : List Byte) : State :=
  match cmdOf s c q with
  | none => s
  | some k =>
    if !k.started || k.status.isSome || cmdLen k ≤ 64 * n then s
    else if cmdCode k = 0x02 then copyBytes s c k (64 * n) data
    else if cmdCode k = 0x03 then fillBytes s c k (64 * n)
    else s

/-- E1_STEP. -/
def execE1Step (x : StepIn) (now : Nat) (s0 : State) : Out :=
  let s := advance s0 now
  match x, s.ladder.cur with
  | .start, _ => .next (startFront s 1)
  | .finish, some t => if t.step = 1 then .next (doneStep s t) else .next s
  | .copied q n data, some t => if t.step = 1 then .next (stopCopy s (tgtIdx t.target) q n data) else .next s
  | _, _ => .next s

/-- E2_STEP. -/
def execE2Step (x : StepIn) (now : Nat) (s0 : State) : Out := .next (domainStep (advance s0 now) 2 x)

/-- E3_STEP. -/
def execE3Step (x : StepIn) (now : Nat) (s0 : State) : Out := .next (domainStep (advance s0 now) 3 x)

/-- E4_STEP. -/
def execE4Step (x : StepIn) (now : Nat) (s0 : State) : Out := .next (domainStep (advance s0 now) 4 x)

/-! ## The flash log area (R498, R506, spec/17_boot_update.md R524) -/

def logPages : Nat := 53248
/-- The flash address of page n of the log area. -/
def logPageAt (n : Nat) : Nat := 0x300000 + 256 * (n % logPages)

/-- The operations that append bytes from the next free page on: a sector that is entered at its start is erased first. -/
def logOps (s : State) (bs : List Byte) : List FlashOp :=
  (List.range ((bs.length + 255) / 256)).flatMap (fun i =>
    let n := s.boot.logNext + i
    (if n % 256 = 0 then [FlashOp.erase (logPageAt n)] else []) ++ [FlashOp.prog (logPageAt n) ((bs.drop (256 * i)).take 256)])

/-- A store of the device's own that was refused is kept, to be tried again (R552). -/
def addRetry (s : State) (x : StoreKind) : State :=
  { s with boot := { s.boot with retries := s.boot.retries ++ [{ what := x, first := s.ft, last := s.ft }] } }

/-- Bytes appended to the log area, where the hold-up check admits it. -/
def logAppend (s : State) (v : Nat) (bs : List Byte) : State × Bool :=
  let (s1, ok) := store s v (logOps s bs)
  if ok then ({ s1 with boot := { s1.boot with logNext := (s.boot.logNext + (bs.length + 255) / 256) % logPages } }, true) else (s1, false)

/-- Bytes stored in the log area, now or when a later attempt is admitted. -/
def logStore (s : State) (v : Nat) (bs : List Byte) : State × Bool :=
  match logAppend s v bs with
  | (s1, true) => (s1, true)
  | (s1, false) => (addRetry s1 (.logPage bs), false)

/-- What an E5 leaves in flash: the last dump header, the cause, the last 256 log entries. -/
def e5Bytes (s : State) (t : Trigger) : List Byte :=
  (if s.ladder.held.isEmpty then List.replicate 4096 0 else memRead s (slotAt s s.ladder.last) 4096) ++ leBytes 4 t.cause
    ++ padTo 16384 ((lastEntries s 256).flatMap entryBytes)

/-- E5_STEP: its start, and 1 ms later the log and the fall of PWRCYC_REQ_N. -/
def execE5Step (x : StepIn) (now : Nat) (s0 : State) : Out :=
  let s := advance s0 now
  match x, s.ladder.cur with
  | .start, _ => .next (startFront s 5)
  | .cycle v, some t =>
    if t.step = 5 ∧ !s.pwr.trip ∧ s.pwr.cyc.isNone ∧ s.ladder.begun + 1000000 ≤ s.ft then
      let (s1, ok) := logAppend s v (e5Bytes s t)
      let s2 := if ok then s1 else addLog s1 .hang 5 5 csEscalated
      .next (updPwr s2 (fun p => { p with cyc := some s2.ft }))
    else .next s
  | _, _ => .next s

/-- The bound of the reset of a step in ns (R507). -/
def stepBound (s : State) (t : Trigger) : Nat :=
  if t.step = 1 then fld s REC_TMO 31 16 * 1000
  else if t.step = 2 then 20000
  else if t.step = 3 then 4000000 + 200000 * (stepClusters s t).length
  else 8000000

/-- STEP_TIMEOUT: a step whose reset does not end within its bound has failed. -/
def execStepTimeout (now : Nat) (s0 : State) : Out :=
  let s := advance s0 now
  match s.ladder.cur with
  | none => .next s
  | some t =>
    if t.step < 5 ∧ phase s = phReset ∧ s.ladder.begun + stepBound s t < s.ft then .next (stepAbove s t csEscalated) else .next s

/-- PWRCYC_HOLD_EXPIRY: still powered after HOLD_MS. -/
def execPwrcycHoldExpiry (now : Nat) (s0 : State) : Out :=
  let s := advance s0 now
  match s.pwr.cyc with
  | none => .next s
  | some f =>
    if s.ft < f + fld s REC_PWRCYC 15 0 * 1000000 then .next s
    else
      let s1 := updPwr s (fun p => { p with cyc := none })
      match s1.ladder.cur with
      | some t => if t.step = 5 then .next (endRun (halt s1) t stPwrCyc 1) else .next s1
      | none => .next s1

/-! ## Rejoin (R510) -/

/-- The boundaries of a job's surface windows: B and the length of its first slot with a window; none without one. -/
def jobGrid (s : State) (j : JobSt) : Option (Nat × Nat) :=
  (j.plan.slots.filterMap (fun e => (slotOf s e.1 e.2.1).b.map (fun b => (b, sbLen s e.1 e.2.1)))).find? (fun e => e.2 != 0)

/-- The first boundary b + k × l at or after a moment. -/
def gridUp (b l t : Nat) : Nat := if t ≤ b ∨ l = 0 then max b t else b + (t - b + l - 1) / l * l

/-- The rejoin point: at least 100 µs after the rebind. -/
def rejoinPoint (s : State) (j : JobSt) : Nat :=
  match jobGrid s j with
  | some (b, l) => gridUp b l (s.ft + 100000)
  | none => s.ft + 100000

/-- The windows that are lost: those held at the trigger, and those that close from the trigger on and before the point. -/
def lostWindows (s : State) (j : JobSt) (r : Rejoin) (point : Nat) : List Nat :=
  let closing := match jobGrid s j with
    | some (b, l) => if b + l ≤ point ∧ l ≠ 0 then
        (rangeFrom 1 ((point - b) / l)).filter (fun n => decide (r.ft ≤ b + n * l) && decide (b + n * l < point)) else []
    | none => []
  uniq (r.windows ++ closing)

/-- The queued commands of a job that belong to lost windows complete with EMPTY, on one queue of a tile. -/
def emptyQueue (h : Nat) (lost : List Nat) (s : State) (t q : Nat) : State :=
  let pick (c : TileCmd) : Bool := c.job == h && lost.contains c.window
  let x := queueOf (tileOf s t) q
  let gone := x.cmds.filter pick ++ (if q = 2 then (tileOf s t).flight.filter pick else [])
  let s1 := gone.foldl (fun u c => finishCmd u t q c emptySt) s
  let rest := x.cmds.filter (fun c => !pick c)
  let s2 := updQueue s1 t q (fun y => if rest.head? = x.cmds.head? then { y with cmds := rest } else { cmds := rest })
  let s3 := if q = 2 then updTile s2 t (fun y => { y with flight := y.flight.filter (fun c => !pick c) }) else s2
  noteHead s3 t q

def emptyLost (s : State) (j : JobSt) (lost : List Nat) : State :=
  j.plan.tiles.foldl (fun u t => [0, 1, 2].foldl (fun v q => emptyQueue j.handle lost v t q) u) s

/-- What a unit's binding restores: weights, tables, class programs, and a core's initial state (steps 1 to 3). -/
def restage (s : State) (j : JobSt) (u point : Nat) : State :=
  let t := if u < 128 then u else (u - 128) / 4
  let mine (a : Nat) : Bool := decide (sramUnit a = t)
  let pg := if u < 128 then tilePage u else ncPage (u - 128)
  let s1 := (j.plan.sram.filter (fun e => mine e.1)).foldl (fun v e => sramWrite v e.1 e.2) s
  let s2 := (j.plan.regs.filter (fun e => pageOf e.1 == pg)).foldl (fun v e => wrN v e.1 e.2) s1
  let s3 := setAwaiting s2 u false
  if u < 128 then
    updJob s3 j.handle (fun x => { x with tileGen := (u, pageGen s3 (tilePage u)) :: x.tileGen.filter (fun e => e.1 != u) })
  else
    let n := u - 128
    let s4 := openCore s3 n
    let b := j.startFt.getD point
    let first := gridUp b (tsNs s4 n) point
    showN (updNc s4 n (fun x => if x.arm then
      { x with arm := false, b := some first, stepStart := first, n := 1, opened := 1, belay := inBelay s4 } else x)) n

/-- A unit is rebound into a job. -/
def rejoin (s : State) (r : Rejoin) : State :=
  match jobOf s r.job with
  | none => s
  | some j =>
    let point := rejoinPoint s j
    let lost := lostWindows s j r point
    let s1 := restage s j r.unit point
    let s2 := updJob s1 r.job (fun j => { j with lost := uniq (j.lost ++ lost) })
    let s3 := emptyLost s2 j lost
    r.owed.foldl (fun u e => sigAdd u (unitSig u r.job e.1) e.1 e.2) s3

/-- The target and the page of a unit number. -/
def unitTgt (u : Nat) : Nat := if u < 128 then tgt tgTile u else tgt tgCore (u - 128)
def unitPage (u : Nat) : Nat := if u < 128 then tilePage u else ncPage (u - 128)

/-- UNIT_REJOIN: the binder rebinds a reset unit into the jobs that it served. -/
def execUnitRejoin (u now : Nat) (s0 : State) : Out :=
  let s := advance s0 now
  let rs := s.ladder.rejoins.filter (fun r => r.unit == u && r.ask)
  if rs.isEmpty || unitState s (unitPage u) != stReady then .next s
  else
    let good := rs.filter (fun r => (jobOf s r.job).any (fun j => decide (j.phase = .bound)))
    let s1 := good.foldl rejoin s
    let s2 := updLad s1 (fun l => { l with rejoins := l.rejoins.filter (fun r => r.unit != u) })
    let tag := pageGen s2 (unitPage u)
    let s3 := if good.isEmpty then s2 else notice s2 0x0104 0 (leBytes 4 (unitTgt u) ++ leBytes 1 tag)
    let s4 := (rs.flatMap (·.cmds)).foldl (fun v e => setStatus v e.1 e.2 (if good.isEmpty then stRejoin else okSt)
      (if good.isEmpty then 0 else tag)) s3
    match s4.ladder.cur with
    | some t => if t.step = 2 ∧ phase s4 = phRebind ∧ t.target = unitTgt u then .next (endRun s4 t okSt 0) else .next s4
    | none => .next s4

/-! ## Watchdogs (R496, R498, R499) -/

/-- UNIT_ERROR: a neuron core page is in STATE ERROR. -/
def execUnitError (n : Nat) (s : State) : Out :=
  if unitState s (ncPage n) = stError ∧ hangCommand s then .next (autoTrigger s 2 (tgt tgCore n) csUnitError 0xFFFFFFFF 0) else .next s

/-- REC_HEARTBEAT: every 1 ms. -/
def execRecHeartbeat (now : Nat) (s0 : State) : Out :=
  let s := advance s0 now
  if s.ladder.wdtOut || decide (s.ft < s.ladder.wdt + 1000000) then .next s
  else .next (updLad (bumpWrap s REC_HEARTBEAT) (fun l => { l with wdt := s.ft }))

/-- WARDEN_WDT: not restarted for WDT_MS. -/
def execWardenWdt (v now : Nat) (s0 : State) : Out :=
  let s := advance s0 now
  if s.ladder.wdtOut || s.pwr.down || decide (s.ft < s.ladder.wdt + fld s REC_WDT 15 0 * 1000000) then .next s
  else
    let e : LogEntry := { ft := s.ft, loop := .hang, old := 0, new := 5, reason := csWardenWdt }
    let (s1, _) := if s.pwr.trip then (updLad s (fun l => { l with wdtOut := true }), true)
      else logAppend (updLad s (fun l => { l with wdtOut := true })) v (entryBytes e)
    if flag s REC_CFG 31 then .next (updPwr s1 (fun p => { p with cyc := some s1.ft })) else .next s1

/-- The reloads of a helper within REPEAT_S. -/
def reloadsOf (s : State) (h : Nat) : Nat :=
  (s.ladder.helpers.filter (fun e => e.1 == h && decide (s.ft ≤ e.2 + fld s REC_CFG 7 0 * 1000000000))).length

/-- A helper reloaded alone. -/
def reloadHelper (s : State) (h : Nat) : State :=
  let s1 := updLad s (fun l => { l with helpers := (h, s.ft) :: l.helpers })
  let n := reloadsOf s1 h
  if 3 ≤ n then autoTrigger s1 5 (tgt tgChip 0) csRepeat 0xFFFFFFFF 0
  else
    let s2 := healthErr (notice (bump s1 REC_HELPER_RST_CNT) 0x0105 h (leBytes 1 n))
    if 16 ≤ h then reloadCtl s2 (h - 16) else s2

/-- HELPER_WDT: a helper's watchdog expires. -/
def execHelperWdt (h now : Nat) (s0 : State) : Out :=
  let s := advance s0 now
  if h < 9 ∨ (16 ≤ h ∧ h < 32) then
    match (if 16 ≤ h then partOf s (h - 16) else none) with
    | some p => .next (autoTrigger s 3 (tgt tgPart p) csHelperWdt 0xFFFFFFFF 0)
    | none => .next (reloadHelper s h)
  else .next s

/-! ## Commands (R518) -/

/-- Whether a target exists. -/
def tgtOk (t : Nat) : Bool :=
  let i := tgtIdx t
  if tgtKind t = tgCtx then decide (i < 1024) else if tgtKind t = tgTile then decide (i < 128)
  else if tgtKind t = tgCore then decide (i < 512) else if tgtKind t = tgPart then decide (i < 8)
  else if tgtKind t = tgChip then i == 0 else false

/-- Whether a step and a target match. -/
def stepFits (step t : Nat) : Bool :=
  tgtOk t && (if step = 1 then tgtKind t == tgCtx else if step = 2 then isUnit t else if step = 3 then tgtKind t == tgPart
    else (step == 4 || step == 5) && tgtKind t == tgChip)

/-- RESET. -/
def execReset (c q : Nat) (s : State) : Out :=
  match running1 s c q 0x40 with
  | none => .next s
  | some k =>
    let step := cmdTopt k % 8
    let t := cmdArg k
    if s.triggers.any (fun x => x.cmds.contains (c, q)) || s.ladder.cur.any (fun x => x.cmds.contains (c, q)) then .next s
    else if !stepFits step t || (step == 1 && t == tgt tgCtx c) then .next (setStatus s c q stReserved 0)
    else .next (trigger s { step := step, target := t, cause := csHostReq, ft := s.ft, ctx := 0xFFFFFFFF, cmdSeq := 0
                            blame := nbit (cmdTopt k) 3, cmds := [(c, q)] })

/-- DUMP_COPY. -/
def execDumpCopy (c q : Nat) (ok : Bool) (s : State) : Out :=
  match running1 s c q 0x41 with
  | none => .next s
  | some k =>
    if !s.ladder.held.contains (cmdArg k) then .next (setStatus s c q stNoDump 0)
    else if memBad s (slotAt s (cmdArg k)) (cmdLen k) then .next (setStatus s c q stMemUe 0)
    else match payOut s c k (memRead s (slotAt s (cmdArg k)) (cmdLen k)) ok with
      | .inl st => .next (setStatus s c q st 0)
      | .inr s1 => .next (setStatus s1 c q okSt (cmdLen k))

/-- DUMP_RELEASE. -/
def execDumpRelease (c q : Nat) (s : State) : Out :=
  match running1 s c q 0x42 with
  | none => .next s
  | some k =>
    if !s.ladder.held.contains (cmdArg k) then .next (setStatus s c q stNoDump 0)
    else .next (setStatus (showSlots (updLad s (fun l => { l with held := l.held.filter (fun x => x != cmdArg k) }))) c q okSt 0)

/-- REJOIN: the binder is asked to rebind a unit. -/
def execRejoin (c q : Nat) (s : State) : Out :=
  match running1 s c q 0x43 with
  | none => .next s
  | some k =>
    let t := cmdArg k
    let u := if tgtKind t = tgTile then tgtIdx t else 128 + tgtIdx t
    let mine (r : Rejoin) : Bool := r.unit == u && (jobOf s r.job).any (fun j => decide (j.phase = .bound))
    if s.ladder.rejoins.any (fun r => r.cmds.contains (c, q)) then .next s
    else if !isUnit t || !tgtOk t then .next (setStatus s c q stReserved 0)
    else if !s.ladder.rejoins.any mine then .next (setStatus s c q stRejoin 0)
    else .next (updLad s (fun l => { l with rejoins := l.rejoins.map (fun r =>
      if mine r then { r with ask := true, cmds := r.cmds ++ [(c, q)] } else r) }))

/-! ## The recovery page (R505, R520) -/

/-- Whether a step is in progress. -/
def stepRuns (s : State) : Bool := fld s REC_STATE 2 0 != 0

/-- A write of a block register of the recovery page. -/
def recWrite (s : State) (w : Who) (a : Nat) (v : Word) : State :=
  if a = REC_CFG ∨ a = REC_TMO then staticWrite s w a v (stepRuns s) 0x0101
  else if a = REC_DUMP_BASE then if 495 < bits v 8 0 then wErr s w a 0x0102 else plainWrite s w a v
  else plainWrite s w a v

/-- A soft reset of the page: its fields of access RW return to their reset values and its counters clear (R68, R505); the dump slots
stay. -/
def recSrst (s : State) : State := softRegs s pgRec

end Sys2Proof.Machine
end

