-- ==== Sys2Proof/Machine/Security.lean ====
section
/-!
DEFINITION. Identity, the signed configuration record, quotes and debug tokens (spec/18_security.md R557 to R572).
-/
namespace Sys2Proof.Machine
open Sys2Proof

/-- n bytes of a list from an offset, as a list and as a number. -/
def cut (bs : List Byte) (off n : Nat) : List Byte := padTo n ((bs.drop off).take n)
def fieldN (bs : List Byte) (off n : Nat) : Nat := ofLe (cut bs off n)

/-! ## The configuration record (R562 to R564) -/

/-- An item: its ID and its data. -/
structure CfgItem where
  id : Nat
  data : List Byte
  deriving DecidableEq, Repr

/-- The first n items of an item area; none where one does not fit. -/
def parseItems : Nat → List Byte → Option (List CfgItem)
  | 0, _ => some []
  | n + 1, bs =>
    let len := fieldN bs 2 2
    if bs.length < 4 + len then none
    else (parseItems n (bs.drop ((4 + len + 7) / 8 * 8))).map (fun r => { id := fieldN bs 0 2, data := (bs.drop 4).take len } :: r)

/-- A list of 4-byte numbers. -/
def nums4 (bs : List Byte) : List Nat := wordsOf (bs.length / 4) bs

/-- Groups of k numbers. -/
def groups (k : Nat) (l : List Nat) : List (List Nat) := (List.range (l.length / k)).map (fun i => (l.drop (i * k)).take k)

/-- Whether the data of a known item is well formed. -/
def itemOk (x : CfgItem) : Bool :=
  let n := x.data.length
  if x.id = 1 then n == 1 && decide (fieldN x.data 0 1 < 2)
  else if x.id = 2 then n == 1 && decide (fieldN x.data 0 1 < 16)
  else if x.id = 3 then n == 80 && decide (fieldN x.data 0 1 < 8)
  else if x.id = 4 then n == 2 && decide (fieldN x.data 0 1 < 2) && decide (fieldN x.data 1 1 ≤ 64)
  else if x.id = 5 then n == 20
  else if x.id = 6 then n % 16 == 0
  else if x.id = 7 then n == 24
  else if x.id = 8 then n == 1 && decide (fieldN x.data 0 1 < 16)
  else if x.id = 9 then n % 20 == 0
  else if x.id = 10 then n == 1 && decide (fieldN x.data 0 1 < 2)
  else if x.id = 11 then n == 1 && decide (fieldN x.data 0 1 < 2)
  else if x.id = 12 then n % 8 == 0
  else decide (0x8000 ≤ x.id)

/-- A record's values with one item taken. -/
def takeItem (c : CfgSt) (x : CfgItem) : CfgSt :=
  let b := fieldN x.data 0 1
  let w := nums4 x.data
  if x.id = 1 then { c with grade := b }
  else if x.id = 2 then { c with rootMask := b }
  else if x.id = 3 then { c with keys := c.keys ++ [{ roles := b, id := fieldN x.data 8 8, pk := cut x.data 16 64 }] }
  else if x.id = 4 then { c with bifur := b == 1, vfCap := fieldN x.data 1 1 }
  else if x.id = 5 then { c with fwBase := at0 w 0, spillBase := at0 w 1, fanBase := at0 w 2, dumpBase := at0 w 3, spillSize := at0 w 4, mapSet := true }
  else if x.id = 6 then { c with masks := groups 4 w }
  else if x.id = 7 then { c with holdup := some w }
  else if x.id = 8 then { c with links := b }
  else if x.id = 9 then { c with mgmt := groups 5 w }
  else if x.id = 10 then { c with pkgSigned := b == 1 }
  else if x.id = 11 then { c with debug := b == 1 }
  else if x.id = 12 then { c with regInit := (groups 2 w).map (fun e => (at0 e 0, at0 e 1)) }
  else c

def recSize : Nat := 65536
def cfgAt (copy : Nat) : Nat := 0x20000 + 0x10000 * copy

/-- The items of a record, where every one is well formed, GRADE and ROOT_MASK are there, and no more than 16 are KEY items. -/
def recItems (bs : List Byte) : Option (List CfgItem) :=
  if fieldN bs 6 2 = 0 ∨ 256 < fieldN bs 6 2 then none
  else match parseItems (fieldN bs 6 2) (cut bs 0x100 5376) with
    | none => none
    | some l =>
      if l.all itemOk && l.any (fun x => x.id == 1) && l.any (fun x => x.id == 2) && decide ((l.filter (fun x => x.id == 3)).length ≤ 16)
      then some l else none

/-- The values of a record in copy k. -/
def recValues (bs : List Byte) (k : Nat) (l : List CfgItem) : CfgSt :=
  l.foldl takeItem { seq := fieldN bs 0x08 4, floor := fieldN bs 0x0C 4, rootIdx := fieldN bs 0x11 1, copy := k }

/-- A record is valid on the device with a UID (R563): its values, or none. -/
def recValid (bs : List Byte) (k uid : Nat) : Option CfgSt :=
  match recItems bs with
  | none => none
  | some l =>
    let c := recValues bs k l
    let root := Config.rootKey c.rootIdx
    let pk := cut bs 0x20 64
    let signer := if fieldN bs 0x10 1 = 0 then decide (pk = root)
      else fieldN bs 0x10 1 == 1 && Config.slhVerify root (pk ++ cut bs 0x18 8) (cut bs 0x1600 29792)
    if fieldN bs 0 4 = 0x4643484B ∧ fieldN bs 4 2 = 1 ∧ c.rootIdx < 4 ∧ nbit c.rootMask c.rootIdx ∧ signer
        ∧ Config.slhVerify pk (cut bs 0 0x8A60) (cut bs 0x8A60 29792)
        ∧ (fieldN bs 0x18 8 = 0 ∨ fieldN bs 0x18 8 = uid)
    then some c else none

/-- The copy of the record in flash. -/
def recBytes (s : State) (k : Nat) : List Byte := flashRead s (cfgAt k) recSize

/-- The copies that are valid: the one with the higher CFG_SEQ is used. -/
def pickRecord (s : State) (uid : Nat) : Option CfgSt :=
  match recValid (recBytes s 0) 0 uid, recValid (recBytes s 1) 1 uid with
  | some a, some b => some (if a.seq < b.seq then b else a)
  | some a, none => some a
  | none, some b => some b
  | none, none => none

/-- How many of the copies fail. -/
def badCopies (s : State) (uid : Nat) : Nat :=
  b2n (recValid (recBytes s 0) 0 uid).isNone + b2n (recValid (recBytes s 1) 1 uid).isNone

/-- The copy that a new record is written to: the one with the lower CFG_SEQ, a copy that is not valid being lowest. -/
def newCopy (s : State) : Nat :=
  match recValid (recBytes s 0) 0 (uid s), recValid (recBytes s 1) 1 (uid s) with
  | some a, some b => if a.seq ≤ b.seq then 0 else 1
  | some _, none => 1
  | _, _ => 0

/-- The record in force, as the security page shows it. -/
def showRecord (s : State) (c : CfgSt) : State :=
  let s1 := wrN (wrN { s with sec := { s.sec with cfg := c } } SEC_CFG_SEQ c.seq) SEC_FLOOR c.floor
  setFld (setFlag (setFlag (setFlag s1 SEC_STATUS 3 c.debug) SEC_STATUS 4 c.pkgSigned) SEC_STATUS 5 (c.copy == 1)) SEC_STATUS 7 6 c.rootIdx

/-! ## Identity (R557 to R560) -/

/-- The UID in the device certificate. -/
def certUid (s : State) : Nat := ofLe (flashRead s (0x40000 + 0x4000 + 16) 8)

/-- The UID of a start: by the seed, or the device certificate's without one. -/
def startUid (s : State) (seed : Option (List Byte)) : Nat :=
  match seed with
  | some x => uidOf x
  | none => certUid s

/-- The identity registers of a power-on. -/
def showIdentity (s : State) (seed : Option (List Byte)) (corrected : Nat) : State :=
  let s1 := setFlag (wr64 { s with sec := { s.sec with seed := seed } } (SEC_UID_LO 0) (SEC_UID_LO 1) (startUid s seed))
    SEC_STATUS 0 seed.isSome
  let s2 := setFld s1 SEC_PUF_STAT 10 0 corrected
  match seed with
  | some x => wrBytes s2 SEC_AK_PK 16 (akPublic x)
  | none => s2

/-! ## Quotes (R567, R568) -/

def qIdle : Nat := 0
def qBusy : Nat := 1
def qDone : Nat := 2
def qFailed : Nat := 3

def quoteBusy (s : State) : Bool := fld s SEC_Q_STAT 31 30 == qBusy

/-- Everything of a quote but its signature. -/
def quoteBody (s : State) : List Byte :=
  let flags := b2n (flag s SEC_MEAS_CNT 31) + 2 * b2n (flag s SEC_STATUS 1) + 4 * b2n (s.sec.cfg.rootMask != 0)
  padTo 256 (leBytes 4 0x5451484B ++ leBytes 2 1 ++ leBytes 2 s.sec.log.length ++ rdBytes s SEC_Q_NONCE 16 ++ leBytes 8 (uid s)
    ++ leBytes 8 s.ft ++ leBytes 4 s.sec.cfg.seq ++ leBytes 4 s.boot.img ++ leBytes 1 (rdN s UPD_BOOT_STAT) ++ leBytes 1 flags
    ++ leBytes 1 (fld s LNK_GEN 7 0) ++ leBytes 1 s.sec.cfg.rootIdx ++ accOf s) ++ s.sec.log.flatMap id

/-- A write of SEC_Q_CTRL: GO takes the snapshot in the same cycle, or fails without identity. -/
def quoteCtrl (s : State) (w : Who) (v : Word) : State :=
  if quoteBusy s then wErr s w SEC_Q_CTRL errBusyWrite
  else
    let s1 := setFld s SEC_Q_CTRL 1 1 (bits v 1 1)
    if bits v 0 0 = 0 then s1
    else if s1.sec.seed.isNone then wErr (setFld s1 SEC_Q_STAT 31 30 qFailed) w SEC_Q_CTRL 0x0101
    else wrN { s1 with sec := { s1.sec with signing := some (quoteBody s1), quote := [] } } SEC_Q_STAT (qBusy * 0x40000000)

/-- QUOTE_GO. -/
def execQuoteGo (w : Who) (v : Word) (s : State) : Out := .next (guardW s w 4 SEC_Q_CTRL (fun t => quoteCtrl t w v))

/-- QUOTE_DONE: the signature by AK completes the quote. -/
def execQuoteDone (now : Nat) (s0 : State) : Out :=
  let s := advance s0 now
  match s.sec.signing, s.sec.seed with
  | some body, some seed =>
    let q := body ++ padTo 49856 (Config.slhSign (akSeeds seed) body)
    .next (irq (wrN { s with sec := { s.sec with signing := none, quote := q } } SEC_Q_STAT (qDone * 0x40000000 + q.length)) pgSec 0)
  | _, _ => .next s

/-- The quote buffer emptied (R568). -/
def clearQuote (s : State) : State :=
  wrN { s with sec := { s.sec with signing := none, quote := [] } } SEC_Q_STAT 0

/-- SEC_Q_ADDR moves on after a read of SEC_Q_DATA_HI with INC. -/
def quoteNext (s : State) : State :=
  if flag s SEC_Q_CTRL 1 then wrN s SEC_Q_ADDR ((rdN s SEC_Q_ADDR + 8) % 0x20000) else s

/-! ## The debug grant (R569, R570) -/

/-- Seconds of DEBUG left. -/
def leftS (s : State) : Nat := if granted s then (s.sec.until_ - s.ft) / 1000000000 else 0

/-- A new challenge, while the DEBUG item is 1 and the seed is known. -/
def newChallenge (s : State) : State :=
  match s.sec.seed with
  | some x => if s.sec.cfg.debug then wrBytes s SEC_DBG_CHAL 8 (padTo 32 (Config.shake256 (x ++ strDbg ++ leBytes 8 s.ft) 32)) else s
  | none => s

def tokenBody (bs : List Byte) : List Byte := cut bs 0 128

/-- Whether a token is valid (R569). -/
def tokenOk (s : State) (bs : List Byte) : Bool :=
  s.sec.seed.isSome && s.sec.cfg.debug && fieldN bs 0 4 == 0x4244484B && fieldN bs 4 8 != 0 && fieldN bs 4 8 == uid s
    && cut bs 12 32 == rdBytes s SEC_DBG_CHAL 8 && decide (fieldN bs 52 4 < 16) && decide (1 ≤ fieldN bs 56 4) && decide (fieldN bs 56 4 ≤ 86400)
    && fieldN bs 60 68 == 0 && keyVerifies s.sec.cfg roleDebug (fieldN bs 44 8) (tokenBody bs) (cut bs 128 29792)

/-- After 8 refusals no token is accepted. -/
def blocked (s : State) : Bool := decide (8 ≤ s.sec.refusals)

/-- A grant ends. -/
def endGrant (s : State) : State :=
  if flag s SEC_STATUS 2 then
    irq (setFld (setFlag { s with sec := { s.sec with until_ := 0 } } SEC_STATUS 2 false) SEC_DBG_STAT 3 0 0) pgSec 2
  else s

/-- TOKEN_VERIFIED: the token under verification is accepted or refused; a revocation of the same moment ends the grant (R570). -/
def execTokenVerified (now : Nat) (s0 : State) : Out :=
  let s := advance s0 now
  match s.sec.token with
  | none => .next s
  | some bs =>
    let s1 := { s with sec := { s.sec with token := none } }
    if tokenOk s1 bs && !blocked s1 then
      let s2 := measureObj { s1 with sec := { s1.sec with until_ := s1.ft + fieldN bs 56 4 * 1000000000 } } 0x0006 (Config.shake256 bs 64) []
      let s3 := setFld (setFlag (setFlag s2 SEC_STATUS 2 true) SEC_STATUS 1 true) SEC_DBG_STAT 3 0 (fieldN bs 52 4)
      let s4 := newChallenge (irq s3 pgSec 1)
      .next (if s4.sec.revoked = some s4.ft then endGrant s4 else s4)
    else
      let s2 := recErr { s1 with sec := { s1.sec with refusals := min 8 (s1.sec.refusals + 1) } } pgSec 0x0102 0
      .next (irq (bump s2 SEC_DBG_FAIL_CNT) pgSec 3)

/-- A write of SEC_DBG_CTRL. -/
def dbgCtrl (s : State) (v : Word) : State :=
  if bits v 0 0 = 1 then newChallenge (endGrant { s with sec := { s.sec with revoked := some s.ft } }) else s

/-- REVOKE. -/
def execRevoke (w : Who) (v : Word) (s : State) : Out := .next (guardW s w 4 SEC_DBG_CTRL (fun t => dbgCtrl t v))

/-- DEBUG_EXPIRY. -/
def execDebugExpiry (now : Nat) (s0 : State) : Out :=
  let s := advance s0 now
  if flag s SEC_STATUS 2 && decide (s.sec.until_ ≤ s.ft) then .next (endGrant s) else .next s

/-! ## The security page (R572) -/

def isNonce (a : Nat) : Bool := decide (SEC_Q_NONCE 0 ≤ a) && decide (a ≤ SEC_Q_NONCE 15)

/-- A write of a block register of the security page. -/
def secWrite (s : State) (w : Who) (a : Nat) (v : Word) : State :=
  if a = SEC_Q_CTRL then quoteCtrl s w v
  else if a = SEC_DBG_CTRL then dbgCtrl s v
  else if isNonce a then staticWrite s w a v (quoteBusy s) errBusyWrite
  else plainWrite s w a v

/-- The registers that are computed. -/
def secLive (s : State) (a : Nat) : Option Nat :=
  let at8 (off : Nat) : Nat := ofLe ((s.sec.quote.drop (rdN s SEC_Q_ADDR + off)).take 4)
  if a = SEC_Q_DATA_LO 0 then some (at8 0)
  else if a = SEC_Q_DATA_LO 1 then some (at8 4)
  else if a = SEC_STATUS then some (rdN s a - b2n (flag s a 2) * 4 + b2n (granted s) * 4)
  else if a = SEC_DBG_STAT then some (min 0xFFFFFFF (leftS s) * 16 + scope s)
  else none

/-- A soft reset clears the counters only. -/
def secSrst (s : State) : State := softCounters s pgSec

end Sys2Proof.Machine
end

