-- ==== Sys2Proof/Machine/Update.lean ====
section
/-!
DEFINITION. The boot control record, images, deliveries, the update commands and what follows from them in flash
(spec/17_boot_update.md R521 to R556).
-/
namespace Sys2Proof.Machine
open Sys2Proof

def stUpdBusy : Nat := 0x0601
def stUpdTrial : Nat := 0x0602
def stUpdHeader : Nat := 0x0603
def stUpdChunk : Nat := 0x0604
def stUpdNoHdr : Nat := 0x0605
def stUpdState : Nat := 0x0606
def stUpdNotHealthy : Nat := 0x0607
def stFlash : Nat := 0x0608
def stConfig : Nat := 0x0609
def stSettings : Nat := 0x060A

def slEmpty : Nat := 0
def slPartial : Nat := 1
def slReady : Nat := 2
def slTrial : Nat := 3
def slConfirmed : Nat := 4
def slFailed : Nat := 5

def updBoot (s : State) (f : BootSt → BootSt) : State := { s with boot := f s.boot }

/-! ## The boot control record (R523 to R525) -/

def slotSt (b : BcrSt) (x : Nat) : Nat := if x = 0 then b.stA else b.stB
def setSlotSt (b : BcrSt) (x st : Nat) : BcrSt := if x = 0 then { b with stA := st } else { b with stB := st }
def slotBank (b : BcrSt) (x : Nat) : Nat := if x = 0 then b.bankA else b.bankB
def setSlotBank (b : BcrSt) (x k : Nat) : BcrSt := if x = 0 then { b with bankA := k } else { b with bankB := k }
def setSlotVer (b : BcrSt) (x v : Nat) : BcrSt := if x = 0 then { b with verA := v } else { b with verB := v }
def otherSlot (x : Nat) : Nat := 1 - x

/-- The 64 bytes of a record. -/
def bcrBytes (b : BcrSt) : List Byte :=
  let body := padTo 60 (leBytes 4 0x4342484B ++ leBytes 4 b.seq ++ leBytes 1 b.active ++ leBytes 1 b.next ++ leBytes 1 b.stA
    ++ leBytes 1 b.stB ++ leBytes 1 b.trials ++ leBytes 1 b.bankA ++ leBytes 1 b.bankB ++ leBytes 1 b.orig ++ leBytes 4 b.verA
    ++ leBytes 4 b.verB)
  body ++ leBytes 4 (crc32 body)

/-- The record of a copy in flash, where its MAGIC and CRC are valid. -/
def bcrRead (s : State) (k : Nat) : Option BcrSt :=
  let bs := flashRead s (0x10000 * k) 64
  if fieldN bs 0 4 = 0x4342484B ∧ fieldN bs 60 4 = crc32 (bs.take 60) then
    some { seq := fieldN bs 4 4, active := fieldN bs 8 1, next := fieldN bs 9 1, stA := fieldN bs 10 1, stB := fieldN bs 11 1
           trials := fieldN bs 12 1, bankA := fieldN bs 13 1, bankB := fieldN bs 14 1, orig := fieldN bs 15 1
           verA := fieldN bs 16 4, verB := fieldN bs 20 4 }
  else none

/-- The record in force and its copy: the higher BCR_SEQ modulo 2^32; none in factory state. -/
def pickBcr (s : State) : Option (Nat × BcrSt) :=
  match bcrRead s 0, bcrRead s 1 with
  | some a, some b => if (b.seq + 4294967296 - a.seq) % 4294967296 < 2147483648 ∧ a.seq ≠ b.seq then some (1, b) else some (0, a)
  | some a, none => some (0, a)
  | none, some b => some (1, b)
  | none, none => none

/-- What a store does: the other copy's sector is erased, and the record programmed there. -/
def bcrOps (s : State) (b : BcrSt) : List FlashOp :=
  let k := match pickBcr s with | some (k, _) => 1 - k | none => 0
  [.erase (0x10000 * k), .prog (0x10000 * k) (bcrBytes b)]

/-- The record as it is stored next: BCR_SEQ incremented. -/
def nextBcr (s : State) (b : BcrSt) : BcrSt := { b with seq := (s.boot.bcr.seq + 1) % 4294967296 }

/-- A store of a record at V mV, with further operations before it. -/
def bcrStoreWith (s : State) (v : Nat) (ops : List FlashOp) (b : BcrSt) : State × Bool :=
  let b1 := nextBcr s b
  let (s1, ok) := store s v (ops ++ bcrOps s b1)
  if ok then (updBoot s1 (fun x => { x with bcr := b1 }), true) else (s1, false)

def bcrStore (s : State) (v : Nat) (b : BcrSt) : State × Bool := bcrStoreWith s v [] b

/-! ## Images (R533, R534) -/

def slotFlash (x : Nat) : Nat := if x = 0 then 0x1000000 else 0x4000000

def imgBytes (s : State) (x off n : Nat) : List Byte := flashRead s (slotFlash x + off) n
def imgNum (s : State) (x off n : Nat) : Nat := ofLe (imgBytes s x off n)

def imgVer (s : State) (x : Nat) : Nat := imgNum s x 0x08 4
def imgLen (s : State) (x : Nat) : Nat := imgNum s x 0x10 8
def imgChunks (s : State) (x : Nat) : Nat := imgNum s x 0x18 2

/-- Whether the header of a slot's image is valid. -/
def imgHeaderOk (s : State) (x : Nat) : Bool :=
  let n := imgChunks s x
  imgNum s x 0 4 == 0x4D49484B && imgNum s x 4 2 == 1
    && keyVerifies s.sec.cfg roleImage (imgNum s x 0x20 8) (imgBytes s x 0 256) (imgBytes s x 0x100 29792)
    && imgBytes s x 0x28 64 == Config.shake256 (imgBytes s x 0x8000 0xC000) 64
    && decide (s.sec.cfg.floor ≤ imgNum s x 0x0C 4) && decide (imgNum s x 0x1E 1 ≤ rdN s GLB_STEPPING % 256)
    && decide (3 ≤ n) && decide (n ≤ 768) && n == (imgLen s x + 65535) / 65536

/-- The digest that the chunk table holds of chunk i. -/
def chunkDigest (s : State) (x i : Nat) : List Byte := imgBytes s x (0x8000 + 64 * i) 64

/-- Whether chunk i of a slot is valid; the header answers for chunks 0 and 1. -/
def chunkOk (s : State) (x i : Nat) : Bool :=
  decide (i < 2) || Config.shake256 (imgBytes s x (65536 * i) 65536) 64 == chunkDigest s x i

/-- The components that the table names: ID, OFFSET, LENGTH. -/
def components (s : State) (x : Nat) : List (Nat × Nat × Nat) :=
  ((List.range 16).map (fun i => (imgNum s x (0x20000 + 16 * i) 2, imgNum s x (0x20004 + 16 * i) 4, imgNum s x (0x20008 + 16 * i) 4))).filter
    (fun e => e.1 != 0)

/-- Whether the component table is one: known IDs, ranges within the image, and Drimon among them. -/
def tableOk (s : State) (x : Nat) : Bool :=
  (components s x).all (fun e => decide (e.1 ≤ 8) && decide (e.2.1 + e.2.2 ≤ imgLen s x)) && (components s x).any (fun e => e.1 == 1)

/-- The chunks of a component. -/
def compChunks (e : Nat × Nat × Nat) : List Nat :=
  rangeFrom (e.2.1 / 65536) ((e.2.1 + e.2.2 + 65535) / 65536 - e.2.1 / 65536)

/-- What the ROM verifies of a slot: its header, and the chunks of the component table and of Drimon. -/
def slotVerifies (s : State) (x : Nat) : Bool :=
  imgHeaderOk s x && chunkOk s x 2 && tableOk s x && ((components s x).filter (fun e => e.1 == 1)).all (fun e => (compChunks e).all (chunkOk s x))

/-! ## The delivery record (R536) -/

def recAddr : Nat := 0x80000
def dXfer (s : State) : Nat := ofLe (flashRead s recAddr 4)
def dVer (s : State) : Nat := ofLe (flashRead s (recAddr + 4) 4)
def dChunks (s : State) : Nat := ofLe (flashRead s (recAddr + 8) 2)
def dSlot (s : State) : Nat := ofLe (flashRead s (recAddr + 10) 1)

/-- Whether a delivery is recorded. -/
def dOpen (s : State) : Bool := decide (dSlot s < 2)

/-- Whether a chunk's bit says that it is stored: programmed to 0. -/
def dBit (s : State) (i : Nat) : Bool := !nbit (ofLe (flashRead s (recAddr + 64 + i / 8) 1)) (i % 8)
def dStored (s : State) : Nat := ((List.range (min 768 (dChunks s))).filter (dBit s)).length

/-- The first 64 bytes of a delivery record. -/
def recHead (xfer ver n slot : Nat) : List Byte := padTo 64 (leBytes 4 xfer ++ leBytes 4 ver ++ leBytes 2 n ++ leBytes 1 slot)

/-- Whether a slot may take a delivery in RESCUE (R532). -/
def rescueFree (b : BcrSt) (x : Nat) : Bool := slotSt b x == slEmpty || slotSt b x == slPartial || slotSt b x == slFailed

/-- The slot that a delivery writes: the one other than ACTIVE. In RESCUE it is one that is EMPTY, PARTIAL or FAILED, if
there is one. -/
def targetSlot (s : State) : Nat :=
  let b := s.boot.bcr
  let x := otherSlot b.active
  if s.boot.rescue && !rescueFree b x && rescueFree b b.active then b.active else x

def anyTrial (b : BcrSt) : Bool := b.stA == slTrial || b.stB == slTrial

/-! ## Health and confirmation (R542, R543) -/

/-- UPD_HEALTH. -/
def health (s : State) : Nat := min 0xFFFFFFFF ((s.ft - s.boot.healthFrom) / 1000000000)

/-- The record of a confirmation. -/
def confirmBcr (s : State) : BcrSt :=
  let b := s.boot.bcr
  { setSlotSt b s.boot.slot slConfirmed with active := s.boot.slot, trials := 0, orig := 255 }

/-- What a stored confirmation brings about. -/
def confirmed (s : State) : State :=
  let s1 := setFlag (updBoot s (fun x => { x with trial := false })) UPD_BOOT_STAT 6 true
  notice (irq s1 pgUpd 3) 0x0203 s1.boot.slot (leBytes 4 s1.boot.img)

/-- Whether a store of a kind waits to be tried again. -/
def retrying (s : State) (why : Nat) : Bool :=
  s.boot.retries.any (fun r => match r.what with | .bcr _ w => w == why | _ => false)

/-- HEALTH_CONFIRM. -/
def execHealthConfirm (v now : Nat) (s0 : State) : Out :=
  let s := advance s0 now
  if s.boot.trial && s.boot.up && decide (600 ≤ health s) && (!flag s UPD_CFG 0 || s.boot.hostOk) && !retrying s 1 then
    match bcrStore s v (confirmBcr s) with
    | (s1, true) => .next (confirmed s1)
    | (s1, false) => .next (addRetry s1 (.bcr (confirmBcr s) 1))
  else .next s

/-! ## A delivery's progress (R537, R539) -/

/-- The record of a slot activated as a trial: its settings bank is chosen at its first start. -/
def activateBcr (b : BcrSt) (x : Nat) : BcrSt := { setSlotBank (setSlotSt b x slTrial) x 255 with next := x, trials := 0 }

/-- In RESCUE a completed delivery is activated and booted (R532). -/
def rescueBoot (s : State) (v x : Nat) : State :=
  if s.boot.rescue then
    match bcrStore s v (activateBcr s.boot.bcr x) with
    | (s1, true) => updBoot s1 (fun b => { b with warm := some 0 })
    | (s1, false) => s1
  else s

/-- The record of a slot delivered and verified. -/
def readyBcr (s : State) : BcrSt := setSlotVer (setSlotSt s.boot.bcr (dSlot s) slReady) (dSlot s) (dVer s)

/-- What a stored READY brings about. -/
def delivered (s : State) (v : Nat) : State :=
  let s1 := irq (updBoot s (fun b => { b with complete := true })) pgUpd 0
  rescueBoot (notice s1 0x0202 (dSlot s1) (leBytes 4 (dXfer s1) ++ leBytes 4 (dVer s1))) v (dSlot s1)

/-- Every bit is set: the slot is read back, and chunks that fail leave the record. -/
def checkSlot (s : State) (v : Nat) : State :=
  let x := dSlot s
  let n := dChunks s
  let bad := (List.range n).filter (fun i => !chunkOk s x i)
  if bad.isEmpty then
    if imgHeaderOk s x && tableOk s x then
      match bcrStore s v (readyBcr s) with
      | (s1, true) => delivered s1 v
      | (s1, false) => addRetry s1 (.bcr (readyBcr s) 2)
    else s
  else
    let bits := (List.range 96).map (fun k => BitVec.ofNat 8 ((List.range 8).foldl (fun m j =>
      m + b2n (decide (n ≤ 8 * k + j) || bad.contains (8 * k + j)) * 2 ^ j) 0))
    (store (verifyFail s) v [.erase recAddr, .prog recAddr (recHead (dXfer s) (dVer s) n x ++ bits)]).1

/-- The record of a delivery that is closed: its slot is EMPTY. -/
def emptyBcr (s : State) : BcrSt := setSlotSt s.boot.bcr (dSlot s) slEmpty

/-- The delivery record erased with the slot EMPTY. -/
def closeDelivery (s : State) (v : Nat) : State × Bool :=
  match bcrStoreWith s v [.erase recAddr] (emptyBcr s) with
  | (s1, true) => (updBoot s1 (fun b => { b with hdrOk := false, complete := false, bufs := [] }), true)
  | r => r

/-- Whether the header stored by the recorded delivery is valid and agrees with the descriptor (R537). -/
def headerFits (s : State) : Bool :=
  imgHeaderOk s (dSlot s) && imgVer s (dSlot s) == dVer s && imgChunks s (dSlot s) == dChunks s

/-- What a start finds of the recorded delivery: a delivery goes on across power cycles. -/
def resumeDelivery (s : State) : State :=
  updBoot s (fun b => { b with
    hdrOk := dOpen s && dBit s 0 && dBit s 1 && headerFits s
    complete := dOpen s && slotSt s.boot.bcr (dSlot s) != slPartial && decide (dStored s = dChunks s) })

/-- Chunks 0 and 1 are stored: the header is validated against the descriptor; where it fails the delivery closes. -/
def checkHeader (s : State) (v : Nat) : State × Nat :=
  if headerFits s then (updBoot s (fun b => { b with hdrOk := true }), okSt)
  else
    let s1 := recErr (if imgHeaderOk s (dSlot s) then s else verifyFail s) pgUpd stUpdHeader 0
    match closeDelivery s1 v with
    | (s2, true) => (s2, stUpdHeader)
    | (s2, false) => (addRetry s2 (.bcr (emptyBcr s) 3), stUpdHeader)

/-- What follows a chunk that is stored. -/
def chunkStored (s : State) (v i : Nat) : State × Nat :=
  let s1 := bump s UPD_STORE_CNT
  let s2 := if dStored s1 % 64 = 0 then notice s1 0x0201 (dStored s1) (leBytes 4 (dXfer s1)) else s1
  let (s3, st) := if i < 2 && dBit s2 0 && dBit s2 1 then checkHeader s2 v else (s2, okSt)
  if st = okSt && s3.boot.hdrOk && decide (dStored s3 = dChunks s3) then (checkSlot s3 v, okSt) else (s3, st)

/-- A chunk taken under the table of R537; `ok` is whether it reads back as programmed, at the second attempt at the
latest. -/
def takeChunk (s : State) (v : Nat) (ok : Bool) (i : Nat) (bs : List Byte) : State × Nat :=
  let x := dSlot s
  let a := slotFlash x + 65536 * i
  if !dOpen s then (bump s UPD_FRAG_DROP_CNT, stUpdState)
  else if dChunks s ≤ i ∨ 768 ≤ i then (bump s UPD_CHUNK_BAD_CNT, stUpdChunk)
  else if 2 ≤ i ∧ !s.boot.hdrOk then (bump s UPD_FRAG_DROP_CNT, stUpdNoHdr)
  else if dBit s i then (bump s UPD_CHUNK_DUP_CNT, okSt)
  else if 2 ≤ i ∧ Config.shake256 bs 64 ≠ chunkDigest s x i then (bump s UPD_CHUNK_BAD_CNT, stUpdChunk)
  else
    let put := [FlashOp.erase a, FlashOp.prog a bs]
    let mark := FlashOp.prog (recAddr + 64 + i / 8) [BitVec.ofNat 8 (255 - 2 ^ (i % 8))]
    match store s v (if ok then put ++ [mark] else put) with
    | (s1, false) => (s1, stHoldup)
    | (s1, true) =>
      if ok then chunkStored s1 v i
      else
        let s2 := flashWrite { s1 with free := s1.free + 1 } a ((List.range 65536).map (Config.lostByte s1.free))
        (irq (bump s2 UPD_FLASH_ERR_CNT) pgUpd 2, stFlash)

/-! ## The update commands (R535 to R553): the state after, the status, RESULT -/

def updBegin (s : State) (topt : Nat) (pay : List Byte) (v : Nat) : State × Nat × Nat :=
  let xfer := fieldN pay 0 4
  let ver := fieldN pay 4 4
  let n := fieldN pay 8 2
  let x := targetSlot s
  if xfer = 0 ∨ fieldN pay 10 6 ≠ 0 ∨ n < 3 ∨ 768 < n then (s, stReserved, 0)
  else if anyTrial s.boot.bcr then (s, stUpdTrial, 0)
  else if dOpen s && dXfer s == xfer && dVer s == ver && dChunks s == n then
    (if s.boot.hdrOk && !s.boot.complete && decide (dStored s = n) then checkSlot s v else s, okSt, dStored s)
  else if dOpen s && !s.boot.complete && !nbit topt 0 then (s, stUpdBusy, 0)
  else if s.boot.rescue && !rescueFree s.boot.bcr x then (s, stUpdState, 0)
  else match bcrStoreWith s v [.erase recAddr, .prog recAddr (recHead xfer ver n x)] (setSlotSt s.boot.bcr x slPartial) with
    | (s1, true) => (updBoot s1 (fun b => { b with hdrOk := false, complete := false, bufs := [] }), okSt, 0)
    | (s1, false) => (s1, stHoldup, 0)

def updChunk (s : State) (arg : Nat) (pay : List Byte) (v : Nat) (ok : Bool) : State × Nat × Nat :=
  let (s1, st) := takeChunk s v ok arg pay
  (s1, st, if st = okSt then dStored s1 else 0)

def updAbort (s : State) (arg v : Nat) : State × Nat × Nat :=
  let st := slotSt s.boot.bcr (dSlot s)
  if !dOpen s || dXfer s != arg || !(st == slPartial || st == slReady) then (s, stUpdState, 0)
  else match closeDelivery s v with
    | (s1, true) => (s1, okSt, 0)
    | (s1, false) => (s1, stHoldup, 0)

def updActivate (s : State) (arg topt v : Nat) : State × Nat × Nat :=
  let b := s.boot.bcr
  let st := slotSt b arg
  if 1 < arg then (s, stReserved, 0)
  else if slotSt b (otherSlot arg) = slTrial then (s, stUpdTrial, 0)
  else if st = slReady ∨ (st = slConfirmed ∧ b.active ≠ arg) then
    match bcrStore s v (activateBcr b arg) with
    | (s1, true) => (if nbit topt 0 then updBoot s1 (fun x => { x with warm := some 0 }) else s1, okSt, 0)
    | (s1, false) => (s1, stHoldup, 0)
  else (s, stUpdState, 0)

def updConfirm (s : State) : State × Nat × Nat :=
  if !s.boot.trial then (s, stUpdState, 0)
  else if health s < 600 then (s, stUpdNotHealthy, 0)
  else (updBoot s (fun x => { x with hostOk := true }), okSt, 0)

/-- The record of a fallback. -/
def fallbackBcr (s : State) : BcrSt :=
  let b := s.boot.bcr
  { setSlotSt b s.boot.slot slFailed with next := b.active, trials := 0 }

def updFallback (s : State) (v : Nat) : State × Nat × Nat :=
  if !s.boot.trial then (s, stUpdState, 0)
  else match bcrStore s v (fallbackBcr s) with
    | (s1, true) => (updBoot s1 (fun x => { x with warm := some 3, trial := false }), okSt, 0)
    | (s1, false) => (s1, stHoldup, 0)

def updConfig (s : State) (pay : List Byte) (v : Nat) : State × Nat × Nat :=
  let bs := padTo recSize pay
  match recValid bs 0 (uid s) with
  | none => (verifyFail s, stConfig, 0)
  | some c =>
    if c.seq ≤ s.sec.cfg.seq ∨ c.floor < s.sec.cfg.floor then (s, stConfig, 0)
    else
      let a := cfgAt (newCopy s)
      match store s v [.erase a, .prog a bs] with
      | (s1, true) => (s1, okSt, c.seq)
      | (s1, false) => (s1, stHoldup, 0)

/-! ## Settings records (R546, R547) -/

def bankAt (k : Nat) : Nat := 0x100000 + 0x100000 * k
def maxEntries : Nat := 131056

/-- What erases a bank and programs a record into it, a sector at a time. -/
def bankOps (k : Nat) (bs : List Byte) : List FlashOp :=
  (List.range 16).map (fun i => FlashOp.erase (bankAt k + 65536 * i))
    ++ (List.range ((bs.length + 65535) / 65536)).map (fun i => FlashOp.prog (bankAt k + 65536 * i) ((bs.drop (65536 * i)).take 65536))

/-- The record of a bank in flash: SCHEMA and its entries, where MAGIC, COUNT and DIGEST are as they should be. -/
def bankRead (s : State) (k : Nat) : Option (Nat × List Byte) :=
  let h := flashRead s (bankAt k) 128
  let n := fieldN h 8 4
  if k < 2 ∧ fieldN h 0 4 = 0x5453484B ∧ n ≤ maxEntries then
    let es := flashRead s (bankAt k + 128) (8 * n)
    if cut h 16 64 = Config.shake256 es 64 then some (fieldN h 4 2, es) else none
  else none

/-- SEQ of the record that a bank holds. -/
def bankSeq (s : State) (k : Nat) : Nat := match bankRead s k with | some _ => ofLe (flashRead s (bankAt k + 12) 4) | none => 0

/-- A settings record. -/
def setRecord (schema seq : Nat) (es : List Byte) : List Byte :=
  padTo 128 (leBytes 4 0x5453484B ++ leBytes 2 schema ++ leBytes 2 0 ++ leBytes 4 (es.length / 8) ++ leBytes 4 seq
    ++ padTo 64 (Config.shake256 es 64)) ++ es

/-- The bank that the running slot saves into: its own, or the one that ORIG_BANK leaves free. -/
def saveBank (s : State) : Nat :=
  let k := slotBank s.boot.bcr s.boot.slot
  if k < 2 then k else if s.boot.bcr.orig = 0 then 1 else 0

def settingsSave (s : State) (pay : List Byte) (v : Nat) : State × Nat × Nat :=
  let n := fieldN pay 8 4
  let k := saveBank s
  if pay.length < 128 ∨ 1048576 < pay.length ∨ fieldN pay 4 2 ≠ s.boot.setVer ∨ maxEntries < n ∨ pay.length ≠ 128 + 8 * n
      ∨ k = s.boot.bcr.orig then (s, stSettings, 0)
  else
    let rec0 := pay.take 12 ++ leBytes 4 (bankSeq s k + 1) ++ pay.drop 16
    let put := bankOps k rec0
    let own := decide (slotBank s.boot.bcr s.boot.slot = k)
    match (if own then store s v put else bcrStoreWith s v put (setSlotBank s.boot.bcr s.boot.slot k)) with
    | (s1, true) => (s1, okSt, n)
    | (s1, false) => (s1, stHoldup, 0)

/-- RESTART asks for a warm boot. -/
def restart (s : State) : State × Nat × Nat := (updBoot s (fun x => { x with warm := some 0 }), okSt, 0)

/-! ## The rows of the commands -/

/-- A decided command of a context: its status and its RESULT. -/
def updEnd (c q : Nat) (r : State × Nat × Nat) : State := setStatus r.1 c q r.2.1 r.2.2

/-- UPD_BEGIN. -/
def execUpdBegin (c q : Nat) (host : Option (List Byte)) (v : Nat) (s : State) : Out :=
  match running1 s c q 0x30 with
  | none => .next s
  | some k =>
    match payIn s c k host with
    | .inl st => .next (setStatus s c q st 0)
    | .inr bs => .next (updEnd c q (updBegin s (cmdTopt k) bs v))

/-- UPD_CHUNK. -/
def execUpdChunk (c q : Nat) (host : Option (List Byte)) (v : Nat) (ok : Bool) (s : State) : Out :=
  match running1 s c q 0x31 with
  | none => .next s
  | some k =>
    match payIn s c k host with
    | .inl st => .next (setStatus s c q st 0)
    | .inr bs => .next (updEnd c q (updChunk s (cmdArg k) bs v ok))

/-- UPD_ABORT. -/
def execUpdAbort (c q v : Nat) (s : State) : Out :=
  match running1 s c q 0x32 with
  | none => .next s
  | some k => .next (updEnd c q (updAbort s (cmdArg k) v))

/-- UPD_ACTIVATE. -/
def execUpdActivate (c q v : Nat) (s : State) : Out :=
  match running1 s c q 0x33 with
  | none => .next s
  | some k => .next (updEnd c q (updActivate s (cmdArg k) (cmdTopt k) v))

/-- UPD_CONFIRM. -/
def execUpdConfirm (c q : Nat) (s : State) : Out :=
  match running1 s c q 0x34 with
  | none => .next s
  | some _ => .next (updEnd c q (updConfirm s))

/-- UPD_FALLBACK. -/
def execUpdFallback (c q v : Nat) (s : State) : Out :=
  match running1 s c q 0x35 with
  | none => .next s
  | some _ => .next (updEnd c q (updFallback s v))

/-- UPD_CONFIG. -/
def execUpdConfig (c q : Nat) (host : Option (List Byte)) (v : Nat) (s : State) : Out :=
  match running1 s c q 0x36 with
  | none => .next s
  | some k =>
    match payIn s c k host with
    | .inl st => .next (setStatus s c q st 0)
    | .inr bs => .next (updEnd c q (updConfig s bs v))

/-- SETTINGS_SAVE. -/
def execSettingsSave (c q : Nat) (host : Option (List Byte)) (v : Nat) (s : State) : Out :=
  match running1 s c q 0x37 with
  | none => .next s
  | some k =>
    match payIn s c k host with
    | .inl st => .next (setStatus s c q st 0)
    | .inr bs => .next (updEnd c q (settingsSave s bs v))

/-- RESTART. -/
def execRestart (c q : Nat) (s : State) : Out :=
  match running1 s c q 0x38 with
  | none => .next s
  | some _ => .next (updEnd c q (restart s))

/-! ## CHUNK frames (R538) -/

/-- A fragment put into its buffer, the buffer written last at the end; a ninth chunk evicts the one written least recently. -/
def putFrag (s : State) (i f : Nat) (bs : List Byte) : State :=
  let old := s.boot.bufs.find? (fun b => b.chunk == i)
  let rest := s.boot.bufs.filter (fun b => b.chunk != i)
  let frags := ((old.map (·.frags)).getD []).filter (fun e => e.1 != f) ++ [(f, bs)]
  let full := old.isNone && decide (8 ≤ rest.length)
  let s1 := if full then bumpN s UPD_FRAG_DROP_CNT ((rest.head?.map (·.frags.length)).getD 0) else s
  updBoot s1 (fun b => { b with bufs := (if full then rest.drop 1 else rest) ++ [{ chunk := i, frags := frags }] })

/-- The bytes of a buffer with all 64 fragments. -/
def wholeChunk (b : ChunkBuf) : Option (List Byte) :=
  if b.frags.length = 64 then
    some ((List.range 64).flatMap (fun f => ((b.frags.find? (fun e => e.1 == f)).map (·.2)).getD []))
  else none

/-- A chunk of the fabric's taken: a store that the hold-up check refuses is tried again. -/
def takeAssembled (s : State) (v : Nat) (ok : Bool) (i : Nat) (bs : List Byte) : State :=
  let (s1, st) := takeChunk s v ok i bs
  if st = stHoldup then addRetry s1 (.chunk i bs) else s1

/-- CHUNK: the oldest delivered fragment is assembled. -/
def execChunk (v : Nat) (ok : Bool) (now : Nat) (s0 : State) : Out :=
  let s := advance s0 now
  match takeInbox s (fun f => f.typ == 0x07) with
  | none => .next s
  | some (f, s1) =>
    let p := f.payload
    if inBivouac s1 ∨ p.length ≠ 1040 ∨ 63 < fieldN p 6 1 ∨ !dOpen s1 ∨ fieldN p 0 4 ≠ dXfer s1 then .next (bump s1 UPD_FRAG_DROP_CNT)
    else
      let i := fieldN p 4 2
      let s2 := putFrag (bump s1 UPD_FRAG_CNT) i (fieldN p 6 1) (p.drop 16)
      match (s2.boot.bufs.find? (fun b => b.chunk == i)).bind wholeChunk with
      | none => .next s2
      | some bs => .next (takeAssembled (updBoot s2 (fun b => { b with bufs := b.bufs.filter (fun x => x.chunk != i) })) v ok i bs)

/-! ## Stores tried again (R552) -/

/-- A refused store attempted again: the state after, and whether it is done with. -/
def retryStore (s : State) (v : Nat) (ok : Bool) : StoreKind → State × Bool
  | .chunk i bs => let (s1, st) := takeChunk s v ok i bs; (s1, decide (st ≠ stHoldup))
  | .logPage bs => logAppend s v bs
  | .bcr b why =>
    if why = 1 then (match bcrStore s v (confirmBcr s) with | (s1, true) => (confirmed s1, true) | r => r)
    else if why = 2 then (match bcrStore s v (readyBcr s) with | (s1, true) => (delivered s1 v, true) | r => r)
    else if why = 3 then closeDelivery s v
    else bcrStore s v b

/-- STORE_RETRY: the first refused store whose 100 ms have passed is tried again, or abandoned after 10 s. -/
def execStoreRetry (v : Nat) (ok : Bool) (now : Nat) (s0 : State) : Out :=
  let s := advance s0 now
  match takeFirst (fun r => decide (r.last + 100000000 ≤ s.ft)) s.boot.retries with
  | none => .next s
  | some (r, rest) =>
    let s1 := updBoot s (fun b => { b with retries := rest })
    if r.first + 10000000000 < s.ft then .next s1
    else
      let (s2, done) := retryStore s1 v ok r.what
      if done then .next s2 else .next (updBoot s2 (fun b => { b with retries := b.retries ++ [{ r with last := s.ft }] }))

/-! ## The flash window and the update page (R556) -/

/-- A write of UPD_FL_ADDR: an address beyond 128 MiB is refused. -/
def flAddrWrite (s : State) (w : Who) (v : Word) : State :=
  if bits v 31 27 ≠ 0 then wErr (setFlag s (keyOf w UPD_FL_STAT) 1 true) w UPD_FL_ADDR 0x0101
  else plainWrite s w UPD_FL_ADDR v

/-- A write of UPD_FL_CTRL: GO reads 8 bytes into the set of the accessing class. -/
def flCtrlWrite (s : State) (w : Who) (v : Word) : State :=
  let k := keyOf w UPD_FL_CTRL
  let s1 := setFld s k 1 1 (bits v 1 1)
  if bits v 0 0 = 0 then s1
  else
    let a := rdN s1 (keyOf w UPD_FL_ADDR)
    let s2 := wr64 s1 (keyOf w UPD_FL_DATA_LO) (keyOf w UPD_FL_DATA_HI) (ofLe (flashRead s1 a 8))
    let s3 := setFlag s2 (keyOf w UPD_FL_STAT) 1 false
    if flag s3 k 1 then wrN s3 (keyOf w UPD_FL_ADDR) ((a + 8) % 0x8000000) else s3

/-- FLASH_READ_GO. -/
def execFlashReadGo (w : Who) (v : Word) (s : State) : Out := .next (guardW s w 4 UPD_FL_CTRL (fun t => flCtrlWrite t w v))

/-- A write of a block register of the update page. -/
def updWrite (s : State) (w : Who) (a : Nat) (v : Word) : State :=
  if a = UPD_FL_ADDR then flAddrWrite s w v else if a = UPD_FL_CTRL then flCtrlWrite s w v else plainWrite s w a v

/-- UPD_XFER_STAT. -/
def xferStat (s : State) : Nat :=
  if dOpen s then
    (if s.boot.complete then 3 else if s.boot.hdrOk then 2 else 1) * 0x10000000 + dStored s * 0x10000 + dChunks s % 1024
  else 0

/-- The registers that are computed. -/
def updLive (s : State) (a : Nat) : Option Nat :=
  if a = UPD_SLOT_STATE then some (s.boot.bcr.stB * 16 + s.boot.bcr.stA)
  else if a = UPD_VER_A then some s.boot.bcr.verA
  else if a = UPD_VER_B then some s.boot.bcr.verB
  else if a = UPD_HEALTH then some (health s)
  else if a = UPD_XFER_ID then some (if dOpen s then dXfer s else 0)
  else if a = UPD_XFER_STAT then some (xferStat s)
  else if UPD_BITMAP 0 ≤ a ∧ a ≤ UPD_BITMAP 23 then
    some (if dOpen s then (List.range 32).foldl (fun n j => n + b2n (dBit s (8 * (a - UPD_BITMAP 0) + j)) * 2 ^ j) 0 else 0)
  else none

def updSrst (s : State) : State := softCounters s pgUpd

end Sys2Proof.Machine
end

