-- ==== Sys2Proof/Machine/Debug.lean ====
section
/-!
DEFINITION. The JTAG port, the test multiplexers and the performance counters (spec/21_debug_test.md R612 to R624).
-/
namespace Sys2Proof.Machine
open Sys2Proof

def pgDbg : Nat := 0xA00000
def pgTmux : Nat := 0xA01000

/-! ## The JTAG port (R612 to R614) -/

def irExtest : Nat := 0x00
def irSample : Nat := 0x01
def irIdcode : Nat := 0x02
def irClamp : Nat := 0x03
def irHighz : Nat := 0x04
def irPulse : Nat := 0x05
def irTrain : Nat := 0x06
def irUnlock : Nat := 0x20
def irStatus : Nat := 0x21
def irAccess : Nat := 0x22
def irChal : Nat := 0x23
def irBypass : Nat := 0xFF

def setIr (s : State) (ir : Nat) : State := { s with jtag := { s.jtag with ir := ir } }

/-- What a capture shifts out, low bit first. -/
def setTdo (s : State) (n : Nat) : State := { s with jtag := { s.jtag with tdo := n } }

/-- A list of bits as a number, first bit lowest. -/
def bitsNum (l : List Bool) : Nat := l.foldr (fun b n => b2n b + 2 * n) 0

/-- Whether the instructions that take the pins are permitted (R613): in RESCUE, or under a grant with register write. -/
def pinsAllowed (s : State) : Bool := s.boot.rescue || nbit (scope s) 1

/-- An instruction that takes the pins: in force, so that every link loses its signal, or BYPASS in its place with the refusal
counted. -/
def takePins (s : State) (ir : Nat) (eff : State → State) : State :=
  if pinsAllowed s then eff (((List.range 4).filter (locked s)).foldl linkFalls (setIr s ir)) else bump (setTdo (setIr s irBypass) 0) DBG_JTAG_REFUSE_CNT

/-- The boundary register: what the pins show is captured and shifted out, what is shifted in is taken. -/
def scanPins (pins shift : List Bool) (s : State) : State :=
  setTdo { s with jtag := { s.jtag with bsr := shift } } (bitsNum pins)

/-- TEST_LOGIC_RESET: IDCODE is selected and every pin returns to its function; a DEBUG grant stays. -/
def execTestLogicReset (s : State) : Out := .next (setIr s irIdcode)

/-- EXTEST. -/
def execExtest (pins shift : List Bool) (s : State) : Out := .next (takePins s irExtest (scanPins pins shift))

/-- SAMPLE/PRELOAD. -/
def execSamplePreload (pins shift : List Bool) (s : State) : Out := .next (scanPins pins shift (setIr s irSample))

/-- IDCODE. -/
def execIdcode (s : State) : Out := .next (setTdo (setIr s irIdcode) 0x14B96A77)

/-- CLAMP. -/
def execJtagClamp (s : State) : Out := .next (takePins s irClamp (fun t => setTdo t 0))

/-- HIGHZ. -/
def execHighz (s : State) : Out := .next (takePins s irHighz (fun t => setTdo t 0))

/-- EXTEST_PULSE. -/
def execExtestPulse (pins shift : List Bool) (s : State) : Out := .next (takePins s irPulse (scanPins pins shift))

/-- EXTEST_TRAIN. -/
def execExtestTrain (pins shift : List Bool) (s : State) : Out := .next (takePins s irTrain (scanPins pins shift))

/-- BYPASS: the 1-bit register captures 0. -/
def execBypass (s : State) : Out := .next (setTdo (setIr s irBypass) 0)

/-- DBG_STATUS.STATE. -/
def unlockState (s : State) : Nat :=
  if s.sec.token.isSome then 1 else if granted s then 2 else if blocked s then 3 else 0

/-- The 32 bits of DBG_STATUS. -/
def dbgStatus (s : State) : Nat :=
  min 0xFFFFF (leftS s) * 0x1000 + scope s * 0x100 + s.sec.refusals * 0x10 + unlockState s

/-- DBG_STATUS. -/
def execDbgStatus (s : State) : Out := .next (setTdo (setIr s irStatus) (dbgStatus s))

/-- DBG_CHAL: UID, then the challenge. -/
def execDbgChal (s : State) : Out :=
  .next (setTdo (setIr s irChal) (ofLe (leBytes 8 (uid s) ++ rdBytes s SEC_DBG_CHAL 8)))

/-- DBG_UNLOCK: at Update-DR the last 239,360 bits shifted are a token to verify; one that arrives during a verification is
ignored, and after 8 refusals none is taken. -/
def execDbgUnlock (bs : List Byte) (s : State) : Out :=
  let s1 := setIr s irUnlock
  if s1.sec.token.isSome || blocked s1 then .next s1
  else .next { s1 with sec := { s1.sec with token := some (padTo 29920 (bs.drop (bs.length - 29920))) } }

/-! ## Test multiplexers (R617 to R621) -/

/-- The highest frequency of a clock domain, in kHz (R24, R619); none for a reserved code. -/
def domainKHz (d : Nat) : Option Nat :=
  if d < 0x20 then some 562500 else if d = 0x20 then some 3200000 else if d = 0x21 then some 1600000
  else if d = 0x22 then some 1200000 else if d = 0x23 then some 1000000 else if d = 0x24 then some 25000
  else if d = 0x25 then some 200000 else if d = 0x26 then some 1000000 else if d = 0x27 then some 1066600
  else if d < 0x2A then some 390625 else if d < 0x2E then some 875000 else if d = 0x2E then some 60000
  else if d = 0x2F then some 50000 else none

/-- Whether an ARG lies in the range of a source (R618). -/
def argOk (src arg : Nat) : Bool :=
  if src = 0x01 then arg / 16 % 16 == 0 && (domainKHz (arg / 256)).isSome
  else if src = evReplay then decide (arg < 128) || (decide (0x200 ≤ arg) && decide (arg < 0x400))
  else if src = lvStretch ∨ src = evDrop ∨ src = evStep then decide (arg < 512)
  else if src = lvFifo then
    (if arg / 4096 = 0 then decide (arg % 4096 < 32) else if arg / 4096 = 1 then decide (arg % 4096 < 512)
     else if arg / 4096 = 2 then decide (arg % 4096 < 128)
     else arg / 4096 == 3 && decide (arg % 4096 < 16) && decide (arg % 4 < 3))
  else if src = evVote ∨ src = lvDisputed ∨ src = evInstant then decide (arg < 8)
  else if src = evAnchor ∨ src = lvAncWait then decide (arg < 16384)
  else arg == 0

def srcOk (src : Nat) : Bool := decide (1 ≤ src) && decide (src ≤ 0x0E)

/-- The error of a value written to a select register of a pin; the value of a pin that selects nothing has none. -/
def selError (v : Word) : Option Nat :=
  let src := bits v 23 16
  let md := bits v 30 29
  if bits v 31 31 = 0 ∧ src = 0 ∧ md ≠ 3 then none
  else if !srcOk src || (md == 3) != (src == 1) || (md == 0 && !isLevel src) || !argOk src (bits v 15 0) then some errReservedEnc
  else if src = 1 then
    (match domainKHz (bits v 15 8) with
     | some f => if 200000 * 2 ^ bits v 3 0 < f then some 0x0101 else none
     | none => none)
  else none

/-- A write of TMUX_SELn: a change of an enabled selection drives the pin low for 10 ns first. -/
def tmuxWrite (s : State) (w : Who) (n : Nat) (v : Word) : State :=
  let a := TMUX_SEL n
  match selError v with
  | some e => wErr s w a e
  | none =>
    let s1 := plainWrite s w a v
    if rd s1 a = rd s a then s1
    else
      let h := levelHigh s1 (bits v 23 16) (bits v 15 0)
      if flag s a 31 then setTpin s1 n { low := s.ft + 10, was := h } else setTpin s1 n { was := h }

/-- TMUX_SEL_WRITE. -/
def execTmuxSelWrite (w : Who) (n : Nat) (v : Word) (s : State) : Out :=
  if n < 4 then .next (guardW s w 4 (TMUX_SEL n) (fun t => tmuxWrite t w n v)) else .next s

/-- A soft reset of the TMUX page: every EN returns to 0 and the counters clear. -/
def tmuxSrst (s : State) : State := { softRegs s pgTmux with tmux := [] }

/-! ## Counters (R622, R623) -/

/-- A write of DBG_PMC_SELk: the counter clears. -/
def pmcWrite (s : State) (w : Who) (k : Nat) (v : Word) : State :=
  let a := DBG_PMC_SEL k
  let s1 := setWide s (DBG_PMC_LO k) 0
  if bits v 23 16 ≠ 0 ∧ (bits v 23 16 = 1 ∨ !srcOk (bits v 23 16)) then
    wErr (plainWrite s1 w a (putBits v 23 16 (fld s a 23 16))) w a errReservedEnc
  else plainWrite s1 w a v

/-- PMC_SEL_WRITE. -/
def execPmcSelWrite (w : Who) (k : Nat) (v : Word) (s : State) : Out :=
  if k < 8 then .next (guardW s w 4 (DBG_PMC_SEL k) (fun t => pmcWrite t w k v)) else .next s

/-- All eight counters and FT copied in one cycle. -/
def snapshot (s : State) : State :=
  (List.range 8).foldl (fun t k => wr64 t (DBG_SNAP_K (2 * k)) (DBG_SNAP_K (2 * k + 1)) (wideOf s (DBG_PMC_LO k)))
    (wr64 s (DBG_SNAP_FT_LO 0) (DBG_SNAP_FT_LO 1) s.ft)

/-- A write of DBG_SNAP. -/
def snapWrite (s : State) (v : Word) : State := if bits v 0 0 = 1 then snapshot s else s

/-- DBG_SNAP. -/
def execDbgSnap (w : Who) (v : Word) (s : State) : Out := .next (guardW s w 4 DBG_SNAP (fun t => snapWrite t v))

/-- The counter, or the pin, whose select register an address is. -/
def pmcIdx (a : Nat) : Option Nat := (List.range 8).find? (fun k => a == DBG_PMC_SEL k)
def pinIdx (a : Nat) : Option Nat := (List.range 4).find? (fun n => a == TMUX_SEL n)

/-- A write of a block register of the debug pages. -/
def dbgWrite (s : State) (w : Who) (a : Nat) (v : Word) : State :=
  match pmcIdx a, pinIdx a with
  | some k, _ => pmcWrite s w k v
  | none, some n => tmuxWrite s w n v
  | none, none => if a = DBG_SNAP then snapWrite s v else plainWrite s w a v

/-- A soft reset of the debug page: its selections and counters. -/
def dbgSrst (s : State) : State :=
  (List.range 8).foldl (fun t k => setWide t (DBG_PMC_LO k) 0) (softRegs s pgDbg)

/-- Whether a pin is high (R617): low while disabled and in the low gap; a divided clock is not a level. -/
def pinHigh (s : State) (n : Nat) : Bool :=
  let a := TMUX_SEL n
  let x := tpin s n
  flag s a 31 && decide (x.low ≤ s.ft) &&
    (if fld s a 30 29 = 0 then levelHigh s (fld s a 23 16) (fld s a 15 0)
     else if fld s a 30 29 = 1 then decide (s.ft < x.high)
     else fld s a 30 29 == 2 && x.level)

end Sys2Proof.Machine
end

