-- ==== Sys2Proof/Machine/Bus.lean ====
section
/-!
DEFINITION. Accesses: BAR0 registers and their headers, the command windows of BAR2, the TK-3 window, BAR4 and the indirect
window, on every path (spec/02_register_pages.md, spec/09_tensor_tiles.md R316, R317, spec/03_stream_ports.md R43, R127).
-/
namespace Sys2Proof.Machine
open Sys2Proof

/-- What a read access answers. -/
def answer (s : State) (n : Nat) : State := { s with rdata := n, rpois := false }

/-! ## Anchors (R316, R317) -/

def pgAnc : Nat := 0x4000

/-- The anchor that an address of the array belongs to. -/
def ancIdx (a : Nat) : Nat := (a - 0x520000) / 16

def inAnc (a : Nat) : Bool := decide (0x520000 ≤ a) && decide (a < 0x560000)

/-- A write of ANC_CTRL: a change of owner. -/
def ancOwnerWrite (s : State) (w : Who) (n : Nat) (v : Word) : State :=
  let a := ANC_CTRL n
  let o := bits v 11 8
  if 9 ≤ o ∧ o ≤ 14 then wErr s w a 0x0102
  else if waiters s n ≠ 0 then wErr s w a 0x0101
  else if ancInUse s o n || ancInUse s (anc s n).owner n then wErr s w a errBound
  else ancOwner s n o

/-- A write of ANC_OP. -/
def ancOpWrite (s : State) (w : Who) (n : Nat) (v : Word) : State :=
  let a := ANC_OP n
  let op := bits v 31 30
  if op = 0 then (if bits v 15 0 = 0 then wErr s w a errReservedEnc else ancSignal s n (bits v 15 0))
  else if op = 1 then (if waiters s n ≠ 0 then wErr s w a 0x0101 else ancReset s n)
  else if op = 2 then ancFault s n
  else wErr s w a errReservedEnc

/-- A write in the anchor array. -/
def ancWrite (s : State) (w : Who) (a : Nat) (v : Word) : State :=
  if a % 16 = 8 then ancOwnerWrite s w (ancIdx a) v else if a % 16 = 12 then ancOpWrite s w (ancIdx a) v else s

/-- SIGNAL: a write of ANC_OP with OP 0. -/
def execSignal (w : Who) (n inc : Nat) (s : State) : Out :=
  .next (guardW s w 4 (ANC_OP n) (fun t => ancOpWrite t w n (word (inc % 65536))))

/-- RESET of an anchor: a write of ANC_OP with OP 1. -/
def execAncReset (w : Who) (n : Nat) (s : State) : Out :=
  .next (guardW s w 4 (ANC_OP n) (fun t => ancOpWrite t w n (word 0x40000000)))

/-- FAULT: a write of ANC_OP with OP 2. -/
def execFault (w : Who) (n : Nat) (s : State) : Out :=
  .next (guardW s w 4 (ANC_OP n) (fun t => ancOpWrite t w n (word 0x80000000)))

/-- OWNER write: a write of ANC_CTRL. -/
def execOwnerWrite (w : Who) (n : Nat) (v : Word) (s : State) : Out :=
  .next (guardW s w 4 (ANC_CTRL n) (fun t => ancOwnerWrite t w n v))

/-! ## The indirect window's registers (R77, R626, R632) -/

/-- The end of an operation of the indirect window (R632): what it did, then FAIL, CODE, the address and the end of BUSY. -/
def iwEnd (s : State) (w : Who) (off : Nat) (code : Option Nat) : State :=
  let st := keyOf w GLB_IW_STAT
  let s1 := match code with
    | some c => setFld (setFlag s st 1 true) st 31 16 c
    | none =>
      let s2 := setFlag s st 1 false
      let n := (off + 8) % 0x1000000000
      if flag s2 (keyOf w GLB_IW_CTRL) 2 then wr64 s2 (keyOf w GLB_IW_ADDR_LO) (keyOf w GLB_IW_ADDR_HI) n else s2
  let s3 := if code = some errDenied then bump s1 (GLB_DENIED_CNT (classCode w.cls)) else s1
  setOp (setFld s3 (keyOf w GLB_IW_CTRL) 1 0 0) (keyOf w GLB_IW_CTRL) false

/-- The DATA of an accessor's set. -/
def iwData (s : State) (w : Who) (n : Nat) : State := wr64 s (keyOf w GLB_IW_DATA_LO) (keyOf w GLB_IW_DATA_HI) n

/-- A DEBUG operation without SCOPE bit 3 ends at once as one that R626 denies: nothing moves, a GO_RD leaves DATA 0. -/
def iwDenied (s : State) (w : Who) (go : Nat) : State := iwEnd (if go = 1 then iwData s w 0 else s) w 0 (some errDenied)

/-- A write of a register of the indirect window page, into the set of the accessor's class. A GO leaves its kind in the
set's control word until the operation ends. GO_RD and GO_WR together start nothing, so nothing of them is denied (log entry 142). -/
def iwWrite (s : State) (w : Who) (a : Nat) (v : Word) : State :=
  let k := keyOf w GLB_IW_CTRL
  if opOn s k then wErr s w a errBusyWrite
  else if a ≠ GLB_IW_CTRL then plainWrite s w a v
  else
    let s1 := setFld s k 2 2 (bits v 2 2)
    let go := bits v 1 0
    if go = 0 then s1
    else if go = 3 then
      wErr (setFld (setFlag s1 (keyOf w GLB_IW_STAT) 1 true) (keyOf w GLB_IW_STAT) 31 16 errReservedEnc) w a errReservedEnc
    else if w.cls = .debug ∧ nbit (scope s) 3 = false then iwDenied s1 w go
    else setOp (setFld s1 k 1 0 go) k true

/-- GO_RD. -/
def execGoRd (w : Who) (inc : Bool) (s : State) : Out :=
  .next (guardW s w 4 GLB_IW_CTRL (fun t => iwWrite t w GLB_IW_CTRL (word (b2n inc * 4 + 1))))

/-- GO_WR. -/
def execGoWr (w : Who) (inc : Bool) (s : State) : Out :=
  .next (guardW s w 4 GLB_IW_CTRL (fun t => iwWrite t w GLB_IW_CTRL (word (b2n inc * 4 + 2))))

/-! ## Block-specific registers -/

/-- A write of a block-specific register that passes the checks, by the page's block. -/
def blockWrite (s : State) (w : Who) (a : Nat) (v : Word) : State :=
  match pageKind (a / 4096) with
  | none => s
  | some (k, i) =>
    match k with
    | .glbId =>
      if a = GLB_MODE_REQ then modeReq s w v else if a = GLB_MODE_LIMIT then limitWrite s w v else plainWrite s w a v
    | .glbIw => iwWrite s w a v
    | .hifCtx => hifCtxWrite s w a v
    | .port => portWrite s w i a v
    | .timeMain | .timePtp | .timeSrv | .timeMp | .timeConv => timeWrite s w a v
    | .motEnc | .motImu | .motDec => motWrite s w a v
    | .fusMain | .fusBar | .fusReg => fusWrite s w a v
    | .fabMain | .fabRgn | .fabFo | .sb => fabWrite s w a v
    | .ing => ingWrite s w a v
    | .i3c => i3cWrite s w i a v
    | .nc => ncWrite s w i a v
    | .apxMain | .apxChk | .apxPair => apxWrite s w a v
    | .outMain | .outBarUnit | .outStr => outWrite s w a v
    | .lnkMain | .lnkPort => lnkWrite s w a v
    | .recov => recWrite s w a v
    | .upd => updWrite s w a v
    | .sec => secWrite s w a v
    | .dbg | .tmux => dbgWrite s w a v
    | _ => plainWrite s w a v

/-! ## The page header (R47 to R59) -/

/-- The number of interrupt bits that a block's chapter defines. -/
def irqBits : PageKind → Nat
  | .port => 11 | .ing => 1 | .i3c => 2 | .timeMain => 7 | .timeSrv => 2 | .timeMp => 2 | .motEnc => 5 | .motImu => 3
  | .motDec => 3 | .fusMain => 2 | .fusBar => 5 | .fusReg => 3 | .fabMain => 1 | .sb => 2 | .nc => 6 | .ancCtl => 3
  | .tile => 5 | .apxMain => 4 | .apxChk => 2 | .apxPair => 1 | .outMain => 1 | .outBarUnit => 2 | .outStr => 2 | .cc => 3
  | .hifMain => 4 | .lnkMain => 5 | .lnkPort => 4 | .recov => 6 | .upd => 5 | .sec => 4 | .glbPwr => 2
  | _ => 0

/-- The bits of PAGE_IRQ_EN that a page has. -/
def irqMask (k : PageKind) : Word := word (0xE0000000 + (2 ^ irqBits k - 1))

/-- PAGE_STAT.BUSY, where a block's chapter defines it. -/
def pageBusy (s : State) (k : PageKind) (i : Nat) : Bool :=
  match k with
  | .port => (port s i).rx.isSome
  | .ing => ingBusy s
  | .tile => tileBusy s i
  | _ => false

/-- ERR_CLR (R50); on the checker page the record of the last mismatch goes with it (spec/11_approximation.md R381), on a tile's and a
cluster controller's page the first uncorrectable offset (spec/09_tensor_tiles.md R326, R327). -/
def errClr (s : State) (pg : Nat) : State :=
  let s1 := setFlag (wrN (wrN s (PAGE_ERR_CODE pg) 0) (PAGE_ERR_INFO pg) 0) (PAGE_STAT pg) 8 false
  if pg = 0x501000 then setFlag s1 APX_CHK_LAST 31 false
  else match pageKind (pg / 4096) with
    | some (.tile, t) => wrN s1 (TT_SRAM_UE_ADDR t) 0
    | some (.cc, c) => wrN s1 (CC_SRAM_UE_ADDR c) 0
    | _ => s1

/-- A write of PAGE_CTRL.EN (R50, R64), where the page's unit has an enable. -/
def enPage (s : State) (w : Who) (pg : Nat) (en : Bool) : State :=
  let a := PAGE_CTRL pg
  match pageKind (pg / 4096) with
  | some (.port, p) =>
    if disPend s a then (if en then setFlag (setDisPend s a false) a 0 true else s)
    else if flag s a 0 = en then (if en then s else portDisableAgain s p)
    else if en then (if mayEnablePort s p then portEnable (setFlag s a 0 true) p else wErr s w a 0x0102)
    else if (port s p).rx.isSome then setDisPend (setFlag s a 0 false) a true
    else portDisable (setFlag s a 0 false) p
  | some (.nc, n) =>
    if flag s a 0 = en then s
    else if en then
      (match ncRefuse s n with
       | some c => wErr s w a c
       | none => ncEnable (setFlag s a 0 true) n)
    else setFlag (ncStop s n) a 0 false
  | _ => s

/-- The code that refuses a soft reset of a page (R69 and the blocks' chapters). -/
def srstRefused (s : State) (pg : Nat) : Option Nat :=
  let bound (b : Bool) : Option Nat := if b then some errBound else none
  match pageKind (pg / 4096) with
  | some (.port, p) => bound (portBound s p)
  | some (.timeSrv, _) | some (.timeMp, _) => bound (timeSrstRefused s pg)
  | some (.motEnc, _) | some (.motImu, _) | some (.motDec, _) => bound (motBound s pg)
  | some (.fusMain, _) | some (.fusBar, _) | some (.fusReg, _) => bound (fusBound s pg)
  | some (.outMain, _) | some (.outBarUnit, _) | some (.outStr, _) => bound (outBound s pg)
  | some (.apxMain, _) | some (.apxChk, _) | some (.apxPair, _) => bound (anyBound s)
  | some (.tile, t) => bound (boundTile s t)
  | some (.nc, n) => bound (boundCore s n)
  | some (.cc, c) => bound (boundCluster s c)
  | some (.recov, _) => if stepRuns s then some 0x0101 else none
  | _ => none

/-- The operations of a page's register sets abandoned: none is in progress, and what shows one returns to reset. -/
def abandon (s : State) (pg : Nat) : State :=
  let s1 := { s with opBusy := s.opBusy.filter (fun e => decide (pageOf (keyAddr e.1) ≠ pg)) }
  match pageKind (pg / 4096) with
  | some (.i3c, b) => wrN s1 (I3C_XFER_STAT b) 0
  | some (.timeConv, _) => (s.opBusy.filter (fun e => decide (pageOf (keyAddr e.1) = pg))).foldl (fun t e =>
      wrN t (e.1 - TIME_CONV_CTRL + TIME_CONV_STAT) 0) s1
  | some (.glbIw, _) => (s.opBusy.filter (fun e => decide (pageOf (keyAddr e.1) = pg))).foldl (fun t e => setFld t e.1 1 0 0) s1
  | _ => s1

/-- What a soft reset does to the unit of a page. -/
def srstUnit (s : State) (pg : Nat) : State :=
  match pageKind (pg / 4096) with
  | some (.port, p) => portSrst s p
  | some (.timeMain, _) | some (.timePtp, _) | some (.timeSrv, _) | some (.timeMp, _) | some (.timeConv, _) => timeSrst s pg
  | some (.motEnc, _) | some (.motImu, _) | some (.motDec, _) => motSrst s pg
  | some (.fusMain, _) | some (.fusBar, _) | some (.fusReg, _) => fusSrst s pg
  | some (.fabMain, _) | some (.fabRgn, _) | some (.fabFo, _) | some (.sb, _) => fabSrst s pg
  | some (.outMain, _) | some (.outBarUnit, _) | some (.outStr, _) => outSrst s pg
  | some (.apxMain, _) | some (.apxChk, _) | some (.apxPair, _) => apxSrst s pg
  | some (.tile, t) => softRegs (tileClear s t) pg
  | some (.nc, n) => softRegs (coreOff s n) pg
  | some (.lnkMain, _) | some (.lnkPort, _) => lnkSrst s pg
  | some (.recov, _) => recSrst s
  | some (.upd, _) => updSrst s
  | some (.sec, _) => secSrst s
  | some (.dbg, _) => dbgSrst s
  | some (.tmux, _) => tmuxSrst s
  | some (.ancCtl, _) => wrN (softRegs s pg) ANC_LAST 0
  | some (.glbId, _) => setFld (softRegs s pg) GLB_MODE_LIMIT 15 8 (tjReset (gradeX s))
  | _ => softRegs s pg

/-- SRST (R68, R69). -/
def srst (s : State) (w : Who) (pg : Nat) : State :=
  match srstRefused s pg with
  | some c => wErr s w (PAGE_CTRL pg) c
  | none => softEnd (abandon (srstUnit s pg) pg) pg

/-- A write of PAGE_CTRL. -/
def ctrlWrite (s : State) (w : Who) (pg : Nat) (v : Word) : State :=
  let s1 := if bits v 3 3 = 1 then errClr s pg else s
  let s2 := if bits v 2 2 = 1 then setFlag s1 (PAGE_CTRL pg) 2 true else s1
  let s3 := enPage s2 w pg (bits v 0 0 == 1)
  if bits v 1 1 = 1 then srst s3 w pg else s3

/-- A write of PAGE_IRQ_STAT: W1C. -/
def statClear (s : State) (pg : Nat) (v : Word) : State := wr s (PAGE_IRQ_STAT pg) (rd s (PAGE_IRQ_STAT pg) &&& ~~~v)

/-- A write of a header register. -/
def hdrWrite (s : State) (w : Who) (a : Nat) (v : Word) : State :=
  let pg := pageOf a
  match pageKind (a / 4096) with
  | none => s
  | some (k, _) =>
    if a = PAGE_CTRL pg then ctrlWrite s w pg v
    else if a = PAGE_IRQ_EN pg then wr s a (v &&& irqMask k)
    else if a = PAGE_IRQ_STAT pg then statClear s pg v
    else if a = PAGE_GEN pg then wrN s (genKey w.fn pg) (bits v 16 16 * 0x10000 + bits v 15 8 * 0x100)
    else s

/-- What a header register reads as. -/
def hdrRead (s : State) (w : Who) (k : PageKind) (i a : Nat) : Nat :=
  let pg := pageOf a
  if a = PAGE_VER pg then Config.pageVer (blockType k) % 0x10000
  else if a = PAGE_STAT pg then nput (rdN s a) 4 4 (b2n (pageBusy s k i))
  else if a = PAGE_IRQ_RAW pg then 0
  else if a = PAGE_GEN pg then rdN s (genKey w.fn pg) + pageGen s pg
  else rdN s a

/-! ## MSI-X tables (R453) -/

def msixRead (s : State) (fn a : Nat) : Nat :=
  if 0x1E000 ≤ a then
    (List.range 32).foldl (fun n j =>
      let v := 8 * (a - 0x1E000) + j
      n + b2n (decide (v < vecCount fn) && (vecOf s fn v).pend) * 2 ^ j) 0
  else
    let v := (a - 0x1C000) / 16
    let x := vecOf s fn v
    if vecCount fn ≤ v then 0
    else if a % 16 = 0 then x.addr % 4294967296
    else if a % 16 = 4 then x.addr / 4294967296
    else if a % 16 = 8 then x.data
    else b2n x.masked

def msixWrite (s : State) (fn a : Nat) (v : Word) : State :=
  let n := (a - 0x1C000) / 16
  let x := vecOf s fn n
  if 0x1E000 ≤ a ∨ vecCount fn ≤ n then s
  else if a % 16 = 0 then setVec s fn n { x with addr := nput x.addr 31 0 (v.toNat / 4 * 4) }
  else if a % 16 = 4 then setVec s fn n { x with addr := nput x.addr 63 32 v.toNat }
  else if a % 16 = 8 then setVec s fn n { x with data := v.toNat }
  else sendPending (setVec s fn n { x with masked := bits v 0 0 == 1 }) fn n

/-! ## BAR0 accesses (R63) -/

/-- The effect of a 32-bit write that passes the checks. -/
def writeReg (s : State) (w : Who) (a : Nat) (v : Word) : State :=
  if inMsix a then msixWrite s w.fn a v
  else if inAnc a then ancWrite s w a v
  else if a % 4096 < 0x40 then hdrWrite s w a v
  else blockWrite s w a v

/-- A 32-bit write on any path. -/
def busWrite (s : State) (w : Who) (a : Nat) (v : Word) : State := guardW s w 4 a (fun t => writeReg t w a v)

/-- GLB_IRQ_PENDi. -/
def irqPend (s : State) (i : Nat) : Nat :=
  (List.range 32).foldl (fun n j => n + b2n (decide (rdN s (PAGE_IRQ_STAT (0x1000 * (32 * i + j))) ≠ 0)
    && (pageKind (32 * i + j)).isSome && !inAnc (0x1000 * (32 * i + j))) * 2 ^ j) 0

/-- What an anchor's register reads as. -/
def ancLive (s : State) (a : Nat) : Option Nat :=
  let n := ancIdx a
  if a % 16 = 0 then some ((anc s n).val % 4294967296)
  else if a % 16 = 8 then some (ancCtrlWord s n)
  else if a % 16 = 12 then some 0
  else none

/-- What a block-specific register that is computed reads as. -/
def liveReg (s : State) (w : Who) (a : Nat) : Option Nat :=
  if inAnc a then ancLive s a
  else match pageKind (a / 4096) with
    | none => none
    | some (k, i) =>
      match k with
      | .glbIw =>
        if a = GLB_IW_CTRL then some (fld s (keyOf w a) 2 2 * 4)
        else if a = GLB_IW_STAT then some (nput (rdN s (keyOf w a)) 0 0 (b2n (opOn s (keyOf w GLB_IW_CTRL))))
        else none
      | .glbIrq => if 0x3040 ≤ a ∧ a < 0x3240 then some (irqPend s ((a - 0x3040) / 4)) else none
      | .hifCtx => hifCtxLive s w a
      | .port | .ing => portLive s a
      | .timeMain | .timePtp | .timeSrv | .timeMp | .timeConv => timeLive s a
      | .motEnc | .motImu | .motDec => motLive s a
      | .fabMain | .fabRgn | .fabFo | .sb => fabLive s a
      | .nc => ncLive s i a
      | .tile => tileLive s i a
      | .apxMain | .apxChk | .apxPair => apxLive s a
      | .outMain | .outBarUnit | .outStr => outLive s a
      | .lnkMain | .lnkPort => lnkLive s a
      | .upd => updLive s a
      | .sec => secLive s a
      | .dbg => if latchOf a = some (a + 4) then some (wideOf s a % 4294967296) else none
      | _ => none

/-- The high half that a read of a low half latches. -/
def highHalf (s : State) (a : Nat) : Nat :=
  if inAnc a then (anc s (ancIdx a)).val / 4294967296
  else if a = TIME_FT_LO then s.ft / 4294967296
  else if a = TIME_MP_ANGLE then twos 32 s.mp.rev
  else match pageKind (a / 4096) with
    | some (.nc, n) => if a = NC_FRONT_LO n then (if ncEnabled s n then frontier s n / 4294967296 else 0) else wideOf s a / 4294967296
    | _ => wideOf s a / 4294967296

/-- What a highest level since the last read starts from: the level at that read (R112, R114). -/
def levelNow (s : State) (a : Nat) : Option Nat :=
  match pageKind (a / 4096) with
  | some (.port, p) => if a = PORT_BUF_PEAK p then some (bufBytes (port s p)) else none
  | some (.ing, _) => if a = ING_SPILL_PEAK then some (64 * segsUsed s) else none
  | _ => none

def repeak (s : State) (a : Nat) : State :=
  match levelNow s a with
  | some n => wrN s a n
  | none => s

/-- A read of a block-specific register, with its effects: a latch, the clearing of RC fields, the quote window. -/
def blockRead (s : State) (w : Who) (a : Nat) : State :=
  let k := keyOf w a
  let v := (liveReg s w a).getD (rdN s k)
  let s1 := match latchOf a with
    | some b => wrN s b (highHalf s a)
    | none => s
  let s2 := repeak (clearRc s1 k a) a
  answer (if a = SEC_Q_DATA_LO 1 then quoteNext s2 else s2) v

/-- A read that passes the checks. -/
def readReg (s : State) (w : Who) (a : Nat) : State :=
  if inMsix a then answer s (msixRead s w.fn a)
  else if inAnc a then blockRead s w a
  else if a % 4096 < 0x40 then
    (match pageKind (a / 4096) with
     | some (k, i) => answer s (hdrRead s w k i a)
     | none => answer s 0)
  else blockRead s w a

/-- A 32-bit read on any path; a read that fails its checks answers 0. -/
def busRead (s : State) (w : Who) (a : Nat) : State :=
  match checkAcc s w false 4 a with
  | .ok => readReg s w a
  | c => answer (failAcc s w false a c) 0

/-! ## The command windows of BAR2 (R432, R435, R436) -/

/-- The first address of BAR2 in the model's address space; BAR0 lies below it. -/
def bar2 : Nat := 0x10000000

/-- A read through a window: descriptor slots and unassigned offsets read 0. -/
def winRead (s : State) (w : Who) (off : Nat) : State :=
  match winCtx s w.fn off with
  | none => answer (winDenied s) 0
  | some c =>
    let a := bar2 + c * 0x10000 + off % 0x10000
    match findRow rowsWin (off % 0x10000) with
    | none => answer s 0
    | some r =>
      let v := (winLive s c a).getD (rdN s a)
      if r.flds.any (fun x => x.acc = .rc) then answer (wrN s a 0) v else answer s v

/-- A write through a window, of a register or into a descriptor slot. -/
def winStore (s : State) (w : Who) (off : Nat) (v : Word) : State :=
  match winCtx s w.fn off with
  | none => winDenied s
  | some c =>
    let o := off % 0x10000
    if o < 0x8000 then
      let s1 := descWrite s (c * 32768 + o) (leBytes 4 v.toNat)
      let d := descRead s1 (c * 32768 + o / 64 * 64) 64
      if o % 64 = 60 ∧ nbit (ofLe (d.drop 60)) 31 then submit s1 c (o / 64) d else s1
    else winWrite s c (bar2 + c * 0x10000 + o) v

/-! ## The TK-3 window (R43, R127) -/

def inLegacy (a : Nat) : Bool := decide (0xF00000 ≤ a) && decide (a < 0xF04000)

/-- A write to a TK-3 register. -/
def tkWrite (s : State) (w : Who) (p off : Nat) (v : Word) : State :=
  match off with
  | 0x002 => enPage s w (portPage p) (bits v 0 0 == 1)
  | 0x006 => tkRes s w p 2048 (bits v 15 0) (putBits (rd s (PORT_LEG_RES p)) 27 16 (bits v 11 0))
  | 0x008 => tkRes s w p 1024 (bits v 15 0) (putBits (rd s (PORT_LEG_RES p)) 10 0 (bits v 10 0))
  | 0x00E => if portStatic s p then wErr s w (PORT_LEG_OFFSET p) 0x0101 else updPort s p (fun x => { x with offLo := bits v 15 0 })
  | 0x010 => tkOffsetHi s w p (bits v 15 0)
  | _ => s

/-- An access through the TK-3 window, of a size in bytes. -/
def tkAccess (s : State) (w : Who) (isWr : Bool) (size a : Nat) (v : Word) : State :=
  let p := a / 4096 % 4
  let off := a % 4096
  match tkCheck s w isWr size p off with
  | .ok => if isWr then tkWrite s w p off v else (let r := tkRead s p off; answer r.1 r.2)
  | .fail c => let s1 := tkFail s w isWr p off c; if isWr then s1 else answer s1 0
  | .noGrant => let s1 := bump s DBG_JTAG_REFUSE_CNT; if isWr then s1 else answer s1 0
  | _ => if isWr then s else answer s 0

/-! ## Accesses of any kind -/

/-- A write of 4 bytes, or of 8 as two of 4, at an address of BAR0 or above it of BAR2; another size fails its checks. -/
def regWrite (s : State) (w : Who) (size a v : Nat) : State :=
  if inLegacy a then tkAccess s w true size a (word v)
  else if bar2 ≤ a then
    if size = 4 ∧ a % 4 = 0 then winStore s w (a - bar2) (word v)
    else if size = 8 ∧ a % 8 = 0 then winStore (winStore s w (a - bar2) (word v)) w (a - bar2 + 4) (word (v / 4294967296))
    else s
  else if size = 8 ∧ a % 8 = 0 then busWrite (busWrite s w a (word v)) w (a + 4) (word (v / 4294967296))
  else guardW s w size a (fun t => writeReg t w a (word v))

/-- REGISTER_WRITE. -/
def execRegisterWrite (w : Who) (size a v : Nat) (s : State) : Out := .next (regWrite s w size a v)

/-- Two reads of 4 bytes in turn, the lower address first, and what they answer together. -/
def readTwice (rdOne : State → Nat → State) (s : State) (a : Nat) : State :=
  let s1 := rdOne s a
  let s2 := rdOne s1 (a + 4)
  answer s2 (s1.rdata + 0x100000000 * s2.rdata)

/-- A read of 4 bytes, or of 8 as two of 4 (R41), at an address of BAR0 or above it of BAR2; another size fails its checks and
answers 0 (R42). -/
def regRead (s : State) (w : Who) (size a : Nat) : State :=
  if inLegacy a then tkAccess s w false size a 0
  else if bar2 ≤ a then
    if size = 4 ∧ a % 4 = 0 then winRead s w (a - bar2)
    else if size = 8 ∧ a % 8 = 0 then readTwice (fun t x => winRead t w (x - bar2)) s a
    else answer s 0
  else if size = 4 then busRead s w a
  else if size = 8 ∧ a % 8 = 0 then readTwice (fun t x => busRead t w x) s a
  else answer (failAcc s w false a (checkAcc s w false size a)) 0

/-- COUNTER_READ_CLEAR. -/
def execCounterReadClear (w : Who) (size a : Nat) (s : State) : Out := .next (regRead s w size a)

/-- LATCHING_READ. -/
def execLatchingRead (w : Who) (size a : Nat) (s : State) : Out := .next (regRead s w size a)

/-- UNMAPPED_ACCESS: an access to an address in no assigned page. -/
def execUnmappedAccess (w : Who) (isWr : Bool) (a : Nat) (s : State) : Out :=
  let c := checkAcc s w isWr 4 a
  if c = .unmapped ∧ inLegacy a = false ∧ a < bar2 then .next (let s1 := failAcc s w isWr a c; if isWr then s1 else answer s1 0) else .next s

/-- ERR_TIMEOUT: a READY unit does not answer an access to a block-specific register (R66); the header always answers. -/
def execErrTimeout (w : Who) (isWr : Bool) (a : Nat) (s : State) : Out :=
  let hdr := headerPage a == pageOf a && decide (a % 4096 < 0x40)
  match checkAcc s w isWr 4 a with
  | .ok =>
    if hdr || inMsix a || decide (unitState s (headerPage a) ≠ stReady) then .next s
    else
      let s1 := recErr s (headerPage a) errTimeout (accInfo w isWr a)
      .next (if isWr then s1 else answer s1 0)
  | c => .next (let s1 := failAcc s w isWr a c; if isWr then s1 else answer s1 0)

/-- IRQ_STAT_CLEAR: a write of PAGE_IRQ_STAT. -/
def execIrqStatClear (w : Who) (pg : Nat) (v : Word) (s : State) : Out :=
  .next (guardW s w 4 (PAGE_IRQ_STAT pg) (fun t => hdrWrite t w (PAGE_IRQ_STAT pg) v))

/-- A write of PAGE_CTRL, checked. -/
def pageCtrl (s : State) (w : Who) (pg v : Nat) : State := guardW s w 4 (PAGE_CTRL pg) (fun t => hdrWrite t w (PAGE_CTRL pg) (word v))

/-- ERR_CLR; `en` is the EN bit of the same write. -/
def execErrClr (w : Who) (pg : Nat) (en : Bool) (s : State) : Out := .next (pageCtrl s w pg (8 + b2n en))

/-- LOCK; `en` is the EN bit of the same write. -/
def execLock (w : Who) (pg : Nat) (en : Bool) (s : State) : Out := .next (pageCtrl s w pg (4 + b2n en))

/-- SRST; `en` is the EN bit of the same write. -/
def execSrst (w : Who) (pg : Nat) (en : Bool) (s : State) : Out := .next (pageCtrl s w pg (2 + b2n en))

/-- PAGE_ENABLE. -/
def execPageEnable (w : Who) (pg : Nat) (s : State) : Out := .next (pageCtrl s w pg 1)

/-- PAGE_DISABLE. -/
def execPageDisable (w : Who) (pg : Nat) (s : State) : Out := .next (pageCtrl s w pg 0)

/-- DISABLE_ON_IDLE: the pending disable of a port takes effect once it is not receiving a packet (R50, R92). -/
def execDisableOnIdle (pg : Nat) (s : State) : Out :=
  match pageKind (pg / 4096) with
  | some (.port, p) =>
    if disPend s (PAGE_CTRL (portPage p)) && (port s p).rx.isNone then .next (portDisable (setDisPend s (PAGE_CTRL (portPage p)) false) p)
    else .next s
  | _ => .next s

/-- SEC_Q_DATA_READ: a read of SEC_Q_DATA_HI. -/
def execSecQDataRead (w : Who) (s : State) : Out := .next (busRead s w (SEC_Q_DATA_LO 1))

/-- TK_OFFSET_HI_WRITE: a 16-bit write of the high half of the offset through the TK-3 window. -/
def execTkOffsetHiWrite (w : Who) (p : Nat) (v : Word) (s : State) : Out :=
  .next (tkAccess s w true 2 (0xF00010 + 0x1000 * (p % 4)) v)

/-- LEGACY_WINDOW_ACCESS: an access of any size at an offset of the TK-3 window. -/
def execLegacyWindowAccess (w : Who) (isWr : Bool) (size off : Nat) (v : Word) (s : State) : Out :=
  if off < 0x4000 then .next (tkAccess s w isWr size (0xF00000 + off) v) else .next s

/-! ## BAR4 (R73 to R76) -/

/-- What lies at an offset of BAR4: an LPDDR5X byte, a byte of the fan-out table, of SRAM or of another table (at its offset
less 0x0D_0000_0000), or bytes that read 0 within a table. -/
inductive Place
  | mem (a : Nat)
  | fan (x : Nat)
  | sram (x : Nat)
  | tab (x : Nat)
  | zero
  deriving DecidableEq, Repr

def gib : Nat := 0x40000000

/-- The place of an offset; none where R73 or R74 gives none. -/
def placeOf (s : State) (off : Nat) : Option Place :=
  let lp (a : Nat) : Option Place := if a < memSize then some (.mem a) else none
  if off < 0x800000000 then lp (fld s GLB_B4_BASE_A 6 0 * gib + off)
  else if off < 0xC00000000 then lp (fld s GLB_B4_BASE_B 6 0 * gib + (off - 0x800000000))
  else if off < 0xC20000000 then (if off % 0x400000 < tileSize then some (.sram (off - 0xC00000000)) else none)
  else if off < 0xC28000000 then some (.sram (off - 0xC00000000))
  else if off < 0xD00000000 then none
  else if off < 0xD10000000 then some (.fan (off - 0xD00000000))
  else if off < 0xD10200000 then some (if off % 0x8000 < 16900 then .tab (off - 0xD00000000) else .zero)
  else if off < 0xD10A10000 then some (.tab (off - 0xD00000000))
  else none

/-- The rights of R73, with those of R626 for the classes of the indirect window; at an offset that R73 gives to no region an access is
not denied but of SERVICE, which has no write right (log entry 142). -/
def b4May (cls : PortClass) (isWr : Bool) (off : Nat) : Bool :=
  match cls with
  | .owner | .fabric | .debug => true
  | .service => !isWr
  | .operator =>
    !(decide (0xC00000000 ≤ off) && decide (off < 0xC28000000))
      && !(isWr && decide (0xD00000000 ≤ off) && decide (off < 0xD10A10000))
  | .tenant => false

/-- Whether a byte of the fan-out table belongs to an entry of a bound core or to a record that such an entry lists. -/
def fanInUse (s : State) (x : Nat) : Bool :=
  if x < 0x4000000 then boundCore s (x / 131072)
  else
    let r := (x - 0x4000000) / 8
    ((List.range 512).filter (boundCore s)).any (fun n =>
      (List.range 8192).any (fun i =>
        let e := fanWord s (8192 * n + i)
        decide (nbits e 109 85 ≤ r) && decide (r < nbits e 109 85 + nbits e 119 110)))

/-- A write that a block refuses: the page of the record, the code, and the detail where the chapter defines one (R57, R75, R206,
R511, R527). -/
def memRefuse (s : State) (a : Nat) : Option (Nat × Nat × Option Nat) :=
  if inDump s a 1 then some (pgRec, errBound, none)
  else if fwRegion s ≤ a ∧ a < fwRegion s + fwSize then some (pgUpd, errBound, none)
  else none

/-- Whether a running job uses an entry of the link routing table: its traffic is forwarded to that address (R472, R484; DEDUCED, log entry
165). -/
def fwdEntry (s : State) (a : Nat) : Bool :=
  (List.range 8).any (fun b => boundBar s b && flag s (LNK_FWD b) 31 && fld s (LNK_FWD b) 11 0 == a)

def b4Refuse (s : State) (pl : Place) : Option (Nat × Nat × Option Nat) :=
  match pl with
  | .mem a =>
    match memRefuse s a with
    | some r => some r
    | none => if fanBase s ≤ a ∧ a < fanBase s + 0x10000000 ∧ fanInUse s (a - fanBase s) = true then some (0, errBound, none) else none
  | .fan x => if fanInUse s x then some (0x72000, errBound, none) else memRefuse s (fanBase s + x)
  | .sram x => if x < 0x20000000 ∧ boundTile s (x / 0x400000) = true then some (tilePage (x / 0x400000), errBound, none) else none
  | .tab x =>
    if x < 0x10200000 then
      let p := (x - 0x10000000) / 0x10000
      (gridPoke s p (x / 0x8000 % 2)).map (fun c => (pgReg, c, some (p * 0x8000 + x % 0x8000)))
    else if x < 0x10600000 then
      (if boundCore s ((x - 0x10200000) / 0x2000) then some (ncPage ((x - 0x10200000) / 0x2000), errBound, none) else none)
    else if x < 0x10A00000 then (if anyBound s then some (0x510000, errBound, none) else none)
    else if fwdEntry s ((x - 0x10A00000) / 16) then some (0x600000, errBound, none)
    else none
  | .zero => none

/-- Bytes stored at a place; the routing table's words 2 and 3 and the reserved bits of word 0 stay 0 (R472). -/
def b4Store (s : State) (pl : Place) (b : Byte) : State :=
  match pl with
  | .mem a => memWrite s a [b]
  | .fan x => memWrite s (fanBase s + x) [b]
  | .sram x => sramWrite s x [b]
  | .tab x =>
    if x < 0x10A00000 then tabWrite s x [b]
    else if 8 ≤ x % 16 ∨ x % 16 < 2 then s
    else if x % 16 = 2 then tabWrite s x [b &&& 0xFC]
    else tabWrite s x [b]
  | .zero => s

/-- The check bits of a word that is written whole are fresh. -/
def b4Fresh (s : State) (pl : Place) (n : Nat) : State :=
  if n = 8 then
    match pl with
    | .mem a => { s with memUe := tset boolD s.memUe (a / 8) false }
    | .fan x => { s with memUe := tset boolD s.memUe ((fanBase s + x) / 8) false }
    | .sram x => { s with poison := tset boolD s.poison (x / 8) false, ce := tset boolD s.ce (x / 8) false }
    | _ => s
  else s

/-- One piece of a write, within an aligned 8-byte word: the state after it, and the code of a failure. `record` says whether a
refusal leaves its record. A write to SRAM waits for the end of a core clock pause (spec/09_tensor_tiles.md R324). -/
def b4Piece (s : State) (w : Who) (record : Bool) (off : Nat) (bs : List Byte) : State × Option Nat :=
  if !b4May w.cls true off then (s, some errDenied)
  else
    match placeOf s off with
    | none => (s, some 0x0101)
    | some pl =>
      match b4Refuse s pl with
      | some (pg, c, d) =>
        let info := word (0x80000000 + classCode w.cls * 0x10000000 + w.fn * 0x100000 + (d.getD (off % 0x100000)) % 0x100000)
        ((if record then recErr s pg c info else s), some c)
      | none =>
        match s.pwr.pause, pl with
        | some _, .sram x => ({ s with held := s.held ++ [(x, bs)] }, none)
        | _, _ =>
          let s1 := (List.range bs.length).foldl (fun t i =>
            match placeOf t (off + i) with
            | some p => b4Store t p (bs.getD i 0)
            | none => t) s
          (b4Fresh s1 pl bs.length, none)

/-- A write through BAR4: each word by itself; the first refusal is recorded, and a denied write counts once. -/
def b4Write (s : State) (w : Who) (off : Nat) (bs : List Byte) : State :=
  let r := (pieces off bs.length).foldl (fun (r : State × Bool × Bool) e =>
    let x := b4Piece r.1 w (!r.2.1) e.1 ((bs.drop (e.1 - off)).take e.2)
    (x.1, r.2.1 || (match x.2 with | some c => c != 0x0101 && c != errDenied | none => false), r.2.2 || x.2 == some errDenied))
    (s, false, false)
  if r.2.2 then bump r.1 (GLB_DENIED_CNT (classCode w.cls)) else r.1

/-- BAR4_WRITE. -/
def execBar4Write (w : Who) (off : Nat) (bs : List Byte) (s : State) : Out := .next (b4Write s w off bs)

/-- One piece of a read: the state after it, its bytes, whether it is poisoned, and the code of a failure. SRAM does not answer
during a core clock pause (spec/09_tensor_tiles.md R324, R66). -/
def b4Fetch (s : State) (w : Who) (off n : Nat) : State × List Byte × Bool × Option Nat :=
  let zeros := List.replicate n (0 : Byte)
  if !b4May w.cls false off then (s, zeros, false, some errDenied)
  else
    match placeOf s off with
    | none => (s, zeros, false, some 0x0101)
    | some (.mem a) => (memUeLog s a n, memRead s a n, memBad s a n, none)
    | some (.fan x) => (memUeLog s (fanBase s + x) n, memRead s (fanBase s + x) n, memBad s (fanBase s + x) n, none)
    | some (.sram x) =>
      if s.pwr.pause.isSome then
        let u := sramUnit x
        let info := word (classCode w.cls * 0x10000000 + w.fn * 0x100000 + off % 0x100000)
        (recErr s (if u < 128 then tilePage u else ccPage (u - 128)) errTimeout info, zeros, false, none)
      else if sramBad s x n then (sramUe s (x / 8 * 8), sramRead s x n, true, none)
      else (correct s [(x, n)], sramRead s x n, false, none)
    | some (.tab x) => (s, if x < 0x10200000 then padTo n (tabRead s x (min n (16900 - x % 0x8000))) else tabRead s x n, false, none)
    | some .zero => (s, zeros, false, none)

/-- A read through BAR4: live contents, low byte first; poisoned where any word is uncorrectable. -/
def b4Read (s : State) (w : Who) (off n : Nat) : State :=
  let r := (pieces off n).foldl (fun (r : State × List Byte × Bool × Bool) e =>
    let x := b4Fetch r.1 w e.1 e.2
    (x.1, r.2.1 ++ x.2.1, r.2.2.1 || x.2.2.1, r.2.2.2 || x.2.2.2 == some errDenied)) (s, [], false, false)
  let s1 := if r.2.2.2 then bump r.1 (GLB_DENIED_CNT (classCode w.cls)) else r.1
  { s1 with rdata := ofLe r.2.1, rpois := r.2.2.1 }

/-- BAR4_READ. -/
def execBar4Read (w : Who) (off n : Nat) (s : State) : Out := .next (b4Read s w off n)

/-- IW_OPERATION_DONE: the operation of the set of an accessor's class ends. -/
def execIwOperationDone (w : Who) (s : State) : Out :=
  let k := keyOf w GLB_IW_CTRL
  if !opOn s k then .next s
  else
    let off := rd64 s (keyOf w GLB_IW_ADDR_LO) (keyOf w GLB_IW_ADDR_HI)
    if fld s k 1 0 = 2 then
      let r := b4Piece s w true off (leBytes 8 (rd64 s (keyOf w GLB_IW_DATA_LO) (keyOf w GLB_IW_DATA_HI)))
      .next (iwEnd r.1 w off r.2)
    else
      let r := b4Fetch s w off 8
      let v := if r.2.2.2.isSome then 0 else ofLe r.2.1
      .next (iwEnd (iwData r.1 w v) w off r.2.2.2)

end Sys2Proof.Machine
end

