-- ==== Sys2Proof/Machine/Manage.lean ====
section
/-!
DEFINITION. The paths to the registers other than PCI Express: register frames of the management channel, SVC messages and JTAG
(spec/15_rope_fabric.md R478, spec/17_boot_update.md R541, spec/21_debug_test.md R615).
-/
namespace Sys2Proof.Machine
open Sys2Proof

/-- The page that records the errors of a 32-bit access. -/
def errPage (a : Nat) : Nat := if inLegacy a then portPage (a / 4096 % 4) else headerPage a

/-- The CODE that an access leaves: what its page would record as a first error. -/
def accCode (s : State) (eff : State → State) (a : Nat) : Nat :=
  fld (eff (wrN s (PAGE_ERR_CODE (errPage a)) 0)) (PAGE_ERR_CODE (errPage a)) 15 0

/-- One write and one read, with their CODE. -/
def writeCode (s : State) (w : Who) (a v : Nat) : State × Nat :=
  (regWrite s w 4 a v, accCode s (fun t => regWrite t w 4 a v) a)

def readCode (s : State) (w : Who) (a : Nat) : State × Nat :=
  (regRead s w 4 a, accCode s (fun t => regRead t w 4 a) a)

/-! ## REG payloads (R478) -/

/-- Whether a REG payload is a request that is carried out. -/
def regOk (p : List Byte) : Bool :=
  let op := fieldN p 4 1
  let n := fieldN p 5 1
  decide (1 ≤ n) && decide (n ≤ 64)
    && ((op == 1 && p.length == 16) || (op == 2 && p.length == 16 + 4 * n))

/-- ADDR of a payload. -/
def regAddr (p : List Byte) : Nat := fieldN p 8 4 % 0x1000000 / 4 * 4

/-- The first CODE that is not 0. -/
def firstCode (c d : Nat) : Nat := if c = 0 then d else c

/-- The accesses of a request, in order: the state after them, the words read, and the first failing CODE. -/
def regAccesses (s : State) (w : Who) (p : List Byte) : State × List Byte × Nat :=
  (List.range (fieldN p 5 1)).foldl (fun (r : State × List Byte × Nat) i =>
    let a := regAddr p + 4 * i
    if fieldN p 4 1 = 2 then
      let x := writeCode r.1 w a (fieldN p (16 + 4 * i) 4)
      (x.1, r.2.1, firstCode r.2.2 x.2)
    else
      let x := readCode r.1 w a
      (x.1, r.2.1 ++ leBytes 4 (if x.2 = 0 then x.1.rdata else 0), firstCode r.2.2 x.2)) (s, [], 0)

/-- A request carried out: the state after it and the response's payload. One that is malformed is counted and draws none. -/
def regRequest (s : State) (w : Who) (p : List Byte) : State × Option (List Byte) :=
  if regOk p then
    let r := regAccesses s w p
    (r.1, some (p.take 4 ++ leBytes 1 (0x80 + fieldN p 4 1) ++ leBytes 1 (fieldN p 5 1) ++ leBytes 2 r.2.2 ++ leBytes 4 (regAddr p)
      ++ leBytes 4 0 ++ r.2.1))
  else (bump s LNK_SR_BAD_CNT, none)

def whoFabric : Who := ⟨.fabric, 0xFF⟩
def whoService : Who := ⟨.service, 0xFF⟩
def whoDebug : Who := ⟨.debug, 0xFF⟩
def whoOwner : Who := ⟨.owner, 0xFF⟩

/-- REG: the oldest delivered register frame is answered by the management agent. A response that arrives asks for nothing. -/
def execReg (s : State) : Out :=
  match takeInbox s (fun f => f.typ == 0x02) with
  | none => .next s
  | some (f, s1) =>
    if f.payload.length ≥ 16 ∧ (fieldN f.payload 4 1 = 0x81 ∨ fieldN f.payload 4 1 = 0x82) then .next s1
    else
      match regRequest s1 whoFabric f.payload with
      | (s2, some r) => .next (sendFrame s2 0x02 0 f.src r)
      | (s2, none) => .next s2

/-! ## SVC messages (R541) -/

/-- A message sent on SVC. -/
def svcSend (s : State) (op tag : Nat) (body : List Byte) : State :=
  { s with svc := s.svc ++ [leBytes 2 op ++ leBytes 2 tag ++ leBytes 4 body.length ++ leBytes 8 0 ++ body] }

/-- SVC REG. -/
def execSvcReg (tag : Nat) (body : List Byte) (s : State) : Out :=
  match regRequest s whoService body with
  | (s1, some r) => .next (svcSend s1 0x0002 tag r)
  | (s1, none) => .next s1

/-- Whether a CMD descriptor is one that is completed with ERR_RESERVED: of a type outside 0x30 to 0x38, with a wait or the signal
in use, with a reserved bit or code, or with a payload that its type does not take. -/
def svcReserved (k : CmdSt) (pay : List Byte) : Bool :=
  let code := cmdCode k
  code < 0x30 || decide (0x38 < code) || (waitsOf k.words 2).length != 0 || (sigOf (at0 k.words 1)).isSome
    || descReserved {} { k with words := (k.words.set 10 0).set 11 0 }
    || decide (65536 < pay.length) || cmdLen k != pay.length
    || (match cmdType code with | some t => lenBad t k && cmdLen k != 0 | none => true)

/-- What an update descriptor with an inline payload does: the state after it, its status and its RESULT. -/
def svcRun (s : State) (k : CmdSt) (pay : List Byte) (v : Nat) (ok : Bool) : State × Nat × Nat :=
  let code := cmdCode k
  if code = 0x30 then updBegin s (cmdTopt k) pay v
  else if code = 0x31 then updChunk s (cmdArg k) pay v ok
  else if code = 0x32 then updAbort s (cmdArg k) v
  else if code = 0x33 then updActivate s (cmdArg k) (cmdTopt k) v
  else if code = 0x34 then updConfirm s
  else if code = 0x35 then updFallback s v
  else if code = 0x36 then updConfig s pay v
  else if code = 0x37 then settingsSave s pay v
  else restart s

/-- SVC CMD: the checks of R442 in their order, then the command; its completion record goes back with the tag. -/
def execSvcCmd (tag : Nat) (desc pay : List Byte) (v : Nat) (ok : Bool) (s : State) : Out :=
  let k : CmdSt := { seq := at0 (wordsOf 16 desc) 14, words := wordsOf 16 desc }
  let t := cmdType (cmdCode k)
  let r : State × Nat × Nat :=
    if desc.length ≠ 64 || svcReserved k pay then (s, stReserved, 0)
    else if inBivouac s then (s, stBivouac, 0)
    else if (match t with | some y => y.len.isSome | none => false) && pay.isEmpty then (s, emptySt, 0)
    else svcRun s k pay v ok
  let x : Cpl := {
    seq := k.seq, tag := at0 k.words 15 % 65536, status := r.2.1, typ := cmdCode k, cflags := 0, ctx := 0x3FF, cgen := 0, pgen := 0,
    part := 0, endFt := s.ft, result := r.2.2, runUs := 0 }
  .next (svcSend r.1 0x0004 tag (cplBytes x false))

/-! ## DBG_ACCESS (R615) -/

/-- What the capture of DBG_ACCESS shifts out: DATA and STATUS of the access before. -/
def dbgCapture (s : State) : State :=
  setTdo (setIr s irAccess) (s.jtag.data * 4294967296 + s.jtag.status * 4)

/-- The answer of an access kept for the next capture. -/
def dbgKeep (s : State) (data code : Nat) : State :=
  { s with jtag := { s.jtag with data := data, status := if code = 0 then 0 else 2 } }

/-- The answer of an access without a grant. -/
def dbgDenied (s : State) : State := { bump s DBG_JTAG_REFUSE_CNT with jtag := { s.jtag with data := 0, status := 3 } }

/-- DBG_ACCESS READ. -/
def execDbgAccessRead (a : Nat) (s : State) : Out :=
  let s1 := dbgCapture s
  if !granted s1 then .next (dbgDenied s1)
  else let r := readCode s1 whoDebug a; .next (dbgKeep r.1 r.1.rdata r.2)

/-- DBG_ACCESS WRITE. -/
def execDbgAccessWrite (a v : Nat) (s : State) : Out :=
  let s1 := dbgCapture s
  if !granted s1 then .next (dbgDenied s1)
  else let r := writeCode s1 whoDebug a v; .next (dbgKeep r.1 0 r.2)

end Sys2Proof.Machine
end

