-- ==== Sys2Proof/Machine/Boot.lean ====
section
/-!
DEFINITION. The start sequence of power-on and of a warm boot, and the power events (spec/17_boot_update.md R525 to R532, R545 to R549,
spec/19_package_power.md R587 to R595, spec/20_electrical.md R610).
-/
namespace Sys2Proof.Machine
open Sys2Proof

/-! ## The voltages of the stores of a start

A start makes stores of its own; the operand `vs` holds the hold-up voltage in mV at each attempt, in order. Beyond its end the bank
reads 0 mV. -/

/-- A start under way: the state, and the voltages of the attempts to come. -/
structure Boot where
  s : State
  vs : List Nat

/-- One store of a record. -/
def bootStore (x : Boot) (ops : List FlashOp) (b : BcrSt) : Boot × Bool :=
  let r := bcrStoreWith x.s (x.vs.headD 0) ops b
  (⟨r.1, x.vs.tail⟩, r.2)

/-- A store of a start: refused, it is tried again, n attempts in all. -/
def tryStore (ops : List FlashOp) (b : BcrSt) : Nat → Boot → Boot × Bool
  | 0, x => (x, false)
  | n + 1, x =>
    match bootStore x ops b with
    | (y, true) => (y, true)
    | (y, false) => tryStore ops b n y

/-- A store of the ROM's: every 10 ms for up to 2 s (R531). -/
def romStore (x : Boot) (b : BcrSt) : Boot × Bool := tryStore [] b 201 x

/-- A store of a record by Drimon: refused, it is tried again later (R552). -/
def drimonStore (x : Boot) (b : BcrSt) : Boot :=
  match bootStore x [] b with
  | (y, true) => y
  | (y, false) => { y with s := addRetry y.s (.bcr b 0) }

/-! ## Choosing a slot (R525, R531) -/

def bootNormal : Nat := 0
def bootTrial : Nat := 1
def bootFallbackBoots : Nat := 2
def bootFallbackReq : Nat := 3
def bootFallbackVerify : Nat := 4
def bootDeferred : Nat := 5

/-- What the ROM decides: the slot (none: RESCUE), the reason, and whether the device is in factory state. -/
structure Choice where
  x : Boot
  slot : Option Nat
  reason : Nat
  fresh : Bool := false

/-- The record of a trial slot given up. -/
def failTrial (b : BcrSt) (x : Nat) : BcrSt := { setSlotSt b x slFailed with next := b.active, trials := 0 }

/-- A failed verification counted. -/
def romFail (x : Boot) : Boot := { x with s := verifyFail x.s }

/-- The last candidate: it verifies, or the device enters RESCUE. -/
def verifyLast (x : Boot) (slot reason : Nat) : Choice :=
  if slotVerifies x.s slot then { x := x, slot := some slot, reason := reason } else { x := romFail x, slot := none, reason := reason }

/-- The second half of choose(): a slot is verified, and the other takes its place where R531 allows it. -/
def verifySlot (x : Boot) (slot reason : Nat) : Choice :=
  let b := x.s.boot.bcr
  if slotVerifies x.s slot then { x := x, slot := some slot, reason := reason }
  else
    let y := romFail x
    if slot ≠ b.active then
      let z := (romStore y (failTrial b slot)).1
      if slotSt b b.active = slConfirmed then verifyLast z b.active bootFallbackVerify
      else { x := z, slot := none, reason := bootFallbackVerify }
    else if slotSt b (otherSlot slot) = slConfirmed then verifyLast y (otherSlot slot) bootFallbackVerify
    else { x := y, slot := none, reason := bootFallbackVerify }

/-- The slot that a trial falls back to: where it is not CONFIRMED, the device returns to RESCUE (R532). -/
def fallTo (x : Boot) (reason : Nat) : Choice :=
  let b := x.s.boot.bcr
  if slotSt b b.active = slConfirmed then verifySlot x b.active reason else { x := x, slot := none, reason := reason }

/-- The factory state: slot A, otherwise slot B. -/
def chooseFactory (x : Boot) : Choice :=
  let y := { x with s := updBoot x.s (fun b => { b with bcr := {} }) }
  if slotVerifies y.s 0 then { x := y, slot := some 0, reason := bootNormal, fresh := true }
  else { verifyLast (romFail y) 1 bootNormal with fresh := true }

/-- choose() of R531. -/
def choose (x0 : Boot) : Choice :=
  match pickBcr x0.s with
  | none => chooseFactory x0
  | some (_, b) =>
    let x := { x0 with s := updBoot x0.s (fun t => { t with bcr := b }) }
    if slotSt b b.next = slTrial then
      if 3 ≤ b.trials then fallTo (romStore x (failTrial b b.next)).1 bootFallbackBoots
      else match romStore x { b with trials := b.trials + 1 } with
        | (y, true) => verifySlot y b.next bootTrial
        | (y, false) => fallTo y bootDeferred
    else verifySlot x b.next bootNormal

/-! ## RESCUE (R532) -/

/-- The pages that have a header, as base addresses. -/
def allPages : List Nat := ((List.range 0xA02).filter (fun n => (pageKind n).isSome)).map (fun n => 4096 * n)

/-- RESCUE: the PCI Express endpoint and the links stay in reset; the update agent runs, and a delivery goes on. -/
def enterRescue (s : State) : State :=
  let s1 := ([pgHif, 0x11000, 0x600000] ++ (List.range 4).map pgPortL).foldl (fun t pg => setUnitState t pg stReset) s
  resumeDelivery (updBoot (setUnitState (setUnitState s1 pgUpd stReady) pgSec stReady) (fun b => { b with
    rescue := true, trial := false }))

/-! ## Stage 3: the image header and Drimon (R526, R565) -/

/-- The bytes of a component in a slot. -/
def slotComp (s : State) (x id : Nat) : List Byte :=
  match (components s x).find? (fun e => e.1 == id) with
  | some e => imgBytes s x e.2.1 e.2.2
  | none => []

/-- INFO of an image's entries in the measurement log. -/
def imgInfo (ver id : Nat) : List Byte := leBytes 4 ver ++ leBytes 4 id

/-- UPD_BOOT_STAT of a start. -/
def bootStat (b : BcrSt) (slot reason : Nat) (warm : Bool) : Nat :=
  reason * 0x100000 + b.trials % 4 * 0x10000 + b2n warm * 128 + b2n (slotSt b slot == slConfirmed) * 64 + slot % 2

/-- The header is taken and Drimon starts. -/
def loadDrimon (s : State) (slot reason : Nat) (warm : Bool) : State :=
  let ver := imgVer s slot
  let s1 := updBoot (resumeDelivery s) (fun b => { b with
    slot := slot, trial := reason == bootTrial, img := ver, setVer := imgNum s slot 0x1A 2, setMin := imgNum s slot 0x1C 2,
    healthFrom := s.ft, hostOk := false, rescue := false,
    digests := (List.range (imgChunks s slot)).map (chunkDigest s slot), comps := components s slot })
  let s2 := wrN s1 UPD_BOOT_STAT (bootStat s1.boot.bcr slot reason warm)
  let s3 := measureObj s2 0x0002 (imgBytes s slot 0x28 64) (imgInfo ver 0)
  measureObj s3 0x0003 (Config.shake256 (slotComp s slot 1) 64) (imgInfo ver 1)

/-! ## Falling back (R545) -/

/-- A trial boot that fails: the slot is given up, the notice is sent, and a warm boot is asked for. -/
def giveUp (x : Boot) : Boot :=
  let y := drimonStore x (fallbackBcr x.s)
  let s1 := irq (notice y.s 0x0204 y.s.boot.bcr.active (leBytes 1 bootFallbackReq)) pgUpd 4
  let s2 := updBoot s1 (fun b => { b with trial := false, warm := some bootFallbackReq })
  { y with s := updPwr s2 (fun p => { p with upNext := none, booting := false }) }

/-! ## Stage 4: memory and the configuration record's settings (R526, R564) -/

/-- The masks in force: those of the design less what the record removes (R62). -/
def loadMasks (s : State) : State :=
  allPages.foldl (fun t pg =>
    let m0 := (resetWord (PAGE_ACCESS pg)).toNat
    let gone (k : Nat) : Nat := s.sec.cfg.masks.foldl (fun n e => if at0 e 0 ≤ pg ∧ pg ≤ at0 e 1 then n ||| at0 e k else n) 0
    let keepOf (m r : Nat) : Nat := (List.range 6).foldl (fun n i => n + b2n (nbit m i && !nbit r i) * 2 ^ i) 0
    wrN t (PAGE_ACCESS pg) (keepOf (nbits m0 13 8) (gone 2) * 256 + keepOf (nbits m0 5 0) (gone 3))) s

/-- The bases of the memory map, and the locks of the fields that the record names. -/
def loadMap (s : State) : State :=
  let c := s.sec.cfg
  let s1 := setFld (setFld s ING_SPILL_BASE 20 0 c.spillBase) ING_SPILL_SIZE 11 0 c.spillSize
  let s2 := setFld (setFld s1 FAB_FO_BASE 8 0 c.fanBase) REC_DUMP_BASE 8 0 c.dumpBase
  if c.mapSet then setFlag (setFlag s2 (PAGE_CTRL (pageOf FAB_FO_BASE)) 2 true) (PAGE_CTRL (pageOf REC_DUMP_BASE)) 2 true else s2

/-- Link ports that the record does not enable (R486). -/
def loadLinks (s : State) : State :=
  (List.range 4).foldl (fun t p => if nbit s.sec.cfg.links p then t else lnkCfgWrite t whoOwner p (putBits (rd t (LNK_CFG p)) 31 31 0)) s

/-- The management contexts (R433). -/
def loadMgmt (s : State) : State :=
  s.sec.cfg.mgmt.foldl (fun t e =>
    let c := at0 e 0 % 1024
    ctxEnable (updCtx t c (fun x => { x with
      func := 0xFF, memBase := at0 e 1, memSize := at0 e 2, ancLo := at0 e 3, ancN := at0 e 4 })) c) s

/-- One entry of REG_INIT: written as OWNER past the lock of an earlier start, and locked where it is an RWL register. -/
def loadReg (s : State) (a v : Nat) : State :=
  let c := PAGE_CTRL (pageOf a)
  let lock := flag s c 2
  let s1 := regWrite (if hasRwl a then setFlag s c 2 false else s) whoOwner 4 a v
  if hasRwl a then setFlag s1 c 2 true else if flag s1 c 2 = lock then s1 else setFlag s1 c 2 lock

/-- The units outside the clusters are READY. -/
def readyPages (s : State) : State :=
  (allPages.filter (fun pg => match pageKind (pg / 4096) with
    | some (.cc, _) | some (.tile, _) | some (.nc, _) => false
    | _ => true)).foldl (fun t pg => if unitState t pg < stReady then setUnitState t pg stReady else t) s

/-- The grade of the record: where it is another one than GLB_GRADE showed, GLB_MODE_LIMIT.TJ_C takes its reset value for that
grade (spec/01_architecture.md R38). -/
def showGrade (s : State) : State :=
  let x := s.sec.cfg.grade == 1
  if x = gradeX s then s else setFld (setFlag s GLB_GRADE 0 x) GLB_MODE_LIMIT 15 8 (tjReset x)

/-- The settings of the record in the registers. -/
def loadRecord (s : State) : State :=
  let s1 := setFlag (showGrade s) HIF_LINK 31 s.sec.cfg.bifur
  let s2 := loadMgmt (loadLinks (loadMap (loadMasks (readyPages s1))))
  s.sec.cfg.regInit.foldl (fun t e => loadReg t e.1 e.2) s2

/-- The whole image copied into the firmware region. -/
def copyImage (s : State) : State :=
  memWrite s (fwRegion s) (imgBytes s s.boot.slot 0 (65536 * imgChunks s s.boot.slot))

/-- The record of the slot that was booted in factory state (R525). -/
def freshBcr (s : State) : BcrSt :=
  let b := setSlotVer (setSlotSt {} s.boot.slot slConfirmed) s.boot.slot s.boot.img
  { b with active := s.boot.slot, next := s.boot.slot }

/-- Stages 4 and 5 up to the first cluster. -/
def stage4 (x0 : Boot) (fresh : Bool) : Boot :=
  let s0 := wrN x0.s GLB_MEMCH_UP 0xFFFFFFFF
  let x := { x0 with s := s0 }
  if (List.range (imgChunks s0 s0.boot.slot)).all (chunkOk s0 s0.boot.slot) then
    let y := { x with s := loadRecord (copyImage s0) }
    let z := if fresh then drimonStore y (freshBcr y.s) else y
    let s1 := if fresh then setFlag z.s UPD_BOOT_STAT 6 true else z.s
    { z with s := updPwr (wrN s1 GLB_CLUSTER_UP 0) (fun p => { p with upNext := some (0, s1.ft), booting := true }) }
  else if s0.boot.trial then giveUp { x with s := verifyFail s0 }
  else { x with s := enterRescue (verifyFail s0) }

/-! ## The start sequence (R526) -/

/-- V_R as it is found at boot, within its range (R582). -/
def bootVr (vr : Nat) : Nat := max 690 (min 750 vr)

/-- Stages 1 to 5: the record is chosen and verified, then the slot, and Drimon brings up memory. -/
def startFrom (s0 : State) (uid vr : Nat) (vs : List Nat) (warm : Bool) (asked : Nat) : State :=
  let s1 := (List.range (badCopies s0 uid)).foldl (fun t _ => verifyFail t) (clearLog s0)
  let s2 := setFld (updPwr s1 (fun p => { p with above := fld s1 GLB_VCORE_BASE 15 0 + s1.pwr.above - bootVr vr })) GLB_VCORE_BASE 15 0
    (bootVr vr)
  match pickRecord s2 uid with
  | none => enterRescue s2
  | some c =>
    let s3 := measureObj (showRecord s2 c) 0x0001 (Config.shake256 ((recBytes s2 c.copy).take 0xFEC0) 64) []
    let ch := choose ⟨if warm then s3 else newChallenge s3, vs⟩
    match ch.slot with
    | none => enterRescue ch.x.s
    | some slot =>
      let b := ch.x.s.boot.bcr
      if asked = bootFallbackReq ∧ !ch.fresh ∧ slotSt b slot ≠ slConfirmed ∧ slotSt b slot ≠ slTrial then enterRescue ch.x.s else
      let reason := if asked = bootFallbackReq ∧ ch.reason = bootNormal then bootFallbackReq else ch.reason
      (stage4 { ch.x with s := loadDrimon ch.x.s slot reason warm } ch.fresh).s

/-- POWER_ON_BOOT: the device seed as it was reconstructed, the bits that were corrected, V_R, the rates and widths of the PCI Express
links (HIF_LINK[30:15]), and the voltages. The warden leaves reset and FL_RESET_N rises 100 µs after POR_N (R586). More than 1,400 flipped bits are not corrected (R557). -/
def execPowerOnBoot (now : Nat) (seed0 : Option (List Byte)) (corrected vr link : Nat) (vs : List Nat) (s0 : State) : Out :=
  let s := advance s0 now
  let seed := seed0.filter (fun _ => decide (corrected ≤ 1400))
  if decide (100000 ≤ s.ft) && s.pwr.booting && s.pwr.upNext.isNone && !s.boot.up && !s.boot.rescue && !s.pwr.down && s.boot.warm.isNone && !s.pwr.trip then
    let s1 := setFld (showIdentity (updPwr s (fun p => { p with flRst := false })) seed corrected) HIF_LINK 30 15 link
    .next (startFrom (setUnitState s1 pgSec stReady) (startUid s seed) vr vs false bootNormal)
  else .next s

/-! ## The end of a start: helpers, settings, RIDGE (R526 stages 5 to 7) -/

/-- The controllers as the helpers are loaded: at a start no reload counts (R422). -/
def loadCtl (ok : Bool) (s : State) (c : Nat) : State :=
  if ok then wrN (setFld s (CC_FW_GEN c) 7 0 (fld s (CC_FW_GEN c) 7 0 + 1)) (CC_FW_VER c) s.boot.img
  else setUnitState (recErr (healthErr s) (ccPage c) 0x0101 0) (ccPage c) stError

/-- The helper components measured at their first load. -/
def measureHelpers (s : State) : State :=
  (s.boot.comps.filter (fun e => decide (2 ≤ e.1))).foldl (fun t e =>
    if helperOk t e.1 then measureObj t 0x0004 (Config.shake256 (memRead t (fwRegion t + e.2.1) e.2.2) 64) (imgInfo t.boot.img e.1)
    else healthErr t) s

/-- Whether every helper of the image loads. -/
def helpersOk (s : State) : Bool := helperOk s 0x02 && s.boot.comps.all (fun e => decide (e.1 < 2) || helperOk s e.1)

/-- The settings that a trial starts with: the ACTIVE slot's, converted (R548). None where the conversion fails. -/
def migrated (s : State) : Option (Option (List Byte)) :=
  match bankRead s (slotBank s.boot.bcr s.boot.bcr.active) with
  | none => some none
  | some (schema, es) =>
    if s.boot.setMin ≤ schema ∧ schema ≤ s.boot.setVer then
      (if schema = s.boot.setVer then some (some es) else (Config.migrate schema s.boot.setVer es).map some)
    else some none

/-- The record after the first start of a trial. -/
def migratedBcr (s : State) : BcrSt :=
  let b := s.boot.bcr
  let a := slotBank b b.active
  { setSlotBank b s.boot.slot (if a = 0 then 1 else 0) with orig := a }

/-- The migration of the first start of a trial; false where it fails. A refused store is tried again every 100 ms for up to 10 s
(R552). -/
def migrateStep (x : Boot) : Boot × Bool :=
  let s := x.s
  if s.boot.trial && slotBank s.boot.bcr s.boot.slot == 255 then
    match migrated s with
    | none => ({ x with s := healthErr s }, false)
    | some m =>
      let b := migratedBcr s
      let k := slotBank b s.boot.slot
      let put := match m with
        | some es => bankOps k (setRecord s.boot.setVer (bankSeq s b.orig) es)
        | none => []
      ((tryStore put b 101 x).1, true)
  else (x, true)

/-- One entry of a settings record. -/
def applySetting (s : State) (a v : Nat) : State :=
  if a % 4 ≠ 0 ∨ 0x1000000 ≤ a then bump s UPD_SET_SKIP_CNT
  else
    let s1 := regWrite s whoOwner 4 a v
    if checkAcc s whoOwner true 4 a = .ok then s1 else bump s1 UPD_SET_SKIP_CNT

/-- Stage 6: the running slot's settings (R547). -/
def applySettings (s : State) : State :=
  match bankRead s (slotBank s.boot.bcr s.boot.slot) with
  | some (schema, es) =>
    if schema = s.boot.setVer then
      (List.range (es.length / 8)).foldl (fun t i => applySetting t (fieldN es (8 * i) 4) (fieldN es (8 * i + 4) 4)) s
    else setFlag s UPD_BOOT_STAT 8 true
  | none => setFlag s UPD_BOOT_STAT 8 true

/-- The bank kept for a fallback is released where no trial is open any more. -/
def releaseOrig (x : Boot) : Boot :=
  let b := x.s.boot.bcr
  if b.orig ≠ 255 ∧ !anyTrial b ∧ !x.s.boot.trial then drimonStore x { b with orig := 255 } else x

/-- RIDGE is entered. A device that ran in another mode enters it at a cairn of its own. -/
def bootRidge (s : State) : State :=
  let old := mode s
  let s1 := setFlag (updPwr s (fun p => { p with auto := none, pause := none, watch := [] })) GLB_MODE_STAT 3 false
  if old = modeRidge then s1
  else
    let s2 := setFld (setFld s1 GLB_MODE_STAT 2 0 modeRidge) GLB_MODE_STAT 31 16 (fld s1 GLB_MODE_STAT 31 16 + 1)
    let s3 := insertCairn (addLog s2 .mode old modeRidge 0) rsnMode
    let s4 := takeSetting s3 (settingFor s3 modeRidge) rsMode
    if old = modeBivouac then motBivouac (fusBivouacExit s4 (lastCairnFt s4)) false else s4

/-- The reason and the count of this start. -/
def bootReason (s : State) : Nat := fld s UPD_BOOT_STAT 23 20

/-- Stage 7. -/
def stage7 (s : State) : State :=
  let s1 := bootRidge s
  let s2 := if s1.cairns.isEmpty then insertCairn s1 rsnPeriodic else s1
  let r := bootReason s2
  let s3 := if r = bootFallbackBoots ∨ r = bootFallbackVerify then
      irq (notice s2 0x0204 s2.boot.slot (leBytes 1 r)) pgUpd 4 else s2
  let s4 := notice s3 0x0200 s3.boot.slot (leBytes 4 s3.boot.img ++ leBytes 1 r ++ leBytes 1 (fld s3 UPD_BOOT_STAT 17 16))
  retarget (updPwr (updBoot s4 (fun b => { b with up := true })) (fun p => { p with booting := false }))

/-- The end of a start, when the last cluster is up. -/
def finishBoot (s0 : State) (vs : List Nat) : State :=
  let ok := helperOk s0 0x02
  let s1 := measureHelpers ((List.range 16).foldl (loadCtl ok) s0)
  let x : Boot := ⟨s1, vs⟩
  if s1.boot.trial && !helpersOk s1 then (giveUp { x with s := healthErr s1 }).s
  else
    match migrateStep x with
    | (y, false) => (giveUp y).s
    | (y, true) => stage7 (releaseOrig { y with s := applySettings y.s }).s

/-- CLUSTER_POWER_UP: the next cluster of the sequence is up; at a start the last one lets the start end. `vs` holds the voltages of
the stores that the end of a start makes. -/
def execClusterPowerUp (now : Nat) (vs : List Nat) (s0 : State) : Out :=
  let s := advance s0 now
  match s.pwr.upNext with
  | none => .next s
  | some (c, t) =>
    if s.ft < t + 10000 then .next s
    else
      let s1 := nextCluster s c t
      if 15 ≤ c ∧ s.pwr.booting then .next (finishBoot s1 vs) else .next s1

/-! ## Warm boots (R528, R529) -/

/-- Whether a type code is one that leads to a warm boot. -/
def leadsToBoot (ty : Nat) : Bool := ty == 0x33 || ty == 0x35 || ty == 0x38

/-- Whether a command that asked for the warm boot still owes its record (R553). -/
def bootCmdOpen (s : State) : Bool :=
  s.ctxs.any (fun e =>
    e.2.cmds.any (fun k => k.started && !k.orphan && k.status == some okSt && leadsToBoot (cmdCode k)
      && (cmdCode k != 0x33 || nbit (cmdTopt k) 0))
    || e.2.held.any (fun h => h.1.status == okSt && leadsToBoot h.1.typ))

/-- A context after a warm boot: DISABLED, its generation advanced, its commands gone. -/
def warmCtx (s : State) (c : Nat) : State := updCtx (flrCtx s c) c (fun x => { x with cmds := [], resetting := false, error := false })

/-- The compute as after an E4 step, without a dump; the ladder returns to idle. -/
def warmReset (s : State) : State :=
  let s1 := (List.range 8).foldl resetPart (setFld s LNK_GEN 7 0 (fld s LNK_GEN 7 0 + 1))
  let s2 := (List.range 128).foldl resetTile s1
  let s3 := (List.range 512).foldl resetCore s2
  let s4 := (List.range 16).foldl resetCtl s3
  let s5 := (List.range 1024).foldl warmCtx s4
  let s6 := { s5 with accepted := [], binder := [], triggers := [] }
  let s7 := updLad (setPhase (setFld s6 REC_STATE 2 0 0) phIdle) (fun l => { l with
    cur := none, halted := false, stopped := none, rejoins := [], ghosts := [], late := [], heldCmds := [], served := [], wdt := s.ft, wdtOut := false })
  let s8 := setFlag (clearQuote s7) SEC_STATUS 1 false
  updBoot s8 (fun b => { b with up := false, bufs := [], warm := none, rescue := false })

/-- WARM_BOOT: a warm boot that was asked for begins, when no store is in progress and the command that asked for it has its record.
`vr` and `vs` are those of POWER_ON_BOOT. -/
def execWarmBoot (now vr : Nat) (vs : List Nat) (s0 : State) : Out :=
  let s := advance s0 now
  match s.boot.warm with
  | none => .next s
  | some r =>
    if bootCmdOpen s || !s.boot.retries.isEmpty || s.pwr.down || s.pwr.trip then .next s
    else
      let s1 := if r = bootFallbackReq ∧ s.boot.up then irq (notice s 0x0204 s.boot.bcr.active (leBytes 1 r)) pgUpd 4 else s
      .next (startFrom (warmReset s1) (uid s1) vr vs true r)

/-! ## Power events (R587, R589, R595, R610) -/

/-- The device in power-on reset: flash and host memory keep their contents, and what is free stays so. -/
def powerReset (s : State) : State :=
  { State.reset with
    pending := s.pending, flash := s.flash, hostMem := s.hostMem, free := s.free
    boot := { State.reset.boot with logNext := s.boot.logNext } }

/-- POWER_ON_RESET: a fall of PWR_OK or POR_N of 1 µs or more; a shorter one is ignored. `ns` is its length. -/
def execPowerOnReset (ns : Nat) (s : State) : Out := if ns < 1000 then .next s else .next (powerReset s)

/-- POWER_DOWN: PWR_OK falls and stays low. -/
def execPowerDown (s : State) : Out := .next (updPwr (powerReset s) (fun p => { p with down := true }))

/-- THERMTRIP: a sample at or above 118 °C (in 1/16 °C). THERMTRIP_N goes low, not before POR_N has risen (R586), and the compute is held
in reset until power-on reset. -/
def execThermtrip (now : Nat) (temps : List Nat) (s0 : State) : Out :=
  let s := takeTemps (advance s0 now) temps
  if temps.length = 20 ∧ 16 * 118 ≤ hottest temps ∧ !s.pwr.trip ∧ !s.pwr.down then
    .next (setPhase (updPwr (halt s) (fun p => { p with trip := true, upNext := none })) phHalted)
  else .next s

end Sys2Proof.Machine
end

