-- ==== Sys2Proof/Machine/Dispatch.lean ====
section
/-!
DEFINITION. One arm per command: a direct call of its meaning.
-/
namespace Sys2Proof.Machine
open Sys2Proof

/-- A command's effect on everything but the queue. -/
def exec (i : Instr) (s : State) : Host.Outcome State Fault Refusal :=
  match i with
  | .registerWrite w size a v => Sys2Proof.Machine.execRegisterWrite w size a v s
  | .unmappedAccess w isWr a => Sys2Proof.Machine.execUnmappedAccess w isWr a s
  | .errTimeout w isWr a => Sys2Proof.Machine.execErrTimeout w isWr a s
  | .counterReadClear w size a => Sys2Proof.Machine.execCounterReadClear w size a s
  | .latchingRead w size a => Sys2Proof.Machine.execLatchingRead w size a s
  | .irqStatClear w pg v => Sys2Proof.Machine.execIrqStatClear w pg v s
  | .errClr w pg en => Sys2Proof.Machine.execErrClr w pg en s
  | .lock w pg en => Sys2Proof.Machine.execLock w pg en s
  | .srst w pg en => Sys2Proof.Machine.execSrst w pg en s
  | .pageEnable w pg => Sys2Proof.Machine.execPageEnable w pg s
  | .pageDisable w pg => Sys2Proof.Machine.execPageDisable w pg s
  | .disableOnIdle pg => Sys2Proof.Machine.execDisableOnIdle pg s
  | .bar4Write w off bs => Sys2Proof.Machine.execBar4Write w off bs s
  | .bar4Read w off n => Sys2Proof.Machine.execBar4Read w off n s
  | .goRd w inc => Sys2Proof.Machine.execGoRd w inc s
  | .goWr w inc => Sys2Proof.Machine.execGoWr w inc s
  | .iwOperationDone w => Sys2Proof.Machine.execIwOperationDone w s
  | .modeReq w v => Sys2Proof.Machine.execModeReq w v s
  | .modeChangeCairn now => Sys2Proof.Machine.execModeChangeCairn now s
  | .coreClockPauseEnd now => Sys2Proof.Machine.execCoreClockPauseEnd now s
  | .clusterPowerUp now vs => Sys2Proof.Machine.execClusterPowerUp now vs s
  | .summitLimitEval now rails => Sys2Proof.Machine.execSummitLimitEval now rails s
  | .belayThermalLimit now temps => Sys2Proof.Machine.execBelayThermalLimit now temps s
  | .periodicCairn now => Sys2Proof.Machine.execPeriodicCairn now s
  | .packetReceive p e => Sys2Proof.Machine.execPacketReceive p e s
  | .spillRefill p => Sys2Proof.Machine.execSpillRefill p s
  | .pad p => Sys2Proof.Machine.execPad p s
  | .timeBase p => Sys2Proof.Machine.execTimeBase p s
  | .timeDelta p => Sys2Proof.Machine.execTimeDelta p s
  | .row p => Sys2Proof.Machine.execRow p s
  | .run p => Sys2Proof.Machine.execRun p s
  | .mask p => Sys2Proof.Machine.execMask p s
  | .trigger p => Sys2Proof.Machine.execTrigger p s
  | .sensorStatus p => Sys2Proof.Machine.execSensorStatus p s
  | .extended p => Sys2Proof.Machine.execExtended p s
  | .vesReject p => Sys2Proof.Machine.execVesReject p s
  | .timeHigh p => Sys2Proof.Machine.execTimeHigh p s
  | .tkEvent p => Sys2Proof.Machine.execTkEvent p s
  | .daaRound b n => Sys2Proof.Machine.execDaaRound b n s
  | .hotJoin b => Sys2Proof.Machine.execHotJoin b s
  | .descriptorRead b addr d => Sys2Proof.Machine.execDescriptorRead b addr d s
  | .getstatusPoll b k ack now => Sys2Proof.Machine.execGetstatusPoll b k ack now s
  | .noStream p now => Sys2Proof.Machine.execNoStream p now s
  | .linkTimeout p now => Sys2Proof.Machine.execLinkTimeout p now s
  | .hjEnWrite w b n v => Sys2Proof.Machine.execHjEnWrite w b n v s
  | .i3cXferGo w b v => Sys2Proof.Machine.execI3cXferGo w b v s
  | .i3cXferDone b x => Sys2Proof.Machine.execI3cXferDone b x s
  | .legacyWrite w p v => Sys2Proof.Machine.execLegacyWrite w p v s
  | .portLegResWrite w p v => Sys2Proof.Machine.execPortLegResWrite w p v s
  | .tkOffsetHiWrite w p v => Sys2Proof.Machine.execTkOffsetHiWrite w p v s
  | .legacyWindowAccess w isWr size off v => Sys2Proof.Machine.execLegacyWindowAccess w isWr size off v s
  | .ptpSync n m origin corr rx => Sys2Proof.Machine.execPtpSync n m origin corr rx s
  | .ptpAnnounce n m rank interval now => Sys2Proof.Machine.execPtpAnnounce n m rank interval now s
  | .announceTimeout n now => Sys2Proof.Machine.execAnnounceTimeout n now s
  | .ptpExchange n x => Sys2Proof.Machine.execPtpExchange n x s
  | .ppsInEdge t high => Sys2Proof.Machine.execPpsInEdge t high s
  | .ppsLoss now => Sys2Proof.Machine.execPpsLoss now s
  | .ppsOutRise now => Sys2Proof.Machine.execPpsOutRise now s
  | .ppsOutFall now => Sys2Proof.Machine.execPpsOutFall now s
  | .refLost => Sys2Proof.Machine.execRefLost s
  | .refBack => Sys2Proof.Machine.execRefBack s
  | .timeCtrlWrite w v => Sys2Proof.Machine.execTimeCtrlWrite w v s
  | .conversionGo w v => Sys2Proof.Machine.execConversionGo w v s
  | .conversionDone w => Sys2Proof.Machine.execConversionDone w s
  | .encoderEdge e t smp full => Sys2Proof.Machine.execEncoderEdge e t smp full s
  | .encoderIndex e t smp full => Sys2Proof.Machine.execEncoderIndex e t smp full s
  | .imuDrdy p t smp full => Sys2Proof.Machine.execImuDrdy p t smp full s
  | .imuTimerTrigger p now => Sys2Proof.Machine.execImuTimerTrigger p now s
  | .imuTransactionDone p d now => Sys2Proof.Machine.execImuTransactionDone p d now s
  | .chainInput c full => Sys2Proof.Machine.execChainInput c full s
  | .noInput c now => Sys2Proof.Machine.execNoInput c now s
  | .fusionIssue k now => Sys2Proof.Machine.execFusionIssue k now s
  | .belayWait b now => Sys2Proof.Machine.execBelayWait b now s
  | .lateSample b n now => Sys2Proof.Machine.execLateSample b n now s
  | .eventRelease p => Sys2Proof.Machine.execEventRelease p s
  | .portWatermark p => Sys2Proof.Machine.execPortWatermark p s
  | .gridCommit w p v => Sys2Proof.Machine.execGridCommit w p v s
  | .gridPendClear p => Sys2Proof.Machine.execGridPendClear p s
  | .refinementCycle now ovl => Sys2Proof.Machine.execRefinementCycle now ovl s
  | .markMeasurement p u v x y tainted => Sys2Proof.Machine.execMarkMeasurement p u v x y tainted s
  | .barEnable w b v => Sys2Proof.Machine.execBarEnable w b v s
  | .barDisable w b v => Sys2Proof.Machine.execBarDisable w b v s
  | .spikeFanout c => Sys2Proof.Machine.execSpikeFanout c s
  | .sbWordApply t k => Sys2Proof.Machine.execSbWordApply t k s
  | .sbWindowClose t k now => Sys2Proof.Machine.execSbWindowClose t k now s
  | .sbCloseTimeout t k now => Sys2Proof.Machine.execSbCloseTimeout t k now s
  | .sbBankPrepare t k now => Sys2Proof.Machine.execSbBankPrepare t k now s
  | .sbStall t k now => Sys2Proof.Machine.execSbStall t k now s
  | .sbSlotEnable w t k v => Sys2Proof.Machine.execSbSlotEnable w t k v s
  | .fabRgnWr w v => Sys2Proof.Machine.execFabRgnWr w v s
  | .fabRgnRd w v => Sys2Proof.Machine.execFabRgnRd w v s
  | .ncWordApply n => Sys2Proof.Machine.execNcWordApply n s
  | .ncStepClose n now => Sys2Proof.Machine.execNcStepClose n now s
  | .ncDueTime n now => Sys2Proof.Machine.execNcDueTime n now s
  | .uopNop n f => Sys2Proof.Machine.execUopNop n f s
  | .add n f => Sys2Proof.Machine.execAdd n f s
  | .sub n f => Sys2Proof.Machine.execSub n f s
  | .mulc n f => Sys2Proof.Machine.execMulc n f s
  | .mac n f => Sys2Proof.Machine.execMac n f s
  | .shr n f => Sys2Proof.Machine.execShr n f s
  | .clamp n f => Sys2Proof.Machine.execClamp n f s
  | .decay n f => Sys2Proof.Machine.execDecay n f s
  | .cmpth n f => Sys2Proof.Machine.execCmpth n f s
  | .uopReset n f => Sys2Proof.Machine.execUopReset n f s
  | .refrac n f => Sys2Proof.Machine.execRefrac n f s
  | .select n f => Sys2Proof.Machine.execSelect n f s
  | .skip n f => Sys2Proof.Machine.execSkip n f s
  | .tileCmdStart t q feed layer now => Sys2Proof.Machine.execTileCmdStart t q feed layer now s
  | .tileCmdComplete t q late now => Sys2Proof.Machine.execTileCmdComplete t q late now s
  | .conv t lo hi => Sys2Proof.Machine.execConv t lo hi s
  | .poolMax t lo hi => Sys2Proof.Machine.execPoolMax t lo hi s
  | .poolAvg t lo hi => Sys2Proof.Machine.execPoolAvg t lo hi s
  | .upNearest t lo hi => Sys2Proof.Machine.execUpNearest t lo hi s
  | .upBilinear t lo hi => Sys2Proof.Machine.execUpBilinear t lo hi s
  | .vuAdd t => Sys2Proof.Machine.execVuAdd t s
  | .vuSub t => Sys2Proof.Machine.execVuSub t s
  | .vuMul t => Sys2Proof.Machine.execVuMul t s
  | .vuFma t => Sys2Proof.Machine.execVuFma t s
  | .vuMin t => Sys2Proof.Machine.execVuMin t s
  | .vuMax t => Sys2Proof.Machine.execVuMax t s
  | .vuAbs t => Sys2Proof.Machine.execVuAbs t s
  | .vuNeg t => Sys2Proof.Machine.execVuNeg t s
  | .vuCmp t => Sys2Proof.Machine.execVuCmp t s
  | .vuSelect t => Sys2Proof.Machine.execVuSelect t s
  | .vuRelu t => Sys2Proof.Machine.execVuRelu t s
  | .vuLeaky t => Sys2Proof.Machine.execVuLeaky t s
  | .vuClamp t => Sys2Proof.Machine.execVuClamp t s
  | .lutfn t => Sys2Proof.Machine.execLutfn t s
  | .cvt t => Sys2Proof.Machine.execCvt t s
  | .requant t => Sys2Proof.Machine.execRequant t s
  | .vuSum t => Sys2Proof.Machine.execVuSum t s
  | .vuReduceMax t => Sys2Proof.Machine.execVuReduceMax t s
  | .vuReduceMin t => Sys2Proof.Machine.execVuReduceMin t s
  | .argmax t => Sys2Proof.Machine.execArgmax t s
  | .stashTransfer t => Sys2Proof.Machine.execStashTransfer t s
  | .stashDone t late now => Sys2Proof.Machine.execStashDone t late now s
  | .sramScrub c before after now => Sys2Proof.Machine.execSramScrub c before after now s
  | .retentionVerify u flips => Sys2Proof.Machine.execRetentionVerify u flips s
  | .signal w n inc => Sys2Proof.Machine.execSignal w n inc s
  | .ancReset w n => Sys2Proof.Machine.execAncReset w n s
  | .fault w n => Sys2Proof.Machine.execFault w n s
  | .ownerWrite w n v => Sys2Proof.Machine.execOwnerWrite w n v s
  | .leanPolicyTick now beats tts ncs => Sys2Proof.Machine.execLeanPolicyTick now beats tts ncs s
  | .sampleCompare now diff => Sys2Proof.Machine.execSampleCompare now diff s
  | .leanChange now => Sys2Proof.Machine.execLeanChange now s
  | .checkerCfgWrite w v => Sys2Proof.Machine.execCheckerCfgWrite w v s
  | .cheapResult t n m v now => Sys2Proof.Machine.execCheapResult t n m v now s
  | .exactResult t n v now => Sys2Proof.Machine.execExactResult t n v now s
  | .verdictResult t v now => Sys2Proof.Machine.execVerdictResult t v now s
  | .verdictDeadline now => Sys2Proof.Machine.execVerdictDeadline now s
  | .sheetStart now => Sys2Proof.Machine.execSheetStart now s
  | .correctionResult u j v now => Sys2Proof.Machine.execCorrectionResult u j v now s
  | .held u now => Sys2Proof.Machine.execHeld u now s
  | .detection t stamp cls x y now => Sys2Proof.Machine.execDetection t stamp cls x y now s
  | .recordDeliver n now => Sys2Proof.Machine.execRecordDeliver n now s
  | .outStrTailWrite w n v => Sys2Proof.Machine.execOutStrTailWrite w n v s
  | .ringIrq n now => Sys2Proof.Machine.execRingIrq n now s
  | .datagramSend n now => Sys2Proof.Machine.execDatagramSend n now s
  | .bind c q host plan ok => Sys2Proof.Machine.execBind c q host plan ok s
  | .bindActivate h now => Sys2Proof.Machine.execBindActivate h now s
  | .unbind c q => Sys2Proof.Machine.execUnbind c q s
  | .unbindRelease h now => Sys2Proof.Machine.execUnbindRelease h now s
  | .rebind c q host => Sys2Proof.Machine.execRebind c q host s
  | .partCfg c q host => Sys2Proof.Machine.execPartCfg c q host s
  | .ccReload c q => Sys2Proof.Machine.execCcReload c q s
  | .query c q ok => Sys2Proof.Machine.execQuery c q ok s
  | .heartbeat now => Sys2Proof.Machine.execHeartbeat now s
  | .descriptorSubmit fn off bs => Sys2Proof.Machine.execDescriptorSubmit fn off bs s
  | .commandStart c now => Sys2Proof.Machine.execCommandStart c now s
  | .commandEnd c q ok now => Sys2Proof.Machine.execCommandEnd c q ok now s
  | .nop c q => Sys2Proof.Machine.execNop c q s
  | .copy c q data => Sys2Proof.Machine.execCopy c q data s
  | .fill c q => Sys2Proof.Machine.execFill c q s
  | .stamp c q ok => Sys2Proof.Machine.execStamp c q ok s
  | .budgetExpiry r now => Sys2Proof.Machine.execBudgetExpiry r now s
  | .cqEnable fn off v => Sys2Proof.Machine.execCqEnable fn off v s
  | .cqHeadWrite fn off v => Sys2Proof.Machine.execCqHeadWrite fn off v s
  | .contextEnable w v => Sys2Proof.Machine.execContextEnable w v s
  | .hifWAbort fn off v => Sys2Proof.Machine.execHifWAbort fn off v s
  | .flr f => Sys2Proof.Machine.execFlr f s
  | .busMasterDisable f => Sys2Proof.Machine.execBusMasterDisable f s
  | .sriovDisable => Sys2Proof.Machine.execSriovDisable s
  | .linkHotReset link => Sys2Proof.Machine.execLinkHotReset link s
  | .vectorUnmask f v => Sys2Proof.Machine.execVectorUnmask f v s
  | .linkSignalDetect p now => Sys2Proof.Machine.execLinkSignalDetect p now s
  | .linkTrained p lanes now => Sys2Proof.Machine.execLinkTrained p lanes now s
  | .linkTrainTimeout p now => Sys2Proof.Machine.execLinkTrainTimeout p now s
  | .linkFaultRetry p now => Sys2Proof.Machine.execLinkFaultRetry p now s
  | .linkDown p why now => Sys2Proof.Machine.execLinkDown p why now s
  | .failback p now => Sys2Proof.Machine.execFailback p now s
  | .fecUncorrectable p => Sys2Proof.Machine.execFecUncorrectable p s
  | .nak p n now => Sys2Proof.Machine.execNak p n now s
  | .helloSend p now => Sys2Proof.Machine.execHelloSend p now s
  | .hello p f now => Sys2Proof.Machine.execHello p f now s
  | .peerSilent p now => Sys2Proof.Machine.execPeerSilent p now s
  | .frameRoute x now => Sys2Proof.Machine.execFrameRoute x now s
  | .reg => Sys2Proof.Machine.execReg s
  | .cmd => Sys2Proof.Machine.execCmd s
  | .bulkWrite => Sys2Proof.Machine.execBulkWrite s
  | .bulkRead => Sys2Proof.Machine.execBulkRead s
  | .stream now => Sys2Proof.Machine.execStream now s
  | .relayTxHeadWrite w v slots => Sys2Proof.Machine.execRelayTxHeadWrite w v slots s
  | .relayIrq now => Sys2Proof.Machine.execRelayIrq now s
  | .e1Step x now => Sys2Proof.Machine.execE1Step x now s
  | .e2Step x now => Sys2Proof.Machine.execE2Step x now s
  | .e3Step x now => Sys2Proof.Machine.execE3Step x now s
  | .e4Step x now => Sys2Proof.Machine.execE4Step x now s
  | .e5Step x now => Sys2Proof.Machine.execE5Step x now s
  | .stepTimeout now => Sys2Proof.Machine.execStepTimeout now s
  | .pwrcycHoldExpiry now => Sys2Proof.Machine.execPwrcycHoldExpiry now s
  | .unitRejoin u now => Sys2Proof.Machine.execUnitRejoin u now s
  | .unitError n => Sys2Proof.Machine.execUnitError n s
  | .recHeartbeat now => Sys2Proof.Machine.execRecHeartbeat now s
  | .wardenWdt v now => Sys2Proof.Machine.execWardenWdt v now s
  | .helperWdt h now => Sys2Proof.Machine.execHelperWdt h now s
  | .reset c q => Sys2Proof.Machine.execReset c q s
  | .dumpCopy c q ok => Sys2Proof.Machine.execDumpCopy c q ok s
  | .dumpRelease c q => Sys2Proof.Machine.execDumpRelease c q s
  | .rejoin c q => Sys2Proof.Machine.execRejoin c q s
  | .powerOnBoot now seed0 corrected vr link vs => Sys2Proof.Machine.execPowerOnBoot now seed0 corrected vr link vs s
  | .warmBoot now vr vs => Sys2Proof.Machine.execWarmBoot now vr vs s
  | .updBegin c q host v => Sys2Proof.Machine.execUpdBegin c q host v s
  | .updChunk c q host v ok => Sys2Proof.Machine.execUpdChunk c q host v ok s
  | .updAbort c q v => Sys2Proof.Machine.execUpdAbort c q v s
  | .updActivate c q v => Sys2Proof.Machine.execUpdActivate c q v s
  | .updConfirm c q => Sys2Proof.Machine.execUpdConfirm c q s
  | .updFallback c q v => Sys2Proof.Machine.execUpdFallback c q v s
  | .updConfig c q host v => Sys2Proof.Machine.execUpdConfig c q host v s
  | .settingsSave c q host v => Sys2Proof.Machine.execSettingsSave c q host v s
  | .restart c q => Sys2Proof.Machine.execRestart c q s
  | .chunk v ok now => Sys2Proof.Machine.execChunk v ok now s
  | .healthConfirm v now => Sys2Proof.Machine.execHealthConfirm v now s
  | .storeRetry v ok now => Sys2Proof.Machine.execStoreRetry v ok now s
  | .svcReg tag body => Sys2Proof.Machine.execSvcReg tag body s
  | .svcCmd tag desc pay v ok => Sys2Proof.Machine.execSvcCmd tag desc pay v ok s
  | .flashReadGo w v => Sys2Proof.Machine.execFlashReadGo w v s
  | .quoteGo w v => Sys2Proof.Machine.execQuoteGo w v s
  | .quoteDone now => Sys2Proof.Machine.execQuoteDone now s
  | .secQDataRead w => Sys2Proof.Machine.execSecQDataRead w s
  | .dbgUnlock bs => Sys2Proof.Machine.execDbgUnlock bs s
  | .tokenVerified now => Sys2Proof.Machine.execTokenVerified now s
  | .revoke w v => Sys2Proof.Machine.execRevoke w v s
  | .debugExpiry now => Sys2Proof.Machine.execDebugExpiry now s
  | .powerOnReset ns => Sys2Proof.Machine.execPowerOnReset ns s
  | .powerDown => Sys2Proof.Machine.execPowerDown s
  | .avsTrim now level => Sys2Proof.Machine.execAvsTrim now level s
  | .railSettled now mv => Sys2Proof.Machine.execRailSettled now mv s
  | .errAvsTimeout now => Sys2Proof.Machine.execErrAvsTimeout now s
  | .avsNoAnswer now => Sys2Proof.Machine.execAvsNoAnswer now s
  | .thermtrip now temps => Sys2Proof.Machine.execThermtrip now temps s
  | .testLogicReset => Sys2Proof.Machine.execTestLogicReset s
  | .extest pins shift => Sys2Proof.Machine.execExtest pins shift s
  | .samplePreload pins shift => Sys2Proof.Machine.execSamplePreload pins shift s
  | .idcode => Sys2Proof.Machine.execIdcode s
  | .jtagClamp => Sys2Proof.Machine.execJtagClamp s
  | .highz => Sys2Proof.Machine.execHighz s
  | .extestPulse pins shift => Sys2Proof.Machine.execExtestPulse pins shift s
  | .extestTrain pins shift => Sys2Proof.Machine.execExtestTrain pins shift s
  | .dbgStatus => Sys2Proof.Machine.execDbgStatus s
  | .dbgChal => Sys2Proof.Machine.execDbgChal s
  | .bypass => Sys2Proof.Machine.execBypass s
  | .dbgAccessRead a => Sys2Proof.Machine.execDbgAccessRead a s
  | .dbgAccessWrite a v => Sys2Proof.Machine.execDbgAccessWrite a v s
  | .tmuxSelWrite w n v => Sys2Proof.Machine.execTmuxSelWrite w n v s
  | .pmcSelWrite w k v => Sys2Proof.Machine.execPmcSelWrite w k v s
  | .dbgSnap w v => Sys2Proof.Machine.execDbgSnap w v s
  | .slewComplete now => Sys2Proof.Machine.execSlewComplete now s
  | .tileSleep t sleep => Sys2Proof.Machine.execTileSleep t sleep s
  | .busMasterEnable f => Sys2Proof.Machine.execBusMasterEnable f s
  | .avsRegulatorAnswer now => Sys2Proof.Machine.execAvsRegulatorAnswer now s
  | .tjMaxCrossing now temps => Sys2Proof.Machine.execTjMaxCrossing now temps s

end Sys2Proof.Machine
end

