-- ==== Sys2Proof/Safety.lean ====
section
/-!
DEFINITION. What counts as a safe run: every step answers a next state, and the tables of the memories keep their canonical form.
-/
namespace Sys2Proof.Machine
open Sys2Proof

/-- The memories hold each address once, in rising order, and nothing equal to what an unlisted address reads as. -/
def Memory.wf (s : State) : Bool :=
  twf byte0 s.mem && twf byte0 s.sram && twf byte0 s.tabs && twf byte0 s.hostMem && twf byteF s.flash && twf byte0 s.desc

/-- No time is left to pass up to a moment: FT has reached it, or stands for want of power. -/
abbrev Reached (s : State) (now : Nat) : Prop := now ≤ s.ft ∨ s.pwr.down = true

/-- Before a command has its effect, time passes up to its moment. -/
def TimeFirst (c : Nat → Instr) : Prop := ∀ (now : Nat) (s : State), exec (c now) s = exec (c now) (advance s now)

/-- Nothing is owed at a moment: FT has reached it, and no verdict's deadline has passed. -/
abbrev NoneOwed (s : State) (now : Nat) : Prop := Reached s now ∧ passDeadlines s = s

/-- Before a command of the output block has its effect, time passes up to its moment, and the verdicts owed by then are written. -/
def OwedFirst (c : Nat → Instr) : Prop :=
  ∀ (now : Nat) (s : State), NoneOwed (outAt now s) now → exec (c now) s = exec (c now) (outAt now s)

/-- A step that goes on. -/
def StepSafe (s : State) : Prop := ∃ t, step s = .next t

end Sys2Proof.Machine
end

