-- ==== Sys2Proof/Certificates/Slice0/Obligations.lean ====
section
/-!
DEFINITION. The statements for the provers. A conclusion of the form `exec c s = .next t` gives the whole state after the command, and
so its result and its frame.
-/
open Sys2Proof Sys2Proof.Machine

/-- A step takes the command at the front of the queue and executes it. For every command c and state s with c at the
front of its queue, step answers what exec answers for c on s with the queue's rest. -/
def Obligations.StepRunsTheFrontCommand : Prop :=
  ∀ (c : Instr) (rest : List Instr) (s : State), s.pending = c :: rest → step s = exec c { s with pending := rest }

/-- With no command waiting, a step is one CD_TIME cycle. The model's choice of log entry 1: on an empty queue a step lets
one CD_TIME cycle pass. Without a rate or slew correction and with no fraction held, FT advances by 1 ns (R128), and
the queue stays empty. -/
def Obligations.IdleStepIsOneTimeCycle : Prop :=
  ∀ s : State, s.pending = [] →
    step s = .next (tick s) ∧
    (s.disc.rate = 0 → s.disc.slew = 0 → s.ftFrac = 0 → s.pwr.down = false → (tick s).ft = s.ft + 1)

/-- A register write is performed when its checks pass, and leaves its record when one fails. REGISTER_WRITE of a 32-bit
BAR0 register outside the TK-3 window. If the checks pass and the page's block gives the register no rule of its own
(power, clock, interrupt, BAR4 window control, anchor control, tile, cluster controller, host interface and memory
pages), the register takes its fields' new word and a reserved value is recorded with ERR_RESERVED_ENC. An access that
fails with a code is dropped, recorded in the page's first-error record, and counted by class when the code is
ERR_DENIED. An access to an unassigned page only counts in GLB_UNMAPPED_CNT. ERR_TIMEOUT: where a READY unit does not
answer an access to a block-specific register that passes its checks, the access ends with 0 or is dropped, and
ERR_TIMEOUT (0x0009) is recorded in its page (R66). -/
def Obligations.RegisterWriteIsCheckedThenPerformed : Prop :=
  ∀ (w : Who) (a v : Nat) (s : State), a < 0x1000000 → inLegacy a = false →
    (∀ (k : PageKind) (i : Nat) (r : RegRow), checkAcc s w true 4 a = .ok → pageKind (a / 4096) = some (k, i) →
      (k = .glbPwr ∨ k = .glbClk ∨ k = .glbIrq ∨ k = .glbB4 ∨ k = .ancCtl ∨ k = .tile ∨ k = .cc ∨ k = .hifMain ∨ k = .memCommon ∨ k = .memChan) →
      inMsix a = false → inAnc a = false → 0x40 ≤ a % 4096 → regRow a = some r →
      exec (.registerWrite w 4 a v) s = .next
        (if (applyFlds r.flds (word v) (rd s a) false).2 then
          recErr (wr s a (applyFlds r.flds (word v) (rd s a) false).1) (headerPage a) 0x0007 (accInfo w true a)
        else wr s a (applyFlds r.flds (word v) (rd s a) false).1)) ∧
    (∀ c : Nat, checkAcc s w true 4 a = .fail c →
      exec (.registerWrite w 4 a v) s = .next
        (if c = 0x0002 then bump (recErr s (headerPage a) c (accInfo w true a)) (GLB_DENIED_CNT (classCode w.cls))
        else recErr s (headerPage a) c (accInfo w true a))) ∧
    (checkAcc s w true 4 a = .unmapped → exec (.registerWrite w 4 a v) s = .next (bump s GLB_UNMAPPED_CNT)) ∧
    (inMsix a = false → 0x40 ≤ a % 4096 → unitState s (headerPage a) = stReady →
      (checkAcc s w true 4 a = .ok →
        exec (.errTimeout w true a) s = .next (recErr s (headerPage a) 0x0009 (accInfo w true a))) ∧
      (checkAcc s w false 4 a = .ok →
        exec (.errTimeout w false a) s = .next { recErr s (headerPage a) 0x0009 (accInfo w false a) with rdata := 0, rpois := false }))

/-- An access to an address in no assigned page. For every address of BAR0 that lies in no assigned page (nor in the
anchor array, the TK-3 window or the MSI-X structures, which are assigned), every accessor but class DEBUG without a
grant (which reaches nothing), and every access of at most 4 bytes: a read answers 0x0000_0000 and is no poisoned
completion; a write is dropped; either counts in GLB_UNMAPPED_CNT, and nothing else changes. UNMAPPED_ACCESS is that
access. -/
def Obligations.UnassignedAddressesReadZero : Prop :=
  ∀ (w : Who) (a : Nat) (s : State), a < 0x1000000 → inLegacy a = false → inMsix a = false → assigned a = false →
    (w.cls ≠ .debug ∨ granted s = true) →
    (exec (.unmappedAccess w false a) s = .next { bump s GLB_UNMAPPED_CNT with rdata := 0, rpois := false }) ∧
    (exec (.unmappedAccess w true a) s = .next (bump s GLB_UNMAPPED_CNT)) ∧
    (∀ size v : Nat, size ≤ 4 → exec (.registerWrite w size a v) s = .next (bump s GLB_UNMAPPED_CNT))

/-- The access masks of a page grant reads and writes. Outside the MSI-X structures, which have no page header: an access
that the checks admit has its class's bit set in the RD mask (a read) or in the WR mask (a write) of PAGE_ACCESS of
the page that governs its address; a read of PAGE_ID, PAGE_VER, PAGE_ACCESS or PAGE_CLKDOM of an assigned page is
admitted to every class that reaches the device, whatever the masks say, and is the only exception. -/
def Obligations.MasksGrantReadsAndWrites : Prop :=
  ∀ (s : State) (w : Who) (size a : Nat), inMsix a = false →
    (checkAcc s w true size a = .ok → nbit (rdN s (PAGE_ACCESS (headerPage a))) (classCode w.cls) = true) ∧
    (checkAcc s w false size a = .ok → ¬ (headerPage a = pageOf a ∧ (a % 4096 = 0x00 ∨ a % 4096 = 0x04 ∨ a % 4096 = 0x28 ∨ a % 4096 = 0x2C)) →
      nbit (rdN s (PAGE_ACCESS (headerPage a))) (8 + classCode w.cls) = true) ∧
    (assigned a = true → headerPage a = pageOf a → (a % 4096 = 0x00 ∨ a % 4096 = 0x04 ∨ a % 4096 = 0x28 ∨ a % 4096 = 0x2C) →
      (w.cls ≠ .debug ∨ granted s = true) → checkAcc s w false 4 a = .ok)

/-- Reads of RC counters and of latching pairs. COUNTER_READ_CLEAR: a permitted read of a counter register whose fields
are all RC, in a page without per-class sets and with no live value, answers the count, returns the counter to 0 (a
peak fill of R112 or R114 to the fill at the read) and arms its pulse again. LATCHING_READ: a permitted read of
TIME_FT_LO answers FT[31:0] and latches FT[63:32] in TIME_FT_HI; nothing else of the state changes. -/
def Obligations.ReadsClearAndLatch : Prop :=
  ∀ (w : Who) (s : State),
    (∀ (a : Nat) (r : RegRow), a < 0xF00000 → checkAcc s w false 4 a = .ok → inMsix a = false → inAnc a = false → 0x40 ≤ a % 4096 →
      keyOf w a = a → liveReg s w a = none → latchOf a = none → a ≠ SEC_Q_DATA_LO 1 →
      regRow a = some r → r.flds = [f 31 0 .rc 0] →
      exec (.counterReadClear w 4 a) s = .next { repeak (rearm (wrN s a 0) a) a with rdata := rdN s a, rpois := false }) ∧
    (checkAcc s w false 4 TIME_FT_LO = .ok →
      exec (.latchingRead w 4 TIME_FT_LO) s =
        .next { wrN s TIME_FT_HI (s.ft / 4294967296) with rdata := s.ft % 4294967296, rpois := false })

/-- PAGE_CTRL and PAGE_IRQ_STAT: lock, error clear, enable, disable, soft reset and status clear. For a page with a header
whose checks pass: IRQ_STAT_CLEAR clears exactly the bits written as 1; ERR_CLR with EN unchanged clears CODE, INFO
and the ERR flag, and on a tile's or cluster controller's page the first uncorrectable offset; LOCK with EN unchanged
sets LOCK; PAGE_ENABLE and PAGE_DISABLE of a stream port switch the unit (an enable only where the port's discovery
state admits it, a disable only between packets); SRST of the power page, which refuses none, returns its registers to
reset and ends. The end of every soft reset, where the register table has its canonical form: PAGE_GEN.GEN is one more
modulo 256, no disable is pending, and no byte of memory has changed. DISABLE_ON_IDLE ends a pending disable of a port
that is not receiving a packet. -/
def Obligations.PageControlTakesEffect : Prop :=
  ∀ (w : Who) (s : State),
    (∀ (pg : Nat) (v : Word) (x : PageKind × Nat), pg % 4096 = 0 → pageKind (pg / 4096) = some x → checkAcc s w true 4 (PAGE_IRQ_STAT pg) = .ok →
      exec (.irqStatClear w pg v) s = .next (wr s (PAGE_IRQ_STAT pg) (rd s (PAGE_IRQ_STAT pg) &&& ~~~v))) ∧
    (∀ (pg : Nat) (k : PageKind) (i : Nat), pg % 4096 = 0 → pageKind (pg / 4096) = some (k, i) → k ≠ .port → k ≠ .nc → pg ≠ 0x501000 →
      checkAcc s w true 4 (PAGE_CTRL pg) = .ok →
      (∀ (en : Bool) (t : State), t = setFlag (wrN (wrN s (PAGE_ERR_CODE pg) 0) (PAGE_ERR_INFO pg) 0) (PAGE_STAT pg) 8 false →
        exec (.errClr w pg en) s =
          .next (if k = .tile then wrN t (TT_SRAM_UE_ADDR i) 0 else if k = .cc then wrN t (CC_SRAM_UE_ADDR i) 0 else t)) ∧
      (∀ en : Bool, exec (.lock w pg en) s = .next (setFlag s (PAGE_CTRL pg) 2 true))) ∧
    (∀ en : Bool, checkAcc s w true 4 (PAGE_CTRL 0x1000) = .ok →
      exec (.srst w 0x1000 en) s = .next (softEnd (abandon (softRegs s 0x1000) 0x1000) 0x1000)) ∧
    (∀ pg : Nat, pg % 4096 = 0 → pg < 0x1000000 → twf resetWord s.regs = true → twf boolD s.pendDis = true →
      pageGen (softEnd s pg) pg = (pageGen s pg + 1) % 256 ∧ disPend (softEnd s pg) (PAGE_CTRL pg) = false ∧
      (softEnd s pg).mem = s.mem ∧ (softEnd s pg).sram = s.sram ∧ (softEnd s pg).flash = s.flash) ∧
    (∀ p : Nat, p < 32 → disPend s (PAGE_CTRL (portPage p)) = false → checkAcc s w true 4 (PAGE_CTRL (portPage p)) = .ok →
      (flag s (PAGE_CTRL (portPage p)) 0 = false → mayEnablePort s p = true →
        exec (.pageEnable w (portPage p)) s = .next (portEnable (setFlag s (PAGE_CTRL (portPage p)) 0 true) p)) ∧
      (flag s (PAGE_CTRL (portPage p)) 0 = true → (port s p).rx = none →
        exec (.pageDisable w (portPage p)) s = .next (portDisable (setFlag s (PAGE_CTRL (portPage p)) 0 false) p))) ∧
    (∀ p : Nat, p < 32 → disPend s (PAGE_CTRL (portPage p)) = true → (port s p).rx = none →
      exec (.disableOnIdle (portPage p)) s = .next (portDisable (setDisPend s (PAGE_CTRL (portPage p)) false) p))

/-- BAR4 and the indirect window store and fetch LPDDR5X. With window A at base 0, for an aligned 8-byte word of LPDDR5X
below 32 GiB that lies in no protected region (dump, firmware, bound fan-out), and an accessor that R73 admits:
BAR4_WRITE stores the 8 bytes there with fresh check bits; BAR4_READ answers the 8 bytes low byte first, poisoned
where the word is uncorrectable, whose address is then logged in the page of its channel. GO_RD and GO_WR of an idle
register set start its operation; IW_OPERATION_DONE of a read fetches the word into the data registers of the set and
clears FAIL and BUSY. -/
def Obligations.BlockMemoryReadsBackWhatIsWritten : Prop :=
  ∀ (w : Who) (off : Nat) (s : State), off % 8 = 0 → off < 0x800000000 → fld s GLB_B4_BASE_A 6 0 = 0 →
    (∀ bs : List Byte, bs.length = 8 → b4May w.cls true off = true → b4Refuse s (.mem off) = none →
      exec (.bar4Write w off bs) s = .next
        { ((List.range 8).foldl (fun t i => memWrite t (off + i) [bs.getD i 0]) s) with
          memUe := tset boolD ((List.range 8).foldl (fun t i => memWrite t (off + i) [bs.getD i 0]) s).memUe (off / 8) false }) ∧
    (b4May w.cls false off = true →
      exec (.bar4Read w off 8) s = .next { memUeLog s off 8 with rdata := ofLe (memRead s off 8), rpois := memBad s off 8 }) ∧
    (∀ inc : Bool, checkAcc s w true 4 GLB_IW_CTRL = .ok → opOn s (keyOf w GLB_IW_CTRL) = false → w.cls ≠ .debug →
      exec (.goRd w inc) s = .next (setOp (setFld (setFld s (keyOf w GLB_IW_CTRL) 2 2 (b2n inc)) (keyOf w GLB_IW_CTRL) 1 0 1) (keyOf w GLB_IW_CTRL) true) ∧
      exec (.goWr w inc) s = .next (setOp (setFld (setFld s (keyOf w GLB_IW_CTRL) 2 2 (b2n inc)) (keyOf w GLB_IW_CTRL) 1 0 2) (keyOf w GLB_IW_CTRL) true)) ∧
    (opOn s (keyOf w GLB_IW_CTRL) = true → fld s (keyOf w GLB_IW_CTRL) 1 0 = 1 → b4May w.cls false off = true →
      rd64 s (keyOf w GLB_IW_ADDR_LO) (keyOf w GLB_IW_ADDR_HI) = off →
      exec (.iwOperationDone w) s =
        .next (iwEnd (wr64 (memUeLog s off 8) (keyOf w GLB_IW_DATA_LO) (keyOf w GLB_IW_DATA_HI) (ofLe (memRead s off 8))) w off none))

/-- LPDDR5X: a read after a write. In memory that has its canonical form, bytes written to LPDDR5X read back at their
addresses, every other byte reads as before, and the memory has its canonical form again. -/
def Obligations.MemoryReadsBackItsLastWrite : Prop :=
  ∀ (s : State) (a : Nat) (bs : List Byte),
    twf byte0 s.mem = true →
    twf byte0 (memWrite s a bs).mem = true ∧ memRead (memWrite s a bs) a bs.length = bs ∧
    (∀ x : Nat, (x < a ∨ a + bs.length ≤ x) → memRead (memWrite s a bs) x 1 = memRead s x 1)

/-- The operations on an anchor by register writes. With the checks of the anchor page passed: SIGNAL adds its increment
to VALUE, saturating with OVF, and is an event of the test multiplexers; RESET of an anchor without waiters returns
VALUE, FAULT and OVF to 0; FAULT sets FAULT and counts, waits satisfied so far staying so; an OWNER write of an anchor
without waiters that no running job uses gives it the new owner, VALUE 0 and the next GEN. A reserved owner code is
refused with code 0x0102, and an operation on an anchor with waiters with 0x0101. -/
def Obligations.AnchorWritesAct : Prop :=
  ∀ (w : Who) (n : Nat) (s : State), n < 16384 →
    (∀ inc : Nat, 0 < inc → inc < 65536 → checkAcc s w true 4 (ANC_OP n) = .ok →
      exec (.signal w n inc) s = .next (srcEvent
        (if (anc s n).val + inc ≤ 18446744073709551615 then setAnc s n { anc s n with val := (anc s n).val + inc }
         else irq (wrN (bump (setAnc s n { anc s n with val := 18446744073709551615, ovf := true }) ANC_OVF_CNT) ANC_LAST (3 * 16384 + n)) 0x4000 1) evAnchor n)) ∧
    (checkAcc s w true 4 (ANC_OP n) = .ok → waiters s n = 0 →
      exec (.ancReset w n) s = .next (setAnc (latchOn s n) n { anc s n with val := 0, fault := false, ovf := false })) ∧
    (checkAcc s w true 4 (ANC_OP n) = .ok → waiters s n ≠ 0 →
      exec (.ancReset w n) s = .next (recErr s 0x4000 0x0101 (accInfo w true (ANC_OP n)))) ∧
    (checkAcc s w true 4 (ANC_OP n) = .ok →
      exec (.fault w n) s = .next (irq (wrN (bump (setAnc (latchOn s n) n { anc s n with fault := true }) ANC_FAULT_CNT) ANC_LAST (2 * 16384 + n)) 0x4000 0)) ∧
    (∀ v : Word, checkAcc s w true 4 (ANC_CTRL n) = .ok →
      (9 ≤ bits v 11 8 → bits v 11 8 ≤ 14 →
        exec (.ownerWrite w n v) s = .next (recErr s 0x4000 0x0102 (accInfo w true (ANC_CTRL n)))) ∧
      ((bits v 11 8 < 9 ∨ bits v 11 8 = 15) → waiters s n = 0 → ancInUse s (bits v 11 8) n = false → ancInUse s (anc s n).owner n = false →
        exec (.ownerWrite w n v) s = .next
          (setAnc (latchOn s n) n { val := 0, fault := false, ovf := false, gen := ((anc s n).gen + 1) % 256, owner := bits v 11 8 })))

/-- TK-3 legacy writes: PORT_LEGACY, PORT_LEG_RES and the TK-3 window. With the checks passed, on a port whose
configuration is not static: LEGACY_WRITE that sets LEGACY takes the fields, empties the descriptor, and leaves the
port DECLARED or EMPTY by its resolution; PORT_LEG_RES_WRITE of a valid resolution takes it and moves an EMPTY legacy
port to DECLARED; an invalid one is refused with code 0x0103. TK_OFFSET_HI_WRITE through the window commits the 32-bit
offset of its port from the half written now and the half held. LEGACY_WINDOW_ACCESS of a width other than 2 bytes
records ERR_LEGACY_WIDTH in the port's page, and an aligned 16-bit read of the part register answers 0x0C03. -/
def Obligations.LegacyWindowSetsResolutionAndOffset : Prop :=
  ∀ (w : Who) (p : Nat) (v : Word) (s : State), p < 4 →
    (checkAcc s w true 4 (PORT_CFG p) = .ok → portStatic s p = false → inBelay s = false → isLegacy s p = false →
      isLegacy (plainWrite s w (PORT_CFG p) v) p = true →
      ∃ u : State, u = (List.range 8).foldl (fun t i => wrN t (PORT_DESC p i) 0) (setFlag (plainWrite s w (PORT_CFG p) v) (PORT_STATUS p) 15 true) ∧
        exec (.legacyWrite w p v) s = .next (setDisc (updPort u p (fun x => { x with reread := false })) p
          (if legResOk (rd u (PORT_LEG_RES p)) then pDeclared else pEmpty))) ∧
    (checkAcc s w true 4 (PORT_LEG_RES p) = .ok → portStatic s p = false → legResOk v = true → isLegacy s p = true → disc s p = pEmpty →
      isLegacy (plainWrite s w (PORT_LEG_RES p) v) p = true → disc (plainWrite s w (PORT_LEG_RES p) v) p = pEmpty →
      exec (.portLegResWrite w p v) s = .next (setDisc (plainWrite s w (PORT_LEG_RES p) v) p pDeclared)) ∧
    (checkAcc s w true 4 (PORT_LEG_RES p) = .ok → portStatic s p = false → legResOk v = false →
      exec (.portLegResWrite w p v) s = .next (recErr s (portPage p) 0x0103 (accInfo w true (PORT_LEG_RES p)))) ∧
    (tkCheck s w true 2 p 0x010 = .ok → portStatic s p = false →
      exec (.tkOffsetHiWrite w p v) s = .next (wrN s (PORT_LEG_OFFSET p) (bits v 15 0 * 65536 + (port s p).offLo))) ∧
    (∀ size off : Nat, off < 0x1000 → size ≠ 2 → w.cls ≠ .debug →
      exec (.legacyWindowAccess w true size (0x1000 * p + off) v) s =
        .next (recErr s (portPage p) 0x000A (accInfo w true (portPage p + off)))) ∧
    (tkCheck s w false 2 p 0 = .ok → exec (.legacyWindowAccess w false 2 (0x1000 * p) v) s = .next { s with rdata := 0x0C03, rpois := false })

/-- MODE_REQ: a request waits for its cairn, is refused, or has no effect. With the checks passed: a reserved MODE is
dropped with ERR_RESERVED_ENC; the mode in force with no request pending has no effect beyond the register; another
mode that no rule refuses is pending with its code in PEND_MODE and its voltage asked for; BIVOUAC while a context
holds an accepted, uncompleted command is refused with REASON 5, logged. -/
def Obligations.ModeRequestsWaitOrAreRefused : Prop :=
  ∀ (w : Who) (v : Word) (s : State), checkAcc s w true 4 GLB_MODE_REQ = .ok →
    (4 < bits v 2 0 → exec (.modeReq w v) s = .next (recErr s 0 0x0007 (accInfo w true GLB_MODE_REQ))) ∧
    (∀ u : State, u = setFld s GLB_MODE_REQ 2 0 (bits v 2 0) → bits v 2 0 ≤ 4 → flag u GLB_MODE_STAT 3 = false →
      (bits v 2 0 = mode u → exec (.modeReq w v) s = .next u) ∧
      (bits v 2 0 ≠ mode u → modeRefusal u (bits v 2 0) = none → u.pwr.auto = none →
        exec (.modeReq w v) s = .next (retarget (setFlag (setFld (startWatch u) GLB_MODE_STAT 6 4 (bits v 2 0)) GLB_MODE_STAT 3 true))) ∧
      (bits v 2 0 = 4 → mode u ≠ 4 → anyCommand u = true →
        exec (.modeReq w v) s = .next
          (retarget (addLog (setFld (setFlag u GLB_MODE_STAT 3 false) GLB_MODE_STAT 15 8 5) .mode (mode u) (mode u) 5))))

/-- Mode changes, the core clock pause and the power-up of the clusters. Where FT has reached the command's moment (else
time passes first, and a wait for the rail is counted). MODE_CHANGE_CAIRN: when every running core stands at a step
boundary and no pause runs, a pending request that no rule refuses and whose voltage stands is applied with REASON
HOST_REQ (1), a ready lean change with it; an automatic change goes first, with its own reason. CORE_CLOCK_PAUSE_END:
the pause ends, writes that waited reach SRAM, and what waited is not charged with it. CLUSTER_POWER_UP: 10 µs after
its start the next cluster is up, and the one after it starts 25 µs later; outside a boot the LPDDR5X channels' waves
show in GLB_MEMCH_UP. PERIODIC_CAIRN: due when the period has passed since the last device-wide cairn, and never
before the first. -/
def Obligations.ModeChangesTakeEffectAtTheirCairn : Prop :=
  (∀ (now : Nat) (s : State), exec (.modeChangeCairn now) s = exec (.modeChangeCairn now) (countLate (advance s now))) ∧
  TimeFirst .coreClockPauseEnd ∧ (∀ vs : List Nat, TimeFirst (fun now => .clusterPowerUp now vs)) ∧ TimeFirst .periodicCairn ∧
  ∀ (now : Nat) (s : State), Reached s now →
    (countLate s = s → atBoundary s = true → s.pwr.pause = none →
      (s.pwr.auto = none → flag s GLB_MODE_STAT 3 = true → modeRefusal s (fld s GLB_MODE_STAT 6 4) = none →
        railAllows s (fld s GLB_MODE_STAT 6 4) = true →
        exec (.modeChangeCairn now) s = .next (applyLean (applyMode (updPwr s (fun p => { p with auto := none })) (fld s GLB_MODE_STAT 6 4) 1))) ∧
      (∀ m r : Nat, s.pwr.auto = some (m, r) → railAllows s m = true →
        exec (.modeChangeCairn now) s = .next (applyLean (applyMode (updPwr s (fun p => { p with auto := none })) m r)))) ∧
    (∀ t : Nat, s.pwr.pause = some t →
      exec (.coreClockPauseEnd now) s = .next { applyHeld s with
        pwr := { s.pwr with pause := none }
        nc := s.nc.map (fun e => (e.1, if e.2.b.isSome then { e.2 with shift := e.2.shift + min 8000 (s.ft - t) } else e.2))
        tiles := s.tiles.map (fun e => (e.1, { e.2 with
          tq := { e.2.tq with since := e.2.tq.since.map (· + min 8000 (s.ft - t)), head := e.2.tq.head.map (· + min 8000 (s.ft - t)) }
          vq := { e.2.vq with since := e.2.vq.since.map (· + min 8000 (s.ft - t)), head := e.2.vq.head.map (· + min 8000 (s.ft - t)) }
          sq := { e.2.sq with since := e.2.sq.since.map (· + min 8000 (s.ft - t)), head := e.2.sq.head.map (· + min 8000 (s.ft - t)) } }))
        ctxs := s.ctxs.map (fun e => (e.1, { e.2 with cmds := e.2.cmds.map (fun k =>
          if k.since.isSome then { k with paused := k.paused + min 8000 (s.ft - t) } else k) }))
        slots := s.slots.map (fun e => (e.1, { e.2 with waitFt := e.2.waitFt.map (· + min 8000 (s.ft - t)) })) }) ∧
    (∀ (c t : Nat) (vs : List Nat), s.pwr.upNext = some (c, t) → t + 10000 ≤ s.ft → s.pwr.booting = false →
      exec (.clusterPowerUp now vs) s = .next (updPwr (wrN (clusterUp s c) GLB_MEMCH_UP (memWaves (25000 * c + 10000)))
        (fun p => { p with upNext := if c < 15 then some (c + 1, t + 25000) else none }))) ∧
    (s.cairns ≠ [] → lastCairnFt s + 16 * fld s TIME_CAIRN 23 0 ≤ now →
      exec (.periodicCairn now) s = .next (insertCairn s rsnPeriodic))

/-- VDD_CORE: settling, timeout, missing answers and the trim. Where FT has reached the command's moment (else time passes
first, and for the first two a wait for the rail is counted). RAIL_SETTLED: within ±8 mV of the target while settling,
AVS becomes ACTIVE and the target acknowledged. ERR_AVS_TIMEOUT: after 1 ms of waiting for a rise, once, AVS is FAULT
with code 0x0101 recorded and the change stays pending. AVS_NO_ANSWER counts, sets FAULT and returns to the last
acknowledged target; AVS_REGULATOR_ANSWER ends that and sends the target that the state needs. AVS_TRIM, at most every
100 ms with TRIM_EN, moves the target by at most 5 mV toward the required level, with a log entry; what it stands
above that level after a start is held beside V_R (the model's choice, log entry 168). -/
def Obligations.TheRailFollowsItsTarget : Prop :=
  (∀ (now mv : Nat) (s : State), exec (.railSettled now mv) s = exec (.railSettled now mv) (countLate (advance s now))) ∧
  (∀ (now : Nat) (s : State), exec (.errAvsTimeout now) s = exec (.errAvsTimeout now) (countLate (advance s now))) ∧
  TimeFirst .avsNoAnswer ∧ TimeFirst .avsRegulatorAnswer ∧ (∀ level : Nat, TimeFirst (fun now => .avsTrim now level)) ∧
  ∀ (now : Nat) (s : State), Reached s now →
    (∀ mv : Nat, countLate s = s → s.pwr.noAnswer = false → 2 ≤ avsState s → absI ((mv : Int) - (vTgt s : Int)) ≤ 8 →
      exec (.railSettled now mv) s = .next (updPwr (setFld (setFld s GLB_VCORE_MEAS 15 0 mv) GLB_PWR_STAT 7 4 1)
        (fun p => { p with ack := vTgt (setFld s GLB_VCORE_MEAS 15 0 mv) }))) ∧
    (countLate s = s → avsState s = 2 → riseWaits s = true → s.pwr.since + 1000000 ≤ s.ft → s.pwr.timedOut = false →
      exec (.errAvsTimeout now) s = .next
        (updPwr (irq (setFld (recErr s 0x1000 0x0101 0) GLB_PWR_STAT 7 4 3) 0x1000 0) (fun p => { p with timedOut := true }))) ∧
    exec (.avsNoAnswer now) s = .next (updPwr (irq (setFld (setFld (bump s GLB_AVS_ERR_CNT) GLB_VCORE_TGT 15 0
          (if avsState s = 2 then s.pwr.ack else vTgt s)) GLB_PWR_STAT 7 4 3) 0x1000 0) (fun p => { p with noAnswer := true })) ∧
    (s.pwr.noAnswer = true →
      exec (.avsRegulatorAnswer now) s = .next (retarget (updPwr (setFld s GLB_PWR_STAT 7 4 1) (fun p => { p with noAnswer := false })))) ∧
    (∀ level vr : Nat, flag s GLB_AVS_CFG 31 = true → s.pwr.lastTrim + 100000000 ≤ s.ft → 690 ≤ level → level ≤ 750 →
      vr = fld s GLB_VCORE_BASE 15 0 + s.pwr.above →
      (vr + 5 ≤ level → exec (.avsTrim now level) s = .next (retarget (addLog
        (updPwr (setFld (updPwr s (fun p => { p with lastTrim := s.ft })) GLB_VCORE_BASE 15 0 (vr + 5))
          (fun p => { p with above := 0, trims := p.trims + 1 })) .other vr (vr + 5) 0))) ∧
      (level + 5 ≤ vr → exec (.avsTrim now level) s = .next (retarget (addLog
        (updPwr (setFld (updPwr s (fun p => { p with lastTrim := s.ft })) GLB_VCORE_BASE 15 0 level)
          (fun p => { p with above := vr - 5 - level, trims := p.trims + 1 })) .other vr (vr - 5) 0))))

/-- Temperature samples, the SUMMIT and BELAY limits, the trip and the power events. TJ_MAX_CROSSING takes a sample of 20
sensors. Where FT has reached the moment (else time passes first): BELAY_THERMAL_LIMIT: in BELAY at the code's limit
every job ends with the thermal status and RIDGE is asked for with REASON THERMAL (2). SUMMIT_LIMIT_EVAL: once per ms
the package power is shown with its peak, and in SUMMIT the temperature limit asks for RIDGE (2), else the power limit
does (3). THERMTRIP: of a powered device at 118 °C the pin is low and the compute is held in reset, once. POWER_DOWN
puts the device in reset until POWER_ON_RESET, which keeps only the flash, host memory and the queue; a pulse below 1
µs is ignored. -/
def Obligations.TemperatureAndPowerLimitsAct : Prop :=
  (∀ temps : List Nat, TimeFirst (fun now => .belayThermalLimit now temps) ∧ TimeFirst (fun now => .thermtrip now temps)) ∧
  (∀ rails : Nat, TimeFirst (fun now => .summitLimitEval now rails)) ∧
  ∀ (now : Nat) (s : State),
    (∀ temps : List Nat,
      exec (.tjMaxCrossing now temps) s = .next (takeTemps (advance s now) temps) ∧
      (Reached s now → inBelay (takeTemps s temps) = true → 16 * (if gradeX (takeTemps s temps) then 110 else 105) ≤ tj (takeTemps s temps) →
        exec (.belayThermalLimit now temps) s = .next (autoMode (endJobs (takeTemps s temps) errThermal (fun _ => true)) 0 2)) ∧
      (Reached s now → temps.length = 20 → 1888 ≤ hottest temps → s.pwr.trip = false → s.pwr.down = false →
        exec (.thermtrip now temps) s = .next (setPhase (updPwr (halt (takeTemps s temps)) (fun p => { p with trip := true, upNext := none })) 6))) ∧
    (∀ (rails : Nat) (x : State), Reached s now → s.pwr.lastEval + 1000000 ≤ s.ft → inBivouac s = false →
      x = peak (wrN (updPwr s (fun q => { q with lastEval := s.ft })) DBG_PKG_PWR (rails + 15500)) DBG_PKG_PWR_PEAK (rails + 15500) →
      (mode x ≠ 1 → exec (.summitLimitEval now rails) s = .next x) ∧
      (mode x = 1 → 16 * (fld x GLB_MODE_LIMIT 15 8 : Int) ≤ tj x → exec (.summitLimitEval now rails) s = .next (autoMode x 0 2)) ∧
      (mode x = 1 → tj x < 16 * (fld x GLB_MODE_LIMIT 15 8 : Int) → 1000 * fld x GLB_MODE_LIMIT 24 16 ≤ rails + 15500 →
        exec (.summitLimitEval now rails) s = .next (autoMode x 0 3))) ∧
    (∀ ns : Nat, 1000 ≤ ns → ∃ t : State, exec (.powerOnReset ns) s = .next t ∧ t.regs = [] ∧ t.ft = 0 ∧ t.mem = [] ∧ t.sec.seed = none ∧
      t.links = [] ∧ t.jobs = [] ∧ t.flash = s.flash ∧ t.hostMem = s.hostMem ∧ t.pending = s.pending ∧ t.pwr.booting = true) ∧
    (∃ t : State, exec .powerDown s = .next t ∧ t.pwr.down = true ∧ t.regs = [] ∧ t.flash = s.flash ∧ t.pending = s.pending)

/-- Long packets: the checks, the counters and the words of an accepted packet. PACKET_RECEIVE. The start of a packet is
noted with the words its header announces, and lanes in HS are. At its end (FT having reached it, else time passes
first), with the packet's start known: two or more header errors count as uncorrectable and drop the packet; an
otherwise sound packet of another virtual channel or data type only counts in PORT_OTHER_PKT; a bad CRC counts, pulses
and drops; more than 16,384 bytes count as a format error and drop; a sound packet of whole words enters the ingest
path while the port waits or streams. SPILL_REFILL: with words in the spill and the fill at or below LO, the buffer is
refilled from the spill's head, in order, until its fill reaches HI. -/
def Obligations.PacketsAreCheckedAndBuffered : Prop :=
  (∀ (p : Nat) (x : Packet), TimeFirst (fun now => .packetReceive p (.finish now x))) ∧
  ∀ (p : Nat) (s : State),
    (∀ arr vc dt len : Nat, exec (.packetReceive p (.start arr vc dt len)) s =
      .next (updPort (laneSet (advance s arr) p arr true) p (fun x => { x with rx := some arr, rxWords := ownWords (laneSet (advance s arr) p arr true) p vc dt len }))) ∧
    (∀ (now : Nat) (hs : Bool), exec (.packetReceive p (.lane now hs)) s = .next (laneSet (advance s now) p now hs)) ∧
    (∀ (now arr : Nat) (x : Packet) (u : State), Reached s now → (port (laneSet s p now false) p).rx = some arr →
      u = updPort (laneSet s p now false) p (fun y => { y with rx := none, rxWords := 0 }) →
      (2 ≤ x.hdrErr → exec (.packetReceive p (.finish now x)) s = .next (packetDropped (bump u (PORT_ECC_UNCORR p)) p)) ∧
      (x.hdrErr = 0 → (x.vc ≠ fld u (PORT_CFG p) 7 4 ∨ x.dt ≠ 0x30 + fld u (PORT_CFG p) 2 0) →
        exec (.packetReceive p (.finish now x)) s = .next (bump u (PORT_OTHER_PKT p))) ∧
      (x.hdrErr = 0 → x.vc = fld u (PORT_CFG p) 7 4 → x.dt = 0x30 + fld u (PORT_CFG p) 2 0 →
        (x.crcOk = false → exec (.packetReceive p (.finish now x)) s =
          .next (packetDropped (irq (bump u (PORT_CRC_ERR p)) (portPage p) 6) p)) ∧
        (x.crcOk = true → 16384 < x.payload.length →
          exec (.packetReceive p (.finish now x)) s = .next (packetDropped (bump u (PORT_PKT_FORMAT p)) p)) ∧
        (x.crcOk = true → x.payload.length ≤ 16384 → x.payload.length % 4 = 0 →
          exec (.packetReceive p (.finish now x)) s = .next (acceptPacket u p arr now x.payload)))) ∧
    ((port s p).spill ≠ [] → bufBytes (port s p) ≤ fld s (PORT_SPILL_CFG p) 3 0 * 32768 →
      ∀ y : PortSt, y = refill (fld s (PORT_SPILL_CFG p) 11 8 * 32768) (port s p) (port s p).spill.length →
        exec (.spillRefill p) s = .next (if y.spill.isEmpty then setSpilling (peak (setPort s p y) (PORT_BUF_PEAK p) (bufBytes y)) p false
          else peak (setPort s p y) (PORT_BUF_PEAK p) (bufBytes y)))

/-- A refill moves words and loses none. A refill of the ingest buffer from the spill leaves buffer followed by spill as
it was, word for word and in order (R104), whatever the limit and the number of words moved. -/
def Obligations.RefillKeepsEveryWordInOrder : Prop :=
  ∀ (hi n : Nat) (x : PortSt), (refill hi x n).buf ++ (refill hi x n).spill = x.buf ++ x.spill

/-- The words of a VES stream. With a word of the row's opcode, accepted under R96, at the head of a VES port's buffer and
not skipped, the word leaves the buffer and: PAD does nothing; TIME_BASE that does not run backward sets T to its 28
bits times 2^16 and ends the row; TIME_DELTA advances a valid T modulo 2^44; ROW sets row and polarity; RUN makes
COUNT events of consecutive columns; MASK makes an event for each set bit; TRIGGER with a valid T passes its stamp and
edge to fusion and counts; SENSOR_STATUS latches the word and pulses, with GAP for code 2; EXTENDED counts and
announces the words to skip. A rejected word (VES_REJECT) counts, is kept in PORT_VES_LAST_REJ and pulses. -/
def Obligations.EventStreamWordsAct : Prop :=
  ∀ (p : Nat) (s : State) (b : BufWord) (rest : List BufWord), (port s p).buf = b :: rest → isLegacy s p = false → skipping (port s p) b = false →
    ∀ u : State, u = popWord s p →
    (vesIs 0 b.w.toNat = true → exec (.pad p) s = .next u) ∧
    (vesIs 1 b.w.toNat = true → ∀ t : Nat, t = nbits b.w.toNat 27 0 * 65536 →
      (∀ l : Nat, (port u p).tLast = some l → l ≤ t) →
      exec (.timeBase p) s = .next (pairAndMark (setTime (updPort (updPort u p (fun x => { x with restart := false, back := 0 })) p
        (fun x => { x with row := none, back := 0 })) p t) p t b.arr)) ∧
    (vesIs 2 b.w.toNat = true → ∀ t0 t : Nat, (port u p).t = some t0 → t = (t0 + nbits b.w.toNat 15 0) % 17592186044416 →
      exec (.timeDelta p) s = .next (pairAndMark (setTime u p t) p t b.arr)) ∧
    (vesIs 3 b.w.toNat = true → exec (.row p) s =
      .next (updPort u p (fun x => { x with row := some (nbits b.w.toNat 12 0, nbit b.w.toNat 13) }))) ∧
    (vesIs 4 b.w.toNat = true → exec (.run p) s =
      .next ((rangeFrom (nbits b.w.toNat 20 8) (nbits b.w.toNat 7 0)).foldl (vesEvent p b.arr) u)) ∧
    (vesIs 5 b.w.toNat = true → exec (.mask p) s =
      .next ((((List.range 14).filter (fun i => nbit b.w.toNat i)).map (fun i => nbits b.w.toNat 26 14 + i)).foldl (vesEvent p b.arr) u)) ∧
    (vesIs 6 b.w.toNat = true → ∀ t : Nat, (port u p).t = some t →
      exec (.trigger p) s = .next { bump u (PORT_TRIG_CNT p) with
        trigs := u.trigs ++ [(p, 16 * srvStamp (servo u p) t, nbit b.w.toNat 0)] }) ∧
    (vesIs 7 b.w.toNat = true → nbits b.w.toNat 27 24 = 2 →
      exec (.sensorStatus p) s = .next (updPort (irq (wr u (PORT_STATUS_WORD p) b.w) (portPage p) 8) p (fun x => { x with gap := true }))) ∧
    (vesIs 15 b.w.toNat = true → exec (.extended p) s =
      .next (updPort (bump u (PORT_EXT_SKIP p)) p (fun x => { x with skip := nbits b.w.toNat 19 16, skipPkt := b.pkt }))) ∧
    (vesBad b.w.toNat = true → exec (.vesReject p) s =
      .next (irq (wr (bump u (PORT_VES_REJECT p)) (PORT_VES_LAST_REJ p) b.w) (portPage p) 7))

/-- The words of a TK-3 stream. With an accepted word of the kind at the head of a legacy port's buffer: TIME_HIGH that
follows another within 4 ms sets T from its 22 bits and the wraps seen, ends stamping by arrival, and gives the servo
its pair; an EVENT inside the resolution of a port that stamps by T is stamped at T plus its 6 low bits, and one
outside the resolution is counted in PORT_RANGE_DROP. -/
def Obligations.LegacyStreamWordsAct : Prop :=
  ∀ (p : Nat) (s : State) (b : BufWord) (rest : List BufWord), (port s p).buf = b :: rest → isLegacy s p = true → skipping (port s p) b = false →
    ∀ (u : State) (l : Nat), u = popWord s p → (port u p).lastTh = some l → b.arr ≤ l + 4000000 →
    (nbits b.w.toNat 31 30 = 1 → nbits b.w.toNat 29 22 = 0 →
      ∀ (u1 u2 : State) (w t : Nat), u1 = setArrival u p false →
        w = (if nbits b.w.toNat 21 0 < (port u p).tHigh then (port u p).wraps + 1 else (port u p).wraps) →
        t = w * 268435456 + nbits b.w.toNat 21 0 * 64 →
        u2 = setTime (updPort u1 p (fun x => { x with tHigh := nbits b.w.toNat 21 0, wraps := w, lastTh := some b.arr })) p t →
        flag u2 (PORT_STATUS p) 14 = false →
        exec (.timeHigh p) s = .next (pairAndMark u2 p t b.arr)) ∧
    (nbits b.w.toNat 31 30 = 0 → nbits b.w.toNat 7 6 = 0 →
      (((port u p).w ≤ nbits b.w.toNat 29 19 ∨ (port u p).h ≤ nbits b.w.toNat 18 9) →
        exec (.tkEvent p) s = .next (bump u (PORT_RANGE_DROP p))) ∧
      (nbits b.w.toNat 29 19 < (port u p).w → nbits b.w.toNat 18 9 < (port u p).h → flag u (PORT_STATUS p) 14 = false →
        ∀ t : Nat, (port u p).t = some t →
        exec (.tkEvent p) s = .next (emit u p (nbits b.w.toNat 29 19) (nbits b.w.toNat 18 9) (nbit b.w.toNat 8)
          (srvStamp (servo u p) ((t + nbits b.w.toNat 5 0 : Nat) : Int)) b.arr false)))

/-- The I3C buses and the timeouts of a port. DAA_ROUND forgets every target and slot address and addresses the targets
afresh with RSTDAA and ENTDAA; HOT_JOIN is refused with a NACK and DISEC while HJ_EN is 0, refused and counted when no
address is free, and else addresses one target. Where FT has reached the moment of a timed command (else time passes
first): HJ_EN_WRITE sends ENEC and ENTDAA, or DISEC, when HJ_EN changes. DESCRIPTOR_READ of a sound descriptor by the
target of a free slot gives it the slot, shows the descriptor and moves an EMPTY port to DISCOVERED. GETSTATUS_POLL of
a slot's target clears its NACK count on an answer, and counts a NACK without one; the third in a row means the target
is gone. NO_STREAM 50 ms after the enable of a waiting port ends its stream in FAULT with reason 1; LINK_TIMEOUT after
LOSS_TMO ms without an accepted packet enters LOST with reason 6. I3C_XFER_GO starts a transfer to the target of a
slot, which waits while a descriptor read of the helper is outstanding (R117); I3C_XFER_DONE of one that does not wait
stores the bytes of a read and completes with STATUS 0, and a NACK counts and completes with 2. -/
def Obligations.SensorBusEventsAct : Prop :=
  (∀ (b k : Nat) (ack : Bool), TimeFirst (fun now => .getstatusPoll b k ack now)) ∧
  (∀ p : Nat, TimeFirst (fun now => .noStream p now) ∧ TimeFirst (fun now => .linkTimeout p now)) ∧
  ∀ (b : Nat) (s : State),
    (∀ n : Nat, exec (.daaRound b n) s = .next (entdaa ((List.range 4).foldl (fun t k => wrN t (PORT_I3C (4 * b + k)) 0)
      (busCmd (updBus s b (fun x => { x with targets := [], reads := [] })) b .rstdaa)) b n)) ∧
    (flag s (I3C_CFG b) 7 = false → exec (.hotJoin b) s = .next (busCmd (busCmd s b .nackJoin) b .disec)) ∧
    (flag s (I3C_CFG b) 7 = true → freeAddr (bus s b).targets = none →
      exec (.hotJoin b) s = .next (bump (busCmd s b .nackJoin) (I3C_NOADDR_CNT b))) ∧
    (∀ a : Nat, flag s (I3C_CFG b) 7 = true → freeAddr (bus s b).targets = some a → exec (.hotJoin b) s = .next (entdaa s b 1)) ∧
    (∀ (w : Who) (n : Nat) (v : Word), checkAcc s w true 4 (I3C_CFG b) = .ok → ∀ u : State, u = plainWrite s w (I3C_CFG b) v →
      (flag s (I3C_CFG b) 7 = false → flag u (I3C_CFG b) 7 = true → exec (.hjEnWrite w b n v) s = .next (entdaa (busCmd u b .enec) b n)) ∧
      (flag s (I3C_CFG b) 7 = true → flag u (I3C_CFG b) 7 = false → exec (.hjEnWrite w b n v) s = .next (busCmd u b .disec)) ∧
      (flag s (I3C_CFG b) 7 = flag u (I3C_CFG b) 7 → exec (.hjEnWrite w b n v) s = .next u)) ∧
    (∀ (addr k : Nat) (t : I3cTarget) (d : List Byte) (u : State), (bus (readDone s b addr) b).targets.find? (fun x => x.addr == addr) = some t →
      k = ofLe ((d.drop 12).take 1) % 4 → (bus (readDone s b addr) b).targets.any (fun x => x.slot == some k && x.addr != addr) = false →
      u = wrN (updBus (readDone s b addr) b (fun x => { x with targets := x.targets.map (fun y => if y.addr = addr then { y with desc := d, slot := some k, polled := (readDone s b addr).ft } else y) }))
        (PORT_I3C (4 * b + k)) addr →
      isLegacy u (4 * b + k) = false → disc u (4 * b + k) = pEmpty →
      exec (.descriptorRead b addr (some d)) s = .next (takeDesc u (4 * b + k) d)) ∧
    (∀ (k now : Nat) (t : I3cTarget), Reached s now → slotTarget s b k = some t → isLegacy s (4 * b + k) = false → pollAt s b t ≤ s.ft →
      exec (.getstatusPoll b k true now) s = .next (updBus (busCmd s b (.getstatus k)) b (fun x => { x with targets := x.targets.map (fun y =>
        if y.slot = some k then { y with nacks := 0, polled := s.ft } else y) })) ∧
      ∀ u : State, u = updBus (bump (busCmd s b (.getstatus k)) (I3C_NACK_CNT b)) b (fun x => { x with targets := x.targets.map (fun y =>
        if y.slot = some k then { y with nacks := t.nacks + 1, polled := s.ft } else y) }) →
        exec (.getstatusPoll b k false now) s = .next (if t.nacks < 2 then u else targetGone u b k)) ∧
    (∀ p now : Nat, Reached s now → disc s p = pWaiting → (port s p).enFt + 50000000 ≤ now →
      exec (.noStream p now) s = .next (goFault (streamEnd s p) p 1)) ∧
    (∀ p now : Nat, Reached s now → disc s p = pStreaming → (port s p).lastPkt + fld s (PORT_CFG p) 31 24 * 1000000 ≤ now →
      exec (.linkTimeout p now) s = .next (goLost s p 6)) ∧
    (∀ (w : Who) (v : Word) (t : I3cTarget) (u : State), checkAcc s w true 4 (I3C_XFER_CTRL b) = .ok → opOn s (I3C_XFER_CTRL b) = false →
      u = plainWrite s w (I3C_XFER_CTRL b) v → nbit v.toNat 31 = true → fld u (I3C_XFER_CTRL b) 5 0 ≠ 0 →
      slotTarget u b (fld u (I3C_XFER_CTRL b) 17 16) = some t →
      exec (.i3cXferGo w b v) s = .next (xferStart (wrN (setOp u (I3C_XFER_CTRL b) true) (I3C_XFER_STAT b) 1) b
        (fld u (I3C_XFER_CTRL b) 17 16))) ∧
    (∀ t : I3cTarget, opOn s (I3C_XFER_CTRL b) = true → ((bus s b).waits = false ∨ (bus s b).reads = []) → slotTarget s b (fld s (I3C_XFER_CTRL b) 17 16) = some t →
      (∀ (d : List Byte) (n : Nat), flag s (I3C_XFER_CTRL b) 15 = true → n = fld s (I3C_XFER_CTRL b) 5 0 →
        exec (.i3cXferDone b (.ok d)) s = .next (xferDone ((List.range ((n + 3) / 4)).foldl (fun t i =>
          wrN t (I3C_XFER_DATA b i) (ofLe (((padTo 32 (d.take n)).drop (4 * i)).take 4))) s) b 0)) ∧
      exec (.i3cXferDone b .nack) s = .next (xferDone (bump s (I3C_NACK_CNT b)) b 2))

/-- PTP: Sync, Announce, the receipt timeout and the delay messages. Where FT has reached the message's moment (else time
passes first), on an Ethernet port, domain and transport that an enabled instance listens to: a Sync of the master it
follows counts its offset, corrected for asymmetry, correction field and mean path delay, toward the number of
consecutive Syncs; before that number the instance that is not LOCKED acquires, and from it on the instance is LOCKED
and has a new conversion segment. In the discipline's source the offset qualifies the source in ACQUIRE (a step of FT
moves the new segment with it) and is a measurement in LOCKED. An Announce notes its sender, and the instance follows
the best one it hears (its rank is an operand, the model's choice of log entry 150) and restarts the receipt timer;
when the configured number of intervals passes without one, the instance loses its master. A finished delay
measurement sets the mean path delay to the floor of half of the two transit differences less the correction,
saturating; requests are sent and, in peer mode, answered with their stamps. -/
def Obligations.PtpMessagesActOnTheirInstance : Prop :=
  (∀ (n origin : Nat) (m : PtpFrom) (corr : Int), TimeFirst (fun now => .ptpSync n m origin corr now)) ∧
  (∀ (n rank interval : Nat) (m : PtpFrom), TimeFirst (fun now => .ptpAnnounce n m rank interval now)) ∧
  (∀ n : Nat, TimeFirst (fun now => .announceTimeout n now)) ∧
  ∀ (n now : Nat) (m : PtpFrom) (s : State), Reached s now →
    (∀ (origin : Nat) (corr : Int) (y u : State) (off : Int), ptHears s n m = true → ptTakes s n m = true → lostNow s (n + 1) = false →
      y = ptMaster s n m.master m.mport m.eth →
      u = setPtp y n { ptpOf y n with syncs := satN 1000000 ((ptpOf y n).syncs + 1), sync := some ((origin : Int) + corr, ptStamp y n now) } →
      off = (now : Int) - sx 32 (rdN u (TIME_PT_ASYM n)) - ((origin : Int) + corr + (rdN u (TIME_PT_PATH n) : Int)) →
      ((srcSel u ≠ n + 1 ∨ discState u ≠ dHoldover) → (ptpOf u n).syncs < fld u (TIME_PT_CFG n) 21 16 → ptState u n ≠ dLocked →
        exec (.ptpSync n m origin corr now) s = .next (setPtState u n dAcquire)) ∧
      (fld u (TIME_PT_CFG n) 21 16 ≤ (ptpOf u n).syncs → ∀ v : State,
        v = newSegment (setPtp (setPtState u n dLocked) n { ptpOf (setPtState u n dLocked) n with everLocked := true }) n now (-off) →
        (srcSel u ≠ n + 1 → exec (.ptpSync n m origin corr now) s = .next v) ∧
        (srcSel u = n + 1 → discState u ≠ dHoldover → discState v = dAcquire → ∀ q : State, q = qualify v off →
          exec (.ptpSync n m origin corr now) s = .next (masterRegs (if v.ft < q.ft then stepSegment q n (q.ft - v.ft) else q)
            TIME_MASTER_ID0 TIME_MASTER_ID1 TIME_MASTER_PORT m.master m.mport (fld v (TIME_PT_CFG n) 15 8) m.eth)) ∧
        (srcSel u = n + 1 → discState u ≠ dHoldover → discState v = dLocked →
          exec (.ptpSync n m origin corr now) s = .next (measure v off)))) ∧
    (∀ (rank interval : Nat) (y : State) (f : Foreign), ptHears s n m = true → y = hearMaster s n m rank interval now → ptBest y n = some f →
      exec (.ptpAnnounce n m rank interval now) s =
        .next (setPtp (ptMaster y n f.master f.mport f.eth) n
          { ptpOf (ptMaster y n f.master f.mport f.eth) n with lastAnn := some f.last, annNs := f.annNs })) ∧
    (∀ a : Nat, (ptpOf s n).lastAnn = some a → a + fld s (TIME_PT_CFG n) 25 22 * (ptpOf s n).annNs ≤ now →
      exec (.announceTimeout n now) s = .next (ptLost (setPtp s n { ptpOf s n with lastAnn := none }) n)) ∧
    (flag s (TIME_PT_CFG n) 31 = true →
      (∀ tx : Nat, exec (.ptpExchange n (.request tx)) s = .next (setPtp { s with ptpTx := s.ptpTx ++
          [(n, if flag s (TIME_PT_CFG n) 26 then .pdelayReq (ptStamp s n tx) else .delayReq (ptStamp s n tx))] } n
        { ptpOf s n with req := some (ptStamp s n tx) })) ∧
      (∀ (t4 : Nat) (t1 t2 t3 corr : Int), flag s (TIME_PT_CFG n) 26 = false → (ptpOf s n).sync = some (t1, t2) → (ptpOf s n).req = some t3 →
        exec (.ptpExchange n (.delayResp t4 corr)) s = .next (wrN (setPtp s n { ptpOf s n with req := none }) (TIME_PT_PATH n)
          (satN 0xFFFFFFFF (((t2 - t1) + ((t4 : Int) - t3) - corr) / 2).toNat))) ∧
      (∀ (t2 t3 rx : Nat) (t1 corr : Int), flag s (TIME_PT_CFG n) 26 = true → (ptpOf s n).req = some t1 →
        exec (.ptpExchange n (.pdelayResp t2 t3 rx corr)) s = .next (wrN (setPtp s n { ptpOf s n with req := none }) (TIME_PT_PATH n)
          (satN 0xFFFFFFFF (((ptStamp s n rx - t1) - ((t3 : Int) - (t2 : Int)) - corr) / 2).toNat))) ∧
      (∀ rx tx : Nat, flag s (TIME_PT_CFG n) 26 = true →
        exec (.ptpExchange n (.pdelayReq rx tx)) s = .next { s with ptpTx := s.ptpTx ++
          [(n, .pdelayResp (ptStamp s n rx)), (n, .pdelayRespFollowUp (ptStamp s n tx))] }))

/-- 1PPS, the reference, the source choice, conversions and the phase slew. Where FT has reached the moment (else time
passes first): an enabled PPS_IN edge of at least 100 ns, one second within 1 ms after the last accepted edge, is
accepted, qualifies 1PPS as the source in ACQUIRE from the third on, and steers FT in LOCKED; one off that interval
counts as bad, restarts the count of good edges and pulses. 1.5 s without an accepted edge loses the source. PPS_OUT
rises at a whole second of its time scale plus its offset and falls WIDTH_MS later. REF_LOST clears REF_OK and pulses,
REF_BACK sets it and pulses, the time without reference added up. A TIME_CTRL write that selects 0 enters FREE, and
one that selects another enabled source enters ACQUIRE; a qualification of the same moment is discarded (R158).
CONVERSION_GO starts a conversion with status BUSY, CONVERSION_DONE leaves status and result and ends BUSY; a scale
converted to itself keeps its value. SLEW_COMPLETE lets time pass and shows the phase correction that remains. -/
def Obligations.PpsAndReferenceSteerTheTime : Prop :=
  (∀ high : Nat, TimeFirst (fun now => .ppsInEdge now high)) ∧ TimeFirst .ppsLoss ∧ TimeFirst .ppsOutRise ∧ TimeFirst .ppsOutFall ∧
  ∀ (now : Nat) (s : State), Reached s now →
    (∀ high a e : Nat, flag s TIME_PPS_IN 16 = true → 100 ≤ high → s.pps.acc = some a → e = now - fld s TIME_PPS_IN 15 0 →
      (a + 999000000 ≤ e → e ≤ a + 1001000000 → lostNow s srcPps = false → ∀ u : State,
        u = { s with pps := { s.pps with last := some e, acc := some e, good := satN 3 (s.pps.good + 1) } } →
        (srcSel u ≠ srcPps → exec (.ppsInEdge now high) s = .next u) ∧
        (srcSel u = srcPps → discState u = dAcquire → exec (.ppsInEdge now high) s = .next (if u.pps.good < 3 then u else qualify u (ppsPhase e))) ∧
        (srcSel u = srcPps → discState u = dLocked → exec (.ppsInEdge now high) s = .next (measure u (ppsPhase e)))) ∧
      (e < a + 999000000 → exec (.ppsInEdge now high) s =
        .next (irq (bump { s with pps := { s.pps with last := some e, good := 0 } } TIME_PPS_IN_BAD_CNT) pgTime 5))) ∧
    (∀ a : Nat, s.pps.acc = some a → a + 1500000000 < now →
      exec (.ppsLoss now) s = .next (srcLost { s with pps := { s.pps with acc := none, good := 0 } } srcPps)) ∧
    (fld s TIME_PPS_OUT 29 27 = 0 → ppsScale s = some (s.ft : Int)) ∧
    (∀ t : Int, ppsScale s = some t → flag s TIME_PPS_OUT 31 = true → (2 ≤ discState s ∨ flag s TIME_PPS_OUT 30 = true) →
      (t - rdS s TIME_PPS_OUT_OFF) % 1000000000 = 0 →
      exec (.ppsOutRise now) s = .next { s with pps := { s.pps with out := true, fall := (t + (fld s TIME_PPS_OUT 16 7 * 1000000 : Nat)).toNat } }) ∧
    (∀ t : Int, ppsScale s = some t → s.pps.out = true → (s.pps.fall : Int) ≤ t →
      exec (.ppsOutFall now) s = .next { s with pps := { s.pps with out := false } }) ∧
    (flag s TIME_STATUS 8 = true → exec .refLost s = .next (irq (setFlag { s with disc := { s.disc with refLost := some s.ft } } TIME_STATUS 8 false) pgTime 3)) ∧
    (flag s TIME_STATUS 8 = false → exec .refBack s = .next (irq (setFlag { s with disc := { s.disc with refLost := none, lostNs := noRefNs s } } TIME_STATUS 8 true) pgTime 4)) ∧
    (∀ (w : Who) (v : Word), checkAcc s w true 4 TIME_CTRL = .ok → bits v 2 0 ≠ srcSel s →
      (bits v 2 0 = 0 → exec (.timeCtrlWrite w v) s = .next (enterFree (plainWrite (discardQual s) w TIME_CTRL v))) ∧
      (0 < bits v 2 0 → bits v 2 0 ≤ 5 → srcEnabled s (bits v 2 0) = true →
        exec (.timeCtrlWrite w v) s = .next (enterAcquire (plainWrite (discardQual s) w TIME_CTRL v)))) ∧
    (∀ (w : Who) (v : Word) (k : Nat), k = keyOf w TIME_CONV_CTRL → checkAcc s w true 4 TIME_CONV_CTRL = .ok → opOn s k = false → nbit v.toNat 31 = true →
      exec (.conversionGo w v) s = .next (setOp (wrN (plainWrite s w TIME_CONV_CTRL v) (keyOf w TIME_CONV_STAT) 3) k true)) ∧
    (∀ (w : Who) (k : Nat) (r : Nat × Nat), k = keyOf w TIME_CONV_CTRL → opOn s k = true →
      r = convert s (fld s k 6 4) (fld s k 2 0) (rd64 s (keyOf w (TIME_CONV_IN_LO 0)) (keyOf w (TIME_CONV_IN_LO 1))) →
      exec (.conversionDone w) s = .next (setOp (wrN (wr64 s (keyOf w (TIME_CONV_OUT_LO 0)) (keyOf w (TIME_CONV_OUT_LO 1)) r.2)
        (keyOf w TIME_CONV_STAT) r.1) k false)) ∧
    (∀ frm v : Nat, convert s frm frm v = (0, v)) ∧
    exec (.slewComplete now) s = .next (showSlew s)

/-- Encoder edges and indexes, inertial triggers and transactions. Where FT has reached the last sample (else time passes
up to it first): on an enabled encoder the samples of A and B, 5 ns apart, with Z as it stands or with samples of
their own, pass its filters, count and index in order; a disabled encoder takes none. The samples of DRDY pass a
filter on an enabled port. A trigger, by the filtered rising edge of a port in DRDY mode or by the timer at a multiple
of its period, starts a transaction on a running port outside BIVOUAC without one in progress, stamped less the
latency, and puts its bytes on the bus; with one in progress it counts as an overrun and pulses. The transaction's six
values are shown in order, counted, and fed, times 256, to every chain enabled on the port; a NACK, over I3C, counts
and pulses, and the third in a row puts the port in LOST. -/
def Obligations.MotionInputsAct : Prop :=
  (∀ (e now : Nat) (smp : List (Bool × Bool)) (full : Bool) (s : State),
    exec (.encoderEdge e now smp full) s = exec (.encoderEdge e now smp full) (advance s (now + 5 * smp.length)) ∧
    (Reached s (now + 5 * smp.length) →
      (encOn s e = true → exec (.encoderEdge e now smp full) s =
        .next (encSamples e full now (smp.map (fun x => (x.1, x.2, (encOf s e).zin))) s)) ∧
      (encOn s e = false → exec (.encoderEdge e now smp full) s = .next s))) ∧
  (∀ (e now : Nat) (smp : List (Bool × Bool × Bool)) (full : Bool) (s : State),
    exec (.encoderIndex e now smp full) s = exec (.encoderIndex e now smp full) (advance s (now + 5 * smp.length)) ∧
    (Reached s (now + 5 * smp.length) →
      (encOn s e = true → exec (.encoderIndex e now smp full) s = .next (encSamples e full now smp s)) ∧
      (encOn s e = false → exec (.encoderIndex e now smp full) s = .next s))) ∧
  (∀ (p now : Nat) (smp : List Bool) (full : Bool) (s : State),
    exec (.imuDrdy p now smp full) s = exec (.imuDrdy p now smp full) (advance s (now + 5 * smp.length)) ∧
    (Reached s (now + 5 * smp.length) →
      (flag s (MOT_IMU_CFG p) 31 = true → exec (.imuDrdy p now smp full) s = .next (drdySamples p full now smp s)) ∧
      (flag s (MOT_IMU_CFG p) 31 = false → exec (.imuDrdy p now smp full) s = .next s))) ∧
  (∀ p : Nat, TimeFirst (.imuTimerTrigger p)) ∧ (∀ (p : Nat) (d : Option (List Byte)), TimeFirst (.imuTransactionDone p d)) ∧
  (∀ (p now : Nat) (s : State), Reached s now →
    (imuState s p = imuRun → inBivouac s = false →
      (∀ t : Nat, ((imuOf s p).busy = [] → imuTrigger s p now t = setImu s p { imuOf s p with
          busy := [(t - fld s (MOT_IMU_LAT p) 15 0, now + imuDur s p)], cmds := (imuOf s p).cmds ++ [imuXfer s p] }) ∧
        (∀ b : Nat × Nat, (imuOf s p).busy = [b] → now < b.2 → imuTrigger s p now t = motIrq (bump s (MOT_IMU_OVERRUN_CNT p)) pgImu p 0)) ∧
      (flag s (MOT_IMU_CFG p) 26 = true → rdN s (MOT_IMU_PERIOD p) ≠ 0 → now % rdN s (MOT_IMU_PERIOD p) = 0 →
        exec (.imuTimerTrigger p now) s = .next (imuTrigger s p now now))) ∧
    (∀ (st fin : Nat) (r : List (Nat × Nat)), (imuOf s p).busy = (st, fin) :: r →
      (∀ (d : List Byte) (vs : List Int) (u : State), fin ≤ s.ft →
        vs = imuVals (flag s (MOT_IMU_CFG p) 25) 6 (padTo 12 (d.drop (fld s (MOT_IMU_CFG p) 21 19))) →
        u = bump (setImu (wrN (wrN (wrN s (MOT_IMU_LAST0 p) (twos 16 (vs.getD 0 0) + 65536 * twos 16 (vs.getD 1 0)))
            (MOT_IMU_LAST1 p) (twos 16 (vs.getD 2 0) + 65536 * twos 16 (vs.getD 3 0)))
            (MOT_IMU_LAST2 p) (twos 16 (vs.getD 4 0) + 65536 * twos 16 (vs.getD 5 0))) p { imuOf s p with busy := r, nacks := 0 }) (MOT_IMU_SAMPLE_CNT p) →
        exec (.imuTransactionDone p (some d) now) s = .next ((chainsOn u 0 p).foldl (fun t c =>
          chainFeed t c { stamp := st, vals := vs.map (· * 256), gap := false, sat := false }) u)) ∧
      (∀ u : State, flag s (MOT_IMU_CFG p) 30 = true →
        u = motIrq (bump (setImu s p { imuOf s p with busy := r, nacks := (imuOf s p).nacks + 1 }) (MOT_IMU_NACK_CNT p)) pgImu p 2 →
        exec (.imuTransactionDone p none now) s = .next (if (imuOf s p).nacks < 2 then u else motIrq (wrN u (MOT_IMU_STATUS p) imuLost) pgImu p 1))))

/-- Decimation chains: a value enters, or none comes. CHAIN_INPUT: the oldest waiting value of an enabled chain enters its
first stage, marked with GAP where 1.5 input periods have passed since the last; the lines and counts of every stage
become those of the stage computation, saturations are counted and pulse, and an output of the last stage goes on to
fusion. A disabled chain drops the value. NO_INPUT: 4 input periods after its last input, or after it began to warm
up, an enabled chain outside BIVOUAC is flushed, enters NO_INPUT and pulses; where FT has not reached the moment, time
passes first. -/
def Obligations.ChainsDecimateTheirInput : Prop :=
  (∀ (c : Nat) (full : Bool) (v : ChainVal) (r : List ChainVal) (s u : State), (chainOf s c).inq = v :: r →
    u = setChain s c { chainOf s c with inq := r } →
    (flag s (MOT_DEC_CFG c) 31 = false → exec (.chainInput c full) s = .next u) ∧
    (flag s (MOT_DEC_CFG c) 31 = true → inBivouac s = false → ∀ (last : Nat), (chainOf s c).lastIn = some last →
      (decState u c = cWarm ∨ decState u c = cRun) → ∀ (ls : List (List ChainVal)) (cs : List Nat) (o : Option ChainVal) (sats : Nat) (u2 u3 : State),
      runStages (decResp u c) 0 (decStages u c) (chainOf s c).lines (chainOf s c).cnt { v with gap := decide (3 * decTin s c < 2 * (v.stamp - last)) }
        = (ls, cs, o, sats) →
      u2 = setChain u c { chainOf u c with lines := ls, cnt := cs, lastIn := some v.stamp, seen := s.ft } →
      u3 = (if sats = 0 then u2 else motIrq (bumpN u2 (MOT_DEC_SAT_CNT c) sats) pgDec c 0) →
      exec (.chainInput c full) s = .next (match o with | none => u3 | some x => chainEmit u3 c x full))) ∧
  (∀ c : Nat, TimeFirst (.noInput c)) ∧
  (∀ (c now : Nat) (s : State), Reached s now → flag s (MOT_DEC_CFG c) 31 = true → (decState s c = cWarm ∨ decState s c = cRun) →
    inBivouac s = false → (chainOf s c).seen + 4 * decTin s c ≤ s.ft →
    exec (.noInput c now) s = .next (motIrq (wrN (chainFlush s c) (MOT_DEC_STATUS c) cNoInput) pgDec c 1))

/-- The issue of an instant, the BELAY hold, and late samples. Before a command's effect time passes up to its moment; for
FUSION_ISSUE, what the output block owes by then is written too. FUSION_ISSUE at or after t_k + ISSUE_DLY: the instant
that is next for the device is computed once (every encoder's estimate), and every bar of this device that has instant
k next takes the samples that belong to it and issues its result, unless in BELAY an expected sample is not visible;
before that moment nothing happens. BELAY_WAIT: a bar still held BELAY_WAIT_US beyond the nominal issue time ends the
jobs that use it with ERR_OVERRUN, records 0x0109 with the bar, pulses, and issues. LATE_SAMPLE: outside BELAY the
oldest output that became visible after its instant was issued is taken as late. -/
def Obligations.InstantsAreIssuedForEveryBar : Prop :=
  (∀ (k now : Nat) (s t : State), t = outDue (advance s now) →
    (t.ft < k * fusPeriod t + issueDly t → exec (.fusionIssue k now) s = .next t) ∧
    (k * fusPeriod t + issueDly t ≤ t.ft → nextInstant t k = true → ∀ (u : State) (l : Nat), u = computeInstant t k → u.fus.lastT = some l →
      k * fusPeriod u ≤ l → exec (.fusionIssue k now) s = .next (issueAll u k))) ∧
  (∀ b : Nat, TimeFirst (.belayWait b)) ∧ (∀ b n : Nat, TimeFirst (.lateSample b n)) ∧
  ∀ (now : Nat) (s : State), Reached s now →
    (∀ k : Nat, outDue s = s →
      (s.ft < k * fusPeriod s + issueDly s → exec (.fusionIssue k now) s = .next s) ∧
      (k * fusPeriod s + issueDly s ≤ s.ft → nextInstant s k = true → (computeInstant s k).fus.lastT = some (k * fusPeriod (computeInstant s k)) →
        exec (.fusionIssue k now) s = .next (issueAll (computeInstant s k) k))) ∧
    (∀ b k l : Nat, (bar s b).nextK = some k → s.fus.lastT = some l → k * fusPeriod s ≤ l → barOn s b = true → holds s b k = true →
      k * fusPeriod s + issueDly s + fld s FUS_LATE 15 0 * 1000 ≤ s.ft →
      exec (.belayWait b now) s = .next (issueBar (takeSamples
        (irq (recErr (endJobs s errOverrun (fun j => jobBar j b)) pgFus 0x0109 (word b)) pgFus 1) b k) b k)) ∧
    (∀ (b n k c : Nat) (o : ChainOut) (r : List ChainOut), (bar s b).nextK = some k → insChain s b n = some c → barOn s b = true → inBivouac s = false →
      untaken s c (insSlot s b n) = o :: r → instantOf s o.due < k →
      exec (.lateSample b n now) s = .next (takeSample b n c k s o))

/-- Bar enable and disable. With the checks passed and no disable pending: a FUS_BAR_CFG write that sets EN of a bar that
R216 does not refuse resets its sources, counters and results and makes the first instant after the present FT its
first; a refused one records the code and changes no field. A write that clears EN of an enabled bar discards and
counts its ports' waiting events and ends their pending registration. -/
def Obligations.BarsAreEnabledAndDisabled : Prop :=
  ∀ (w : Who) (b : Nat) (v : Word) (s u : State), b < 8 → checkAcc s w true 4 (FUS_BAR_CFG b) = .ok → disPend s (FUS_BAR_CFG b) = false →
    u = plainWrite s w (FUS_BAR_CFG b) v →
    (flag s (FUS_BAR_CFG b) 31 = false → v.toNat / 2 ^ 31 % 2 = 1 → barRefuse b u = none →
      exec (.barEnable w b v) s = .next (barEnable u b)) ∧
    (∀ c : Nat, flag s (FUS_BAR_CFG b) 31 = false → v.toNat / 2 ^ 31 % 2 = 1 → barRefuse b u = some c →
      exec (.barEnable w b v) s = .next (recErr s (headerPage (FUS_BAR_CFG b)) c (accInfo w true (FUS_BAR_CFG b)))) ∧
    (flag s (FUS_BAR_CFG b) 31 = true → v.toNat / 2 ^ 31 % 2 = 0 →
      exec (.barDisable w b v) s = .next (barDisable (setFlag s (FUS_BAR_CFG b) 31 false) b))

/-- Release of events, watermarks and FINAL. EVENT_RELEASE of a port's oldest event: without an enabled bar it is
discarded and counted; stamped before the bar's first instant it is discarded and counted; between two issued results
it is placed by them and sent, and one whose column lies off the sheet is counted; older than a full history it is
discarded, counted and passes GAP on; before its results exist it waits; while a word of the port waits for a credit,
nothing is released. PORT_WATERMARK: the watermark of the bar's latest instant that the stream has reached, and FINAL
after the last event of an ended stream; where a stream has followed the ended one, an EVENT_RELEASE ends that first. -/
def Obligations.EventsAreReleasedInOrder : Prop :=
  ∀ (p : Nat) (s : State),
    (srcBlocked s p = true → exec (.eventRelease p) s = .next s ∧ exec (.portWatermark p) s = .next s) ∧
    (srcBlocked s p = false → (port s p).old ≠ none → (port (endStream s p) p).old = none →
      exec (.eventRelease p) s = exec (.eventRelease p) (endStream s p)) ∧
    (∀ (e : WEvent) (r : List WEvent), srcBlocked s p = false → ((port s p).old = none ∨ endStream s p = s) → (port s p).waiting = e :: r →
      (barOf s p = none → exec (.eventRelease p) s = .next (discardEvent s p e r FUS_UNBARRED_CNT false)) ∧
      (∀ (b : Nat) (u : State), barOf s p = some b → u = portMark s p b →
        (16 * e.stamp < (bar u b).firstT.getD 0 → exec (.eventRelease p) s = .next (discardEvent u p e r FUS_UNBARRED_CNT false)) ∧
        ((bar u b).firstT.getD 0 ≤ 16 * e.stamp →
          (∀ q q' : Issued, around u b (16 * e.stamp) = some (q, q') → exec (.eventRelease p) s = .next (releaseEvent u b p e r q q')) ∧
          (around u b (16 * e.stamp) = none → (bar u b).hist.length = 1024 → (bar u b).hist.all (fun q => decide (16 * e.stamp < q.t)) = true →
            exec (.eventRelease p) s = .next (discardEvent u p e r FUS_HIST_DROP_CNT true)) ∧
          (around u b (16 * e.stamp) = none → (bar u b).hist.length < 1024 → exec (.eventRelease p) s = .next u)))) ∧
    (∀ b : Nat, srcBlocked s p = false → barOf s p = some b → ∀ u : State, u = portMark s p b →
      ((port u p).finalDue = false → exec (.portWatermark p) s = .next u) ∧
      ((port u p).finalDue = true → (port u p).old = none → (port u p).buf = [] → (port u p).spill = [] → (port u p).waiting = [] →
        exec (.portWatermark p) s = .next (sendFinal (updPort u p (fun x => { x with finalDue := false, old := none })) p)))

/-- Registration grids: commit, its end, and refinement. FUS_GRID_COMMIT by the host that owns the grid, with no
registration pending and a staging bank free of folds, swaps the banks at a registration cairn, or at once for a port
in no enabled bar; otherwise the write records its code (0x0103 ownership, 0x0105 pending, 0x0104 folds).
GRID_PEND_CLEAR: PEND of a port that has released every event before its registration cairn clears. MARK_MEASUREMENT:
a mark's deviation from its expected position is kept for the cycle; one of a legacy port or of tainted events is
rejected and counted. REFINEMENT_CYCLE, once FT has reached it, at a multiple of the period takes the overlaps,
corrects each port of an enabled bar in order, forgets the measurements and commits the changed grids together. -/
def Obligations.GridsAreCommittedAndRefined : Prop :=
  ∀ (p : Nat) (s : State),
    (∀ (w : Who) (v : Word), p < 32 → checkAcc s w true 4 (FUS_GRID_CTRL p) = .ok → nbit v.toNat 31 = true →
      (commitRefuse s p true = none →
        exec (.gridCommit w p v) s = .next (plainWrite (commitPorts s [p]) w (FUS_GRID_CTRL p) (putBits v 31 31 0))) ∧
      (∀ c : Nat, commitRefuse s p true = some c → exec (.gridCommit w p v) s =
        .next (plainWrite (recErr s (headerPage (FUS_GRID_CTRL p)) c (accInfo w true (FUS_GRID_CTRL p))) w (FUS_GRID_CTRL p) (putBits v 31 31 0)))) ∧
    (∀ g : Nat × Nat, s.fus.grids.find? (fun x => x.1 == p) = some g → gridPend s p = true → g.2 ≤ 16 * (port s p).lastStamp →
      (port s p).waiting.all (fun e => decide (g.2 ≤ 16 * e.stamp)) = true → exec (.gridPendClear p) s = .next (pendClear s p)) ∧
    (∀ (u v : Nat) (x y : Int),
      (isLegacy s p = true → ∀ tainted : Bool, exec (.markMeasurement p u v x y tainted) s = .next (rejectMeas s p)) ∧
      (isLegacy s p = false → (∃ b, barOf s p = some b) → (port s p).w ≠ 0 → (port s p).h ≠ 0 → ∀ g : Int × Int,
        g = gridMap s p (gridBank s p) (16 * (port s p).w) (16 * (port s p).h) u v →
        exec (.markMeasurement p u v x y false) s =
          .next { s with fus := { s.fus with meas := s.fus.meas ++ [{ port := p, ref := none, pos := [g.1, g.2], vals := [g.1 - x, g.2 - y] }] } })) ∧
    (∀ ovl : List (Nat × Int × Int × Bool), TimeFirst (fun now => .refinementCycle now ovl)) ∧
    (∀ (now c : Nat) (ovl : List (Nat × Int × Int × Bool)) (u : State), Reached s now →
      c = s.ft / (fld s FUS_REF_CFG 31 16 * 1000000) * (fld s FUS_REF_CFG 31 16 * 1000000) → s.fus.lastCycle < c →
      u = ovl.foldl takeOverlap { s with fus := { s.fus with lastCycle := c } } → ∀ r : State × List Nat,
      r = (List.range 32).foldl (fun (a : State × List Nat) q => match barOf a.1 q with
        | none => a
        | some b => ((refinePort a.1 (u.fus.meas.map (fun m => (m.port, m.ref, m.pos, m.vals))) b q).1,
            if (refinePort a.1 (u.fus.meas.map (fun m => (m.port, m.ref, m.pos, m.vals))) b q).2 then a.2 ++ [q] else a.2)) (u, []) →
      exec (.refinementCycle now ovl) s = .next (commitPorts { r.1 with fus := { r.1.fus with meas := [] } } r.2))

/-- Fan-out of spikes, and the region table by registers. SPIKE_FANOUT, while no word of the unit waits for a credit,
takes the word at the front of a cluster's fan-out unit: a WATERMARK goes on, a spike is served from its pinned entry
(an entry without V only counts), and the WATERMARKs behind it go out. FAB_RGN_WR with words that R247 does not refuse
writes them into the entry; a refused one records its code and leaves the entry. FAB_RGN_RD copies the entry into the
data registers. -/
def Obligations.SpikesFanOutAndRegionsAreWritten : Prop :=
  ∀ s : State,
    (∀ (c : Nat) (w : FabWord) (r : List FabWord), fanQ s c = w :: r → fanBlocked s c = false →
      (kindOf w.w ≠ kindMark → exec (.spikeFanout c) s = .next (drainMarks c r.length (serveSpike (setFanQ s c r) w))) ∧
      (kindOf w.w = kindMark → exec (.spikeFanout c) s = .next (drainMarks c r.length (sendFanMark (setFanQ s c r) w)))) ∧
    (∀ w : FabWord, (pinOf s (qf w.w 39 18)).v = false → serveSpike s w = bump s FAB_FO_INVALID_CNT) ∧
    (∀ (w : Who) (v : Word) (u : State) (e : Nat), checkAcc s w true 4 FAB_RGN_CTRL = .ok → u = plainWrite s w FAB_RGN_CTRL (putBits v 31 30 0) →
      e = fld u FAB_RGN_CTRL 7 0 →
      (nbit v.toNat 31 = true → nbit v.toNat 30 = false → rgnRefuse u e = none →
        exec (.fabRgnWr w v) s = .next ((List.range 4).foldl (fun t i => setRgnWord t e i (rd t (FAB_RGN_DATA i))) u)) ∧
      (∀ c : Nat, nbit v.toNat 31 = true → nbit v.toNat 30 = false → rgnRefuse u e = some c →
        exec (.fabRgnWr w v) s = .next (recErr u (headerPage FAB_RGN_CTRL) c (accInfo w true FAB_RGN_CTRL))) ∧
      (nbit v.toNat 31 = false → nbit v.toNat 30 = true →
        exec (.fabRgnRd w v) s = .next ((List.range 4).foldl (fun t i => wr t (FAB_RGN_DATA i) (rgnWord t e i)) u)))

/-- Surface slots: enable, words, windows and banks. Before a moment's effect time passes up to it; a builder goes on
while its tile runs. SB_SLOT_ENABLE of a slot with a sound descriptor empties and arms it; a refused one records its
code. SB_WORD_APPLY takes the first word that may be taken: data of the open window n is applied to its bank, data of
a closed window counts late and pulses. SB_WINDOW_CLOSE: with the bank prepared, no takeable word left, and every
known source's WATERMARK at or past the window's end, the window closes, its anchor signalled by 1. SB_CLOSE_TIMEOUT:
outside BELAY, SB_CLOSE_TMO_US past the window's end it closes whatever the WATERMARKs, once every takeable word is
taken. SB_BANK_PREPARE: once the bank's last window is released, its stale rows are cleared (copied from the other
bank for a time surface), and the slot is ready, the wait counted in fabric cycles. SB_STALL: a wait beyond 100 µs
pulses once, and one that outlasts the budget of the stage that holds the bank is charged to it. -/
def Obligations.SurfaceSlotsBuildTheirWindows : Prop :=
  ∀ (t k : Nat) (s : State),
    (∀ (w : Who) (v : Word) (u : State), checkAcc s w true 4 (slotCfg t k) = .ok → disPend s (slotCfg t k) = false →
      flag s (slotCfg t k) 31 = false → v.toNat / 2 ^ 31 % 2 = 1 → u = plainWrite s w (slotCfg t k) v →
      (slotRefuse t k u = none → exec (.sbSlotEnable w t k v) s = .next (slotArm u t k)) ∧
      (∀ c : Nat, slotRefuse t k u = some c →
        exec (.sbSlotEnable w t k v) s = .next (recErr s (headerPage (slotCfg t k)) c (accInfo w true (slotCfg t k))))) ∧
    (∀ (b n : Nat) (w : FabWord) (r : List FabWord) (u : State), sbRuns s t = true → (slotOf s t k).b = some b →
      takeWord (mayApply s t k b) [] (slotOf s t k).inq = some (w, r) →
      u = settle (setSlot s t k { slotOf s t k with inq := r, known := knowSrc (slotOf s t k).known w }) → isData w = true → n = winOf s t k b (stampOf w) → 0 < n →
      ((slotOf s t k).closed < n → exec (.sbWordApply t k) s = .next (applyWord u t k n w)) ∧
      (n ≤ (slotOf s t k).closed → exec (.sbWordApply t k) s = .next (sbIrq (bump u (SB_LATE_CNT (t / 16))) t k 0))) ∧
    TimeFirst (.sbWindowClose t k) ∧ TimeFirst (.sbCloseTimeout t k) ∧ TimeFirst (.sbBankPrepare t k) ∧ TimeFirst (.sbStall t k) ∧
    (∀ now b : Nat, Reached s now → (slotOf s t k).b = some b →
      (sbRuns s t = true → (slotOf s t k).ready = true → takeWord (mayApply s t k b) [] (slotOf s t k).inq = none →
        (knownMarks s t k ≠ [] → (knownMarks s t k).all (fun m => decide (winEnd s t k b ((slotOf s t k).closed + 1) ≤ m)) = true →
          exec (.sbWindowClose t k now) s = .next (closeWindow s t k)) ∧
        (knownMarks s t k = [] → winEnd s t k b ((slotOf s t k).closed + 1) ≤ s.ft → exec (.sbWindowClose t k now) s = .next (closeWindow s t k))) ∧
      (sbRuns s t = true → inBelay s = false →
        winEnd s t k b ((slotOf s t k).closed + 1) + fld s (SB_CLOSE_TMO (t / 16)) 15 0 * 1000 < s.ft →
        exec (.sbCloseTimeout t k now) s = .next (closeWindow (applyAll t k (slotOf s t k).inq.length s) t k)) ∧
      (∀ u v : State, (slotOf s t k).ready = false → sbRuns s t = true →
        ((slotOf s t k).met = true ∨ waitDone s (slotWait s (8 * t + k, slotOf s t k)) = true) →
        u = (if (sbType s t k == tyTs) = ((slotOf s t k).closed % 2 == 0) then (slotOf s t k).rows1 else (slotOf s t k).rows0).foldl
          (prepRow t k ((slotOf s t k).closed % 2) (sbType s t k == tyTs)) s →
        v = setSlot u t k (if (slotOf s t k).closed % 2 = 0
          then { slotOf u t k with ready := true, waitFt := none, met := false, charged := false, rows0 := [] }
          else { slotOf u t k with ready := true, waitFt := none, met := false, charged := false, rows1 := [] }) → ∀ f : Nat,
        f = s.ft * 8 / 5 - (slotOf s t k).waitFt.getD s.ft * 8 / 5 →
        exec (.sbBankPrepare t k now) s = .next (if f = 0 then v else bumpN v (SB_STALL_FCY (t / 16)) f)) ∧
      ((slotOf s t k).ready = false → (slotOf s t k).met = false → waitDone s (slotWait s (8 * t + k, slotOf s t k)) = false →
        ((slotOf s t k).stallPulsed = false → (slotOf s t k).waitFt.getD s.ft + 100000 < s.ft → exec (.sbStall t k now) s =
          .next (chargeStall (sbIrq (setSlot s t k { slotOf s t k with stallPulsed := true }) t k 1) t k)) ∧
        (((slotOf s t k).stallPulsed = true ∨ s.ft ≤ (slotOf s t k).waitFt.getD s.ft + 100000) →
          exec (.sbStall t k now) s = .next (chargeStall s t k))))

/-- Neuron cores: input words and the close of steps. NC_WORD_APPLY on a running core with its first step begun: the word
at the head of the input FIFO updates its source's position, and a data word counts late when its effective stamp lies
before the open step, is applied when it lies in it, and is held when it lies after it. Where FT has not reached a
moment, time passes first; a step closes while the core runs, waits at no boundary and its output finds room.
NC_STEP_CLOSE: a complete step closes. NC_DUE_TIME: outside BELAY, at the due time of a step that is not complete, a
backlog beyond the threshold stretches the step by one length while it may, and else drops it, counted and pulsed; a
smaller backlog closes it; the words received are placed before a close. NC_STRETCH.OVR = 2 stretches to the most at
once. -/
def Obligations.CoresTakeWordsAndCloseSteps : Prop :=
  ∀ (n : Nat) (s : State),
    (∀ (w : FabWord) (r : List FabWord) (b : Nat) (u : State), ncIn s n = w :: r → ncRuns s n = true → (ncOf s n).b = some b →
      u = settle (updNc (setNcIn s n r) n (fun x => { x with known := knowPos x.known w })) →
      (isData w = false → exec (.ncWordApply n) s = .next u) ∧
      (isData w = true →
        ((effStamp u n w < (ncOf u n).b.getD 0 ∨ effStamp u n w < (ncOf u n).stepStart) →
          exec (.ncWordApply n) s = .next (lateInput u n (effStamp u n w))) ∧
        ((ncOf u n).b.getD 0 ≤ effStamp u n w → (ncOf u n).stepStart ≤ effStamp u n w →
          (effStamp u n w < stepEnd u n → exec (.ncWordApply n) s = .next (applyInput n u w)) ∧
          (stepEnd u n ≤ effStamp u n w → exec (.ncWordApply n) s = .next (holdInput u n { w := w, eff := effStamp u n w }))))) ∧
    TimeFirst (.ncStepClose n) ∧ TimeFirst (.ncDueTime n) ∧
    (∀ now g : Nat, Reached s now → mayClose s n = true → g = stepEnd s n - frontier s n →
      (stepComplete s n = true → exec (.ncStepClose n now) s = .next (closeStep s n false)) ∧
      (stepComplete s n = false → (ncOf s n).belay = false → dueTime s n ≤ s.ft →
        (fld s (NC_STRETCH n) 25 24 = 2 → (ncOf s n).n < fld s (NC_STEP n) 13 12 + 1 →
          exec (.ncDueTime n now) s = .next (stretch s n (fld s (NC_STEP n) 13 12 + 1) g)) ∧
        (fld s (NC_STRETCH n) 25 24 = 0 →
          (g ≤ fld s (NC_STRETCH n) 23 0 * 16 → exec (.ncDueTime n now) s = .next (closeStep (takeInputs s n) n false)) ∧
          (fld s (NC_STRETCH n) 23 0 * 16 < g → (ncOf s n).n < fld s (NC_STEP n) 13 12 + 1 →
            exec (.ncDueTime n now) s = .next (stretch s n ((ncOf s n).n + 1) g))) ∧
        (fld s (NC_STRETCH n) 23 0 * 16 < g → (fld s (NC_STEP n) 13 12 + 1 ≤ (ncOf s n).n ∨ (fld s (NC_STRETCH n) 25 24 = 1 ∧ (ncOf s n).n = 1)) →
          exec (.ncDueTime n now) s = .next (closeStep (srcEvent
            (irq (stretchLog (bump (takeInputs s n) (NC_DROP_STEPS n)) n (ncOf s n).n rsnDrop g) (ncPage n) 1) evDrop n) n true))))

/-- Microinstructions: each performs its operation in its turn. With no skip in hand, each microinstruction of a core
performs its operation on the core's program register file, with the constants and the LUT of its class, and nothing
else changes (NOP leaves the file as it is; CMPTH also counts a saturated multiplicity in NC_SAT_CNT). With a skip in
hand it only lowers the skip count by one. -/
def Obligations.MicroinstructionsActOnTheRegisterFile : Prop :=
  ∀ (n : Nat) (i : UopF) (s : State) (e : UopEnv) (u : UopSt), u = uopSt s n → e = clsEnv s n u.cls → u.sat = 0 →
    ∀ put : UopSt → State, (∀ v, put v = { s with uop := tset uopD s.uop n { v with sat := 0 } }) →
    (u.skip = 0 →
      exec (.uopNop n i) s = .next (put u) ∧
      exec (.add n i) s = .next (put (uopAdd e i u)) ∧
      exec (.sub n i) s = .next (put (uopSub e i u)) ∧
      exec (.mulc n i) s = .next (put (uopMulc e i u)) ∧
      exec (.mac n i) s = .next (put (uopMac e i u)) ∧
      exec (.shr n i) s = .next (put (uopShr e i u)) ∧
      exec (.clamp n i) s = .next (put (uopClamp e i u)) ∧
      exec (.decay n i) s = .next (put (uopDecay e i u)) ∧
      exec (.uopReset n i) s = .next (put (uopReset e i u)) ∧
      exec (.refrac n i) s = .next (put (uopRefrac e i u)) ∧
      exec (.select n i) s = .next (put (uopSelect e i u)) ∧
      exec (.skip n i) s = .next (put (uopSkip e i u)) ∧
      exec (.cmpth n i) s = .next (if (uopCmpth e i u).sat = 0 then put (uopCmpth e i u)
        else bumpN (put (uopCmpth e i u)) (NC_SAT_CNT n) (uopCmpth e i u).sat)) ∧
    (0 < u.skip → ∀ c : Instr, c ∈ [.uopNop n i, .add n i, .sub n i, .mulc n i, .mac n i, .shr n i, .clamp n i, .decay n i, .cmpth n i,
        .uopReset n i, .refrac n i, .select n i, .skip n i] → exec c s = .next (put { u with skip := u.skip - 1 }))

/-- Integer results of the microinstructions. In an integer class: ADD, SUB, MULC, MAC, SHR and CLAMP write D with the
saturated result of R265 and R267 and set N and Z by it; SELECT copies A or B by the condition; SKIP takes its count
where the condition holds; CMPTH with a positive threshold and no refractory state sets F and M from floor(A /
threshold), at most 4. -/
def Obligations.IntegerMicroinstructionResults : Prop :=
  ∀ (e : UopEnv) (i : UopF) (u : UopSt), e.fp = false → u.r.length = 8 → i.d < 8 →
    ∀ res : Int → UopSt → Prop, (∀ v x, res v x ↔ (x = { u with r := u.r.set i.d (word (twos 32 (satS 32 v))), n := decide (satS 32 v < 0), z := decide (satS 32 v = 0) })) →
    res (uint u i.a + bkInt e u i) (uopAdd e i u) ∧
    res (uint u i.a - bkInt e u i) (uopSub e i u) ∧
    res (rshr (uint u i.a * kInt e i.k) (i.imm % 16)) (uopMulc e i u) ∧
    res (uint u i.d + rshr (uint u i.a * kInt e i.k) (i.imm % 16)) (uopMac e i u) ∧
    res (rshr (uint u i.a) (i.imm % 32)) (uopShr e i u) ∧
    res (min (max (uint u i.a) (kInt e i.k)) (kInt e (i.imm % 8))) (uopClamp e i u) ∧
    uopSelect e i u = setUreg u i.d (if cond u i.c then ureg u i.a else ureg u i.b) ∧
    (cond u i.c = true → uopSkip e i u = { u with skip := i.imm % 32 }) ∧
    (u.q = false → 0 < bkInt e u i → 0 ≤ uint u i.a → uint u i.a / bkInt e u i < 5 →
      (uopCmpth e i u).m = min 4 (uint u i.a / bkInt e u i).toNat ∧ (uopCmpth e i u).f = decide (1 ≤ uint u i.a / bkInt e u i))

/-- Tile commands: feeding, starting and completing. Where FT has reached the moment (else time passes first), on a
running tile: TILE_CMD_START queues a given command, or the passes of a layer, and starts the head when all its waits
are satisfied; a head released by a faulted anchor is decided ERR_ANC_FAULT without running. TILE_CMD_COMPLETE: the
head whose status is decided leaves its queue, is counted, and signals its anchor, or faults it where the status is an
error; a completion from before the tile's reset is a late reply. -/
def Obligations.TileCommandsStartAndComplete : Prop :=
  ∀ t q : Nat, (∀ (feed : Option TileCmd) (layer : Bool), TimeFirst (.tileCmdStart t q feed layer)) ∧
    (∀ late : Bool, TimeFirst (.tileCmdComplete t q late)) ∧
    ∀ (now : Nat) (s a : State), Reached s now → a = (if q = 0 then feedSplit s t (tileOf s t).split else s) →
    (tileRuns s t = true →
      (∀ layer : Bool, exec (.tileCmdStart t q none layer now) s = .next (startHead a t q)) ∧
      (∀ (layer : Bool) (c : TileCmd), exec (.tileCmdStart t q (some c) layer now) s = .next (startHead (feedWork a t q layer c) t q)) ∧
      (∀ c : TileCmd, q ≠ 0 → feedWork s t q false c = feedCmd s t q c) ∧
      (∀ (c : TileCmd) (r : List TileCmd) (st : Nat), (queueOf (tileOf s t) q).cmds = c :: r → (queueOf (tileOf s t) q).status = some st →
        (q ≠ 2 ∨ (tileOf s t).flight = []) → exec (.tileCmdComplete t q false now) s = .next (popHead (finishCmd s t q c st) t q))) ∧
    exec (.tileCmdComplete t q true now) s = .next (lateReply s t q) ∧
    (∀ (c : TileCmd) (r : List TileCmd) (x : QueueSt), x = queueOf (tileOf s t) q → x.cmds = c :: r → x.started = false →
      (queueWaits x).all (waitDone s) = true → releasedBad s x.met (queueWaits x) = true →
      startHead s t q = setTileStatus (match c.work with
        | .window _ => wrN (updQueue (countWait s t q) t q (fun x => { x with started := true, since := none })) (WW_LAST_OUT t) 0
        | _ => updQueue (countWait s t q) t q (fun x => { x with started := true, since := none })) t q 0x0103)

/-- Window commands: convolution, pooling and up-sampling. With the open head of a tile's queue a window command of the
row's operation, its checks passed, its halo headers fresh and no uncorrectable word in what it reads (its single-bit
errors corrected), CONV computes every output from the accumulator of its taps, and POOL_MAX, POOL_AVG, UP_NEAREST and
UP_BILINEAR write the maximum, the average, the nearest and the interpolated sample of every output position; the
head's status becomes OK. A head that fails a check takes that status, and one with a stale halo ERR_HALO_STALE;
neither writes its output. -/
def Obligations.WindowCommandsRun : Prop :=
  ∀ (t lo hi : Nat) (s : State) (c : TileCmd) (ws : List Nat) (k : Win) (u z : State), c.work = .window ws → k = winCmd ws →
    u = wrN s (WW_LAST_OUT t) (if k.sized ws then k.oh.toNat % 65536 * 65536 + k.ow.toNat % 65536 else 0) →
    z = correct u (k.headSpans (tileAt t)) →
    (∀ st : Nat, k.check s ws (tileAt t) = some st →
      (openHead s t 0 = some c → k.op = opConv → exec (.conv t lo hi) s = .next (setTileStatus u t 0 st)) ∧
      (openHead s t 1 = some c →
        (k.op = opPoolMax → exec (.poolMax t lo hi) s = .next (setTileStatus u t 1 st)) ∧
        (k.op = opPoolAvg → exec (.poolAvg t lo hi) s = .next (setTileStatus u t 1 st)) ∧
        (k.op = opUpNearest → exec (.upNearest t lo hi) s = .next (setTileStatus u t 1 st)) ∧
        (k.op = opUpBilinear → exec (.upBilinear t lo hi) s = .next (setTileStatus u t 1 st)))) ∧
    (k.check s ws (tileAt t) = none → badSpan u (k.headSpans (tileAt t)) = none →
      (k.halosOk z (tileAt t) c.job lo hi = false → openHead s t 0 = some c → k.op = opConv →
        exec (.conv t lo hi) s = .next (setTileStatus z t 0 0x0206)) ∧
      (k.halosOk z (tileAt t) c.job lo hi = true →
        (openHead s t 0 = some c → k.op = opConv →
          ∀ l : List (Nat × Nat), l = k.actSpans s (tileAt t) ++ k.paramSpans ((pairK k.a k.w).getD 32) (tileAt t) → badSpan z l = none →
          exec (.conv t lo hi) s =
            .next (setTileStatus (k.runConv t (cmdNum c) ((pairK k.a k.w).getD 32) (tileAt t) (correct z l)) t 0 okSt)) ∧
        (openHead s t 1 = some c → ∀ l : List (Nat × Nat), l = k.actSpans s (tileAt t) → badSpan z l = none →
          (k.op = opPoolMax → exec (.poolMax t lo hi) s =
            .next (setTileStatus (k.runPool t (tileAt t) [] (fun l => l.foldl (fun m e => fMax m e.1) .nan) (correct z l)) t 1 okSt)) ∧
          (k.op = opPoolAvg → exec (.poolAvg t lo hi) s =
            .next (setTileStatus (k.runPool t (tileAt t) (k.sampleCvts (correct z l) (tileAt t)) k.average (correct z l)) t 1 okSt))) ∧
        (openHead s t 1 = some c → ∀ l : List (Nat × Nat), l = k.upSpans s (tileAt t) → badSpan z l = none →
          (k.op = opUpNearest → exec (.upNearest t lo hi) s = .next (setTileStatus (k.runUp t (tileAt t) (correct z l)) t 1 okSt)) ∧
          (k.op = opUpBilinear → exec (.upBilinear t lo hi) s = .next (setTileStatus (k.runUp t (tileAt t) (correct z l)) t 1 okSt)))))

/-- The vector unit, element by element. With the open head of the vector queue the row's operation in good formats, not
empty, inside the tile's SRAM and without an uncorrectable word (the single-bit errors it meets corrected, the
conversions of its operands counted): every element of the output is the operation's value on the operands' elements
(INT32 modulo 2^32, else FP32 with one rounding), stored in the output's format, and the head's status becomes OK.
This covers ADD, SUB, MUL, FMA, MIN, MAX, ABS, NEG, CMP, SELECT, RELU, LEAKY, CLAMP, LUTFN, CVT and REQUANT; the
absolute value and the negative of −2^31 and RELU and CLAMP of a NaN, which the spec does not state, are free values
(log entry 24). -/
def Obligations.ElementwiseVectorOperations : Prop :=
  ∀ (t : Nat) (s : State) (cmd : TileCmd) (v : VecCmd), openHead s t 1 = some cmd → cmd.work = .vector v →
    0 < v.chans * v.plane → dataFmt v.oFmt = true → tileAt t + v.o + (vecT v v.oFmt (tileAt t + v.o)).size ≤ tileAt t + tileSize →
    ∀ (A B C : Tens), A = vecT v v.aFmt (tileAt t + v.a) → B = vecT v v.bFmt (tileAt t + v.b) → C = vecT v v.cFmt (tileAt t + v.c) →
    ∀ (good : List Tens → List (Nat × Nat) → Prop), (∀ l x, good l x ↔ (l.all (fun o => dataFmt o.f) = true ∧
      (l.flatMap tensSpan ++ x).any (fun e => decide (tileAt t + tileSize < e.1 + e.2)) = false ∧ badSpan s (l.flatMap tensSpan ++ x) = none)) →
    ∀ (out : List Tens → List (Nat × Nat) → (State → Nat → Nat → FVal) → State), (∀ l e f z, z = correct s (l.flatMap tensSpan ++ e) → out l e f = setTileStatus
      (bumpFree ((vecT v v.oFmt (tileAt t + v.o)).store t (fun c _ x => f z c x) (countCvts t z (readCvts z v l.length (tileAt t)))) (TT_BANK_CONFLICT_CCY t)) t 1 okSt) →
    ∀ (I : State → Tens → Nat → Nat → Int) (F X : State → Tens → Nat → Nat → FVal), (∀ z o c x, I z o c x = valInt (vExact z o c x)) →
      (∀ z o c x, F z o c x = vFp z o c x) → (∀ z o c x, X z o c x = vExact z o c x) →
    (good [A, B] [] →
      (v.op = 1 → exec (.vuAdd t) s = .next (out [A, B] [] (fun z c x => if vecInt v 2 then wrap32 (I z A c x + I z B c x) else q32 (fAdd (F z A c x) (F z B c x))))) ∧
      (v.op = 2 → exec (.vuSub t) s = .next (out [A, B] [] (fun z c x => if vecInt v 2 then wrap32 (I z A c x - I z B c x) else q32 (fAdd (F z A c x) (fNeg (F z B c x)))))) ∧
      (v.op = 3 → exec (.vuMul t) s = .next (out [A, B] [] (fun z c x => if vecInt v 2 then wrap32 (I z A c x * I z B c x) else q32 (fMul (F z A c x) (F z B c x))))) ∧
      (v.op = 5 → exec (.vuMin t) s = .next (out [A, B] [] (fun z c x => if vecInt v 2 then wrap32 (min (I z A c x) (I z B c x)) else fMin (F z A c x) (F z B c x)))) ∧
      (v.op = 6 → exec (.vuMax t) s = .next (out [A, B] [] (fun z c x => if vecInt v 2 then wrap32 (max (I z A c x) (I z B c x)) else fMax (F z A c x) (F z B c x)))) ∧
      (v.op = 9 → exec (.vuCmp t) s = .next (out [A, B] [] (fun z c x => f32 (if (if v.k0 = 0 then fEq (X z A c x) (X z B c x) else if v.k0 = 1 then fLt (X z A c x) (X z B c x)
        else fLe (X z A c x) (X z B c x)) then v.k1 else v.k2))))) ∧
    (good [A, B, C] [] →
      (v.op = 4 → exec (.vuFma t) s = .next (out [A, B, C] [] (fun z c x => fma (F z A c x) (F z B c x) (F z C c x)))) ∧
      (v.op = 10 → exec (.vuSelect t) s = .next (out [A, B, C] [] (fun z c x => if fIsZero (X z C c x) then X z B c x else X z A c x)))) ∧
    (good [A] [] →
      (v.op = 7 → exec (.vuAbs t) s = .next (out [A] [] (fun z c x => if vecInt v 1 then wrap32 (if I z A c x < 0 then negI 7 (I z A c x) else I z A c x) else fAbs (F z A c x)))) ∧
      (v.op = 8 → exec (.vuNeg t) s = .next (out [A] [] (fun z c x => if vecInt v 1 then wrap32 (negI 8 (I z A c x)) else fNeg (F z A c x)))) ∧
      (v.op = 11 → exec (.vuRelu t) s = .next (out [A] [] (fun z c x => if vecInt v 1 then wrap32 (actI 1 0 0 (I z A c x)) else actF 1 0 0 0 (F z A c x)))) ∧
      (v.op = 12 → exec (.vuLeaky t) s = .next (out [A] [] (fun z c x => actF 2 v.k0 0 0 (F z A c x)))) ∧
      (v.op = 13 → exec (.vuClamp t) s = .next (out [A] [] (fun z c x => if vecInt v 1 then fOf (actI 3 v.k0 v.k1 (I z A c x)) 0 else actF 3 0 v.k0 v.k1 (F z A c x)))) ∧
      (v.op = 15 → exec (.cvt t) s = .next (out [A] [] (fun z c x => X z A c x)))) ∧
    (good [A] [(tileAt t + v.c, 1028)] → v.op = 14 → exec (.lutfn t) s = .next (out [A] [(tileAt t + v.c, 1028)] (fun z c x => lutfn z (tileAt t + v.c) v.k0 v.k1 (F z A c x)))) ∧
    (good [A] [(tileAt t + v.c, 8 * v.chans)] → v.op = 16 → exec (.requant t) s = .next (out [A] [(tileAt t + v.c, 8 * v.chans)] (fun z c x =>
      if isInt v.oFmt then fOf ((if isInt v.aFmt then scaled (I z A c x) (sx 32 (sramNum z (tileAt t + v.c + 8 * c) 4)) (v.k0 % 64)
          else Config.quantFp (fConvert fmtFp32 (X z A c x)).1 (sramNum z (tileAt t + v.c + 8 * c) 4) (v.k0 % 64)) + sx 16 v.k1) 0
      else fma (cvt32 (X z A c x)) (f32 (sramNum z (tileAt t + v.c + 8 * c) 4)) (f32 (sramNum z (tileAt t + v.c + 8 * c + 4) 4)))))

/-- The vector unit's reductions. With the open head of the vector queue a reduction in good formats, not empty, inside
the tile's SRAM and without an uncorrectable word: every output is the reduction of its elements along the axis, in
chunks of 64 by the tree of R304: SUM, MAX and MIN on INT32 or FP32; ARGMAX gives the index of the largest element,
the lowest on a tie. -/
def Obligations.VectorReductions : Prop :=
  ∀ (t : Nat) (s : State) (cmd : TileCmd) (v : VecCmd) (A O : Tens), openHead s t 1 = some cmd → cmd.work = .vector v →
    A = vecT v v.aFmt (tileAt t + v.a) → O = redOut v (tileAt t) → dataFmt v.aFmt = true → dataFmt v.oFmt = true → 0 < v.chans * v.plane → 0 < O.c * O.x →
    A.base + A.size ≤ tileAt t + tileSize → O.base + O.size ≤ tileAt t + tileSize → badSpan s [(A.base, A.size)] = none →
    ∀ z : State, z = correct s [(A.base, A.size)] →
    ∀ (out : (Nat → Nat → FVal) → State), (∀ f, out f = setTileStatus
      (bumpFree (O.store t (fun c _ x => f c x) (countCvts t z (readCvts z v 1 (tileAt t)))) (TT_BANK_CONFLICT_CCY t)) t 1 okSt) →
    ∀ (I : Nat → Nat → List Int) (F : Nat → Nat → List FVal), (∀ c x, I c x = (redIdx v c x).map (fun e => valInt (vExact z A e.1 e.2))) →
      (∀ c x, F c x = (redIdx v c x).map (fun e => vFp z A e.1 e.2)) →
    (v.op = 17 → exec (.vuSum t) s = .next (out (fun c x =>
      if vecInt v 1 then wrap32 ((reduceBy (fun a b => sx 32 (twos 32 (a + b))) (I c x)).getD 0) else (reduceBy (fun a b => q32 (fAdd a b)) (F c x)).getD fZero))) ∧
    (v.op = 18 → exec (.vuReduceMax t) s = .next (out (fun c x =>
      if vecInt v 1 then wrap32 ((reduceBy max (I c x)).getD 0) else (reduceBy fMax (F c x)).getD fZero))) ∧
    (v.op = 19 → exec (.vuReduceMin t) s = .next (out (fun c x =>
      if vecInt v 1 then wrap32 ((reduceBy min (I c x)).getD 0) else (reduceBy fMin (F c x)).getD fZero))) ∧
    (v.op = 20 → exec (.argmax t) s = .next (out (fun c x => fOf ((argMax ((redIdx v c x).map (fun e => vExact z A e.1 e.2)) : Nat) : Int) 0)))

/-- Stash transfers, scrubbing, retention and tile sleep. STASH_TRANSFER: the open head of the stash queue that passes the
checks starts moving, at most 4 at once; one that fails takes its status. STASH_DONE: the oldest transfer in flight,
its source readable, has moved every row, its halo header last, and completes OK; a response from before a reset is a
late reply. Where FT has not reached a moment, time passes first. SRAM_SCRUB, a period after the last pass of a
cluster with scrubbing enabled, corrects and counts its words with one bit flipped and records the uncorrectable ones.
RETENTION_VERIFY, the unit on again, compares the 16 bank CRCs computed again with those kept, and shows PASS, or FAIL
with the banks that differ. TILE_SLEEP puts an idle, unbound tile to sleep: its SRAM enters retention where asked for
and is lost otherwise, and the tile is OFF; waking advances its GEN and makes it READY. -/
def Obligations.StashAndSleepMoveTileMemory : Prop :=
  ∀ (t : Nat) (s : State),
    (∀ (c : TileCmd) (x : StashXfer), openHead s t 2 = some c → c.work = .stash x →
      (∀ st : Nat, stashCheck t x = some st → exec (.stashTransfer t) s = .next (setTileStatus s t 2 st)) ∧
      (stashCheck t x = none → (tileOf s t).flight.length < 4 → exec (.stashTransfer t) s =
        .next (noteHead (updTile s t (fun y => { y with flight := y.flight ++ [c], sq := { cmds := y.sq.cmds.tail } })) t 2))) ∧
    (∀ late : Bool, TimeFirst (.stashDone t late)) ∧ (∀ (c : Nat) (before after : List Nat), TimeFirst (.sramScrub c before after)) ∧
    (∀ now : Nat, Reached s now → exec (.stashDone t true now) s = .next (lateReply s t 2)) ∧
    (∀ (now : Nat) (c : TileCmd) (x : StashXfer) (r : List TileCmd), Reached s now → s.pwr.pause = none → (tileOf s t).flight = c :: r →
      c.work = .stash x → (isMem x.src = true → (srcSpans x).any (fun e => memBad s e.1 e.2) = false) →
      (isMem x.src = false → badSpan s (srcSpans x) = none) →
      exec (.stashDone t false now) s = .next (finishStash (moveAll (if isMem x.src then s else correct s (srcSpans x)) t x) t c x okSt)) ∧
    (∀ (c now : Nat) (before after : List Nat) (words : List Nat → List Nat) (u v : State), Reached s now → flag s (CC_SCRUB c) 31 = true →
      s.pwr.pause = none → unitState s (ccPage c) ≠ stOff → tget natD s.scrubs c + fld s (CC_SCRUB c) 7 0 * 1000000000 ≤ s.ft →
      (∀ l, words l = (l.filter (ofCluster c)).map (· / 8)) →
      u = (words before).foldl upset { s with scrubs := tset natD s.scrubs c s.ft } →
      v = ((u.ce.map (·.1)).filter (fun w => ofCluster c (8 * w))).foldl correctWord u →
      exec (.sramScrub c before after now) s = .next ((words after).foldl upset
        (((u.poison.map (·.1)).filter (fun w => ofCluster c (8 * w))).foldl (fun s w => sramUe s (8 * w)) v))) ∧
    (t < 128 → (tileOf s t).crcs ≠ [] → unitState s (tilePage t) ≠ stOff → ∀ bad : List Nat, bad = (List.range 16).filter (fun b => decide (crc64 (bankBytes s t b) ≠ at0 (tileOf s t).crcs b)) →
      (bad = [] → exec (.retentionVerify t []) s = .next (wrN (setTile s t { tileOf s t with crcs := [] }) (retStat t) 1)) ∧
      (0 < bad.foldl (fun n b => n + 2 ^ b) 0 → exec (.retentionVerify t []) s =
        .next (irq (wrN (setTile s t { tileOf s t with crcs := [] }) (retStat t) (bad.foldl (fun n b => n + 2 ^ b) 0 * 65536 + 2)) (tilePage t) 2))) ∧
    ((tileOf s t).asleep = false → s.jobs.any (fun j => j.plan.tiles.contains t) = false → unitState s (tilePage t) = stReady → tileBusy s t = false →
      exec (.tileSleep t true) s = .next (setUnitState (updTile (retain s t (flag s (TT_RET_CTRL t) 0)) t (fun x => { x with asleep := true })) (tilePage t) stOff)) ∧
    ((tileOf s t).asleep = true → exec (.tileSleep t false) s = .next (setUnitState (advGen
      (setAwaiting (updTile s t (fun x => { x with asleep := false })) t true) (tilePage t)) (tilePage t) stReady))

/-- LEAN: the millisecond evaluation, the shadow checker, and changes of setting. Where FT has not reached a command's
moment, time passes first. LEAN_POLICY_TICK of a millisecond that is due takes the replays and beats, shows their
rate, and outside BELAY steps down and pulses when the rate passes the setting's ceiling, steps up after the
hysteresis with a clean window, and else leaves H. SAMPLE_COMPARE of the oldest sample counts the comparison; an equal
one advances the window, and one that differs is also recorded, counted and pulses. LEAN_CHANGE, with no mode change
due at its moment: a pending setting whose voltage is ready takes effect at a LEAN cairn. CHECKER_CFG_WRITE takes the
fields, and disabling the checker evaluates the policy anew. The bits of the captured values that a late transition
flipped are the command's operand. -/
def Obligations.LeanSettingFollowsTheEvidence : Prop :=
  (∀ (beats : Nat) (tts ncs : List (Nat × Nat)), TimeFirst (fun now => .leanPolicyTick now beats tts ncs)) ∧
  (∀ diff : Nat, TimeFirst (fun now => .sampleCompare now diff)) ∧
  (∀ (now : Nat) (s : State), exec (.leanChange now) s = exec (.leanChange now) (countLate (advance s now))) ∧
  (∀ (now beats : Nat) (tts ncs : List (Nat × Nat)) (s u : State) (n : Nat), Reached s now → s.pwr.pause = none → s.lean.last + 1000000 ≤ s.ft → 0 < beats →
    n = (tts ++ ncs).foldl (fun n e => n + e.2) 0 →
    ∀ r : State, r = wrN (countReplays (updLean s (fun l => { l with last := s.ft })) tts ncs beats) APX_REPLAY_RATE (satN 0xFFFFFFFF (n * 4294967296 / beats)) →
    inBivouac r = false → u = bump r (APX_RES_MS (leanCur r)) → inBelay u = false →
    (∀ c d : Nat, ceilOf (settingP u) = some (c, d) →
      (c * beats < n * d → exec (.leanPolicyTick now beats tts ncs) s = .next (irq (stepDown u rsCeil) pgApx 3)) ∧
      (n * d ≤ c * beats → leanOvr u ≠ 2 → leanH u < 4 → max u.lean.tDown u.lean.tUp + hystNs u * leanMult u ≤ u.ft → 1 ≤ u.lean.clean →
        ∀ z : State, z = updLean (setFld u APX_LEAN_STAT 20 18 (leanH u + 1)) (fun l => { l with clean := 0, tUp := u.ft }) →
        exec (.leanPolicyTick now beats tts ncs) s =
          .next (leanDecide (leanLog (bump z APX_STEP_UP_CNT) (settingP u) (settingFor z (mode z)) rsHystUp) rsHystUp)) ∧
      (n * d ≤ c * beats → u.lean.clean = 0 → exec (.leanPolicyTick now beats tts ncs) s = .next (leanDecide u rsHystUp)))) ∧
  (∀ (now diff : Nat) (s u : State) (x : Sample) (r : List Sample) (got : List Word), Reached s now → s.samples = x :: r →
    u = bumpWide { s with samples := r } APX_CHK_CMP_LO 1 →
    got = x.final.zipIdx.map (fun e => e.1 ^^^ word (diff / 2 ^ (32 * e.2) % 4294967296)) →
    (got = recompute x → fld u APX_CHK_WIN 11 0 ≠ 4095 → exec (.sampleCompare now diff) s = .next (setFld (setFld (updLean u (fun l => { l with mm := u.lean.mm })) APX_CHK_WIN 31 24 (satN 255 u.lean.mm))
      APX_CHK_WIN 11 0 (fld u APX_CHK_WIN 11 0 + 1))) ∧
    (∀ v : State, got ≠ recompute x → v = irq (setWide (wrN (wrN (bump u APX_CHK_MM_CNT) APX_CHK_LAST
      (0x80000000 + b2n x.neuron * 0x40000000 + x.setting * 0x8000000 + x.unit % 512 * 0x40000 + lastPlace x got)) APX_CHK_LAST_SEQ x.seq) APX_CHK_LAST_FT_LO x.ft) pgChk 0 →
    x.setting ≠ settingP v → fld v APX_CHK_WIN 11 0 ≠ 4095 →
    exec (.sampleCompare now diff) s = .next (setFld (setFld (updLean v (fun l => { l with mm := v.lean.mm })) APX_CHK_WIN 31 24 (satN 255 v.lean.mm))
      APX_CHK_WIN 11 0 (fld v APX_CHK_WIN 11 0 + 1)))) ∧
  (∀ (now : Nat) (s : State), Reached s now → countLate s = s → modeDue s = none → leanReady s = true →
    exec (.leanChange now) s = .next (retarget (takeSetting (insertCairn s rsnLean) (leanPendSet s) s.lean.why))) ∧
  (∀ (w : Who) (v : Word) (s u : State), checkAcc s w true 4 APX_CHK_CFG = .ok → boundTile s (bits v 22 16) = false → u = plainWrite s w APX_CHK_CFG v →
    (chkEn s = chkEn u → exec (.checkerCfgWrite w v) s = .next u) ∧
    (chkEn s = true → chkEn u = false → exec (.checkerCfgWrite w v) s = .next (leanDecide u rsChkOff)))

/-- Sheets, results and verdicts. Where nothing is owed at a command's moment (else time passes first, and what is owed is
written): SHEET_START when MP reaches the next sheet begins it, notes each enabled bar's first row, and shows its
number. VERDICT_RESULT makes its result final for a tile that owes its verdict; CHEAP_RESULT beyond the pair's
threshold is final at once, and one within it is escalated outside BELAY when the exact queue has room and the
deadline allows, and else is final with LEAN; EXACT_RESULT of an escalated tile is final and frees its place in the
queue. A result for a tile outside every grid only counts. VERDICT_DEADLINE lets time pass and writes, outside BELAY
and BIVOUAC, the verdicts whose deadlines have passed, in their order. -/
def Obligations.ResultsBecomeVerdictRecords : Prop :=
  TimeFirst .sheetStart ∧ (∀ (t : TileRef) (v : TileVal), OwedFirst (.verdictResult t v)) ∧
  (∀ (t : TileRef) (n m : Nat) (v : TileVal), OwedFirst (.cheapResult t n m v)) ∧ (∀ (t : TileRef) (n : Nat) (v : TileVal), OwedFirst (.exactResult t n v)) ∧
  (∀ (now : Nat) (s : State), exec (.verdictDeadline now) s = .next (passDeadlines (advance s now))) ∧
  (∀ s : State, inBelay s = false → inBivouac s = false → passDeadlines s = deadlines s.out.pend.length s) ∧
  ∀ (now : Nat) (s : State), NoneOwed s now →
    exec (.verdictDeadline now) s = .next s ∧
    (∀ t : Nat, flag s OUT_SHEET 31 = true → s.mp.hist ≠ [] → reached s (sheetM s (nextSheet s)) = some t → ∀ u : State,
      u = updOut s (fun o => { o with sheets := o.sheets ++ [{ j := nextSheet s, t := t }] }) →
      exec (.sheetStart now) s = .next (wrN ((List.range 8).foldl (fun x b => if barOn x b then fixRows x b else x) u) OUT_SHEET_CUR (twos 32 (nextSheet s)))) ∧
    (∀ (t : TileRef) (v : TileVal) (p : PendTile), inBivouac s = false → s.out.pend.find? (fun q => sameTile q t) = some p →
      exec (.verdictResult t v now) s = .next (finishTile s p { cls := v.cls, sev := v.sev, conf := v.conf, path := 2, lean := false }) ∧
      (∀ (n m tau : Nat) (xs : List Nat) (r : TileRes), pairPlan s n = some (tau, xs) → r = { cls := v.cls, sev := v.sev, conf := v.conf, path := 0, lean := false } →
        (f32Gt m (tauOf s n tau) = true → exec (.cheapResult t n m v now) s = .next (finishTile s p r)) ∧
        (f32Gt m (tauOf s n tau) = false → inBelay s = false →
          (s.ft + xpOf s xs + fld s APX_ESC_GUARD 15 0 * 1000 ≤ p.dl.getD (s.ft + (verdictBound s).getD 0) → qFill s n < qDepth s n →
            exec (.cheapResult t n m v now) s = .next (escalate s p n r)) ∧
          ((p.dl.getD (s.ft + (verdictBound s).getD 0) < s.ft + xpOf s xs + fld s APX_ESC_GUARD 15 0 * 1000 ∨ qDepth s n ≤ qFill s n) →
            exec (.cheapResult t n m v now) s = .next (finishTile (leanVerdict s n) p { r with lean := true })))) ∧
      (∀ n : Nat, p.pair = some n → p.waitQ = false → p.cheap.isSome = true →
        exec (.exactResult t n v now) s = .next (leaveQ (finishTile s p { cls := v.cls, sev := v.sev, conf := v.conf, path := 1, lean := false }) n))) ∧
    (∀ (t : TileRef) (v : TileVal), inBivouac s = false → s.out.pend.find? (fun q => sameTile q t) = none → writtenOf s t = none → earlyTile s t = none →
      exec (.verdictResult t v now) s = .next (bump s OUT_UNTILED_CNT))

/-- Corrections, HELD, and detections. Where nothing is owed at a command's moment (else time passes first, and what is
owed is written): CORRECTION_RESULT with more than 256 zones counts as bad; else, at an enabled unit of a running job
and for a sheet begun, its record is written, and a late one is counted as a miss and pulses (and is not written where
the unit drops late corrections outside BELAY). HELD writes every such record owed: the last correction of the unit,
for the oldest sheet owed first, each at its moment, counted with a pulse. DETECTION that no open track of its bar is
near opens a free track, which the tile's verdict will name, and one near a track extends it; with none free it
counts. -/
def Obligations.CorrectionsAndTracks : Prop :=
  (∀ (t : TileRef) (stamp cls : Nat) (x y : Int), OwedFirst (.detection t stamp cls x y)) ∧ (∀ u : Nat, OwedFirst (.held u)) ∧
  (∀ (u : Nat) (j : Int) (v : CorrVal), OwedFirst (.correctionResult u j v)) ∧
  ∀ (now : Nat) (s : State), NoneOwed s now →
    (∀ (u : Nat) (j : Int) (v : CorrVal), NoneOwed (unitHeld s u) now → unitHeld (unitHeld s u) u = unitHeld s u →
      exec (.correctionResult u j v now) s = exec (.correctionResult u j v now) (unitHeld s u)) ∧
    (∀ (u : Nat) (j : Int) (v : CorrVal), unitHeld s u = s → (256 < v.zones.length → exec (.correctionResult u j v now) s = .next (bump s OUT_CORR_BAD_CNT)) ∧
      (∀ (jb : JobSt) (dl : Option Nat) (b : Bool), v.zones.length ≤ 256 → unitJob s u = some jb → flag s (OUT_UNIT_CFG u) 31 = true → inBivouac s = false → sheetsOn s = true →
        s.out.sheets.any (fun sh => sh.j == j) = true → corrDeadline s j u = (dl, b) →
        (b = false → corrOf s jb.handle u j ≠ some true → exec (.correctionResult u j v now) s = .next (writeCorr s jb.handle u j v false false dl)) ∧
        ((b = true ∨ corrOf s jb.handle u j = some true) → (flag s (OUT_UNIT_CFG u) 30 = false ∨ inBelay s = true) →
          exec (.correctionResult u j v now) s = .next (writeCorr s jb.handle u j v false b dl)) ∧
        (b = false → corrOf s jb.handle u j = some true → flag s (OUT_UNIT_CFG u) 30 = true → inBelay s = false →
          exec (.correctionResult u j v now) s = .next s) ∧
        (b = true → flag s (OUT_UNIT_CFG u) 30 = true → inBelay s = false →
          exec (.correctionResult u j v now) s = .next (unitIrq (bump s (OUT_UNIT_MISS_CNT u)) u 0)))) ∧
    (∀ u : Nat, exec (.held u now) s = .next (unitHeld s u)) ∧
    (∀ (u : Nat) (jb : JobSt), unitJob s u = some jb → flag s (OUT_UNIT_CFG u) 31 = true → inBelay s = false → inBivouac s = false →
      sheetsOn s = true → fld s (OUT_UNIT_CFG u) 15 0 ≠ 0 → unitHeld s u = heldRecords jb.handle u s.out.sheets.length s) ∧
    (∀ (u job n t : Nat) (j : Int), heldDue s job u = some (j, t) →
      heldRecords job u (n + 1) s = heldRecords job u n (atMoment s t (fun x => writeHeld x job u j))) ∧
    (∀ (u job : Nat) (j : Int) (v : CorrVal),
      v = ((s.out.last.find? (fun e => e.1 == u)).map (fun e => { dx := e.2.1, dy := e.2.2.1, skew := e.2.2.2.1, zones := e.2.2.2.2 : CorrVal })).getD
        { dx := 0, dy := 0, skew := 0, zones := [] } →
      writeHeld s job u j = unitIrq (bump (writeCorr s job u j v true (corrDeadline s j u).2 (corrDeadline s j u).1) (OUT_UNIT_HELD_CNT u)) u 1) ∧
    (∀ (t : TileRef) (stamp cls : Nat) (x y : Int) (u : State) (sh : Nat), flag s OUT_TRACK_CFG 31 = true → inBivouac s = false →
      u = ((openTracks s).filter (fun i => nbits (trackNum s i 0 4) 30 28 == t.bar &&
        decide (trackNum s i 16 8 + fld s OUT_TRACK_CFG 15 0 * 1000000 < stamp))).foldl closeTrack s →
      sh = (match t.sheet with | some j => twos 32 j | none => 0x80000000) →
      (∀ i : Nat, nearest u t.bar cls stamp x y = some i → ∀ (z : State) (dt : Int), dt = (stamp : Int) - (trackNum u i 16 8 : Int) →
        z = tabWrite (tabWrite u (trackAt i + 4) (leBytes 4 (trackNum u i 4 4 + 1))) (trackAt i + 16) (leBytes 8 stamp ++ leBytes 4 (twos 32 x)
          ++ leBytes 4 (trackVel (x - sx 32 (trackNum u i 24 4)) dt) ++ leBytes 8 (twos 64 y) ++ leBytes 4 (trackVel (y - sx 64 (trackNum u i 32 8)) dt) ++ leBytes 4 sh) →
        exec (.detection t stamp cls x y now) s = .next (nameTrack t i z)) ∧
      (nearest u t.bar cls stamp x y = none →
        (freeTrack (openTracks u) 65537 0 = none → exec (.detection t stamp cls x y now) s = .next (bump u OUT_TRACK_FULL_CNT)) ∧
        (∀ i : Nat, freeTrack (openTracks u) 65537 0 = some i → exec (.detection t stamp cls x y now) s =
          .next (nameTrack t i (tabWrite u (trackAt i) (leBytes 4 (0x80000000 + t.bar * 0x10000000 + cls % 65536) ++ leBytes 4 1 ++ leBytes 8 stamp ++ leBytes 8 stamp
            ++ leBytes 4 (twos 32 x) ++ leBytes 4 0 ++ leBytes 8 (twos 64 y) ++ leBytes 4 0 ++ leBytes 4 sh ++ leBytes 4 0 ++ leBytes 12 0)))))) ∧
    (∀ (t : TileRef) (i : Nat), s.out.pend.any (fun p => sameTile p t) = true → nameTrack t i s = updOut s (fun o => { o with
      pend := o.pend.map (fun p => if sameTile p t then { p with track := some i } else p)
      written := o.written.map (fun w => if sameTile w.tile t then { w with tile := { w.tile with track := some i } } else w) }))

/-- Output streams: rings, vectors and datagrams. Where nothing is owed at a command's moment (else time passes first, and
what is owed is written): RECORD_DELIVER writes the oldest record owed to the ring at HEAD, where the function masters
the bus and the ring has room, padding to the ring's end where the record does not fit there, and moves HEAD behind
it. OUT_STR_TAIL_WRITE takes a multiple of 64 inside the ring, and drops any other value. RING_IRQ sends the stream's
vector when HEAD has moved and IRQ_US has passed. DATAGRAM_SEND sends the records that fit, when the next would not or
FLUSH_US has passed; with none owed nothing happens. -/
def Obligations.RecordsReachTheirDestinations : Prop :=
  (∀ n : Nat, OwedFirst (.recordDeliver n)) ∧ (∀ n : Nat, TimeFirst (.ringIrq n)) ∧ (∀ n : Nat, OwedFirst (.datagramSend n)) ∧
  ∀ (n now : Nat) (s : State), NoneOwed s now →
    (∀ r : OutRec, s.out.buf.find? (fun q => q.str == n && nbit q.dests 0) = some r → busMaster s (fld s (OUT_STR_CFG n) 18 11) = true →
      ∀ (pad h : Nat) (z u : State), pad = ringPad s n r.bytes.length → h = (if pad = 0 then ringHead s n else 64) →
      ringUsed s n + pad + r.bytes.length < ringBytes s n - 64 →
      z = (if pad = 0 then s else hostWrite s (ringBase s n + ringHead s n) (padRec s n pad)) → u = hostWrite z (ringBase z n + h) r.bytes →
      exec (.recordDeliver n now) s = .next (served (setHead u n (if h + r.bytes.length = ringBytes u n then 64 else h + r.bytes.length)) r 0)) ∧
    (∀ (w : Who) (v : Word), checkAcc s w true 4 (OUT_STR_TAIL n) = .ok →
      (v.toNat % 64 = 0 → 64 ≤ v.toNat → v.toNat < ringBytes s n → exec (.outStrTailWrite w n v) s =
        .next (setStr (wrN s (OUT_STR_TAIL n) v.toNat) n { strOf (wrN s (OUT_STR_TAIL n) v.toNat) n with
          high := decide (7 * (ringBytes (wrN s (OUT_STR_TAIL n) v.toNat) n - 64) < 8 * ringUsed (wrN s (OUT_STR_TAIL n) v.toNat) n) })) ∧
      ((v.toNat % 64 ≠ 0 ∨ v.toNat < 64 ∨ ringBytes s n ≤ v.toNat) → exec (.outStrTailWrite w n v) s = .next s)) ∧
    ((strOf s n).irqHead ≠ ringHead s n → ((strOf s n).irqFt = none ∨ ∃ t, (strOf s n).irqFt = some t ∧ t + fld s (OUT_STR_RING n) 31 21 * 1000 ≤ s.ft) → exec (.ringIrq n now) s =
      .next (sendMsix (setStr s n { strOf s n with irqHead := ringHead s n, irqFt := some s.ft }) (fld s (OUT_STR_CFG n) 18 11) (fld s (OUT_STR_CFG n) 10 0))) ∧
    (∀ (q recs : List OutRec), q = s.out.buf.filter (fun r => r.str == n && decide (2 ≤ r.dests)) → recs = fitRecs (fld s (OUT_STR_UDP n) 31 18 - 32) q →
      (recs = [] → exec (.datagramSend n now) s = .next s) ∧
      (∀ (r : OutRec) (rest : List OutRec), recs = r :: rest → recs.length = q.length → s.ft < r.ft + fld s (OUT_STR_UDP n) 15 0 * 1000 →
        exec (.datagramSend n now) s = .next s) ∧
      (∀ (r : OutRec) (rest : List OutRec) (ck : Nat) (s1 u : State) (body : List Byte) (ports : List Nat), recs = r :: rest →
        (recs.length ≠ q.length ∨ r.ft + fld s (OUT_STR_UDP n) 15 0 * 1000 ≤ s.ft) → drawNat s = (ck, s1) →
        body = leBytes 4 0x56524B48 ++ leBytes 1 1 ++ leBytes 1 n ++ leBytes 2 recs.length ++ leBytes 4 (strOf s n).dseq ++ leBytes 8 s.ft
          ++ txPt s (fld s (OUT_STR_CFG n) 24 22) ++ leBytes 2 ck ++ (recs.map (·.bytes)).flatten →
        ports = (List.range 2).filter (fun p => nbit r.dests (1 + p)) → u = setStr s1 n { strOf s n with dseq := ((strOf s n).dseq + 1) % 4294967296 } →
        exec (.datagramSend n now) s = .next (recs.foldl (fun t r => ports.foldl (fun x p =>
          match x.out.buf.find? (fun y => y.bytes == r.bytes && y.str == n && nbit y.dests (1 + p)) with
          | some y => served x y (1 + p)
          | none => x) t) (bumpN (updOut u (fun o => { o with sent := o.sent ++ ports.map (fun p =>
            { port := p, v6 := fld s (OUT_STR_UDP n) 17 16 == 1, src := (List.range 6).map (fun i => rdN s (ethAddr p i))
              dstIp := (List.range 4).map (fun i => rdN s (OUT_STR_DST_IP n i)), dstMac := rd64 s (OUT_STR_DST_MAC_LO n 0) (OUT_STR_DST_MAC_LO n 1)
              sport := fld s (OUT_STR_PORTS n) 15 0, dport := fld s (OUT_STR_PORTS n) 31 16, bytes := body }) })) (OUT_STR_DGRAM_CNT n) ports.length))))

/-- BIND, REBIND, UNBIND, PART_CFG, CC_RELOAD, and the cairns that complete them. In the binder's execution, the command's
partition noted in it: BIND whose payload, package and placement pass every check and whose report is written makes
the job and claims its anchors; a check that fails completes with its status and binds nothing. BIND_ACTIVATE (as
UNBIND_RELEASE once FT has reached its moment) at or after the start cairn makes the job bound and completes the
command with its handle. UNBIND of a bound or standby job makes it draining, with DRAIN by the command; of no job it
completes with ERR_NO_JOB. UNBIND_RELEASE past the end cairn, drained where it is to drain, flushes and releases the
job and completes. REBIND of a standby claims its anchors again where they have changed, and puts it in step 8 with
the loss interval's start. PART_CFG that moves no cluster of a busy or resetting partition writes every cluster's
partition; a reserved bit or a busy partition refuses it whole. CC_RELOAD of an idle partition reloads its clusters
where the helper image is sound. -/
def Obligations.BinderCommandsPlaceAndReleaseJobs : Prop :=
  (∀ (c q : Nat) (s : State) (k : CmdSt), binderCmd s c q 0x10 = some k → s.jobs.any (fun j => decide (j.cmd = some (c, q))) = false →
    ∀ (host : Option (List Byte)) (plan : BindPlan) (ok : Bool) (pay : List Byte) (j : JobSt) (z : State), payIn s c k host = .inr pay →
      z = inPart s c q (num pay 24 1 % 8) →
      j = newJob z c k pay (pkgDigest (memRead z (winAddr (ctxOf s c) (num pay 0 8)) 88)) plan →
      (bindCheck z (ctxOf s c) pay j (nbit (cmdTopt k) 0) = none → ∀ u : State, putReport z (ctxOf s c) pay j (nbit (cmdTopt k) 0) ok = some u →
        exec (.bind c q host plan ok) s = .next (takeJob u c q j)) ∧
      (∀ st : Nat, bindCheck z (ctxOf s c) pay j (nbit (cmdTopt k) 0) = some st → st ≠ stPkgDigest → st ≠ stPkgSig →
        exec (.bind c q host plan ok) s = .next (binderDone z c q st 0))) ∧
  (∀ h : Nat, TimeFirst (.bindActivate h)) ∧ (∀ h : Nat, TimeFirst (.unbindRelease h)) ∧
  (∀ (h now f c q : Nat) (s : State) (j : JobSt), Reached s now → jobOf s h = some j → j.phase = .binding → j.startFt = some f → j.cmd = some (c, q) → f ≤ s.ft →
    exec (.bindActivate h now) s = .next (binderDone (loseTiles ((planClusters j.plan).foldl (fun t x => irq t (ccPage x) 0)
      (showBind (updJob s h (fun y => { y with phase := .bound, cmd := none })) j 2)) { j with phase := .bound }) c q okSt h)) ∧
  (∀ (c q : Nat) (s : State) (k : CmdSt), binderCmd s c q 0x11 = some k →
    (jobOf s (cmdArg k) = none → exec (.unbind c q) s = .next (binderDone s c q 0x0108 0)) ∧
    (∀ j : JobSt, jobOf s (cmdArg k) = some j → partResets s j.part = false → (j.phase = .bound ∨ j.phase = .standby) → exec (.unbind c q) s =
      .next (showBind (updJob (inPart s c q j.part) j.handle (fun y => { y with phase := .draining, drain := nbit (cmdTopt k) 0, cmd := some (c, q) })) j 4))) ∧
  (∀ (h now e c q : Nat) (s : State) (j : JobSt), Reached s now → jobOf s h = some j → j.phase = .draining → j.endFt = some e → j.cmd = some (c, q) → e ≤ s.ft →
    (j.drain = false ∨ drained s j e = true) →
    exec (.unbindRelease h now) s = .next (binderDone ((planClusters j.plan).foldl (fun t x => irq t (ccPage x) 1) (releaseJob (flushJob s h) j)) c q okSt 0)) ∧
  (∀ (c q : Nat) (s : State) (k : CmdSt) (host : Option (List Byte)) (pay : List Byte) (j : JobSt), binderCmd s c q 0x12 = some k →
    s.jobs.any (fun j => decide (j.cmd = some (c, q))) = false → payIn s c k host = .inr pay → jobOf s (cmdArg k) = some j → j.phase = .standby → partResets s j.part = false →
    (inBelay s = false ∨ (List.range 8).any (fun b => jobBar j b && legacyBar s b) = false) → (planSlots j.plan).all (fanOk (inPart s c q j.part)) = true →
    ∀ (y : State × JobSt) (j1 : JobSt), y = (if j.ancGen.any (fun e => (anc s e.1).gen != e.2) then claimAnchors (inPart s c q j.part) j else (inPart s c q j.part, j)) →
    j1 = { y.2 with phase := .binding, cmd := some (c, q), lossFrom := some (num pay 0 8) } →
    exec (.rebind c q host) s = .next (showPairs (step8 (measureObj (updJob y.1 j.handle (fun _ => j1)) 0x0005 j.digest (leBytes 4 j.handle ++ leBytes 1 j.part)) j1))) ∧
  (∀ (c q : Nat) (s : State) (k : CmdSt) (host : Option (List Byte)) (pay : List Byte), binderCmd s c q 0x13 = some k → payIn s c k host = .inr pay →
    ((List.range 16).any (fun n => num pay n 1 / 8 % 16 != 0) = true → exec (.partCfg c q host) s = .next (binderDone s c q 0x0100 0)) ∧
    ((List.range 16).any (fun n => num pay n 1 / 8 % 16 != 0) = false →
      (∀ n < 16, partByte pay n = rdN s (CC_PART n) ∨ (∀ p, partOf s n = some p → partResets s p = false ∧ partBusy s p = false)) →
      exec (.partCfg c q host) s = .next (binderDone ((List.range 16).foldl (fun t n => wrN t (CC_PART n) (partByte pay n)) s) c q okSt 0))) ∧
  (∀ (c q : Nat) (s : State) (k : CmdSt), binderCmd s c q 0x14 = some k → partResets s (cmdArg k) = false → partBusy s (cmdArg k) = false → helperOk s 0x02 = true →
    exec (.ccReload c q) s = .next (binderDone ((partClusters s (cmdArg k)).foldl reloadCluster (inPart s c q (cmdArg k))) c q okSt s.boot.img))

/-- Submission, start, end and budget of host commands. DESCRIPTOR_SUBMIT by the function that owns the window: bytes that
complete a slot with VALID submit the descriptor that the slot holds, accepted in SEQ order or refused with a count
and a pulse; bytes that do not complete one are stored; a window of another function only counts and pulses. Where FT
has not reached a moment, time passes first. COMMAND_START starts the ready command: NEXT_SEQ moves past it, and a
failed check decides its status. COMMAND_END of a command whose status is decided signals, leaves its completion
record and ends; a record that host memory does not take puts the context in ERROR; one of a command that has ended
before is stale. BUDGET_EXPIRY of a command beyond its budget counts once in its window (a tile's is noted in its
queue) and charges the unit that owes the work. -/
def Obligations.CommandsAreSubmittedStartedAndEnded : Prop :=
  (∀ (fn off : Nat) (bs : List Byte) (s : State),
    (winCtx s fn off = none → exec (.descriptorSubmit fn off bs) s = .next (irq (bump s HIF_WIN_DENIED_CNT) pgHif 1)) ∧
    (∀ (c o : Nat) (u : State) (d : List Byte), winCtx s fn off = some c → o = off % 0x10000 → o < 0x8000 → 0 < bs.length → u = descWrite s (c * 32768 + o) bs →
      d = descRead u (c * 32768 + o / 64 * 64) 64 →
      (o % 64 + bs.length < 64 → exec (.descriptorSubmit fn off bs) s = .next u) ∧
      (o % 64 + bs.length = 64 → nbit (ofLe (d.drop 60)) 31 = true →
        (accepts u c (o / 64) (at0 (wordsOf 16 d) 14) = true → exec (.descriptorSubmit fn off bs) s = .next (markStartable
          (accept (updCtx u c (fun x => { x with cmds := insertCmd (rdN u (HIF_W_NEXT_SEQ c)) { seq := at0 (wordsOf 16 d) 14, words := wordsOf 16 d } x.cmds
                                                 recent := keep 16 (wordsOf 16 d :: x.recent) })) (.host c (at0 (wordsOf 16 d) 14))) c)) ∧
        (accepts u c (o / 64) (at0 (wordsOf 16 d) 14) = false →
          exec (.descriptorSubmit fn off bs) s = .next (irq (bump (bump u (HIF_W_REFUSE_CNT c)) HIF_SEQ_ERR_CNT) pgHif 0))))) ∧
  (∀ c : Nat, TimeFirst (.commandStart c)) ∧ (∀ (c q : Nat) (ok : Bool), TimeFirst (.commandEnd c q ok)) ∧ (∀ r : CmdRef, TimeFirst (.budgetExpiry r)) ∧
  (∀ (c now : Nat) (s : State) (k : CmdSt), Reached s now → readyCmd s c = some k →
    exec (.commandStart c now) s = .next (startCmd s c k) ∧
    (∀ st : Nat, startCheck s c k = some st → startCmd s c k = markStartable (wrN (updCmd s c k.seq (fun j => { j with
      started := true, cgen := (ctxOf s c).cgen, status := some st, snap := if cmdCode k = 0x04 then stampBytes s else [] })) (HIF_W_NEXT_SEQ c) (k.seq + 1)) c)) ∧
  (∀ (c q now st : Nat) (s : State) (k : CmdSt), Reached s now → cmdOf s c q = some k → k.status = some st →
    exec (.commandEnd c q true now) s = .next (markStartable (endCmd s c k st) c) ∧
    (isMgmt (ctxOf s c) = false → k.orphan = false → (ctxOf s c).held = [] → ringRoom s c = true →
      exec (.commandEnd c q false now) s = .next (markStartable (failRecord s c k st) c))) ∧
  (∀ (c q now : Nat) (ok : Bool) (s : State), Reached s now → cmdOf s c q = none → exec (.commandEnd c q ok now) s = .next (lateCompletion s c q)) ∧
  (∀ (c q now : Nat) (s : State) (k : CmdSt), Reached s now → cmdOf s c q = some k → hostExpired s c k = true →
    exec (.budgetExpiry (.host c q) now) s = .next (chargeExpiry
      (bump (updCmd s c q (fun j => { j with beyond := true })) (HIF_W_OVER_BUDGET_CNT c)) (.host c q))) ∧
  (∀ (t q n now : Nat) (s : State) (e : TileCmd × Bool), Reached s now → tileCmdOf s t q n = some e → tileExpired s t q e.1 = true →
    exec (.budgetExpiry (.tile t q n) now) s = .next (chargeExpiry (updQueue s t q (fun x => { x with beyond := true })) (.tile t q n)))

/-- NOP, COPY, FILL, STAMP and QUERY. A started command of the row's type with its status open: NOP completes OK; COPY
moves its bytes from host memory to the window, or from readable LPDDR5X to host memory, and completes OK with the
length, while a failed access to host memory completes with ERR_PAYLOAD (0x0104); FILL repeats its pattern over the
range; STAMP writes the 64 bytes caught at its start; QUERY writes as much of the bind report of a running job as the
length asks for, and of no running job completes with ERR_NO_JOB (0x0108). -/
def Obligations.SimpleCommandsMoveBytes : Prop :=
  ∀ (c q : Nat) (s : State) (k : CmdSt),
    (running1 s c q 0x01 = some k → exec (.nop c q) s = .next (setStatus s c q okSt 0)) ∧
    (running1 s c q 0x02 = some k → ∀ (a n : Nat), a = winAddr (ctxOf s c) (cmdArg k * 4096) → n = cmdLen k →
      (nbit (cmdTopt k) 0 = false → ∀ bs : List Byte, exec (.copy c q (some bs)) s = .next (setStatus (memWrite s a (padTo n bs)) c q okSt n)) ∧
      (nbit (cmdTopt k) 0 = true → memBad s a n = false → ∀ bs : List Byte,
        exec (.copy c q (some bs)) s = .next (setStatus (hostWrite s (cmdPay k) (memRead s a n)) c q okSt n)) ∧
      (nbit (cmdTopt k) 0 = false → exec (.copy c q none) s = .next (setStatus s c q 0x0104 0))) ∧
    (running1 s c q 0x03 = some k → exec (.fill c q) s =
      .next (setStatus (memWrite s (winAddr (ctxOf s c) (cmdPay k)) (patBytes (cmdArg k) (cmdLen k))) c q okSt (cmdLen k))) ∧
    (running1 s c q 0x04 = some k →
      (cmdDev k = true → ∀ ok : Bool, exec (.stamp c q ok) s = .next (setStatus (memWrite s (winAddr (ctxOf s c) (cmdPay k)) k.snap) c q okSt 0)) ∧
      (cmdDev k = false → exec (.stamp c q true) s = .next (setStatus (hostWrite s (cmdPay k) k.snap) c q okSt 0))) ∧
    (running1 s c q 0x05 = some k →
      (jobOf s (cmdArg k) = none → ∀ ok : Bool, exec (.query c q ok) s = .next (setStatus s c q 0x0108 0)) ∧
      (∀ j : JobSt, jobOf s (cmdArg k) = some j → running j = true → cmdDev k = false → exec (.query c q true) s =
        .next (setStatus (hostWrite s (cmdPay k) ((bindReport j).take (cmdLen k))) c q okSt ((bindReport j).take (cmdLen k)).length)))

/-- Rings, contexts, functions and vectors of the host interface. CQ_ENABLE of a disabled ring with a legal size and
vector sets its configuration, starts HEAD and TAIL at 0 with phase 1, leaves ERROR, and writes the held records;
CQ_HEAD_WRITE within the records written moves HEAD and writes held records; another value counts as refused.
HIF_W_ABORT with bit 0 requests an E1 step for the context. CONTEXT_ENABLE by the owner of a disabled context gives it
its function and enables it with the next generation and NEXT_SEQ 0. FLR takes the function's contexts, bus mastering
and vectors back to reset; BUS_MASTER_DISABLE takes its contexts as an FLR does, and function 0's ends the relay;
BUS_MASTER_ENABLE sends the pending unmasked vectors; SRIOV_DISABLE is an FLR of every virtual function;
LINK_HOT_RESET of the one ×16 link is an FLR of all functions, and the virtual functions lose their contexts;
VECTOR_UNMASK sends a pending vector. -/
def Obligations.FunctionsRingsAndContexts : Prop :=
  (∀ (fn off c : Nat) (v : Word) (s : State), winCtx s fn off = some c →
    (flag s (HIF_W_CQ_CFG c) 31 = false → bits v 31 31 = 1 → 6 ≤ bits v 24 20 → bits v 24 20 ≤ 20 → bits v 8 0 < vecCount (ctxOf s c).func →
      exec (.cqEnable fn off v) s = .next (markStartable (releaseHeld c (ctxOf s c).held.length (updCtx (wrN (wrN (wrN s (HIF_W_CQ_CFG c)
        (0x80000000 + bits v 30 30 * 0x40000000 + bits v 24 20 * 0x100000 + bits v 8 0)) (HIF_W_CQ_HEAD c) 0) (HIF_W_CQ_TAIL c) 0) c
        (fun x => { x with phase := true, error := false }))) c)) ∧
    (flag s (HIF_W_CQ_CFG c) 31 = true → bits v 19 0 < ringSize s c →
      (bits v 19 0 + ringSize s c - fld s (HIF_W_CQ_HEAD c) 19 0) % ringSize s c ≤ (fld s (HIF_W_CQ_TAIL c) 19 0 + ringSize s c - fld s (HIF_W_CQ_HEAD c) 19 0) % ringSize s c →
      exec (.cqHeadWrite fn off v) s = .next (releaseHeld c (ctxOf s c).held.length (wrN s (HIF_W_CQ_HEAD c) (bits v 19 0)))) ∧
    (ringSize s c ≤ bits v 19 0 → exec (.cqHeadWrite fn off v) s = .next (bump s (HIF_W_REFUSE_CNT c))) ∧
    (bits v 0 0 = 1 → exec (.hifWAbort fn off v) s = .next (autoTrigger s 1 (tgt tgCtx c) csAbort 0xFFFFFFFF 0))) ∧
  (∀ (w : Who) (v : Word) (s : State) (c : Nat), checkAcc s w true 4 HIF_CTX_OWN = .ok → w.cls = .owner → c = ctxSel s w → (ctxOf s c).en = false → bits v 15 8 < 2 → bits v 31 31 = 1 →
    exec (.contextEnable w v) s = .next (markStartable (ctxEnable (updCtx s c (fun x => { x with func := bits v 15 8 })) c) c)) ∧
  (∀ (f : Nat) (s u : State), u = (fnCtxs s f).foldl flrCtx s →
    (f ≠ 0 → exec (.flr f) s = .next { u with bme := tset boolD u.bme f false, msix := tclear u.msix (vecKey f 0) (vecKey f 512) }) ∧
    (f = 0 → exec (.flr f) s = .next (setFlag { u with bme := tset boolD u.bme 0 false, msix := tclear u.msix (vecKey 0 0) (vecKey 0 512) } LNK_RELAY_CFG 31 false))) ∧
  (∀ (f : Nat) (s : State), 
    (f ≠ 0 → exec (.busMasterDisable f) s = .next ((fnCtxs s f).foldl flrCtx { s with bme := tset boolD s.bme f false })) ∧
    (f = 0 → exec (.busMasterDisable f) s = .next (setFlag ((fnCtxs s f).foldl flrCtx { s with bme := tset boolD s.bme f false }) LNK_RELAY_CFG 31 false))) ∧
  (∀ (f : Nat) (s : State), exec (.busMasterEnable f) s =
    .next ((List.range (vecCount f)).foldl (fun t v => sendPending t f v) { s with bme := tset boolD s.bme f true })) ∧
  (∀ s : State, exec .sriovDisable s = .next (wrN ((List.range 64).foldl (fun t k => flrFn t (2 + k)) s) HIF_NUM_VFS 0)) ∧
  (∀ (link : Nat) (s : State), flag s HIF_LINK 31 = false → exec (.linkHotReset link) s = .next (dropVfs ((List.range 66).foldl flrFn s))) ∧
  (∀ (f v : Nat) (s : State), v < vecCount f → exec (.vectorUnmask f v) s = .next (sendPending (setVec s f v { vecOf s f v with masked := false }) f v))

/-- Link ports: training, loss, replay and failback. On ports 0 to 3, where FT has reached a moment (else time passes
first), and with no JTAG instruction that takes the pins: a signal in DETECT starts training; training on 8 lanes (or
4 where allowed) within 20 ms locks the port in HELLO with no failed attempt counted; a timeout fails the attempt, and
a FAULT is retried after 1 s. LINK_DOWN of a locked port returns it to DETECT, counts, pulses and notices (by replays
only beyond their limit). FAILBACK after UP for FAILBACK_MS and the gap sends entries on their primary port again.
FEC_UNCORRECTABLE counts and asks by NAK for the first lost flit; NAK sends the flits from the named one on again and
counts a replay. -/
def Obligations.PortsTrainAndFall : Prop :=
  (∀ p : Nat, TimeFirst (.linkSignalDetect p)) ∧ (∀ p lanes : Nat, TimeFirst (.linkTrained p lanes)) ∧ (∀ p : Nat, TimeFirst (.linkTrainTimeout p)) ∧
  (∀ p : Nat, TimeFirst (.linkFaultRetry p)) ∧ (∀ (p : Nat) (why : LinkLoss), TimeFirst (.linkDown p why)) ∧ (∀ p : Nat, TimeFirst (.failback p)) ∧
  (∀ p n : Nat, TimeFirst (.nak p n)) ∧
  ∀ (p now : Nat) (s : State), p < 4 → Reached s now →
    (lnkState s p = lkDetect → pinsTaken s = false → exec (.linkSignalDetect p now) s = .next (setLnkState (updLnk s p (fun x => { x with trainAt := s.ft })) p lkTrain)) ∧
    (lnkState s p = lkTrain → pinsTaken s = false → s.ft ≤ (lnk s p).trainAt + 20000000 → ∀ lanes : Nat, (lanes = 8 ∨ (lanes = 4 ∧ flag s (LNK_CFG p) 30 = true)) →
      exec (.linkTrained p lanes now) s = .next (setFld (setFlag (setFld (setLnkState s p lkHello) (LNK_STATUS p) 15 12 lanes) (LNK_STATUS p) 11 true) (LNK_STATUS p) 7 0 0)) ∧
    (lnkState s p = lkTrain → (lnk s p).trainAt + 20000000 ≤ s.ft → exec (.linkTrainTimeout p now) s = .next (trainFailed s p)) ∧
    (lnkState s p = lkFault → (lnk s p).faultAt + 1000000000 ≤ s.ft →
      exec (.linkFaultRetry p now) s = .next (setLnkState (updLnk s p (fun x => { x with trainAt := s.ft })) p lkTrain)) ∧
    (∀ why : LinkLoss, locked s p = true → (why = .replays → fld s (LNK_CFG p) 7 0 < lateReplays s p) →
      exec (.linkDown p why now) s = .next (notice (irq (bump (portFall s p lkDetect) (LNK_DOWN_CNT p)) (pgPortL p) 1) 0x0002 p [])) ∧
    ((lnk s p).failed = true → lnkState s p = lkUp → (lnk s p).upAt + fld s LNK_SW_CFG 15 0 * 1000000 + fld s LNK_SW_CFG 23 16 * 1000 ≤ s.ft →
      exec (.failback p now) s = .next (updLnk s p (fun x => { x with failed := false }))) ∧
    (locked s p = true → exec (.fecUncorrectable p) s = .next (updLnk (bump s (LNK_FEC_UNCORR_CNT p)) p (fun x => { x with naks := x.naks ++ [x.rxFlit] }))) ∧
    (∀ (n : Nat) (e : Nat × Frame × Nat), (lnk s p).buf.find? (fun x => x.1 == n) = some e → locked s p = true →
      exec (.nak p n now) s = .next (updLnk (bump s (LNK_REPLAY_CNT p)) p (fun x => { x with
        replays := s.ft :: x.replays.filter (fun t => decide (s.ft < t + 1000000))
        resent := x.resent ++ ((lnk s p).buf.dropWhile (fun e => e.1 != n)).map (fun e => (e.1, flitBytes e.2.1 e.2.2)) })))

/-- HELLO, routing, heartbeat and relay. Where FT has not reached a moment, time passes first. HELLO_SEND every 100 µs on
a locked port sends a HELLO with the next sequence number; a valid HELLO that arrives is processed as an arriving
frame; PEER_SILENT 300 µs after the last clears the peer, counts and notices. FRAME_ROUTE routes the oldest own frame,
or one that arrives; a frame whose type and channel disagree counts; one without TTL counts; one for an address
without an entry counts and pulses. HEARTBEAT every 250 µs goes to the fabric manager. RELAY_TX_HEAD_WRITE inside the
ring moves HEAD, and with the relay on the slots up to it are routed; RELAY_IRQ sends the vector at most every 10 µs. -/
def Obligations.FramesAreRoutedAndGreeted : Prop :=
  (∀ p : Nat, TimeFirst (.helloSend p)) ∧ (∀ (p : Nat) (f : Frame), TimeFirst (.hello p f)) ∧ (∀ p : Nat, TimeFirst (.peerSilent p)) ∧
  (∀ x : FrameIn, TimeFirst (.frameRoute x)) ∧ TimeFirst .heartbeat ∧ TimeFirst .relayIrq ∧
  ∀ (now : Nat) (s : State), Reached s now →
    (∀ (p : Nat) (f : Frame), p < 4 → locked s p = true → ((lnk s p).helloTx = none ∨ ∃ t, (lnk s p).helloTx = some t ∧ t + 100000 ≤ s.ft) →
      f = { typ := 0x01, vc := 0, sr := false, clsB := false, dst := 0xFFF, src := fld s LNK_ADDR 11 0, ttl := fld s LNK_SW_CFG 31 24 - 1
            sgen := fld s LNK_GEN 7 0, seq := tget natD s.txSeq 16380, codes := [], payload := helloBytes s p, bad := 0 } →
      exec (.helloSend p now) s = .next (bufferFlits (updLnk { bump s (LNK_TX_FRAMES p) with
        sent := s.sent ++ [(p, f)], txSeq := tset natD s.txSeq 16380 ((tget natD s.txSeq 16380 + 1) % 4294967296) } p (fun x => { x with helloTx := some s.ft })) p f)) ∧
    (∀ (p : Nat) (f : Frame), p < 4 → helloOk f = true → exec (.hello p f now) s = .next (arriveFrame s p f)) ∧
    (∀ (p t : Nat), p < 4 → flag s (LNK_STATUS p) 10 = true → (lnk s p).helloRx = some t → t + 300000 ≤ s.ft →
      exec (.peerSilent p now) s = .next (notice (bump (setFlag s (LNK_STATUS p) 10 false) (LNK_HELLO_MISS_CNT p)) 0x0004 p [])) ∧
    (∀ (f : Frame) (r : List Frame), s.txq = f :: r → exec (.frameRoute .own now) s = .next (routeFrame { s with txq := r } none f)) ∧
    (∀ (p : Nat) (f : Frame), p < 4 → exec (.frameRoute (.arrive p f) now) s = .next (arriveFrame s p f)) ∧
    (∀ (inp : Option Nat) (f : Frame),
      (typeOk f = false → routeFrame s inp f = bump s LNK_SR_BAD_CNT) ∧
      (typeOk f = true → (f.dst ≠ 0xFFF ∨ f.sr = true) → f.ttl = 0 → routeFrame s inp f = bump s LNK_TTL_CNT) ∧
      (typeOk f = true → f.dst ≠ 0xFFF → f.dst ≠ fmAddr → f.sr = false → f.ttl ≠ 0 → entryV s f.dst = false →
        routeFrame s inp f = irq (bump s LNK_NOROUTE_CNT) pgLnk 0)) ∧
    (s.ladder.wdtOut = false → (s.relay.beat = none ∨ ∃ t, s.relay.beat = some t ∧ t + 250000 ≤ s.ft) →
      exec (.heartbeat now) s = .next (sendFrame { s with relay := { s.relay with beat := some s.ft } } 0x05 0 fmAddr (beatBytes s))) ∧
    (∀ (w : Who) (v : Word) (slots : List (List Byte)), checkAcc s w true 4 LNK_RELAY_TX_HEAD = .ok → bits v 11 0 < relaySize s →
      (relayOn s = false → exec (.relayTxHeadWrite w v slots) s = .next (setFld s LNK_RELAY_TX_HEAD 11 0 (bits v 11 0))) ∧
      (relayOn s = true → exec (.relayTxHeadWrite w v slots) s = .next (relayTx (setFld s LNK_RELAY_TX_HEAD 11 0 (bits v 11 0)) (bits v 11 0) slots))) ∧
    (relayOn s = true → s.relay.moved = true → (s.relay.last = none ∨ ∃ t, s.relay.last = some t ∧ t + 10000 ≤ s.ft) → exec (.relayIrq now) s =
      .next (sendMsix { s with relay := { s.relay with moved := false, last := some s.ft } } 0 (fld s LNK_RELAY_CFG 8 0)))

/-- Frames for this device: register, command, bulk and stream. The oldest delivered frame of its type: a REG request is
carried out in order as the fabric class and answered, and a malformed one only counts; CMD with a whole descriptor
with VALID for a management context submits it; BULK_WRITE inside the context's window stores its bytes and is
answered OK, outside it is answered with code 5; BULK_READ answers the bytes; STREAM, while no word of one waits for a
credit, is taken by every remote bar that names its source and number. -/
def Obligations.DeliveredFramesAreServed : Prop :=
  ∀ s : State,
    (∀ (f : Frame) (u t : State), takeInbox s (fun f => f.typ == 0x02) = some (f, u) → fieldN f.payload 4 1 ≠ 0x81 → fieldN f.payload 4 1 ≠ 0x82 →
      (∀ r : List Byte, regRequest u whoFabric f.payload = (t, some r) → exec .reg s = .next (sendFrame t 0x02 0 f.src r)) ∧
      (regRequest u whoFabric f.payload = (t, none) → exec .reg s = .next t)) ∧
    (∀ p : List Byte, regOk p = false → regRequest s whoFabric p = (bump s LNK_SR_BAD_CNT, none)) ∧
    (∀ (f : Frame) (u : State) (c : Nat) (d : List Byte), takeInbox s (fun f => f.typ == 0x03) = some (f, u) → f.payload.length = 72 → c = ofLe (f.payload.take 2) % 1024 →
      d = (f.payload.drop 8).take 64 →
      (isMgmt (ctxOf u c) = true → nbit (ofLe (d.drop 60)) 31 = true → exec .cmd s = .next (submit u c (at0 (wordsOf 16 d) 14 % 512) d)) ∧
      (isMgmt (ctxOf u c) = false → exec .cmd s = .next (winDenied u))) ∧
    (∀ (f : Frame) (u : State), takeInbox s (fun f => f.typ == 0x08 && bulkOp f == 0x01 && decide (16 ≤ f.payload.length)) = some (f, u) →
      (inWindow (ctxOf u (bulkCtx f)) (bulkOff f) (f.payload.drop 16).length = true →
        exec .bulkWrite s = .next (bulkAnswer (memWrite u (winAddr (ctxOf u (bulkCtx f)) (bulkOff f)) (f.payload.drop 16)) f 0x81 0x00 [])) ∧
      (inWindow (ctxOf u (bulkCtx f)) (bulkOff f) (f.payload.drop 16).length = false → exec .bulkWrite s = .next (bulkAnswer u f 0x81 0x05 []))) ∧
    (∀ (f : Frame) (u : State) (n a : Nat), takeInbox s (fun f => f.typ == 0x08 && bulkOp f == 0x02 && f.payload.length == 20
        && decide (ofLe (f.payload.drop 16) ≤ 2032)) = some (f, u) → n = ofLe (f.payload.drop 16) → a = winAddr (ctxOf u (bulkCtx f)) (bulkOff f) →
      inWindow (ctxOf u (bulkCtx f)) (bulkOff f) n = true → memBad u a n = false → exec .bulkRead s = .next (bulkAnswer u f 0x82 0x00 (memRead u a n))) ∧
    TimeFirst .stream ∧
    (∀ (now : Nat) (f : Frame) (u : State), Reached s now → (List.range 32).any (srcBlocked s) = false → takeInbox s (fun f => f.typ == 0x10) = some (f, u) →
      exec (.stream now) s = .next (((List.range 8).filter (fun b => isRemote u b && fld u (LNK_RBAR b) 11 0 == f.src
        && fld u (LNK_RBAR b) 14 12 == ofLe (f.payload.take 1))).foldl (takeStream f) u))

/-- The recovery ladder: steps E1 to E5 and their bounds. Where FT has not reached a moment, time passes first. With no
step in progress and outside HALTED, the trigger at the front of the queue starts when it is of the row's level. E1's
finish ends its step; a step of E2, E3 or E4 in its dump phase keeps its dump, once that may end, and resets its
units; its finish in the reset phase, with its units' requests answered and nothing to replay, ends it, escalating
when the level was taken too often. E5's power cycle comes 1 ms after its start, logged to flash. STEP_TIMEOUT: a
reset that outlasts its bound escalates. PWRCYC_HOLD_EXPIRY: still powered after HOLD_MS, the device is halted and the
E5 ends as failed. -/
def Obligations.RecoveryStepsRunInOrder : Prop :=
  (∀ x : StepIn, TimeFirst (.e1Step x) ∧ TimeFirst (.e2Step x) ∧ TimeFirst (.e3Step x) ∧ TimeFirst (.e4Step x) ∧ TimeFirst (.e5Step x)) ∧
  TimeFirst .stepTimeout ∧ TimeFirst .pwrcycHoldExpiry ∧
  (∀ (now : Nat) (s : State) (t : Trigger) (r : List Trigger), Reached s now → s.ladder.cur = none → s.triggers = t :: r → s.ladder.halted = false →
    ∀ u : State, u = runStep (showQueue { s with triggers := r }) t →
    (t.step = 1 → exec (.e1Step .start now) s = .next u) ∧ (t.step = 2 → exec (.e2Step .start now) s = .next u) ∧
    (t.step = 3 → exec (.e3Step .start now) s = .next u) ∧ (t.step = 4 → exec (.e4Step .start now) s = .next u) ∧
    (t.step = 5 → exec (.e5Step .start now) s = .next u)) ∧
  (∀ (now : Nat) (s : State) (t : Trigger) (d : DumpIn), Reached s now → s.ladder.cur = some t →
    (t.step = 1 → exec (.e1Step .finish now) s = .next (doneStep s t)) ∧
    (phase s = phDump → dumpMay s d = true → (t.step = 2 → exec (.e2Step (.dumped d) now) s = .next (resetUnits (dumpStep s t d) t)) ∧
      (t.step = 3 → exec (.e3Step (.dumped d) now) s = .next (resetUnits (dumpStep s t d) t)) ∧
      (t.step = 4 → exec (.e4Step (.dumped d) now) s = .next (resetUnits (dumpStep s t d) t))) ∧
    (phase s = phReset → answered s t = true → replays s t = false → (t.step = 2 → exec (.e2Step .finish now) s = .next (doneStep s t)) ∧
      (t.step = 3 → exec (.e3Step .finish now) s = .next (doneStep s t)) ∧ (t.step = 4 → exec (.e4Step .finish now) s = .next (doneStep s t))) ∧
    (∀ m : Nat, maxSteps s t.step = some m → m < stepsTaken s t → doneStep s t = stepAbove s t csRepeat) ∧
    (t.step = 5 → s.pwr.trip = false → s.pwr.cyc = none → s.ladder.begun + 1000000 ≤ s.ft → ∀ (v : Nat) (u : State), logAppend s v (e5Bytes s t) = (u, true) →
      exec (.e5Step (.cycle v) now) s = .next (updPwr u (fun p => { p with cyc := some u.ft }))) ∧
    (t.step < 5 → phase s = phReset → s.ladder.begun + stepBound s t < s.ft → exec (.stepTimeout now) s = .next (stepAbove s t csEscalated)) ∧
    (∀ f : Nat, t.step = 5 → s.pwr.cyc = some f → f + fld s REC_PWRCYC 15 0 * 1000000 ≤ s.ft →
      exec (.pwrcycHoldExpiry now) s = .next (endRun (halt (updPwr s (fun p => { p with cyc := none }))) t stPwrCyc 1)))

/-- Unit errors, heartbeats and watchdogs. Where FT has not reached a moment, time passes first. UNIT_ERROR of a core in
ERROR under COMMAND triggers an E2 of it; REC_HEARTBEAT every 1 ms counts and restarts the warden's watchdog;
WARDEN_WDT of a powered device after WDT_MS logs to flash (where no thermal trip holds the lines), and with power
cycling enabled drives it; HELPER_WDT of a helper that is no partition's controller reloads it alone, and of a
partition's controller triggers an E3 of the partition. UNIT_REJOIN of a READY unit that jobs asked for rebinds it. -/
def Obligations.WatchdogsAndErrorsTriggerTheLadder : Prop :=
  (∀ (n : Nat) (s : State), unitState s (ncPage n) = stError → hangCommand s = true →
    exec (.unitError n) s = .next (autoTrigger s 2 (tgt tgCore n) csUnitError 0xFFFFFFFF 0)) ∧
  TimeFirst .recHeartbeat ∧ (∀ v : Nat, TimeFirst (.wardenWdt v)) ∧ (∀ h : Nat, TimeFirst (.helperWdt h)) ∧ (∀ u : Nat, TimeFirst (.unitRejoin u)) ∧
  (∀ (now : Nat) (s : State), Reached s now → s.ladder.wdtOut = false →
    (s.ladder.wdt + 1000000 ≤ s.ft → exec (.recHeartbeat now) s = .next (updLad (bumpWrap s REC_HEARTBEAT) (fun l => { l with wdt := s.ft }))) ∧
    (s.pwr.down = false → s.ladder.wdt + fld s REC_WDT 15 0 * 1000000 ≤ s.ft → ∀ (v : Nat) (u : State),
      u = (if s.pwr.trip then (updLad s (fun l => { l with wdtOut := true }), true) else logAppend (updLad s (fun l => { l with wdtOut := true })) v
        (entryBytes { ft := s.ft, loop := .hang, old := 0, new := 5, reason := csWardenWdt })).1 →
      (flag s REC_CFG 31 = true → exec (.wardenWdt v now) s = .next (updPwr u (fun p => { p with cyc := some u.ft }))) ∧
      (flag s REC_CFG 31 = false → exec (.wardenWdt v now) s = .next u))) ∧
  (∀ (h now : Nat) (s : State), Reached s now →
    ((h < 9 ∨ 16 ≤ h ∧ h < 32 ∧ partOf s (h - 16) = none) → exec (.helperWdt h now) s = .next (reloadHelper s h)) ∧
    (∀ p : Nat, 16 ≤ h → h < 32 → partOf s (h - 16) = some p → exec (.helperWdt h now) s = .next (autoTrigger s 3 (tgt tgPart p) csHelperWdt 0xFFFFFFFF 0))) ∧
  (∀ (u now : Nat) (s v w : State) (rs good : List Rejoin), Reached s now → rs = s.ladder.rejoins.filter (fun r => r.unit == u && r.ask) → rs ≠ [] →
    unitState s (unitPage u) = stReady → good = rs.filter (fun r => (jobOf s r.job).any (fun j => decide (j.phase = .bound))) → good ≠ [] →
    v = updLad (good.foldl rejoin s) (fun l => { l with rejoins := l.rejoins.filter (fun r => r.unit != u) }) →
    w = (rs.flatMap (·.cmds)).foldl (fun x e => setStatus x e.1 e.2 okSt (pageGen v (unitPage u))) (notice v 0x0104 0 (leBytes 4 (unitTgt u) ++ leBytes 1 (pageGen v (unitPage u)))) →
    w.ladder.cur = none → exec (.unitRejoin u now) s = .next w)

/-- RESET, DUMP_COPY, DUMP_RELEASE and REJOIN. A started command of the row's type: RESET with a step and a target that
fit puts its trigger in the queue, and one that does not fit completes with ERR_RESERVED (0x0100); DUMP_COPY of a
held, readable slot writes its first bytes and completes with the length; DUMP_RELEASE frees a held slot; both
complete with ERR_NO_DUMP where none is held. REJOIN of a unit that a bound job lost asks for its rejoin. -/
def Obligations.RecoveryCommandsAct : Prop :=
  ∀ (c q : Nat) (s : State) (k : CmdSt),
    (running1 s c q 0x40 = some k → s.triggers.any (fun x => x.cmds.contains (c, q)) = false → s.ladder.cur.any (fun x => x.cmds.contains (c, q)) = false →
      (stepFits (cmdTopt k % 8) (cmdArg k) = false → exec (.reset c q) s = .next (setStatus s c q 0x0100 0)) ∧
      (stepFits (cmdTopt k % 8) (cmdArg k) = true → (cmdTopt k % 8 ≠ 1 ∨ cmdArg k ≠ tgt tgCtx c) → exec (.reset c q) s =
        .next (trigger s { step := cmdTopt k % 8, target := cmdArg k, cause := csHostReq, ft := s.ft, ctx := 0xFFFFFFFF, cmdSeq := 0
                           blame := nbit (cmdTopt k) 3, cmds := [(c, q)] }))) ∧
    (running1 s c q 0x41 = some k →
      (s.ladder.held.contains (cmdArg k) = false → ∀ ok : Bool, exec (.dumpCopy c q ok) s = .next (setStatus s c q stNoDump 0)) ∧
      (s.ladder.held.contains (cmdArg k) = true → memBad s (slotAt s (cmdArg k)) (cmdLen k) = false → cmdDev k = false →
        exec (.dumpCopy c q true) s = .next (setStatus (hostWrite s (cmdPay k) (memRead s (slotAt s (cmdArg k)) (cmdLen k))) c q okSt (cmdLen k)))) ∧
    (running1 s c q 0x42 = some k →
      (s.ladder.held.contains (cmdArg k) = false → exec (.dumpRelease c q) s = .next (setStatus s c q stNoDump 0)) ∧
      (s.ladder.held.contains (cmdArg k) = true → exec (.dumpRelease c q) s =
        .next (setStatus (showSlots (updLad s (fun l => { l with held := l.held.filter (fun x => x != cmdArg k) }))) c q okSt 0))) ∧
    (running1 s c q 0x43 = some k → s.ladder.rejoins.any (fun r => r.cmds.contains (c, q)) = false → isUnit (cmdArg k) = true → tgtOk (cmdArg k) = true →
      ∀ mine : Rejoin → Bool, (∀ r, mine r = (r.unit == (if tgtKind (cmdArg k) = tgTile then tgtIdx (cmdArg k) else 128 + tgtIdx (cmdArg k))
        && (jobOf s r.job).any (fun j => decide (j.phase = .bound)))) → s.ladder.rejoins.any mine = true →
      exec (.rejoin c q) s = .next (updLad s (fun l => { l with rejoins := l.rejoins.map (fun r => if mine r then { r with ask := true, cmds := r.cmds ++ [(c, q)] } else r) })))

/-- Power-on boot, warm boot, confirmation, chunks from the fabric, stores tried again, the flash window. Where FT has not
reached a moment, time passes first. POWER_ON_BOOT, 100 µs after power-on, ends the flash's reset, shows the identity
and the link widths and runs the start sequence; WARM_BOOT, once asked for, with its command's record written and no
store waiting, resets the compute and runs the same sequence as a warm start, a requested fallback of a running device
announced first. HEALTH_CONFIRM of a trial after 600 healthy s, with the host's consent where asked for, stores the
confirmed record, clears the trial and raises its notice; a refused store is kept to be tried again. CHUNK: a fragment
of no open delivery, or malformed, is dropped and counted; one of the open delivery enters its buffer, and the 64th
fragment has the chunk taken. STORE_RETRY: the first refused store, 100 ms after its last attempt, is tried again;
done, it leaves the list; after 10 s it is abandoned. FLASH_READ_GO with GO reads the 8 bytes at the class's address
into its data registers and clears the set's FAIL bit. -/
def Obligations.StartsAndTheUpdateAgentAct : Prop :=
  (∀ (corrected vr link : Nat) (seed : Option (List Byte)) (vs : List Nat), TimeFirst (fun now => .powerOnBoot now seed corrected vr link vs)) ∧
  (∀ (vr : Nat) (vs : List Nat), TimeFirst (fun now => .warmBoot now vr vs)) ∧ (∀ v : Nat, TimeFirst (.healthConfirm v)) ∧
  (∀ (v : Nat) (ok : Bool), TimeFirst (.chunk v ok) ∧ TimeFirst (.storeRetry v ok)) ∧
  (∀ (now corrected vr link : Nat) (seed good : Option (List Byte)) (vs : List Nat) (s : State), Reached s now → 100000 ≤ s.ft →
    good = (if corrected ≤ 1400 then seed else none) →
    s.pwr.booting = true → s.pwr.upNext = none → s.boot.up = false → s.boot.rescue = false → s.pwr.down = false → s.boot.warm = none → s.pwr.trip = false →
    exec (.powerOnBoot now seed corrected vr link vs) s = .next (startFrom
      (setUnitState (setFld (showIdentity (updPwr s (fun p => { p with flRst := false })) good corrected) HIF_LINK 30 15 link) 0x901000 stReady) (startUid s good) vr vs false 0)) ∧
  (∀ (now vr r : Nat) (vs : List Nat) (s : State), Reached s now → s.boot.warm = some r → bootCmdOpen s = false → s.boot.retries = [] →
    s.pwr.down = false → s.pwr.trip = false →
    exec (.warmBoot now vr vs) s = .next (if r = 3 ∧ s.boot.up = true then
        startFrom (warmReset (irq (notice s 0x0204 s.boot.bcr.active [BitVec.ofNat 8 3]) 0x900000 4)) (uid (irq (notice s 0x0204 s.boot.bcr.active [BitVec.ofNat 8 3]) 0x900000 4)) vr vs true r
      else startFrom (warmReset s) (uid s) vr vs true r)) ∧
  (∀ (v now : Nat) (s : State), Reached s now → s.boot.trial = true → s.boot.up = true → 600 ≤ health s →
    (flag s UPD_CFG 0 = false ∨ s.boot.hostOk = true) → retrying s 1 = false →
    ((bcrStore s v (confirmBcr s)).2 = true → exec (.healthConfirm v now) s = .next (confirmed (bcrStore s v (confirmBcr s)).1)) ∧
    ((bcrStore s v (confirmBcr s)).2 = false →
      exec (.healthConfirm v now) s = .next (addRetry (bcrStore s v (confirmBcr s)).1 (.bcr (confirmBcr s) 1)))) ∧
  (∀ (v now : Nat) (ok : Bool) (s u : State) (f : Frame), Reached s now → takeInbox s (fun x => x.typ == 0x07) = some (f, u) →
    ((inBivouac u = true ∨ f.payload.length ≠ 1040 ∨ dOpen u = false ∨ fieldN f.payload 0 4 ≠ dXfer u) →
      exec (.chunk v ok now) s = .next (bump u UPD_FRAG_DROP_CNT)) ∧
    (inBivouac u = false → f.payload.length = 1040 → fieldN f.payload 6 1 < 64 → dOpen u = true → fieldN f.payload 0 4 = dXfer u →
      ∀ x : State, x = putFrag (bump u UPD_FRAG_CNT) (fieldN f.payload 4 2) (fieldN f.payload 6 1) (f.payload.drop 16) →
      ((x.boot.bufs.find? (fun b => b.chunk == fieldN f.payload 4 2)).bind wholeChunk = none → exec (.chunk v ok now) s = .next x) ∧
      (∀ bs : List Byte, (x.boot.bufs.find? (fun b => b.chunk == fieldN f.payload 4 2)).bind wholeChunk = some bs →
        exec (.chunk v ok now) s = .next (takeAssembled
          (updBoot x (fun b => { b with bufs := b.bufs.filter (fun y => y.chunk != fieldN f.payload 4 2) })) v ok (fieldN f.payload 4 2) bs)))) ∧
  (∀ (v now : Nat) (ok : Bool) (s u : State) (r : Retry) (rest : List Retry), Reached s now →
    takeFirst (fun (x : Retry) => decide (x.last + 100000000 ≤ s.ft)) s.boot.retries = some (r, rest) → u = updBoot s (fun b => { b with retries := rest }) →
    (r.first + 10000000000 < s.ft → exec (.storeRetry v ok now) s = .next u) ∧
    (s.ft ≤ r.first + 10000000000 → (retryStore u v ok r.what).2 = true → exec (.storeRetry v ok now) s = .next (retryStore u v ok r.what).1) ∧
    (s.ft ≤ r.first + 10000000000 → (retryStore u v ok r.what).2 = false → exec (.storeRetry v ok now) s = .next
      (updBoot (retryStore u v ok r.what).1 (fun b => { b with retries := b.retries ++ [{ r with last := s.ft }] })))) ∧
  (∀ (w : Who) (v : Word) (s u : State), checkAcc s w true 4 UPD_FL_CTRL = .ok → bits v 0 0 = 1 → bits v 1 1 = 0 →
    u = setFld s (keyOf w UPD_FL_CTRL) 1 1 0 → flag (setFlag (wr64 u (keyOf w UPD_FL_DATA_LO) (keyOf w UPD_FL_DATA_HI)
      (ofLe (flashRead u (rdN u (keyOf w UPD_FL_ADDR)) 8))) (keyOf w UPD_FL_STAT) 1 false) (keyOf w UPD_FL_CTRL) 1 = false →
    exec (.flashReadGo w v) s = .next (setFlag (wr64 u (keyOf w UPD_FL_DATA_LO) (keyOf w UPD_FL_DATA_HI)
      (ofLe (flashRead u (rdN u (keyOf w UPD_FL_ADDR)) 8))) (keyOf w UPD_FL_STAT) 1 false))

/-- The update commands of a context and of the service channel. A started update command of a context ends with the
status and RESULT of its effect; where its payload cannot be read it takes the status of that failure. UPD_BEGIN with
an open delivery of the same descriptor answers how many chunks are stored (with all of them, its slot is checked); a
new one stores its record with the slot PARTIAL; one is refused during a trial (0x0602) and over an incomplete one
without leave (0x0601). UPD_CHUNK takes the chunk. UPD_ABORT without the delivery it names is refused (0x0606).
UPD_ACTIVATE of a READY slot stores it as a trial with no settings bank; UPD_CONFIRM of a trial is refused before 600
healthy s (0x0607), and is the host's consent after; UPD_FALLBACK gives a trial slot up and asks for a warm boot;
UPD_CONFIG refuses a record that is not valid (0x0609) and stores one that is newer; SETTINGS_SAVE is refused with
0x060A where its payload is no settings record of this image; RESTART asks for a warm boot. SVC_REG answers its
request with an SVC message; SVC_CMD runs its update command outside BIVOUAC, and answers with its completion record. -/
def Obligations.UpdateCommandsKeepTheBootRecord : Prop :=
  (∀ (c q v : Nat) (ok : Bool) (s : State) (k : CmdSt) (host : Option (List Byte)),
    (running1 s c q 0x30 = some k → (∀ st, payIn s c k host = .inl st → exec (.updBegin c q host v) s = .next (setStatus s c q st 0)) ∧
      (∀ bs, payIn s c k host = .inr bs → fieldN bs 0 4 ≠ 0 → fieldN bs 10 6 = 0 → 3 ≤ fieldN bs 8 2 → fieldN bs 8 2 ≤ 768 →
        (anyTrial s.boot.bcr = true → s.boot.rescue = false → exec (.updBegin c q host v) s = .next (setStatus s c q 0x0602 0)) ∧
        (anyTrial s.boot.bcr = false → dOpen s = true →
          (dXfer s = fieldN bs 0 4 → dVer s = fieldN bs 4 4 → dChunks s = fieldN bs 8 2 →
            exec (.updBegin c q host v) s = .next (setStatus
              (if (s.boot.hdrOk = true ∧ s.boot.complete = false) ∧ dStored s = fieldN bs 8 2 then checkSlot s v else s) c q okSt (dStored s))) ∧
          (dXfer s ≠ fieldN bs 0 4 → s.boot.complete = false → nbit (cmdTopt k) 0 = false →
            exec (.updBegin c q host v) s = .next (setStatus s c q 0x0601 0))) ∧
        (anyTrial s.boot.bcr = false → dOpen s = false → (s.boot.rescue = false ∨ rescueFree s.boot.bcr (targetSlot s) = true) → ∀ t : State,
          bcrStoreWith s v [.erase recAddr, .prog recAddr (recHead (fieldN bs 0 4) (fieldN bs 4 4) (fieldN bs 8 2) (targetSlot s))]
            (setSlotSt s.boot.bcr (targetSlot s) 1) = (t, true) →
          exec (.updBegin c q host v) s = .next (setStatus (updBoot t (fun b => { b with hdrOk := false, complete := false, bufs := [] })) c q okSt 0)))) ∧
    (running1 s c q 0x31 = some k → (∀ st, payIn s c k host = .inl st → exec (.updChunk c q host v ok) s = .next (setStatus s c q st 0)) ∧
      (∀ bs, payIn s c k host = .inr bs → exec (.updChunk c q host v ok) s = .next (setStatus (takeChunk s v ok (cmdArg k) bs).1 c q
        (takeChunk s v ok (cmdArg k) bs).2 (if (takeChunk s v ok (cmdArg k) bs).2 = okSt then dStored (takeChunk s v ok (cmdArg k) bs).1 else 0)))) ∧
    (running1 s c q 0x32 = some k →
      ((dOpen s = false ∨ dXfer s ≠ cmdArg k) → exec (.updAbort c q v) s = .next (setStatus s c q 0x0606 0)) ∧
      (dOpen s = true → dXfer s = cmdArg k → (slotSt s.boot.bcr (dSlot s) = 1 ∨ slotSt s.boot.bcr (dSlot s) = 2) → (closeDelivery s v).2 = true →
        exec (.updAbort c q v) s = .next (setStatus (closeDelivery s v).1 c q okSt 0))) ∧
    (running1 s c q 0x33 = some k → cmdArg k < 2 → slotSt s.boot.bcr (otherSlot (cmdArg k)) ≠ 3 → slotSt s.boot.bcr (cmdArg k) = 2 →
      (bcrStore s v (activateBcr s.boot.bcr (cmdArg k))).2 = true → nbit (cmdTopt k) 0 = false →
      exec (.updActivate c q v) s = .next (setStatus (bcrStore s v (activateBcr s.boot.bcr (cmdArg k))).1 c q okSt 0)) ∧
    (running1 s c q 0x34 = some k →
      (s.boot.trial = false → exec (.updConfirm c q) s = .next (setStatus s c q 0x0606 0)) ∧
      (s.boot.trial = true → health s < 600 → exec (.updConfirm c q) s = .next (setStatus s c q 0x0607 0)) ∧
      (s.boot.trial = true → 600 ≤ health s →
        exec (.updConfirm c q) s = .next (setStatus { s with boot := { s.boot with hostOk := true } } c q okSt 0))) ∧
    (running1 s c q 0x35 = some k → s.boot.trial = true → (bcrStore s v (fallbackBcr s)).2 = true →
      exec (.updFallback c q v) s = .next (setStatus
        (updBoot (bcrStore s v (fallbackBcr s)).1 (fun x => { x with warm := some 3, trial := false })) c q okSt 0)) ∧
    (running1 s c q 0x36 = some k → ∀ bs, payIn s c k host = .inr bs →
      (recValid (padTo 65536 bs) 0 (uid s) = none → exec (.updConfig c q host v) s = .next (setStatus (verifyFail s) c q 0x0609 0)) ∧
      (∀ g : CfgSt, recValid (padTo 65536 bs) 0 (uid s) = some g → s.sec.cfg.seq < g.seq → s.sec.cfg.floor ≤ g.floor →
        ∀ t : State, store s v [.erase (cfgAt (newCopy s)), .prog (cfgAt (newCopy s)) (padTo 65536 bs)] = (t, true) →
        exec (.updConfig c q host v) s = .next (setStatus t c q okSt g.seq))) ∧
    (running1 s c q 0x37 = some k → ∀ bs, payIn s c k host = .inr bs → bs.length < 128 →
      exec (.settingsSave c q host v) s = .next (setStatus s c q 0x060A 0)) ∧
    (running1 s c q 0x37 = some k → ∀ bs, payIn s c k host = .inr bs → bs.length = 128 + 8 * fieldN bs 8 4 → fieldN bs 8 4 ≤ 131056 →
      fieldN bs 4 2 = s.boot.setVer → saveBank s ≠ s.boot.bcr.orig → slotBank s.boot.bcr s.boot.slot = saveBank s →
      ∀ t : State, store s v (bankOps (saveBank s) (bs.take 12 ++ leBytes 4 (bankSeq s (saveBank s) + 1) ++ bs.drop 16)) = (t, true) →
      exec (.settingsSave c q host v) s = .next (setStatus t c q okSt (fieldN bs 8 4))) ∧
    (running1 s c q 0x38 = some k → exec (.restart c q) s = .next (setStatus { s with boot := { s.boot with warm := some 0 } } c q okSt 0))) ∧
  (∀ (tag : Nat) (body r : List Byte) (s t : State), regRequest s whoService body = (t, some r) →
    exec (.svcReg tag body) s = .next (svcSend t 0x0002 tag r)) ∧
  (∀ (tag v : Nat) (ok : Bool) (desc pay : List Byte) (s t : State) (k : CmdSt) (st res : Nat),
    k = { seq := at0 (wordsOf 16 desc) 14, words := wordsOf 16 desc } → desc.length = 64 → svcReserved k pay = false → inBivouac s = false → pay ≠ [] →
    svcRun s k pay v ok = (t, st, res) →
    exec (.svcCmd tag desc pay v ok) s = .next (svcSend t 0x0004 tag (cplBytes {
      seq := k.seq, tag := at0 k.words 15 % 65536, status := st, typ := cmdCode k, cflags := 0, ctx := 0x3FF, cgen := 0, pgen := 0,
      part := 0, endFt := s.ft, result := res, runUs := 0 } false)))

/-- Quotes, tokens and the debug grant. Where FT has not reached a moment, time passes first. QUOTE_GO with the checks
passed: without identity the quote FAILS with code 0x0101; with it the snapshot is taken at once and the engine is
BUSY; a busy engine records ERR_BUSY_WRITE (0x0006). QUOTE_DONE: the snapshot and its signature by AK are the quote,
DONE with its length, and the interrupt pulses. SEC_Q_DATA_READ answers the high word of the 8 bytes at SEC_Q_ADDR, 0
beyond the quote, and with INC the address moves on by 8. DBG_UNLOCK selects its register; a token is taken for
verification unless one is under verification or 8 were refused. TOKEN_VERIFIED: a valid token (where it is not
revoked at the same moment) gives a grant of its scope and its seconds, is measured, sets DEBUG_SEEN and draws a new
challenge; another is refused with code 0x0102, counted. REVOKE with bit 0 ends the grant and draws a new challenge;
DEBUG_EXPIRY ends a grant that is over. -/
def Obligations.QuotesAndDebugGrants : Prop :=
  (∀ (w : Who) (v : Word) (s : State), checkAcc s w true 4 SEC_Q_CTRL = .ok →
    (fld s SEC_Q_STAT 31 30 = 1 → exec (.quoteGo w v) s = .next (recErr s 0x901000 0x0006 (accInfo w true SEC_Q_CTRL))) ∧
    (fld s SEC_Q_STAT 31 30 ≠ 1 → bits v 0 0 = 1 → ∀ u : State, u = setFld s SEC_Q_CTRL 1 1 (bits v 1 1) →
      (u.sec.seed = none → exec (.quoteGo w v) s = .next (recErr (setFld u SEC_Q_STAT 31 30 3) 0x901000 0x0101 (accInfo w true SEC_Q_CTRL))) ∧
      (u.sec.seed.isSome = true → exec (.quoteGo w v) s =
        .next (wrN { u with sec := { u.sec with signing := some (quoteBody u), quote := [] } } SEC_Q_STAT 0x40000000)))) ∧
  TimeFirst .quoteDone ∧ TimeFirst .tokenVerified ∧ TimeFirst .debugExpiry ∧
  (∀ (now : Nat) (s : State) (body seed q : List Byte), Reached s now → s.sec.signing = some body → s.sec.seed = some seed →
    q = body ++ padTo 49856 (Config.slhSign (akSeeds seed) body) →
    exec (.quoteDone now) s = .next (irq (wrN { s with sec := { s.sec with signing := none, quote := q } } SEC_Q_STAT (0x80000000 + q.length)) 0x901000 0)) ∧
  (∀ (w : Who) (s : State), checkAcc s w false 4 (SEC_Q_DATA_LO 1) = .ok →
    (flag s SEC_Q_CTRL 1 = false → exec (.secQDataRead w) s =
      .next { s with rdata := ofLe ((s.sec.quote.drop (rdN s SEC_Q_ADDR + 4)).take 4), rpois := false }) ∧
    (flag s SEC_Q_CTRL 1 = true → exec (.secQDataRead w) s = .next { wrN s SEC_Q_ADDR ((rdN s SEC_Q_ADDR + 8) % 0x20000) with
      rdata := ofLe ((s.sec.quote.drop (rdN s SEC_Q_ADDR + 4)).take 4), rpois := false })) ∧
  (∀ (bs : List Byte) (s : State),
    ((s.sec.token.isSome = true ∨ 8 ≤ s.sec.refusals) → exec (.dbgUnlock bs) s = .next { s with jtag := { s.jtag with ir := 0x20 } }) ∧
    (s.sec.token = none → s.sec.refusals < 8 → exec (.dbgUnlock bs) s = .next { s with
      jtag := { s.jtag with ir := 0x20 }, sec := { s.sec with token := some (padTo 29920 (bs.drop (bs.length - 29920))) } })) ∧
  (∀ (now : Nat) (s u : State) (bs : List Byte), Reached s now → s.sec.token = some bs → u = { s with sec := { s.sec with token := none } } →
    (tokenOk u bs = true → u.sec.refusals < 8 → ∀ g : State, g = newChallenge (irq (setFld (setFlag (setFlag
      (measureObj { u with sec := { u.sec with until_ := u.ft + fieldN bs 56 4 * 1000000000 } } 0x0006 (Config.shake256 bs 64) [])
      SEC_STATUS 2 true) SEC_STATUS 1 true) SEC_DBG_STAT 3 0 (fieldN bs 52 4)) 0x901000 1) →
      exec (.tokenVerified now) s = .next (if g.sec.revoked = some g.ft then endGrant g else g)) ∧
    ((tokenOk u bs = false ∨ 8 ≤ u.sec.refusals) → exec (.tokenVerified now) s = .next (irq (bump
      (recErr { u with sec := { u.sec with refusals := min 8 (u.sec.refusals + 1) } } 0x901000 0x0102 0) SEC_DBG_FAIL_CNT) 0x901000 3))) ∧
  (∀ (w : Who) (v : Word) (s : State), checkAcc s w true 4 SEC_DBG_CTRL = .ok → bits v 0 0 = 1 → flag s SEC_STATUS 2 = true →
    exec (.revoke w v) s = .next (newChallenge (irq (setFld (setFlag { s with sec := { s.sec with revoked := some s.ft, until_ := 0 } } SEC_STATUS 2 false) SEC_DBG_STAT 3 0 0) 0x901000 2))) ∧
  (∀ (now : Nat) (s : State), Reached s now →
    (flag s SEC_STATUS 2 = true → s.sec.until_ ≤ s.ft → exec (.debugExpiry now) s =
      .next (irq (setFld (setFlag { s with sec := { s.sec with until_ := 0 } } SEC_STATUS 2 false) SEC_DBG_STAT 3 0 0) 0x901000 2)) ∧
    (s.ft < s.sec.until_ → exec (.debugExpiry now) s = .next s))

/-- The JTAG instructions, DBG_ACCESS, the test multiplexers and the counters. TEST_LOGIC_RESET selects IDCODE and leaves
the grant. IDCODE shifts out 0x14B96A77; BYPASS captures 0; SAMPLE_PRELOAD captures the pins and takes the bits
shifted in. EXTEST, EXTEST_PULSE and EXTEST_TRAIN take the pins, and CLAMP and HIGHZ hold them (every locked link
loses its signal), in RESCUE or under a grant with register write; otherwise BYPASS is selected and the refusal counts
(R613). DBG_STATUS and DBG_CHAL shift out their fields. DBG_ACCESS_READ and DBG_ACCESS_WRITE shift out the answer of
the access before; without a grant nothing reaches BAR0, the refusal counts and DENIED is kept; under one the access
is performed as class DEBUG and its data and error are kept (R615). TMUX_SEL_WRITE with the checks passed: a reserved
value is recorded, a CLOCK above 200 MHz with code 0x0101; a change of an enabled selection drives the pin low for 10
ns. PMC_SEL_WRITE clears its counter; a reserved source or CLOCK is recorded with ERR_RESERVED_ENC. DBG_SNAP with GO
copies FT and the eight counters. -/
def Obligations.TestAccessActs : Prop :=
  (∀ (s : State) (pins shift : List Bool),
    exec .testLogicReset s = .next { s with jtag := { s.jtag with ir := 0x02 } } ∧
    exec .idcode s = .next { s with jtag := { s.jtag with ir := 0x02, tdo := 0x14B96A77 } } ∧
    exec .bypass s = .next { s with jtag := { s.jtag with ir := 0xFF, tdo := 0 } } ∧
    exec (.samplePreload pins shift) s = .next { s with jtag := { s.jtag with ir := 0x01, bsr := shift, tdo := bitsNum pins } } ∧
    exec .dbgStatus s = .next { s with jtag := { s.jtag with ir := 0x21, tdo := dbgStatus s } } ∧
    exec .dbgChal s = .next { s with jtag := { s.jtag with ir := 0x23, tdo := ofLe (leBytes 8 (uid s) ++ rdBytes s SEC_DBG_CHAL 8) } } ∧
    (∀ falls : Nat → State, (∀ ir, falls ir = ((List.range 4).filter (locked s)).foldl linkFalls { s with jtag := { s.jtag with ir := ir } }) →
      (s.boot.rescue = true ∨ nbit (scope s) 1 = true) →
      exec (.extest pins shift) s = .next { falls 0x00 with jtag := { (falls 0x00).jtag with bsr := shift, tdo := bitsNum pins } } ∧
      exec (.extestPulse pins shift) s = .next { falls 0x05 with jtag := { (falls 0x05).jtag with bsr := shift, tdo := bitsNum pins } } ∧
      exec (.extestTrain pins shift) s = .next { falls 0x06 with jtag := { (falls 0x06).jtag with bsr := shift, tdo := bitsNum pins } } ∧
      exec .jtagClamp s = .next { falls 0x03 with jtag := { (falls 0x03).jtag with tdo := 0 } } ∧
      exec .highz s = .next { falls 0x04 with jtag := { (falls 0x04).jtag with tdo := 0 } }) ∧
    (s.boot.rescue = false → nbit (scope s) 1 = false →
      ∀ c : Instr, (c = .extest pins shift ∨ c = .extestPulse pins shift ∨ c = .extestTrain pins shift ∨ c = .jtagClamp ∨ c = .highz) →
      exec c s = .next (bump { s with jtag := { s.jtag with ir := 0xFF, tdo := 0 } } DBG_JTAG_REFUSE_CNT))) ∧
  (∀ (a v : Nat) (s u : State), u = { s with jtag := { s.jtag with ir := 0x22, tdo := s.jtag.data * 4294967296 + s.jtag.status * 4 } } →
    (granted u = false →
      exec (.dbgAccessRead a) s = .next { bump u DBG_JTAG_REFUSE_CNT with jtag := { u.jtag with data := 0, status := 3 } } ∧
      exec (.dbgAccessWrite a v) s = .next { bump u DBG_JTAG_REFUSE_CNT with jtag := { u.jtag with data := 0, status := 3 } }) ∧
    (granted u = true →
      exec (.dbgAccessRead a) s = .next (dbgKeep (readCode u whoDebug a).1 (readCode u whoDebug a).1.rdata (readCode u whoDebug a).2) ∧
      exec (.dbgAccessWrite a v) s = .next (dbgKeep (writeCode u whoDebug a v).1 0 (writeCode u whoDebug a v).2))) ∧
  (∀ (w : Who) (n : Nat) (v : Word) (s : State), n < 4 → checkAcc s w true 4 (TMUX_SEL n) = .ok →
    (∀ e : Nat, selError v = some e → exec (.tmuxSelWrite w n v) s = .next (recErr s 0xA01000 e (accInfo w true (TMUX_SEL n)))) ∧
    (selError v = none → ∀ u : State, u = plainWrite s w (TMUX_SEL n) v →
      (rd u (TMUX_SEL n) = rd s (TMUX_SEL n) → exec (.tmuxSelWrite w n v) s = .next u) ∧
      (rd u (TMUX_SEL n) ≠ rd s (TMUX_SEL n) → flag s (TMUX_SEL n) 31 = true → exec (.tmuxSelWrite w n v) s =
        .next (setTpin u n { low := s.ft + 10, was := levelHigh u (bits v 23 16) (bits v 15 0) })))) ∧
  (∀ (w : Who) (k : Nat) (v : Word) (s : State), k < 8 → checkAcc s w true 4 (DBG_PMC_SEL k) = .ok →
    ((bits v 23 16 = 0 ∨ (bits v 23 16 ≠ 1 ∧ srcOk (bits v 23 16) = true)) →
      exec (.pmcSelWrite w k v) s = .next (plainWrite (setWide s (DBG_PMC_LO k) 0) w (DBG_PMC_SEL k) v)) ∧
    (bits v 23 16 = 1 → ∃ t : State, exec (.pmcSelWrite w k v) s = .next (recErr t 0xA00000 0x0007 (accInfo w true (DBG_PMC_SEL k))))) ∧
  (∀ (w : Who) (v : Word) (s : State), checkAcc s w true 4 DBG_SNAP = .ok → bits v 0 0 = 1 →
    exec (.dbgSnap w v) s = .next ((List.range 8).foldl (fun t k => wr64 t (DBG_SNAP_K (2 * k)) (DBG_SNAP_K (2 * k + 1)) (wideOf s (DBG_PMC_LO k)))
      (wr64 s (DBG_SNAP_FT_LO 0) (DBG_SNAP_FT_LO 1) s.ft)))

/-- Every step keeps the canonical form of every memory. For every state whose addressed memories (LPDDR5X, tile and
cluster SRAM, the tables of BAR4, host memory, flash and the descriptor windows) have their canonical form, whatever
command waits at the front of the queue, the state after the step has it: every address is held once, in rising order,
and no entry equals what an unlisted address reads as. The form is the model's own (a list in one form for each
memory). -/
def Obligations.MemoriesKeepTheirCanonicalForm : Prop :=
  ∀ s t : State, Memory.wf s = true → step s = .next t → Memory.wf t = true

/-- The memories have their canonical form at reset. The memories of the state right after reset have the canonical form
that every step keeps, and the queue is empty. -/
def Obligations.ResetMemoriesHaveTheirCanonicalForm : Prop :=
  Memory.wf State.reset = true ∧ State.reset.pending = []

/-- FT never decreases, and returns to 0 only at power-on reset. For every state and every command: the state after the
step has an FT no smaller than before, unless the command is the power-on reset (POWER_ON_RESET, or POWER_DOWN, which
holds the device in power-on reset), after which FT is 0. -/
def Obligations.FabricTimeNeverDecreases : Prop :=
  ∀ s t : State, step s = .next t →
    s.ft ≤ t.ft ∨ (t.ft = 0 ∧ ((∃ ns rest, s.pending = .powerOnReset ns :: rest) ∨ (∃ rest, s.pending = .powerDown :: rest)))

/-- No command faults or is refused, and none touches the queue of waiting commands. In every state, with every operand,
every command answers a next state, and the queue of the commands that wait is as it was; so a step takes exactly the
front of the queue. -/
def Obligations.EveryCommandAnswersAndLeavesTheQueue : Prop :=
  (∀ (c : Instr) (s : State), ∃ t : State, exec c s = .next t ∧ t.pending = s.pending) ∧
  (∀ (s : State), ∃ t : State, step s = .next t ∧ t.pending = s.pending.tail)
end

