-- ==== Sys2Proof/Laws/Table.lean ====
section
/-!
SUPPORT. The laws of the sparse tables: every change keeps the canonical form, and a change is seen at its key and nowhere else.
-/
namespace Sys2Proof.Machine
open Sys2Proof

variable {α : Type} [DecidableEq α]

theorem twfFrom_of_lt {d : Nat → α} {b c : Nat} (hbc : b < c) : ∀ m : List (Nat × α), twfFrom d (some c) m = true → twfFrom d (some b) m = true
  | [], _ => rfl
  | (a, v) :: m, h => by
    simp only [twfFrom, Bool.and_eq_true, decide_eq_true_eq] at h ⊢
    exact ⟨⟨by omega, h.1.2⟩, h.2⟩

theorem twfFrom_none {d : Nat → α} {b : Nat} : ∀ m : List (Nat × α), twfFrom d (some b) m = true → twfFrom d none m = true
  | [], _ => rfl
  | (a, v) :: m, h => by
    simp only [twfFrom, Bool.and_eq_true, decide_eq_true_eq] at h ⊢
    exact ⟨⟨trivial, h.1.2⟩, h.2⟩

/-- A table whose keys lie above b keeps its form when a key above b is set. -/
theorem twfFrom_tset {d : Nat → α} (k : Nat) (v : α) : ∀ (m : List (Nat × α)) (b : Option Nat), (∀ x, b = some x → x < k) →
    twfFrom d b m = true → twfFrom d b (tset d m k v) = true
  | [], b, hb, _ => by
    unfold tset
    split
    · rfl
    · cases b <;> simp_all [twfFrom]
  | (a, w) :: m, b, hb, h => by
    simp only [twfFrom, Bool.and_eq_true] at h
    unfold tset
    split
    · split
      · simp only [twfFrom, Bool.and_eq_true]; exact h
      · cases b <;> simp_all [twfFrom]
    · split
      · subst k
        split
        · cases b with
          | none => exact twfFrom_none m h.2
          | some x => exact twfFrom_of_lt (hb x rfl) m h.2
        · cases b <;> simp_all [twfFrom]
      · simp only [twfFrom, Bool.and_eq_true]
        exact ⟨h.1, twfFrom_tset k v m (some a) (fun x hx => by cases hx; omega) h.2⟩

theorem twf_tset {d : Nat → α} {m : List (Nat × α)} (k : Nat) (v : α) (h : twf d m = true) : twf d (tset d m k v) = true :=
  twfFrom_tset k v m none (fun _ hx => by cases hx) h

theorem twf_tsetL {d : Nat → α} : ∀ (l : List α) (m : List (Nat × α)) (a : Nat), twf d m = true → twf d (tsetL d m a l) = true
  | [], _, _, h => h
  | v :: l, _, a, h => twf_tsetL l _ (a + 1) (twf_tset a v h)

theorem twfFrom_filter {d : Nat → α} (p : Nat × α → Bool) : ∀ (m : List (Nat × α)) (b : Option Nat),
    twfFrom d b m = true → twfFrom d b (m.filter p) = true
  | [], _, _ => rfl
  | (a, v) :: m, b, h => by
    simp only [twfFrom, Bool.and_eq_true] at h
    have ih := twfFrom_filter p m (some a) h.2
    rw [List.filter_cons]
    split
    · simp only [twfFrom, Bool.and_eq_true]; exact ⟨h.1, ih⟩
    · cases b with
      | none => exact twfFrom_none _ ih
      | some x => exact twfFrom_of_lt (by simpa using h.1.1) _ ih

theorem twf_filter {d : Nat → α} (p : Nat × α → Bool) {m : List (Nat × α)} (h : twf d m = true) : twf d (m.filter p) = true :=
  twfFrom_filter p m none h

theorem twf_tclear {d : Nat → α} {m : List (Nat × α)} (lo hi : Nat) (h : twf d m = true) : twf d (tclear m lo hi) = true :=
  twf_filter _ h

/-- Below every key of a table, the table reads as its default. -/
theorem tget_of_twfFrom {d : Nat → α} {b k : Nat} (hk : k ≤ b) : ∀ m : List (Nat × α), twfFrom d (some b) m = true → tget d m k = d k
  | [], _ => rfl
  | (a, v) :: m, h => by
    simp only [twfFrom, Bool.and_eq_true, decide_eq_true_eq] at h
    have ha : a ≠ k := by omega
    simp only [tget, ha, if_false]
    exact tget_of_twfFrom hk m (twfFrom_of_lt h.1.1 m h.2)

theorem tget_tset_other {d : Nat → α} (k j : Nat) (v : α) (hj : j ≠ k) : ∀ m : List (Nat × α), tget d (tset d m k v) j = tget d m j
  | [] => by
    unfold tset
    split <;> simp [tget]
    intro h; exact absurd h.symm hj
  | (a, w) :: m => by
    unfold tset
    have hj' : ¬ k = j := fun e => hj e.symm
    split
    · split <;> simp [tget, hj']
    · split
      · subst k
        split <;> simp [tget, hj']
      · simp only [tget]; rw [tget_tset_other k j v hj m]

theorem tget_tsetFrom_same {d : Nat → α} (k : Nat) (v : α) : ∀ (m : List (Nat × α)) (b : Option Nat), twfFrom d b m = true →
    tget d (tset d m k v) k = v
  | [], _, _ => by
    unfold tset
    split
    · next h => simp [tget, h]
    · simp [tget]
  | (a, w) :: m, b, h => by
    simp only [twfFrom, Bool.and_eq_true] at h
    unfold tset
    split
    · next hk =>
      split
      · next hv =>
        have ha : ¬ a = k := by omega
        simp only [tget, ha, if_false]
        rw [tget_of_twfFrom (by omega) m h.2, hv]
      · simp [tget]
    · split
      · next hk =>
        split
        · next hv => rw [tget_of_twfFrom (by omega) m h.2, hv]
        · simp [tget]
      · next hk =>
        have ha : ¬ a = k := fun e => hk e.symm
        simp only [tget, ha, if_false]
        exact tget_tsetFrom_same k v m (some a) h.2

/-- In a table in canonical form, a key that is set reads as what it was set to. -/
theorem tget_tset_same {d : Nat → α} {m : List (Nat × α)} (k : Nat) (v : α) (h : twf d m = true) : tget d (tset d m k v) k = v :=
  tget_tsetFrom_same k v m none h

/-- What a table in canonical form reads after one key is set. -/
theorem tget_tset {d : Nat → α} {m : List (Nat × α)} (k j : Nat) (v : α) (h : twf d m = true) :
    tget d (tset d m k v) j = if j = k then v else tget d m j := by
  split
  · next e => rw [e]; exact tget_tset_same k v h
  · next e => exact tget_tset_other k j v e m

/-- A key outside the keys that are set reads as before. -/
theorem tget_tsetL_other {d : Nat → α} (j : Nat) : ∀ (l : List α) (m : List (Nat × α)) (a : Nat), (j < a ∨ a + l.length ≤ j) →
    tget d (tsetL d m a l) j = tget d m j
  | [], _, _, _ => rfl
  | v :: l, m, a, h => by
    simp only [List.length_cons] at h
    show tget d (tsetL d (tset d m a v) (a + 1) l) j = _
    rw [tget_tsetL_other j l _ (a + 1) (by omega), tget_tset_other a j v (by omega)]

/-- In a table in canonical form, the keys that are set read as the values they were set to. -/
theorem tgetL_tsetL {d : Nat → α} : ∀ (l : List α) (m : List (Nat × α)) (a : Nat), twf d m = true → tgetL d (tsetL d m a l) a l.length = l
  | [], _, _, _ => rfl
  | v :: l, m, a, h => by
    show tget d (tsetL d (tset d m a v) (a + 1) l) a :: tgetL d (tsetL d (tset d m a v) (a + 1) l) (a + 1) l.length = v :: l
    rw [tget_tsetL_other a l _ (a + 1) (Or.inl (by omega)), tget_tset_same a v h, tgetL_tsetL l _ (a + 1) (twf_tset a v h)]

end Sys2Proof.Machine
end

