-- ==== Sys2Proof/Laws/Time.lean ====
section
/-!
SUPPORT. What the passing of time does: said once, for every command that lets time pass before its effect.
-/
namespace Sys2Proof.Laws
open Sys2Proof Sys2Proof.Machine

/-- A fold whose steps keep a part of the state keeps it. -/
theorem foldl_keeps {α β : Type} (g : State → β) {f : State → α → State} (h : ∀ t a, g (f t a) = g t) :
    ∀ (l : List α) (s : State), g (l.foldl f s) = g s
  | [], _ => rfl
  | a :: l, s => (foldl_keeps g h l (f s a)).trans (h s a)

/-- The counters and pins that see time pass leave FT, its fraction and the discipline. -/
theorem probeTime_clock (s : State) (n : Nat) :
    ((probeTime s n).ft, (probeTime s n).ftFrac, (probeTime s n).disc) = (s.ft, s.ftFrac, s.disc) := by
  let g : State → Nat × Int × DiscSt := fun s => (s.ft, s.ftFrac, s.disc)
  have pmc : ∀ d (s : State) k, g (pmcTime d s k) = g s := by
    intro d s k; unfold pmcTime; dsimp only; split <;> rfl
  have pin : ∀ (s : State) k, g (pinTime s k) = g s := by
    intro s k
    have e : g (pinEvent s k) = g s := by unfold pinEvent; dsimp only; repeat' split
                                          all_goals rfl
    unfold pinTime; dsimp only; repeat' split
    all_goals first | rfl | exact e
  have vc : ∀ (s : State) k, g (vcTime n s k) = g s := by
    intro s k; unfold vcTime; dsimp only; generalize (if k = 2 then _ else _ : Nat) = m; split <;> rfl
  have link : ∀ (s : State) k, g (linkTime n s k) = g s := by
    intro s k; unfold linkTime; split <;> rfl
  have spike : ∀ (s : State) e, g (spikeTime n s e) = g s := by
    intro s e; unfold spikeTime; dsimp only; split
    · rfl
    · refine foldl_keeps g (fun t a => ?_) _ _
      split <;> rfl
  exact (foldl_keeps g spike _ _).trans ((foldl_keeps g link _ _).trans ((foldl_keeps g vc _ _).trans
    ((foldl_keeps g pin _ _).trans (foldl_keeps g (pmc _) _ _))))

theorem probeTime_ft (s : State) (n : Nat) : (probeTime s n).ft = s.ft := congrArg (·.1) (probeTime_clock s n)

theorem slewFor_ft (s : State) (n : Nat) : (slewFor s n).ft = s.ft := by unfold slewFor; split <;> rfl

theorem slewFor_none (s : State) (n : Nat) (h : s.disc.slew = 0) : slewFor s n = s := if_pos h

theorem advance_of_reached {s : State} {now : Nat} (h : Reached s now) : advance s now = s := if_pos h

theorem outAt_of_noneOwed {s : State} {now : Nat} (h : NoneOwed s now) : outAt now s = s := by
  unfold outAt; rw [advance_of_reached h.1, h.2]

/-- A moment is reached once time has passed up to it. -/
theorem reached_advance (s : State) (now : Nat) : Reached (advance s now) now := by
  unfold advance
  split
  · assumption
  · exact .inl (by dsimp only; rw [slewFor_ft])

/-- Time passes up to a moment once. -/
theorem advance_advance (s : State) (now : Nat) : advance (advance s now) now = advance s now := advance_of_reached (reached_advance s now)

end Sys2Proof.Laws
end

