-- ==== Sys2Proof/Laws/KeepsBase.lean ====
section
/-!
SUPPORT. What the shared operations do to the queue, to FT and to the form of the memories, said once for each: the relation, and how it
passes through updates, folds and choices.
-/
namespace Sys2Proof.Laws
open Sys2Proof Sys2Proof.Machine

/-- What no command but the power-on reset does otherwise: the queue stays, FT never decreases, and the memories keep their form. -/
structure Keeps (s t : State) : Prop where
  pending : t.pending = s.pending
  ft : s.ft ≤ t.ft
  wf : Memory.wf s = true → Memory.wf t = true

theorem Keeps.refl (s : State) : Keeps s s := ⟨rfl, Nat.le_refl _, id⟩

theorem Keeps.trans {a b c : State} (h : Keeps a b) (k : Keeps b c) : Keeps a c :=
  ⟨k.pending.trans h.pending, Nat.le_trans h.ft k.ft, fun x => k.wf (h.wf x)⟩

/-- A state that differs in a memory whose form is kept. -/
theorem keeps_wf {z u t : State} (h : Keeps z u) (hp : t.pending = u.pending) (hf : t.ft = u.ft)
    (h1 : twf byte0 u.mem = true → twf byte0 t.mem = true) (h2 : twf byte0 u.sram = true → twf byte0 t.sram = true)
    (h3 : twf byte0 u.tabs = true → twf byte0 t.tabs = true) (h4 : twf byte0 u.hostMem = true → twf byte0 t.hostMem = true)
    (h5 : twf byteF u.flash = true → twf byteF t.flash = true) (h6 : twf byte0 u.desc = true → twf byte0 t.desc = true) : Keeps z t :=
  h.trans ⟨hp, Nat.le_of_eq hf.symm, fun x => by
    simp only [Memory.wf, Bool.and_eq_true] at x ⊢
    exact ⟨⟨⟨⟨⟨h1 x.1.1.1.1.1, h2 x.1.1.1.1.2⟩, h3 x.1.1.1.2⟩, h4 x.1.1.2⟩, h5 x.1.2⟩, h6 x.2⟩⟩

theorem keeps_foldl {z : State} {α : Type} {f : State → α → State} (hf : ∀ (t : State) (a : α), Keeps z t → Keeps z (f t a)) :
    ∀ (l : List α) (u : State), Keeps z u → Keeps z (l.foldl f u)
  | [], _, h => h
  | a :: l, u, h => keeps_foldl hf l (f u a) (hf u a h)

theorem keeps_fst {z t : State} {α : Type} {p : State × α} {a : α} (e : p = (t, a)) (h : Keeps z p.1) : Keeps z t := by rw [e] at h; exact h
theorem keeps_snd {z t : State} {α : Type} {p : α × State} {a : α} (e : p = (a, t)) (h : Keeps z p.2) : Keeps z t := by rw [e] at h; exact h

/-- A command answers a next state that is reached so. -/
def KeepsO (z : State) (o : Out) : Prop := ∃ t, o = .next t ∧ Keeps z t
theorem keepsO {z t : State} (h : Keeps z t) : KeepsO z (.next t) := ⟨t, rfl, h⟩
/-- Every state that an operation may give is reached so. -/
structure KeepsP (z : State) (o : Option State) : Prop where
  all : ∀ t, o = some t → Keeps z t
theorem keepsP_none {z : State} : KeepsP z none := ⟨fun _ h => nomatch h⟩
theorem keepsP_some {z t : State} (h : Keeps z t) : KeepsP z (some t) := ⟨fun _ e => by cases e; exact h⟩
theorem keeps_some {z t : State} {o : Option State} (e : o = some t) (h : KeepsP z o) : Keeps z t := h.all t e
/-- Every state that an operation may give beside a value is reached so. -/
structure KeepsF {α : Type} (z : State) (o : Option (α × State)) : Prop where
  all : ∀ a t, o = some (a, t) → Keeps z t
theorem keepsF_none {α : Type} {z : State} : KeepsF (α := α) z none := ⟨fun _ _ h => nomatch h⟩
theorem keepsF_some {α : Type} {z t : State} {a : α} (h : Keeps z t) : KeepsF z (some (a, t)) := ⟨fun _ _ e => by cases e; exact h⟩
theorem keeps_someF {α : Type} {z t : State} {a : α} {o : Option (α × State)} (e : o = some (a, t)) (h : KeepsF z o) : Keeps z t := h.all a t e
/-- Every state that an operation may give in place of a status is reached so. -/
structure KeepsS (z : State) (o : Sum Nat State) : Prop where
  all : ∀ t, o = .inr t → Keeps z t
theorem keepsS_inl {z : State} {n : Nat} : KeepsS z (.inl n) := ⟨fun _ h => nomatch h⟩
theorem keepsS_inr {z t : State} (h : Keeps z t) : KeepsS z (.inr t) := ⟨fun _ e => by cases e; exact h⟩
theorem keeps_inr {z t : State} {o : Sum Nat State} (e : o = .inr t) (h : KeepsS z o) : Keeps z t := h.all t e
theorem keeps_id {z t : State} (h : Keeps z t) : Keeps z (id t) := h
theorem keeps_foldl_fst {z : State} {α β : Type} {f : State × β → α → State × β} (hf : ∀ (p : State × β) (a : α), Keeps z p.1 → Keeps z (f p a).1) :
    ∀ (l : List α) (u : State × β), Keeps z u.1 → Keeps z (l.foldl f u).1
  | [], _, h => h
  | a :: l, u, h => keeps_foldl_fst hf l (f u a) (hf u a h)
theorem keeps_ite {z a b : State} {c : Prop} [Decidable c] (ha : c → Keeps z a) (hb : ¬c → Keeps z b) : Keeps z (if c then a else b) := by
  split
  · exact ha ‹_›
  · exact hb ‹_›
theorem keepsO_ite {z : State} {a b : Out} {c : Prop} [Decidable c] (ha : c → KeepsO z a) (hb : ¬c → KeepsO z b) : KeepsO z (if c then a else b) := by
  split
  · exact ha ‹_›
  · exact hb ‹_›
theorem keeps_fstB {z : State} {t : Boot} {α : Type} {p : Boot × α} {a : α} (e : p = (t, a)) (h : Keeps z p.1.s) : Keeps z t.s := by rw [e] at h; exact h
theorem keeps_getD {z t : State} {o : Option State} (h : KeepsP z o) (k : Keeps z t) : Keeps z (o.getD t) := by
  cases o with
  | none => exact k
  | some u => exact h.all u rfl
theorem keeps_mk {z u : State} (h : Keeps z u) (free : Nat) (regs : List (Nat × Word)) (pendDis : List (Nat × Bool)) (disarmed : List (Nat ×
    Bool)) (opBusy : List (Nat × Bool)) (msix : List (Nat × MsixVec)) (bme : List (Nat × Bool)) (msgs : List Msg) (log : List LogEntry)
    (loopCnt : List (Nat × Nat)) (ftFrac : Int) (disc : DiscSt) (ptp : List (Nat × PtpSt)) (pps : PpsSt) (srv : List (Nat × SrvSt)) (mp :
    MpSt) (ports : List (Nat × PortSt)) (i3c : List (Nat × I3cSt)) (wide : List (Nat × Nat)) (cairns : List CairnRec) (srcs : List (Nat ×
    SrcSt)) (hops : List (Nat × List FabMsg)) (rgn : List (Nat × Word)) (pins : List (Nat × FanEntry)) (spikeQ : List (Nat × List FabWord))
    (slots : List (Nat × SlotSt)) (awaiting : List (Nat × Bool)) (ncFifo : List (Nat × List FabWord)) (nc : List (Nat × NcSt)) (uop : List
    (Nat × UopSt)) (memUe : List (Nat × Bool)) (memFail : List (Nat × Nat)) (poison : List (Nat × Bool)) (ce : List (Nat × Bool)) (scrubs :
    List (Nat × Nat)) (held : List (Nat × List Byte)) (ctxs : List (Nat × CtxSt)) (ancs : List (Nat × AncSt)) (tiles : List (Nat × TileSt))
    (jobs : List JobSt) (lastJob : Nat) (accepted : List CmdRef) (binder : List (Nat × Nat)) (txq : List Frame) (inbox : List Frame) (sent :
    List (Nat × Frame)) (txSeq : List (Nat × Nat)) (triggers : List Trigger) (ptpTx : List (Nat × PtpMsg)) (rdata : Nat) (rpois : Bool)
    (evMs : Nat) (evCnt : Nat) (evLast : Nat) (trigs : List (Nat × Nat × Bool)) (lost : List (Nat × Nat)) (known : List (Nat × Bool)) (lean
    : LeanSt) (samples : List Sample) (pwr : PwrSt) (tmux : List (Nat × PinSt)) (disputed : List (Nat × Bool)) (enc : List (Nat × EncSt))
    (imu : List (Nat × ImuSt)) (chain : List (Nat × ChainSt)) (bars : List (Nat × BarSt)) (fus : FusSt) (out : OutSt) (ladder : LadSt) (sec
    : SecSt) (boot : BootSt) (jtag : JtagSt) (links : List (Nat × LinkSt)) (rbars : List (Nat × RbarSt)) (relay : RelaySt) (svc : List (List
    Byte)) :
    Keeps z (State.mk u.pending free regs pendDis disarmed opBusy msix bme msgs log loopCnt u.ft ftFrac disc ptp pps srv mp ports i3c wide cairns srcs hops rgn pins spikeQ slots awaiting ncFifo nc uop u.mem memUe memFail u.sram poison ce scrubs held u.tabs u.hostMem u.flash u.desc ctxs ancs tiles jobs lastJob accepted binder txq inbox sent txSeq triggers ptpTx rdata rpois evMs evCnt evLast trigs lost known lean samples pwr tmux disputed enc imu chain bars fus out ladder sec boot jtag links rbars relay svc) := h.trans ⟨rfl, Nat.le_refl _, id⟩
theorem keeps_mkft {z u : State} (h : Keeps z u) (n : Nat) (free : Nat) (regs : List (Nat × Word)) (pendDis : List (Nat × Bool)) (disarmed :
    List (Nat × Bool)) (opBusy : List (Nat × Bool)) (msix : List (Nat × MsixVec)) (bme : List (Nat × Bool)) (msgs : List Msg) (log : List
    LogEntry) (loopCnt : List (Nat × Nat)) (ftFrac : Int) (disc : DiscSt) (ptp : List (Nat × PtpSt)) (pps : PpsSt) (srv : List (Nat ×
    SrvSt)) (mp : MpSt) (ports : List (Nat × PortSt)) (i3c : List (Nat × I3cSt)) (wide : List (Nat × Nat)) (cairns : List CairnRec) (srcs :
    List (Nat × SrcSt)) (hops : List (Nat × List FabMsg)) (rgn : List (Nat × Word)) (pins : List (Nat × FanEntry)) (spikeQ : List (Nat ×
    List FabWord)) (slots : List (Nat × SlotSt)) (awaiting : List (Nat × Bool)) (ncFifo : List (Nat × List FabWord)) (nc : List (Nat ×
    NcSt)) (uop : List (Nat × UopSt)) (memUe : List (Nat × Bool)) (memFail : List (Nat × Nat)) (poison : List (Nat × Bool)) (ce : List (Nat
    × Bool)) (scrubs : List (Nat × Nat)) (held : List (Nat × List Byte)) (ctxs : List (Nat × CtxSt)) (ancs : List (Nat × AncSt)) (tiles :
    List (Nat × TileSt)) (jobs : List JobSt) (lastJob : Nat) (accepted : List CmdRef) (binder : List (Nat × Nat)) (txq : List Frame) (inbox
    : List Frame) (sent : List (Nat × Frame)) (txSeq : List (Nat × Nat)) (triggers : List Trigger) (ptpTx : List (Nat × PtpMsg)) (rdata :
    Nat) (rpois : Bool) (evMs : Nat) (evCnt : Nat) (evLast : Nat) (trigs : List (Nat × Nat × Bool)) (lost : List (Nat × Nat)) (known : List
    (Nat × Bool)) (lean : LeanSt) (samples : List Sample) (pwr : PwrSt) (tmux : List (Nat × PinSt)) (disputed : List (Nat × Bool)) (enc :
    List (Nat × EncSt)) (imu : List (Nat × ImuSt)) (chain : List (Nat × ChainSt)) (bars : List (Nat × BarSt)) (fus : FusSt) (out : OutSt)
    (ladder : LadSt) (sec : SecSt) (boot : BootSt) (jtag : JtagSt) (links : List (Nat × LinkSt)) (rbars : List (Nat × RbarSt)) (relay :
    RelaySt) (svc : List (List Byte)) :
    Keeps z (State.mk u.pending free regs pendDis disarmed opBusy msix bme msgs log loopCnt (u.ft + n) ftFrac disc ptp pps srv mp ports i3c wide cairns srcs hops rgn pins spikeQ slots awaiting ncFifo nc uop u.mem memUe memFail u.sram poison ce scrubs held u.tabs u.hostMem u.flash u.desc ctxs ancs tiles jobs lastJob accepted binder txq inbox sent txSeq triggers ptpTx rdata rpois evMs evCnt evLast trigs lost known lean samples pwr tmux disputed enc imu chain bars fus out ladder sec boot jtag links rbars relay svc) := h.trans ⟨rfl, Nat.le_add_right _ _, id⟩
end Sys2Proof.Laws
end

