-- ==== Sys2Proof/Laws/KeepsOps.lean ====
section
/-!
SUPPORT. One lemma for each operation of registers, memories, pins, anchors, completion records, FT, checks and soft resets: applied in a state reached from z, it answers one that is reached so (Laws/KeepsBase.lean).
-/
namespace Sys2Proof.Laws
open Sys2Proof Sys2Proof.Machine

theorem keeps_wr {z : State} (s : State) (a : Nat) (v : Word) (hk : Keeps z s) : Keeps z (wr s a v) := by
  unfold wr
  repeat' first | (with_reducible apply keeps_mk; with_reducible assumption)

theorem keeps_setFld {z : State} (s : State) (a hi lo x : Nat) (hk : Keeps z s) : Keeps z (setFld s a hi lo x) := by
  unfold setFld
  repeat' first | (with_reducible first | assumption | apply keeps_wr)

theorem keeps_setFlag {z : State} (s : State) (a i : Nat) (b : Bool) (hk : Keeps z s) : Keeps z (setFlag s a i b) := by
  unfold setFlag
  repeat' first | (with_reducible first | assumption | apply keeps_setFld)

theorem keeps_wrN {z : State} (s : State) (a n : Nat) (hk : Keeps z s) : Keeps z (wrN s a n) := by
  unfold wrN
  repeat' first | (with_reducible first | assumption | apply keeps_wr)

theorem keeps_wrS {z : State} (s : State) (a : Nat) (i : Int) (hk : Keeps z s) : Keeps z (wrS s a i) := by
  unfold wrS
  repeat' first | (with_reducible first | assumption | apply keeps_wrN)

theorem keeps_wr64 {z : State} (s : State) (lo hi n : Nat) (hk : Keeps z s) : Keeps z (wr64 s lo hi n) := by
  unfold wr64
  repeat' first | (with_reducible first | assumption | apply keeps_wrN)

theorem keeps_bumpN {z : State} (s : State) (a n : Nat) (hk : Keeps z s) : Keeps z (bumpN s a n) := by
  unfold bumpN
  repeat' first | (with_reducible first | assumption | apply keeps_wrN)

theorem keeps_bump {z : State} (s : State) (a : Nat) (hk : Keeps z s) : Keeps z (bump s a) := by
  unfold bump
  repeat' first | (with_reducible first | assumption | apply keeps_bumpN)

theorem keeps_bumpWrap {z : State} (s : State) (a : Nat) (hk : Keeps z s) : Keeps z (bumpWrap s a) := by
  unfold bumpWrap
  repeat' first | (with_reducible first | assumption | apply keeps_wrN)

theorem keeps_peak {z : State} (s : State) (a n : Nat) (hk : Keeps z s) : Keeps z (peak s a n) := by
  unfold peak
  repeat' first | with_reducible assumption | intro _ | (with_reducible first | apply keeps_wrN | apply keeps_ite)

theorem keeps_setWide {z : State} (s : State) (a n : Nat) (hk : Keeps z s) : Keeps z (setWide s a n) := by
  unfold setWide
  repeat' first | (with_reducible apply keeps_mk; with_reducible assumption)

theorem keeps_bumpWide {z : State} (s : State) (a n : Nat) (hk : Keeps z s) : Keeps z (bumpWide s a n) := by
  unfold bumpWide
  repeat' first | (with_reducible first | assumption | apply keeps_setWide)

theorem keeps_setPort {z : State} (s : State) (p : Nat) (x : PortSt) (hk : Keeps z s) : Keeps z (setPort s p x) := by
  unfold setPort
  repeat' first | (with_reducible apply keeps_mk; with_reducible assumption)

theorem keeps_setServo {z : State} (s : State) (p : Nat) (x : SrvSt) (hk : Keeps z s) : Keeps z (setServo s p x) := by
  unfold setServo
  repeat' first | (with_reducible apply keeps_mk; with_reducible assumption)

theorem keeps_setPtp {z : State} (s : State) (n : Nat) (x : PtpSt) (hk : Keeps z s) : Keeps z (setPtp s n x) := by
  unfold setPtp
  repeat' first | (with_reducible apply keeps_mk; with_reducible assumption)

theorem keeps_setBus {z : State} (s : State) (b : Nat) (x : I3cSt) (hk : Keeps z s) : Keeps z (setBus s b x) := by
  unfold setBus
  repeat' first | (with_reducible apply keeps_mk; with_reducible assumption)

theorem keeps_setDisPend {z : State} (s : State) (a : Nat) (b : Bool) (hk : Keeps z s) : Keeps z (setDisPend s a b) := by
  unfold setDisPend
  repeat' first | (with_reducible apply keeps_mk; with_reducible assumption)

theorem keeps_setOp {z : State} (s : State) (a : Nat) (b : Bool) (hk : Keeps z s) : Keeps z (setOp s a b) := by
  unfold setOp
  repeat' first | (with_reducible apply keeps_mk; with_reducible assumption)

theorem keeps_drawNat {z : State} (s : State) (hk : Keeps z s) : Keeps z (drawNat s).2 := by
  unfold drawNat
  repeat' first | (with_reducible apply keeps_mk; with_reducible assumption)

theorem keeps_drawInt {z : State} (s : State) (hk : Keeps z s) : Keeps z (drawInt s).2 := by
  unfold drawInt
  repeat' first | (with_reducible apply keeps_mk; with_reducible assumption)

theorem keeps_eachL {z : State} {α : Type} (f : State → α → State) (l : List α) (s : State) (hk : Keeps z s) (hf_f : ∀ (a0 : State) (a1 :
    α), Keeps z a0 → Keeps z (f a0 a1)) : Keeps z (eachL f l s) := by
  unfold eachL
  repeat' first | (with_reducible first | assumption | apply keeps_foldl)

theorem keeps_eachN {z : State} (n : Nat) (f : State → Nat → State) (s : State) (hk : Keeps z s) (hf_f : ∀ (a0 : State) (a1 : Nat), Keeps z
    a0 → Keeps z (f a0 a1)) : Keeps z (eachN n f s) := by
  unfold eachN
  repeat' first | (with_reducible first | assumption | apply keeps_foldl)

theorem keeps_addLogData {z : State} (s : State) (l : LoopId) (old new reason : Nat) (data : List Nat) (hk : Keeps z s) : Keeps z
    (addLogData s l old new reason data) := by
  unfold addLogData
  repeat' first | (with_reducible apply keeps_mk; with_reducible assumption)

theorem keeps_addLog {z : State} (s : State) (l : LoopId) (old new reason : Nat) (hk : Keeps z s) : Keeps z (addLog s l old new reason) :=
    by
  unfold addLog
  repeat' first | (with_reducible first | assumption | apply keeps_addLogData)

theorem keeps_setVec {z : State} (s : State) (fn vec : Nat) (x : MsixVec) (hk : Keeps z s) : Keeps z (setVec s fn vec x) := by
  unfold setVec
  repeat' first | (with_reducible apply keeps_mk; with_reducible assumption)

theorem keeps_sendMsix {z : State} (s : State) (fn vec : Nat) (hk : Keeps z s) : Keeps z (sendMsix s fn vec) := by
  unfold sendMsix
  repeat' first
    | with_reducible assumption
    | (intro x; try clear_value x)
    | lift_lets
    | (with_reducible first | apply keeps_setVec | apply keeps_ite)
    | (with_reducible apply keeps_mk; with_reducible assumption)

theorem keeps_irq {z : State} (s : State) (pg bit : Nat) (hk : Keeps z s) : Keeps z (irq s pg bit) := by
  unfold irq
  repeat' first
    | with_reducible assumption
    | (intro x; first | (have hx : Keeps z x := (by repeat' first | (with_reducible first | assumption | apply keeps_setFlag)); clear_value x) | try clear_value x)
    | lift_lets
    | (with_reducible first | apply keeps_sendMsix | apply keeps_ite)

theorem keeps_setUnitState {z : State} (s : State) (pg st : Nat) (hk : Keeps z s) : Keeps z (setUnitState s pg st) := by
  unfold setUnitState
  repeat' first | with_reducible assumption | intro _ | (with_reducible first | apply keeps_irq | apply keeps_setFld | apply keeps_ite)

theorem keeps_advGen {z : State} (s : State) (pg : Nat) (hk : Keeps z s) : Keeps z (advGen s pg) := by
  unfold advGen
  repeat' first | (with_reducible first | assumption | apply keeps_irq | apply keeps_setFld)

theorem keeps_recErr {z : State} (s : State) (pg code : Nat) (info : Word) (hk : Keeps z s) : Keeps z (recErr s pg code info) := by
  unfold recErr
  repeat' first
    | with_reducible assumption
    | (intro x; first | (have hx : Keeps z x := (by repeat' first | with_reducible assumption | intro _ | (with_reducible first | apply keeps_setFlag | apply keeps_setFld | apply keeps_wr | apply keeps_ite)); clear_value x) | try clear_value x)
    | lift_lets
    | with_reducible apply keeps_irq

theorem keeps_bumpPulse {z : State} (s : State) (a pg bit : Nat) (hk : Keeps z s) : Keeps z (bumpPulse s a pg bit) := by
  unfold bumpPulse
  repeat' first
    | with_reducible assumption
    | (intro x; first | (have hx : Keeps z x := (by repeat' first | (with_reducible first | assumption | apply keeps_bump)); clear_value x) | try clear_value x)
    | lift_lets
    | (with_reducible first | apply keeps_irq | apply keeps_ite)
    | (with_reducible apply keeps_mk; with_reducible assumption)

theorem keeps_rearm {z : State} (s : State) (a : Nat) (hk : Keeps z s) : Keeps z (rearm s a) := by
  unfold rearm
  repeat' first | (with_reducible apply keeps_mk; with_reducible assumption)

theorem keeps_memWrite {z : State} (s : State) (a : Nat) (bs : List Byte) (hk : Keeps z s) : Keeps z (memWrite s a bs) := 
  keeps_wf hk rfl rfl (twf_tsetL _ _ _) id id id id id

theorem keeps_sramWrite {z : State} (s : State) (a : Nat) (bs : List Byte) (hk : Keeps z s) : Keeps z (sramWrite s a bs) := 
  keeps_wf hk rfl rfl id (twf_tsetL _ _ _) id id id id

theorem keeps_sramZero {z : State} (s : State) (u : Nat) (hk : Keeps z s) : Keeps z (sramZero s u) := 
  keeps_wf hk rfl rfl id (twf_tclear _ _) id id id id

theorem keeps_sramLose {z : State} (s : State) (u : Nat) (hk : Keeps z s) : Keeps z (sramLose s u) := by
  unfold sramLose
  repeat' first
    | (intro x; (have hx : Keeps z x := (by repeat' first | (with_reducible first | assumption | apply keeps_sramZero)); clear_value x))
    | lift_lets
    | (with_reducible apply keeps_mk; with_reducible assumption)

theorem keeps_tabWrite {z : State} (s : State) (a : Nat) (bs : List Byte) (hk : Keeps z s) : Keeps z (tabWrite s a bs) := 
  keeps_wf hk rfl rfl id id (twf_tsetL _ _ _) id id id

theorem keeps_hostWrite {z : State} (s : State) (a : Nat) (bs : List Byte) (hk : Keeps z s) : Keeps z (hostWrite s a bs) := 
  keeps_wf hk rfl rfl id id id (twf_tsetL _ _ _) id id

theorem keeps_flashWrite {z : State} (s : State) (a : Nat) (bs : List Byte) (hk : Keeps z s) : Keeps z (flashWrite s a bs) := 
  keeps_wf hk rfl rfl id id id id (twf_tsetL _ _ _) id

theorem keeps_descWrite {z : State} (s : State) (a : Nat) (bs : List Byte) (hk : Keeps z s) : Keeps z (descWrite s a bs) := 
  keeps_wf hk rfl rfl id id id id id (twf_tsetL _ _ _)

theorem keeps_flashErase {z : State} (s : State) (a n : Nat) (hk : Keeps z s) : Keeps z (flashErase s a n) := 
  keeps_wf hk rfl rfl id id id id (twf_tclear _ _) id

theorem keeps_poisonWords {z : State} (s : State) (ws : List Nat) (hk : Keeps z s) : Keeps z (poisonWords s ws) := by
  unfold poisonWords
  repeat' first | (with_reducible apply keeps_mk; with_reducible assumption)

theorem keeps_memUeWords {z : State} (s : State) (ws : List Nat) (hk : Keeps z s) : Keeps z (memUeWords s ws) := by
  unfold memUeWords
  repeat' first | (with_reducible apply keeps_mk; with_reducible assumption)

theorem keeps_memUeLog {z : State} (s : State) (a n : Nat) (hk : Keeps z s) : Keeps z (memUeLog s a n) := by
  unfold memUeLog
  repeat' first | (with_reducible apply keeps_mk; with_reducible assumption)

theorem keeps_sramUe {z : State} (s : State) (a : Nat) (hk : Keeps z s) : Keeps z (sramUe s a) := by
  unfold sramUe
  repeat' first
    | with_reducible assumption
    | (intro x; first | (have hx : Keeps z x := (by repeat' first | (with_reducible first | assumption | apply keeps_bump | apply keeps_irq | apply keeps_recErr)); clear_value x) | try clear_value x)
    | lift_lets
    | (with_reducible first | apply keeps_wrN | apply keeps_ite)

theorem keeps_correctWord {z : State} (s : State) (w : Nat) (hk : Keeps z s) : Keeps z (correctWord s w) := by
  unfold correctWord
  repeat' first | with_reducible apply keeps_bump | (with_reducible apply keeps_mk; with_reducible assumption)

theorem keeps_correct {z : State} (s : State) (l : List (Nat × Nat)) (hk : Keeps z s) : Keeps z (correct s l) := by
  unfold correct
  repeat' first | with_reducible assumption | intro _ | (with_reducible first | apply keeps_correctWord | apply keeps_foldl)

theorem keeps_setTpin {z : State} (s : State) (n : Nat) (x : PinSt) (hk : Keeps z s) : Keeps z (setTpin s n x) := by
  unfold setTpin
  repeat' first | (with_reducible apply keeps_mk; with_reducible assumption)

theorem keeps_pinEvent {z : State} (s : State) (n : Nat) (hk : Keeps z s) : Keeps z (pinEvent s n) := by
  unfold pinEvent
  repeat' first
    | with_reducible assumption
    | (intro x; try clear_value x)
    | lift_lets
    | (with_reducible first | apply keeps_bump | apply keeps_setTpin | apply keeps_ite)

theorem keeps_srcEvent {z : State} (s : State) (src arg : Nat) (hk : Keeps z s) : Keeps z (srcEvent s src arg) := by
  unfold srcEvent
  repeat' first
    | with_reducible assumption
    | (intro x; first | (have hx : Keeps z x := (by repeat' first | with_reducible assumption | intro _ | (with_reducible first | apply keeps_bumpWide | apply keeps_ite | apply keeps_foldl)); clear_value x) | try clear_value x)
    | lift_lets
    | (with_reducible first | apply keeps_pinEvent | apply keeps_ite | apply keeps_foldl)

theorem keeps_srcEvents {z : State} (s : State) (src arg : Nat) (y0 : Nat) (hk : Keeps z s) : Keeps z (srcEvents s src arg y0) := by
  induction y0 generalizing s with
  | zero => unfold srcEvents; exact hk
  | succ k ih =>
    unfold srcEvents
    repeat' first | (with_reducible first | assumption | apply keeps_srcEvent | apply ih)

theorem keeps_setAnc {z : State} (s : State) (a : Nat) (x : AncSt) (hk : Keeps z s) : Keeps z (setAnc s a x) := by
  unfold setAnc
  repeat' first | (with_reducible apply keeps_mk; with_reducible assumption)

theorem keeps_setTile {z : State} (s : State) (t : Nat) (x : TileSt) (hk : Keeps z s) : Keeps z (setTile s t x) := by
  unfold setTile
  repeat' first | (with_reducible apply keeps_mk; with_reducible assumption)

theorem keeps_setCtx {z : State} (s : State) (c : Nat) (x : CtxSt) (hk : Keeps z s) : Keeps z (setCtx s c x) := by
  unfold setCtx
  repeat' first | (with_reducible apply keeps_mk; with_reducible assumption)

theorem keeps_ancCount {z : State} (s : State) (kind cnt a : Nat) (hk : Keeps z s) : Keeps z (ancCount s kind cnt a) := by
  unfold ancCount
  repeat' first | (with_reducible first | assumption | apply keeps_bump | apply keeps_wrN)

theorem keeps_latchOn {z : State} (s : State) (a : Nat) (hk : Keeps z s) : Keeps z (latchOn s a) := by
  unfold latchOn
  repeat' first | (intro x; try clear_value x) | lift_lets | (with_reducible apply keeps_mk; with_reducible assumption)

theorem keeps_ancFault {z : State} (s : State) (a : Nat) (hk : Keeps z s) : Keeps z (ancFault s a) := by
  unfold ancFault
  repeat' first
    | with_reducible assumption
    | (intro x; first | (have hx : Keeps z x := (by repeat' first | (with_reducible first | assumption | apply keeps_latchOn)); clear_value x) | try clear_value x)
    | lift_lets
    | (with_reducible first | apply keeps_ancCount | apply keeps_irq | apply keeps_setAnc)

theorem keeps_ancAdd {z : State} (s : State) (a inc : Nat) (hk : Keeps z s) : Keeps z (ancAdd s a inc) := by
  unfold ancAdd
  repeat' first
    | with_reducible assumption
    | (intro x; try clear_value x)
    | lift_lets
    | (with_reducible first | apply keeps_ancCount | apply keeps_irq | apply keeps_setAnc | apply keeps_ite)

theorem keeps_ancReset {z : State} (s : State) (a : Nat) (hk : Keeps z s) : Keeps z (ancReset s a) := by
  unfold ancReset
  repeat' first | (with_reducible first | assumption | apply keeps_latchOn | apply keeps_setAnc)

theorem keeps_ancOwner {z : State} (s : State) (a o : Nat) (hk : Keeps z s) : Keeps z (ancOwner s a o) := by
  unfold ancOwner
  repeat' first | (with_reducible first | assumption | apply keeps_latchOn | apply keeps_setAnc)

theorem keeps_guardSig {z : State} (s : State) (who : Signaller) (a : Nat) (eff : State → State) (hk : Keeps z s) (hf_eff : ∀ (a0 : State),
    Keeps z a0 → Keeps z (eff a0)) : Keeps z (guardSig s who a eff) := by
  unfold guardSig
  repeat' first
    | with_reducible assumption
    | intro _
    | (with_reducible first | apply keeps_ancCount | apply keeps_irq | apply hf_eff | apply keeps_ite)
    | split

theorem keeps_ancSignal {z : State} (s : State) (a inc : Nat) (hk : Keeps z s) : Keeps z (ancSignal s a inc) := by
  unfold ancSignal
  repeat' first | (with_reducible first | assumption | apply keeps_ancAdd | apply keeps_srcEvent)

theorem keeps_sigAdd {z : State} (s : State) (who : Signaller) (a inc : Nat) (hk : Keeps z s) : Keeps z (sigAdd s who a inc) := by
  unfold sigAdd
  repeat' first | with_reducible assumption | intro _ | (with_reducible first | apply keeps_ancSignal | apply keeps_guardSig)

theorem keeps_sigFault {z : State} (s : State) (who : Signaller) (a : Nat) (hk : Keeps z s) : Keeps z (sigFault s who a) := by
  unfold sigFault
  repeat' first | with_reducible assumption | intro _ | (with_reducible first | apply keeps_ancFault | apply keeps_guardSig)

theorem keeps_accept {z : State} (s : State) (r : CmdRef) (hk : Keeps z s) : Keeps z (accept s r) := by
  unfold accept
  repeat' first | (with_reducible apply keeps_mk; with_reducible assumption)

theorem keeps_unaccept {z : State} (s : State) (r : CmdRef) (hk : Keeps z s) : Keeps z (unaccept s r) := by
  unfold unaccept
  repeat' first | (with_reducible apply keeps_mk; with_reducible assumption)

theorem keeps_updJob {z : State} (s : State) (h : Nat) (f : JobSt → JobSt) (hk : Keeps z s) : Keeps z (updJob s h f) := by
  unfold updJob
  repeat' first | (with_reducible apply keeps_mk; with_reducible assumption)

theorem keeps_sendFrame {z : State} (s : State) (typ vc dst : Nat) (payload : List Byte) (hk : Keeps z s) : Keeps z (sendFrame s typ vc dst
    payload) := by
  unfold sendFrame
  repeat' first | (intro x; try clear_value x) | lift_lets | (with_reducible apply keeps_mk; with_reducible assumption)

theorem keeps_notice {z : State} (s : State) (code arg : Nat) (detail : List Byte) (hk : Keeps z s) : Keeps z (notice s code arg detail) :=
    by
  unfold notice
  repeat' first | (with_reducible first | assumption | apply keeps_sendFrame)

theorem keeps_fwdFrame {z : State} (s : State) (b kind n : Nat) (body : List Byte) (hk : Keeps z s) : Keeps z (fwdFrame s b kind n body) :=
    by
  unfold fwdFrame
  repeat' first | with_reducible assumption | intro _ | (with_reducible first | apply keeps_sendFrame | apply keeps_ite)

theorem keeps_updCtx {z : State} (s : State) (c : Nat) (f : CtxSt → CtxSt) (hk : Keeps z s) : Keeps z (updCtx s c f) := by
  unfold updCtx
  repeat' first | (with_reducible first | assumption | apply keeps_setCtx)

theorem keeps_updCmd {z : State} (s : State) (c q : Nat) (f : CmdSt → CmdSt) (hk : Keeps z s) : Keeps z (updCmd s c q f) := by
  unfold updCmd
  repeat' first | (with_reducible first | assumption | apply keeps_updCtx)

theorem keeps_setStatus {z : State} (s : State) (c q status result : Nat) (hk : Keeps z s) : Keeps z (setStatus s c q status result) := by
  unfold setStatus
  repeat' first | (with_reducible first | assumption | apply keeps_updCmd)

theorem keeps_ringPut {z : State} (s : State) (c : Nat) (r : Cpl) (irqOn : Bool) (hk : Keeps z s) : Keeps z (ringPut s c r irqOn) := by
  unfold ringPut
  repeat' first
    | with_reducible assumption
    | (intro x; first | (have hx : Keeps z x := (by repeat' first | (with_reducible first | assumption | apply keeps_bump | apply keeps_hostWrite | apply keeps_updCtx | apply keeps_wrN)); clear_value x) | try clear_value x)
    | lift_lets
    | (with_reducible first | apply keeps_sendMsix | apply keeps_ite)

theorem keeps_putCpl {z : State} (s : State) (c : Nat) (r : Cpl) (irqOn : Bool) (hk : Keeps z s) : Keeps z (putCpl s c r irqOn) := by
  unfold putCpl
  repeat' first
    | with_reducible assumption
    | (intro x; try clear_value x)
    | lift_lets
    | (with_reducible first | apply keeps_bump | apply keeps_ringPut | apply keeps_sendFrame | apply keeps_updCtx | apply keeps_ite)

theorem keeps_releaseHeld {z : State} (c : Nat) (y0 : Nat) (y1 : State) (hk : Keeps z y1) : Keeps z (releaseHeld c y0 y1) := by
  induction y0 generalizing y1 with
  | zero => unfold releaseHeld; exact hk
  | succ k ih =>
    unfold releaseHeld
    repeat' first
      | with_reducible assumption
      | intro _
      | (with_reducible first | apply keeps_ringPut | apply keeps_updCtx | apply ih | apply keeps_ite)
      | split

theorem keeps_hostSignal {z : State} (s : State) (c : Nat) (k : CmdSt) (status : Nat) (hk : Keeps z s) : Keeps z (hostSignal s c k status).1
    := by
  unfold hostSignal
  repeat' first
    | with_reducible assumption
    | lift_lets
    | (with_reducible first | apply keeps_sigAdd | apply keeps_sigFault)
    | split
    | dsimp only

theorem keeps_endCmd {z : State} (s : State) (c : Nat) (k : CmdSt) (status : Nat) (hk : Keeps z s) : Keeps z (endCmd s c k status) := by
  unfold endCmd
  repeat' first
    | with_reducible assumption
    | (intro x; try clear_value x)
    | lift_lets
    | (with_reducible first | apply keeps_bump | apply keeps_hostSignal | apply keeps_irq | apply keeps_putCpl | apply keeps_unaccept | apply keeps_updCtx | apply keeps_ite)

theorem keeps_markStartable {z : State} (s : State) (c : Nat) (hk : Keeps z s) : Keeps z (markStartable s c) := by
  unfold markStartable
  repeat' first | (with_reducible first | assumption | apply keeps_updCtx)

theorem keeps_asyncRecord {z : State} (s : State) (j : JobSt) (status : Nat) (hk : Keeps z s) : Keeps z (asyncRecord s j status) := by
  unfold asyncRecord
  repeat' first | with_reducible assumption | intro _ | (with_reducible first | apply keeps_bump | apply keeps_putCpl | apply keeps_ite)

theorem keeps_endJob {z : State} (s : State) (status h : Nat) (hk : Keeps z s) : Keeps z (endJob s status h) := by
  unfold endJob
  repeat' first
    | with_reducible assumption
    | (intro x; first | (have hx : Keeps z x := (by repeat' first | (with_reducible first | assumption | apply keeps_updJob)); clear_value x) | try clear_value x)
    | lift_lets
    | (with_reducible first | apply keeps_addLog | apply keeps_asyncRecord | apply keeps_ite)
    | split

theorem keeps_endJobs {z : State} (s : State) (status : Nat) (pick : JobSt → Bool) (hk : Keeps z s) : Keeps z (endJobs s status pick) := by
  unfold endJobs
  repeat' first | with_reducible assumption | intro _ | (with_reducible first | apply keeps_endJob | apply keeps_foldl)

theorem keeps_setNc {z : State} (s : State) (n : Nat) (x : NcSt) (hk : Keeps z s) : Keeps z (setNc s n x) := by
  unfold setNc
  repeat' first | (with_reducible apply keeps_mk; with_reducible assumption)

theorem keeps_setSrc {z : State} (s : State) (k : Nat) (x : SrcSt) (hk : Keeps z s) : Keeps z (setSrc s k x) := by
  unfold setSrc
  repeat' first | (with_reducible apply keeps_mk; with_reducible assumption)

theorem keeps_setSlot {z : State} (s : State) (t k : Nat) (x : SlotSt) (hk : Keeps z s) : Keeps z (setSlot s t k x) := by
  unfold setSlot
  repeat' first | (with_reducible apply keeps_mk; with_reducible assumption)

theorem keeps_setRgnWord {z : State} (s : State) (e i : Nat) (v : Word) (hk : Keeps z s) : Keeps z (setRgnWord s e i v) := by
  unfold setRgnWord
  repeat' first | (with_reducible apply keeps_mk; with_reducible assumption)

theorem keeps_setAwaiting {z : State} (s : State) (u : Nat) (b : Bool) (hk : Keeps z s) : Keeps z (setAwaiting s u b) := by
  unfold setAwaiting
  repeat' first | (with_reducible apply keeps_mk; with_reducible assumption)

theorem keeps_setNcIn {z : State} (s : State) (n : Nat) (q : List FabWord) (hk : Keeps z s) : Keeps z (setNcIn s n q) := by
  unfold setNcIn
  repeat' first | (with_reducible apply keeps_mk; with_reducible assumption)

theorem keeps_deliver {z : State} (s : State) (w : FabWord) (d : Dest) (hk : Keeps z s) : Keeps z (deliver s w d) := by
  unfold deliver
  repeat' first
    | with_reducible assumption
    | intro _
    | (with_reducible first | apply keeps_bumpN | apply keeps_setNcIn | apply keeps_setSlot | apply keeps_ite)
    | split

theorem keeps_deliverAll {z : State} (s : State) (w : FabWord) (ds : List Dest) (hk : Keeps z s) : Keeps z (deliverAll s w ds) := by
  unfold deliverAll
  repeat' first | with_reducible assumption | intro _ | (with_reducible first | apply keeps_deliver | apply keeps_foldl)

theorem keeps_setHop {z : State} (s : State) (k : Nat) (l : List FabMsg) (hk : Keeps z s) : Keeps z (setHop s k l) := by
  unfold setHop
  repeat' first | (with_reducible apply keeps_mk; with_reducible assumption)

theorem keeps_pushHop {z : State} (s : State) (k : Nat) (m : FabMsg) (hk : Keeps z s) : Keeps z (pushHop s k m) := by
  unfold pushHop
  repeat' first | (with_reducible first | assumption | apply keeps_setHop)

theorem keeps_splitStep {z : State} (v : Nat) (m : FabMsg) (a : State × List Dest) (e : Nat × List Dest) (hk : Keeps z a.1) : Keeps z
    (splitStep v m a e).1 := by
  unfold splitStep
  dsimp only
  split
  · exact keeps_pushHop _ _ _ hk
  · exact hk

theorem keeps_moveHead {z : State} (s : State) (k : Nat) (hk : Keeps z s) : Keeps z (moveHead s k) := by
  unfold moveHead
  repeat' first
    | with_reducible assumption
    | (intro x; try clear_value x)
    | lift_lets
    | (with_reducible first | apply keeps_deliver | apply keeps_setHop | apply keeps_splitStep | apply keeps_foldl_fst)
    | split

theorem keeps_settleFor {z : State} (y0 : Nat) (y1 : State) (hk : Keeps z y1) : Keeps z (settleFor y0 y1) := by
  induction y0 generalizing y1 with
  | zero => unfold settleFor; exact hk
  | succ k ih =>
    unfold settleFor
    repeat' first
      | with_reducible assumption
      | (intro x; first | (have hx : Keeps z x := (by repeat' first | with_reducible assumption | intro _ | (with_reducible first | apply keeps_moveHead | apply keeps_foldl)); clear_value x) | try clear_value x)
      | lift_lets
      | (with_reducible first | apply ih | apply keeps_ite)

theorem keeps_settle {z : State} (s : State) (hk : Keeps z s) : Keeps z (settle s) := by
  unfold settle
  repeat' first | (with_reducible first | assumption | apply keeps_settleFor)

theorem keeps_inject {z : State} (s : State) (w : FabWord) (ds : List Dest) (hk : Keeps z s) : Keeps z (inject s w ds) := by
  unfold inject
  repeat' first
    | with_reducible assumption
    | intro _
    | (with_reducible first | apply keeps_deliverAll | apply keeps_setHop | apply keeps_settle | apply keeps_ite)

theorem keeps_purge {z : State} (s : State) (d : Dest) (hk : Keeps z s) : Keeps z (purge s d) := by
  unfold purge
  repeat' first
    | with_reducible assumption
    | (intro x; try clear_value x)
    | lift_lets
    | (with_reducible first | apply keeps_bumpN | apply keeps_settle | apply keeps_ite)
    | (with_reducible apply keeps_mk; with_reducible assumption)

theorem keeps_setFanQ {z : State} (s : State) (c : Nat) (q : List FabWord) (hk : Keeps z s) : Keeps z (setFanQ s c q) := by
  unfold setFanQ
  repeat' first | (with_reducible apply keeps_mk; with_reducible assumption)

theorem keeps_pmcTime {z : State} (dt : Nat) (s : State) (k : Nat) (hk : Keeps z s) : Keeps z (pmcTime dt s k) := by
  unfold pmcTime
  repeat' first
    | with_reducible assumption
    | (intro x; try clear_value x)
    | lift_lets
    | (with_reducible first | apply keeps_bumpWide | apply keeps_ite)

theorem keeps_pinTime {z : State} (s : State) (n : Nat) (hk : Keeps z s) : Keeps z (pinTime s n) := by
  unfold pinTime
  repeat' first
    | with_reducible assumption
    | (intro x; first | (have hx : Keeps z x := (by repeat' first | with_reducible assumption | intro _ | (with_reducible first | apply keeps_pinEvent | apply keeps_ite)); clear_value x) | try clear_value x)
    | lift_lets
    | (with_reducible first | apply keeps_setTpin | apply keeps_ite)

theorem keeps_vcTime {z : State} (till : Nat) (s : State) (v : Nat) (hk : Keeps z s) : Keeps z (vcTime till s v) := by
  unfold vcTime
  repeat' first
    | with_reducible assumption
    | (intro x; try clear_value x)
    | lift_lets
    | (with_reducible first | apply keeps_bumpN | apply keeps_ite)

theorem keeps_spikeTime {z : State} (till : Nat) (s : State) (e : Nat × List FabWord) (hk : Keeps z s) : Keeps z (spikeTime till s e) := by
  unfold spikeTime
  repeat' first
    | with_reducible assumption
    | (intro x; try clear_value x)
    | lift_lets
    | (with_reducible first | apply keeps_bumpN | apply keeps_ite | apply keeps_foldl)

theorem keeps_linkTime {z : State} (till : Nat) (s : State) (p : Nat) (hk : Keeps z s) : Keeps z (linkTime till s p) := by
  unfold linkTime
  repeat' first
    | with_reducible assumption
    | (intro x; first | (have hx : Keeps z x := (by repeat' first | (with_reducible first | assumption | apply keeps_bumpN)); clear_value x) | try clear_value x)
    | lift_lets
    | (with_reducible first | apply keeps_bumpN | apply keeps_ite)

theorem keeps_probeTime {z : State} (s : State) (till : Nat) (hk : Keeps z s) : Keeps z (probeTime s till) := by
  unfold probeTime
  repeat' first
    | with_reducible assumption
    | (intro x; first | (have hx : Keeps z x := (by repeat' first | with_reducible assumption | intro _ | (with_reducible first | apply keeps_pinTime | apply keeps_pmcTime | apply keeps_foldl)); clear_value x) | try clear_value x)
    | lift_lets
    | (with_reducible first | apply keeps_linkTime | apply keeps_spikeTime | apply keeps_vcTime | apply keeps_foldl)

theorem keeps_slewRegs {z : State} (s : State) (hk : Keeps z s) : Keeps z (slewRegs s) := by
  unfold slewRegs
  repeat' first
    | with_reducible assumption
    | (intro x; try clear_value x)
    | lift_lets
    | (with_reducible first | apply keeps_setFlag | apply keeps_wrS)

theorem keeps_slewFor {z : State} (s : State) (elapsed : Nat) (hk : Keeps z s) : Keeps z (slewFor s elapsed) := by
  unfold slewFor
  repeat' first
    | with_reducible assumption
    | intro _
    | (with_reducible first | apply keeps_slewRegs | apply keeps_ite)
    | (with_reducible apply keeps_mk; with_reducible assumption)

theorem keeps_advance {z : State} (s0 : State) (now : Nat) (hk : Keeps z s0) : Keeps z (advance s0 now) := by
  unfold advance
  split
  · exact hk
  · next hn =>
    have h2 : Keeps z (probeTime s0 now) := keeps_probeTime _ _ hk
    have h3 := probeTime_ft s0 now
    dsimp only
    refine keeps_slewFor _ _ ?_
    exact h2.trans ⟨rfl, by show (probeTime s0 now).ft ≤ now; rw [h3]; omega, id⟩

theorem keeps_tick {z : State} (s0 : State) (hk : Keeps z s0) : Keeps z (tick s0) := by
  unfold tick
  dsimp only
  split
  · exact hk
  · refine keeps_slewFor _ _ ?_
    exact (keeps_probeTime _ _ hk).trans ⟨rfl, Nat.le_add_right _ _, id⟩

theorem keeps_fwdWords {z : State} (s : State) (src : Nat) (ws : List Nat) (word : Bool) (hk : Keeps z s) : Keeps z (fwdWords s src ws word)
    := by
  unfold fwdWords
  repeat' first
    | with_reducible assumption
    | (intro x; try clear_value x)
    | lift_lets
    | (with_reducible first | apply keeps_fwdFrame | apply keeps_setSrc | apply keeps_ite | apply keeps_foldl)
    | split

theorem keeps_castCairn {z : State} (s : State) (src : Nat) (x : SrcSt) (w : FabWord) (hk : Keeps z s) : Keeps z (castCairn s src x w) := by
  unfold castCairn
  repeat' first
    | with_reducible assumption
    | (intro x; first | (have hx : Keeps z x := (by repeat' first | (with_reducible first | assumption | apply keeps_setSrc)); clear_value x) | try clear_value x)
    | lift_lets
    | (with_reducible first | apply keeps_fwdWords | apply keeps_inject)

theorem keeps_sendCairn {z : State} (src : Nat) (s : State) (c : CairnRec) (hk : Keeps z s) : Keeps z (sendCairn src s c) := by
  unfold sendCairn
  repeat' first
    | with_reducible assumption
    | (intro x; first | (have hx : Keeps z x := (by repeat' first | with_reducible assumption); clear_value x) | try clear_value x)
    | lift_lets
    | with_reducible apply keeps_castCairn

theorem keeps_startStream {z : State} (s : State) (src stamp : Nat) (hk : Keeps z s) : Keeps z (startStream s src stamp) := by
  unfold startStream
  repeat' first
    | with_reducible assumption
    | (intro x; try clear_value x)
    | lift_lets
    | (with_reducible first | apply keeps_fwdWords | apply keeps_setSrc | apply keeps_ite)
    | split

theorem keeps_openStream {z : State} (s : State) (src stamp : Nat) (hk : Keeps z s) : Keeps z (openStream s src stamp) := by
  unfold openStream
  repeat' first
    | with_reducible assumption
    | (intro x; first | (have hx : Keeps z x := (by repeat' first | with_reducible assumption | intro _ | (with_reducible first | apply keeps_sendCairn | apply keeps_startStream | apply keeps_foldl)); clear_value x) | try clear_value x)
    | lift_lets
    | (with_reducible first | apply keeps_castCairn | apply keeps_ite)

theorem keeps_openPath {z : State} (src : Nat) (s : State) (d : Dest) (hk : Keeps z s) : Keeps z (openPath src s d) := by
  unfold openPath
  repeat' first
    | with_reducible assumption
    | (intro x; try clear_value x)
    | lift_lets
    | (with_reducible first | apply keeps_inject | apply keeps_setSrc | apply keeps_ite)

theorem keeps_sendWord {z : State} (s : State) (src stamp : Nat) (mk : Nat → Quad) (ext : Nat) (ds : List Dest) (hk : Keeps z s) : Keeps z
    (sendWord s src stamp mk ext ds) := by
  unfold sendWord
  repeat' first
    | with_reducible assumption
    | (intro x; first | (have hx : Keeps z x := (by repeat' first | with_reducible assumption | intro _ | (with_reducible first | apply keeps_fwdWords | apply keeps_openPath | apply keeps_openStream | apply keeps_setSrc | apply keeps_foldl)); clear_value x) | try clear_value x)
    | lift_lets
    | with_reducible apply keeps_inject

theorem keeps_sendMark {z : State} (s : State) (src stamp : Nat) (final : Bool) (hk : Keeps z s) : Keeps z (sendMark s src stamp final) :=
    by
  unfold sendMark
  repeat' first
    | with_reducible assumption
    | (intro x; first | (have hx : Keeps z x := (by repeat' first | (with_reducible first | assumption | apply keeps_openStream | apply keeps_setSrc)); clear_value x) | try clear_value x)
    | lift_lets
    | with_reducible apply keeps_sendWord

theorem keeps_sendFinalTo {z : State} (src : Nat) (s : State) (d : Dest) (hk : Keeps z s) : Keeps z (sendFinalTo src s d) := by
  unfold sendFinalTo
  repeat' first | with_reducible assumption | (intro x; try clear_value x) | lift_lets | with_reducible apply keeps_sendWord

theorem keeps_sendFinal {z : State} (s : State) (src : Nat) (hk : Keeps z s) : Keeps z (sendFinal s src) := by
  unfold sendFinal
  repeat' first
    | with_reducible assumption
    | intro _
    | (with_reducible first | apply keeps_sendFinalTo | apply keeps_startStream | apply keeps_foldl)

theorem keeps_newSource {z : State} (s : State) (src : Nat) (hk : Keeps z s) : Keeps z (newSource s src) := by
  unfold newSource
  repeat' first | (with_reducible first | assumption | apply keeps_setSrc)

theorem keeps_newDest {z : State} (s : State) (d : Dest) (hk : Keeps z s) : Keeps z (newDest s d) := by
  unfold newDest
  repeat' first | (with_reducible apply keeps_mk; with_reducible assumption)

theorem keeps_showN {z : State} (s : State) (n : Nat) (hk : Keeps z s) : Keeps z (showN s n) := by
  unfold showN
  repeat' first | (with_reducible first | assumption | apply keeps_setFld)

theorem keeps_showCairn {z : State} (s : State) (c : CairnRec) (hk : Keeps z s) : Keeps z (showCairn s c) := by
  unfold showCairn
  repeat' first | with_reducible apply keeps_setFld | (with_reducible apply keeps_mk; with_reducible assumption)

theorem keeps_castLate {z : State} (c : CairnRec) (s : State) (src : Nat) (hk : Keeps z s) : Keeps z (castLate c s src) := by
  unfold castLate
  repeat' first | with_reducible assumption | intro _ | (with_reducible first | apply keeps_sendCairn | apply keeps_ite)

theorem keeps_newCairn {z : State} (s : State) (ft reasons : Nat) (hk : Keeps z s) : Keeps z (newCairn s ft reasons) := by
  unfold newCairn
  repeat' first
    | with_reducible assumption
    | (intro x; first | (have hx : Keeps z x := (by repeat' first | with_reducible assumption | intro _ | (with_reducible first | apply keeps_showN | apply keeps_foldl) | (with_reducible apply keeps_mk; with_reducible assumption)); clear_value x) | try clear_value x)
    | lift_lets
    | (with_reducible first | apply keeps_castLate | apply keeps_showCairn | apply keeps_srcEvent | apply keeps_foldl)

theorem keeps_joinCairn {z : State} (s : State) (c : CairnRec) (ft reasons : Nat) (hk : Keeps z s) : Keeps z (joinCairn s c ft reasons) :=
    by
  unfold joinCairn
  repeat' first
    | with_reducible assumption
    | (intro x; first | (have hx : Keeps z x := (by repeat' first | with_reducible assumption | intro _ | (with_reducible first | apply keeps_showCairn | apply keeps_ite) | (with_reducible apply keeps_mk; with_reducible assumption)); clear_value x) | try clear_value x)
    | lift_lets
    | with_reducible apply keeps_ite
    | (with_reducible apply keeps_mk; with_reducible assumption)

theorem keeps_insertCairn {z : State} (s : State) (reasons : Nat) (hk : Keeps z s) : Keeps z (insertCairn s reasons) := by
  unfold insertCairn
  repeat' first | (with_reducible first | assumption | apply keeps_joinCairn | apply keeps_newCairn) | split

theorem keeps_reversion {z : State} (s : State) (ft : Nat) (hk : Keeps z s) : Keeps z (reversion s ft) := by
  unfold reversion
  repeat' first | (with_reducible apply keeps_mk; with_reducible assumption)

theorem keeps_insertReg {z : State} (s0 : State) (ft : Nat) (hk : Keeps z s0) : Keeps z (insertReg s0 ft) := by
  unfold insertReg
  repeat' first
    | with_reducible assumption
    | (intro x; first | (have hx : Keeps z x := (by repeat' first | (with_reducible first | assumption | apply keeps_reversion)); clear_value x) | try clear_value x)
    | lift_lets
    | (with_reducible first | apply keeps_joinCairn | apply keeps_newCairn | apply keeps_ite)
    | split

theorem keeps_failAcc {z : State} (s : State) (w : Who) (isWr : Bool) (a : Nat) (y0 : Chk) (hk : Keeps z s) : Keeps z (failAcc s w isWr a
    y0) := by
  unfold failAcc
  repeat' first
    | with_reducible assumption
    | (intro x; first | (have hx : Keeps z x := (by repeat' first | (with_reducible first | assumption | apply keeps_recErr)); clear_value x) | try clear_value x)
    | lift_lets
    | (with_reducible first | apply keeps_bump | apply keeps_ite)
    | split

theorem keeps_guardW {z : State} (s : State) (w : Who) (size a : Nat) (eff : State → State) (hk : Keeps z s) (hf_eff : ∀ (a0 : State), Keeps
    z a0 → Keeps z (eff a0)) : Keeps z (guardW s w size a eff) := by
  unfold guardW
  repeat' first | (with_reducible first | assumption | apply keeps_failAcc | apply hf_eff) | split

theorem keeps_wErr {z : State} (s : State) (w : Who) (a code : Nat) (hk : Keeps z s) : Keeps z (wErr s w a code) := by
  unfold wErr
  repeat' first | (with_reducible first | assumption | apply keeps_recErr)

theorem keeps_plainWrite {z : State} (s : State) (w : Who) (a : Nat) (v : Word) (hk : Keeps z s) : Keeps z (plainWrite s w a v) := by
  unfold plainWrite
  repeat' first
    | with_reducible assumption
    | (intro x; try clear_value x)
    | lift_lets
    | (with_reducible first | apply keeps_wErr | apply keeps_wr | apply keeps_ite)
    | split

theorem keeps_staticWrite {z : State} (s : State) (w : Who) (a : Nat) (v : Word) (cond : Bool) (code : Nat) (hk : Keeps z s) : Keeps z
    (staticWrite s w a v cond code) := by
  unfold staticWrite
  repeat' first | with_reducible assumption | intro _ | (with_reducible first | apply keeps_plainWrite | apply keeps_wErr | apply keeps_ite)

theorem keeps_clearRc {z : State} (s : State) (k a : Nat) (hk : Keeps z s) : Keeps z (clearRc s k a) := by
  unfold clearRc
  repeat' first
    | with_reducible assumption
    | (intro x; try clear_value x)
    | lift_lets
    | (with_reducible first | apply keeps_rearm | apply keeps_wr | apply keeps_ite)
    | split

theorem keeps_mapRegs {z : State} (s : State) (pg : Nat) (f : Nat → Word → Word) (hk : Keeps z s) : Keeps z (mapRegs s pg f) := by
  unfold mapRegs
  repeat' first
    | with_reducible assumption
    | (intro x; try clear_value x)
    | lift_lets
    | (with_reducible first | apply keeps_wr | apply keeps_foldl)

theorem keeps_softRegs {z : State} (s : State) (pg : Nat) (hk : Keeps z s) : Keeps z (softRegs s pg) := by
  unfold softRegs
  repeat' first | (with_reducible first | assumption | apply keeps_mapRegs)

theorem keeps_softCounters {z : State} (s : State) (pg : Nat) (hk : Keeps z s) : Keeps z (softCounters s pg) := by
  unfold softCounters
  repeat' first
    | with_reducible assumption
    | (intro x; try clear_value x)
    | lift_lets
    | (with_reducible first | apply keeps_wr | apply keeps_ite | apply keeps_foldl)
    | split

theorem keeps_rearmPage {z : State} (s : State) (pg : Nat) (hk : Keeps z s) : Keeps z (rearmPage s pg) := by
  unfold rearmPage
  repeat' first | (with_reducible apply keeps_mk; with_reducible assumption)

theorem keeps_softEnd {z : State} (s : State) (pg : Nat) (hk : Keeps z s) : Keeps z (softEnd s pg) := by
  unfold softEnd
  repeat' first
    | with_reducible assumption
    | (intro x; first | (have hx : Keeps z x := (by repeat' first | (with_reducible first | assumption | apply keeps_irq | apply keeps_rearmPage | apply keeps_setDisPend | apply keeps_setFlag | apply keeps_setFld)); clear_value x) | try clear_value x)
    | lift_lets
    | (with_reducible first | apply keeps_irq | apply keeps_setFld | apply keeps_ite)

end Sys2Proof.Laws
end

