-- ==== Sys2Proof/Laws/KeepsInputs.lean ====
section
/-!
SUPPORT. One lemma for each operation of the lean settings, the time unit and the motion inputs: applied in a state reached from z, it answers one that is reached so (Laws/KeepsBase.lean).
-/
namespace Sys2Proof.Laws
open Sys2Proof Sys2Proof.Machine

theorem keeps_updPwr {z : State} (s : State) (g : PwrSt → PwrSt) (hk : Keeps z s) : Keeps z (updPwr s g) := by
  unfold updPwr
  repeat' first | (with_reducible apply keeps_mk; with_reducible assumption)

theorem keeps_startWatch {z : State} (s : State) (hk : Keeps z s) : Keeps z (startWatch s) := by
  unfold startWatch
  repeat' first | (with_reducible first | assumption | apply keeps_updPwr)

theorem keeps_updLean {z : State} (s : State) (g : LeanSt → LeanSt) (hk : Keeps z s) : Keeps z (updLean s g) := by
  unfold updLean
  repeat' first | (with_reducible apply keeps_mk; with_reducible assumption)

theorem keeps_retarget {z : State} (s : State) (hk : Keeps z s) : Keeps z (retarget s) := by
  unfold retarget
  repeat' first
    | with_reducible assumption
    | (intro x; first | (have hx : Keeps z x := (by repeat' first | (with_reducible first | assumption | apply keeps_setFld)); clear_value x) | try clear_value x)
    | lift_lets
    | (with_reducible first | apply keeps_updPwr | apply keeps_ite)

theorem keeps_countLate {z : State} (s : State) (hk : Keeps z s) : Keeps z (countLate s) := by
  unfold countLate
  repeat' first
    | with_reducible assumption
    | intro _
    | (with_reducible first | apply keeps_bump | apply keeps_irq | apply keeps_updPwr | apply keeps_ite)

theorem keeps_execRailSettled {z : State} (now mv : Nat) (s0 : State) (hk : Keeps z s0) : KeepsO z (execRailSettled now mv s0) := by
  unfold execRailSettled
  repeat' first
    | with_reducible assumption
    | (intro x; first | (have hx : Keeps z x := (by repeat' first | (with_reducible first | assumption | apply keeps_advance | apply keeps_countLate | apply keeps_setFld)); clear_value x) | try clear_value x)
    | lift_lets
    | (with_reducible first | apply keeps_setFld | apply keeps_updPwr | apply keepsO_ite | apply keepsO)

theorem keeps_execErrAvsTimeout {z : State} (now : Nat) (s0 : State) (hk : Keeps z s0) : KeepsO z (execErrAvsTimeout now s0) := by
  unfold execErrAvsTimeout
  repeat' first
    | with_reducible assumption
    | (intro x; first | (have hx : Keeps z x := (by repeat' first | (with_reducible first | assumption | apply keeps_advance | apply keeps_countLate | apply keeps_recErr)); clear_value x) | try clear_value x)
    | lift_lets
    | (with_reducible first | apply keeps_irq | apply keeps_setFld | apply keeps_updPwr | apply keepsO_ite | apply keepsO)

theorem keeps_execAvsNoAnswer {z : State} (now : Nat) (s0 : State) (hk : Keeps z s0) : KeepsO z (execAvsNoAnswer now s0) := by
  unfold execAvsNoAnswer
  repeat' first
    | with_reducible assumption
    | (intro x; first | (have hx : Keeps z x := (by repeat' first | (with_reducible first | assumption | apply keeps_advance | apply keeps_bump | apply keeps_setFld)); clear_value x) | try clear_value x)
    | lift_lets
    | (with_reducible first | apply keeps_irq | apply keeps_updPwr | apply keepsO)

theorem keeps_execAvsRegulatorAnswer {z : State} (now : Nat) (s0 : State) (hk : Keeps z s0) : KeepsO z (execAvsRegulatorAnswer now s0) := by
  unfold execAvsRegulatorAnswer
  repeat' first
    | with_reducible assumption
    | (intro x; first | (have hx : Keeps z x := (by repeat' first | (with_reducible first | assumption | apply keeps_advance)); clear_value x) | try clear_value x)
    | lift_lets
    | (with_reducible first | apply keeps_retarget | apply keeps_setFld | apply keeps_updPwr | apply keepsO_ite | apply keepsO)

theorem keeps_execAvsTrim {z : State} (now level : Nat) (s0 : State) (hk : Keeps z s0) : KeepsO z (execAvsTrim now level s0) := by
  unfold execAvsTrim
  repeat' first
    | with_reducible assumption
    | (intro x; first | (have hx : Keeps z x := (by repeat' first | (with_reducible first | assumption | apply keeps_advance | apply keeps_setFld | apply keeps_updPwr)); clear_value x) | try clear_value x)
    | lift_lets
    | (with_reducible first | apply keeps_addLog | apply keeps_retarget | apply keepsO_ite | apply keepsO)

theorem keeps_winRestart {z : State} (s : State) (hk : Keeps z s) : Keeps z (winRestart s) := by
  unfold winRestart
  repeat' first | (with_reducible first | assumption | apply keeps_updLean | apply keeps_wrN)

theorem keeps_leanLog {z : State} (s : State) (old new reason : Nat) (hk : Keeps z s) : Keeps z (leanLog s old new reason) := by
  unfold leanLog
  repeat' first | (with_reducible first | assumption | apply keeps_addLogData)

theorem keeps_takeSetting {z : State} (s : State) (st reason : Nat) (hk : Keeps z s) : Keeps z (takeSetting s st reason) := by
  unfold takeSetting
  repeat' first
    | with_reducible assumption
    | (intro x; first | (have hx : Keeps z x := (by repeat' first | (with_reducible first | assumption | apply keeps_leanLog | apply keeps_setFlag | apply keeps_setFld | apply keeps_srcEvent | apply keeps_winRestart | apply keeps_wrN)); clear_value x) | try clear_value x)
    | lift_lets
    | (with_reducible first | apply keeps_irq | apply keeps_setFlag | apply keeps_ite)

theorem keeps_leanDecide {z : State} (s : State) (reason : Nat) (hk : Keeps z s) : Keeps z (leanDecide s reason) := by
  unfold leanDecide
  repeat' first
    | with_reducible assumption
    | (intro x; first | (have hx : Keeps z x := (by repeat' first | with_reducible assumption | intro _ | (with_reducible first | apply keeps_setFlag | apply keeps_setFld | apply keeps_updLean | apply keeps_ite)); clear_value x) | try clear_value x)
    | lift_lets
    | with_reducible apply keeps_retarget

theorem keeps_stepDown {z : State} (s : State) (reason : Nat) (hk : Keeps z s) : Keeps z (stepDown s reason) := by
  unfold stepDown
  repeat' first
    | with_reducible assumption
    | (intro x; first | (have hx : Keeps z x := (by repeat' first | (with_reducible first | assumption | apply keeps_setFld | apply keeps_updLean | apply keeps_winRestart)); clear_value x) | try clear_value x)
    | lift_lets
    | (with_reducible first | apply keeps_bump | apply keeps_leanDecide | apply keeps_leanLog)

theorem keeps_lean0Mismatch {z : State} (s : State) (hk : Keeps z s) : Keeps z (lean0Mismatch s) := by
  unfold lean0Mismatch
  repeat' first
    | with_reducible assumption
    | (intro x; first | (have hx : Keeps z x := (by repeat' first | (with_reducible first | assumption | apply keeps_bump | apply keeps_irq | apply keeps_leanLog)); clear_value x) | try clear_value x)
    | lift_lets
    | (with_reducible first | apply keeps_endJobs | apply keeps_ite)

theorem keeps_countReplays {z : State} (s : State) (tts ncs : List (Nat × Nat)) (beats : Nat) (hk : Keeps z s) : Keeps z (countReplays s tts
    ncs beats) := by
  unfold countReplays
  repeat' first
    | with_reducible assumption
    | (intro x; first | (have hx : Keeps z x := (by repeat' first | with_reducible assumption | intro _ | (with_reducible first | apply keeps_bumpN | apply keeps_srcEvents | apply keeps_foldl)); clear_value x) | try clear_value x)
    | lift_lets
    | with_reducible apply keeps_bumpWide

theorem keeps_execLeanPolicyTick {z : State} (now beats : Nat) (tts ncs : List (Nat × Nat)) (s0 : State) (hk : Keeps z s0) : KeepsO z
    (execLeanPolicyTick now beats tts ncs s0) := by
  unfold execLeanPolicyTick
  repeat' first
    | with_reducible assumption
    | (intro x; first | (have hx : Keeps z x := (by repeat' first | with_reducible assumption | intro _ | (with_reducible first | apply keeps_advance | apply keeps_bump | apply keeps_countReplays | apply keeps_setFld | apply keeps_updLean | apply keeps_wrN | apply keeps_ite)); clear_value x) | try clear_value x)
    | lift_lets
    | (with_reducible first | apply keeps_bump | apply keeps_irq | apply keeps_leanDecide | apply keeps_leanLog | apply keeps_stepDown | apply keepsO_ite | apply keepsO)

theorem keeps_offer {z : State} (s0 : State) (x : Sample) (hk : Keeps z s0) : Keeps z (offer s0 x) := by
  unfold offer
  repeat' first
    | with_reducible assumption
    | (intro x; try clear_value x)
    | lift_lets
    | (with_reducible first | apply keeps_bumpPulse | apply keeps_drawNat | apply keeps_ite)
    | (with_reducible apply keeps_mk; with_reducible apply keeps_drawNat)

theorem keeps_execSampleCompare {z : State} (now diff : Nat) (s0 : State) (hk : Keeps z s0) : KeepsO z (execSampleCompare now diff s0) := by
  unfold execSampleCompare
  repeat' first
    | with_reducible assumption
    | (intro x; first | (have hx : Keeps z x := (by repeat' first | (with_reducible first | assumption | apply keeps_advance)); clear_value x) | try clear_value x)
    | lift_lets
    | (with_reducible first | apply keeps_bump | apply keeps_bumpWide | apply keeps_irq | apply keeps_lean0Mismatch | apply keeps_setFld | apply keeps_setWide | apply keeps_stepDown | apply keeps_updLean | apply keeps_winRestart | apply keeps_wrN | apply keeps_ite | apply keepsO_ite | apply keepsO)
    | split
    | (with_reducible apply keeps_mk; with_reducible assumption)
    | dsimp only

theorem keeps_chkCfgWrite {z : State} (s : State) (w : Who) (v : Word) (hk : Keeps z s) : Keeps z (chkCfgWrite s w v) := by
  unfold chkCfgWrite
  repeat' first
    | with_reducible assumption
    | (intro x; first | (have hx : Keeps z x := (by repeat' first | (with_reducible first | assumption | apply keeps_plainWrite)); clear_value x) | try clear_value x)
    | lift_lets
    | (with_reducible first | apply keeps_drawNat | apply keeps_leanDecide | apply keeps_wErr | apply keeps_ite)

theorem keeps_execCheckerCfgWrite {z : State} (w : Who) (v : Word) (s : State) (hk : Keeps z s) : KeepsO z (execCheckerCfgWrite w v s) := by
  unfold execCheckerCfgWrite
  repeat' first | with_reducible assumption | intro _ | (with_reducible first | apply keeps_chkCfgWrite | apply keeps_guardW | apply keepsO)

theorem keeps_apxWrite {z : State} (s : State) (w : Who) (a : Nat) (v : Word) (hk : Keeps z s) : Keeps z (apxWrite s w a v) := by
  unfold apxWrite
  repeat' first
    | with_reducible assumption
    | intro _
    | (with_reducible first | apply keeps_chkCfgWrite | apply keeps_leanDecide | apply keeps_plainWrite | apply keeps_wErr | apply keeps_ite)
    | split

theorem keeps_leanStart {z : State} (s : State) (hk : Keeps z s) : Keeps z (leanStart s) := by
  unfold leanStart
  repeat' first
    | with_reducible assumption
    | (intro x; (have hx : Keeps z x := (by repeat' first | with_reducible assumption | intro _ | (with_reducible first | apply keeps_leanLog | apply keeps_setFld | apply keeps_ite)); clear_value x))
    | lift_lets
    | with_reducible apply keeps_updLean

theorem keeps_apxSrst {z : State} (s : State) (pg : Nat) (hk : Keeps z s) : Keeps z (apxSrst s pg) := by
  unfold apxSrst
  repeat' first
    | with_reducible assumption
    | (intro x; first | (have hx : Keeps z x := (by repeat' first | (with_reducible first | assumption | apply keeps_softRegs | apply keeps_winRestart) | (with_reducible apply keeps_mk; with_reducible assumption)); clear_value x) | try clear_value x)
    | lift_lets
    | (with_reducible first | apply keeps_drawNat | apply keeps_leanDecide | apply keeps_leanStart | apply keeps_softRegs | apply keeps_ite)

theorem keeps_takeTemps {z : State} (s : State) (l : List Nat) (hk : Keeps z s) : Keeps z (takeTemps s l) := by
  unfold takeTemps
  repeat' first
    | with_reducible assumption
    | (intro x; first | (have hx : Keeps z x := (by repeat' first | with_reducible assumption | intro _ | (with_reducible first | apply keeps_setFld | apply keeps_foldl)); clear_value x) | try clear_value x)
    | lift_lets
    | (with_reducible first | apply keeps_addLog | apply keeps_updPwr | apply keeps_ite)

theorem keeps_execTjMaxCrossing {z : State} (now : Nat) (temps : List Nat) (s : State) (hk : Keeps z s) : KeepsO z (execTjMaxCrossing now
    temps s) := by
  unfold execTjMaxCrossing
  repeat' first | (with_reducible first | assumption | apply keeps_advance | apply keeps_takeTemps | apply keepsO)

theorem keeps_autoMode {z : State} (s : State) (m reason : Nat) (hk : Keeps z s) : Keeps z (autoMode s m reason) := by
  unfold autoMode
  repeat' first
    | with_reducible assumption
    | (intro x; first | (have hx : Keeps z x := (by repeat' first | with_reducible assumption | intro _ | (with_reducible first | apply keeps_startWatch | apply keeps_ite)); clear_value x) | try clear_value x)
    | lift_lets
    | (with_reducible first | apply keeps_retarget | apply keeps_updPwr | apply keeps_ite)

theorem keeps_execSummitLimitEval {z : State} (now rails : Nat) (s0 : State) (hk : Keeps z s0) : KeepsO z (execSummitLimitEval now rails s0)
    := by
  unfold execSummitLimitEval
  repeat' first
    | with_reducible assumption
    | (intro x; first | (have hx : Keeps z x := (by repeat' first | (with_reducible first | assumption | apply keeps_advance | apply keeps_peak | apply keeps_updPwr | apply keeps_wrN)); clear_value x) | try clear_value x)
    | lift_lets
    | (with_reducible first | apply keeps_autoMode | apply keepsO_ite | apply keepsO)

theorem keeps_execBelayThermalLimit {z : State} (now : Nat) (temps : List Nat) (s0 : State) (hk : Keeps z s0) : KeepsO z
    (execBelayThermalLimit now temps s0) := by
  unfold execBelayThermalLimit
  repeat' first
    | with_reducible assumption
    | (intro x; first | (have hx : Keeps z x := (by repeat' first | (with_reducible first | assumption | apply keeps_advance | apply keeps_takeTemps)); clear_value x) | try clear_value x)
    | lift_lets
    | (with_reducible first | apply keeps_autoMode | apply keeps_endJobs | apply keepsO_ite | apply keepsO)

theorem keeps_enWrite {z : State} (s : State) (w : Who) (a : Nat) (v : Word) (i code : Nat) (refuse : State → Option Nat) (on off : State →
    State) (hk : Keeps z s) (hf_on : ∀ (a0 : State), Keeps z a0 → Keeps z (on a0)) (hf_off : ∀ (a0 : State), Keeps z a0 → Keeps z (off a0))
    : Keeps z (enWrite s w a v i code refuse on off) := by
  unfold enWrite
  repeat' first
    | (with_reducible first | assumption | apply keeps_plainWrite | apply keeps_setDisPend | apply keeps_setFlag | apply keeps_wErr | apply hf_on | apply hf_off)
    | split

theorem keeps_ppsGate {z : State} (s : State) (hk : Keeps z s) : Keeps z (ppsGate s) := by
  unfold ppsGate
  repeat' first
    | with_reducible assumption
    | intro _
    | with_reducible apply keeps_ite
    | (with_reducible apply keeps_mk; with_reducible assumption)

theorem keeps_setDiscState {z : State} (s : State) (st : Nat) (hk : Keeps z s) : Keeps z (setDiscState s st) := by
  unfold setDiscState
  repeat' first
    | with_reducible assumption
    | (intro x; first | (have hx : Keeps z x := (by repeat' first | (with_reducible first | assumption | apply keeps_addLog | apply keeps_ppsGate | apply keeps_setFld)); clear_value x) | try clear_value x)
    | lift_lets
    | (with_reducible first | apply keeps_irq | apply keeps_ite)

theorem keeps_setRate {z : State} (s : State) (r : Int) (hk : Keeps z s) : Keeps z (setRate s r) := by
  unfold setRate
  repeat' first | with_reducible apply keeps_wrN | (with_reducible apply keeps_mk; with_reducible assumption)

theorem keeps_showSlew {z : State} (s : State) (hk : Keeps z s) : Keeps z (showSlew s) := by
  unfold showSlew
  repeat' first | with_reducible assumption | intro _ | (with_reducible first | apply keeps_irq | apply keeps_slewRegs | apply keeps_ite)

theorem keeps_setSlew {z : State} (s : State) (r : Int) (hk : Keeps z s) : Keeps z (setSlew s r) := by
  unfold setSlew
  repeat' first | with_reducible apply keeps_showSlew | (with_reducible apply keeps_mk; with_reducible assumption)

theorem keeps_enterHoldover {z : State} (s : State) (hk : Keeps z s) : Keeps z (enterHoldover s) := by
  unfold enterHoldover
  repeat' first | (with_reducible first | assumption | apply keeps_setDiscState | apply keeps_setSlew)

theorem keeps_srcLost {z : State} (s : State) (src : Nat) (hk : Keeps z s) : Keeps z (srcLost s src) := by
  unfold srcLost
  repeat' first
    | with_reducible assumption
    | intro _
    | (with_reducible first | apply keeps_enterHoldover | apply keeps_ite)
    | (with_reducible apply keeps_mk; with_reducible assumption)

theorem keeps_enterAcquire {z : State} (s : State) (hk : Keeps z s) : Keeps z (enterAcquire s) := by
  unfold enterAcquire
  repeat' first
    | (intro x; try clear_value x)
    | lift_lets
    | (with_reducible first | apply keeps_setDiscState | apply keeps_setSlew)
    | (with_reducible apply keeps_mk; with_reducible assumption)

theorem keeps_enterFree {z : State} (s : State) (hk : Keeps z s) : Keeps z (enterFree s) := by
  unfold enterFree
  repeat' first | (with_reducible first | assumption | apply keeps_setDiscState | apply keeps_setRate | apply keeps_setSlew)

theorem keeps_measure {z : State} (s : State) (off : Int) (hk : Keeps z s) : Keeps z (Machine.measure s off) := by
  unfold Machine.measure
  repeat' first
    | (intro x; first | (have hx : Keeps z x := (by repeat' first | (with_reducible first | assumption | apply keeps_setRate | apply keeps_setSlew | apply keeps_wrS)); clear_value x) | try clear_value x)
    | lift_lets
    | (with_reducible apply keeps_mk; with_reducible assumption)

theorem keeps_measureLost {z : State} (s : State) (off : Int) (hk : Keeps z s) : Keeps z (measureLost s off) := by
  unfold measureLost
  repeat' first | (with_reducible first | assumption | apply keeps_measure | apply keeps_setSlew)

theorem keeps_discardQual {z : State} (s : State) (hk : Keeps z s) : Keeps z (discardQual s) := by
  unfold discardQual
  repeat' first
    | with_reducible assumption
    | (intro x; first | (have hx : Keeps z x := (by repeat' first | with_reducible assumption | intro _ | (with_reducible first | apply keeps_wr | apply keeps_foldl)); clear_value x) | try clear_value x)
    | lift_lets
    | with_reducible apply keeps_ite
    | split
    | (with_reducible apply keeps_mk; with_reducible assumption)

theorem keeps_qualify {z : State} (s : State) (off : Int) (hk : Keeps z s) : Keeps z (qualify s off) := by
  unfold qualify
  repeat' first
    | with_reducible assumption
    | (intro x; first | (have hx : Keeps z x := (by repeat' first | with_reducible assumption | intro _ | (with_reducible first | apply keeps_bump | apply keeps_setDiscState | apply keeps_wrS | apply keeps_ite) | (with_reducible apply keeps_mk; with_reducible assumption)); clear_value x) | try clear_value x)
    | lift_lets
    | (with_reducible first | apply keeps_setFlag | apply keeps_setSlew | apply keeps_ite)
    | (with_reducible apply keeps_mkft; with_reducible assumption)

theorem keeps_setPtState {z : State} (s : State) (n st : Nat) (hk : Keeps z s) : Keeps z (setPtState s n st) := by
  unfold setPtState
  repeat' first | (with_reducible first | assumption | apply keeps_setFld)

theorem keeps_masterRegs {z : State} (s : State) (a0 a1 a2 master mport dom eth : Nat) (hk : Keeps z s) : Keeps z (masterRegs s a0 a1 a2
    master mport dom eth) := by
  unfold masterRegs
  repeat' first | (with_reducible first | assumption | apply keeps_wrN)

theorem keeps_ptLost {z : State} (s : State) (n : Nat) (hk : Keeps z s) : Keeps z (ptLost s n) := by
  unfold ptLost
  repeat' first
    | with_reducible assumption
    | (intro x; first | (have hx : Keeps z x := (by repeat' first | (with_reducible first | assumption | apply keeps_setPtp)); clear_value x) | try clear_value x)
    | lift_lets
    | (with_reducible first | apply keeps_setPtState | apply keeps_srcLost | apply keeps_ite)

theorem keeps_ptMaster {z : State} (s : State) (n master mport eth : Nat) (hk : Keeps z s) : Keeps z (ptMaster s n master mport eth) := by
  unfold ptMaster
  repeat' first
    | with_reducible assumption
    | (intro x; first | (have hx : Keeps z x := (by repeat' first | with_reducible assumption | intro _ | (with_reducible first | apply keeps_irq | apply keeps_ptLost | apply keeps_setPtp | apply keeps_ite)); clear_value x) | try clear_value x)
    | lift_lets
    | (with_reducible first | apply keeps_masterRegs | apply keeps_ite)

theorem keeps_showSegment {z : State} (s : State) (n : Nat) (g : Segment) (hk : Keeps z s) : Keeps z (showSegment s n g) := by
  unfold showSegment
  repeat' first | (with_reducible first | assumption | apply keeps_wr64 | apply keeps_wrN)

theorem keeps_newSegment {z : State} (s : State) (n t : Nat) (off : Int) (hk : Keeps z s) : Keeps z (newSegment s n t off) := by
  unfold newSegment
  repeat' first
    | with_reducible assumption
    | (intro x; first | (have hx : Keeps z x := (by repeat' first | (with_reducible first | assumption | apply keeps_setPtp)); clear_value x) | try clear_value x)
    | lift_lets
    | with_reducible apply keeps_showSegment

theorem keeps_stepSegment {z : State} (s : State) (n d : Nat) (hk : Keeps z s) : Keeps z (stepSegment s n d) := by
  unfold stepSegment
  repeat' first
    | with_reducible assumption
    | (intro x; try clear_value x)
    | lift_lets
    | (with_reducible first | apply keeps_setPtp | apply keeps_showSegment)
    | split
    | dsimp only

theorem keeps_execPtpSync {z : State} (n : Nat) (m : PtpFrom) (origin : Nat) (corr : Int) (rx : Nat) (s0 : State) (hk : Keeps z s0) : KeepsO
    z (execPtpSync n m origin corr rx s0) := by
  unfold execPtpSync
  repeat' first
    | with_reducible assumption
    | (intro x; first | (have hx : Keeps z x := (by repeat' first | with_reducible assumption | intro _ | (with_reducible first | apply keeps_advance | apply keeps_enterAcquire | apply keeps_newSegment | apply keeps_ptMaster | apply keeps_qualify | apply keeps_setPtState | apply keeps_setPtp | apply keeps_stepSegment | apply keeps_ite)); clear_value x) | try clear_value x)
    | lift_lets
    | (with_reducible first | apply keeps_masterRegs | apply keeps_measure | apply keeps_measureLost | apply keeps_setPtState | apply keeps_ite | apply keepsO_ite | apply keepsO)

theorem keeps_hearMaster {z : State} (s : State) (n : Nat) (m : PtpFrom) (rank interval now : Nat) (hk : Keeps z s) : Keeps z (hearMaster s
    n m rank interval now) := by
  unfold hearMaster
  repeat' first | (with_reducible first | assumption | apply keeps_setPtp)

theorem keeps_execPtpAnnounce {z : State} (n : Nat) (m : PtpFrom) (rank interval now : Nat) (s0 : State) (hk : Keeps z s0) : KeepsO z
    (execPtpAnnounce n m rank interval now s0) := by
  unfold execPtpAnnounce
  repeat' first
    | with_reducible assumption
    | (intro x; first | (have hx : Keeps z x := (by repeat' first | (with_reducible first | assumption | apply keeps_advance | apply keeps_hearMaster | apply keeps_ptMaster)); clear_value x) | try clear_value x)
    | lift_lets
    | (with_reducible first | apply keeps_setPtp | apply keepsO_ite | apply keepsO)
    | split

theorem keeps_execAnnounceTimeout {z : State} (n now : Nat) (s0 : State) (hk : Keeps z s0) : KeepsO z (execAnnounceTimeout n now s0) := by
  unfold execAnnounceTimeout
  repeat' first
    | with_reducible assumption
    | (intro x; first | (have hx : Keeps z x := (by repeat' first | (with_reducible first | assumption | apply keeps_advance)); clear_value x) | try clear_value x)
    | lift_lets
    | (with_reducible first | apply keeps_ptLost | apply keeps_setPtp | apply keepsO_ite | apply keepsO)
    | split

theorem keeps_setPath {z : State} (s : State) (n : Nat) (twice : Int) (hk : Keeps z s) : Keeps z (setPath s n twice) := by
  unfold setPath
  repeat' first | (with_reducible first | assumption | apply keeps_setPtp | apply keeps_wrN)

theorem keeps_execPtpExchange {z : State} (n : Nat) (x : PtpExchange) (s : State) (hk : Keeps z s) : KeepsO z (execPtpExchange n x s) := by
  unfold execPtpExchange
  repeat' first
    | with_reducible assumption
    | (intro x; first | (have hx : ∀ t a, Keeps z t → Keeps z (x t a) := (by repeat' first | intro _ | (with_reducible apply keeps_mk; with_reducible assumption)); clear_value x) | try clear_value x)
    | lift_lets
    | (with_reducible first | apply keeps_setPath | apply keeps_setPtp | apply keepsO_ite | apply keepsO)
    | split
    | with_reducible apply_assumption -exfalso -symm

theorem keeps_execPpsInEdge {z : State} (t high : Nat) (s0 : State) (hk : Keeps z s0) : KeepsO z (execPpsInEdge t high s0) := by
  unfold execPpsInEdge
  repeat' first
    | with_reducible assumption
    | (intro x; first | (have hx : Keeps z x := (by repeat' first | with_reducible assumption | intro _ | (with_reducible first | apply keeps_advance | apply keeps_enterAcquire | apply keeps_ite) | (with_reducible apply keeps_mk; with_reducible assumption)); clear_value x) | try clear_value x)
    | lift_lets
    | (with_reducible first | apply keeps_bump | apply keeps_irq | apply keeps_measure | apply keeps_measureLost | apply keeps_qualify | apply keepsO_ite | apply keepsO)
    | (with_reducible apply keeps_mk; with_reducible assumption)

theorem keeps_execPpsLoss {z : State} (now : Nat) (s0 : State) (hk : Keeps z s0) : KeepsO z (execPpsLoss now s0) := by
  unfold execPpsLoss
  repeat' first
    | with_reducible assumption
    | (intro x; first | (have hx : Keeps z x := (by repeat' first | (with_reducible first | assumption | apply keeps_advance)); clear_value x) | try clear_value x)
    | lift_lets
    | (with_reducible first | apply keeps_srcLost | apply keepsO_ite | apply keepsO)
    | split
    | (with_reducible apply keeps_mk; with_reducible assumption)

theorem keeps_convWrite {z : State} (s : State) (w : Who) (a : Nat) (v : Word) (hk : Keeps z s) : Keeps z (convWrite s w a v) := by
  unfold convWrite
  repeat' first
    | with_reducible assumption
    | (intro x; first | (have hx : Keeps z x := (by repeat' first | (with_reducible first | assumption | apply keeps_plainWrite)); clear_value x) | try clear_value x)
    | lift_lets
    | (with_reducible first | apply keeps_setOp | apply keeps_wErr | apply keeps_wrN | apply keeps_ite)

theorem keeps_execConversionGo {z : State} (w : Who) (v : Word) (s : State) (hk : Keeps z s) : KeepsO z (execConversionGo w v s) := by
  unfold execConversionGo
  repeat' first | with_reducible assumption | intro _ | (with_reducible first | apply keeps_convWrite | apply keeps_guardW | apply keepsO)

theorem keeps_execConversionDone {z : State} (w : Who) (s : State) (hk : Keeps z s) : KeepsO z (execConversionDone w s) := by
  unfold execConversionDone
  repeat' first
    | with_reducible assumption
    | (intro x; try clear_value x)
    | lift_lets
    | (with_reducible first | apply keeps_setOp | apply keeps_wr64 | apply keeps_wrN | apply keepsO_ite | apply keepsO)

theorem keeps_execPpsOutRise {z : State} (now : Nat) (s0 : State) (hk : Keeps z s0) : KeepsO z (execPpsOutRise now s0) := by
  unfold execPpsOutRise
  repeat' first
    | with_reducible assumption
    | (intro x; first | (have hx : Keeps z x := (by repeat' first | (with_reducible first | assumption | apply keeps_advance)); clear_value x) | try clear_value x)
    | lift_lets
    | (with_reducible first | apply keepsO_ite | apply keepsO)
    | split
    | (with_reducible apply keeps_mk; with_reducible assumption)

theorem keeps_execPpsOutFall {z : State} (now : Nat) (s0 : State) (hk : Keeps z s0) : KeepsO z (execPpsOutFall now s0) := by
  unfold execPpsOutFall
  repeat' first
    | with_reducible assumption
    | (intro x; first | (have hx : Keeps z x := (by repeat' first | (with_reducible first | assumption | apply keeps_advance)); clear_value x) | try clear_value x)
    | lift_lets
    | (with_reducible first | apply keepsO_ite | apply keepsO)
    | split
    | (with_reducible apply keeps_mk; with_reducible assumption)

theorem keeps_execRefLost {z : State} (s : State) (hk : Keeps z s) : KeepsO z (execRefLost s) := by
  unfold execRefLost
  repeat' first
    | with_reducible assumption
    | intro _
    | (with_reducible first | apply keeps_irq | apply keeps_setFlag | apply keepsO_ite | apply keepsO)
    | (with_reducible apply keeps_mk; with_reducible assumption)

theorem keeps_execRefBack {z : State} (s : State) (hk : Keeps z s) : KeepsO z (execRefBack s) := by
  unfold execRefBack
  repeat' first
    | with_reducible assumption
    | intro _
    | (with_reducible first | apply keeps_irq | apply keeps_setFlag | apply keepsO_ite | apply keepsO)
    | (with_reducible apply keeps_mk; with_reducible assumption)

theorem keeps_execSlewComplete {z : State} (now : Nat) (s : State) (hk : Keeps z s) : KeepsO z (execSlewComplete now s) := by
  unfold execSlewComplete
  repeat' first | (with_reducible first | assumption | apply keeps_advance | apply keeps_showSlew | apply keepsO)

theorem keeps_timeCtrlWrite {z : State} (s : State) (w : Who) (v : Word) (hk : Keeps z s) : Keeps z (timeCtrlWrite s w v) := by
  unfold timeCtrlWrite
  repeat' first
    | with_reducible assumption
    | (intro x; try clear_value x)
    | lift_lets
    | (with_reducible first | apply keeps_discardQual | apply keeps_enterAcquire | apply keeps_enterFree | apply keeps_plainWrite | apply keeps_wErr | apply keeps_ite)

theorem keeps_execTimeCtrlWrite {z : State} (w : Who) (v : Word) (s : State) (hk : Keeps z s) : KeepsO z (execTimeCtrlWrite w v s) := by
  unfold execTimeCtrlWrite
  repeat' first
    | with_reducible assumption
    | intro _
    | (with_reducible first | apply keeps_guardW | apply keeps_timeCtrlWrite | apply keepsO)

theorem keeps_rateManWrite {z : State} (s : State) (v : Word) (hk : Keeps z s) : Keeps z (rateManWrite s v) := by
  unfold rateManWrite
  repeat' first
    | with_reducible assumption
    | (intro x; first | (have hx : Keeps z x := (by repeat' first | (with_reducible first | assumption | apply keeps_wrN)); clear_value x) | try clear_value x)
    | lift_lets
    | (with_reducible first | apply keeps_setRate | apply keeps_ite)

theorem keeps_ppsInWrite {z : State} (s : State) (w : Who) (v : Word) (hk : Keeps z s) : Keeps z (ppsInWrite s w v) := by
  unfold ppsInWrite
  repeat' first
    | with_reducible assumption
    | (intro x; first | (have hx : Keeps z x := (by repeat' first | (with_reducible first | assumption | apply keeps_plainWrite)); clear_value x) | try clear_value x)
    | lift_lets
    | (with_reducible first | apply keeps_srcLost | apply keeps_ite)
    | (with_reducible apply keeps_mk; with_reducible assumption)

theorem keeps_ptCfgWrite {z : State} (s : State) (w : Who) (n : Nat) (v0 : Word) (hk : Keeps z s) : Keeps z (ptCfgWrite s w n v0) := by
  unfold ptCfgWrite
  repeat' first
    | with_reducible assumption
    | (intro x; first | (have hx : Keeps z x := (by repeat' first | with_reducible assumption | intro _ | (with_reducible first | apply keeps_enWrite | apply keeps_ptLost | apply keeps_setPtState | apply keeps_setPtp)); clear_value x) | try clear_value x)
    | lift_lets
    | (with_reducible first | apply keeps_wErr | apply keeps_ite)

theorem keeps_mpCfgWrite {z : State} (s : State) (w : Who) (v : Word) (hk : Keeps z s) : Keeps z (mpCfgWrite s w v) := by
  unfold mpCfgWrite
  repeat' first
    | with_reducible assumption
    | (intro x; first | (have hx : Keeps z x := (by repeat' first | (with_reducible first | assumption | apply keeps_plainWrite)); clear_value x) | try clear_value x)
    | lift_lets
    | (with_reducible first | apply keeps_setFlag | apply keeps_wErr | apply keeps_ite)
    | (with_reducible apply keeps_mk; with_reducible assumption)

theorem keeps_timeWrite {z : State} (s : State) (w : Who) (a : Nat) (v : Word) (hk : Keeps z s) : Keeps z (timeWrite s w a v) := by
  unfold timeWrite
  repeat' first
    | with_reducible assumption
    | intro _
    | (with_reducible first | apply keeps_convWrite | apply keeps_mpCfgWrite | apply keeps_plainWrite | apply keeps_ppsGate | apply keeps_ppsInWrite | apply keeps_ptCfgWrite | apply keeps_rateManWrite | apply keeps_staticWrite | apply keeps_timeCtrlWrite | apply keeps_ite)

theorem keeps_showServo {z : State} (s : State) (p : Nat) (hk : Keeps z s) : Keeps z (showServo s p) := by
  unfold showServo
  repeat' first
    | with_reducible assumption
    | (intro x; try clear_value x)
    | lift_lets
    | (with_reducible first | apply keeps_setFld | apply keeps_wrS)

theorem keeps_srvAcquire {z : State} (s : State) (p : Nat) (hk : Keeps z s) : Keeps z (srvAcquire s p) := by
  unfold srvAcquire
  repeat' first | (with_reducible first | assumption | apply keeps_setServo | apply keeps_showServo)

theorem keeps_srvIdle {z : State} (s : State) (p : Nat) (hk : Keeps z s) : Keeps z (srvIdle s p) := by
  unfold srvIdle
  repeat' first | (with_reducible first | assumption | apply keeps_setServo | apply keeps_showServo)

theorem keeps_srvPair {z : State} (s : State) (p : Nat) (t a : Int) (hk : Keeps z s) : Keeps z (srvPair s p t a) := by
  unfold srvPair
  repeat' first
    | with_reducible assumption
    | (intro x; first | (have hx : Keeps z x := (by repeat' first | (with_reducible first | assumption | apply keeps_setServo | apply keeps_showServo)); clear_value x) | try clear_value x)
    | lift_lets
    | (with_reducible first | apply keeps_bump | apply keeps_irq | apply keeps_setServo | apply keeps_showServo | apply keeps_wrN | apply keeps_ite)

theorem keeps_execPeriodicCairn {z : State} (now : Nat) (s0 : State) (hk : Keeps z s0) : KeepsO z (execPeriodicCairn now s0) := by
  unfold execPeriodicCairn
  repeat' first
    | with_reducible assumption
    | (intro x; first | (have hx : Keeps z x := (by repeat' first | (with_reducible first | assumption | apply keeps_advance)); clear_value x) | try clear_value x)
    | lift_lets
    | (with_reducible first | apply keeps_insertCairn | apply keepsO_ite | apply keepsO)

theorem keeps_timeSrst {z : State} (s : State) (pg : Nat) (hk : Keeps z s) : Keeps z (timeSrst s pg) := by
  unfold timeSrst
  repeat' first
    | with_reducible assumption
    | (intro x; first | (have hx : Keeps z x := (by repeat' first | (with_reducible first | assumption | apply keeps_softRegs | apply keeps_srcLost)); clear_value x) | try clear_value x)
    | lift_lets
    | (with_reducible first | apply keeps_enterFree | apply keeps_setFlag | apply keeps_setPtState | apply keeps_setPtp | apply keeps_softRegs | apply keeps_srvAcquire | apply keeps_wrN | apply keeps_ite | apply keeps_foldl)
    | (with_reducible apply keeps_mk; with_reducible assumption)

theorem keeps_setEnc {z : State} (s : State) (e : Nat) (x : EncSt) (hk : Keeps z s) : Keeps z (setEnc s e x) := by
  unfold setEnc
  repeat' first | (with_reducible apply keeps_mk; with_reducible assumption)

theorem keeps_setImu {z : State} (s : State) (p : Nat) (x : ImuSt) (hk : Keeps z s) : Keeps z (setImu s p x) := by
  unfold setImu
  repeat' first | (with_reducible apply keeps_mk; with_reducible assumption)

theorem keeps_setChain {z : State} (s : State) (c : Nat) (x : ChainSt) (hk : Keeps z s) : Keeps z (setChain s c x) := by
  unfold setChain
  repeat' first | (with_reducible apply keeps_mk; with_reducible assumption)

theorem keeps_motIrq {z : State} (s : State) (pg set bit : Nat) (hk : Keeps z s) : Keeps z (motIrq s pg set bit) := by
  unfold motIrq
  repeat' first | (with_reducible first | assumption | apply keeps_irq | apply keeps_wrN)

theorem keeps_countEdge {z : State} (s : State) (e : Nat) (up : Bool) (cap : Nat) (full : Bool) (hk : Keeps z s) : Keeps z (countEdge s e up
    cap full) := by
  unfold countEdge
  repeat' first
    | with_reducible assumption
    | (intro x; first | (have hx : Keeps z x := (by repeat' first | (with_reducible first | assumption | apply keeps_wrN)); clear_value x) | try clear_value x)
    | lift_lets
    | (with_reducible first | apply keeps_bump | apply keeps_setEnc | apply keeps_ite)

theorem keeps_abSample {z : State} (e : Nat) (full : Bool) (s : State) (t : Nat) (x : Bool × Bool) (hk : Keeps z s) : Keeps z (abSample e
    full s t x) := by
  unfold abSample
  repeat' first
    | with_reducible assumption
    | (intro x; try clear_value x)
    | lift_lets
    | (with_reducible first | apply keeps_bump | apply keeps_countEdge | apply keeps_motIrq | apply keeps_setEnc | apply keeps_ite)

theorem keeps_setMp {z : State} (s : State) (m : Int) (hk : Keeps z s) : Keeps z (setMp s m) := by
  unfold setMp
  repeat' first | (with_reducible apply keeps_mk; with_reducible assumption)

theorem keeps_mpIndex {z : State} (s : State) (e t : Nat) (p0 p1 : Int) (hk : Keeps z s) : Keeps z (mpIndex s e t p0 p1) := by
  unfold mpIndex
  repeat' first
    | with_reducible assumption
    | (intro x; first | (have hx : Keeps z x := (by repeat' first | (with_reducible apply keeps_mk; with_reducible assumption)); clear_value x) | (have hx : ∀ t a b, Keeps z t → Keeps z (x t a b) := (by repeat' first | intro _ | with_reducible apply keeps_setMp | (with_reducible apply keeps_mk; with_reducible assumption)); clear_value x) | try clear_value x)
    | lift_lets
    | (with_reducible first | apply keeps_irq | apply keeps_setFlag)
    | split
    | with_reducible apply_assumption -exfalso -symm
    | dsimp only

theorem keeps_encIndex {z : State} (s : State) (e t : Nat) (hk : Keeps z s) : Keeps z (encIndex s e t) := by
  unfold encIndex
  repeat' first
    | with_reducible assumption
    | (intro x; first | (have hx : Keeps z x := (by repeat' first | with_reducible assumption | intro _ | (with_reducible first | apply keeps_bump | apply keeps_motIrq | apply keeps_setEnc | apply keeps_setFlag | apply keeps_wrN | apply keeps_ite)); clear_value x) | try clear_value x)
    | lift_lets
    | (with_reducible first | apply keeps_mpIndex | apply keeps_ite)

theorem keeps_zSample {z : State} (e : Nat) (s : State) (t : Nat) (x : Bool) (hk : Keeps z s) : Keeps z (zSample e s t x) := by
  unfold zSample
  repeat' first
    | with_reducible assumption
    | (intro x; try clear_value x)
    | lift_lets
    | (with_reducible first | apply keeps_encIndex | apply keeps_setEnc | apply keeps_ite)

theorem keeps_encSamples {z : State} (e : Nat) (full : Bool) (y0 : Nat) (y1 : List (Bool × Bool × Bool)) (y2 : State) (hk : Keeps z y2) :
    Keeps z (encSamples e full y0 y1 y2) := by
  induction y1 generalizing y0 y2 with
  | nil => unfold encSamples; exact hk
  | cons x r ih =>
    unfold encSamples
    repeat' first | (with_reducible first | assumption | apply keeps_abSample | apply keeps_zSample | apply ih)

theorem keeps_execEncoderEdge {z : State} (e t : Nat) (smp : List (Bool × Bool)) (full : Bool) (s0 : State) (hk : Keeps z s0) : KeepsO z
    (execEncoderEdge e t smp full s0) := by
  unfold execEncoderEdge
  repeat' first
    | with_reducible assumption
    | (intro x; first | (have hx : Keeps z x := (by repeat' first | (with_reducible first | assumption | apply keeps_advance)); clear_value x) | try clear_value x)
    | lift_lets
    | (with_reducible first | apply keeps_encSamples | apply keepsO_ite | apply keepsO)

theorem keeps_execEncoderIndex {z : State} (e t : Nat) (smp : List (Bool × Bool × Bool)) (full : Bool) (s0 : State) (hk : Keeps z s0) :
    KeepsO z (execEncoderIndex e t smp full s0) := by
  unfold execEncoderIndex
  repeat' first
    | with_reducible assumption
    | (intro x; first | (have hx : Keeps z x := (by repeat' first | (with_reducible first | assumption | apply keeps_advance)); clear_value x) | try clear_value x)
    | lift_lets
    | (with_reducible first | apply keeps_encSamples | apply keepsO_ite | apply keepsO)

theorem keeps_estimate {z : State} (s : State) (e tf : Nat) (hk : Keeps z s) : Keeps z (estimate s e tf) := by
  unfold estimate
  repeat' first
    | with_reducible assumption
    | (intro x; try clear_value x)
    | lift_lets
    | (with_reducible first | apply keeps_setEnc | apply keeps_ite)
    | split
    | dsimp only

theorem keeps_setSlip {z : State} (s : State) (e : Nat) (b : Bool) (why : Nat) (hk : Keeps z s) : Keeps z (setSlip s e b why) := by
  unfold setSlip
  repeat' first
    | with_reducible assumption
    | (intro x; first | (have hx : Keeps z x := (by repeat' first | with_reducible assumption | intro _ | (with_reducible first | apply keeps_bump | apply keeps_setEnc | apply keeps_setFlag | apply keeps_ite)); clear_value x) | try clear_value x)
    | lift_lets
    | (with_reducible first | apply keeps_addLogData | apply keeps_motIrq | apply keeps_ite)

theorem keeps_slipOvr {z : State} (s : State) (e : Nat) (hk : Keeps z s) : Keeps z (slipOvr s e) := by
  unfold slipOvr
  repeat' first
    | with_reducible assumption
    | (intro x; try clear_value x)
    | lift_lets
    | (with_reducible first | apply keeps_setSlip | apply keeps_ite)

theorem keeps_slipTest {z : State} (s : State) (e tf : Nat) (v0 : Int) (tf0 : Option Nat) (hk : Keeps z s) : Keeps z (slipTest s e tf v0
    tf0) := by
  unfold slipTest
  repeat' first
    | with_reducible assumption
    | (intro x; first | (have hx : Keeps z x := (by repeat' first | (with_reducible first | assumption | apply keeps_setEnc)); clear_value x) | try clear_value x)
    | lift_lets
    | (with_reducible first | apply keeps_setSlip | apply keeps_slipOvr | apply keeps_ite)

theorem keeps_showEnc {z : State} (s : State) (e : Nat) (hk : Keeps z s) : Keeps z (showEnc s e) := by
  unfold showEnc
  repeat' first
    | with_reducible assumption
    | (intro x; first | (have hx : Keeps z x := (by repeat' first | with_reducible assumption | intro _ | (with_reducible first | apply keeps_motIrq | apply keeps_wrN | apply keeps_ite)); clear_value x) | try clear_value x)
    | lift_lets
    | with_reducible apply keeps_setFlag

theorem keeps_encEmit {z : State} (s : State) (e tf : Nat) (hk : Keeps z s) : Keeps z (encEmit s e tf) := by
  unfold encEmit
  repeat' first
    | with_reducible assumption
    | (intro x; try clear_value x)
    | lift_lets
    | (with_reducible first | apply keeps_bump | apply keeps_setEnc | apply keeps_ite)

theorem keeps_chainFeed {z : State} (s : State) (c : Nat) (v : ChainVal) (hk : Keeps z s) : Keeps z (chainFeed s c v) := by
  unfold chainFeed
  repeat' first | (with_reducible first | assumption | apply keeps_setChain)

theorem keeps_encInstant {z : State} (s : State) (tf : Nat) (hk : Keeps z s) : Keeps z (encInstant s tf) := by
  unfold encInstant
  repeat' first
    | with_reducible assumption
    | (intro x; first | (have hx : Keeps z x := (by repeat' first | with_reducible assumption | intro _ | (with_reducible first | apply keeps_chainFeed | apply keeps_encEmit | apply keeps_estimate | apply keeps_setMp | apply keeps_showEnc | apply keeps_slipTest | apply keeps_foldl)); clear_value x) | try clear_value x)
    | lift_lets
    | (with_reducible first | apply keeps_setFlag | apply keeps_ite)
    | split
    | (with_reducible apply keeps_mk; with_reducible assumption)

theorem keeps_imuTrigger {z : State} (s : State) (p now t : Nat) (hk : Keeps z s) : Keeps z (imuTrigger s p now t) := by
  unfold imuTrigger
  repeat' first
    | with_reducible assumption
    | (intro x; try clear_value x)
    | lift_lets
    | (with_reducible first | apply keeps_bump | apply keeps_motIrq | apply keeps_setImu | apply keeps_ite)

theorem keeps_drdySample {z : State} (p : Nat) (full : Bool) (s : State) (t : Nat) (x : Bool) (hk : Keeps z s) : Keeps z (drdySample p full
    s t x) := by
  unfold drdySample
  repeat' first
    | with_reducible assumption
    | (intro x; try clear_value x)
    | lift_lets
    | (with_reducible first | apply keeps_bump | apply keeps_imuTrigger | apply keeps_setImu | apply keeps_ite)

theorem keeps_drdySamples {z : State} (p : Nat) (full : Bool) (y0 : Nat) (y1 : List Bool) (y2 : State) (hk : Keeps z y2) : Keeps z
    (drdySamples p full y0 y1 y2) := by
  induction y1 generalizing y0 y2 with
  | nil => unfold drdySamples; exact hk
  | cons x r ih =>
    unfold drdySamples
    repeat' first | (with_reducible first | assumption | apply keeps_drdySample | apply ih)

theorem keeps_execImuDrdy {z : State} (p t : Nat) (smp : List Bool) (full : Bool) (s0 : State) (hk : Keeps z s0) : KeepsO z (execImuDrdy p t
    smp full s0) := by
  unfold execImuDrdy
  repeat' first
    | with_reducible assumption
    | (intro x; first | (have hx : Keeps z x := (by repeat' first | (with_reducible first | assumption | apply keeps_advance)); clear_value x) | try clear_value x)
    | lift_lets
    | (with_reducible first | apply keeps_drdySamples | apply keepsO_ite | apply keepsO)

theorem keeps_execImuTimerTrigger {z : State} (p now : Nat) (s0 : State) (hk : Keeps z s0) : KeepsO z (execImuTimerTrigger p now s0) := by
  unfold execImuTimerTrigger
  repeat' first
    | with_reducible assumption
    | (intro x; first | (have hx : Keeps z x := (by repeat' first | (with_reducible first | assumption | apply keeps_advance)); clear_value x) | try clear_value x)
    | lift_lets
    | (with_reducible first | apply keeps_imuTrigger | apply keepsO_ite | apply keepsO)

theorem keeps_execImuTransactionDone {z : State} (p : Nat) (d : Option (List Byte)) (now : Nat) (s0 : State) (hk : Keeps z s0) : KeepsO z
    (execImuTransactionDone p d now s0) := by
  unfold execImuTransactionDone
  repeat' first
    | with_reducible assumption
    | (intro x; first | (have hx : Keeps z x := (by repeat' first | (with_reducible first | assumption | apply keeps_advance | apply keeps_bump | apply keeps_motIrq | apply keeps_setImu | apply keeps_wrN)); clear_value x) | try clear_value x)
    | lift_lets
    | (with_reducible first | apply keeps_chainFeed | apply keeps_motIrq | apply keeps_wrN | apply keepsO_ite | apply keepsO | apply keeps_foldl)
    | split

theorem keeps_chainFlush {z : State} (s : State) (c : Nat) (hk : Keeps z s) : Keeps z (chainFlush s c) := by
  unfold chainFlush
  repeat' first | (with_reducible first | assumption | apply keeps_setChain)

theorem keeps_chainEmit {z : State} (s : State) (c : Nat) (v : ChainVal) (full : Bool) (hk : Keeps z s) : Keeps z (chainEmit s c v full) :=
    by
  unfold chainEmit
  repeat' first
    | with_reducible assumption
    | (intro x; first | (have hx : Keeps z x := (by repeat' first | with_reducible assumption | intro _ | (with_reducible first | apply keeps_bump | apply keeps_motIrq | apply keeps_wrN | apply keeps_ite)); clear_value x) | try clear_value x)
    | lift_lets
    | (with_reducible first | apply keeps_bump | apply keeps_setChain | apply keeps_ite)

theorem keeps_execChainInput {z : State} (c : Nat) (full : Bool) (s : State) (hk : Keeps z s) : KeepsO z (execChainInput c full s) := by
  unfold execChainInput
  repeat' first
    | with_reducible assumption
    | (intro x; first | (have hx : Keeps z x := (by repeat' first | with_reducible assumption | intro _ | (with_reducible first | apply keeps_bumpN | apply keeps_motIrq | apply keeps_setChain | apply keeps_wrN | apply keeps_ite)); clear_value x) | try clear_value x)
    | lift_lets
    | (with_reducible first | apply keeps_bumpN | apply keeps_chainEmit | apply keeps_motIrq | apply keeps_setChain | apply keeps_wrN | apply keeps_ite | apply keepsO_ite | apply keepsO)
    | split
    | dsimp -zeta only
    | dsimp only

theorem keeps_execNoInput {z : State} (c now : Nat) (s0 : State) (hk : Keeps z s0) : KeepsO z (execNoInput c now s0) := by
  unfold execNoInput
  repeat' first
    | with_reducible assumption
    | (intro x; first | (have hx : Keeps z x := (by repeat' first | (with_reducible first | assumption | apply keeps_advance)); clear_value x) | try clear_value x)
    | lift_lets
    | (with_reducible first | apply keeps_chainFlush | apply keeps_motIrq | apply keeps_wrN | apply keepsO_ite | apply keepsO)

theorem keeps_encCfgWrite {z : State} (s : State) (w : Who) (e : Nat) (v : Word) (hk : Keeps z s) : Keeps z (encCfgWrite s w e v) := by
  unfold encCfgWrite
  repeat' first
    | with_reducible assumption
    | intro _
    | (with_reducible first | apply keeps_enWrite | apply keeps_setEnc | apply keeps_slipOvr | apply keeps_wErr | apply keeps_ite)

theorem keeps_imuEnable {z : State} (s : State) (p : Nat) (hk : Keeps z s) : Keeps z (imuEnable s p) := by
  unfold imuEnable
  repeat' first
    | with_reducible assumption
    | (intro x; try clear_value x)
    | lift_lets
    | (with_reducible first | apply keeps_setImu | apply keeps_wrN)

theorem keeps_imuCfgWrite {z : State} (s : State) (w : Who) (p : Nat) (v : Word) (hk : Keeps z s) : Keeps z (imuCfgWrite s w p v) := by
  unfold imuCfgWrite
  repeat' first
    | with_reducible assumption
    | intro _
    | (with_reducible first | apply keeps_enWrite | apply keeps_imuEnable | apply keeps_setImu | apply keeps_wrN)

theorem keeps_chainStart {z : State} (s : State) (c : Nat) (hk : Keeps z s) : Keeps z (chainStart s c) := by
  unfold chainStart
  repeat' first
    | with_reducible assumption
    | (intro x; (have hx : Keeps z x := (by repeat' first | (with_reducible first | assumption | apply keeps_setChain | apply keeps_wrN)); clear_value x))
    | lift_lets
    | with_reducible apply keeps_wrN

theorem keeps_decCfgWrite {z : State} (s : State) (w : Who) (c : Nat) (v : Word) (hk : Keeps z s) : Keeps z (decCfgWrite s w c v) := by
  unfold decCfgWrite
  repeat' first
    | with_reducible assumption
    | intro _
    | (with_reducible first | apply keeps_chainStart | apply keeps_enWrite | apply keeps_setChain | apply keeps_wErr | apply keeps_wrN | apply keeps_ite)

theorem keeps_motWrite {z : State} (s : State) (w : Who) (a : Nat) (v : Word) (hk : Keeps z s) : Keeps z (motWrite s w a v) := by
  unfold motWrite
  repeat' first
    | with_reducible assumption
    | (intro x; first | (have hx : Keeps z x := (by repeat' first | (with_reducible first | assumption | apply keeps_plainWrite)); clear_value x) | try clear_value x)
    | lift_lets
    | (with_reducible first | apply keeps_decCfgWrite | apply keeps_encCfgWrite | apply keeps_imuCfgWrite | apply keeps_plainWrite | apply keeps_slipOvr | apply keeps_staticWrite | apply keeps_wErr | apply keeps_ite)

theorem keeps_motSrst {z : State} (s : State) (pg : Nat) (hk : Keeps z s) : Keeps z (motSrst s pg) := by
  unfold motSrst
  repeat' first
    | with_reducible assumption
    | (intro x; first | (have hx : Keeps z x := (by repeat' first | (with_reducible first | assumption | apply keeps_softRegs)); clear_value x) | try clear_value x)
    | lift_lets
    | (with_reducible first | apply keeps_setImu | apply keeps_wrN | apply keeps_ite | apply keeps_foldl)
    | (with_reducible apply keeps_mk; with_reducible assumption)

theorem keeps_motBivouac {z : State} (s : State) (enter : Bool) (hk : Keeps z s) : Keeps z (motBivouac s enter) := by
  unfold motBivouac
  repeat' first
    | with_reducible assumption
    | intro _
    | (with_reducible first | apply keeps_chainStart | apply keeps_setImu | apply keeps_ite | apply keeps_foldl)

end Sys2Proof.Laws
end

