-- ==== Sys2Proof/Laws/KeepsResults.lean ====
section
/-!
SUPPORT. One lemma for each operation of poses, the output block, the stream ports, fusion, registration and the event fabric: applied in a state reached from z, it answers one that is reached so (Laws/KeepsBase.lean).
-/
namespace Sys2Proof.Laws
open Sys2Proof Sys2Proof.Machine

theorem keeps_setBar {z : State} (s : State) (b : Nat) (x : BarSt) (hk : Keeps z s) : Keeps z (setBar s b x) := by
  unfold setBar
  repeat' first | (with_reducible apply keeps_mk; with_reducible assumption)

theorem keeps_updBar {z : State} (s : State) (b : Nat) (g : BarSt → BarSt) (hk : Keeps z s) : Keeps z (updBar s b g) := by
  unfold updBar
  repeat' first | (with_reducible first | assumption | apply keeps_setBar)

theorem keeps_updOut {z : State} (s : State) (g : OutSt → OutSt) (hk : Keeps z s) : Keeps z (updOut s g) := by
  unfold updOut
  repeat' first | (with_reducible apply keeps_mk; with_reducible assumption)

theorem keeps_setStr {z : State} (s : State) (n : Nat) (x : StrSt) (hk : Keeps z s) : Keeps z (setStr s n x) := by
  unfold setStr
  repeat' first | (with_reducible first | assumption | apply keeps_updOut)

theorem keeps_makeRoom {z : State} (n len : Nat) (y0 : Nat) (y1 : State) (hk : Keeps z y1) : Keeps z (makeRoom n len y0 y1) := by
  induction y0 generalizing y1 with
  | zero => unfold makeRoom; exact hk
  | succ k ih =>
    unfold makeRoom
    repeat' first
      | with_reducible assumption
      | intro _
      | (with_reducible first | apply keeps_bump | apply keeps_irq | apply keeps_updOut | apply ih | apply keeps_ite)
      | split

theorem keeps_appendRec {z : State} (typ : Nat) (bytes : List Byte) (s : State) (n : Nat) (hk : Keeps z s) : Keeps z (appendRec typ bytes s
    n) := by
  unfold appendRec
  repeat' first
    | with_reducible assumption
    | (intro x; first | (have hx : ∀ t, Keeps z t → Keeps z (x t) := (by repeat' first | with_reducible assumption | intro _ | with_reducible apply keeps_updOut); clear_value x) | try clear_value x)
    | lift_lets
    | (with_reducible first | apply keeps_bump | apply keeps_endJobs | apply keeps_irq | apply keeps_makeRoom | apply keeps_ite | apply_assumption -exfalso -symm)

theorem keeps_takeSeq {z : State} (s : State) (typ job : Nat) (hk : Keeps z s) : Keeps z (takeSeq s typ job) := by
  unfold takeSeq
  repeat' first | (with_reducible first | assumption | apply keeps_updOut)

theorem keeps_atMoment {z : State} (s : State) (t : Nat) (g : State → State) (hk : Keeps z s) (hf_g : ∀ (y a0 : State), Keeps y a0 → Keeps y
    (g a0)) : Keeps z (atMoment s t g) := by
  unfold atMoment
  have h := hf_g _ _ (Keeps.refl { s with ft := t })
  exact hk.trans ⟨h.pending, Nat.le_refl _, fun x => h.wf x⟩

theorem keeps_setMinS {z : State} (s : State) (a : Nat) (v : Int) (hk : Keeps z s) : Keeps z (setMinS s a v) := by
  unfold setMinS
  repeat' first | with_reducible assumption | intro _ | (with_reducible first | apply keeps_wrS | apply keeps_ite)

theorem keeps_fixRows {z : State} (s : State) (b : Nat) (hk : Keeps z s) : Keeps z (fixRows s b) := by
  unfold fixRows
  repeat' first | (with_reducible first | assumption | apply keeps_updOut)

theorem keeps_execSheetStart {z : State} (now : Nat) (s0 : State) (hk : Keeps z s0) : KeepsO z (execSheetStart now s0) := by
  unfold execSheetStart
  repeat' first
    | with_reducible assumption
    | (intro x; first | (have hx : Keeps z x := (by repeat' first | (with_reducible first | assumption | apply keeps_advance | apply keeps_updOut)); clear_value x) | try clear_value x)
    | lift_lets
    | (with_reducible first | apply keeps_fixRows | apply keeps_wrN | apply keeps_ite | apply keepsO_ite | apply keepsO | apply keeps_foldl)
    | split

theorem keeps_setPend {z : State} (s : State) (l : List PendTile) (hk : Keeps z s) : Keeps z (setPend s l) := by
  unfold setPend
  repeat' first | (with_reducible first | assumption | apply keeps_updOut)

theorem keeps_writeVerdict {z : State} (s : State) (p : PendTile) (r : Option TileRes) (extra : Nat) (old : Option Written) (hk : Keeps z s)
    : Keeps z (writeVerdict s p r extra old) := by
  unfold writeVerdict
  repeat' first
    | with_reducible assumption
    | (intro x; first | (have hx : Keeps z x := (by repeat' first | with_reducible assumption | intro _ | (with_reducible first | apply keeps_appendRec | apply keeps_bump | apply keeps_bumpPulse | apply keeps_peak | apply keeps_setMinS | apply keeps_tabWrite | apply keeps_takeSeq | apply keeps_updJob | apply keeps_ite | apply keeps_foldl) | (with_reducible apply keeps_mk; split)); clear_value x) | try clear_value x)
    | lift_lets
    | with_reducible apply keeps_updOut

theorem keeps_removePend {z : State} (s : State) (p : PendTile) (hk : Keeps z s) : Keeps z (removePend s p) := by
  unfold removePend
  repeat' first | (with_reducible first | assumption | apply keeps_setPend)

theorem keeps_replacePend {z : State} (s : State) (p : PendTile) (hk : Keeps z s) : Keeps z (replacePend s p) := by
  unfold replacePend
  repeat' first | (with_reducible first | assumption | apply keeps_setPend)

theorem keeps_belayFlush {z : State} (y0 : Nat) (y1 : State) (hk : Keeps z y1) : Keeps z (belayFlush y0 y1) := by
  induction y0 generalizing y1 with
  | zero => unfold belayFlush; exact hk
  | succ k ih =>
    unfold belayFlush
    repeat' first
      | with_reducible assumption
      | intro _
      | (with_reducible first | apply keeps_removePend | apply keeps_writeVerdict | apply ih | apply keeps_ite)
      | split

theorem keeps_flushFinal {z : State} (s : State) (hk : Keeps z s) : Keeps z (flushFinal s) := by
  unfold flushFinal
  repeat' first
    | with_reducible assumption
    | intro _
    | (with_reducible first | apply keeps_belayFlush | apply keeps_removePend | apply keeps_writeVerdict | apply keeps_ite | apply keeps_foldl)

theorem keeps_finishTile {z : State} (s : State) (p : PendTile) (r : TileRes) (hk : Keeps z s) : Keeps z (finishTile s p r) := by
  unfold finishTile
  repeat' first | (with_reducible first | assumption | apply keeps_flushFinal | apply keeps_replacePend)

theorem keeps_tileExit {z : State} (s : State) (p : PendTile) (hk : Keeps z s) : Keeps z (tileExit s p) := by
  unfold tileExit
  repeat' first | (with_reducible first | assumption | apply keeps_replacePend | apply keeps_setPend) | split

theorem keeps_rowExits {z : State} (b : Nat) (r : Issued) (y0 : Nat) (y1 : State) (hk : Keeps z y1) : Keeps z (rowExits b r y0 y1) := by
  induction y0 generalizing y1 with
  | zero => unfold rowExits; exact hk
  | succ k ih =>
    unfold rowExits
    repeat' first
      | with_reducible assumption
      | (intro x; first | (have hx : ∀ t a, Keeps z t → Keeps z (x t a) := (by repeat' first | with_reducible assumption | intro _ | (with_reducible first | apply keeps_tileExit | apply keeps_writeVerdict | apply keeps_ite)); clear_value x) | try clear_value x)
      | lift_lets
      | (with_reducible first | apply keeps_updOut | apply ih | apply keeps_ite | apply keeps_foldl)
      | split

theorem keeps_outResult {z : State} (s : State) (b : Nat) (hk : Keeps z s) : Keeps z (outResult s b) := by
  unfold outResult
  repeat' first | (with_reducible first | assumption | apply keeps_fixRows | apply keeps_flushFinal | apply keeps_rowExits) | split

theorem keeps_lateResult {z : State} (s : State) (w : Written) (r : TileRes) (exact : Bool) (hk : Keeps z s) : Keeps z (lateResult s w r
    exact) := by
  unfold lateResult
  repeat' first
    | with_reducible assumption
    | (intro x; first | (have hx : Keeps z x := (by repeat' first | (with_reducible first | assumption | apply keeps_bump)); clear_value x) | try clear_value x)
    | lift_lets
    | (with_reducible first | apply keeps_bump | apply keeps_writeVerdict | apply keeps_ite)

theorem keeps_withTile {z : State} (s : State) (t : TileRef) (r : TileRes) (exact : Bool) (g : State → PendTile → State) (hk : Keeps z s)
    (hf_g : ∀ (a0 : State) (a1 : PendTile), Keeps z a0 → Keeps z (g a0 a1)) : Keeps z (withTile s t r exact g) := by
  unfold withTile
  repeat' first
    | with_reducible assumption
    | intro _
    | (with_reducible first | apply keeps_bump | apply keeps_lateResult | apply keeps_setPend | apply hf_g | apply keeps_ite)
    | split

theorem keeps_escalate {z : State} (s : State) (p : PendTile) (n : Nat) (r : TileRes) (hk : Keeps z s) : Keeps z (escalate s p n r) := by
  unfold escalate
  repeat' first
    | with_reducible assumption
    | (intro x; (have hx : Keeps z x := (by repeat' first | (with_reducible first | assumption | apply keeps_bump | apply keeps_setFld)); clear_value x))
    | lift_lets
    | with_reducible apply keeps_replacePend

theorem keeps_leanVerdict {z : State} (s : State) (n : Nat) (hk : Keeps z s) : Keeps z (leanVerdict s n) := by
  unfold leanVerdict
  repeat' first
    | with_reducible assumption
    | (intro x; first | (have hx : Keeps z x := (by repeat' first | (with_reducible first | assumption | apply keeps_bump)); clear_value x) | try clear_value x)
    | lift_lets
    | (with_reducible first | apply keeps_irq | apply keeps_updLean | apply keeps_ite)

theorem keeps_refillQ {z : State} (n : Nat) (y0 : Nat) (y1 : State) (hk : Keeps z y1) : Keeps z (refillQ n y0 y1) := by
  induction y0 generalizing y1 with
  | zero => unfold refillQ; exact hk
  | succ k ih =>
    unfold refillQ
    repeat' first | with_reducible assumption | intro _ | (with_reducible first | apply keeps_escalate | apply ih | apply keeps_ite) | split

theorem keeps_leaveQ {z : State} (s : State) (n : Nat) (hk : Keeps z s) : Keeps z (leaveQ s n) := by
  unfold leaveQ
  repeat' first
    | with_reducible assumption
    | (intro x; (have hx : Keeps z x := (by repeat' first | (with_reducible first | assumption | apply keeps_setFld)); clear_value x))
    | lift_lets
    | with_reducible apply keeps_refillQ

theorem keeps_atDeadline {z : State} (s : State) (p : PendTile) (hk : Keeps z s) : Keeps z (atDeadline s p) := by
  unfold atDeadline
  repeat' first
    | with_reducible assumption
    | (intro x; first | (have hx : Keeps z x := (by repeat' first | (with_reducible first | assumption | apply keeps_leanVerdict | apply keeps_removePend | apply keeps_writeVerdict) | (with_reducible apply keeps_mk; split)); clear_value x) | try clear_value x)
    | lift_lets
    | (with_reducible first | apply keeps_leaveQ | apply keeps_removePend | apply keeps_writeVerdict | apply keeps_ite)
    | split

theorem keeps_deadlines {z : State} (y0 : Nat) (y1 : State) (hk : Keeps z y1) : Keeps z (deadlines y0 y1) := by
  induction y0 generalizing y1 with
  | zero => unfold deadlines; exact hk
  | succ k ih =>
    unfold deadlines
    repeat' first
      | with_reducible assumption
      | intro _
      | (with_reducible first | apply keeps_atDeadline | apply keeps_atMoment | apply ih)
      | split

theorem keeps_passDeadlines {z : State} (s : State) (hk : Keeps z s) : Keeps z (passDeadlines s) := by
  unfold passDeadlines
  repeat' first | with_reducible assumption | intro _ | (with_reducible first | apply keeps_deadlines | apply keeps_ite)

theorem keeps_outAt {z : State} (now : Nat) (s0 : State) (hk : Keeps z s0) : Keeps z (outAt now s0) := by
  unfold outAt
  repeat' first | (with_reducible first | assumption | apply keeps_advance | apply keeps_passDeadlines)

theorem keeps_execVerdictResult {z : State} (t : TileRef) (v : TileVal) (now : Nat) (s0 : State) (hk : Keeps z s0) : KeepsO z
    (execVerdictResult t v now s0) := by
  unfold execVerdictResult
  repeat' first
    | with_reducible assumption
    | (intro x; first | (have hx : Keeps z x := (by repeat' first | (with_reducible first | assumption | apply keeps_outAt)); clear_value x) | try clear_value x)
    | lift_lets
    | (with_reducible first | apply keeps_finishTile | apply keeps_withTile | apply keepsO)

theorem keeps_execCheapResult {z : State} (t : TileRef) (n m : Nat) (v : TileVal) (now : Nat) (s0 : State) (hk : Keeps z s0) : KeepsO z
    (execCheapResult t n m v now s0) := by
  unfold execCheapResult
  repeat' first
    | with_reducible assumption
    | (intro x; first | (have hx : Keeps z x := (by repeat' first | (with_reducible first | assumption | apply keeps_outAt)); clear_value x) | try clear_value x)
    | lift_lets
    | (with_reducible first | apply keeps_escalate | apply keeps_finishTile | apply keeps_leanVerdict | apply keeps_replacePend | apply keeps_withTile | apply keeps_ite | apply keepsO)
    | split
    | dsimp only

theorem keeps_execExactResult {z : State} (t : TileRef) (n : Nat) (v : TileVal) (now : Nat) (s0 : State) (hk : Keeps z s0) : KeepsO z
    (execExactResult t n v now s0) := by
  unfold execExactResult
  repeat' first
    | with_reducible assumption
    | (intro x; first | (have hx : Keeps z x := (by repeat' first | (with_reducible first | assumption | apply keeps_outAt)); clear_value x) | try clear_value x)
    | lift_lets
    | (with_reducible first | apply keeps_finishTile | apply keeps_leaveQ | apply keeps_withTile | apply keeps_ite | apply keepsO)

theorem keeps_execVerdictDeadline {z : State} (now : Nat) (s0 : State) (hk : Keeps z s0) : KeepsO z (execVerdictDeadline now s0) := by
  unfold execVerdictDeadline
  repeat' first | (with_reducible first | assumption | apply keeps_outAt | apply keepsO)

theorem keeps_flushJob {z : State} (s : State) (h : Nat) (hk : Keeps z s) : Keeps z (flushJob s h) := by
  unfold flushJob
  repeat' first
    | with_reducible assumption
    | (intro x; first | (have hx : Keeps z x := (by repeat' first | with_reducible assumption | intro _ | (with_reducible first | apply keeps_passDeadlines | apply keeps_setFld | apply keeps_writeVerdict | apply keeps_ite | apply keeps_foldl) | split); clear_value x) | try clear_value x)
    | lift_lets
    | with_reducible apply keeps_setPend

theorem keeps_writeAmend {z : State} (sa : State) (b : Nat) (r : Issued) (qmask : Nat) (rerun : List Int) (hk : Keeps z sa) : Keeps z
    (writeAmend sa b r qmask rerun) := by
  unfold writeAmend
  repeat' first
    | with_reducible assumption
    | (intro x; first | (have hx : Keeps z x := (by repeat' first | with_reducible assumption | intro _ | (with_reducible first | apply keeps_appendRec | apply keeps_passDeadlines | apply keeps_takeSeq | apply keeps_foldl)); clear_value x) | try clear_value x)
    | lift_lets
    | (with_reducible first | apply keeps_bump | apply keeps_fwdFrame | apply keeps_updOut)

theorem keeps_unitIrq {z : State} (s : State) (u bit : Nat) (hk : Keeps z s) : Keeps z (unitIrq s u bit) := by
  unfold unitIrq
  repeat' first | (with_reducible first | assumption | apply keeps_irq | apply keeps_wrN)

theorem keeps_writeCorr {z : State} (s : State) (job u : Nat) (j : Int) (v : CorrVal) (held missed : Bool) (dl : Option Nat) (hk : Keeps z
    s) : Keeps z (writeCorr s job u j v held missed dl) := by
  unfold writeCorr
  repeat' first
    | with_reducible assumption
    | (intro x; first | (have hx : Keeps z x := (by repeat' first | with_reducible assumption | intro _ | (with_reducible first | apply keeps_appendRec | apply keeps_bump | apply keeps_setMinS | apply keeps_takeSeq | apply keeps_unitIrq | apply keeps_wrS | apply keeps_ite | apply keeps_foldl)); clear_value x) | try clear_value x)
    | lift_lets
    | with_reducible apply keeps_updOut

theorem keeps_writeHeld {z : State} (s : State) (job u : Nat) (j : Int) (hk : Keeps z s) : Keeps z (writeHeld s job u j) := by
  unfold writeHeld
  repeat' first
    | with_reducible assumption
    | (intro x; try clear_value x)
    | lift_lets
    | (with_reducible first | apply keeps_bump | apply keeps_unitIrq | apply keeps_writeCorr)

theorem keeps_heldRecords {z : State} (job u : Nat) (y0 : Nat) (y1 : State) (hk : Keeps z y1) : Keeps z (heldRecords job u y0 y1) := by
  induction y0 generalizing y1 with
  | zero => unfold heldRecords; exact hk
  | succ k ih =>
    unfold heldRecords
    repeat' first
      | with_reducible assumption
      | intro _
      | (with_reducible first | apply keeps_atMoment | apply keeps_writeHeld | apply ih)
      | split

theorem keeps_unitHeld {z : State} (s : State) (u : Nat) (hk : Keeps z s) : Keeps z (unitHeld s u) := by
  unfold unitHeld
  repeat' first | with_reducible assumption | intro _ | (with_reducible first | apply keeps_heldRecords | apply keeps_ite) | split

theorem keeps_execCorrectionResult {z : State} (u : Nat) (j : Int) (v : CorrVal) (now : Nat) (s0 : State) (hk : Keeps z s0) : KeepsO z
    (execCorrectionResult u j v now s0) := by
  unfold execCorrectionResult
  repeat' first
    | with_reducible assumption
    | (intro x; first | (have hx : Keeps z x := (by repeat' first | (with_reducible first | assumption | apply keeps_outAt | apply keeps_unitHeld)); clear_value x) | try clear_value x)
    | lift_lets
    | (with_reducible first | apply keeps_bump | apply keeps_unitIrq | apply keeps_writeCorr | apply keeps_ite | apply keepsO_ite | apply keepsO)
    | split

theorem keeps_execHeld {z : State} (u now : Nat) (s0 : State) (hk : Keeps z s0) : KeepsO z (execHeld u now s0) := by
  unfold execHeld
  repeat' first | (with_reducible first | assumption | apply keeps_outAt | apply keeps_unitHeld | apply keepsO)

theorem keeps_outDue {z : State} (s : State) (hk : Keeps z s) : Keeps z (outDue s) := by
  unfold outDue
  repeat' first
    | with_reducible assumption
    | intro _
    | (with_reducible first | apply keeps_passDeadlines | apply keeps_unitHeld | apply keeps_foldl)

theorem keeps_closeTrack {z : State} (s : State) (i : Nat) (hk : Keeps z s) : Keeps z (closeTrack s i) := by
  unfold closeTrack
  repeat' first | (with_reducible first | assumption | apply keeps_tabWrite)

theorem keeps_nameTrack {z : State} (t : TileRef) (i : Nat) (s : State) (hk : Keeps z s) : Keeps z (nameTrack t i s) := by
  unfold nameTrack
  repeat' first
    | with_reducible assumption
    | (intro x; (have hx : Keeps z x := (by repeat' first | with_reducible assumption | intro _ | (with_reducible first | apply keeps_setPend | apply keeps_ite) | split); clear_value x))
    | lift_lets
    | with_reducible apply keeps_updOut

theorem keeps_execDetection {z : State} (t : TileRef) (stamp cls : Nat) (x y : Int) (now : Nat) (s0 : State) (hk : Keeps z s0) : KeepsO z
    (execDetection t stamp cls x y now s0) := by
  unfold execDetection
  repeat' first
    | with_reducible assumption
    | (intro x; first | (have hx : Keeps z x := (by repeat' first | with_reducible assumption | intro _ | (with_reducible first | apply keeps_closeTrack | apply keeps_outAt | apply keeps_tabWrite | apply keeps_foldl)); clear_value x) | try clear_value x)
    | lift_lets
    | (with_reducible first | apply keeps_bump | apply keeps_nameTrack | apply keeps_tabWrite | apply keepsO_ite | apply keepsO)
    | split

theorem keeps_served {z : State} (s : State) (r : OutRec) (bit : Nat) (hk : Keeps z s) : Keeps z (served s r bit) := by
  unfold served
  repeat' first
    | with_reducible assumption
    | (intro x; first | (have hx : Keeps z x := (by repeat' first | (with_reducible first | assumption | apply keeps_updOut)); clear_value x) | try clear_value x)
    | lift_lets
    | (with_reducible first | apply keeps_bump | apply keeps_ite)

theorem keeps_setHead {z : State} (s : State) (n h : Nat) (hk : Keeps z s) : Keeps z (setHead s n h) := by
  unfold setHead
  repeat' first
    | with_reducible assumption
    | (intro x; first | (have hx : Keeps z x := (by repeat' first | with_reducible assumption | intro _ | (with_reducible first | apply keeps_hostWrite | apply keeps_irq | apply keeps_wrN | apply keeps_ite)); clear_value x) | try clear_value x)
    | lift_lets
    | with_reducible apply keeps_setStr

theorem keeps_execRecordDeliver {z : State} (n now : Nat) (s0 : State) (hk : Keeps z s0) : KeepsO z (execRecordDeliver n now s0) := by
  unfold execRecordDeliver
  repeat' first
    | with_reducible assumption
    | (intro x; first | (have hx : Keeps z x := (by repeat' first | with_reducible assumption | intro _ | (with_reducible first | apply keeps_hostWrite | apply keeps_outAt | apply keeps_ite)); clear_value x) | try clear_value x)
    | lift_lets
    | (with_reducible first | apply keeps_served | apply keeps_setHead | apply keepsO_ite | apply keepsO)
    | split

theorem keeps_tailWrite {z : State} (s : State) (n : Nat) (v : Word) (hk : Keeps z s) : Keeps z (tailWrite s n v) := by
  unfold tailWrite
  repeat' first
    | with_reducible assumption
    | (intro x; first | (have hx : Keeps z x := (by repeat' first | (with_reducible first | assumption | apply keeps_wrN)); clear_value x) | try clear_value x)
    | lift_lets
    | (with_reducible first | apply keeps_setStr | apply keeps_ite)

theorem keeps_execOutStrTailWrite {z : State} (w : Who) (n : Nat) (v : Word) (s : State) (hk : Keeps z s) : KeepsO z (execOutStrTailWrite w
    n v s) := by
  unfold execOutStrTailWrite
  repeat' first | with_reducible assumption | intro _ | (with_reducible first | apply keeps_guardW | apply keeps_tailWrite | apply keepsO)

theorem keeps_execRingIrq {z : State} (n now : Nat) (s0 : State) (hk : Keeps z s0) : KeepsO z (execRingIrq n now s0) := by
  unfold execRingIrq
  repeat' first
    | with_reducible assumption
    | (intro x; first | (have hx : Keeps z x := (by repeat' first | (with_reducible first | assumption | apply keeps_advance)); clear_value x) | try clear_value x)
    | lift_lets
    | (with_reducible first | apply keeps_sendMsix | apply keeps_setStr | apply keepsO_ite | apply keepsO)

theorem keeps_execDatagramSend {z : State} (n now : Nat) (s0 : State) (hk : Keeps z s0) : KeepsO z (execDatagramSend n now s0) := by
  unfold execDatagramSend
  repeat' first
    | with_reducible assumption
    | (intro x; first | (have hx : Keeps z x := (by repeat' first | (with_reducible first | assumption | apply keeps_outAt)); clear_value x) | try clear_value x)
    | lift_lets
    | (with_reducible first | apply keeps_bumpN | apply keeps_drawNat | apply keeps_served | apply keeps_setStr | apply keeps_updOut | apply keepsO_ite | apply keepsO | apply keeps_foldl)
    | split

theorem keeps_outWrite {z : State} (s : State) (w : Who) (a : Nat) (v : Word) (hk : Keeps z s) : Keeps z (outWrite s w a v) := by
  unfold outWrite
  repeat' first
    | with_reducible assumption
    | (intro x; first | (have hx : Keeps z x := (by repeat' first | (with_reducible first | assumption | apply keeps_staticWrite)); clear_value x) | try clear_value x)
    | lift_lets
    | (with_reducible first | apply keeps_enWrite | apply keeps_plainWrite | apply keeps_staticWrite | apply keeps_tailWrite | apply keeps_updOut | apply keeps_wErr | apply keeps_ite | apply keeps_id)

theorem keeps_outSrst {z : State} (s : State) (pg : Nat) (hk : Keeps z s) : Keeps z (outSrst s pg) := by
  unfold outSrst
  repeat' first
    | with_reducible assumption
    | (intro x; first | (have hx : Keeps z x := (by repeat' first | with_reducible assumption | intro _ | (with_reducible first | apply keeps_softRegs | apply keeps_updOut | apply keeps_ite)); clear_value x) | try clear_value x)
    | lift_lets
    | (with_reducible first | apply keeps_updOut | apply keeps_wrN | apply keeps_ite)

theorem keeps_updPort {z : State} (s : State) (p : Nat) (f : PortSt → PortSt) (hk : Keeps z s) : Keeps z (updPort s p f) := by
  unfold updPort
  repeat' first | (with_reducible first | assumption | apply keeps_setPort)

theorem keeps_setDisc {z : State} (s : State) (p d : Nat) (hk : Keeps z s) : Keeps z (setDisc s p d) := by
  unfold setDisc
  repeat' first | (with_reducible first | assumption | apply keeps_setFld)

theorem keeps_setReason {z : State} (s : State) (p r : Nat) (hk : Keeps z s) : Keeps z (setReason s p r) := by
  unfold setReason
  repeat' first | (with_reducible first | assumption | apply keeps_setFld)

theorem keeps_streamEnd {z : State} (s : State) (p : Nat) (hk : Keeps z s) : Keeps z (streamEnd s p) := by
  unfold streamEnd
  repeat' first | (with_reducible first | assumption | apply keeps_updPort)

theorem keeps_goLost {z : State} (s : State) (p reason : Nat) (hk : Keeps z s) : Keeps z (goLost s p reason) := by
  unfold goLost
  repeat' first
    | (with_reducible first | assumption | apply keeps_irq | apply keeps_setDisc | apply keeps_setReason | apply keeps_streamEnd)

theorem keeps_goFault {z : State} (s : State) (p reason : Nat) (hk : Keeps z s) : Keeps z (goFault s p reason) := by
  unfold goFault
  repeat' first | (with_reducible first | assumption | apply keeps_irq | apply keeps_setDisc | apply keeps_setReason)

theorem keeps_goEmpty {z : State} (s : State) (p : Nat) (hk : Keeps z s) : Keeps z (goEmpty s p) := by
  unfold goEmpty
  repeat' first
    | with_reducible assumption
    | (intro x; first | (have hx : Keeps z x := (by repeat' first | with_reducible assumption | intro _ | (with_reducible first | apply keeps_wrN | apply keeps_foldl)); clear_value x) | try clear_value x)
    | lift_lets
    | (with_reducible first | apply keeps_irq | apply keeps_setDisc | apply keeps_ite)

theorem keeps_updBus {z : State} (s : State) (b : Nat) (f : I3cSt → I3cSt) (hk : Keeps z s) : Keeps z (updBus s b f) := by
  unfold updBus
  repeat' first | (with_reducible first | assumption | apply keeps_setBus)

theorem keeps_busCmd {z : State} (s : State) (b : Nat) (c : I3cCmd) (hk : Keeps z s) : Keeps z (busCmd s b c) := by
  unfold busCmd
  repeat' first | (with_reducible first | assumption | apply keeps_updBus)

theorem keeps_readDesc {z : State} (s : State) (b addr : Nat) (hk : Keeps z s) : Keeps z (readDesc s b addr) := by
  unfold readDesc
  repeat' first | (with_reducible first | assumption | apply keeps_updBus)

theorem keeps_readDone {z : State} (s : State) (b addr : Nat) (hk : Keeps z s) : Keeps z (readDone s b addr) := by
  unfold readDone
  repeat' first
    | with_reducible assumption
    | (intro x; first | (have hx : Keeps z x := (by repeat' first | (with_reducible first | assumption | apply keeps_updBus)); clear_value x) | try clear_value x)
    | lift_lets
    | (with_reducible first | apply keeps_busCmd | apply keeps_ite)

theorem keeps_reread {z : State} (s : State) (p : Nat) (hk : Keeps z s) : Keeps z (reread s p) := by
  unfold reread
  repeat' first | (with_reducible first | assumption | apply keeps_goEmpty | apply keeps_readDesc | apply keeps_updPort) | split

theorem keeps_joinOne {z : State} (s : State) (b : Nat) (hk : Keeps z s) : Keeps z (joinOne s b) := by
  unfold joinOne
  repeat' first | (with_reducible first | assumption | apply keeps_bump | apply keeps_readDesc | apply keeps_updBus) | split

theorem keeps_entdaa {z : State} (s : State) (b n : Nat) (hk : Keeps z s) : Keeps z (entdaa s b n) := by
  unfold entdaa
  repeat' first
    | with_reducible assumption
    | intro _
    | (with_reducible first | apply keeps_busCmd | apply keeps_joinOne | apply keeps_foldl)

theorem keeps_execDaaRound {z : State} (b n : Nat) (s : State) (hk : Keeps z s) : KeepsO z (execDaaRound b n s) := by
  unfold execDaaRound
  repeat' first
    | with_reducible assumption
    | (intro x; (have hx : Keeps z x := (by repeat' first | with_reducible assumption | intro _ | (with_reducible first | apply keeps_busCmd | apply keeps_updBus | apply keeps_wrN | apply keeps_foldl)); clear_value x))
    | lift_lets
    | (with_reducible first | apply keeps_entdaa | apply keepsO)

theorem keeps_execHotJoin {z : State} (b : Nat) (s : State) (hk : Keeps z s) : KeepsO z (execHotJoin b s) := by
  unfold execHotJoin
  repeat' first
    | with_reducible assumption
    | intro _
    | (with_reducible first | apply keeps_bump | apply keeps_busCmd | apply keeps_entdaa | apply keepsO_ite | apply keepsO)

theorem keeps_showDesc {z : State} (s : State) (p : Nat) (d : List Byte) (hk : Keeps z s) : Keeps z (showDesc s p d) := by
  unfold showDesc
  repeat' first | with_reducible assumption | intro _ | (with_reducible first | apply keeps_wrN | apply keeps_foldl)

theorem keeps_takeDesc {z : State} (s : State) (p : Nat) (d : List Byte) (hk : Keeps z s) : Keeps z (takeDesc s p d) := by
  unfold takeDesc
  repeat' first
    | with_reducible assumption
    | (intro x; first | (have hx : Keeps z x := (by repeat' first | (with_reducible first | assumption | apply keeps_showDesc | apply keeps_updPort)); clear_value x) | try clear_value x)
    | lift_lets
    | (with_reducible first | apply keeps_goFault | apply keeps_irq | apply keeps_setDisc | apply keeps_ite)

theorem keeps_keepDesc {z : State} (s : State) (p : Nat) (d : List Byte) (hk : Keeps z s) : Keeps z (keepDesc s p d) := by
  unfold keepDesc
  repeat' first
    | with_reducible assumption
    | intro _
    | (with_reducible first | apply keeps_showDesc | apply keeps_updPort | apply keeps_ite)

theorem keeps_execDescriptorRead {z : State} (b addr : Nat) (d : Option (List Byte)) (s0 : State) (hk : Keeps z s0) : KeepsO z
    (execDescriptorRead b addr d s0) := by
  unfold execDescriptorRead
  repeat' first
    | with_reducible assumption
    | (intro x; first | (have hx : Keeps z x := (by repeat' first | (with_reducible first | assumption | apply keeps_readDone | apply keeps_updBus | apply keeps_wrN)); clear_value x) | try clear_value x)
    | lift_lets
    | (with_reducible first | apply keeps_bump | apply keeps_goEmpty | apply keeps_irq | apply keeps_keepDesc | apply keeps_takeDesc | apply keeps_updBus | apply keeps_updPort | apply keepsO_ite | apply keepsO)
    | split

theorem keeps_targetGone {z : State} (s : State) (b k : Nat) (hk : Keeps z s) : Keeps z (targetGone s b k) := by
  unfold targetGone
  repeat' first
    | with_reducible assumption
    | (intro x; first | (have hx : Keeps z x := (by repeat' first | (with_reducible first | assumption | apply keeps_updBus | apply keeps_wrN)); clear_value x) | try clear_value x)
    | lift_lets
    | (with_reducible first | apply keeps_goEmpty | apply keeps_goLost | apply keeps_updPort | apply keeps_ite)

theorem keeps_execGetstatusPoll {z : State} (b k : Nat) (ack : Bool) (now : Nat) (s0 : State) (hk : Keeps z s0) : KeepsO z
    (execGetstatusPoll b k ack now s0) := by
  unfold execGetstatusPoll
  repeat' first
    | with_reducible assumption
    | (intro x; first | (have hx : Keeps z x := (by repeat' first | (with_reducible first | assumption | apply keeps_advance | apply keeps_bump | apply keeps_busCmd | apply_assumption -exfalso -symm)); clear_value x) | (have hx : ∀ a t, Keeps z t → Keeps z (x a t) := (by repeat' first | with_reducible assumption | intro _ | with_reducible apply keeps_updBus); clear_value x) | try clear_value x)
    | lift_lets
    | (with_reducible first | apply keeps_targetGone | apply keeps_ite | apply keepsO_ite | apply keepsO)
    | split
    | with_reducible apply_assumption -exfalso -symm

theorem keeps_i3cCfgWrite {z : State} (s : State) (w : Who) (b n : Nat) (v : Word) (hk : Keeps z s) : Keeps z (i3cCfgWrite s w b n v) := by
  unfold i3cCfgWrite
  repeat' first
    | with_reducible assumption
    | (intro x; first | (have hx : Keeps z x := (by repeat' first | (with_reducible first | assumption | apply keeps_plainWrite)); clear_value x) | try clear_value x)
    | lift_lets
    | (with_reducible first | apply keeps_busCmd | apply keeps_entdaa | apply keeps_ite)

theorem keeps_execHjEnWrite {z : State} (w : Who) (b n : Nat) (v : Word) (s : State) (hk : Keeps z s) : KeepsO z (execHjEnWrite w b n v s)
    := by
  unfold execHjEnWrite
  repeat' first | with_reducible assumption | intro _ | (with_reducible first | apply keeps_guardW | apply keeps_i3cCfgWrite | apply keepsO)

theorem keeps_xferDone {z : State} (s : State) (b st : Nat) (hk : Keeps z s) : Keeps z (xferDone s b st) := by
  unfold xferDone
  repeat' first | (with_reducible first | assumption | apply keeps_irq | apply keeps_setOp | apply keeps_wrN)

theorem keeps_xferStart {z : State} (s : State) (b k : Nat) (hk : Keeps z s) : Keeps z (xferStart s b k) := by
  unfold xferStart
  repeat' first | with_reducible assumption | intro _ | (with_reducible first | apply keeps_busCmd | apply keeps_updBus | apply keeps_ite)

theorem keeps_xferWrite {z : State} (s : State) (w : Who) (b : Nat) (v : Word) (hk : Keeps z s) : Keeps z (xferWrite s w b v) := by
  unfold xferWrite
  repeat' first
    | with_reducible assumption
    | (intro x; first | (have hx : Keeps z x := (by repeat' first | (with_reducible first | assumption | apply keeps_plainWrite)); clear_value x) | try clear_value x)
    | lift_lets
    | (with_reducible first | apply keeps_setOp | apply keeps_wErr | apply keeps_wrN | apply keeps_xferDone | apply keeps_xferStart | apply keeps_ite)

theorem keeps_execI3cXferGo {z : State} (w : Who) (b : Nat) (v : Word) (s : State) (hk : Keeps z s) : KeepsO z (execI3cXferGo w b v s) := by
  unfold execI3cXferGo
  repeat' first | with_reducible assumption | intro _ | (with_reducible first | apply keeps_guardW | apply keeps_xferWrite | apply keepsO)

theorem keeps_execI3cXferDone {z : State} (b : Nat) (x : XferEnd) (s : State) (hk : Keeps z s) : KeepsO z (execI3cXferDone b x s) := by
  unfold execI3cXferDone
  repeat' first
    | with_reducible assumption
    | (intro x; first | (have hx : Keeps z x := (by repeat' first | with_reducible assumption | intro _ | (with_reducible first | apply keeps_wrN | apply keeps_ite | apply keeps_foldl)); clear_value x) | try clear_value x)
    | lift_lets
    | (with_reducible first | apply keeps_bump | apply keeps_updBus | apply keeps_xferDone | apply keepsO_ite | apply keepsO)
    | split

theorem keeps_setSpilling {z : State} (s : State) (p : Nat) (b : Bool) (hk : Keeps z s) : Keeps z (setSpilling s p b) := by
  unfold setSpilling
  repeat' first
    | with_reducible assumption
    | (intro x; first | (have hx : Keeps z x := (by repeat' first | (with_reducible first | assumption | apply keeps_addLogData | apply keeps_setFlag)); clear_value x) | try clear_value x)
    | lift_lets
    | (with_reducible first | apply keeps_irq | apply keeps_ite)

theorem keeps_loseWord {z : State} (s : State) (p : Nat) (hk : Keeps z s) : Keeps z (loseWord s p) := by
  unfold loseWord
  repeat' first
    | with_reducible assumption
    | (intro x; (have hx : Keeps z x := (by repeat' first | with_reducible assumption | intro _ | (with_reducible first | apply keeps_endJobs | apply keeps_ite)); clear_value x))
    | lift_lets
    | (with_reducible first | apply keeps_bump | apply keeps_irq | apply keeps_updPort)

theorem keeps_toSpill {z : State} (s : State) (p : Nat) (w : BufWord) (hk : Keeps z s) : Keeps z (toSpill s p w) := by
  unfold toSpill
  repeat' first
    | with_reducible assumption
    | (intro x; first | (have hx : Keeps z x := (by repeat' first | (with_reducible first | assumption | apply keeps_peak | apply keeps_setSpilling | apply keeps_updPort)); clear_value x) | try clear_value x)
    | lift_lets
    | (with_reducible first | apply keeps_irq | apply keeps_ite)

theorem keeps_pushWord {z : State} (p : Nat) (s : State) (w0 : BufWord) (hk : Keeps z s) : Keeps z (pushWord p s w0) := by
  unfold pushWord
  repeat' first
    | with_reducible assumption
    | (intro x; first | (have hx : Keeps z x := (by repeat' first | (with_reducible first | assumption | apply keeps_bump | apply keeps_updPort)); clear_value x) | (have hx : ∀ t, Keeps z t → Keeps z (x t) := (by repeat' first | with_reducible assumption | intro _ | with_reducible apply keeps_updPort); clear_value x) | try clear_value x)
    | lift_lets
    | (with_reducible first | apply keeps_loseWord | apply keeps_peak | apply keeps_toSpill | apply keeps_ite | apply_assumption -exfalso -symm)

theorem keeps_showTime {z : State} (s : State) (p : Nat) (hk : Keeps z s) : Keeps z (showTime s p) := by
  unfold showTime
  repeat' first | (with_reducible first | assumption | apply keeps_setFlag)

theorem keeps_timeInvalid {z : State} (s : State) (p : Nat) (hk : Keeps z s) : Keeps z (timeInvalid s p) := by
  unfold timeInvalid
  repeat' first | (with_reducible first | assumption | apply keeps_showTime | apply keeps_updPort)

theorem keeps_settleDrop {z : State} (s : State) (p : Nat) (hk : Keeps z s) : Keeps z (settleDrop s p) := by
  unfold settleDrop
  repeat' first
    | with_reducible assumption
    | (intro x; try clear_value x)
    | lift_lets
    | (with_reducible first | apply keeps_timeInvalid | apply keeps_updPort | apply keeps_ite)

theorem keeps_packetDropped {z : State} (s : State) (p : Nat) (hk : Keeps z s) : Keeps z (packetDropped s p) := by
  unfold packetDropped
  repeat' first
    | with_reducible assumption
    | intro _
    | (with_reducible first | apply keeps_settleDrop | apply keeps_updPort | apply keeps_ite)

theorem keeps_markAt {z : State} (s : State) (p stamp : Nat) (hk : Keeps z s) : Keeps z (markAt s p stamp) := by
  unfold markAt
  repeat' first | (with_reducible first | assumption | apply keeps_updPort)

theorem keeps_acceptPacket {z : State} (s : State) (p arr now : Nat) (bs : List Byte) (hk : Keeps z s) : Keeps z (acceptPacket s p arr now
    bs) := by
  unfold acceptPacket
  repeat' first
    | with_reducible assumption
    | (intro x; first | (have hx : Keeps z x := (by repeat' first | with_reducible assumption | intro _ | (with_reducible first | apply keeps_pushWord | apply keeps_setDisc | apply keeps_updPort | apply keeps_ite | apply keeps_foldl)); clear_value x) | try clear_value x)
    | lift_lets
    | (with_reducible first | apply keeps_markAt | apply keeps_ite)

theorem keeps_checkPacket {z : State} (s : State) (p arr now : Nat) (x : Packet) (hk : Keeps z s) : Keeps z (checkPacket s p arr now x) :=
    by
  unfold checkPacket
  repeat' first
    | with_reducible assumption
    | (intro x; first | (have hx : Keeps z x := (by repeat' first | with_reducible assumption | intro _ | (with_reducible first | apply keeps_bump | apply keeps_ite)); clear_value x) | try clear_value x)
    | lift_lets
    | (with_reducible first | apply keeps_acceptPacket | apply keeps_bump | apply keeps_irq | apply keeps_packetDropped | apply keeps_ite)

theorem keeps_laneSet {z : State} (s : State) (p now : Nat) (hs : Bool) (hk : Keeps z s) : Keeps z (laneSet s p now hs) := by
  unfold laneSet
  repeat' first | (with_reducible first | assumption | apply keeps_updPort)

theorem keeps_execPacketReceive {z : State} (p : Nat) (e : PacketEvent) (s0 : State) (hk : Keeps z s0) : KeepsO z (execPacketReceive p e s0)
    := by
  unfold execPacketReceive
  repeat' first
    | with_reducible assumption
    | (intro x; (have hx : Keeps z x := (by repeat' first | (with_reducible first | assumption | apply keeps_advance | apply keeps_laneSet)); clear_value x))
    | lift_lets
    | (with_reducible first | apply keeps_advance | apply keeps_checkPacket | apply keeps_laneSet | apply keeps_updPort | apply keepsO)
    | split

theorem keeps_execSpillRefill {z : State} (p : Nat) (s : State) (hk : Keeps z s) : KeepsO z (execSpillRefill p s) := by
  unfold execSpillRefill
  repeat' first
    | with_reducible assumption
    | (intro x; first | (have hx : Keeps z x := (by repeat' first | (with_reducible first | assumption | apply keeps_peak | apply keeps_setPort)); clear_value x) | try clear_value x)
    | lift_lets
    | (with_reducible first | apply keeps_setSpilling | apply keeps_ite | apply keepsO_ite | apply keepsO)

theorem keeps_countEvent {z : State} (s : State) (hk : Keeps z s) : Keeps z (countEvent s) := by
  unfold countEvent
  repeat' first
    | (intro x; try clear_value x)
    | lift_lets
    | with_reducible apply keeps_ite
    | split
    | (with_reducible apply keeps_mk; with_reducible assumption)

theorem keeps_emit {z : State} (s : State) (p u v : Nat) (pol : Bool) (stamp arr : Nat) (arrival : Bool) (hk : Keeps z s) : Keeps z (emit s
    p u v pol stamp arr arrival) := by
  unfold emit
  repeat' first
    | with_reducible assumption
    | (intro x; first | (have hx : Keeps z x := (by repeat' first | with_reducible assumption | intro _ | (with_reducible first | apply keeps_bump | apply keeps_countEvent | apply keeps_updPort | apply keeps_ite)); clear_value x) | try clear_value x)
    | lift_lets
    | (with_reducible first | apply keeps_bump | apply keeps_updPort | apply keeps_ite)

theorem keeps_vesEvent {z : State} (p arr : Nat) (s : State) (x : Nat) (hk : Keeps z s) : Keeps z (vesEvent p arr s x) := by
  unfold vesEvent
  repeat' first
    | with_reducible assumption
    | (intro x; try clear_value x)
    | lift_lets
    | (with_reducible first | apply keeps_bump | apply keeps_emit | apply keeps_ite)
    | split

theorem keeps_popWord {z : State} (s : State) (p : Nat) (hk : Keeps z s) : Keeps z (popWord s p) := by
  unfold popWord
  repeat' first
    | with_reducible assumption
    | (intro x; first | (have hx : Keeps z x := (by repeat' first | (with_reducible first | assumption | apply keeps_updPort)); clear_value x) | try clear_value x)
    | lift_lets
    | (with_reducible first | apply keeps_settleDrop | apply keeps_timeInvalid | apply keeps_ite)
    | split

theorem keeps_withWord {z : State} (s : State) (p : Nat) (legacy : Bool) (test : Nat → Bool) (f : State → BufWord → State) (hk : Keeps z s)
    (hf_f : ∀ (a0 : State) (a1 : BufWord), Keeps z a0 → Keeps z (f a0 a1)) : KeepsO z (withWord s p legacy test f) := by
  unfold withWord
  repeat' first
    | with_reducible assumption
    | intro _
    | (with_reducible first | apply keeps_popWord | apply hf_f | apply keepsO_ite | apply keepsO)
    | split

theorem keeps_execPad {z : State} (p : Nat) (s : State) (hk : Keeps z s) : KeepsO z (execPad p s) := by
  unfold execPad
  repeat' first | with_reducible assumption | intro _ | with_reducible apply keeps_withWord

theorem keeps_pairAndMark {z : State} (s : State) (p t arr : Nat) (hk : Keeps z s) : Keeps z (pairAndMark s p t arr) := by
  unfold pairAndMark
  repeat' first
    | with_reducible assumption
    | (intro x; (have hx : Keeps z x := (by repeat' first | (with_reducible first | assumption | apply keeps_srvPair)); clear_value x))
    | lift_lets
    | with_reducible apply keeps_markAt

theorem keeps_setTime {z : State} (s : State) (p t : Nat) (hk : Keeps z s) : Keeps z (setTime s p t) := by
  unfold setTime
  repeat' first | (with_reducible first | assumption | apply keeps_showTime | apply keeps_updPort)

theorem keeps_execTimeBase {z : State} (p : Nat) (s : State) (hk : Keeps z s) : KeepsO z (execTimeBase p s) := by
  unfold execTimeBase
  repeat' first
    | with_reducible assumption
    | (intro x; first | (have hx : Keeps z x := (by repeat' first | with_reducible assumption | intro _ | (with_reducible first | apply keeps_irq | apply keeps_setTime | apply keeps_srvAcquire | apply keeps_updPort | apply keeps_ite)); clear_value x) | try clear_value x)
    | lift_lets
    | (with_reducible first | apply keeps_bump | apply keeps_pairAndMark | apply keeps_withWord | apply keeps_ite)

theorem keeps_execTimeDelta {z : State} (p : Nat) (s : State) (hk : Keeps z s) : KeepsO z (execTimeDelta p s) := by
  unfold execTimeDelta
  repeat' first
    | with_reducible assumption
    | (intro x; try clear_value x)
    | lift_lets
    | (with_reducible first | apply keeps_pairAndMark | apply keeps_setTime | apply keeps_withWord)
    | split

theorem keeps_execRow {z : State} (p : Nat) (s : State) (hk : Keeps z s) : KeepsO z (execRow p s) := by
  unfold execRow
  repeat' first | with_reducible assumption | intro _ | (with_reducible first | apply keeps_updPort | apply keeps_withWord)

theorem keeps_execRun {z : State} (p : Nat) (s : State) (hk : Keeps z s) : KeepsO z (execRun p s) := by
  unfold execRun
  repeat' first
    | with_reducible assumption
    | intro _
    | (with_reducible first | apply keeps_vesEvent | apply keeps_withWord | apply keeps_foldl)

theorem keeps_execMask {z : State} (p : Nat) (s : State) (hk : Keeps z s) : KeepsO z (execMask p s) := by
  unfold execMask
  repeat' first
    | with_reducible assumption
    | intro _
    | (with_reducible first | apply keeps_vesEvent | apply keeps_withWord | apply keeps_foldl)

theorem keeps_execTrigger {z : State} (p : Nat) (s : State) (hk : Keeps z s) : KeepsO z (execTrigger p s) := by
  unfold execTrigger
  repeat' first
    | with_reducible assumption
    | (intro x; try clear_value x)
    | lift_lets
    | (with_reducible first | apply keeps_bump | apply keeps_withWord)
    | split
    | (with_reducible apply keeps_mk; with_reducible apply keeps_bump)

theorem keeps_execSensorStatus {z : State} (p : Nat) (s : State) (hk : Keeps z s) : KeepsO z (execSensorStatus p s) := by
  unfold execSensorStatus
  repeat' first
    | with_reducible assumption
    | (intro x; first | (have hx : Keeps z x := (by repeat' first | (with_reducible first | assumption | apply keeps_irq | apply keeps_wr)); clear_value x) | try clear_value x)
    | lift_lets
    | (with_reducible first | apply keeps_goLost | apply keeps_updPort | apply keeps_withWord | apply keeps_ite)
    | split

theorem keeps_execExtended {z : State} (p : Nat) (s : State) (hk : Keeps z s) : KeepsO z (execExtended p s) := by
  unfold execExtended
  repeat' first
    | with_reducible assumption
    | intro _
    | (with_reducible first | apply keeps_bump | apply keeps_popWord | apply keeps_updPort | apply keepsO_ite | apply keepsO)
    | split

theorem keeps_reject {z : State} (s : State) (p : Nat) (b : BufWord) (hk : Keeps z s) : Keeps z (reject s p b) := by
  unfold reject
  repeat' first | (with_reducible first | assumption | apply keeps_bump | apply keeps_irq | apply keeps_wr)

theorem keeps_execVesReject {z : State} (p : Nat) (s : State) (hk : Keeps z s) : KeepsO z (execVesReject p s) := by
  unfold execVesReject
  repeat' first
    | with_reducible assumption
    | intro _
    | (with_reducible first | apply keeps_reject | apply keeps_withWord | apply keepsO_ite)

theorem keeps_setArrival {z : State} (s : State) (p : Nat) (b : Bool) (hk : Keeps z s) : Keeps z (setArrival s p b) := by
  unfold setArrival
  repeat' first
    | with_reducible assumption
    | (intro x; first | (have hx : Keeps z x := (by repeat' first | (with_reducible first | assumption | apply keeps_setFlag)); clear_value x) | try clear_value x)
    | lift_lets
    | (with_reducible first | apply keeps_irq | apply keeps_ite)

theorem keeps_checkArrival {z : State} (s : State) (p arr : Nat) (hk : Keeps z s) : Keeps z (checkArrival s p arr) := by
  unfold checkArrival
  repeat' first | with_reducible assumption | intro _ | (with_reducible first | apply keeps_setArrival | apply keeps_ite) | split

theorem keeps_execTimeHigh {z : State} (p : Nat) (s : State) (hk : Keeps z s) : KeepsO z (execTimeHigh p s) := by
  unfold execTimeHigh
  repeat' first
    | with_reducible assumption
    | (intro x; first | (have hx : Keeps z x := (by repeat' first | with_reducible assumption | intro _ | (with_reducible first | apply keeps_checkArrival | apply keeps_setArrival | apply keeps_setTime | apply keeps_updPort | apply keeps_ite)); clear_value x) | try clear_value x)
    | lift_lets
    | (with_reducible first | apply keeps_markAt | apply keeps_pairAndMark | apply keeps_withWord | apply keeps_ite)

theorem keeps_execTkEvent {z : State} (p : Nat) (s : State) (hk : Keeps z s) : KeepsO z (execTkEvent p s) := by
  unfold execTkEvent
  repeat' first
    | with_reducible assumption
    | (intro x; first | (have hx : Keeps z x := (by repeat' first | (with_reducible first | assumption | apply keeps_checkArrival)); clear_value x) | try clear_value x)
    | lift_lets
    | (with_reducible first | apply keeps_bump | apply keeps_emit | apply keeps_withWord | apply keeps_ite)
    | split

theorem keeps_newStream {z : State} (s : State) (p : Nat) (hk : Keeps z s) : Keeps z (newStream s p) := by
  unfold newStream
  repeat' first
    | with_reducible assumption
    | intro _
    | (with_reducible first | apply keeps_newSource | apply keeps_updPort | apply keeps_ite)

theorem keeps_portEnable {z : State} (s0 : State) (p : Nat) (hk : Keeps z s0) : Keeps z (portEnable s0 p) := by
  unfold portEnable
  repeat' first
    | with_reducible assumption
    | (intro x; first | (have hx : Keeps z x := (by repeat' first | (with_reducible first | assumption | apply keeps_newStream | apply keeps_setDisc | apply keeps_showTime | apply keeps_srvAcquire | apply keeps_updPort)); clear_value x) | try clear_value x)
    | lift_lets
    | (with_reducible first | apply keeps_setArrival | apply keeps_ite)

theorem keeps_portDisable {z : State} (s : State) (p : Nat) (hk : Keeps z s) : Keeps z (portDisable s p) := by
  unfold portDisable
  repeat' first
    | with_reducible assumption
    | (intro x; first | (have hx : Keeps z x := (by repeat' first | (with_reducible first | assumption | apply keeps_srvIdle)); clear_value x) | try clear_value x)
    | lift_lets
    | (with_reducible first | apply keeps_reread | apply keeps_setDisc | apply keeps_streamEnd | apply keeps_ite)

theorem keeps_portDisableAgain {z : State} (s : State) (p : Nat) (hk : Keeps z s) : Keeps z (portDisableAgain s p) := by
  unfold portDisableAgain
  repeat' first | with_reducible assumption | intro _ | (with_reducible first | apply keeps_portDisable | apply keeps_ite)

theorem keeps_execNoStream {z : State} (p now : Nat) (s0 : State) (hk : Keeps z s0) : KeepsO z (execNoStream p now s0) := by
  unfold execNoStream
  repeat' first
    | with_reducible assumption
    | (intro x; first | (have hx : Keeps z x := (by repeat' first | (with_reducible first | assumption | apply keeps_advance)); clear_value x) | try clear_value x)
    | lift_lets
    | (with_reducible first | apply keeps_goFault | apply keeps_streamEnd | apply keepsO_ite | apply keepsO)

theorem keeps_execLinkTimeout {z : State} (p now : Nat) (s0 : State) (hk : Keeps z s0) : KeepsO z (execLinkTimeout p now s0) := by
  unfold execLinkTimeout
  repeat' first
    | with_reducible assumption
    | (intro x; first | (have hx : Keeps z x := (by repeat' first | (with_reducible first | assumption | apply keeps_advance)); clear_value x) | try clear_value x)
    | lift_lets
    | (with_reducible first | apply keeps_goLost | apply keepsO_ite | apply keepsO)

theorem keeps_portCfgWrite {z : State} (s : State) (w : Who) (p : Nat) (v : Word) (hk : Keeps z s) : Keeps z (portCfgWrite s w p v) := by
  unfold portCfgWrite
  repeat' first
    | with_reducible assumption
    | (intro x; first | (have hx : Keeps z x := (by repeat' first | with_reducible assumption | intro _ | (with_reducible first | apply keeps_plainWrite | apply keeps_setFlag | apply keeps_wrN | apply keeps_foldl)); clear_value x) | try clear_value x)
    | lift_lets
    | (with_reducible first | apply keeps_reread | apply keeps_setDisc | apply keeps_updPort | apply keeps_wErr | apply keeps_ite)

theorem keeps_execLegacyWrite {z : State} (w : Who) (p : Nat) (v : Word) (s : State) (hk : Keeps z s) : KeepsO z (execLegacyWrite w p v s)
    := by
  unfold execLegacyWrite
  repeat' first
    | with_reducible assumption
    | intro _
    | (with_reducible first | apply keeps_guardW | apply keeps_portCfgWrite | apply keepsO)

theorem keeps_legResWrite {z : State} (s : State) (w : Who) (p : Nat) (v : Word) (hk : Keeps z s) : Keeps z (legResWrite s w p v) := by
  unfold legResWrite
  repeat' first
    | with_reducible assumption
    | (intro x; first | (have hx : Keeps z x := (by repeat' first | (with_reducible first | assumption | apply keeps_plainWrite)); clear_value x) | try clear_value x)
    | lift_lets
    | (with_reducible first | apply keeps_setDisc | apply keeps_wErr | apply keeps_ite)

theorem keeps_execPortLegResWrite {z : State} (w : Who) (p : Nat) (v : Word) (s : State) (hk : Keeps z s) : KeepsO z (execPortLegResWrite w
    p v s) := by
  unfold execPortLegResWrite
  repeat' first | with_reducible assumption | intro _ | (with_reducible first | apply keeps_guardW | apply keeps_legResWrite | apply keepsO)

theorem keeps_spillCfgWrite {z : State} (s : State) (w : Who) (p : Nat) (v : Word) (hk : Keeps z s) : Keeps z (spillCfgWrite s w p v) := by
  unfold spillCfgWrite
  repeat' first | with_reducible assumption | intro _ | (with_reducible first | apply keeps_plainWrite | apply keeps_wErr | apply keeps_ite)

theorem keeps_portWrite {z : State} (s : State) (w : Who) (p a : Nat) (v : Word) (hk : Keeps z s) : Keeps z (portWrite s w p a v) := by
  unfold portWrite
  repeat' first
    | with_reducible assumption
    | intro _
    | (with_reducible first | apply keeps_legResWrite | apply keeps_plainWrite | apply keeps_portCfgWrite | apply keeps_spillCfgWrite | apply keeps_updPort | apply keeps_wErr | apply keeps_ite)

theorem keeps_ingWrite {z : State} (s : State) (w : Who) (a : Nat) (v : Word) (hk : Keeps z s) : Keeps z (ingWrite s w a v) := by
  unfold ingWrite
  repeat' first
    | with_reducible assumption
    | (intro x; try clear_value x)
    | lift_lets
    | (with_reducible first | apply keeps_plainWrite | apply keeps_wErr | apply keeps_ite)

theorem keeps_i3cWrite {z : State} (s : State) (w : Who) (b a : Nat) (v : Word) (hk : Keeps z s) : Keeps z (i3cWrite s w b a v) := by
  unfold i3cWrite
  repeat' first
    | with_reducible assumption
    | intro _
    | (with_reducible first | apply keeps_i3cCfgWrite | apply keeps_plainWrite | apply keeps_xferWrite | apply keeps_ite)

theorem keeps_tkRead {z : State} (s : State) (p off : Nat) (hk : Keeps z s) : Keeps z (tkRead s p off).1 := by
  unfold tkRead
  repeat' first | with_reducible assumption | (intro x; try clear_value x) | lift_lets | with_reducible apply keeps_updPort | split

theorem keeps_tkOffsetHi {z : State} (s : State) (w : Who) (p v : Nat) (hk : Keeps z s) : Keeps z (tkOffsetHi s w p v) := by
  unfold tkOffsetHi
  repeat' first | with_reducible assumption | intro _ | (with_reducible first | apply keeps_wErr | apply keeps_wrN | apply keeps_ite)

theorem keeps_tkRes {z : State} (s : State) (w : Who) (p lim n : Nat) (v : Word) (hk : Keeps z s) : Keeps z (tkRes s w p lim n v) := by
  unfold tkRes
  repeat' first
    | with_reducible assumption
    | (intro x; first | (have hx : Keeps z x := (by repeat' first | (with_reducible first | assumption | apply keeps_wr)); clear_value x) | try clear_value x)
    | lift_lets
    | (with_reducible first | apply keeps_setDisc | apply keeps_wErr | apply keeps_ite)

theorem keeps_tkFail {z : State} (s : State) (w : Who) (isWr : Bool) (p off c : Nat) (hk : Keeps z s) : Keeps z (tkFail s w isWr p off c) :=
    by
  unfold tkFail
  repeat' first
    | with_reducible assumption
    | (intro x; first | (have hx : Keeps z x := (by repeat' first | (with_reducible first | assumption | apply keeps_recErr)); clear_value x) | try clear_value x)
    | lift_lets
    | (with_reducible first | apply keeps_bump | apply keeps_ite)

theorem keeps_portSrst {z : State} (s : State) (p : Nat) (hk : Keeps z s) : Keeps z (portSrst s p) := by
  unfold portSrst
  repeat' first
    | with_reducible assumption
    | (intro x; first | (have hx : Keeps z x := (by repeat' first | with_reducible assumption | intro _ | (with_reducible first | apply keeps_bumpN | apply keeps_setPort | apply keeps_softRegs | apply keeps_srvIdle | apply keeps_wrN | apply keeps_foldl)); clear_value x) | try clear_value x)
    | lift_lets
    | (with_reducible first | apply keeps_reread | apply keeps_setDisc)

theorem keeps_ingestDiscard {z : State} (s : State) (hk : Keeps z s) : Keeps z (ingestDiscard s) := by
  unfold ingestDiscard
  repeat' first
    | with_reducible assumption
    | (intro x; try clear_value x)
    | lift_lets
    | (with_reducible first | apply keeps_bumpN | apply keeps_setPort | apply keeps_setSpilling | apply keeps_settleDrop | apply keeps_ite | apply keeps_foldl)

theorem keeps_setIns {z : State} (s : State) (b n : Nat) (x : InSlot) (hk : Keeps z s) : Keeps z (setIns s b n x) := by
  unfold setIns
  repeat' first | (with_reducible first | assumption | apply keeps_updBar)

theorem keeps_flowDone {z : State} (s : State) (b t : Nat) (hk : Keeps z s) : Keeps z (flowDone s b t) := by
  unfold flowDone
  repeat' first
    | with_reducible assumption
    | (intro x; try clear_value x)
    | lift_lets
    | (with_reducible first | apply keeps_bumpN | apply keeps_setPort | apply keeps_ite | apply keeps_foldl)

theorem keeps_setSource {z : State} (s : State) (b slot q st bit : Nat) (hk : Keeps z s) : Keeps z (setSource s b slot q st bit) := by
  unfold setSource
  repeat' first
    | with_reducible assumption
    | (intro x; first | (have hx : Keeps z x := (by repeat' first | (with_reducible first | assumption | apply keeps_addLog | apply keeps_setFld)); clear_value x) | try clear_value x)
    | lift_lets
    | (with_reducible first | apply keeps_irq | apply keeps_srcEvent | apply keeps_wrN)

theorem keeps_stepSource {z : State} (s : State) (b q slot : Nat) (bad : Bool) (hk : Keeps z s) : Keeps z (stepSource s b q slot bad) := by
  unfold stepSource
  repeat' first
    | with_reducible assumption
    | (intro x; first | (have hx : Keeps z x := (by repeat' first | with_reducible assumption | intro _ | (with_reducible first | apply keeps_setFld | apply keeps_setSource | apply keeps_ite)); clear_value x) | try clear_value x)
    | lift_lets
    | (with_reducible first | apply keeps_setSource | apply keeps_ite)

theorem keeps_readmit {z : State} (s : State) (b q slot : Nat) (good : Bool) (hk : Keeps z s) : Keeps z (readmit s b q slot good) := by
  unfold readmit
  repeat' first
    | with_reducible assumption
    | (intro x; first | (have hx : Keeps z x := (by repeat' first | (with_reducible first | assumption | apply keeps_setFld)); clear_value x) | try clear_value x)
    | lift_lets
    | (with_reducible first | apply keeps_setFld | apply keeps_setSource | apply keeps_ite)

theorem keeps_applyVote {z : State} (b : Nat) (i : VoteIn) (s : State) (q : Nat) (r : VoteRes) (l : List (Nat × Int)) (hk : Keeps z s) :
    Keeps z (applyVote b i s q r l) := by
  unfold applyVote
  repeat' first
    | with_reducible assumption
    | (intro x; first | (have hx : Keeps z x := (by repeat' first | with_reducible assumption | intro _ | (with_reducible first | apply keeps_stepSource | apply keeps_ite | apply keeps_foldl)); clear_value x) | try clear_value x)
    | lift_lets
    | (with_reducible first | apply keeps_readmit | apply keeps_ite | apply keeps_foldl)

theorem keeps_publish {z : State} (s : State) (b : Nat) (r : Issued) (hk : Keeps z s) : Keeps z (publish s b r) := by
  unfold publish
  repeat' first
    | with_reducible assumption
    | (intro x; (have hx : Keeps z x := (by repeat' first | with_reducible assumption | intro _ | (with_reducible first | apply keeps_irq | apply keeps_srcEvent | apply keeps_updBar | apply keeps_wrN | apply keeps_ite | apply keeps_foldl) | (with_reducible apply keeps_mk; with_reducible assumption)); clear_value x))
    | lift_lets
    | with_reducible apply keeps_outResult

theorem keeps_issueBar {z : State} (s : State) (b k : Nat) (hk : Keeps z s) : Keeps z (issueBar s b k) := by
  unfold issueBar
  repeat' first
    | with_reducible assumption
    | (intro x; first | (have hx : Keeps z x := (by repeat' first | with_reducible assumption | intro _ | (with_reducible first | apply keeps_applyVote | apply keeps_bumpN | apply keeps_fwdFrame | apply keeps_setBar | apply keeps_ite | apply keeps_foldl)); clear_value x) | try clear_value x)
    | lift_lets
    | (with_reducible first | apply keeps_flowDone | apply keeps_publish)

theorem keeps_amendCheck {z : State} (s : State) (b n c j : Nat) (o : ChainOut) (hk : Keeps z s) : Keeps z (amendCheck s b n c j o) := by
  unfold amendCheck
  repeat' first
    | with_reducible assumption
    | (intro x; first | (have hx : Keeps z x := (by repeat' first | (with_reducible first | assumption | apply keeps_updBar)); clear_value x) | try clear_value x)
    | lift_lets
    | (with_reducible first | apply keeps_bump | apply keeps_irq | apply keeps_writeAmend | apply keeps_ite)
    | split

theorem keeps_lateSample {z : State} (s : State) (b n c k : Nat) (o : ChainOut) (hk : Keeps z s) : Keeps z (lateSample s b n c k o) := by
  unfold lateSample
  repeat' first
    | with_reducible assumption
    | (intro x; try clear_value x)
    | lift_lets
    | (with_reducible first | apply keeps_amendCheck | apply keeps_bump | apply keeps_irq | apply keeps_setIns | apply keeps_ite)

theorem keeps_takeSample {z : State} (b n c k : Nat) (s : State) (o : ChainOut) (hk : Keeps z s) : Keeps z (takeSample b n c k s o) := by
  unfold takeSample
  repeat' first
    | with_reducible assumption
    | intro _
    | (with_reducible first | apply keeps_lateSample | apply keeps_setIns | apply keeps_ite)

theorem keeps_takeSamples {z : State} (s : State) (b k : Nat) (hk : Keeps z s) : Keeps z (takeSamples s b k) := by
  unfold takeSamples
  repeat' first | with_reducible assumption | intro _ | (with_reducible first | apply keeps_takeSample | apply keeps_foldl) | split

theorem keeps_execLateSample {z : State} (b n now : Nat) (s0 : State) (hk : Keeps z s0) : KeepsO z (execLateSample b n now s0) := by
  unfold execLateSample
  repeat' first
    | with_reducible assumption
    | (intro x; first | (have hx : Keeps z x := (by repeat' first | (with_reducible first | assumption | apply keeps_advance)); clear_value x) | try clear_value x)
    | lift_lets
    | (with_reducible first | apply keeps_takeSample | apply keepsO_ite | apply keepsO)
    | split

theorem keeps_computeInstant {z : State} (s : State) (k : Nat) (hk : Keeps z s) : Keeps z (computeInstant s k) := by
  unfold computeInstant
  repeat' first
    | with_reducible assumption
    | (intro x; first | (have hx : Keeps z x := (by repeat' first | with_reducible apply keeps_encInstant | (with_reducible apply keeps_mk; with_reducible assumption)); clear_value x) | try clear_value x)
    | lift_lets
    | (with_reducible first | apply keeps_updBar | apply keeps_ite | apply keeps_foldl)

theorem keeps_issueAll {z : State} (s : State) (k : Nat) (hk : Keeps z s) : Keeps z (issueAll s k) := by
  unfold issueAll
  repeat' first
    | with_reducible assumption
    | (intro x; first | (have hx : Keeps z x := (by repeat' first | (with_reducible first | assumption | apply keeps_takeSamples)); clear_value x) | try clear_value x)
    | lift_lets
    | (with_reducible first | apply keeps_issueBar | apply keeps_ite | apply keeps_foldl)

theorem keeps_execFusionIssue {z : State} (k now : Nat) (s0 : State) (hk : Keeps z s0) : KeepsO z (execFusionIssue k now s0) := by
  unfold execFusionIssue
  repeat' first
    | with_reducible assumption
    | (intro x; first | (have hx : Keeps z x := (by repeat' first | with_reducible assumption | intro _ | (with_reducible first | apply keeps_advance | apply keeps_computeInstant | apply keeps_outDue | apply keeps_ite)); clear_value x) | try clear_value x)
    | lift_lets
    | (with_reducible first | apply keeps_issueAll | apply keepsO_ite | apply keepsO)
    | split

theorem keeps_execBelayWait {z : State} (b now : Nat) (s0 : State) (hk : Keeps z s0) : KeepsO z (execBelayWait b now s0) := by
  unfold execBelayWait
  repeat' first
    | with_reducible assumption
    | (intro x; first | (have hx : Keeps z x := (by repeat' first | (with_reducible first | assumption | apply keeps_advance | apply keeps_endJobs | apply keeps_irq | apply keeps_recErr)); clear_value x) | try clear_value x)
    | lift_lets
    | (with_reducible first | apply keeps_issueBar | apply keeps_takeSamples | apply keepsO_ite | apply keepsO)
    | split

theorem keeps_resetSources {z : State} (s : State) (b : Nat) (hk : Keeps z s) : Keeps z (resetSources s b) := by
  unfold resetSources
  repeat' first | with_reducible assumption | intro _ | (with_reducible first | apply keeps_wrN | apply keeps_foldl)

theorem keeps_barEnable {z : State} (s : State) (b : Nat) (hk : Keeps z s) : Keeps z (barEnable s b) := by
  unfold barEnable
  repeat' first
    | (intro x; first | (have hx : Keeps z x := (by repeat' first | with_reducible assumption | intro _ | (with_reducible first | apply keeps_resetSources | apply keeps_setBar | apply keeps_wrN | apply keeps_foldl)); clear_value x) | try clear_value x)
    | lift_lets
    | (with_reducible apply keeps_mk; with_reducible assumption)

theorem keeps_pendClear {z : State} (s : State) (p : Nat) (hk : Keeps z s) : Keeps z (pendClear s p) := by
  unfold pendClear
  repeat' first | (with_reducible first | assumption | apply keeps_setFlag)

theorem keeps_barDisable {z : State} (s : State) (b : Nat) (hk : Keeps z s) : Keeps z (barDisable s b) := by
  unfold barDisable
  repeat' first
    | with_reducible assumption
    | (intro x; first | (have hx : Keeps z x := (by repeat' first | with_reducible assumption | intro _ | (with_reducible first | apply keeps_bumpN | apply keeps_updPort | apply keeps_ite)); clear_value x) | try clear_value x)
    | lift_lets
    | (with_reducible first | apply keeps_pendClear | apply keeps_updBar | apply keeps_ite | apply keeps_foldl)

theorem keeps_barCfgWrite {z : State} (s : State) (w : Who) (b : Nat) (v : Word) (hk : Keeps z s) : Keeps z (barCfgWrite s w b v) := by
  unfold barCfgWrite
  repeat' first
    | with_reducible assumption
    | intro _
    | (with_reducible first | apply keeps_barDisable | apply keeps_barEnable | apply keeps_enWrite)

theorem keeps_execBarEnable {z : State} (w : Who) (b : Nat) (v : Word) (s : State) (hk : Keeps z s) : KeepsO z (execBarEnable w b v s) := by
  unfold execBarEnable
  repeat' first | with_reducible assumption | intro _ | (with_reducible first | apply keeps_barCfgWrite | apply keeps_guardW | apply keepsO)

theorem keeps_execBarDisable {z : State} (w : Who) (b : Nat) (v : Word) (s : State) (hk : Keeps z s) : KeepsO z (execBarDisable w b v s) :=
    by
  unfold execBarDisable
  repeat' first | with_reducible assumption | intro _ | (with_reducible first | apply keeps_barCfgWrite | apply keeps_guardW | apply keepsO)

theorem keeps_timingWrite {z : State} (s : State) (w : Who) (a : Nat) (v : Word) (hk : Keeps z s) : Keeps z (timingWrite s w a v) := by
  unfold timingWrite
  repeat' first
    | with_reducible assumption
    | (intro x; first | (have hx : Keeps z x := (by repeat' first | (with_reducible first | assumption | apply keeps_plainWrite)); clear_value x) | try clear_value x)
    | lift_lets
    | (with_reducible first | apply keeps_wErr | apply keeps_ite)

theorem keeps_voteWrite {z : State} (s : State) (w : Who) (b : Nat) (v : Word) (hk : Keeps z s) : Keeps z (voteWrite s w b v) := by
  unfold voteWrite
  repeat' first
    | with_reducible assumption
    | (intro x; first | (have hx : Keeps z x := (by repeat' first | (with_reducible first | assumption | apply keeps_plainWrite)); clear_value x) | try clear_value x)
    | lift_lets
    | (with_reducible first | apply keeps_wErr | apply keeps_ite)

theorem keeps_fusBivouacExit {z : State} (s : State) (ft : Nat) (hk : Keeps z s) : Keeps z (fusBivouacExit s ft) := by
  unfold fusBivouacExit
  repeat' first
    | with_reducible assumption
    | (intro x; try clear_value x)
    | lift_lets
    | (with_reducible first | apply keeps_resetSources | apply keeps_updBar | apply keeps_foldl)

theorem keeps_passGap {z : State} (s : State) (p : Nat) (hk : Keeps z s) : Keeps z (passGap s p) := by
  unfold passGap
  repeat' first | (with_reducible first | assumption | apply keeps_updPort)

theorem keeps_discardEvent {z : State} (s : State) (p : Nat) (e : WEvent) (t : List WEvent) (cnt : Nat) (gap : Bool) (hk : Keeps z s) :
    Keeps z (discardEvent s p e t cnt gap) := by
  unfold discardEvent
  repeat' first
    | with_reducible assumption
    | (intro x; first | (have hx : Keeps z x := (by repeat' first | (with_reducible first | assumption | apply keeps_bump | apply keeps_updPort)); clear_value x) | try clear_value x)
    | lift_lets
    | (with_reducible first | apply keeps_passGap | apply keeps_ite)

theorem keeps_portMark {z : State} (s : State) (p b : Nat) (hk : Keeps z s) : Keeps z (portMark s p b) := by
  unfold portMark
  repeat' first
    | with_reducible assumption
    | (intro x; first | (have hx : Keeps z x := (by repeat' first | with_reducible assumption | intro _ | (with_reducible first | apply keeps_sendMark | apply keeps_ite) | (with_reducible apply keeps_mk; split)); clear_value x) | try clear_value x)
    | lift_lets
    | (with_reducible first | apply keeps_sendCairn | apply keeps_foldl)

theorem keeps_releaseEvent {z : State} (s : State) (b p : Nat) (e : WEvent) (t : List WEvent) (r r' : Issued) (hk : Keeps z s) : Keeps z
    (releaseEvent s b p e t r r') := by
  unfold releaseEvent
  repeat' first
    | with_reducible assumption
    | (intro x; first | (have hx : Keeps z x := (by repeat' first | (with_reducible first | assumption | apply keeps_updPort)); clear_value x) | try clear_value x)
    | lift_lets
    | (with_reducible first | apply keeps_bumpPulse | apply keeps_discardEvent | apply keeps_sendWord | apply keeps_ite)
    | (with_reducible apply keeps_mk; with_reducible assumption)

theorem keeps_endStream {z : State} (s : State) (p : Nat) (hk : Keeps z s) : Keeps z (endStream s p) := by
  unfold endStream
  repeat' first
    | with_reducible assumption
    | (intro x; first | (have hx : Keeps z x := (by repeat' first | (with_reducible first | assumption | apply keeps_sendFinal | apply keeps_updPort)); clear_value x) | try clear_value x)
    | lift_lets
    | (with_reducible first | apply keeps_newSource | apply keeps_ite)

theorem keeps_execEventRelease {z : State} (p : Nat) (s0 : State) (hk : Keeps z s0) : KeepsO z (execEventRelease p s0) := by
  unfold execEventRelease
  repeat' first
    | with_reducible assumption
    | (intro x; first | (have hx : Keeps z x := (by repeat' first | with_reducible assumption | intro _ | (with_reducible first | apply keeps_endStream | apply keeps_ite)); clear_value x) | try clear_value x)
    | lift_lets
    | (with_reducible first | apply keeps_discardEvent | apply keeps_portMark | apply keeps_releaseEvent | apply keepsO_ite | apply keepsO)
    | split
    | dsimp only

theorem keeps_execPortWatermark {z : State} (p : Nat) (s : State) (hk : Keeps z s) : KeepsO z (execPortWatermark p s) := by
  unfold execPortWatermark
  repeat' first
    | with_reducible assumption
    | (intro x; first | (have hx : Keeps z x := (by repeat' first | (with_reducible first | assumption | apply keeps_portMark) | (with_reducible apply keeps_mk; split)); clear_value x) | try clear_value x)
    | lift_lets
    | (with_reducible first | apply keeps_endStream | apply keepsO_ite | apply keepsO)

theorem keeps_swapBank {z : State} (s : State) (p : Nat) (hk : Keeps z s) : Keeps z (swapBank s p) := by
  unfold swapBank
  repeat' first
    | with_reducible assumption
    | (intro x; first | (have hx : Keeps z x := (by repeat' first | (with_reducible first | assumption | apply keeps_setFld | apply keeps_wr)); clear_value x) | try clear_value x)
    | lift_lets
    | (with_reducible first | apply keeps_irq | apply keeps_wrN)

theorem keeps_noteSwap {z : State} (s : State) (p ft : Nat) (hk : Keeps z s) : Keeps z (noteSwap s p ft) := by
  unfold noteSwap
  repeat' first | (with_reducible apply keeps_mk; with_reducible assumption)

theorem keeps_stepRegVer {z : State} (s : State) (ft : Nat) (hk : Keeps z s) : Keeps z (stepRegVer s ft) := by
  unfold stepRegVer
  repeat' first
    | (intro x; first | (have hx : Keeps z x := (by repeat' first | (with_reducible first | assumption | apply keeps_bumpWrap)); clear_value x) | try clear_value x)
    | lift_lets
    | (with_reducible apply keeps_mk; with_reducible assumption)

theorem keeps_commitPorts {z : State} (s : State) (ps : List Nat) (hk : Keeps z s) : Keeps z (commitPorts s ps) := by
  unfold commitPorts
  repeat' first
    | with_reducible assumption
    | (intro x; first | (have hx : Keeps z x := (by repeat' first | with_reducible assumption | intro _ | (with_reducible first | apply keeps_insertReg | apply keeps_noteSwap | apply keeps_stepRegVer | apply keeps_swapBank | apply keeps_ite | apply keeps_foldl)); clear_value x) | try clear_value x)
    | lift_lets
    | (with_reducible first | apply keeps_noteSwap | apply keeps_setFlag | apply keeps_swapBank | apply keeps_ite | apply keeps_foldl)

theorem keeps_gridCtrlWrite {z : State} (s : State) (w : Who) (p : Nat) (v : Word) (hk : Keeps z s) : Keeps z (gridCtrlWrite s w p v) := by
  unfold gridCtrlWrite
  repeat' first
    | with_reducible assumption
    | (intro x; first | (have hx : Keeps z x := (by repeat' first | with_reducible assumption | intro _ | (with_reducible first | apply keeps_commitPorts | apply keeps_wErr | apply keeps_ite) | split); clear_value x) | try clear_value x)
    | lift_lets
    | with_reducible apply keeps_plainWrite

theorem keeps_execGridCommit {z : State} (w : Who) (p : Nat) (v : Word) (s : State) (hk : Keeps z s) : KeepsO z (execGridCommit w p v s) :=
    by
  unfold execGridCommit
  repeat' first
    | with_reducible assumption
    | intro _
    | (with_reducible first | apply keeps_gridCtrlWrite | apply keeps_guardW | apply keepsO)

theorem keeps_execGridPendClear {z : State} (p : Nat) (s : State) (hk : Keeps z s) : KeepsO z (execGridPendClear p s) := by
  unfold execGridPendClear
  repeat' first
    | with_reducible assumption
    | (intro x; try clear_value x)
    | lift_lets
    | (with_reducible first | apply keeps_pendClear | apply keepsO_ite | apply keepsO)
    | split

theorem keeps_rejectMeas {z : State} (s : State) (p : Nat) (hk : Keeps z s) : Keeps z (rejectMeas s p) := by
  unfold rejectMeas
  repeat' first | (with_reducible first | assumption | apply keeps_bump | apply keeps_irq | apply keeps_wrN)

theorem keeps_execMarkMeasurement {z : State} (p u v : Nat) (x y : Int) (tainted : Bool) (s : State) (hk : Keeps z s) : KeepsO z
    (execMarkMeasurement p u v x y tainted s) := by
  unfold execMarkMeasurement
  repeat' first
    | with_reducible assumption
    | (intro x; try clear_value x)
    | lift_lets
    | (with_reducible first | apply keeps_rejectMeas | apply keepsO_ite | apply keepsO)
    | (with_reducible apply keeps_mk; with_reducible assumption)

theorem keeps_takeOverlap {z : State} (s : State) (o : Nat × Int × Int × Bool) (hk : Keeps z s) : Keeps z (takeOverlap s o) := by
  unfold takeOverlap
  repeat' first
    | with_reducible assumption
    | (intro x; try clear_value x)
    | lift_lets
    | (with_reducible first | apply keeps_rejectMeas | apply keeps_ite)
    | (with_reducible apply keeps_mk; with_reducible assumption)

theorem keeps_writeGrid {z : State} (s : State) (p : Nat) (c : Nat → Int) (hk : Keeps z s) : Keeps z (writeGrid s p c) := by
  unfold writeGrid
  repeat' first | with_reducible assumption | (intro x; try clear_value x) | lift_lets | with_reducible apply keeps_tabWrite

theorem keeps_showCorr {z : State} (s : State) (p : Nat) (c : Nat → Int) (hk : Keeps z s) : Keeps z (showCorr s p c) := by
  unfold showCorr
  repeat' first | with_reducible assumption | (intro x; try clear_value x) | lift_lets | with_reducible apply keeps_wrN

theorem keeps_refinePort {z : State} (s : State) (meas : List (Nat × Option Nat × List Int × List Int)) (b p : Nat) (hk : Keeps z s) : Keeps
    z (refinePort s meas b p).1 := by
  unfold refinePort
  repeat' first
    | with_reducible assumption
    | (intro x; first | (have hx : Keeps z x := (by repeat' first | (with_reducible first | assumption | apply keeps_showCorr | apply keeps_writeGrid)); clear_value x) | try clear_value x)
    | lift_lets
    | (with_reducible first | apply keeps_addLog | apply keeps_irq | apply keeps_recErr | apply keeps_wrN)
    | split

theorem keeps_execRefinementCycle {z : State} (now : Nat) (ovl : List (Nat × Int × Int × Bool)) (s0 : State) (hk : Keeps z s0) : KeepsO z
    (execRefinementCycle now ovl s0) := by
  unfold execRefinementCycle
  repeat' first
    | with_reducible assumption
    | (intro x; first | (have hx : Keeps z x := (by repeat' first | with_reducible assumption | intro _ | (with_reducible first | apply keeps_advance | apply keeps_takeOverlap | apply keeps_foldl) | (with_reducible apply keeps_mk; with_reducible assumption)); clear_value x) | try clear_value x)
    | lift_lets
    | (with_reducible first | apply keeps_commitPorts | apply keeps_refinePort | apply keepsO_ite | apply keepsO)
    | split
    | (with_reducible apply keeps_mk; with_reducible apply keeps_foldl_fst)

theorem keeps_ovlWrite {z : State} (s : State) (w : Who) (n : Nat) (v : Word) (hk : Keeps z s) : Keeps z (ovlWrite s w n v) := by
  unfold ovlWrite
  repeat' first
    | with_reducible assumption
    | (intro x; try clear_value x)
    | lift_lets
    | (with_reducible first | apply keeps_plainWrite | apply keeps_wErr | apply keeps_ite)

theorem keeps_fusWrite {z : State} (s : State) (w : Who) (a : Nat) (v : Word) (hk : Keeps z s) : Keeps z (fusWrite s w a v) := by
  unfold fusWrite
  repeat' first
    | with_reducible assumption
    | (intro x; try clear_value x)
    | lift_lets
    | (with_reducible first | apply keeps_barCfgWrite | apply keeps_gridCtrlWrite | apply keeps_ovlWrite | apply keeps_plainWrite | apply keeps_staticWrite | apply keeps_timingWrite | apply keeps_voteWrite | apply keeps_ite)

theorem keeps_fusSrst {z : State} (s : State) (pg : Nat) (hk : Keeps z s) : Keeps z (fusSrst s pg) := by
  unfold fusSrst
  repeat' first
    | with_reducible assumption
    | (intro x; first | (have hx : Keeps z x := (by repeat' first | with_reducible assumption | intro _ | (with_reducible first | apply keeps_barDisable | apply keeps_ite)); clear_value x) | try clear_value x)
    | lift_lets
    | (with_reducible first | apply keeps_mapRegs | apply keeps_ite)
    | (with_reducible apply keeps_mk; with_reducible assumption)

theorem keeps_sendRecord {z : State} (src stamp : Nat) (w : Quad) (s : State) (r : Nat) (hk : Keeps z s) : Keeps z (sendRecord src stamp w s
    r) := by
  unfold sendRecord
  repeat' first | with_reducible assumption | intro _ | (with_reducible first | apply keeps_bump | apply keeps_sendWord | apply keeps_ite)

theorem keeps_serveSpike {z : State} (s : State) (w : FabWord) (hk : Keeps z s) : Keeps z (serveSpike s w) := by
  unfold serveSpike
  repeat' first
    | with_reducible assumption
    | (intro x; first | (have hx : Keeps z x := (by repeat' first | with_reducible assumption | intro _ | (with_reducible first | apply keeps_sendRecord | apply keeps_foldl)); clear_value x) | try clear_value x)
    | lift_lets
    | (with_reducible first | apply keeps_bump | apply keeps_sendWord | apply keeps_ite)
    | split

theorem keeps_sendFanMark {z : State} (s : State) (w : FabWord) (hk : Keeps z s) : Keeps z (sendFanMark s w) := by
  unfold sendFanMark
  repeat' first
    | with_reducible assumption
    | intro _
    | (with_reducible first | apply keeps_sendFinal | apply keeps_sendMark | apply keeps_ite)

theorem keeps_serveFan {z : State} (s : State) (w : FabWord) (hk : Keeps z s) : Keeps z (serveFan s w) := by
  unfold serveFan
  repeat' first
    | with_reducible assumption
    | intro _
    | (with_reducible first | apply keeps_sendFanMark | apply keeps_serveSpike | apply keeps_ite)

theorem keeps_drainMarks {z : State} (c : Nat) (y0 : Nat) (y1 : State) (hk : Keeps z y1) : Keeps z (drainMarks c y0 y1) := by
  induction y0 generalizing y1 with
  | zero => unfold drainMarks; exact hk
  | succ k ih =>
    unfold drainMarks
    repeat' first
      | with_reducible assumption
      | intro _
      | (with_reducible first | apply keeps_sendFanMark | apply keeps_setFanQ | apply ih | apply keeps_ite)
      | split

theorem keeps_drainFan {z : State} (s : State) (c : Nat) (hk : Keeps z s) : Keeps z (drainFan s c) := by
  unfold drainFan
  repeat' first
    | with_reducible assumption
    | intro _
    | (with_reducible first | apply keeps_serveFan | apply keeps_setFanQ | apply keeps_foldl)

theorem keeps_pushFan {z : State} (s : State) (c : Nat) (w : FabWord) (hk : Keeps z s) : Keeps z (pushFan s c w) := by
  unfold pushFan
  repeat' first | (with_reducible first | assumption | apply keeps_drainMarks | apply keeps_setFanQ)

theorem keeps_execSpikeFanout {z : State} (c : Nat) (s : State) (hk : Keeps z s) : KeepsO z (execSpikeFanout c s) := by
  unfold execSpikeFanout
  repeat' first
    | with_reducible assumption
    | intro _
    | (with_reducible first | apply keeps_drainMarks | apply keeps_serveFan | apply keeps_setFanQ | apply keepsO_ite | apply keepsO)
    | split

theorem keeps_rgnCtrlWrite {z : State} (s : State) (w : Who) (v : Word) (hk : Keeps z s) : Keeps z (rgnCtrlWrite s w v) := by
  unfold rgnCtrlWrite
  repeat' first
    | with_reducible assumption
    | (intro x; first | (have hx : Keeps z x := (by repeat' first | with_reducible assumption | intro _ | (with_reducible first | apply keeps_plainWrite | apply keeps_setRgnWord | apply keeps_wErr | apply keeps_ite | apply keeps_foldl) | split); clear_value x) | try clear_value x)
    | lift_lets
    | (with_reducible first | apply keeps_wr | apply keeps_ite | apply keeps_foldl)

theorem keeps_execFabRgnWr {z : State} (w : Who) (v : Word) (s : State) (hk : Keeps z s) : KeepsO z (execFabRgnWr w v s) := by
  unfold execFabRgnWr
  repeat' first
    | with_reducible assumption
    | intro _
    | (with_reducible first | apply keeps_guardW | apply keeps_rgnCtrlWrite | apply keepsO)

theorem keeps_execFabRgnRd {z : State} (w : Who) (v : Word) (s : State) (hk : Keeps z s) : KeepsO z (execFabRgnRd w v s) := by
  unfold execFabRgnRd
  repeat' first
    | with_reducible assumption
    | intro _
    | (with_reducible first | apply keeps_guardW | apply keeps_rgnCtrlWrite | apply keepsO)

theorem keeps_sbIrq {z : State} (s : State) (t k bit : Nat) (hk : Keeps z s) : Keeps z (sbIrq s t k bit) := by
  unfold sbIrq
  repeat' first | (with_reducible first | assumption | apply keeps_irq | apply keeps_wrN)

theorem keeps_applyWord {z : State} (s : State) (t k n : Nat) (w : FabWord) (hk : Keeps z s) : Keeps z (applyWord s t k n w) := by
  unfold applyWord
  repeat' first
    | with_reducible assumption
    | (intro x; try clear_value x)
    | lift_lets
    | (with_reducible first | apply keeps_bump | apply keeps_correct | apply keeps_setSlot | apply keeps_sramUe | apply keeps_sramWrite | apply keeps_ite)

theorem keeps_applyOne {z : State} (s : State) (t k : Nat) (hk : Keeps z s) : Keeps z (applyOne s t k) := by
  unfold applyOne
  repeat' first
    | with_reducible assumption
    | (intro x; try clear_value x)
    | lift_lets
    | (with_reducible first | apply keeps_applyWord | apply keeps_bump | apply keeps_sbIrq | apply keeps_setSlot | apply keeps_settle | apply keeps_ite)
    | split
    | dsimp only

theorem keeps_execSbWordApply {z : State} (t k : Nat) (s : State) (hk : Keeps z s) : KeepsO z (execSbWordApply t k s) := by
  unfold execSbWordApply
  repeat' first | with_reducible assumption | intro _ | (with_reducible first | apply keeps_applyOne | apply keepsO_ite | apply keepsO)

theorem keeps_closeWindow {z : State} (s : State) (t k : Nat) (hk : Keeps z s) : Keeps z (closeWindow s t k) := by
  unfold closeWindow
  repeat' first
    | with_reducible assumption
    | (intro x; first | (have hx : Keeps z x := (by repeat' first | (with_reducible first | assumption | apply keeps_setSlot)); clear_value x) | try clear_value x)
    | lift_lets
    | with_reducible apply keeps_sigAdd

theorem keeps_execSbWindowClose {z : State} (t k now : Nat) (s0 : State) (hk : Keeps z s0) : KeepsO z (execSbWindowClose t k now s0) := by
  unfold execSbWindowClose
  repeat' first
    | with_reducible assumption
    | (intro x; first | (have hx : Keeps z x := (by repeat' first | (with_reducible first | assumption | apply keeps_advance)); clear_value x) | try clear_value x)
    | lift_lets
    | (with_reducible first | apply keeps_closeWindow | apply keepsO_ite | apply keepsO)
    | split

theorem keeps_applyAll {z : State} (t k : Nat) (y0 : Nat) (y1 : State) (hk : Keeps z y1) : Keeps z (applyAll t k y0 y1) := by
  induction y0 generalizing y1 with
  | zero => unfold applyAll; exact hk
  | succ k ih =>
    unfold applyAll
    repeat' first | (with_reducible first | assumption | apply keeps_applyOne | apply ih)

theorem keeps_execSbCloseTimeout {z : State} (t k now : Nat) (s0 : State) (hk : Keeps z s0) : KeepsO z (execSbCloseTimeout t k now s0) := by
  unfold execSbCloseTimeout
  repeat' first
    | with_reducible assumption
    | (intro x; first | (have hx : Keeps z x := (by repeat' first | (with_reducible first | assumption | apply keeps_advance)); clear_value x) | try clear_value x)
    | lift_lets
    | (with_reducible first | apply keeps_applyAll | apply keeps_closeWindow | apply keepsO_ite | apply keepsO)
    | split

theorem keeps_copyPiece {z : State} (src dst : Nat) (s : State) (e : Nat × Nat) (hk : Keeps z s) : Keeps z (copyPiece src dst s e) := by
  unfold copyPiece
  repeat' first
    | with_reducible assumption
    | intro _
    | (with_reducible first | apply keeps_sramUe | apply keeps_sramWrite | apply keeps_ite)

theorem keeps_prepRow {z : State} (t k bank : Nat) (copy : Bool) (s : State) (row : Nat) (hk : Keeps z s) : Keeps z (prepRow t k bank copy s
    row) := by
  unfold prepRow
  repeat' first
    | with_reducible assumption
    | (intro x; first | (have hx : Keeps z x := (by repeat' first | (with_reducible first | assumption | apply keeps_correct)); clear_value x) | try clear_value x)
    | lift_lets
    | (with_reducible first | apply keeps_copyPiece | apply keeps_sramWrite | apply keeps_ite | apply keeps_foldl)

theorem keeps_execSbBankPrepare {z : State} (t k now : Nat) (s0 : State) (hk : Keeps z s0) : KeepsO z (execSbBankPrepare t k now s0) := by
  unfold execSbBankPrepare
  repeat' first
    | with_reducible assumption
    | (intro x; first | (have hx : Keeps z x := (by repeat' first | with_reducible assumption | intro _ | (with_reducible first | apply keeps_advance | apply keeps_prepRow | apply keeps_setSlot | apply keeps_foldl)); clear_value x) | try clear_value x)
    | lift_lets
    | (with_reducible first | apply keeps_bumpN | apply keeps_ite | apply keepsO_ite | apply keepsO)

theorem keeps_slotDrop {z : State} (t : Nat) (s : State) (k : Nat) (hk : Keeps z s) : Keeps z (slotDrop t s k) := by
  unfold slotDrop
  repeat' first
    | with_reducible assumption
    | (intro x; try clear_value x)
    | lift_lets
    | (with_reducible first | apply keeps_bumpN | apply keeps_purge | apply keeps_setSlot | apply keeps_ite)

theorem keeps_dropSlots {z : State} (s : State) (t : Nat) (hk : Keeps z s) : Keeps z (dropSlots s t) := by
  unfold dropSlots
  repeat' first | with_reducible assumption | intro _ | (with_reducible first | apply keeps_slotDrop | apply keeps_foldl)

theorem keeps_slotOff {z : State} (s : State) (t k : Nat) (hk : Keeps z s) : Keeps z (slotOff s t k) := by
  unfold slotOff
  repeat' first | (with_reducible first | assumption | apply keeps_setSlot | apply keeps_slotDrop)

theorem keeps_slotArm {z : State} (s : State) (t k : Nat) (hk : Keeps z s) : Keeps z (slotArm s t k) := by
  unfold slotArm
  repeat' first | (with_reducible first | assumption | apply keeps_newDest | apply keeps_setSlot)

theorem keeps_slotCfgWrite {z : State} (s : State) (w : Who) (t k : Nat) (v : Word) (hk : Keeps z s) : Keeps z (slotCfgWrite s w t k v) :=
    by
  unfold slotCfgWrite
  repeat' first
    | with_reducible assumption
    | intro _
    | (with_reducible first | apply keeps_enWrite | apply keeps_slotArm | apply keeps_slotOff)

theorem keeps_execSbSlotEnable {z : State} (w : Who) (t k : Nat) (v : Word) (s : State) (hk : Keeps z s) : KeepsO z (execSbSlotEnable w t k
    v s) := by
  unfold execSbSlotEnable
  repeat' first
    | with_reducible assumption
    | intro _
    | (with_reducible first | apply keeps_guardW | apply keeps_slotCfgWrite | apply keepsO)

theorem keeps_fabWrite {z : State} (s : State) (w : Who) (a : Nat) (v : Word) (hk : Keeps z s) : Keeps z (fabWrite s w a v) := by
  unfold fabWrite
  repeat' first
    | with_reducible assumption
    | (intro x; try clear_value x)
    | lift_lets
    | (with_reducible first | apply keeps_plainWrite | apply keeps_rgnCtrlWrite | apply keeps_slotCfgWrite | apply keeps_wErr | apply keeps_ite)

theorem keeps_fabSrst {z : State} (s : State) (pg : Nat) (hk : Keeps z s) : Keeps z (fabSrst s pg) := by
  unfold fabSrst
  repeat' first
    | with_reducible assumption
    | (intro x; try clear_value x)
    | lift_lets
    | (with_reducible first | apply keeps_slotOff | apply keeps_softRegs | apply keeps_ite | apply keeps_foldl)

end Sys2Proof.Laws
end

