-- ==== Sys2Proof/Laws/KeepsCompute.lean ====
section
/-!
SUPPORT. One lemma for each operation of the neuron cores and the tensor tiles: applied in a state reached from z, it answers one that is reached so (Laws/KeepsBase.lean).
-/
namespace Sys2Proof.Laws
open Sys2Proof Sys2Proof.Machine

theorem keeps_updNc {z : State} (s : State) (n : Nat) (f : NcSt → NcSt) (hk : Keeps z s) : Keeps z (updNc s n f) := by
  unfold updNc
  repeat' first | (with_reducible first | assumption | apply keeps_setNc)

theorem keeps_ncRead {z : State} (s : State) (n a len : Nat) (k : State → State) (hk : Keeps z s) (hf_k : ∀ (a0 : State), Keeps z a0 → Keeps
    z (k a0)) : Keeps z (ncRead s n a len k) := by
  unfold ncRead
  repeat' first
    | with_reducible assumption
    | intro _
    | (with_reducible first | apply keeps_correct | apply keeps_setUnitState | apply keeps_sramUe | apply hf_k | apply keeps_ite)

theorem keeps_ncOverrun {z : State} (s : State) (n which : Nat) (hk : Keeps z s) : Keeps z (ncOverrun s n which) := by
  unfold ncOverrun
  repeat' first
    | with_reducible assumption
    | (intro x; (have hx : Keeps z x := (by repeat' first | (with_reducible first | assumption | apply keeps_endJobs)); clear_value x))
    | lift_lets
    | (with_reducible first | apply keeps_irq | apply keeps_recErr)

theorem keeps_showHold {z : State} (s : State) (n : Nat) (hk : Keeps z s) : Keeps z (showHold s n) := by
  unfold showHold
  repeat' first | with_reducible assumption | (intro x; try clear_value x) | lift_lets | with_reducible apply keeps_setFld

theorem keeps_addTrace {z : State} (s : State) (n : Nat) (e : TraceEv) (hk : Keeps z s) : Keeps z (addTrace s n e) := by
  unfold addTrace
  repeat' first
    | with_reducible assumption
    | intro _
    | (with_reducible first | apply keeps_bump | apply keeps_ncOverrun | apply keeps_updNc | apply keeps_ite)

theorem keeps_synEvent {z : State} (n mult src neuron stamp : Nat) (s : State) (e : Nat × Nat) (hk : Keeps z s) : Keeps z (synEvent n mult
    src neuron stamp s e) := by
  unfold synEvent
  repeat' first
    | with_reducible assumption
    | (intro x; first | (have hx : Keeps z x := (by repeat' first | with_reducible assumption | intro _ | (with_reducible first | apply keeps_bump | apply keeps_sramWrite | apply keeps_updNc | apply keeps_ite)); clear_value x) | try clear_value x)
    | lift_lets
    | (with_reducible first | apply keeps_addTrace | apply keeps_bump | apply keeps_ncRead | apply keeps_ite)
    | split

theorem keeps_applyRow {z : State} (s : State) (n row len mult src neuron stamp : Nat) (hk : Keeps z s) : Keeps z (applyRow s n row len mult
    src neuron stamp) := by
  unfold applyRow
  repeat' first
    | with_reducible assumption
    | (intro x; try clear_value x)
    | lift_lets
    | (with_reducible first | apply keeps_bump | apply keeps_irq | apply keeps_ncRead | apply keeps_synEvent | apply keeps_ite | apply keeps_foldl)

theorem keeps_applyInput {z : State} (n : Nat) (s : State) (w : FabWord) (hk : Keeps z s) : Keeps z (applyInput n s w) := by
  unfold applyInput
  repeat' first
    | with_reducible assumption
    | (intro x; try clear_value x)
    | lift_lets
    | (with_reducible first | apply keeps_applyRow | apply keeps_bump | apply keeps_ncRead | apply keeps_ite)
    | split

theorem keeps_holdInput {z : State} (s : State) (n : Nat) (h : HeldIn) (hk : Keeps z s) : Keeps z (holdInput s n h) := by
  unfold holdInput
  repeat' first
    | with_reducible assumption
    | (intro x; try clear_value x)
    | lift_lets
    | (with_reducible first | apply keeps_bump | apply keeps_irq | apply keeps_ncOverrun | apply keeps_setNc | apply keeps_showHold | apply keeps_ite)

theorem keeps_lateInput {z : State} (s : State) (n eff : Nat) (hk : Keeps z s) : Keeps z (lateInput s n eff) := by
  unfold lateInput
  repeat' first
    | with_reducible assumption
    | (intro x; try clear_value x)
    | lift_lets
    | (with_reducible first | apply keeps_bump | apply keeps_bumpPulse | apply keeps_ite)

theorem keeps_placeInput {z : State} (s : State) (n : Nat) (w : FabWord) (hk : Keeps z s) : Keeps z (placeInput s n w) := by
  unfold placeInput
  repeat' first
    | with_reducible assumption
    | (intro x; try clear_value x)
    | lift_lets
    | (with_reducible first | apply keeps_applyInput | apply keeps_holdInput | apply keeps_lateInput | apply keeps_ite)

theorem keeps_execNcWordApply {z : State} (n : Nat) (s : State) (hk : Keeps z s) : KeepsO z (execNcWordApply n s) := by
  unfold execNcWordApply
  repeat' first
    | with_reducible assumption
    | (intro x; first | (have hx : Keeps z x := (by repeat' first | (with_reducible first | assumption | apply keeps_setNcIn | apply keeps_settle | apply keeps_updNc)); clear_value x) | try clear_value x)
    | lift_lets
    | (with_reducible first | apply keeps_placeInput | apply keeps_ite | apply keepsO_ite | apply keepsO)
    | split

theorem keeps_applyTrace {z : State} (n : Nat) (s : State) (e : TraceEv) (hk : Keeps z s) : Keeps z (applyTrace n s e) := by
  unfold applyTrace
  repeat' first
    | with_reducible assumption
    | (intro x; try clear_value x)
    | lift_lets
    | (with_reducible first | apply keeps_sramWrite | apply keeps_foldl)
    | split

theorem keeps_runSlot {z : State} (n : Nat) (s : State) (k c : Nat) (hk : Keeps z s) : Keeps z (runSlot n s k c).1 := by
  unfold runSlot
  repeat' first
    | with_reducible assumption
    | (intro x; first | (have hx : Keeps z x := (by repeat' first | with_reducible assumption | intro _ | (with_reducible first | apply keeps_bumpN | apply keeps_sramWrite | apply keeps_ite)); clear_value x) | try clear_value x)
    | lift_lets
    | split
    | (with_reducible apply keeps_mk; with_reducible assumption)

theorem keeps_spike {z : State} (n stamp : Nat) (s : State) (k m : Nat) (hk : Keeps z s) : Keeps z (spike n stamp s k m) := by
  unfold spike
  repeat' first | (with_reducible first | assumption | apply keeps_bump | apply keeps_pushFan)

theorem keeps_coreMark {z : State} (s : State) (n stamp : Nat) (final : Bool) (hk : Keeps z s) : Keeps z (coreMark s n stamp final) := by
  unfold coreMark
  repeat' first | (with_reducible first | assumption | apply keeps_pushFan)

theorem keeps_offerStep {z : State} (s : State) (n : Nat) (hk : Keeps z s) : Keeps z (offerStep s n) := by
  unfold offerStep
  repeat' first | with_reducible assumption | (intro x; try clear_value x) | lift_lets | with_reducible apply keeps_offer | split

theorem keeps_releaseHeldIn {z : State} (s : State) (n : Nat) (hk : Keeps z s) : Keeps z (releaseHeldIn s n) := by
  unfold releaseHeldIn
  repeat' first
    | with_reducible assumption
    | (intro x; first | (have hx : Keeps z x := (by repeat' first | (with_reducible first | assumption | apply keeps_setNc)); clear_value x) | try clear_value x)
    | lift_lets
    | (with_reducible first | apply keeps_placeInput | apply keeps_showHold | apply keeps_foldl)

theorem keeps_progStep {z : State} (s : State) (n : Nat) (hk : Keeps z s) : Keeps z (progStep s n) := by
  unfold progStep
  repeat' first | (with_reducible first | assumption | apply keeps_bumpWrap) | split

theorem keeps_closeStep {z : State} (s : State) (n : Nat) (dropped : Bool) (hk : Keeps z s) : Keeps z (closeStep s n dropped) := by
  unfold closeStep
  repeat' first
    | with_reducible assumption
    | (intro x; first | (have hx : Keeps z x := (by repeat' first | with_reducible assumption | intro _ | (with_reducible first | apply keeps_applyTrace | apply keeps_foldl)); clear_value x) | (have hx : Keeps z x.1 := (by repeat' first | (with_reducible first | assumption | apply keeps_runSlot)); clear_value x) | try clear_value x)
    | lift_lets
    | (with_reducible first | apply keeps_bump | apply keeps_coreMark | apply keeps_ncRead | apply keeps_offerStep | apply keeps_progStep | apply keeps_releaseHeldIn | apply keeps_setWide | apply keeps_showN | apply keeps_spike | apply keeps_sramWrite | apply keeps_srcEvent | apply keeps_updNc | apply keeps_updPwr | apply keeps_ite | apply keeps_foldl | apply keeps_foldl_fst)

theorem keeps_execNcStepClose {z : State} (n now : Nat) (s0 : State) (hk : Keeps z s0) : KeepsO z (execNcStepClose n now s0) := by
  unfold execNcStepClose
  repeat' first
    | with_reducible assumption
    | (intro x; first | (have hx : Keeps z x := (by repeat' first | (with_reducible first | assumption | apply keeps_advance)); clear_value x) | try clear_value x)
    | lift_lets
    | (with_reducible first | apply keeps_closeStep | apply keepsO_ite | apply keepsO)

theorem keeps_stretchLog {z : State} (s : State) (n old reason backlog : Nat) (hk : Keeps z s) : Keeps z (stretchLog s n old reason backlog)
    := by
  unfold stretchLog
  repeat' first | (with_reducible first | assumption | apply keeps_addLogData)

theorem keeps_stretch {z : State} (s : State) (n m backlog : Nat) (hk : Keeps z s) : Keeps z (stretch s n m backlog) := by
  unfold stretch
  repeat' first
    | with_reducible assumption
    | (intro x; first | (have hx : Keeps z x := (by repeat' first | (with_reducible first | assumption | apply keeps_bumpN | apply keeps_irq | apply keeps_stretchLog | apply keeps_updNc)); clear_value x) | try clear_value x)
    | lift_lets
    | (with_reducible first | apply keeps_releaseHeldIn | apply keeps_showN)

theorem keeps_takeInputs {z : State} (s : State) (n : Nat) (hk : Keeps z s) : Keeps z (takeInputs s n) := by
  unfold takeInputs
  repeat' first
    | with_reducible assumption
    | (intro x; first | (have hx : ∀ t a, Keeps z t → Keeps z (x t a) := (by repeat' first | with_reducible assumption | intro _ | (with_reducible first | apply keeps_placeInput | apply keeps_updNc | apply keeps_ite)); clear_value x) | try clear_value x)
    | lift_lets
    | (with_reducible first | apply keeps_setNcIn | apply keeps_settle | apply keeps_foldl)

theorem keeps_execNcDueTime {z : State} (n now : Nat) (s0 : State) (hk : Keeps z s0) : KeepsO z (execNcDueTime n now s0) := by
  unfold execNcDueTime
  repeat' first
    | with_reducible assumption
    | (intro x; first | (have hx : Keeps z x := (by repeat' first | (with_reducible first | assumption | apply keeps_advance | apply keeps_bump | apply keeps_irq | apply keeps_stretchLog | apply keeps_takeInputs)); clear_value x) | try clear_value x)
    | lift_lets
    | (with_reducible first | apply keeps_closeStep | apply keeps_srcEvent | apply keeps_stretch | apply keeps_takeInputs | apply keepsO_ite | apply keepsO)

theorem keeps_uopExec {z : State} (f : UopEnv → UopF → UopSt → UopSt) (n : Nat) (i : UopF) (s : State) (hk : Keeps z s) : KeepsO z (uopExec
    f n i s) := by
  unfold uopExec
  repeat' first
    | with_reducible assumption
    | (intro x; first | (have hx : Keeps z x := (by repeat' first | (with_reducible apply keeps_mk; with_reducible assumption)); clear_value x) | try clear_value x)
    | lift_lets
    | (with_reducible first | apply keeps_bumpN | apply keeps_ite | apply keepsO)

theorem keeps_execUopNop {z : State} (n : Nat) (i : UopF) (s : State) (hk : Keeps z s) : KeepsO z (execUopNop n i s) := by
  unfold execUopNop
  repeat' first | (with_reducible first | assumption | apply keeps_uopExec)

theorem keeps_execAdd {z : State} (n : Nat) (i : UopF) (s : State) (hk : Keeps z s) : KeepsO z (execAdd n i s) := by
  unfold execAdd
  repeat' first | (with_reducible first | assumption | apply keeps_uopExec)

theorem keeps_execSub {z : State} (n : Nat) (i : UopF) (s : State) (hk : Keeps z s) : KeepsO z (execSub n i s) := by
  unfold execSub
  repeat' first | (with_reducible first | assumption | apply keeps_uopExec)

theorem keeps_execMulc {z : State} (n : Nat) (i : UopF) (s : State) (hk : Keeps z s) : KeepsO z (execMulc n i s) := by
  unfold execMulc
  repeat' first | (with_reducible first | assumption | apply keeps_uopExec)

theorem keeps_execMac {z : State} (n : Nat) (i : UopF) (s : State) (hk : Keeps z s) : KeepsO z (execMac n i s) := by
  unfold execMac
  repeat' first | (with_reducible first | assumption | apply keeps_uopExec)

theorem keeps_execShr {z : State} (n : Nat) (i : UopF) (s : State) (hk : Keeps z s) : KeepsO z (execShr n i s) := by
  unfold execShr
  repeat' first | (with_reducible first | assumption | apply keeps_uopExec)

theorem keeps_execClamp {z : State} (n : Nat) (i : UopF) (s : State) (hk : Keeps z s) : KeepsO z (execClamp n i s) := by
  unfold execClamp
  repeat' first | (with_reducible first | assumption | apply keeps_uopExec)

theorem keeps_execDecay {z : State} (n : Nat) (i : UopF) (s : State) (hk : Keeps z s) : KeepsO z (execDecay n i s) := by
  unfold execDecay
  repeat' first | (with_reducible first | assumption | apply keeps_uopExec)

theorem keeps_execCmpth {z : State} (n : Nat) (i : UopF) (s : State) (hk : Keeps z s) : KeepsO z (execCmpth n i s) := by
  unfold execCmpth
  repeat' first | (with_reducible first | assumption | apply keeps_uopExec)

theorem keeps_execUopReset {z : State} (n : Nat) (i : UopF) (s : State) (hk : Keeps z s) : KeepsO z (execUopReset n i s) := by
  unfold execUopReset
  repeat' first | (with_reducible first | assumption | apply keeps_uopExec)

theorem keeps_execRefrac {z : State} (n : Nat) (i : UopF) (s : State) (hk : Keeps z s) : KeepsO z (execRefrac n i s) := by
  unfold execRefrac
  repeat' first | (with_reducible first | assumption | apply keeps_uopExec)

theorem keeps_execSelect {z : State} (n : Nat) (i : UopF) (s : State) (hk : Keeps z s) : KeepsO z (execSelect n i s) := by
  unfold execSelect
  repeat' first | (with_reducible first | assumption | apply keeps_uopExec)

theorem keeps_execSkip {z : State} (n : Nat) (i : UopF) (s : State) (hk : Keeps z s) : KeepsO z (execSkip n i s) := by
  unfold execSkip
  repeat' first | (with_reducible first | assumption | apply keeps_uopExec)

theorem keeps_ncEnable {z : State} (s : State) (n : Nat) (hk : Keeps z s) : Keeps z (ncEnable s n) := by
  unfold ncEnable
  repeat' first
    | (intro x; (have hx : Keeps z x := (by repeat' first | (with_reducible first | assumption | apply keeps_setNc | apply keeps_sramWrite | apply keeps_wrN)); clear_value x))
    | lift_lets
    | (with_reducible first | apply keeps_newDest | apply keeps_newSource | apply keeps_showHold)
    | (with_reducible apply keeps_mk; with_reducible assumption)

theorem keeps_openCore {z : State} (s : State) (n : Nat) (hk : Keeps z s) : Keeps z (openCore s n) := by
  unfold openCore
  generalize ncRefuse s n = o
  cases o with
  | none => exact keeps_ncEnable _ _ (keeps_setFlag _ _ _ _ hk)
  | some c => exact keeps_recErr _ _ _ _ hk

theorem keeps_dropFifo {z : State} (s : State) (n : Nat) (hk : Keeps z s) : Keeps z (dropFifo s n) := by
  unfold dropFifo
  repeat' first
    | with_reducible assumption
    | (intro x; try clear_value x)
    | lift_lets
    | (with_reducible first | apply keeps_bumpN | apply keeps_purge | apply keeps_setNcIn | apply keeps_ite)

theorem keeps_ncStop {z : State} (s : State) (n : Nat) (hk : Keeps z s) : Keeps z (ncStop s n) := by
  unfold ncStop
  repeat' first
    | with_reducible assumption
    | (intro x; (have hx : Keeps z x := (by repeat' first | with_reducible assumption | intro _ | (with_reducible first | apply keeps_coreMark | apply keeps_ite)); clear_value x))
    | lift_lets
    | (with_reducible first | apply keeps_dropFifo | apply keeps_setFld | apply keeps_setNc | apply keeps_showHold)

theorem keeps_ncStretchWrite {z : State} (s : State) (w : Who) (n : Nat) (v : Word) (hk : Keeps z s) : Keeps z (ncStretchWrite s w n v) :=
    by
  unfold ncStretchWrite
  repeat' first
    | with_reducible assumption
    | (intro x; try clear_value x)
    | lift_lets
    | (with_reducible first | apply keeps_plainWrite | apply keeps_wErr | apply keeps_ite)

theorem keeps_ncWrite {z : State} (s : State) (w : Who) (n a : Nat) (v : Word) (hk : Keeps z s) : Keeps z (ncWrite s w n a v) := by
  unfold ncWrite
  repeat' first
    | with_reducible assumption
    | (intro x; first | (have hx : Keeps z x := (by repeat' first | (with_reducible first | assumption | apply keeps_plainWrite)); clear_value x) | try clear_value x)
    | lift_lets
    | (with_reducible first | apply keeps_ncStretchWrite | apply keeps_plainWrite | apply keeps_wErr | apply keeps_ite)

theorem keeps_countCvt {z : State} (t : Nat) (s : State) (c : Cvt) (hk : Keeps z s) : Keeps z (countCvt t s c) := by
  unfold countCvt
  repeat' first | (with_reducible first | assumption | apply keeps_bumpPulse) | split

theorem keeps_countCvts {z : State} (t : Nat) (s : State) (cs : List Cvt) (hk : Keeps z s) : Keeps z (countCvts t s cs) := by
  unfold countCvts
  repeat' first | with_reducible assumption | intro _ | (with_reducible first | apply keeps_countCvt | apply keeps_foldl)

theorem keeps_Tens_store {z : State} (t : Tens) (tile : Nat) (v : Nat → Nat → Nat → FVal) (s : State) (hk : Keeps z s) : Keeps z (Tens.store
    t tile v s) := by
  unfold Tens.store
  repeat' first
    | with_reducible assumption
    | (intro x; first | (have hx : Keeps z x := (by repeat' first | with_reducible assumption | intro _ | (with_reducible first | apply keeps_sramWrite | apply keeps_foldl)); clear_value x) | try clear_value x)
    | lift_lets
    | (with_reducible first | apply keeps_countCvts | apply keeps_sramWrite | apply keeps_ite | apply keeps_foldl)

theorem keeps_Tens_storeComp {z : State} (t : Tens) (tile : Nat) (v : Nat → Nat → Nat → FVal) (s : State) (hk : Keeps z s) : Keeps z
    (Tens.storeComp t tile v s).1 := by
  unfold Tens.storeComp
  repeat' first
    | with_reducible assumption
    | (intro x; first | (have hx : Keeps z x := (by repeat' first | (with_reducible first | assumption | apply keeps_sramWrite)); clear_value x) | try clear_value x)
    | lift_lets
    | (with_reducible first | apply keeps_countCvts | apply keeps_foldl_fst)

theorem keeps_updTile {z : State} (s : State) (t : Nat) (f : TileSt → TileSt) (hk : Keeps z s) : Keeps z (updTile s t f) := by
  unfold updTile
  repeat' first | (with_reducible first | assumption | apply keeps_setTile)

theorem keeps_updQueue {z : State} (s : State) (t q : Nat) (f : QueueSt → QueueSt) (hk : Keeps z s) : Keeps z (updQueue s t q f) := by
  unfold updQueue
  repeat' first | (with_reducible first | assumption | apply keeps_updTile)

theorem keeps_noteHead {z : State} (s : State) (t q : Nat) (hk : Keeps z s) : Keeps z (noteHead s t q) := by
  unfold noteHead
  repeat' first | (with_reducible first | assumption | apply keeps_updQueue)

theorem keeps_countWait {z : State} (s : State) (t q : Nat) (hk : Keeps z s) : Keeps z (countWait s t q) := by
  unfold countWait
  repeat' first
    | with_reducible assumption
    | (intro x; first | (have hx : Keeps z x := (by repeat' first | (with_reducible first | assumption | apply keeps_bumpN)); clear_value x) | try clear_value x)
    | lift_lets
    | (with_reducible first | apply keeps_bumpN | apply keeps_ite)
    | split

theorem keeps_setTileStatus {z : State} (s : State) (t q st : Nat) (hk : Keeps z s) : Keeps z (setTileStatus s t q st) := by
  unfold setTileStatus
  repeat' first | (with_reducible first | assumption | apply keeps_updQueue)

theorem keeps_feedCmd {z : State} (s : State) (t q : Nat) (c : TileCmd) (hk : Keeps z s) : Keeps z (feedCmd s t q c) := by
  unfold feedCmd
  repeat' first
    | with_reducible assumption
    | intro _
    | (with_reducible first | apply keeps_accept | apply keeps_bump | apply keeps_noteHead | apply keeps_updQueue | apply keeps_ite)

theorem keeps_feedSplit {z : State} (s : State) (t : Nat) (y0 : List TileCmd) (hk : Keeps z s) : Keeps z (feedSplit s t y0) := by
  induction y0 generalizing s with
  | nil => unfold feedSplit; exact keeps_updTile _ _ _ hk
  | cons x r ih =>
    unfold feedSplit
    split
    · exact ih _ (keeps_feedCmd _ _ _ _ hk)
    · exact keeps_updTile _ _ _ hk

theorem keeps_feedWork {z : State} (s : State) (t q : Nat) (layer : Bool) (c : TileCmd) (hk : Keeps z s) : Keeps z (feedWork s t q layer c)
    := by
  unfold feedWork
  repeat' first
    | with_reducible assumption
    | intro _
    | (with_reducible first | apply keeps_feedCmd | apply keeps_feedSplit | apply keeps_ite)

theorem keeps_startHead {z : State} (s : State) (t q : Nat) (hk : Keeps z s) : Keeps z (startHead s t q) := by
  unfold startHead
  repeat' first
    | with_reducible assumption
    | (intro x; first | (have hx : Keeps z x := (by repeat' first | (with_reducible first | assumption | apply keeps_countWait | apply keeps_updQueue)); clear_value x) | try clear_value x)
    | lift_lets
    | (with_reducible first | apply keeps_noteHead | apply keeps_setTileStatus | apply keeps_wrN)
    | split
    | dsimp -zeta only
    | dsimp only

theorem keeps_execTileCmdStart {z : State} (t q : Nat) (feed : Option TileCmd) (layer : Bool) (now : Nat) (s0 : State) (hk : Keeps z s0) :
    KeepsO z (execTileCmdStart t q feed layer now s0) := by
  unfold execTileCmdStart
  repeat' first
    | with_reducible assumption
    | (intro x; first | (have hx : Keeps z x := (by repeat' first | with_reducible assumption | intro _ | (with_reducible first | apply keeps_advance | apply keeps_feedSplit | apply keeps_feedWork | apply keeps_ite) | (with_reducible apply keeps_mk; split)); clear_value x) | try clear_value x)
    | lift_lets
    | (with_reducible first | apply keeps_startHead | apply keepsO_ite | apply keepsO)

theorem keeps_progCmd {z : State} (s : State) (t : Nat) (hk : Keeps z s) : Keeps z (progCmd s t) := by
  unfold progCmd
  repeat' first | (with_reducible first | assumption | apply keeps_bumpWrap) | split

theorem keeps_signalCmd {z : State} (s : State) (t q : Nat) (c : TileCmd) (st : Nat) (hk : Keeps z s) : Keeps z (signalCmd s t q c st) := by
  unfold signalCmd
  repeat' first
    | with_reducible assumption
    | (intro x; try clear_value x)
    | lift_lets
    | (with_reducible first | apply keeps_bump | apply keeps_sigAdd | apply keeps_sigFault | apply keeps_ite)
    | split
    | dsimp -zeta only
    | dsimp only

theorem keeps_windowDone {z : State} (s : State) (t st : Nat) (hk : Keeps z s) : Keeps z (windowDone s t st) := by
  unfold windowDone
  repeat' first
    | with_reducible assumption
    | (intro x; first | (have hx : Keeps z x := (by repeat' first | (with_reducible first | assumption | apply keeps_wrN)); clear_value x) | try clear_value x)
    | lift_lets
    | (with_reducible first | apply keeps_bump | apply keeps_ite)

theorem keeps_finishCmd {z : State} (s : State) (t q : Nat) (c : TileCmd) (st : Nat) (hk : Keeps z s) : Keeps z (finishCmd s t q c st) := by
  unfold finishCmd
  repeat' first
    | with_reducible assumption
    | (intro x; (have hx : Keeps z x := (by repeat' first | (with_reducible first | assumption | apply keeps_bump | apply keeps_unaccept | apply keeps_windowDone) | (with_reducible apply keeps_mk; split)); clear_value x))
    | lift_lets
    | (with_reducible first | apply keeps_bump | apply keeps_progCmd | apply keeps_signalCmd)

theorem keeps_popHead {z : State} (s : State) (t q : Nat) (hk : Keeps z s) : Keeps z (popHead s t q) := by
  unfold popHead
  repeat' first | (with_reducible first | assumption | apply keeps_noteHead | apply keeps_updQueue)

theorem keeps_lateReply {z : State} (s : State) (u kind : Nat) (hk : Keeps z s) : Keeps z (lateReply s u kind) := by
  unfold lateReply
  repeat' first
    | with_reducible assumption
    | (intro x; first | (have hx : Keeps z x := (by repeat' first | (with_reducible first | assumption | apply keeps_bumpPulse) | (with_reducible apply keeps_mk; with_reducible assumption)); clear_value x) | try clear_value x)
    | lift_lets
    | (with_reducible first | apply keeps_ancCount | apply keeps_irq | apply keeps_ite)
    | split

theorem keeps_execTileCmdComplete {z : State} (t q : Nat) (late : Bool) (now : Nat) (s0 : State) (hk : Keeps z s0) : KeepsO z
    (execTileCmdComplete t q late now s0) := by
  unfold execTileCmdComplete
  repeat' first
    | with_reducible assumption
    | (intro x; first | (have hx : Keeps z x := (by repeat' first | (with_reducible first | assumption | apply keeps_advance)); clear_value x) | try clear_value x)
    | lift_lets
    | (with_reducible first | apply keeps_finishCmd | apply keeps_lateReply | apply keeps_popHead | apply keepsO_ite | apply keepsO)
    | split

theorem keeps_withReads {z : State} (s : State) (t q : Nat) (l : List (Nat × Nat)) (k : State → State) (hk : Keeps z s) (hf_k : ∀ (a0 :
    State), Keeps z a0 → Keeps z (k a0)) : Keeps z (withReads s t q l k) := by
  unfold withReads
  repeat' first
    | (with_reducible first | assumption | apply keeps_correct | apply keeps_setTileStatus | apply keeps_sramUe | apply hf_k)
    | split

theorem keeps_bumpFree {z : State} (s : State) (a : Nat) (hk : Keeps z s) : Keeps z (bumpFree s a) := by
  unfold bumpFree
  repeat' first | with_reducible assumption | lift_lets | (with_reducible first | apply keeps_bumpN | apply keeps_drawNat)

theorem keeps_bumpFreeTo {z : State} (s : State) (a n : Nat) (hk : Keeps z s) : Keeps z (bumpFreeTo s a n) := by
  unfold bumpFreeTo
  repeat' first | with_reducible assumption | lift_lets | (with_reducible first | apply keeps_bumpN | apply keeps_drawNat)

theorem keeps_tileClear {z : State} (s : State) (t : Nat) (hk : Keeps z s) : Keeps z (tileClear s t) := by
  unfold tileClear
  repeat' first
    | with_reducible assumption
    | (intro x; (have hx : Keeps z x := (by repeat' first | (with_reducible apply keeps_mk; with_reducible assumption)); clear_value x))
    | lift_lets
    | with_reducible apply keeps_updTile

theorem keeps_Win_leaveArray {z : State} (k : Win) (kk base t : Nat) (acc : Nat → Nat → Nat → Nat) (s : State) (hk : Keeps z s) : Keeps z
    (Win.leaveArray k kk base t acc s) := by
  unfold Win.leaveArray
  repeat' first
    | with_reducible assumption
    | (intro x; first | (have hx : Keeps z x := (by repeat' first | with_reducible assumption | intro _ | with_reducible apply keeps_ite | split | with_reducible apply_assumption -exfalso -symm); clear_value x) | (have hx : ∀ t a, Keeps z t → Keeps z (x t a) := (by repeat' first | with_reducible assumption | intro _ | with_reducible apply keeps_updTile | split | (with_reducible apply keeps_mk; split) | dsimp only [x]); clear_value x) | try clear_value x)
    | lift_lets
    | with_reducible apply keeps_updTile

theorem keeps_Win_put {z : State} (k : Win) (t base : Nat) (v : Nat → Nat → Nat → FVal) (s : State) (hk : Keeps z s) : Keeps z (Win.put k t
    base v s) := by
  unfold Win.put
  repeat' first
    | with_reducible assumption
    | (intro x; try clear_value x)
    | lift_lets
    | (with_reducible first | apply keeps_Tens_store | apply keeps_Tens_storeComp | apply keeps_wrN | apply keeps_ite)

theorem keeps_Win_offerPair {z : State} (k : Win) (s0 : State) (t seq kk base : Nat) (p : Nat × Nat) (cb : List Nat) (s : State) (hk : Keeps
    z s) : Keeps z (Win.offerPair k s0 t seq kk base p cb s) := by
  unfold Win.offerPair
  repeat' first
    | with_reducible assumption
    | (intro x; first | (have hx : Keeps z x := (by repeat' first | (with_reducible first | assumption | apply keeps_setTile)); clear_value x) | try clear_value x)
    | lift_lets
    | (with_reducible first | apply keeps_offer | apply keeps_ite)

theorem keeps_Win_runConv {z : State} (k : Win) (t seq kk base : Nat) (s : State) (hk : Keeps z s) : Keeps z (Win.runConv k t seq kk base s)
    := by
  unfold Win.runConv
  repeat' first
    | with_reducible assumption
    | (intro x; first | (have hx : Keeps z x := (by repeat' first | with_reducible assumption | intro _ | (with_reducible first | apply keeps_Win_leaveArray | apply keeps_Win_offerPair | apply keeps_bumpFree | apply keeps_bumpFreeTo | apply keeps_bumpN | apply keeps_bumpWide | apply keeps_countCvts | apply keeps_ite | apply keeps_foldl)); clear_value x) | try clear_value x)
    | lift_lets
    | (with_reducible first | apply keeps_Win_put | apply keeps_sramWrite | apply keeps_ite | apply keeps_foldl)

theorem keeps_windowRun {z : State} (s : State) (t q op lo hi : Nat) (spans : Win → List (Nat × Nat)) (run : Win → Nat → State → State) (hk
    : Keeps z s) (hf_run : ∀ (a0 : Win) (a1 : Nat) (a2 : State), Keeps z a2 → Keeps z (run a0 a1 a2)) : Keeps z (windowRun s t q op lo hi
    spans run) := by
  unfold windowRun
  repeat' first
    | with_reducible assumption
    | (intro x; first | (have hx : Keeps z x := (by repeat' first | (with_reducible first | assumption | apply keeps_wrN)); clear_value x) | try clear_value x)
    | lift_lets
    | (with_reducible first | apply keeps_setTileStatus | apply keeps_withReads | apply hf_run | apply keeps_ite)
    | split

theorem keeps_execConv {z : State} (t lo hi : Nat) (s : State) (hk : Keeps z s) : KeepsO z (execConv t lo hi s) := by
  unfold execConv
  repeat' first
    | with_reducible assumption
    | (intro x; try clear_value x)
    | lift_lets
    | (with_reducible first | apply keeps_Win_runConv | apply keeps_windowRun | apply keepsO)

theorem keeps_Win_runPool {z : State} (k : Win) (t base : Nat) (cs : List Cvt) (f : List (FVal × Bool) → FVal) (s : State) (hk : Keeps z s)
    : Keeps z (Win.runPool k t base cs f s) := by
  unfold Win.runPool
  repeat' first
    | with_reducible assumption
    | (intro x; (have hx : Keeps z x := (by repeat' first | (with_reducible first | assumption | apply keeps_bumpN | apply keeps_countCvts)); clear_value x))
    | lift_lets
    | (with_reducible first | apply keeps_Win_put | apply keeps_bumpFree)

theorem keeps_execPoolMax {z : State} (t lo hi : Nat) (s : State) (hk : Keeps z s) : KeepsO z (execPoolMax t lo hi s) := by
  unfold execPoolMax
  repeat' first
    | with_reducible assumption
    | (intro x; try clear_value x)
    | lift_lets
    | (with_reducible first | apply keeps_Win_runPool | apply keeps_windowRun | apply keepsO)

theorem keeps_execPoolAvg {z : State} (t lo hi : Nat) (s : State) (hk : Keeps z s) : KeepsO z (execPoolAvg t lo hi s) := by
  unfold execPoolAvg
  repeat' first
    | with_reducible assumption
    | (intro x; try clear_value x)
    | lift_lets
    | (with_reducible first | apply keeps_Win_runPool | apply keeps_windowRun | apply keepsO)

theorem keeps_Win_runUp {z : State} (k : Win) (t base : Nat) (s : State) (hk : Keeps z s) : Keeps z (Win.runUp k t base s) := by
  unfold Win.runUp
  repeat' first
    | with_reducible assumption
    | (intro x; (have hx : Keeps z x := (by repeat' first | with_reducible assumption | intro _ | (with_reducible first | apply keeps_countCvts | apply keeps_ite)); clear_value x))
    | lift_lets
    | (with_reducible first | apply keeps_Win_put | apply keeps_bumpFree)

theorem keeps_execUpNearest {z : State} (t lo hi : Nat) (s : State) (hk : Keeps z s) : KeepsO z (execUpNearest t lo hi s) := by
  unfold execUpNearest
  repeat' first
    | with_reducible assumption
    | (intro x; try clear_value x)
    | lift_lets
    | (with_reducible first | apply keeps_Win_runUp | apply keeps_windowRun | apply keepsO)

theorem keeps_execUpBilinear {z : State} (t lo hi : Nat) (s : State) (hk : Keeps z s) : KeepsO z (execUpBilinear t lo hi s) := by
  unfold execUpBilinear
  repeat' first
    | with_reducible assumption
    | (intro x; try clear_value x)
    | lift_lets
    | (with_reducible first | apply keeps_Win_runUp | apply keeps_windowRun | apply keepsO)

theorem keeps_vecRun {z : State} (s : State) (t op n : Nat) (extra : VecCmd → Nat → List (Nat × Nat)) (outT : VecCmd → Nat → Tens) (f :
    VecCmd → Nat → State → Nat → Nat → FVal) (hk : Keeps z s) : Keeps z (vecRun s t op n extra outT f) := by
  unfold vecRun
  repeat' first
    | with_reducible assumption
    | (intro x; first | (have hx : Keeps z x := (by repeat' first | (with_reducible first | assumption | apply keeps_countCvts)); clear_value x) | try clear_value x)
    | lift_lets
    | (with_reducible first | apply keeps_Tens_store | apply keeps_bumpFree | apply keeps_setTileStatus | apply keeps_withReads | apply keeps_ite)
    | split

theorem keeps_elemwise {z : State} (s : State) (t op n : Nat) (fi : List Int → Int) (ff : List FVal → FVal) (hk : Keeps z s) : Keeps z
    (elemwise s t op n fi ff) := by
  unfold elemwise
  repeat' first | with_reducible assumption | lift_lets | with_reducible apply keeps_vecRun

theorem keeps_execVuAdd {z : State} (t : Nat) (s : State) (hk : Keeps z s) : KeepsO z (execVuAdd t s) := by
  unfold execVuAdd
  repeat' first | (with_reducible first | assumption | apply keeps_elemwise | apply keepsO)

theorem keeps_execVuSub {z : State} (t : Nat) (s : State) (hk : Keeps z s) : KeepsO z (execVuSub t s) := by
  unfold execVuSub
  repeat' first | (with_reducible first | assumption | apply keeps_elemwise | apply keepsO)

theorem keeps_execVuMul {z : State} (t : Nat) (s : State) (hk : Keeps z s) : KeepsO z (execVuMul t s) := by
  unfold execVuMul
  repeat' first | (with_reducible first | assumption | apply keeps_elemwise | apply keepsO)

theorem keeps_execVuFma {z : State} (t : Nat) (s : State) (hk : Keeps z s) : KeepsO z (execVuFma t s) := by
  unfold execVuFma
  repeat' first | with_reducible assumption | lift_lets | (with_reducible first | apply keeps_vecRun | apply keepsO)

theorem keeps_execVuMin {z : State} (t : Nat) (s : State) (hk : Keeps z s) : KeepsO z (execVuMin t s) := by
  unfold execVuMin
  repeat' first | (with_reducible first | assumption | apply keeps_elemwise | apply keepsO)

theorem keeps_execVuMax {z : State} (t : Nat) (s : State) (hk : Keeps z s) : KeepsO z (execVuMax t s) := by
  unfold execVuMax
  repeat' first | (with_reducible first | assumption | apply keeps_elemwise | apply keepsO)

theorem keeps_execVuAbs {z : State} (t : Nat) (s : State) (hk : Keeps z s) : KeepsO z (execVuAbs t s) := by
  unfold execVuAbs
  repeat' first | (with_reducible first | assumption | apply keeps_elemwise | apply keepsO)

theorem keeps_execVuNeg {z : State} (t : Nat) (s : State) (hk : Keeps z s) : KeepsO z (execVuNeg t s) := by
  unfold execVuNeg
  repeat' first | (with_reducible first | assumption | apply keeps_elemwise | apply keepsO)

theorem keeps_execVuCmp {z : State} (t : Nat) (s : State) (hk : Keeps z s) : KeepsO z (execVuCmp t s) := by
  unfold execVuCmp
  repeat' first | with_reducible assumption | lift_lets | (with_reducible first | apply keeps_vecRun | apply keepsO)

theorem keeps_execVuSelect {z : State} (t : Nat) (s : State) (hk : Keeps z s) : KeepsO z (execVuSelect t s) := by
  unfold execVuSelect
  repeat' first | with_reducible assumption | lift_lets | (with_reducible first | apply keeps_vecRun | apply keepsO)

theorem keeps_execVuRelu {z : State} (t : Nat) (s : State) (hk : Keeps z s) : KeepsO z (execVuRelu t s) := by
  unfold execVuRelu
  repeat' first | (with_reducible first | assumption | apply keeps_elemwise | apply keepsO)

theorem keeps_execVuLeaky {z : State} (t : Nat) (s : State) (hk : Keeps z s) : KeepsO z (execVuLeaky t s) := by
  unfold execVuLeaky
  repeat' first | (with_reducible first | assumption | apply keeps_vecRun | apply keepsO)

theorem keeps_execVuClamp {z : State} (t : Nat) (s : State) (hk : Keeps z s) : KeepsO z (execVuClamp t s) := by
  unfold execVuClamp
  repeat' first | (with_reducible first | assumption | apply keeps_vecRun | apply keepsO)

theorem keeps_execLutfn {z : State} (t : Nat) (s : State) (hk : Keeps z s) : KeepsO z (execLutfn t s) := by
  unfold execLutfn
  repeat' first | (with_reducible first | assumption | apply keeps_vecRun | apply keepsO)

theorem keeps_execCvt {z : State} (t : Nat) (s : State) (hk : Keeps z s) : KeepsO z (execCvt t s) := by
  unfold execCvt
  repeat' first | (with_reducible first | assumption | apply keeps_vecRun | apply keepsO)

theorem keeps_execRequant {z : State} (t : Nat) (s : State) (hk : Keeps z s) : KeepsO z (execRequant t s) := by
  unfold execRequant
  repeat' first | with_reducible assumption | lift_lets | (with_reducible first | apply keeps_vecRun | apply keepsO)

theorem keeps_reduce {z : State} (s : State) (t op : Nat) (fi : Int → Int → Int) (ff : FVal → FVal → FVal) (hk : Keeps z s) : Keeps z
    (reduce s t op fi ff) := by
  unfold reduce
  repeat' first | with_reducible assumption | lift_lets | with_reducible apply keeps_vecRun

theorem keeps_execVuSum {z : State} (t : Nat) (s : State) (hk : Keeps z s) : KeepsO z (execVuSum t s) := by
  unfold execVuSum
  repeat' first | (with_reducible first | assumption | apply keeps_reduce | apply keepsO)

theorem keeps_execVuReduceMax {z : State} (t : Nat) (s : State) (hk : Keeps z s) : KeepsO z (execVuReduceMax t s) := by
  unfold execVuReduceMax
  repeat' first | (with_reducible first | assumption | apply keeps_reduce | apply keepsO)

theorem keeps_execVuReduceMin {z : State} (t : Nat) (s : State) (hk : Keeps z s) : KeepsO z (execVuReduceMin t s) := by
  unfold execVuReduceMin
  repeat' first | (with_reducible first | assumption | apply keeps_reduce | apply keepsO)

theorem keeps_execArgmax {z : State} (t : Nat) (s : State) (hk : Keeps z s) : KeepsO z (execArgmax t s) := by
  unfold execArgmax
  repeat' first | with_reducible assumption | lift_lets | (with_reducible first | apply keeps_vecRun | apply keepsO)

theorem keeps_execStashTransfer {z : State} (t : Nat) (s : State) (hk : Keeps z s) : KeepsO z (execStashTransfer t s) := by
  unfold execStashTransfer
  repeat' first
    | with_reducible assumption
    | intro _
    | (with_reducible first | apply keeps_noteHead | apply keeps_setTileStatus | apply keeps_updTile | apply keepsO_ite | apply keepsO)
    | split

theorem keeps_writeEnd {z : State} (s : State) (e : StashEnd) (a : Nat) (bs : List Byte) (hk : Keeps z s) : Keeps z (writeEnd s e a bs) :=
    by
  unfold writeEnd
  repeat' first
    | with_reducible assumption
    | intro _
    | (with_reducible first | apply keeps_memWrite | apply keeps_sramWrite | apply keeps_ite)

theorem keeps_moveRow {z : State} (x : StashXfer) (s0 s : State) (i : Nat) (hk : Keeps z s) : Keeps z (moveRow x s0 s i) := by
  unfold moveRow
  repeat' first | (with_reducible first | assumption | apply keeps_writeEnd)

theorem keeps_poisonRow {z : State} (x : StashXfer) (s0 s : State) (i : Nat) (hk : Keeps z s) : Keeps z (poisonRow x s0 s i) := by
  unfold poisonRow
  repeat' first | (with_reducible first | assumption | apply keeps_poisonWords)

theorem keeps_moveAll {z : State} (s : State) (t : Nat) (x : StashXfer) (hk : Keeps z s) : Keeps z (moveAll s t x) := by
  unfold moveAll
  repeat' first
    | with_reducible assumption
    | (intro x; (have hx : Keeps z x := (by repeat' first | with_reducible assumption | intro _ | (with_reducible first | apply keeps_moveRow | apply keeps_poisonRow | apply keeps_ite | apply keeps_foldl)); clear_value x))
    | lift_lets
    | with_reducible apply keeps_writeEnd
    | split

theorem keeps_finishStash {z : State} (s : State) (t : Nat) (c : TileCmd) (x : StashXfer) (st : Nat) (hk : Keeps z s) : Keeps z (finishStash
    s t c x st) := by
  unfold finishStash
  repeat' first
    | with_reducible assumption
    | (intro x; (have hx : Keeps z x := (by repeat' first | (with_reducible first | assumption | apply keeps_updTile)); clear_value x))
    | lift_lets
    | (with_reducible first | apply keeps_bumpN | apply keeps_finishCmd)

theorem keeps_execStashDone {z : State} (t : Nat) (late : Bool) (now : Nat) (s0 : State) (hk : Keeps z s0) : KeepsO z (execStashDone t late
    now s0) := by
  unfold execStashDone
  repeat' first
    | with_reducible assumption
    | (intro x; first | (have hx : Keeps z x := (by repeat' first | with_reducible assumption | intro _ | (with_reducible first | apply keeps_advance | apply keeps_bump | apply keeps_correct | apply keeps_irq | apply keeps_memUeLog | apply keeps_moveAll | apply keeps_ite | apply keeps_foldl)); clear_value x) | try clear_value x)
    | lift_lets
    | (with_reducible first | apply keeps_finishStash | apply keeps_lateReply | apply keeps_sramUe | apply keepsO_ite | apply keepsO)
    | split

theorem keeps_upset {z : State} (s : State) (w : Nat) (hk : Keeps z s) : Keeps z (upset s w) := by
  unfold upset
  repeat' first
    | with_reducible assumption
    | intro _
    | with_reducible apply keeps_ite
    | (with_reducible apply keeps_mk; with_reducible assumption)

theorem keeps_execSramScrub {z : State} (c : Nat) (before after : List Nat) (now : Nat) (s0 : State) (hk : Keeps z s0) : KeepsO z
    (execSramScrub c before after now s0) := by
  unfold execSramScrub
  repeat' first
    | with_reducible assumption
    | (intro x; first | (have hx : Keeps z x := (by repeat' first | with_reducible assumption | intro _ | (with_reducible first | apply keeps_advance | apply keeps_correctWord | apply keeps_sramUe | apply keeps_upset | apply keeps_foldl) | (with_reducible apply keeps_mk; with_reducible assumption)); clear_value x) | try clear_value x)
    | lift_lets
    | (with_reducible first | apply keeps_upset | apply keepsO_ite | apply keepsO | apply keeps_foldl)

theorem keeps_retain {z : State} (s0 : State) (u : Nat) (req : Bool) (hk : Keeps z s0) : Keeps z (retain s0 u req) := by
  unfold retain
  repeat' first
    | with_reducible assumption
    | (intro x; first | (have hx : Keeps z x := (by repeat' first | (with_reducible first | assumption | apply keeps_wrN)); clear_value x) | try clear_value x)
    | lift_lets
    | (with_reducible first | apply keeps_setTile | apply keeps_sramLose | apply keeps_ite)

theorem keeps_execRetentionVerify {z : State} (u : Nat) (flips : List (Nat × Nat)) (s : State) (hk : Keeps z s) : KeepsO z
    (execRetentionVerify u flips s) := by
  unfold execRetentionVerify
  have hf : ∀ l : List (Nat × Nat), Keeps z (l.foldl (fun s e =>
      { s with sram := tset byte0 s.sram e.1 (tget byte0 s.sram e.1 ^^^ BitVec.ofNat 8 e.2) }) s) := by
    intro l
    refine keeps_foldl (fun t e h => ?_) l s hk
    exact keeps_wf h rfl rfl id (twf_tset _ _) id id id id
  dsimp only
  refine keepsO_ite (fun _ => keepsO hk) (fun _ => ?_)
  · have h1 := hf (flips.filter (fun e => decide (sramUnit e.1 = u)))
    revert h1
    generalize (flips.filter (fun e => decide (sramUnit e.1 = u))).foldl (fun s e =>
      { s with sram := tset byte0 s.sram e.1 (tget byte0 s.sram e.1 ^^^ BitVec.ofNat 8 e.2) }) s = s1
    intro h1
    apply keepsO
    with_reducible apply keeps_ite
    · intro _; with_reducible first | apply keeps_wrN; apply keeps_setTile; exact h1
    · intro _; with_reducible first | apply keeps_irq; apply keeps_wrN; apply keeps_setTile; exact h1

theorem keeps_execTileSleep {z : State} (t : Nat) (sleep : Bool) (s : State) (hk : Keeps z s) : KeepsO z (execTileSleep t sleep s) := by
  unfold execTileSleep
  repeat' first
    | with_reducible assumption
    | (intro x; first | (have hx : Keeps z x := (by repeat' first | (with_reducible first | assumption | apply keeps_retain | apply keeps_setAwaiting | apply keeps_updTile)); clear_value x) | try clear_value x)
    | lift_lets
    | (with_reducible first | apply keeps_advGen | apply keeps_setUnitState | apply keeps_updTile | apply keepsO_ite | apply keepsO)

end Sys2Proof.Laws
end

