-- ==== Sys2Proof/Laws/KeepsHost.lean ====
section
/-!
SUPPORT. One lemma for each operation of modes, the ladder, the host interface, measurements and the binder: applied in a state reached from z, it answers one that is reached so (Laws/KeepsBase.lean).
-/
namespace Sys2Proof.Laws
open Sys2Proof Sys2Proof.Machine

theorem keeps_refuseMode {z : State} (s : State) (reason : Nat) (hk : Keeps z s) : Keeps z (refuseMode s reason) := by
  unfold refuseMode
  repeat' first | (with_reducible first | assumption | apply keeps_addLog | apply keeps_retarget | apply keeps_setFlag | apply keeps_setFld)

theorem keeps_takeRequest {z : State} (s : State) (m : Nat) (hk : Keeps z s) : Keeps z (takeRequest s m) := by
  unfold takeRequest
  repeat' first
    | with_reducible assumption
    | (intro x; (have hx : Keeps z x := (by repeat' first | with_reducible assumption | intro _ | (with_reducible first | apply keeps_startWatch | apply keeps_ite)); clear_value x))
    | lift_lets
    | (with_reducible first | apply keeps_refuseMode | apply keeps_retarget | apply keeps_setFlag | apply keeps_setFld)
    | split

theorem keeps_modeReq {z : State} (s : State) (w : Who) (v : Word) (hk : Keeps z s) : Keeps z (modeReq s w v) := by
  unfold modeReq
  repeat' first
    | with_reducible assumption
    | (intro x; first | (have hx : Keeps z x := (by repeat' first | (with_reducible first | assumption | apply keeps_bump | apply keeps_setFld)); clear_value x) | try clear_value x)
    | lift_lets
    | (with_reducible first | apply keeps_retarget | apply keeps_setFlag | apply keeps_takeRequest | apply keeps_wErr | apply keeps_ite)

theorem keeps_execModeReq {z : State} (w : Who) (v : Word) (s : State) (hk : Keeps z s) : KeepsO z (execModeReq w v s) := by
  unfold execModeReq
  repeat' first | with_reducible assumption | intro _ | (with_reducible first | apply keeps_guardW | apply keeps_modeReq | apply keepsO)

theorem keeps_coreOff {z : State} (s : State) (n : Nat) (hk : Keeps z s) : Keeps z (coreOff s n) := by
  unfold coreOff
  repeat' first
    | with_reducible assumption
    | (intro x; first | (have hx : Keeps z x := (by repeat' first | with_reducible assumption | intro _ | (with_reducible first | apply keeps_ncStop | apply keeps_ite)); clear_value x) | try clear_value x)
    | lift_lets
    | (with_reducible first | apply keeps_setDisPend | apply keeps_setFlag)

theorem keeps_clusterOff {z : State} (s : State) (c : Nat) (hk : Keeps z s) : Keeps z (clusterOff s c) := by
  unfold clusterOff
  repeat' first
    | with_reducible assumption
    | (intro x; first | (have hx : Keeps z x := (by repeat' first | with_reducible assumption | intro _ | (with_reducible first | apply keeps_coreOff | apply keeps_dropSlots | apply keeps_retain | apply keeps_tileClear | apply keeps_ite | apply keeps_foldl)); clear_value x) | try clear_value x)
    | lift_lets
    | (with_reducible first | apply keeps_setUnitState | apply keeps_foldl)

theorem keeps_bivouacEnter {z : State} (s : State) (hk : Keeps z s) : Keeps z (bivouacEnter s) := by
  unfold bivouacEnter
  repeat' first
    | (intro x; (have hx : Keeps z x := (by repeat' first | with_reducible assumption | intro _ | (with_reducible first | apply keeps_clusterOff | apply keeps_drainFan | apply keeps_ingestDiscard | apply keeps_motBivouac | apply keeps_foldl)); clear_value x))
    | lift_lets
    | with_reducible apply keeps_wrN
    | (with_reducible apply keeps_mk; with_reducible assumption)

theorem keeps_bivouacExit {z : State} (s : State) (ft : Nat) (hk : Keeps z s) : Keeps z (bivouacExit s ft) := by
  unfold bivouacExit
  have h1 : Keeps z { s with awaiting := (List.range 640).map (fun u => (u, true)) } := by with_reducible apply keeps_mk; exact hk
  revert h1
  generalize { s with awaiting := (List.range 640).map (fun u => (u, true)) } = s1
  intro h1
  have h3 : Keeps z (motBivouac (fusBivouacExit (setFld (leanStart ((List.range 8).foldl
      (fun s p => setFld s (REC_PART_GEN p) 7 0 (partGen s p + 1)) s1)) APX_LEAN_OVR 5 4 0) ft) false) := by
    with_reducible apply keeps_motBivouac
    with_reducible apply keeps_fusBivouacExit
    with_reducible apply keeps_setFld
    with_reducible apply keeps_leanStart
    with_reducible apply keeps_foldl
    · intro t a h; with_reducible apply keeps_setFld; exact h
    · exact h1
  dsimp only
  with_reducible apply keeps_updPwr
  revert h3
  generalize motBivouac (fusBivouacExit (setFld (leanStart ((List.range 8).foldl
      (fun s p => setFld s (REC_PART_GEN p) 7 0 (partGen s p + 1)) s1)) APX_LEAN_OVR 5 4 0) ft) false = s3
  intro h3
  with_reducible apply keeps_setPend
  exact h3

theorem keeps_holdAfter {z : State} (s : State) (m : Nat) (hk : Keeps z s) : Keeps z (holdAfter s m) := by
  unfold holdAfter
  repeat' first
    | with_reducible assumption
    | (intro x; try clear_value x)
    | lift_lets
    | (with_reducible first | apply keeps_leanLog | apply keeps_setFld | apply keeps_ite)

theorem keeps_applyLean {z : State} (s : State) (hk : Keeps z s) : Keeps z (applyLean s) := by
  unfold applyLean
  repeat' first
    | with_reducible assumption
    | intro _
    | (with_reducible first | apply keeps_insertCairn | apply keeps_retarget | apply keeps_takeSetting | apply keeps_ite)

theorem keeps_applyMode {z : State} (s0 : State) (m reason : Nat) (hk : Keeps z s0) : Keeps z (applyMode s0 m reason) := by
  unfold applyMode
  repeat' first
    | with_reducible assumption
    | (intro x; first | (have hx : Keeps z x := (by repeat' first | with_reducible assumption | intro _ | (with_reducible first | apply keeps_addLog | apply keeps_applyLean | apply keeps_bivouacEnter | apply keeps_bivouacExit | apply keeps_holdAfter | apply keeps_insertCairn | apply keeps_leanDecide | apply keeps_outDue | apply keeps_setFlag | apply keeps_setFld | apply keeps_takeSetting | apply keeps_updPwr | apply keeps_ite | apply keeps_foldl) | (with_reducible apply keeps_mk; with_reducible assumption)); clear_value x) | try clear_value x)
    | lift_lets
    | (with_reducible first | apply keeps_retarget | apply keeps_startWatch)

theorem keeps_execModeChangeCairn {z : State} (now : Nat) (s0 : State) (hk : Keeps z s0) : KeepsO z (execModeChangeCairn now s0) := by
  unfold execModeChangeCairn
  repeat' first
    | with_reducible assumption
    | (intro x; (have hx : Keeps z x := (by repeat' first | (with_reducible first | assumption | apply keeps_advance | apply keeps_countLate)); clear_value x))
    | lift_lets
    | (with_reducible first | apply keeps_applyLean | apply keeps_applyMode | apply keeps_refuseMode | apply keeps_updPwr | apply keepsO)
    | split

theorem keeps_execLeanChange {z : State} (now : Nat) (s0 : State) (hk : Keeps z s0) : KeepsO z (execLeanChange now s0) := by
  unfold execLeanChange
  repeat' first
    | with_reducible assumption
    | (intro x; first | (have hx : Keeps z x := (by repeat' first | (with_reducible first | assumption | apply keeps_advance | apply keeps_countLate)); clear_value x) | try clear_value x)
    | lift_lets
    | (with_reducible first | apply keeps_applyLean | apply keeps_ite | apply keepsO)

theorem keeps_applyHeld {z : State} (s : State) (hk : Keeps z s) : Keeps z (applyHeld s) := by
  unfold applyHeld
  repeat' first
    | with_reducible assumption
    | intro _
    | (with_reducible first | apply keeps_sramWrite | apply keeps_foldl)
    | (with_reducible apply keeps_mk; with_reducible assumption)

theorem keeps_execCoreClockPauseEnd {z : State} (now : Nat) (s0 : State) (hk : Keeps z s0) : KeepsO z (execCoreClockPauseEnd now s0) := by
  unfold execCoreClockPauseEnd
  repeat' first
    | with_reducible assumption
    | (intro x; first | (have hx : Keeps z x := (by repeat' first | (with_reducible first | assumption | apply keeps_advance | apply keeps_applyHeld | apply keeps_updPwr)); clear_value x) | try clear_value x)
    | lift_lets
    | with_reducible apply keepsO
    | split
    | (with_reducible apply keeps_mk; with_reducible assumption)

theorem keeps_unitUp {z : State} (s : State) (pg : Nat) (hk : Keeps z s) : Keeps z (unitUp s pg) := by
  unfold unitUp
  repeat' first
    | with_reducible assumption
    | (intro x; (have hx : Keeps z x := (by repeat' first | with_reducible assumption | intro _ | (with_reducible first | apply keeps_advGen | apply keeps_ite)); clear_value x))
    | lift_lets
    | with_reducible apply keeps_setUnitState

theorem keeps_clusterUp {z : State} (s : State) (c : Nat) (hk : Keeps z s) : Keeps z (clusterUp s c) := by
  unfold clusterUp
  repeat' first
    | with_reducible assumption
    | (intro x; first | (have hx : Keeps z x := (by repeat' first | with_reducible assumption | intro _ | (with_reducible first | apply keeps_advGen | apply keeps_setFlag | apply keeps_sramZero | apply keeps_unitUp | apply keeps_ite | apply keeps_foldl)); clear_value x) | try clear_value x)
    | lift_lets
    | (with_reducible first | apply keeps_unitUp | apply keeps_foldl)

theorem keeps_nextCluster {z : State} (s : State) (c t : Nat) (hk : Keeps z s) : Keeps z (nextCluster s c t) := by
  unfold nextCluster
  repeat' first
    | with_reducible assumption
    | (intro x; (have hx : Keeps z x := (by repeat' first | with_reducible assumption | intro _ | (with_reducible first | apply keeps_clusterUp | apply keeps_wrN | apply keeps_ite)); clear_value x))
    | lift_lets
    | with_reducible apply keeps_updPwr

theorem keeps_limitWrite {z : State} (s : State) (w : Who) (v : Word) (hk : Keeps z s) : Keeps z (limitWrite s w v) := by
  unfold limitWrite
  repeat' first | with_reducible assumption | intro _ | (with_reducible first | apply keeps_plainWrite | apply keeps_wErr | apply keeps_ite)

theorem keeps_updLad {z : State} (s : State) (f : LadSt → LadSt) (hk : Keeps z s) : Keeps z (updLad s f) := by
  unfold updLad
  repeat' first | (with_reducible apply keeps_mk; with_reducible assumption)

theorem keeps_showQueue {z : State} (s : State) (hk : Keeps z s) : Keeps z (showQueue s) := by
  unfold showQueue
  repeat' first | (with_reducible first | assumption | apply keeps_setFld)

theorem keeps_trigger {z : State} (s : State) (x : Trigger) (hk : Keeps z s) : Keeps z (trigger s x) := by
  unfold trigger
  repeat' first
    | with_reducible assumption
    | intro _
    | (with_reducible first | apply keeps_bump | apply keeps_setStatus | apply keeps_showQueue | apply keeps_updLad | apply keeps_ite | apply keeps_foldl)
    | split
    | (with_reducible apply keeps_mk; (with_reducible first | assumption | apply keeps_bump))

theorem keeps_autoTrigger {z : State} (s : State) (step target cause ctx num : Nat) (hk : Keeps z s) : Keeps z (autoTrigger s step target
    cause ctx num) := by
  unfold autoTrigger
  repeat' first | (with_reducible first | assumption | apply keeps_trigger)

theorem keeps_chargeStep {z : State} (s : State) (r : CmdRef) (hk : Keeps z s) : KeepsP z (chargeStep s r) := by
  unfold chargeStep
  repeat' first | (with_reducible first | assumption | apply keeps_autoTrigger | exact keepsP_none | apply keepsP_some) | split

theorem keeps_winDenied {z : State} (s : State) (hk : Keeps z s) : Keeps z (winDenied s) := by
  unfold winDenied
  repeat' first | (with_reducible first | assumption | apply keeps_bump | apply keeps_irq)

theorem keeps_refuseSubmit {z : State} (s : State) (c : Nat) (hk : Keeps z s) : Keeps z (refuseSubmit s c) := by
  unfold refuseSubmit
  repeat' first | (with_reducible first | assumption | apply keeps_bump | apply keeps_irq)

theorem keeps_submit {z : State} (s : State) (c slot : Nat) (bs : List Byte) (hk : Keeps z s) : Keeps z (submit s c slot bs) := by
  unfold submit
  repeat' first
    | with_reducible assumption
    | (intro x; first | (have hx : Keeps z x := (by repeat' first | (with_reducible first | assumption | apply keeps_updCtx)); clear_value x) | try clear_value x)
    | lift_lets
    | (with_reducible first | apply keeps_accept | apply keeps_markStartable | apply keeps_refuseSubmit | apply keeps_ite)

theorem keeps_execDescriptorSubmit {z : State} (fn off : Nat) (bs : List Byte) (s : State) (hk : Keeps z s) : KeepsO z (execDescriptorSubmit
    fn off bs s) := by
  unfold execDescriptorSubmit
  repeat' first
    | with_reducible assumption
    | (intro x; first | (have hx : Keeps z x := (by repeat' first | (with_reducible first | assumption | apply keeps_descWrite)); clear_value x) | try clear_value x)
    | lift_lets
    | (with_reducible first | apply keeps_submit | apply keeps_winDenied | apply keepsO_ite | apply keepsO)
    | split

theorem keeps_joinBinder {z : State} (s : State) (c q : Nat) (hk : Keeps z s) : Keeps z (joinBinder s c q) := by
  unfold joinBinder
  repeat' first
    | with_reducible assumption
    | intro _
    | (with_reducible first | apply keeps_setStatus | apply keeps_ite)
    | (with_reducible apply keeps_mk; with_reducible assumption)

theorem keeps_startCmd {z : State} (s : State) (c : Nat) (k : CmdSt) (hk : Keeps z s) : Keeps z (startCmd s c k) := by
  unfold startCmd
  repeat' first
    | with_reducible assumption
    | (intro x; first | (have hx : Keeps z x := (by repeat' first | with_reducible assumption | intro _ | (with_reducible first | apply keeps_joinBinder | apply keeps_updCmd | apply keeps_ite)); clear_value x) | try clear_value x)
    | lift_lets
    | (with_reducible first | apply keeps_markStartable | apply keeps_wrN)

theorem keeps_execCommandStart {z : State} (c now : Nat) (s0 : State) (hk : Keeps z s0) : KeepsO z (execCommandStart c now s0) := by
  unfold execCommandStart
  repeat' first
    | with_reducible assumption
    | (intro x; (have hx : Keeps z x := (by repeat' first | (with_reducible first | assumption | apply keeps_advance)); clear_value x))
    | lift_lets
    | (with_reducible first | apply keeps_startCmd | apply keepsO)
    | split

theorem keeps_failRecord {z : State} (s : State) (c : Nat) (k : CmdSt) (status : Nat) (hk : Keeps z s) : Keeps z (failRecord s c k status)
    := by
  unfold failRecord
  repeat' first
    | with_reducible assumption
    | (intro x; try clear_value x)
    | lift_lets
    | (with_reducible first | apply keeps_bump | apply keeps_hostSignal | apply keeps_irq | apply keeps_unaccept | apply keeps_updCtx | apply keeps_ite)

theorem keeps_lateCompletion {z : State} (s : State) (c q : Nat) (hk : Keeps z s) : Keeps z (lateCompletion s c q) := by
  unfold lateCompletion
  repeat' first
    | with_reducible assumption
    | intro _
    | (with_reducible first | apply keeps_bumpPulse | apply keeps_ite)
    | (with_reducible apply keeps_mk; with_reducible assumption)

theorem keeps_execCommandEnd {z : State} (c q : Nat) (ok : Bool) (now : Nat) (s0 : State) (hk : Keeps z s0) : KeepsO z (execCommandEnd c q
    ok now s0) := by
  unfold execCommandEnd
  repeat' first
    | with_reducible assumption
    | (intro x; first | (have hx : Keeps z x := (by repeat' first | (with_reducible first | assumption | apply keeps_advance)); clear_value x) | try clear_value x)
    | lift_lets
    | (with_reducible first | apply keeps_endCmd | apply keeps_failRecord | apply keeps_lateCompletion | apply keeps_markStartable | apply keeps_ite | apply keepsO)
    | split

theorem keeps_waitTimeout {z : State} (s : State) (y0 : CmdRef) (hk : Keeps z s) : Keeps z (waitTimeout s y0) := by
  unfold waitTimeout
  repeat' first
    | with_reducible assumption
    | (intro x; (have hx : Keeps z x := (by repeat' first | with_reducible assumption | intro _ | (with_reducible first | apply keeps_updCmd | apply keeps_wrN | apply keeps_ite)); clear_value x))
    | lift_lets
    | (with_reducible first | apply keeps_bump | apply keeps_endCmd | apply keeps_finishCmd | apply keeps_markStartable | apply keeps_popHead)
    | split

theorem keeps_chargeExpiry {z : State} (s : State) (r : CmdRef) (hk : Keeps z s) : Keeps z (chargeExpiry s r) := by
  unfold chargeExpiry
  repeat' first
    | with_reducible assumption
    | intro _
    | (with_reducible first | apply keeps_chargeStep | apply keeps_waitTimeout | apply keeps_ite)
    | split
    | apply keeps_some (by with_reducible assumption)
    | fail

theorem keeps_chargeStall {z : State} (s : State) (t k : Nat) (hk : Keeps z s) : Keeps z (chargeStall s t k) := by
  unfold chargeStall
  repeat' first
    | with_reducible assumption
    | (intro x; first | (have hx : Keeps z x := (by repeat' first | (with_reducible first | assumption | apply keeps_setSlot)); clear_value x) | try clear_value x)
    | lift_lets
    | (with_reducible first | apply keeps_chargeStep | apply keeps_ite)
    | split
    | with_reducible apply keeps_getD

theorem keeps_execSbStall {z : State} (t k now : Nat) (s0 : State) (hk : Keeps z s0) : KeepsO z (execSbStall t k now s0) := by
  unfold execSbStall
  repeat' first
    | with_reducible assumption
    | (intro x; first | (have hx : Keeps z x := (by repeat' first | with_reducible assumption | intro _ | (with_reducible first | apply keeps_advance | apply keeps_sbIrq | apply keeps_setSlot | apply keeps_ite)); clear_value x) | try clear_value x)
    | lift_lets
    | (with_reducible first | apply keeps_chargeStall | apply keepsO_ite | apply keepsO)

theorem keeps_execBudgetExpiry {z : State} (r : CmdRef) (now : Nat) (s0 : State) (hk : Keeps z s0) : KeepsO z (execBudgetExpiry r now s0) :=
    by
  unfold execBudgetExpiry
  repeat' first
    | with_reducible assumption
    | (intro x; first | (have hx : Keeps z x := (by repeat' first | (with_reducible first | assumption | apply keeps_advance)); clear_value x) | try clear_value x)
    | lift_lets
    | (with_reducible first | apply keeps_bump | apply keeps_chargeExpiry | apply keeps_updCmd | apply keeps_updQueue | apply keepsO_ite | apply keepsO)
    | split

theorem keeps_payOut {z : State} (s : State) (c : Nat) (k : CmdSt) (bs : List Byte) (ok : Bool) (hk : Keeps z s) : KeepsS z (payOut s c k bs
    ok) := by
  unfold payOut
  repeat' first
    | (with_reducible first | assumption | apply keeps_hostWrite | apply keeps_memWrite | exact keepsS_inl | apply keepsS_inr)
    | split

theorem keeps_execNop {z : State} (c q : Nat) (s : State) (hk : Keeps z s) : KeepsO z (execNop c q s) := by
  unfold execNop
  repeat' first | (with_reducible first | assumption | apply keeps_setStatus | apply keepsO) | split

theorem keeps_copyBytes {z : State} (s : State) (c : Nat) (k : CmdSt) (n : Nat) (bs : List Byte) (hk : Keeps z s) : Keeps z (copyBytes s c k
    n bs) := by
  unfold copyBytes
  repeat' first
    | with_reducible assumption
    | (intro x; try clear_value x)
    | lift_lets
    | (with_reducible first | apply keeps_hostWrite | apply keeps_memWrite | apply keeps_ite)

theorem keeps_execCopy {z : State} (c q : Nat) (data : Option (List Byte)) (s : State) (hk : Keeps z s) : KeepsO z (execCopy c q data s) :=
    by
  unfold execCopy
  repeat' first
    | with_reducible assumption
    | (intro x; try clear_value x)
    | lift_lets
    | (with_reducible first | apply keeps_copyBytes | apply keeps_setStatus | apply keepsO_ite | apply keepsO)
    | split

theorem keeps_fillBytes {z : State} (s : State) (c : Nat) (k : CmdSt) (n : Nat) (hk : Keeps z s) : Keeps z (fillBytes s c k n) := by
  unfold fillBytes
  repeat' first | (with_reducible first | assumption | apply keeps_memWrite)

theorem keeps_execFill {z : State} (c q : Nat) (s : State) (hk : Keeps z s) : KeepsO z (execFill c q s) := by
  unfold execFill
  repeat' first | (with_reducible first | assumption | apply keeps_fillBytes | apply keeps_setStatus | apply keepsO) | split

theorem keeps_execStamp {z : State} (c q : Nat) (ok : Bool) (s : State) (hk : Keeps z s) : KeepsO z (execStamp c q ok s) := by
  unfold execStamp
  repeat' first
    | (with_reducible first | assumption | apply keeps_payOut | apply keeps_setStatus | apply keepsO)
    | split
    | apply keeps_inr (by with_reducible assumption)
    | fail

theorem keeps_execQuery {z : State} (c q : Nat) (ok : Bool) (s : State) (hk : Keeps z s) : KeepsO z (execQuery c q ok s) := by
  unfold execQuery
  repeat' first
    | with_reducible assumption
    | (intro x; try clear_value x)
    | lift_lets
    | (with_reducible first | apply keeps_payOut | apply keeps_setStatus | apply keepsO)
    | split
    | apply keeps_inr (by with_reducible assumption)
    | fail

theorem keeps_cqCfgWrite {z : State} (s : State) (c : Nat) (v : Word) (hk : Keeps z s) : Keeps z (cqCfgWrite s c v) := by
  unfold cqCfgWrite
  repeat' first
    | with_reducible assumption
    | (intro x; first | (have hx : Keeps z x := (by repeat' first | (with_reducible first | assumption | apply keeps_updCtx | apply keeps_wrN | apply_assumption -exfalso -symm)); clear_value x) | (have hx : ∀ t a, Keeps z t → Keeps z (x t a) := (by repeat' first | with_reducible assumption | intro _ | with_reducible apply keeps_wrN); clear_value x) | try clear_value x)
    | lift_lets
    | (with_reducible first | apply keeps_bump | apply keeps_markStartable | apply keeps_releaseHeld | apply keeps_setFlag | apply keeps_ite | apply_assumption -exfalso -symm)

theorem keeps_execCqEnable {z : State} (fn off : Nat) (v : Word) (s : State) (hk : Keeps z s) : KeepsO z (execCqEnable fn off v s) := by
  unfold execCqEnable
  repeat' first | (with_reducible first | assumption | apply keeps_cqCfgWrite | apply keeps_winDenied | apply keepsO) | split

theorem keeps_cqHeadWrite {z : State} (s : State) (c : Nat) (v : Word) (hk : Keeps z s) : Keeps z (cqHeadWrite s c v) := by
  unfold cqHeadWrite
  repeat' first
    | with_reducible assumption
    | (intro x; try clear_value x)
    | lift_lets
    | (with_reducible first | apply keeps_bump | apply keeps_releaseHeld | apply keeps_wrN | apply keeps_ite)

theorem keeps_execCqHeadWrite {z : State} (fn off : Nat) (v : Word) (s : State) (hk : Keeps z s) : KeepsO z (execCqHeadWrite fn off v s) :=
    by
  unfold execCqHeadWrite
  repeat' first | (with_reducible first | assumption | apply keeps_cqHeadWrite | apply keeps_winDenied | apply keepsO) | split

theorem keeps_execHifWAbort {z : State} (fn off : Nat) (v : Word) (s : State) (hk : Keeps z s) : KeepsO z (execHifWAbort fn off v s) := by
  unfold execHifWAbort
  repeat' first
    | with_reducible assumption
    | intro _
    | (with_reducible first | apply keeps_autoTrigger | apply keeps_winDenied | apply keepsO_ite | apply keepsO)
    | split

theorem keeps_winWrite {z : State} (s : State) (c a : Nat) (v : Word) (hk : Keeps z s) : Keeps z (winWrite s c a v) := by
  unfold winWrite
  repeat' first
    | with_reducible assumption
    | intro _
    | (with_reducible first | apply keeps_autoTrigger | apply keeps_bump | apply keeps_cqCfgWrite | apply keeps_cqHeadWrite | apply keeps_wr | apply keeps_ite)

theorem keeps_ctxEnable {z : State} (s : State) (c : Nat) (hk : Keeps z s) : Keeps z (ctxEnable s c) := by
  unfold ctxEnable
  repeat' first | (with_reducible first | assumption | apply keeps_updCtx | apply keeps_wrN)

theorem keeps_ctxOwnWrite {z : State} (s : State) (w : Who) (v : Word) (hk : Keeps z s) : Keeps z (ctxOwnWrite s w v) := by
  unfold ctxOwnWrite
  repeat' first
    | with_reducible assumption
    | (intro x; first | (have hx : Keeps z x := (by repeat' first | with_reducible assumption | intro _ | (with_reducible first | apply keeps_updCtx | apply keeps_wErr | apply keeps_ite)); clear_value x) | try clear_value x)
    | lift_lets
    | (with_reducible first | apply keeps_ctxEnable | apply keeps_markStartable | apply keeps_updCtx | apply keeps_wErr | apply keeps_ite)

theorem keeps_hifCtxWrite {z : State} (s : State) (w : Who) (a : Nat) (v : Word) (hk : Keeps z s) : Keeps z (hifCtxWrite s w a v) := by
  unfold hifCtxWrite
  repeat' first
    | with_reducible assumption
    | (intro x; first | (have hx : Keeps z x := (by repeat' first | with_reducible assumption | intro _ | (with_reducible first | apply keeps_wErr | apply keeps_ite)); clear_value x) | try clear_value x)
    | lift_lets
    | (with_reducible first | apply keeps_ctxOwnWrite | apply keeps_failAcc | apply keeps_setFld | apply keeps_updCtx | apply keeps_wErr | apply keeps_ite)

theorem keeps_execContextEnable {z : State} (w : Who) (v : Word) (s : State) (hk : Keeps z s) : KeepsO z (execContextEnable w v s) := by
  unfold execContextEnable
  repeat' first | with_reducible assumption | intro _ | (with_reducible first | apply keeps_guardW | apply keeps_hifCtxWrite | apply keepsO)

theorem keeps_renameCmd {z : State} (s : State) (c q q' : Nat) (hk : Keeps z s) : Keeps z (renameCmd s c q q') := by
  unfold renameCmd
  repeat' first | (intro x; try clear_value x) | lift_lets | (with_reducible apply keeps_mk; with_reducible assumption)

theorem keeps_flrCtx {z : State} (s : State) (c : Nat) (hk : Keeps z s) : Keeps z (flrCtx s c) := by
  unfold flrCtx
  repeat' first
    | with_reducible assumption
    | (intro x; first | (have hx : Keeps z x := (by repeat' first | with_reducible assumption | intro _ | (with_reducible first | apply keeps_renameCmd | apply keeps_unaccept | apply keeps_updCtx | apply keeps_foldl)); clear_value x) | try clear_value x)
    | lift_lets
    | with_reducible apply keeps_bumpN

theorem keeps_flrFn {z : State} (s : State) (f : Nat) (hk : Keeps z s) : Keeps z (flrFn s f) := by
  unfold flrFn
  repeat' first
    | with_reducible assumption
    | (intro x; first | (have hx : Keeps z x := (by repeat' first | with_reducible assumption | intro _ | (with_reducible first | apply keeps_flrCtx | apply keeps_foldl) | (with_reducible apply keeps_mk; with_reducible assumption)); clear_value x) | try clear_value x)
    | lift_lets
    | (with_reducible first | apply keeps_setFlag | apply keeps_ite)

theorem keeps_execFlr {z : State} (f : Nat) (s : State) (hk : Keeps z s) : KeepsO z (execFlr f s) := by
  unfold execFlr
  repeat' first | (with_reducible first | assumption | apply keeps_flrFn | apply keepsO)

theorem keeps_execBusMasterDisable {z : State} (f : Nat) (s : State) (hk : Keeps z s) : KeepsO z (execBusMasterDisable f s) := by
  unfold execBusMasterDisable
  repeat' first
    | with_reducible assumption
    | (intro x; first | (have hx : Keeps z x := (by repeat' first | with_reducible assumption | intro _ | (with_reducible first | apply keeps_flrCtx | apply keeps_foldl) | (with_reducible apply keeps_mk; with_reducible assumption)); clear_value x) | try clear_value x)
    | lift_lets
    | (with_reducible first | apply keeps_setFlag | apply keeps_ite | apply keepsO)

theorem keeps_sendPending {z : State} (s : State) (f v : Nat) (hk : Keeps z s) : Keeps z (sendPending s f v) := by
  unfold sendPending
  repeat' first
    | with_reducible assumption
    | (intro x; try clear_value x)
    | lift_lets
    | (with_reducible first | apply keeps_sendMsix | apply keeps_setVec | apply keeps_ite)

theorem keeps_execBusMasterEnable {z : State} (f : Nat) (s : State) (hk : Keeps z s) : KeepsO z (execBusMasterEnable f s) := by
  unfold execBusMasterEnable
  repeat' first
    | with_reducible assumption
    | intro _
    | (with_reducible first | apply keeps_sendPending | apply keepsO | apply keeps_foldl)
    | (with_reducible apply keeps_mk; with_reducible assumption)

theorem keeps_execSriovDisable {z : State} (s : State) (hk : Keeps z s) : KeepsO z (execSriovDisable s) := by
  unfold execSriovDisable
  repeat' first
    | with_reducible assumption
    | intro _
    | (with_reducible first | apply keeps_flrFn | apply keeps_wrN | apply keepsO | apply keeps_foldl)

theorem keeps_dropVfs {z : State} (s : State) (hk : Keeps z s) : Keeps z (dropVfs s) := by
  unfold dropVfs
  repeat' first | with_reducible assumption | intro _ | (with_reducible first | apply keeps_updCtx | apply keeps_foldl)

theorem keeps_execLinkHotReset {z : State} (link : Nat) (s : State) (hk : Keeps z s) : KeepsO z (execLinkHotReset link s) := by
  unfold execLinkHotReset
  repeat' first
    | with_reducible assumption
    | (intro x; first | (have hx : Keeps z x := (by repeat' first | with_reducible assumption | intro _ | (with_reducible first | apply keeps_flrFn | apply keeps_foldl)); clear_value x) | try clear_value x)
    | lift_lets
    | (with_reducible first | apply keeps_dropVfs | apply keeps_ite | apply keepsO)

theorem keeps_execVectorUnmask {z : State} (f v : Nat) (s : State) (hk : Keeps z s) : KeepsO z (execVectorUnmask f v s) := by
  unfold execVectorUnmask
  repeat' first
    | with_reducible assumption
    | intro _
    | (with_reducible first | apply keeps_sendPending | apply keeps_setVec | apply keepsO_ite | apply keepsO)

theorem keeps_wrBytes {z : State} (s : State) (reg : Nat → Nat) (n : Nat) (bs : List Byte) (hk : Keeps z s) : Keeps z (wrBytes s reg n bs)
    := by
  unfold wrBytes
  repeat' first | with_reducible assumption | intro _ | (with_reducible first | apply keeps_wrN | apply keeps_foldl)

theorem keeps_measureObj {z : State} (s : State) (typ : Nat) (digest info : List Byte) (hk : Keeps z s) : Keeps z (measureObj s typ digest
    info) := by
  unfold measureObj
  repeat' first
    | with_reducible assumption
    | (intro x; first | (have hx : Keeps z x := (by repeat' first | (with_reducible first | assumption | apply keeps_wrBytes)); clear_value x) | try clear_value x)
    | lift_lets
    | (with_reducible first | apply keeps_setFlag | apply keeps_setFld | apply keeps_ite)
    | (with_reducible apply keeps_mk; with_reducible assumption)

theorem keeps_clearLog {z : State} (s : State) (hk : Keeps z s) : Keeps z (clearLog s) := by
  unfold clearLog
  repeat' first
    | (with_reducible first | apply keeps_wrBytes | apply keeps_wrN)
    | (with_reducible apply keeps_mk; with_reducible assumption)

theorem keeps_verifyFail {z : State} (s : State) (hk : Keeps z s) : Keeps z (verifyFail s) := by
  unfold verifyFail
  repeat' first | (with_reducible first | assumption | apply keeps_bump)

theorem keeps_showHold1 {z : State} (s : State) (h : List Nat) (v : Nat) (op : FlashOp) (hk : Keeps z s) : Keeps z (showHold1 s h v op) :=
    by
  unfold showHold1
  repeat' first | (with_reducible first | assumption | apply keeps_setFld | apply keeps_wrN)

theorem keeps_flashOp {z : State} (s : State) (y0 : FlashOp) (hk : Keeps z s) : Keeps z (flashOp s y0) := by
  unfold flashOp
  repeat' first | (with_reducible first | assumption | apply keeps_flashErase | apply keeps_flashWrite) | split

theorem keeps_holdupLow {z : State} (s : State) (h : List Nat) (v : Nat) (op : FlashOp) (hk : Keeps z s) : Keeps z (holdupLow s h v op) :=
    by
  unfold holdupLow
  repeat' first | (with_reducible first | assumption | apply keeps_bump | apply keeps_irq | apply keeps_notice | apply keeps_showHold1)

theorem keeps_store {z : State} (s : State) (v : Nat) (ops : List FlashOp) (hk : Keeps z s) : Keeps z (store s v ops).1 := by
  unfold store
  repeat' first
    | with_reducible assumption
    | (intro x; try clear_value x)
    | lift_lets
    | (with_reducible first | apply keeps_flashOp | apply keeps_holdupLow | apply keeps_showHold1 | apply keeps_foldl)
    | split

theorem keeps_showBind {z : State} (s : State) (j : JobSt) (st : Nat) (hk : Keeps z s) : Keeps z (showBind s j st) := by
  unfold showBind
  repeat' first | with_reducible assumption | intro _ | (with_reducible first | apply keeps_wrN | apply keeps_foldl)

theorem keeps_showUnits {z : State} (s : State) (j : JobSt) (on : Bool) (hk : Keeps z s) : Keeps z (showUnits s j on) := by
  unfold showUnits
  repeat' first
    | with_reducible assumption
    | (intro x; first | (have hx : Keeps z x := (by repeat' first | with_reducible assumption | intro _ | (with_reducible first | apply keeps_setFlag | apply keeps_foldl)); clear_value x) | try clear_value x)
    | lift_lets
    | (with_reducible first | apply keeps_setFlag | apply keeps_foldl)

theorem keeps_openSlot {z : State} (s : State) (e : Nat × Nat × List Nat) (hk : Keeps z s) : Keeps z (openSlot s e) := by
  obtain ⟨t, k, ws⟩ := e
  unfold openSlot
  dsimp only
  split
  · with_reducible first | apply keeps_recErr | skip
    repeat' first | with_reducible assumption | with_reducible apply keeps_setFlag | with_reducible apply keeps_wrN
  · repeat' first | with_reducible assumption | with_reducible apply keeps_slotArm | with_reducible apply keeps_setFlag | with_reducible apply keeps_wrN

theorem keeps_step8 {z : State} (s : State) (j : JobSt) (hk : Keeps z s) : Keeps z (step8 s j) := by
  unfold step8
  repeat' first
    | with_reducible assumption
    | (intro x; first | (have hx : Keeps z x := (by repeat' first | with_reducible assumption | intro _ | (with_reducible first | apply keeps_openCore | apply keeps_openSlot | apply keeps_setAwaiting | apply keeps_setFld | apply keeps_setRgnWord | apply keeps_sramWrite | apply keeps_tabWrite | apply keeps_updJob | apply keeps_wrN | apply keeps_foldl) | (with_reducible apply keeps_mk; with_reducible assumption)); clear_value x) | try clear_value x)
    | lift_lets
    | (with_reducible first | apply keeps_showBind | apply keeps_showUnits)

theorem keeps_undo8 {z : State} (s : State) (j : JobSt) (hk : Keeps z s) : Keeps z (undo8 s j) := by
  unfold undo8
  repeat' first
    | with_reducible assumption
    | (intro x; first | (have hx : Keeps z x := (by repeat' first | with_reducible assumption | intro _ | (with_reducible first | apply keeps_coreOff | apply keeps_drainFan | apply keeps_setFlag | apply keeps_setRgnWord | apply keeps_slotOff | apply keeps_wrN | apply keeps_foldl) | (with_reducible apply keeps_mk; with_reducible assumption)); clear_value x) | try clear_value x)
    | lift_lets
    | with_reducible apply keeps_showUnits

theorem keeps_dropCmds {z : State} (s : State) (j : JobSt) (hk : Keeps z s) : Keeps z (dropCmds s j) := by
  unfold dropCmds
  repeat' first
    | with_reducible assumption
    | (intro x; first | (have hx : Keeps z x := (by repeat' first | with_reducible assumption | intro _ | (with_reducible first | apply keeps_unaccept | apply keeps_foldl)); clear_value x) | try clear_value x)
    | lift_lets
    | (with_reducible first | apply keeps_noteHead | apply keeps_updTile | apply keeps_foldl)

theorem keeps_showPairs {z : State} (s : State) (hk : Keeps z s) : Keeps z (showPairs s) := by
  unfold showPairs
  repeat' first | (with_reducible first | assumption | apply keeps_setFld)

theorem keeps_releaseJob {z : State} (s : State) (j : JobSt) (hk : Keeps z s) : Keeps z (releaseJob s j) := by
  unfold releaseJob
  repeat' first
    | (intro x; (have hx : Keeps z x := (by repeat' first | with_reducible assumption | intro _ | (with_reducible first | apply keeps_ancFault | apply keeps_ancOwner | apply keeps_dropCmds | apply keeps_showBind | apply keeps_undo8 | apply keeps_foldl)); clear_value x))
    | lift_lets
    | with_reducible apply keeps_showPairs
    | (with_reducible apply keeps_mk; with_reducible assumption)

theorem keeps_binderDone {z : State} (s : State) (c q st res : Nat) (hk : Keeps z s) : Keeps z (binderDone s c q st res) := by
  unfold binderDone
  repeat' first | with_reducible apply keeps_setStatus | (with_reducible apply keeps_mk; with_reducible assumption)

theorem keeps_inPart {z : State} (s : State) (c q p : Nat) (hk : Keeps z s) : Keeps z (inPart s c q p) := by
  unfold inPart
  repeat' first | (with_reducible first | assumption | apply keeps_updCmd)

theorem keeps_putReport {z : State} (s : State) (x : CtxSt) (pay : List Byte) (j : JobSt) (repDev ok : Bool) (hk : Keeps z s) : KeepsP z
    (putReport s x pay j repDev ok) := by
  unfold putReport
  repeat' first
    | (with_reducible first | assumption | apply keeps_hostWrite | apply keeps_memWrite | exact keepsP_none | apply keepsP_some)
    | split

theorem keeps_claimAnchors {z : State} (s : State) (j : JobSt) (hk : Keeps z s) : Keeps z (claimAnchors s j).1 := by
  unfold claimAnchors
  repeat' first
    | with_reducible assumption
    | (intro x; (have hx : Keeps z x := (by repeat' first | with_reducible assumption | intro _ | (with_reducible first | apply keeps_ancOwner | apply keeps_foldl)); clear_value x))
    | lift_lets

theorem keeps_takeJob {z : State} (s : State) (c q : Nat) (j0 : JobSt) (hk : Keeps z s) : Keeps z (takeJob s c q j0) := by
  unfold takeJob
  repeat' first
    | with_reducible assumption
    | (intro x; try clear_value x)
    | lift_lets
    | (with_reducible first | apply keeps_binderDone | apply keeps_claimAnchors | apply keeps_memWrite | apply keeps_showBind | apply keeps_showPairs | apply keeps_step8 | apply keeps_ite)
    | (with_reducible apply keeps_mk; (with_reducible first | apply keeps_measureObj | apply keeps_foldl))

theorem keeps_execBind {z : State} (c q : Nat) (host : Option (List Byte)) (plan : BindPlan) (ok : Bool) (s : State) (hk : Keeps z s) :
    KeepsO z (execBind c q host plan ok s) := by
  unfold execBind
  repeat' first
    | with_reducible assumption
    | (intro x; first | (have hx : Keeps z x := (by repeat' first | with_reducible assumption | intro _ | (with_reducible first | apply keeps_inPart | apply keeps_verifyFail | apply keeps_ite)); clear_value x) | try clear_value x)
    | lift_lets
    | (with_reducible first | apply keeps_binderDone | apply keeps_putReport | apply keeps_takeJob | apply keepsO_ite | apply keepsO)
    | split
    | apply keeps_some (by with_reducible assumption)
    | fail

theorem keeps_loseRow {z : State} (j : JobSt) (b : Nat) (s : State) (e : Option Int × Int × Nat × Int × Nat × Nat) (hk : Keeps z s) : Keeps
    z (loseRow j b s e) := by
  unfold loseRow
  repeat' first
    | with_reducible assumption
    | (intro x; try clear_value x)
    | lift_lets
    | (with_reducible first | apply keeps_writeVerdict | apply keeps_foldl)

theorem keeps_loseTiles {z : State} (s : State) (j : JobSt) (hk : Keeps z s) : Keeps z (loseTiles s j) := by
  unfold loseTiles
  repeat' first | with_reducible assumption | intro _ | (with_reducible first | apply keeps_loseRow | apply keeps_ite | apply keeps_foldl)

theorem keeps_execBindActivate {z : State} (h now : Nat) (s0 : State) (hk : Keeps z s0) : KeepsO z (execBindActivate h now s0) := by
  unfold execBindActivate
  repeat' first
    | with_reducible assumption
    | (intro x; first | (have hx : Keeps z x := (by repeat' first | with_reducible assumption | intro _ | (with_reducible first | apply keeps_advance | apply keeps_irq | apply keeps_showBind | apply keeps_updJob | apply keeps_foldl)); clear_value x) | try clear_value x)
    | lift_lets
    | (with_reducible first | apply keeps_binderDone | apply keeps_loseTiles | apply keepsO_ite | apply keepsO)
    | split

theorem keeps_execUnbind {z : State} (c q : Nat) (s : State) (hk : Keeps z s) : KeepsO z (execUnbind c q s) := by
  unfold execUnbind
  repeat' first
    | with_reducible assumption
    | (intro x; first | (have hx : Keeps z x := (by repeat' first | (with_reducible first | assumption | apply keeps_inPart | apply keeps_updJob)); clear_value x) | try clear_value x)
    | lift_lets
    | (with_reducible first | apply keeps_binderDone | apply keeps_showBind | apply keepsO_ite | apply keepsO)
    | split

theorem keeps_execUnbindRelease {z : State} (h now : Nat) (s0 : State) (hk : Keeps z s0) : KeepsO z (execUnbindRelease h now s0) := by
  unfold execUnbindRelease
  repeat' first
    | with_reducible assumption
    | (intro x; first | (have hx : Keeps z x := (by repeat' first | with_reducible assumption | intro _ | (with_reducible first | apply keeps_advance | apply keeps_flushJob | apply keeps_irq | apply keeps_releaseJob | apply keeps_foldl)); clear_value x) | try clear_value x)
    | lift_lets
    | (with_reducible first | apply keeps_binderDone | apply keepsO_ite | apply keepsO)
    | split

theorem keeps_execRebind {z : State} (c q : Nat) (host : Option (List Byte)) (s : State) (hk : Keeps z s) : KeepsO z (execRebind c q host s)
    := by
  unfold execRebind
  repeat' first
    | with_reducible assumption
    | (intro x; first | (have hx : Keeps z x := (by repeat' first | (with_reducible first | assumption | apply keeps_inPart)); clear_value x) | try clear_value x)
    | lift_lets
    | (with_reducible first | apply keeps_binderDone | apply keeps_claimAnchors | apply keeps_measureObj | apply keeps_showPairs | apply keeps_step8 | apply keeps_updJob | apply keepsO_ite | apply keepsO)
    | split

theorem keeps_rollBack {z : State} (s : State) (c q : Nat) (hk : Keeps z s) : Keeps z (rollBack s c q) := by
  unfold rollBack
  repeat' first
    | with_reducible assumption
    | (intro x; first | (have hx : Keeps z x := (by repeat' first | (with_reducible first | assumption | apply keeps_undo8) | (with_reducible apply keeps_mk; with_reducible assumption)); clear_value x) | try clear_value x)
    | lift_lets
    | (with_reducible first | apply keeps_releaseJob | apply keeps_showBind | apply keeps_showPairs | apply keeps_updJob | apply keeps_ite)
    | split

theorem keeps_execPartCfg {z : State} (c q : Nat) (host : Option (List Byte)) (s : State) (hk : Keeps z s) : KeepsO z (execPartCfg c q host
    s) := by
  unfold execPartCfg
  repeat' first
    | with_reducible assumption
    | (intro x; try clear_value x)
    | lift_lets
    | (with_reducible first | apply keeps_binderDone | apply keeps_wrN | apply keepsO_ite | apply keepsO | apply keeps_foldl)
    | split

theorem keeps_healthErr {z : State} (s : State) (hk : Keeps z s) : Keeps z (healthErr s) := by
  unfold healthErr
  repeat' first | (with_reducible apply keeps_mk; with_reducible assumption)

theorem keeps_reloadCluster {z : State} (s : State) (c : Nat) (hk : Keeps z s) : Keeps z (reloadCluster s c) := by
  unfold reloadCluster
  repeat' first
    | with_reducible assumption
    | (intro x; (have hx : Keeps z x := (by repeat' first | with_reducible assumption | intro _ | (with_reducible first | apply keeps_advGen | apply keeps_bump | apply keeps_setFld | apply keeps_setUnitState | apply keeps_wrN | apply keeps_ite | apply keeps_foldl)); clear_value x))
    | lift_lets
    | with_reducible apply keeps_irq

theorem keeps_execCcReload {z : State} (c q : Nat) (s : State) (hk : Keeps z s) : KeepsO z (execCcReload c q s) := by
  unfold execCcReload
  repeat' first
    | with_reducible assumption
    | (intro x; first | (have hx : Keeps z x := (by repeat' first | with_reducible assumption | intro _ | (with_reducible first | apply keeps_healthErr | apply keeps_inPart | apply keeps_recErr | apply keeps_setUnitState | apply keeps_foldl)); clear_value x) | try clear_value x)
    | lift_lets
    | (with_reducible first | apply keeps_binderDone | apply keeps_reloadCluster | apply keepsO_ite | apply keepsO | apply keeps_foldl)
    | split

end Sys2Proof.Laws
end

