-- ==== Sys2Proof/Laws/KeepsManage.lean ====
section
/-!
SUPPORT. One lemma for each operation of links, recovery, security, update, debug, the register bus and the start sequence: applied in a state reached from z, it answers one that is reached so (Laws/KeepsBase.lean).
-/
namespace Sys2Proof.Laws
open Sys2Proof Sys2Proof.Machine

theorem keeps_updLnk {z : State} (s : State) (p : Nat) (f : LinkSt → LinkSt) (hk : Keeps z s) : Keeps z (updLnk s p f) := by
  unfold updLnk
  repeat' first | (with_reducible apply keeps_mk; with_reducible assumption)

theorem keeps_updRbar {z : State} (s : State) (b : Nat) (f : RbarSt → RbarSt) (hk : Keeps z s) : Keeps z (updRbar s b f) := by
  unfold updRbar
  repeat' first | (with_reducible apply keeps_mk; with_reducible assumption)

theorem keeps_setLnkState {z : State} (s : State) (p st : Nat) (hk : Keeps z s) : Keeps z (setLnkState s p st) := by
  unfold setLnkState
  repeat' first | (with_reducible first | assumption | apply keeps_setFld)

theorem keeps_countEntry {z : State} (s : State) (a : Nat) (hk : Keeps z s) : Keeps z (countEntry s a) := by
  unfold countEntry
  repeat' first | (with_reducible first | assumption | apply keeps_tabWrite)

theorem keeps_failover {z : State} (s : State) (p : Nat) (hk : Keeps z s) : Keeps z (failover s p) := by
  unfold failover
  repeat' first
    | with_reducible assumption
    | (intro x; first | (have hx : Keeps z x := (by repeat' first | (with_reducible first | assumption | apply keeps_updLnk)); clear_value x) | try clear_value x)
    | lift_lets
    | (with_reducible first | apply keeps_bump | apply keeps_irq | apply keeps_notice | apply keeps_ite)

theorem keeps_bufferFlits {z : State} (s : State) (p : Nat) (f : Frame) (hk : Keeps z s) : Keeps z (bufferFlits s p f) := by
  unfold bufferFlits
  repeat' first | with_reducible assumption | (intro x; try clear_value x) | lift_lets | with_reducible apply keeps_updLnk

theorem keeps_sendOn {z : State} (inp : Option Nat) (dl : List Nat) (f : Frame) (s : State) (p : Nat) (hk : Keeps z s) : Keeps z (sendOn inp
    dl f s p) := by
  unfold sendOn
  repeat' first
    | with_reducible assumption
    | (intro x; first | (have hx : Keeps z x := (by repeat' first | (with_reducible first | assumption | apply keeps_bump)); clear_value x) | try clear_value x)
    | lift_lets
    | (with_reducible first | apply keeps_bufferFlits | apply keeps_bump | apply keeps_ite)
    | (with_reducible apply keeps_mk; with_reducible assumption)

theorem keeps_sendCopies {z : State} (s : State) (inp : Option Nat) (dl out0 : List Nat) (f : Frame) (hk : Keeps z s) : Keeps z (sendCopies
    s inp dl out0 f) := by
  unfold sendCopies
  repeat' first
    | with_reducible assumption
    | (intro x; first | (have hx : Keeps z x := (by repeat' first | with_reducible assumption | intro _ | (with_reducible first | apply keeps_sendOn | apply keeps_foldl)); clear_value x) | try clear_value x)
    | lift_lets
    | (with_reducible first | apply keeps_bump | apply keeps_ite)

theorem keeps_relayRx {z : State} (s : State) (f : Frame) (hk : Keeps z s) : Keeps z (relayRx s f) := by
  unfold relayRx
  repeat' first
    | with_reducible assumption
    | (intro x; first | (have hx : Keeps z x := (by repeat' first | (with_reducible first | assumption | apply keeps_hostWrite | apply keeps_setFld)); clear_value x) | try clear_value x)
    | lift_lets
    | (with_reducible first | apply keeps_bump | apply keeps_irq | apply keeps_ite)
    | (with_reducible apply keeps_mk; with_reducible assumption)

theorem keeps_deliverFrame {z : State} (s : State) (f : Frame) (hk : Keeps z s) : Keeps z (deliverFrame s f) := by
  unfold deliverFrame
  repeat' first
    | with_reducible assumption
    | (intro x; first | (have hx : Keeps z x := (by repeat' first | (with_reducible first | assumption | apply keeps_bump)); clear_value x) | try clear_value x)
    | lift_lets
    | (with_reducible first | apply keeps_bump | apply keeps_relayRx | apply keeps_ite)
    | (with_reducible apply keeps_mk; with_reducible assumption)

theorem keeps_half {z : State} (s : State) (d : Int) (hk : Keeps z s) : Keeps z (half s d).2 := by
  unfold half
  repeat' first | (with_reducible first | assumption | apply keeps_drawNat) | split

theorem keeps_helloTimes {z : State} (s : State) (p t1 t2 t3 t4 : Nat) (hk : Keeps z s) : Keeps z (helloTimes s p t1 t2 t3 t4) := by
  unfold helloTimes
  repeat' first
    | with_reducible assumption
    | (intro x; try clear_value x)
    | lift_lets
    | (with_reducible first | apply keeps_half | apply keeps_wrN | apply keeps_wrS)

theorem keeps_takeHello {z : State} (s : State) (p : Nat) (f : Frame) (hk : Keeps z s) : Keeps z (takeHello s p f) := by
  unfold takeHello
  repeat' first
    | with_reducible assumption
    | (intro x; first | (have hx : Keeps z x := (by repeat' first | with_reducible assumption | intro _ | (with_reducible first | apply keeps_helloTimes | apply keeps_irq | apply keeps_notice | apply keeps_setFlag | apply keeps_setLnkState | apply keeps_updLnk | apply keeps_wr64 | apply keeps_wrN | apply keeps_ite)); clear_value x) | try clear_value x)
    | lift_lets
    | (with_reducible first | apply keeps_irq | apply keeps_notice | apply keeps_ite)

theorem keeps_noRoute {z : State} (s : State) (hk : Keeps z s) : Keeps z (noRoute s) := by
  unfold noRoute
  repeat' first | (with_reducible first | assumption | apply keeps_bump | apply keeps_irq)

theorem keeps_routeFrame {z : State} (s : State) (inp : Option Nat) (f : Frame) (hk : Keeps z s) : Keeps z (routeFrame s inp f) := by
  unfold routeFrame
  repeat' first
    | with_reducible assumption
    | (intro x; first | (have hx : Keeps z x := (by repeat' first | with_reducible assumption | intro _ | (with_reducible first | apply keeps_countEntry | apply keeps_deliverFrame | apply keeps_ite)); clear_value x) | try clear_value x)
    | lift_lets
    | (with_reducible first | apply keeps_bump | apply keeps_deliverFrame | apply keeps_noRoute | apply keeps_sendCopies | apply keeps_takeHello | apply keeps_ite)
    | split

theorem keeps_arriveFrame {z : State} (s : State) (p : Nat) (f : Frame) (hk : Keeps z s) : Keeps z (arriveFrame s p f) := by
  unfold arriveFrame
  repeat' first
    | with_reducible assumption
    | (intro x; first | (have hx : Keeps z x := (by repeat' first | with_reducible assumption | intro _ | (with_reducible first | apply keeps_bump | apply keeps_updLnk | apply keeps_ite)); clear_value x) | try clear_value x)
    | lift_lets
    | (with_reducible first | apply keeps_bump | apply keeps_routeFrame | apply keeps_ite)

theorem keeps_execFrameRoute {z : State} (x : FrameIn) (now : Nat) (s0 : State) (hk : Keeps z s0) : KeepsO z (execFrameRoute x now s0) := by
  unfold execFrameRoute
  repeat' first
    | with_reducible assumption
    | (intro x; first | (have hx : Keeps z x := (by repeat' first | (with_reducible first | assumption | apply keeps_advance)); clear_value x) | try clear_value x)
    | lift_lets
    | (with_reducible first | apply keeps_arriveFrame | apply keeps_routeFrame | apply keepsO_ite | apply keepsO)
    | split
    | (with_reducible apply keeps_mk; with_reducible assumption)

theorem keeps_execLinkSignalDetect {z : State} (p now : Nat) (s0 : State) (hk : Keeps z s0) : KeepsO z (execLinkSignalDetect p now s0) := by
  unfold execLinkSignalDetect
  repeat' first
    | with_reducible assumption
    | (intro x; first | (have hx : Keeps z x := (by repeat' first | (with_reducible first | assumption | apply keeps_advance)); clear_value x) | try clear_value x)
    | lift_lets
    | (with_reducible first | apply keeps_setLnkState | apply keeps_updLnk | apply keepsO_ite | apply keepsO)

theorem keeps_execLinkTrained {z : State} (p lanes now : Nat) (s0 : State) (hk : Keeps z s0) : KeepsO z (execLinkTrained p lanes now s0) :=
    by
  unfold execLinkTrained
  repeat' first
    | with_reducible assumption
    | (intro x; first | (have hx : Keeps z x := (by repeat' first | (with_reducible first | assumption | apply keeps_advance | apply keeps_setFlag | apply keeps_setFld | apply keeps_setLnkState)); clear_value x) | try clear_value x)
    | lift_lets
    | (with_reducible first | apply keeps_setFld | apply keepsO_ite | apply keepsO)

theorem keeps_trainFailed {z : State} (s : State) (p : Nat) (hk : Keeps z s) : Keeps z (trainFailed s p) := by
  unfold trainFailed
  repeat' first
    | with_reducible assumption
    | (intro x; first | (have hx : Keeps z x := (by repeat' first | (with_reducible first | assumption | apply keeps_setFld)); clear_value x) | try clear_value x)
    | lift_lets
    | (with_reducible first | apply keeps_setLnkState | apply keeps_updLnk | apply keeps_ite)

theorem keeps_execLinkTrainTimeout {z : State} (p now : Nat) (s0 : State) (hk : Keeps z s0) : KeepsO z (execLinkTrainTimeout p now s0) := by
  unfold execLinkTrainTimeout
  repeat' first
    | with_reducible assumption
    | (intro x; first | (have hx : Keeps z x := (by repeat' first | (with_reducible first | assumption | apply keeps_advance)); clear_value x) | try clear_value x)
    | lift_lets
    | (with_reducible first | apply keeps_trainFailed | apply keepsO_ite | apply keepsO)

theorem keeps_execLinkFaultRetry {z : State} (p now : Nat) (s0 : State) (hk : Keeps z s0) : KeepsO z (execLinkFaultRetry p now s0) := by
  unfold execLinkFaultRetry
  repeat' first
    | with_reducible assumption
    | (intro x; first | (have hx : Keeps z x := (by repeat' first | (with_reducible first | assumption | apply keeps_advance)); clear_value x) | try clear_value x)
    | lift_lets
    | (with_reducible first | apply keeps_setLnkState | apply keeps_updLnk | apply keepsO_ite | apply keepsO)

theorem keeps_portFall {z : State} (s : State) (p st : Nat) (hk : Keeps z s) : Keeps z (portFall s p st) := by
  unfold portFall
  repeat' first | (with_reducible first | assumption | apply keeps_failover | apply keeps_setFld | apply keeps_setLnkState)

theorem keeps_linkFalls {z : State} (s : State) (p : Nat) (hk : Keeps z s) : Keeps z (linkFalls s p) := by
  unfold linkFalls
  repeat' first | (with_reducible first | assumption | apply keeps_bump | apply keeps_irq | apply keeps_notice | apply keeps_portFall)

theorem keeps_execLinkDown {z : State} (p : Nat) (why : LinkLoss) (now : Nat) (s0 : State) (hk : Keeps z s0) : KeepsO z (execLinkDown p why
    now s0) := by
  unfold execLinkDown
  repeat' first
    | with_reducible assumption
    | (intro x; first | (have hx : Keeps z x := (by repeat' first | (with_reducible first | assumption | apply keeps_advance)); clear_value x) | try clear_value x)
    | lift_lets
    | (with_reducible first | apply keeps_linkFalls | apply keepsO_ite | apply keepsO)

theorem keeps_execFailback {z : State} (p now : Nat) (s0 : State) (hk : Keeps z s0) : KeepsO z (execFailback p now s0) := by
  unfold execFailback
  repeat' first
    | with_reducible assumption
    | (intro x; first | (have hx : Keeps z x := (by repeat' first | (with_reducible first | assumption | apply keeps_advance)); clear_value x) | try clear_value x)
    | lift_lets
    | (with_reducible first | apply keeps_updLnk | apply keepsO_ite | apply keepsO)

theorem keeps_execFecUncorrectable {z : State} (p : Nat) (s : State) (hk : Keeps z s) : KeepsO z (execFecUncorrectable p s) := by
  unfold execFecUncorrectable
  repeat' first
    | with_reducible assumption
    | intro _
    | (with_reducible first | apply keeps_bump | apply keeps_updLnk | apply keepsO_ite | apply keepsO)

theorem keeps_execNak {z : State} (p n now : Nat) (s0 : State) (hk : Keeps z s0) : KeepsO z (execNak p n now s0) := by
  unfold execNak
  repeat' first
    | with_reducible assumption
    | (intro x; first | (have hx : Keeps z x := (by repeat' first | (with_reducible first | assumption | apply keeps_advance)); clear_value x) | try clear_value x)
    | lift_lets
    | (with_reducible first | apply keeps_bump | apply keeps_updLnk | apply keepsO_ite | apply keepsO)
    | split

theorem keeps_execHelloSend {z : State} (p now : Nat) (s0 : State) (hk : Keeps z s0) : KeepsO z (execHelloSend p now s0) := by
  unfold execHelloSend
  repeat' first
    | with_reducible assumption
    | (intro x; first | (have hx : Keeps z x := (by repeat' first | (with_reducible first | assumption | apply keeps_advance | apply keeps_bump) | (with_reducible apply keeps_mk; with_reducible assumption)); clear_value x) | try clear_value x)
    | lift_lets
    | (with_reducible first | apply keeps_bufferFlits | apply keeps_updLnk | apply keepsO_ite | apply keepsO)

theorem keeps_execHello {z : State} (p : Nat) (f : Frame) (now : Nat) (s0 : State) (hk : Keeps z s0) : KeepsO z (execHello p f now s0) := by
  unfold execHello
  repeat' first
    | with_reducible assumption
    | (intro x; first | (have hx : Keeps z x := (by repeat' first | (with_reducible first | assumption | apply keeps_advance)); clear_value x) | try clear_value x)
    | lift_lets
    | (with_reducible first | apply keeps_arriveFrame | apply keepsO_ite | apply keepsO)

theorem keeps_execPeerSilent {z : State} (p now : Nat) (s0 : State) (hk : Keeps z s0) : KeepsO z (execPeerSilent p now s0) := by
  unfold execPeerSilent
  repeat' first
    | with_reducible assumption
    | (intro x; first | (have hx : Keeps z x := (by repeat' first | (with_reducible first | assumption | apply keeps_advance)); clear_value x) | try clear_value x)
    | lift_lets
    | (with_reducible first | apply keeps_bump | apply keeps_notice | apply keeps_setFlag | apply keepsO_ite | apply keepsO)

theorem keeps_takeInbox {z : State} (s : State) (pick : Frame → Bool) (hk : Keeps z s) : KeepsF z (takeInbox s pick) := by
  unfold takeInbox
  repeat' first
    | (with_reducible first | exact keepsF_none | apply keepsF_some)
    | split
    | (with_reducible apply keeps_mk; with_reducible assumption)

theorem keeps_execCmd {z : State} (s : State) (hk : Keeps z s) : KeepsO z (execCmd s) := by
  unfold execCmd
  repeat' first
    | with_reducible assumption
    | (intro x; try clear_value x)
    | lift_lets
    | (with_reducible first | apply keeps_submit | apply keeps_takeInbox | apply keeps_winDenied | apply keepsO_ite | apply keepsO)
    | split
    | apply keeps_someF (by with_reducible assumption)
    | dsimp only
    | fail

theorem keeps_bulkAnswer {z : State} (s : State) (f : Frame) (op status : Nat) (data : List Byte) (hk : Keeps z s) : Keeps z (bulkAnswer s f
    op status data) := by
  unfold bulkAnswer
  repeat' first | (with_reducible first | assumption | apply keeps_sendFrame)

theorem keeps_execBulkWrite {z : State} (s : State) (hk : Keeps z s) : KeepsO z (execBulkWrite s) := by
  unfold execBulkWrite
  repeat' first
    | with_reducible assumption
    | (intro x; try clear_value x)
    | lift_lets
    | (with_reducible first | apply keeps_bulkAnswer | apply keeps_memWrite | apply keeps_takeInbox | apply keepsO_ite | apply keepsO)
    | split
    | apply keeps_someF (by with_reducible assumption)
    | dsimp only
    | fail

theorem keeps_execBulkRead {z : State} (s : State) (hk : Keeps z s) : KeepsO z (execBulkRead s) := by
  unfold execBulkRead
  repeat' first
    | with_reducible assumption
    | (intro x; try clear_value x)
    | lift_lets
    | (with_reducible first | apply keeps_bulkAnswer | apply keeps_takeInbox | apply keepsO_ite | apply keepsO)
    | split
    | apply keeps_someF (by with_reducible assumption)
    | dsimp only
    | fail

theorem keeps_execHeartbeat {z : State} (now : Nat) (s0 : State) (hk : Keeps z s0) : KeepsO z (execHeartbeat now s0) := by
  unfold execHeartbeat
  repeat' first
    | with_reducible assumption
    | (intro x; first | (have hx : Keeps z x := (by repeat' first | (with_reducible first | assumption | apply keeps_advance)); clear_value x) | try clear_value x)
    | lift_lets
    | (with_reducible first | apply keeps_sendFrame | apply keepsO_ite | apply keepsO)
    | (with_reducible apply keeps_mk; with_reducible assumption)

theorem keeps_relayTx {z : State} (s : State) (head : Nat) (slots : List (List Byte)) (hk : Keeps z s) : Keeps z (relayTx s head slots) :=
    by
  unfold relayTx
  repeat' first
    | with_reducible assumption
    | (intro x; first | (have hx : Keeps z x := (by repeat' first | with_reducible assumption | intro _ | (with_reducible first | apply keeps_bump | apply keeps_foldl) | split | (with_reducible apply keeps_mk; with_reducible assumption)); clear_value x) | try clear_value x)
    | lift_lets
    | with_reducible apply keeps_setFld

theorem keeps_relayHead {z : State} (s : State) (v : Word) (slots : List (List Byte)) (hk : Keeps z s) : Keeps z (relayHead s v slots) := by
  unfold relayHead
  repeat' first
    | with_reducible assumption
    | (intro x; first | (have hx : Keeps z x := (by repeat' first | (with_reducible first | assumption | apply keeps_setFld)); clear_value x) | try clear_value x)
    | lift_lets
    | (with_reducible first | apply keeps_relayTx | apply keeps_ite)

theorem keeps_execRelayTxHeadWrite {z : State} (w : Who) (v : Word) (slots : List (List Byte)) (s : State) (hk : Keeps z s) : KeepsO z
    (execRelayTxHeadWrite w v slots s) := by
  unfold execRelayTxHeadWrite
  repeat' first | with_reducible assumption | intro _ | (with_reducible first | apply keeps_guardW | apply keeps_relayHead | apply keepsO)

theorem keeps_execRelayIrq {z : State} (now : Nat) (s0 : State) (hk : Keeps z s0) : KeepsO z (execRelayIrq now s0) := by
  unfold execRelayIrq
  repeat' first
    | with_reducible assumption
    | (intro x; first | (have hx : Keeps z x := (by repeat' first | (with_reducible first | assumption | apply keeps_advance)); clear_value x) | try clear_value x)
    | lift_lets
    | (with_reducible first | apply keeps_sendMsix | apply keepsO_ite | apply keepsO)
    | (with_reducible apply keeps_mk; with_reducible assumption)

theorem keeps_passCairn {z : State} (b p : Nat) (s : State) (c : Nat × Nat) (hk : Keeps z s) : Keeps z (passCairn b p s c) := by
  unfold passCairn
  repeat' first
    | with_reducible assumption
    | (intro x; (have hx : Keeps z x := (by repeat' first | (with_reducible first | assumption | apply keeps_updRbar)); clear_value x))
    | lift_lets
    | with_reducible apply keeps_inject

theorem keeps_passHeld {z : State} (s : State) (b p : Nat) (hk : Keeps z s) : Keeps z (passHeld s b p) := by
  unfold passHeld
  repeat' first
    | with_reducible assumption
    | intro _
    | (with_reducible first | apply keeps_passCairn | apply keeps_updRbar | apply keeps_foldl)

theorem keeps_remoteEvent {z : State} (s0 : State) (b n0 : Nat) (hk : Keeps z s0) : Keeps z (remoteEvent s0 b n0) := by
  unfold remoteEvent
  repeat' first
    | with_reducible assumption
    | (intro x; first | (have hx : Keeps z x := (by repeat' first | with_reducible assumption | intro _ | (with_reducible first | apply keeps_bumpPulse | apply keeps_passHeld | apply keeps_updRbar | apply keeps_ite) | (with_reducible apply keeps_mk; with_reducible assumption)); clear_value x) | try clear_value x)
    | lift_lets
    | with_reducible apply keeps_inject

theorem keeps_remoteWord {z : State} (b : Nat) (s : State) (n : Nat) (hk : Keeps z s) : Keeps z (remoteWord b s n) := by
  unfold remoteWord
  repeat' first
    | with_reducible assumption
    | (intro x; first | (have hx : Keeps z x := (by repeat' first | (with_reducible first | assumption | apply keeps_passHeld)); clear_value x) | try clear_value x)
    | lift_lets
    | (with_reducible first | apply keeps_inject | apply keeps_remoteEvent | apply keeps_updRbar | apply keeps_ite)
    | split

theorem keeps_remoteAmend {z : State} (s : State) (b : Nat) (bs : List Byte) (hk : Keeps z s) : Keeps z (remoteAmend s b bs) := by
  unfold remoteAmend
  repeat' first
    | with_reducible assumption
    | (intro x; first | (have hx : Keeps z x := (by repeat' first | (with_reducible first | assumption | apply keeps_updBar)); clear_value x) | try clear_value x)
    | lift_lets
    | (with_reducible first | apply keeps_bump | apply keeps_irq | apply keeps_writeAmend)
    | split

theorem keeps_streamBody {z : State} (s : State) (b : Nat) (f : Frame) (hk : Keeps z s) : Keeps z (streamBody s b f) := by
  unfold streamBody
  repeat' first
    | with_reducible assumption
    | (intro x; try clear_value x)
    | lift_lets
    | (with_reducible first | apply keeps_publish | apply keeps_remoteAmend | apply keeps_remoteWord | apply keeps_updBar | apply keeps_ite | apply keeps_foldl)

theorem keeps_takeStream {z : State} (f : Frame) (s : State) (b : Nat) (hk : Keeps z s) : Keeps z (takeStream f s b) := by
  unfold takeStream
  repeat' first
    | with_reducible assumption
    | (intro x; first | (have hx : Keeps z x := (by repeat' first | with_reducible assumption | intro _ | (with_reducible first | apply keeps_bump | apply keeps_endJobs | apply keeps_irq | apply keeps_notice | apply keeps_updRbar | apply keeps_wrN | apply keeps_ite)); clear_value x) | try clear_value x)
    | lift_lets
    | (with_reducible first | apply keeps_bump | apply keeps_irq | apply keeps_streamBody | apply keeps_ite)

theorem keeps_execStream {z : State} (now : Nat) (s0 : State) (hk : Keeps z s0) : KeepsO z (execStream now s0) := by
  unfold execStream
  repeat' first
    | with_reducible assumption
    | (intro x; first | (have hx : Keeps z x := (by repeat' first | (with_reducible first | assumption | apply keeps_advance)); clear_value x) | try clear_value x)
    | lift_lets
    | (with_reducible first | apply keeps_takeInbox | apply keeps_takeStream | apply keepsO_ite | apply keepsO | apply keeps_foldl)
    | split
    | apply keeps_someF (by with_reducible assumption)
    | fail

theorem keeps_lnkCfgWrite {z : State} (s : State) (w : Who) (p : Nat) (v : Word) (hk : Keeps z s) : Keeps z (lnkCfgWrite s w p v) := by
  unfold lnkCfgWrite
  repeat' first
    | with_reducible assumption
    | (intro x; first | (have hx : Keeps z x := (by repeat' first | (with_reducible first | assumption | apply keeps_plainWrite | apply keeps_setFlag)); clear_value x) | try clear_value x)
    | lift_lets
    | (with_reducible first | apply keeps_portFall | apply keeps_setLnkState | apply keeps_wErr | apply keeps_ite)

theorem keeps_relayCfgWrite {z : State} (s : State) (w : Who) (v : Word) (hk : Keeps z s) : Keeps z (relayCfgWrite s w v) := by
  unfold relayCfgWrite
  repeat' first
    | with_reducible assumption
    | (intro x; first | (have hx : Keeps z x := (by repeat' first | (with_reducible first | assumption | apply keeps_plainWrite)); clear_value x) | try clear_value x)
    | lift_lets
    | (with_reducible first | apply keeps_relayTx | apply keeps_setFlag | apply keeps_wErr | apply keeps_ite)

theorem keeps_rbarStart {z : State} (s : State) (b : Nat) (hk : Keeps z s) : Keeps z (rbarStart s b) := by
  unfold rbarStart
  repeat' first | (with_reducible apply keeps_mk; with_reducible assumption)

theorem keeps_fwdStart {z : State} (s : State) (b : Nat) (hk : Keeps z s) : Keeps z (fwdStart s b) := by
  unfold fwdStart
  repeat' first
    | with_reducible assumption
    | (intro x; try clear_value x)
    | lift_lets
    | (with_reducible first | apply keeps_setSrc | apply keeps_foldl)

theorem keeps_lnkMainWrite {z : State} (s : State) (w : Who) (a : Nat) (v : Word) (hk : Keeps z s) : Keeps z (lnkMainWrite s w a v) := by
  unfold lnkMainWrite
  repeat' first
    | with_reducible assumption
    | (intro x; try clear_value x)
    | lift_lets
    | (with_reducible first | apply keeps_enWrite | apply keeps_fwdStart | apply keeps_plainWrite | apply keeps_rbarStart | apply keeps_relayCfgWrite | apply keeps_relayHead | apply keeps_setFld | apply keeps_staticWrite | apply keeps_wErr | apply keeps_ite)
    | split

theorem keeps_lnkWrite {z : State} (s : State) (w : Who) (a : Nat) (v : Word) (hk : Keeps z s) : Keeps z (lnkWrite s w a v) := by
  unfold lnkWrite
  repeat' first
    | with_reducible assumption
    | intro _
    | (with_reducible first | apply keeps_lnkCfgWrite | apply keeps_lnkMainWrite | apply keeps_plainWrite | apply keeps_ite)
    | split

theorem keeps_lnkSrst {z : State} (s : State) (pg : Nat) (hk : Keeps z s) : Keeps z (lnkSrst s pg) := by
  unfold lnkSrst
  repeat' first
    | with_reducible assumption
    | (intro x; first | (have hx : Keeps z x := (by repeat' first | (with_reducible first | assumption | apply keeps_softCounters)); clear_value x) | try clear_value x)
    | lift_lets
    | (with_reducible first | apply keeps_portFall | apply keeps_setLnkState | apply keeps_ite)
    | split

theorem keeps_setPhase {z : State} (s : State) (ph : Nat) (hk : Keeps z s) : Keeps z (setPhase s ph) := by
  unfold setPhase
  repeat' first | (with_reducible first | assumption | apply keeps_setFld)

theorem keeps_showSlots {z : State} (s : State) (hk : Keeps z s) : Keeps z (showSlots s) := by
  unfold showSlots
  repeat' first | (with_reducible first | assumption | apply keeps_setFld)

theorem keeps_fillWords {z : State} (s : State) (base : Nat) (ws : List Nat) (hk : Keeps z s) : Keeps z (fillWords s base ws) := by
  unfold fillWords
  repeat' first | with_reducible assumption | intro _ | (with_reducible first | apply keeps_memWrite | apply keeps_foldl)

theorem keeps_dumpErrs {z : State} (s : State) (l : List (Nat × Nat)) (hk : Keeps z s) : Keeps z (dumpErrs s l) := by
  unfold dumpErrs
  repeat' first
    | with_reducible assumption
    | intro _
    | (with_reducible first | apply keeps_correct | apply keeps_sramUe | apply keeps_foldl)

theorem keeps_dumpStep {z : State} (s : State) (t : Trigger) (d : DumpIn) (hk : Keeps z s) : Keeps z (dumpStep s t d) := by
  unfold dumpStep
  repeat' first
    | with_reducible assumption
    | (intro x; first | (have hx : Keeps z x := (by repeat' first | with_reducible assumption | intro _ | (with_reducible first | apply keeps_bump | apply keeps_bumpN | apply keeps_fillWords | apply keeps_memWrite | apply keeps_showSlots | apply keeps_updLad | apply keeps_wrN | apply keeps_ite | apply keeps_foldl)); clear_value x) | try clear_value x)
    | lift_lets
    | (with_reducible first | apply keeps_dumpErrs | apply keeps_irq | apply keeps_notice)

theorem keeps_stopUnits {z : State} (s : State) (t : Trigger) (hk : Keeps z s) : Keeps z (stopUnits s t) := by
  unfold stopUnits
  repeat' first
    | with_reducible assumption
    | (intro x; try clear_value x)
    | lift_lets
    | (with_reducible first | apply keeps_setUnitState | apply keeps_ite | apply keeps_foldl)

theorem keeps_beginStep {z : State} (s0 : State) (t : Trigger) (hk : Keeps z s0) : Keeps z (beginStep s0 t) := by
  unfold beginStep
  repeat' first
    | with_reducible assumption
    | (intro x; (have hx : Keeps z x := (by repeat' first | with_reducible assumption | intro _ | (with_reducible first | apply keeps_addLog | apply keeps_bump | apply keeps_healthErr | apply keeps_irq | apply keeps_setFld | apply keeps_setPhase | apply keeps_stopUnits | apply keeps_updLad | apply keeps_wrN | apply keeps_ite)); clear_value x))
    | lift_lets
    | with_reducible apply keeps_notice

theorem keeps_endResets {z : State} (s : State) (t : Trigger) (status : Nat) (hk : Keeps z s) : Keeps z (endResets s t status) := by
  unfold endResets
  repeat' first | with_reducible assumption | intro _ | (with_reducible first | apply keeps_setStatus | apply keeps_foldl)

theorem keeps_e1Stop {z : State} (s : State) (t : Trigger) (hk : Keeps z s) : Keeps z (e1Stop s t) := by
  unfold e1Stop
  repeat' first
    | with_reducible assumption
    | (intro x; first | (have hx : Keeps z x := (by repeat' first | with_reducible assumption | intro _ | (with_reducible first | apply keeps_rollBack | apply keeps_updCtx | apply keeps_foldl)); clear_value x) | try clear_value x)
    | lift_lets
    | with_reducible apply keeps_updLad

theorem keeps_e1End {z : State} (s : State) (hk : Keeps z s) : Keeps z (e1End s) := by
  unfold e1End
  repeat' first
    | with_reducible assumption
    | (intro x; try clear_value x)
    | lift_lets
    | (with_reducible first | apply keeps_endCmd | apply keeps_markStartable | apply keeps_updCtx | apply keeps_updLad | apply keeps_wrN | apply keeps_ite | apply keeps_foldl)
    | split
    | dsimp only

theorem keeps_enterReset {z : State} (s : State) (pg : Nat) (hk : Keeps z s) : Keeps z (enterReset s pg) := by
  unfold enterReset
  repeat' first | with_reducible assumption | intro _ | (with_reducible first | apply keeps_setUnitState | apply keeps_ite)

theorem keeps_resetTile {z : State} (s : State) (t : Nat) (hk : Keeps z s) : Keeps z (resetTile s t) := by
  unfold resetTile
  repeat' first
    | with_reducible assumption
    | (intro x; (have hx : Keeps z x := (by repeat' first | (with_reducible first | assumption | apply keeps_updLad)); clear_value x))
    | lift_lets
    | (with_reducible first | apply keeps_advGen | apply keeps_dropSlots | apply keeps_enterReset | apply keeps_setAwaiting | apply keeps_tileClear)

theorem keeps_resetCore {z : State} (s : State) (n : Nat) (hk : Keeps z s) : Keeps z (resetCore s n) := by
  unfold resetCore
  repeat' first
    | (intro x; (have hx : Keeps z x := (by repeat' first | (with_reducible first | assumption | apply keeps_ncStop)); clear_value x))
    | lift_lets
    | (with_reducible first | apply keeps_advGen | apply keeps_enterReset | apply keeps_setAwaiting)
    | (with_reducible apply keeps_mk; with_reducible assumption)

theorem keeps_resetCtl {z : State} (s : State) (c : Nat) (hk : Keeps z s) : Keeps z (resetCtl s c) := by
  unfold resetCtl
  repeat' first | (with_reducible first | assumption | apply keeps_advGen | apply keeps_enterReset)

theorem keeps_faultAnchors {z : State} (s : State) (p : Nat) (hk : Keeps z s) : Keeps z (faultAnchors s p) := by
  unfold faultAnchors
  refine keeps_foldl (fun t a h => ?_) _ _ hk
  dsimp only
  exact keeps_setAnc _ _ _ (keeps_ancFault _ _ h)

theorem keeps_dropBinder {z : State} (s : State) (p : Nat) (hk : Keeps z s) : Keeps z (dropBinder s p) := by
  unfold dropBinder
  repeat' first | (with_reducible first | assumption | apply keeps_rollBack | apply keeps_setStatus) | split

theorem keeps_ladderEndJob {z : State} (s : State) (status h : Nat) (hk : Keeps z s) : Keeps z (ladderEndJob s status h) := by
  unfold ladderEndJob
  repeat' first
    | with_reducible assumption
    | intro _
    | (with_reducible first | apply keeps_endJob | apply keeps_notice | apply keeps_ite)
    | split

theorem keeps_ladderEndJobs {z : State} (s : State) (status : Nat) (pick : JobSt → Bool) (hk : Keeps z s) : Keeps z (ladderEndJobs s status
    pick) := by
  unfold ladderEndJobs
  repeat' first | with_reducible assumption | intro _ | (with_reducible first | apply keeps_ladderEndJob | apply keeps_foldl)

theorem keeps_resetPart {z : State} (s : State) (p : Nat) (hk : Keeps z s) : Keeps z (resetPart s p) := by
  unfold resetPart
  repeat' first
    | with_reducible assumption
    | (intro x; (have hx : Keeps z x := (by repeat' first | (with_reducible first | assumption | apply keeps_dropBinder | apply keeps_setFld)); clear_value x))
    | lift_lets
    | (with_reducible first | apply keeps_faultAnchors | apply keeps_ladderEndJobs)

theorem keeps_noteRejoins {z : State} (s : State) (t : Trigger) (hk : Keeps z s) : Keeps z (noteRejoins s t) := by
  unfold noteRejoins
  repeat' first | with_reducible assumption | (intro x; try clear_value x) | lift_lets | with_reducible apply keeps_updLad

theorem keeps_resetUnits {z : State} (s : State) (t : Trigger) (hk : Keeps z s) : Keeps z (resetUnits s t) := by
  unfold resetUnits
  repeat' first
    | with_reducible assumption
    | (intro x; (have hx : Keeps z x := (by repeat' first | with_reducible assumption | intro _ | (with_reducible first | apply keeps_ladderEndJob | apply keeps_resetCore | apply keeps_resetCtl | apply keeps_resetPart | apply keeps_resetTile | apply keeps_ite | apply keeps_foldl)); clear_value x))
    | lift_lets
    | (with_reducible first | apply keeps_setPhase | apply keeps_updLad)

theorem keeps_reloadCtl {z : State} (s : State) (c : Nat) (hk : Keeps z s) : Keeps z (reloadCtl s c) := by
  unfold reloadCtl
  repeat' first
    | with_reducible assumption
    | (intro x; first | (have hx : Keeps z x := (by repeat' first | (with_reducible first | assumption | apply keeps_setFld | apply keeps_wrN)); clear_value x) | try clear_value x)
    | lift_lets
    | (with_reducible first | apply keeps_bump | apply keeps_healthErr | apply keeps_irq | apply keeps_recErr | apply keeps_setUnitState | apply keeps_ite)

theorem keeps_releaseUnits {z : State} (s : State) (t : Trigger) (hk : Keeps z s) : Keeps z (releaseUnits s t) := by
  unfold releaseUnits
  repeat' first
    | with_reducible assumption
    | (intro x; first | (have hx : Keeps z x := (by repeat' first | with_reducible assumption | intro _ | (with_reducible first | apply keeps_reloadCtl | apply keeps_setUnitState | apply keeps_ite | apply keeps_foldl)); clear_value x) | try clear_value x)
    | lift_lets
    | (with_reducible first | apply keeps_setUnitState | apply keeps_ite | apply keeps_foldl)

theorem keeps_halt {z : State} (s : State) (hk : Keeps z s) : Keeps z (halt s) := by
  unfold halt
  repeat' first
    | with_reducible assumption
    | (intro x; first | (have hx : Keeps z x := (by repeat' first | with_reducible assumption | intro _ | (with_reducible first | apply keeps_resetCore | apply keeps_resetCtl | apply keeps_resetTile | apply keeps_setUnitState | apply keeps_ite | apply keeps_foldl)); clear_value x) | try clear_value x)
    | lift_lets
    | (with_reducible first | apply keeps_irq | apply keeps_updLad)

theorem keeps_endRun {z : State} (s : State) (t : Trigger) (status outcome : Nat) (hk : Keeps z s) : Keeps z (endRun s t status outcome) :=
    by
  unfold endRun
  repeat' first
    | with_reducible assumption
    | (intro x; (have hx : Keeps z x := (by repeat' first | (with_reducible first | assumption | apply keeps_endResets | apply keeps_irq | apply keeps_notice)); clear_value x))
    | lift_lets
    | (with_reducible first | apply keeps_setFld | apply keeps_setPhase | apply keeps_updLad)

theorem keeps_beginE5 {z : State} (s : State) (t : Trigger) (hk : Keeps z s) : Keeps z (beginE5 s t) := by
  unfold beginE5
  repeat' first
    | with_reducible assumption
    | intro _
    | (with_reducible first | apply keeps_endRun | apply keeps_halt | apply keeps_notice | apply keeps_ite)

theorem keeps_runStep {z : State} (s : State) (t : Trigger) (hk : Keeps z s) : Keeps z (runStep s t) := by
  unfold runStep
  repeat' first
    | with_reducible assumption
    | (intro x; first | (have hx : Keeps z x := (by repeat' first | (with_reducible first | assumption | apply keeps_beginStep)); clear_value x) | try clear_value x)
    | lift_lets
    | (with_reducible first | apply keeps_beginE5 | apply keeps_e1Stop | apply keeps_ite)

theorem keeps_stepAbove {z : State} (s : State) (t : Trigger) (cause : Nat) (hk : Keeps z s) : Keeps z (stepAbove s t cause) := by
  unfold stepAbove
  repeat' first | (with_reducible first | assumption | apply keeps_runStep)

theorem keeps_resumeStep {z : State} (s : State) (t : Trigger) (hk : Keeps z s) : Keeps z (resumeStep s t) := by
  unfold resumeStep
  repeat' first
    | with_reducible assumption
    | (intro x; first | (have hx : Keeps z x := (by repeat' first | with_reducible assumption | intro _ | (with_reducible first | apply keeps_e1End | apply keeps_noteRejoins | apply keeps_releaseUnits | apply keeps_updLad | apply keeps_ite)); clear_value x) | try clear_value x)
    | lift_lets
    | (with_reducible first | apply keeps_endRun | apply keeps_setPhase | apply keeps_updLad | apply keeps_ite)

theorem keeps_doneStep {z : State} (s : State) (t : Trigger) (hk : Keeps z s) : Keeps z (doneStep s t) := by
  unfold doneStep
  repeat' first
    | with_reducible assumption
    | intro _
    | (with_reducible first | apply keeps_resumeStep | apply keeps_stepAbove | apply keeps_ite)
    | split

theorem keeps_blame {z : State} (s : State) (x : Nat × Nat) (hk : Keeps z s) : Keeps z (blame s x) := by
  unfold blame
  repeat' first
    | with_reducible assumption
    | (intro x; (have hx : Keeps z x := (by repeat' first | (with_reducible first | assumption | apply keeps_bump | apply keeps_irq | apply keeps_setFld | apply keeps_updLad)); clear_value x))
    | lift_lets
    | with_reducible apply keeps_ladderEndJob

theorem keeps_replay {z : State} (s : State) (t : Trigger) (hung : Option Nat) (again : Bool) (hk : Keeps z s) : KeepsP z (replay s t hung
    again) := by
  unfold replay
  repeat' first
    | with_reducible assumption
    | (intro x; first | (have hx : Keeps z x := (by repeat' first | (with_reducible first | assumption | apply keeps_advGen)); clear_value x) | try clear_value x)
    | lift_lets
    | (with_reducible first | apply keeps_blame | apply keeps_bump | exact keepsP_none | apply keepsP_some)
    | split

theorem keeps_startFront {z : State} (s : State) (k : Nat) (hk : Keeps z s) : Keeps z (startFront s k) := by
  unfold startFront
  repeat' first
    | with_reducible assumption
    | intro _
    | (with_reducible first | apply keeps_runStep | apply keeps_showQueue | apply keeps_ite)
    | split
    | (with_reducible apply keeps_mk; with_reducible assumption)

theorem keeps_domainStep {z : State} (s : State) (k : Nat) (y0 : StepIn) (hk : Keeps z s) : Keeps z (domainStep s k y0) := by
  unfold domainStep
  repeat' first
    | with_reducible assumption
    | intro _
    | (with_reducible first | apply keeps_doneStep | apply keeps_dumpStep | apply keeps_lateReply | apply keeps_replay | apply keeps_resetUnits | apply keeps_setPhase | apply keeps_startFront | apply keeps_stepAbove | apply keeps_ite)
    | split
    | apply keeps_some (by with_reducible assumption)
    | fail

theorem keeps_stopCopy {z : State} (s : State) (c q n : Nat) (data : List Byte) (hk : Keeps z s) : Keeps z (stopCopy s c q n data) := by
  unfold stopCopy
  repeat' first
    | with_reducible assumption
    | intro _
    | (with_reducible first | apply keeps_copyBytes | apply keeps_fillBytes | apply keeps_ite)
    | split

theorem keeps_execE1Step {z : State} (x : StepIn) (now : Nat) (s0 : State) (hk : Keeps z s0) : KeepsO z (execE1Step x now s0) := by
  unfold execE1Step
  repeat' first
    | with_reducible assumption
    | (intro x; first | (have hx : Keeps z x := (by repeat' first | (with_reducible first | assumption | apply keeps_advance)); clear_value x) | try clear_value x)
    | lift_lets
    | (with_reducible first | apply keeps_doneStep | apply keeps_startFront | apply keeps_stopCopy | apply keepsO_ite | apply keepsO)
    | split

theorem keeps_execE2Step {z : State} (x : StepIn) (now : Nat) (s0 : State) (hk : Keeps z s0) : KeepsO z (execE2Step x now s0) := by
  unfold execE2Step
  repeat' first | (with_reducible first | assumption | apply keeps_advance | apply keeps_domainStep | apply keepsO)

theorem keeps_execE3Step {z : State} (x : StepIn) (now : Nat) (s0 : State) (hk : Keeps z s0) : KeepsO z (execE3Step x now s0) := by
  unfold execE3Step
  repeat' first | (with_reducible first | assumption | apply keeps_advance | apply keeps_domainStep | apply keepsO)

theorem keeps_execE4Step {z : State} (x : StepIn) (now : Nat) (s0 : State) (hk : Keeps z s0) : KeepsO z (execE4Step x now s0) := by
  unfold execE4Step
  repeat' first | (with_reducible first | assumption | apply keeps_advance | apply keeps_domainStep | apply keepsO)

theorem keeps_addRetry {z : State} (s : State) (x : StoreKind) (hk : Keeps z s) : Keeps z (addRetry s x) := by
  unfold addRetry
  repeat' first | (with_reducible apply keeps_mk; with_reducible assumption)

theorem keeps_logAppend {z : State} (s : State) (v : Nat) (bs : List Byte) (hk : Keeps z s) : Keeps z (logAppend s v bs).1 := by
  unfold logAppend
  repeat' first
    | with_reducible assumption
    | (intro x; try clear_value x)
    | lift_lets
    | with_reducible apply keeps_store
    | split
    | (with_reducible apply keeps_mk; with_reducible apply keeps_store)
    | dsimp -zeta only

theorem keeps_logStore {z : State} (s : State) (v : Nat) (bs : List Byte) (hk : Keeps z s) : Keeps z (logStore s v bs).1 := by
  unfold logStore
  repeat' first
    | (with_reducible first | assumption | apply keeps_addRetry | apply keeps_logAppend)
    | split
    | apply keeps_fst (by with_reducible assumption)
    | fail

theorem keeps_execE5Step {z : State} (x : StepIn) (now : Nat) (s0 : State) (hk : Keeps z s0) : KeepsO z (execE5Step x now s0) := by
  unfold execE5Step
  repeat' first
    | with_reducible assumption
    | (intro x; first | (have hx : Keeps z x := (by repeat' first | (with_reducible first | assumption | apply keeps_advance)); clear_value x) | try clear_value x)
    | lift_lets
    | (with_reducible first | apply keeps_addLog | apply keeps_logAppend | apply keeps_startFront | apply keeps_updPwr | apply keeps_ite | apply keepsO_ite | apply keepsO)
    | split

theorem keeps_execStepTimeout {z : State} (now : Nat) (s0 : State) (hk : Keeps z s0) : KeepsO z (execStepTimeout now s0) := by
  unfold execStepTimeout
  repeat' first
    | with_reducible assumption
    | (intro x; first | (have hx : Keeps z x := (by repeat' first | (with_reducible first | assumption | apply keeps_advance)); clear_value x) | try clear_value x)
    | lift_lets
    | (with_reducible first | apply keeps_stepAbove | apply keepsO_ite | apply keepsO)
    | split

theorem keeps_execPwrcycHoldExpiry {z : State} (now : Nat) (s0 : State) (hk : Keeps z s0) : KeepsO z (execPwrcycHoldExpiry now s0) := by
  unfold execPwrcycHoldExpiry
  repeat' first
    | with_reducible assumption
    | (intro x; first | (have hx : Keeps z x := (by repeat' first | (with_reducible first | assumption | apply keeps_advance | apply keeps_updPwr)); clear_value x) | try clear_value x)
    | lift_lets
    | (with_reducible first | apply keeps_endRun | apply keeps_halt | apply keepsO_ite | apply keepsO)
    | split

theorem keeps_emptyQueue {z : State} (h : Nat) (lost : List Nat) (s : State) (t q : Nat) (hk : Keeps z s) : Keeps z (emptyQueue h lost s t
    q) := by
  unfold emptyQueue
  repeat' first
    | with_reducible assumption
    | (intro x; first | (have hx : Keeps z x := (by repeat' first | with_reducible assumption | intro _ | (with_reducible first | apply keeps_finishCmd | apply keeps_updQueue | apply keeps_updTile | apply keeps_ite | apply keeps_foldl)); clear_value x) | try clear_value x)
    | lift_lets
    | with_reducible apply keeps_noteHead

theorem keeps_emptyLost {z : State} (s : State) (j : JobSt) (lost : List Nat) (hk : Keeps z s) : Keeps z (emptyLost s j lost) := by
  unfold emptyLost
  repeat' first | with_reducible assumption | intro _ | (with_reducible first | apply keeps_emptyQueue | apply keeps_foldl)

theorem keeps_restage {z : State} (s : State) (j : JobSt) (u point : Nat) (hk : Keeps z s) : Keeps z (restage s j u point) := by
  unfold restage
  repeat' first
    | with_reducible assumption
    | (intro x; first | (have hx : Keeps z x := (by repeat' first | with_reducible assumption | intro _ | (with_reducible first | apply keeps_openCore | apply keeps_setAwaiting | apply keeps_sramWrite | apply keeps_wrN | apply keeps_foldl)); clear_value x) | try clear_value x)
    | lift_lets
    | (with_reducible first | apply keeps_showN | apply keeps_updJob | apply keeps_updNc | apply keeps_ite)

theorem keeps_rejoin {z : State} (s : State) (r : Rejoin) (hk : Keeps z s) : Keeps z (rejoin s r) := by
  unfold rejoin
  repeat' first
    | with_reducible assumption
    | (intro x; first | (have hx : Keeps z x := (by repeat' first | (with_reducible first | assumption | apply keeps_emptyLost | apply keeps_restage | apply keeps_updJob)); clear_value x) | try clear_value x)
    | lift_lets
    | (with_reducible first | apply keeps_sigAdd | apply keeps_foldl)
    | split

theorem keeps_execUnitRejoin {z : State} (u now : Nat) (s0 : State) (hk : Keeps z s0) : KeepsO z (execUnitRejoin u now s0) := by
  unfold execUnitRejoin
  repeat' first
    | with_reducible assumption
    | (intro x; first | (have hx : Keeps z x := (by repeat' first | with_reducible assumption | intro _ | (with_reducible first | apply keeps_advance | apply keeps_notice | apply keeps_rejoin | apply keeps_setStatus | apply keeps_updLad | apply keeps_ite | apply keeps_foldl)); clear_value x) | try clear_value x)
    | lift_lets
    | (with_reducible first | apply keeps_endRun | apply keepsO_ite | apply keepsO)
    | split

theorem keeps_execUnitError {z : State} (n : Nat) (s : State) (hk : Keeps z s) : KeepsO z (execUnitError n s) := by
  unfold execUnitError
  repeat' first | with_reducible assumption | intro _ | (with_reducible first | apply keeps_autoTrigger | apply keepsO_ite | apply keepsO)

theorem keeps_execRecHeartbeat {z : State} (now : Nat) (s0 : State) (hk : Keeps z s0) : KeepsO z (execRecHeartbeat now s0) := by
  unfold execRecHeartbeat
  repeat' first
    | with_reducible assumption
    | (intro x; first | (have hx : Keeps z x := (by repeat' first | (with_reducible first | assumption | apply keeps_advance)); clear_value x) | try clear_value x)
    | lift_lets
    | (with_reducible first | apply keeps_bumpWrap | apply keeps_updLad | apply keepsO_ite | apply keepsO)

theorem keeps_execWardenWdt {z : State} (v now : Nat) (s0 : State) (hk : Keeps z s0) : KeepsO z (execWardenWdt v now s0) := by
  unfold execWardenWdt
  repeat' first
    | with_reducible assumption
    | (intro x; first | (have hx : Keeps z x := (by repeat' first | (with_reducible first | assumption | apply keeps_advance)); clear_value x) | try clear_value x)
    | lift_lets
    | (with_reducible first | apply keeps_logAppend | apply keeps_updLad | apply keeps_updPwr | apply keepsO_ite | apply keepsO)
    | split

theorem keeps_reloadHelper {z : State} (s : State) (h : Nat) (hk : Keeps z s) : Keeps z (reloadHelper s h) := by
  unfold reloadHelper
  repeat' first
    | with_reducible assumption
    | (intro x; first | (have hx : Keeps z x := (by repeat' first | (with_reducible first | assumption | apply keeps_bump | apply keeps_healthErr | apply keeps_notice | apply keeps_updLad)); clear_value x) | try clear_value x)
    | lift_lets
    | (with_reducible first | apply keeps_autoTrigger | apply keeps_reloadCtl | apply keeps_ite)

theorem keeps_execHelperWdt {z : State} (h now : Nat) (s0 : State) (hk : Keeps z s0) : KeepsO z (execHelperWdt h now s0) := by
  unfold execHelperWdt
  repeat' first
    | with_reducible assumption
    | (intro x; first | (have hx : Keeps z x := (by repeat' first | (with_reducible first | assumption | apply keeps_advance)); clear_value x) | try clear_value x)
    | lift_lets
    | (with_reducible first | apply keeps_autoTrigger | apply keeps_reloadHelper | apply keepsO_ite | apply keepsO)
    | split

theorem keeps_execReset {z : State} (c q : Nat) (s : State) (hk : Keeps z s) : KeepsO z (execReset c q s) := by
  unfold execReset
  repeat' first
    | with_reducible assumption
    | (intro x; try clear_value x)
    | lift_lets
    | (with_reducible first | apply keeps_setStatus | apply keeps_trigger | apply keepsO_ite | apply keepsO)
    | split

theorem keeps_execDumpCopy {z : State} (c q : Nat) (ok : Bool) (s : State) (hk : Keeps z s) : KeepsO z (execDumpCopy c q ok s) := by
  unfold execDumpCopy
  repeat' first
    | with_reducible assumption
    | intro _
    | (with_reducible first | apply keeps_payOut | apply keeps_setStatus | apply keepsO_ite | apply keepsO)
    | split
    | apply keeps_inr (by with_reducible assumption)
    | fail

theorem keeps_execDumpRelease {z : State} (c q : Nat) (s : State) (hk : Keeps z s) : KeepsO z (execDumpRelease c q s) := by
  unfold execDumpRelease
  repeat' first
    | with_reducible assumption
    | intro _
    | (with_reducible first | apply keeps_setStatus | apply keeps_showSlots | apply keeps_updLad | apply keepsO_ite | apply keepsO)
    | split

theorem keeps_execRejoin {z : State} (c q : Nat) (s : State) (hk : Keeps z s) : KeepsO z (execRejoin c q s) := by
  unfold execRejoin
  repeat' first
    | with_reducible assumption
    | (intro x; try clear_value x)
    | lift_lets
    | (with_reducible first | apply keeps_setStatus | apply keeps_updLad | apply keepsO_ite | apply keepsO)
    | split

theorem keeps_recWrite {z : State} (s : State) (w : Who) (a : Nat) (v : Word) (hk : Keeps z s) : Keeps z (recWrite s w a v) := by
  unfold recWrite
  repeat' first
    | with_reducible assumption
    | intro _
    | (with_reducible first | apply keeps_plainWrite | apply keeps_staticWrite | apply keeps_wErr | apply keeps_ite)

theorem keeps_recSrst {z : State} (s : State) (hk : Keeps z s) : Keeps z (recSrst s) := by
  unfold recSrst
  repeat' first | (with_reducible first | assumption | apply keeps_softRegs)

theorem keeps_showRecord {z : State} (s : State) (c : CfgSt) (hk : Keeps z s) : Keeps z (showRecord s c) := by
  unfold showRecord
  repeat' first
    | with_reducible assumption
    | (intro x; first | (have hx : Keeps z x := (by repeat' first | with_reducible apply keeps_wrN | (with_reducible apply keeps_mk; with_reducible assumption)); clear_value x) | try clear_value x)
    | lift_lets
    | (with_reducible first | apply keeps_setFlag | apply keeps_setFld)

theorem keeps_showIdentity {z : State} (s : State) (seed : Option (List Byte)) (corrected : Nat) (hk : Keeps z s) : Keeps z (showIdentity s
    seed corrected) := by
  unfold showIdentity
  repeat' first
    | with_reducible assumption
    | (intro x; first | (have hx : Keeps z x := (by repeat' first | (with_reducible first | assumption | apply keeps_setFlag | apply keeps_setFld | apply keeps_wr64) | (with_reducible apply keeps_mk; with_reducible assumption)); clear_value x) | try clear_value x)
    | lift_lets
    | with_reducible apply keeps_wrBytes
    | split

theorem keeps_quoteCtrl {z : State} (s : State) (w : Who) (v : Word) (hk : Keeps z s) : Keeps z (quoteCtrl s w v) := by
  unfold quoteCtrl
  repeat' first
    | with_reducible assumption
    | (intro x; first | (have hx : Keeps z x := (by repeat' first | (with_reducible first | assumption | apply keeps_setFld)); clear_value x) | try clear_value x)
    | lift_lets
    | (with_reducible first | apply keeps_setFld | apply keeps_wErr | apply keeps_wrN | apply keeps_ite)
    | (with_reducible apply keeps_mk; with_reducible assumption)

theorem keeps_execQuoteGo {z : State} (w : Who) (v : Word) (s : State) (hk : Keeps z s) : KeepsO z (execQuoteGo w v s) := by
  unfold execQuoteGo
  repeat' first | with_reducible assumption | intro _ | (with_reducible first | apply keeps_guardW | apply keeps_quoteCtrl | apply keepsO)

theorem keeps_execQuoteDone {z : State} (now : Nat) (s0 : State) (hk : Keeps z s0) : KeepsO z (execQuoteDone now s0) := by
  unfold execQuoteDone
  repeat' first
    | with_reducible assumption
    | (intro x; first | (have hx : Keeps z x := (by repeat' first | (with_reducible first | assumption | apply keeps_advance)); clear_value x) | try clear_value x)
    | lift_lets
    | (with_reducible first | apply keeps_irq | apply keeps_wrN | apply keepsO)
    | split
    | (with_reducible apply keeps_mk; with_reducible assumption)

theorem keeps_clearQuote {z : State} (s : State) (hk : Keeps z s) : Keeps z (clearQuote s) := by
  unfold clearQuote
  repeat' first | with_reducible apply keeps_wrN | (with_reducible apply keeps_mk; with_reducible assumption)

theorem keeps_quoteNext {z : State} (s : State) (hk : Keeps z s) : Keeps z (quoteNext s) := by
  unfold quoteNext
  repeat' first | with_reducible assumption | intro _ | (with_reducible first | apply keeps_wrN | apply keeps_ite)

theorem keeps_newChallenge {z : State} (s : State) (hk : Keeps z s) : Keeps z (newChallenge s) := by
  unfold newChallenge
  repeat' first | with_reducible assumption | intro _ | (with_reducible first | apply keeps_wrBytes | apply keeps_ite) | split

theorem keeps_endGrant {z : State} (s : State) (hk : Keeps z s) : Keeps z (endGrant s) := by
  unfold endGrant
  repeat' first
    | with_reducible assumption
    | intro _
    | (with_reducible first | apply keeps_irq | apply keeps_setFlag | apply keeps_setFld | apply keeps_ite)
    | (with_reducible apply keeps_mk; with_reducible assumption)

theorem keeps_execTokenVerified {z : State} (now : Nat) (s0 : State) (hk : Keeps z s0) : KeepsO z (execTokenVerified now s0) := by
  unfold execTokenVerified
  repeat' first
    | with_reducible assumption
    | (intro x; first | (have hx : Keeps z x := (by repeat' first | (with_reducible first | assumption | apply keeps_advance | apply keeps_irq | apply keeps_measureObj | apply keeps_newChallenge | apply keeps_recErr | apply keeps_setFlag | apply keeps_setFld) | (with_reducible apply keeps_mk; with_reducible assumption)); clear_value x) | try clear_value x)
    | lift_lets
    | (with_reducible first | apply keeps_bump | apply keeps_endGrant | apply keeps_irq | apply keeps_ite | apply keepsO_ite | apply keepsO)
    | split

theorem keeps_dbgCtrl {z : State} (s : State) (v : Word) (hk : Keeps z s) : Keeps z (dbgCtrl s v) := by
  unfold dbgCtrl
  repeat' first
    | with_reducible assumption
    | intro _
    | (with_reducible first | apply keeps_endGrant | apply keeps_newChallenge | apply keeps_ite)
    | (with_reducible apply keeps_mk; with_reducible assumption)

theorem keeps_execRevoke {z : State} (w : Who) (v : Word) (s : State) (hk : Keeps z s) : KeepsO z (execRevoke w v s) := by
  unfold execRevoke
  repeat' first | with_reducible assumption | intro _ | (with_reducible first | apply keeps_dbgCtrl | apply keeps_guardW | apply keepsO)

theorem keeps_execDebugExpiry {z : State} (now : Nat) (s0 : State) (hk : Keeps z s0) : KeepsO z (execDebugExpiry now s0) := by
  unfold execDebugExpiry
  repeat' first
    | with_reducible assumption
    | (intro x; first | (have hx : Keeps z x := (by repeat' first | (with_reducible first | assumption | apply keeps_advance)); clear_value x) | try clear_value x)
    | lift_lets
    | (with_reducible first | apply keeps_endGrant | apply keepsO_ite | apply keepsO)

theorem keeps_secWrite {z : State} (s : State) (w : Who) (a : Nat) (v : Word) (hk : Keeps z s) : Keeps z (secWrite s w a v) := by
  unfold secWrite
  repeat' first
    | with_reducible assumption
    | intro _
    | (with_reducible first | apply keeps_dbgCtrl | apply keeps_plainWrite | apply keeps_quoteCtrl | apply keeps_staticWrite | apply keeps_ite)

theorem keeps_secSrst {z : State} (s : State) (hk : Keeps z s) : Keeps z (secSrst s) := by
  unfold secSrst
  repeat' first | (with_reducible first | assumption | apply keeps_softCounters)

theorem keeps_updBoot {z : State} (s : State) (f : BootSt → BootSt) (hk : Keeps z s) : Keeps z (updBoot s f) := by
  unfold updBoot
  repeat' first | (with_reducible apply keeps_mk; with_reducible assumption)

theorem keeps_bcrStoreWith {z : State} (s : State) (v : Nat) (ops : List FlashOp) (b : BcrSt) (hk : Keeps z s) : Keeps z (bcrStoreWith s v
    ops b).1 := by
  unfold bcrStoreWith
  repeat' first
    | with_reducible assumption
    | (intro x; try clear_value x)
    | lift_lets
    | (with_reducible first | apply keeps_store | apply keeps_updBoot)
    | split
    | apply keeps_fst (by with_reducible assumption)
    | fail

theorem keeps_bcrStore {z : State} (s : State) (v : Nat) (b : BcrSt) (hk : Keeps z s) : Keeps z (bcrStore s v b).1 := by
  unfold bcrStore
  repeat' first | (with_reducible first | assumption | apply keeps_bcrStoreWith)

theorem keeps_confirmed {z : State} (s : State) (hk : Keeps z s) : Keeps z (confirmed s) := by
  unfold confirmed
  repeat' first
    | with_reducible assumption
    | (intro x; (have hx : Keeps z x := (by repeat' first | (with_reducible first | assumption | apply keeps_setFlag | apply keeps_updBoot)); clear_value x))
    | lift_lets
    | (with_reducible first | apply keeps_irq | apply keeps_notice)

theorem keeps_execHealthConfirm {z : State} (v now : Nat) (s0 : State) (hk : Keeps z s0) : KeepsO z (execHealthConfirm v now s0) := by
  unfold execHealthConfirm
  repeat' first
    | with_reducible assumption
    | (intro x; first | (have hx : Keeps z x := (by repeat' first | (with_reducible first | assumption | apply keeps_advance)); clear_value x) | try clear_value x)
    | lift_lets
    | (with_reducible first | apply keeps_addRetry | apply keeps_bcrStore | apply keeps_confirmed | apply keepsO_ite | apply keepsO)
    | split
    | apply keeps_fst (by with_reducible assumption)
    | fail

theorem keeps_rescueBoot {z : State} (s : State) (v x : Nat) (hk : Keeps z s) : Keeps z (rescueBoot s v x) := by
  unfold rescueBoot
  repeat' first
    | with_reducible assumption
    | intro _
    | (with_reducible first | apply keeps_bcrStore | apply keeps_updBoot | apply keeps_ite)
    | split
    | apply keeps_fst (by with_reducible assumption)
    | fail

theorem keeps_delivered {z : State} (s : State) (v : Nat) (hk : Keeps z s) : Keeps z (delivered s v) := by
  unfold delivered
  repeat' first
    | with_reducible assumption
    | (intro x; (have hx : Keeps z x := (by repeat' first | (with_reducible first | assumption | apply keeps_irq | apply keeps_updBoot)); clear_value x))
    | lift_lets
    | (with_reducible first | apply keeps_notice | apply keeps_rescueBoot)

theorem keeps_checkSlot {z : State} (s : State) (v : Nat) (hk : Keeps z s) : Keeps z (checkSlot s v) := by
  unfold checkSlot
  repeat' first
    | with_reducible assumption
    | (intro x; try clear_value x)
    | lift_lets
    | (with_reducible first | apply keeps_addRetry | apply keeps_bcrStore | apply keeps_delivered | apply keeps_store | apply keeps_verifyFail | apply keeps_ite)
    | split
    | apply keeps_fst (by with_reducible assumption)
    | fail

theorem keeps_closeDelivery {z : State} (s : State) (v : Nat) (hk : Keeps z s) : Keeps z (closeDelivery s v).1 := by
  unfold closeDelivery
  repeat' first
    | (with_reducible first | assumption | apply keeps_bcrStoreWith | apply keeps_updBoot)
    | split
    | apply keeps_fst (by with_reducible assumption)
    | fail

theorem keeps_resumeDelivery {z : State} (s : State) (hk : Keeps z s) : Keeps z (resumeDelivery s) := by
  unfold resumeDelivery
  repeat' first | (with_reducible first | assumption | apply keeps_updBoot)

theorem keeps_checkHeader {z : State} (s : State) (v : Nat) (hk : Keeps z s) : Keeps z (checkHeader s v).1 := by
  unfold checkHeader
  repeat' first
    | with_reducible assumption
    | (intro x; (have hx : Keeps z x := (by repeat' first | with_reducible assumption | intro _ | (with_reducible first | apply keeps_recErr | apply keeps_verifyFail | apply keeps_ite)); clear_value x))
    | lift_lets
    | (with_reducible first | apply keeps_addRetry | apply keeps_closeDelivery | apply keeps_updBoot)
    | split
    | apply keeps_fst (by with_reducible assumption)
    | fail

theorem keeps_chunkStored {z : State} (s : State) (v i : Nat) (hk : Keeps z s) : Keeps z (chunkStored s v i).1 := by
  unfold chunkStored
  repeat' first
    | with_reducible assumption
    | (intro x; (have hx : Keeps z x := (by repeat' first | with_reducible assumption | intro _ | (with_reducible first | apply keeps_bump | apply keeps_notice | apply keeps_ite)); clear_value x))
    | lift_lets
    | (with_reducible first | apply keeps_checkHeader | apply keeps_checkSlot)
    | split
    | apply keeps_fst (by with_reducible assumption)
    | fail

theorem keeps_takeChunk {z : State} (s : State) (v : Nat) (ok : Bool) (i : Nat) (bs : List Byte) (hk : Keeps z s) : Keeps z (takeChunk s v
    ok i bs).1 := by
  unfold takeChunk
  repeat' first
    | with_reducible assumption
    | (intro x; first | (have hx : Keeps z x := (by repeat' first | (with_reducible first | assumption | apply keeps_flashWrite | apply keeps_store) | (with_reducible apply keeps_mk; apply keeps_fst (by with_reducible assumption)) | fail); clear_value x) | try clear_value x)
    | lift_lets
    | (with_reducible first | apply keeps_bump | apply keeps_chunkStored | apply keeps_irq | apply keeps_store)
    | split
    | apply keeps_fst (by with_reducible assumption)
    | fail

theorem keeps_updBegin {z : State} (s : State) (topt : Nat) (pay : List Byte) (v : Nat) (hk : Keeps z s) : Keeps z (updBegin s topt pay v).1
    := by
  unfold updBegin
  repeat' first
    | with_reducible assumption
    | (intro x; try clear_value x)
    | lift_lets
    | (with_reducible first | apply keeps_bcrStoreWith | apply keeps_checkSlot | apply keeps_updBoot | apply keeps_ite)
    | split
    | apply keeps_fst (by with_reducible assumption)
    | fail

theorem keeps_updChunk {z : State} (s : State) (arg : Nat) (pay : List Byte) (v : Nat) (ok : Bool) (hk : Keeps z s) : Keeps z (updChunk s
    arg pay v ok).1 := by
  unfold updChunk
  repeat' first | (with_reducible first | assumption | apply keeps_takeChunk)

theorem keeps_updAbort {z : State} (s : State) (arg v : Nat) (hk : Keeps z s) : Keeps z (updAbort s arg v).1 := by
  unfold updAbort
  repeat' first
    | with_reducible assumption
    | (intro x; try clear_value x)
    | lift_lets
    | with_reducible apply keeps_closeDelivery
    | split
    | apply keeps_fst (by with_reducible assumption)
    | fail

theorem keeps_updActivate {z : State} (s : State) (arg topt v : Nat) (hk : Keeps z s) : Keeps z (updActivate s arg topt v).1 := by
  unfold updActivate
  repeat' first
    | with_reducible assumption
    | (intro x; try clear_value x)
    | lift_lets
    | (with_reducible first | apply keeps_bcrStore | apply keeps_updBoot | apply keeps_ite)
    | split
    | apply keeps_fst (by with_reducible assumption)
    | fail

theorem keeps_updConfirm {z : State} (s : State) (hk : Keeps z s) : Keeps z (updConfirm s).1 := by
  unfold updConfirm
  repeat' first | (with_reducible first | assumption | apply keeps_updBoot) | split

theorem keeps_updFallback {z : State} (s : State) (v : Nat) (hk : Keeps z s) : Keeps z (updFallback s v).1 := by
  unfold updFallback
  repeat' first
    | (with_reducible first | assumption | apply keeps_bcrStore | apply keeps_updBoot)
    | split
    | apply keeps_fst (by with_reducible assumption)
    | fail

theorem keeps_updConfig {z : State} (s : State) (pay : List Byte) (v : Nat) (hk : Keeps z s) : Keeps z (updConfig s pay v).1 := by
  unfold updConfig
  repeat' first
    | with_reducible assumption
    | (intro x; try clear_value x)
    | lift_lets
    | (with_reducible first | apply keeps_store | apply keeps_verifyFail)
    | split
    | apply keeps_fst (by with_reducible assumption)
    | fail

theorem keeps_settingsSave {z : State} (s : State) (pay : List Byte) (v : Nat) (hk : Keeps z s) : Keeps z (settingsSave s pay v).1 := by
  unfold settingsSave
  repeat' first
    | with_reducible assumption
    | (intro x; try clear_value x)
    | lift_lets
    | (with_reducible first | apply keeps_bcrStoreWith | apply keeps_store)
    | split
    | apply keeps_fst (by with_reducible assumption)
    | fail

theorem keeps_restart {z : State} (s : State) (hk : Keeps z s) : Keeps z (restart s).1 := by
  unfold restart
  repeat' first | (with_reducible first | assumption | apply keeps_updBoot)

theorem keeps_updEnd {z : State} (c q : Nat) (r : State × Nat × Nat) (hk : Keeps z r.1) : Keeps z (updEnd c q r) := by
  unfold updEnd
  repeat' first | (with_reducible first | assumption | apply keeps_setStatus)

theorem keeps_execUpdBegin {z : State} (c q : Nat) (host : Option (List Byte)) (v : Nat) (s : State) (hk : Keeps z s) : KeepsO z
    (execUpdBegin c q host v s) := by
  unfold execUpdBegin
  repeat' first
    | (with_reducible first | assumption | apply keeps_setStatus | apply keeps_updBegin | apply keeps_updEnd | apply keepsO)
    | split

theorem keeps_execUpdChunk {z : State} (c q : Nat) (host : Option (List Byte)) (v : Nat) (ok : Bool) (s : State) (hk : Keeps z s) : KeepsO z
    (execUpdChunk c q host v ok s) := by
  unfold execUpdChunk
  repeat' first
    | (with_reducible first | assumption | apply keeps_setStatus | apply keeps_updChunk | apply keeps_updEnd | apply keepsO)
    | split

theorem keeps_execUpdAbort {z : State} (c q v : Nat) (s : State) (hk : Keeps z s) : KeepsO z (execUpdAbort c q v s) := by
  unfold execUpdAbort
  repeat' first | (with_reducible first | assumption | apply keeps_updAbort | apply keeps_updEnd | apply keepsO) | split

theorem keeps_execUpdActivate {z : State} (c q v : Nat) (s : State) (hk : Keeps z s) : KeepsO z (execUpdActivate c q v s) := by
  unfold execUpdActivate
  repeat' first | (with_reducible first | assumption | apply keeps_updActivate | apply keeps_updEnd | apply keepsO) | split

theorem keeps_execUpdConfirm {z : State} (c q : Nat) (s : State) (hk : Keeps z s) : KeepsO z (execUpdConfirm c q s) := by
  unfold execUpdConfirm
  repeat' first | (with_reducible first | assumption | apply keeps_updConfirm | apply keeps_updEnd | apply keepsO) | split

theorem keeps_execUpdFallback {z : State} (c q v : Nat) (s : State) (hk : Keeps z s) : KeepsO z (execUpdFallback c q v s) := by
  unfold execUpdFallback
  repeat' first | (with_reducible first | assumption | apply keeps_updEnd | apply keeps_updFallback | apply keepsO) | split

theorem keeps_execUpdConfig {z : State} (c q : Nat) (host : Option (List Byte)) (v : Nat) (s : State) (hk : Keeps z s) : KeepsO z
    (execUpdConfig c q host v s) := by
  unfold execUpdConfig
  repeat' first
    | (with_reducible first | assumption | apply keeps_setStatus | apply keeps_updConfig | apply keeps_updEnd | apply keepsO)
    | split

theorem keeps_execSettingsSave {z : State} (c q : Nat) (host : Option (List Byte)) (v : Nat) (s : State) (hk : Keeps z s) : KeepsO z
    (execSettingsSave c q host v s) := by
  unfold execSettingsSave
  repeat' first
    | (with_reducible first | assumption | apply keeps_setStatus | apply keeps_settingsSave | apply keeps_updEnd | apply keepsO)
    | split

theorem keeps_execRestart {z : State} (c q : Nat) (s : State) (hk : Keeps z s) : KeepsO z (execRestart c q s) := by
  unfold execRestart
  repeat' first | (with_reducible first | assumption | apply keeps_restart | apply keeps_updEnd | apply keepsO) | split

theorem keeps_putFrag {z : State} (s : State) (i f : Nat) (bs : List Byte) (hk : Keeps z s) : Keeps z (putFrag s i f bs) := by
  unfold putFrag
  repeat' first
    | with_reducible assumption
    | (intro x; first | (have hx : Keeps z x := (by repeat' first | with_reducible assumption | intro _ | (with_reducible first | apply keeps_bumpN | apply keeps_ite)); clear_value x) | try clear_value x)
    | lift_lets
    | with_reducible apply keeps_updBoot

theorem keeps_takeAssembled {z : State} (s : State) (v : Nat) (ok : Bool) (i : Nat) (bs : List Byte) (hk : Keeps z s) : Keeps z
    (takeAssembled s v ok i bs) := by
  unfold takeAssembled
  repeat' first
    | with_reducible assumption
    | (intro x; try clear_value x)
    | lift_lets
    | (with_reducible first | apply keeps_addRetry | apply keeps_takeChunk | apply keeps_ite)

theorem keeps_execChunk {z : State} (v : Nat) (ok : Bool) (now : Nat) (s0 : State) (hk : Keeps z s0) : KeepsO z (execChunk v ok now s0) :=
    by
  unfold execChunk
  repeat' first
    | with_reducible assumption
    | (intro x; first | (have hx : Keeps z x := (by repeat' first | (with_reducible first | assumption | apply keeps_advance)); clear_value x) | try clear_value x)
    | lift_lets
    | (with_reducible first | apply keeps_bump | apply keeps_putFrag | apply keeps_takeAssembled | apply keeps_takeInbox | apply keeps_updBoot | apply keepsO_ite | apply keepsO)
    | split
    | apply keeps_someF (by with_reducible assumption)
    | dsimp only
    | fail

theorem keeps_retryStore {z : State} (s : State) (v : Nat) (ok : Bool) (y0 : StoreKind) (hk : Keeps z s) : Keeps z (retryStore s v ok y0).1
    := by
  unfold retryStore
  repeat' first
    | with_reducible assumption
    | lift_lets
    | (with_reducible first | apply keeps_bcrStore | apply keeps_closeDelivery | apply keeps_confirmed | apply keeps_delivered | apply keeps_logAppend | apply keeps_takeChunk)
    | split
    | apply keeps_fst (by with_reducible assumption)
    | fail

theorem keeps_execStoreRetry {z : State} (v : Nat) (ok : Bool) (now : Nat) (s0 : State) (hk : Keeps z s0) : KeepsO z (execStoreRetry v ok
    now s0) := by
  unfold execStoreRetry
  repeat' first
    | with_reducible assumption
    | (intro x; first | (have hx : Keeps z x := (by repeat' first | (with_reducible first | assumption | apply keeps_advance | apply keeps_updBoot)); clear_value x) | try clear_value x)
    | lift_lets
    | (with_reducible first | apply keeps_retryStore | apply keeps_updBoot | apply keepsO_ite | apply keepsO)
    | split

theorem keeps_flAddrWrite {z : State} (s : State) (w : Who) (v : Word) (hk : Keeps z s) : Keeps z (flAddrWrite s w v) := by
  unfold flAddrWrite
  repeat' first
    | with_reducible assumption
    | intro _
    | (with_reducible first | apply keeps_plainWrite | apply keeps_setFlag | apply keeps_wErr | apply keeps_ite)

theorem keeps_flCtrlWrite {z : State} (s : State) (w : Who) (v : Word) (hk : Keeps z s) : Keeps z (flCtrlWrite s w v) := by
  unfold flCtrlWrite
  repeat' first
    | with_reducible assumption
    | (intro x; first | (have hx : Keeps z x := (by repeat' first | (with_reducible first | assumption | apply keeps_setFlag | apply keeps_setFld | apply keeps_wr64)); clear_value x) | try clear_value x)
    | lift_lets
    | (with_reducible first | apply keeps_wrN | apply keeps_ite)

theorem keeps_execFlashReadGo {z : State} (w : Who) (v : Word) (s : State) (hk : Keeps z s) : KeepsO z (execFlashReadGo w v s) := by
  unfold execFlashReadGo
  repeat' first | with_reducible assumption | intro _ | (with_reducible first | apply keeps_flCtrlWrite | apply keeps_guardW | apply keepsO)

theorem keeps_updWrite {z : State} (s : State) (w : Who) (a : Nat) (v : Word) (hk : Keeps z s) : Keeps z (updWrite s w a v) := by
  unfold updWrite
  repeat' first
    | with_reducible assumption
    | intro _
    | (with_reducible first | apply keeps_flAddrWrite | apply keeps_flCtrlWrite | apply keeps_plainWrite | apply keeps_ite)

theorem keeps_updSrst {z : State} (s : State) (hk : Keeps z s) : Keeps z (updSrst s) := by
  unfold updSrst
  repeat' first | (with_reducible first | assumption | apply keeps_softCounters)

theorem keeps_setIr {z : State} (s : State) (ir : Nat) (hk : Keeps z s) : Keeps z (setIr s ir) := by
  unfold setIr
  repeat' first | (with_reducible apply keeps_mk; with_reducible assumption)

theorem keeps_setTdo {z : State} (s : State) (n : Nat) (hk : Keeps z s) : Keeps z (setTdo s n) := by
  unfold setTdo
  repeat' first | (with_reducible apply keeps_mk; with_reducible assumption)

theorem keeps_takePins {z : State} (s : State) (ir : Nat) (eff : State → State) (hk : Keeps z s) (hf_eff : ∀ (a0 : State), Keeps z a0 →
    Keeps z (eff a0)) : Keeps z (takePins s ir eff) := by
  unfold takePins
  repeat' first
    | with_reducible assumption
    | intro _
    | (with_reducible first | apply keeps_bump | apply keeps_linkFalls | apply keeps_setIr | apply keeps_setTdo | apply hf_eff | apply keeps_ite | apply keeps_foldl)

theorem keeps_scanPins {z : State} (pins shift : List Bool) (s : State) (hk : Keeps z s) : Keeps z (scanPins pins shift s) := by
  unfold scanPins
  repeat' first | with_reducible apply keeps_setTdo | (with_reducible apply keeps_mk; with_reducible assumption)

theorem keeps_execTestLogicReset {z : State} (s : State) (hk : Keeps z s) : KeepsO z (execTestLogicReset s) := by
  unfold execTestLogicReset
  repeat' first | (with_reducible first | assumption | apply keeps_setIr | apply keepsO)

theorem keeps_execExtest {z : State} (pins shift : List Bool) (s : State) (hk : Keeps z s) : KeepsO z (execExtest pins shift s) := by
  unfold execExtest
  repeat' first | with_reducible assumption | intro _ | (with_reducible first | apply keeps_scanPins | apply keeps_takePins | apply keepsO)

theorem keeps_execSamplePreload {z : State} (pins shift : List Bool) (s : State) (hk : Keeps z s) : KeepsO z (execSamplePreload pins shift
    s) := by
  unfold execSamplePreload
  repeat' first | (with_reducible first | assumption | apply keeps_scanPins | apply keeps_setIr | apply keepsO)

theorem keeps_execIdcode {z : State} (s : State) (hk : Keeps z s) : KeepsO z (execIdcode s) := by
  unfold execIdcode
  repeat' first | (with_reducible first | assumption | apply keeps_setIr | apply keeps_setTdo | apply keepsO)

theorem keeps_execJtagClamp {z : State} (s : State) (hk : Keeps z s) : KeepsO z (execJtagClamp s) := by
  unfold execJtagClamp
  repeat' first | with_reducible assumption | intro _ | (with_reducible first | apply keeps_setTdo | apply keeps_takePins | apply keepsO)

theorem keeps_execHighz {z : State} (s : State) (hk : Keeps z s) : KeepsO z (execHighz s) := by
  unfold execHighz
  repeat' first | with_reducible assumption | intro _ | (with_reducible first | apply keeps_setTdo | apply keeps_takePins | apply keepsO)

theorem keeps_execExtestPulse {z : State} (pins shift : List Bool) (s : State) (hk : Keeps z s) : KeepsO z (execExtestPulse pins shift s) :=
    by
  unfold execExtestPulse
  repeat' first | with_reducible assumption | intro _ | (with_reducible first | apply keeps_scanPins | apply keeps_takePins | apply keepsO)

theorem keeps_execExtestTrain {z : State} (pins shift : List Bool) (s : State) (hk : Keeps z s) : KeepsO z (execExtestTrain pins shift s) :=
    by
  unfold execExtestTrain
  repeat' first | with_reducible assumption | intro _ | (with_reducible first | apply keeps_scanPins | apply keeps_takePins | apply keepsO)

theorem keeps_execBypass {z : State} (s : State) (hk : Keeps z s) : KeepsO z (execBypass s) := by
  unfold execBypass
  repeat' first | (with_reducible first | assumption | apply keeps_setIr | apply keeps_setTdo | apply keepsO)

theorem keeps_execDbgStatus {z : State} (s : State) (hk : Keeps z s) : KeepsO z (execDbgStatus s) := by
  unfold execDbgStatus
  repeat' first | (with_reducible first | assumption | apply keeps_setIr | apply keeps_setTdo | apply keepsO)

theorem keeps_execDbgChal {z : State} (s : State) (hk : Keeps z s) : KeepsO z (execDbgChal s) := by
  unfold execDbgChal
  repeat' first | (with_reducible first | assumption | apply keeps_setIr | apply keeps_setTdo | apply keepsO)

theorem keeps_execDbgUnlock {z : State} (bs : List Byte) (s : State) (hk : Keeps z s) : KeepsO z (execDbgUnlock bs s) := by
  unfold execDbgUnlock
  repeat' first
    | with_reducible assumption
    | (intro x; first | (have hx : Keeps z x := (by repeat' first | (with_reducible first | assumption | apply keeps_setIr)); clear_value x) | try clear_value x)
    | lift_lets
    | (with_reducible first | apply keepsO_ite | apply keepsO)
    | (with_reducible apply keeps_mk; with_reducible assumption)

theorem keeps_tmuxWrite {z : State} (s : State) (w : Who) (n : Nat) (v : Word) (hk : Keeps z s) : Keeps z (tmuxWrite s w n v) := by
  unfold tmuxWrite
  repeat' first
    | with_reducible assumption
    | (intro x; first | (have hx : Keeps z x := (by repeat' first | (with_reducible first | assumption | apply keeps_plainWrite)); clear_value x) | try clear_value x)
    | lift_lets
    | (with_reducible first | apply keeps_setTpin | apply keeps_wErr | apply keeps_ite)
    | split

theorem keeps_execTmuxSelWrite {z : State} (w : Who) (n : Nat) (v : Word) (s : State) (hk : Keeps z s) : KeepsO z (execTmuxSelWrite w n v s)
    := by
  unfold execTmuxSelWrite
  repeat' first
    | with_reducible assumption
    | intro _
    | (with_reducible first | apply keeps_guardW | apply keeps_tmuxWrite | apply keepsO_ite | apply keepsO)

theorem keeps_tmuxSrst {z : State} (s : State) (hk : Keeps z s) : Keeps z (tmuxSrst s) := by
  unfold tmuxSrst
  repeat' first | with_reducible assumption | (with_reducible apply keeps_mk; with_reducible apply keeps_softRegs)

theorem keeps_pmcWrite {z : State} (s : State) (w : Who) (k : Nat) (v : Word) (hk : Keeps z s) : Keeps z (pmcWrite s w k v) := by
  unfold pmcWrite
  repeat' first
    | with_reducible assumption
    | (intro x; first | (have hx : Keeps z x := (by repeat' first | (with_reducible first | assumption | apply keeps_setWide)); clear_value x) | try clear_value x)
    | lift_lets
    | (with_reducible first | apply keeps_plainWrite | apply keeps_wErr | apply keeps_ite)

theorem keeps_execPmcSelWrite {z : State} (w : Who) (k : Nat) (v : Word) (s : State) (hk : Keeps z s) : KeepsO z (execPmcSelWrite w k v s)
    := by
  unfold execPmcSelWrite
  repeat' first
    | with_reducible assumption
    | intro _
    | (with_reducible first | apply keeps_guardW | apply keeps_pmcWrite | apply keepsO_ite | apply keepsO)

theorem keeps_snapshot {z : State} (s : State) (hk : Keeps z s) : Keeps z (snapshot s) := by
  unfold snapshot
  repeat' first | with_reducible assumption | intro _ | (with_reducible first | apply keeps_wr64 | apply keeps_foldl)

theorem keeps_snapWrite {z : State} (s : State) (v : Word) (hk : Keeps z s) : Keeps z (snapWrite s v) := by
  unfold snapWrite
  repeat' first | with_reducible assumption | intro _ | (with_reducible first | apply keeps_snapshot | apply keeps_ite)

theorem keeps_execDbgSnap {z : State} (w : Who) (v : Word) (s : State) (hk : Keeps z s) : KeepsO z (execDbgSnap w v s) := by
  unfold execDbgSnap
  repeat' first | with_reducible assumption | intro _ | (with_reducible first | apply keeps_guardW | apply keeps_snapWrite | apply keepsO)

theorem keeps_dbgWrite {z : State} (s : State) (w : Who) (a : Nat) (v : Word) (hk : Keeps z s) : Keeps z (dbgWrite s w a v) := by
  unfold dbgWrite
  repeat' first
    | with_reducible assumption
    | intro _
    | (with_reducible first | apply keeps_plainWrite | apply keeps_pmcWrite | apply keeps_snapWrite | apply keeps_tmuxWrite | apply keeps_ite)
    | split

theorem keeps_dbgSrst {z : State} (s : State) (hk : Keeps z s) : Keeps z (dbgSrst s) := by
  unfold dbgSrst
  repeat' first
    | with_reducible assumption
    | intro _
    | (with_reducible first | apply keeps_setWide | apply keeps_softRegs | apply keeps_foldl)

theorem keeps_answer {z : State} (s : State) (n : Nat) (hk : Keeps z s) : Keeps z (answer s n) := by
  unfold answer
  repeat' first | (with_reducible apply keeps_mk; with_reducible assumption)

theorem keeps_ancOwnerWrite {z : State} (s : State) (w : Who) (n : Nat) (v : Word) (hk : Keeps z s) : Keeps z (ancOwnerWrite s w n v) := by
  unfold ancOwnerWrite
  repeat' first
    | with_reducible assumption
    | (intro x; try clear_value x)
    | lift_lets
    | (with_reducible first | apply keeps_ancOwner | apply keeps_wErr | apply keeps_ite)

theorem keeps_ancOpWrite {z : State} (s : State) (w : Who) (n : Nat) (v : Word) (hk : Keeps z s) : Keeps z (ancOpWrite s w n v) := by
  unfold ancOpWrite
  repeat' first
    | with_reducible assumption
    | (intro x; try clear_value x)
    | lift_lets
    | (with_reducible first | apply keeps_ancFault | apply keeps_ancReset | apply keeps_ancSignal | apply keeps_wErr | apply keeps_ite)

theorem keeps_ancWrite {z : State} (s : State) (w : Who) (a : Nat) (v : Word) (hk : Keeps z s) : Keeps z (ancWrite s w a v) := by
  unfold ancWrite
  repeat' first
    | with_reducible assumption
    | intro _
    | (with_reducible first | apply keeps_ancOpWrite | apply keeps_ancOwnerWrite | apply keeps_ite)

theorem keeps_execSignal {z : State} (w : Who) (n inc : Nat) (s : State) (hk : Keeps z s) : KeepsO z (execSignal w n inc s) := by
  unfold execSignal
  repeat' first | with_reducible assumption | intro _ | (with_reducible first | apply keeps_ancOpWrite | apply keeps_guardW | apply keepsO)

theorem keeps_execAncReset {z : State} (w : Who) (n : Nat) (s : State) (hk : Keeps z s) : KeepsO z (execAncReset w n s) := by
  unfold execAncReset
  repeat' first | with_reducible assumption | intro _ | (with_reducible first | apply keeps_ancOpWrite | apply keeps_guardW | apply keepsO)

theorem keeps_execFault {z : State} (w : Who) (n : Nat) (s : State) (hk : Keeps z s) : KeepsO z (execFault w n s) := by
  unfold execFault
  repeat' first | with_reducible assumption | intro _ | (with_reducible first | apply keeps_ancOpWrite | apply keeps_guardW | apply keepsO)

theorem keeps_execOwnerWrite {z : State} (w : Who) (n : Nat) (v : Word) (s : State) (hk : Keeps z s) : KeepsO z (execOwnerWrite w n v s) :=
    by
  unfold execOwnerWrite
  repeat' first
    | with_reducible assumption
    | intro _
    | (with_reducible first | apply keeps_ancOwnerWrite | apply keeps_guardW | apply keepsO)

theorem keeps_iwEnd {z : State} (s : State) (w : Who) (off : Nat) (code : Option Nat) (hk : Keeps z s) : Keeps z (iwEnd s w off code) := by
  unfold iwEnd
  repeat' first
    | with_reducible assumption
    | (intro x; first | (have hx : Keeps z x := (by repeat' first | with_reducible assumption | intro _ | (with_reducible first | apply keeps_bump | apply keeps_setFlag | apply keeps_setFld | apply keeps_wr64 | apply keeps_ite) | (with_reducible apply keeps_mk; split)); clear_value x) | try clear_value x)
    | lift_lets
    | (with_reducible first | apply keeps_setFld | apply keeps_setOp)

theorem keeps_iwData {z : State} (s : State) (w : Who) (n : Nat) (hk : Keeps z s) : Keeps z (iwData s w n) := by
  unfold iwData
  repeat' first | (with_reducible first | assumption | apply keeps_wr64)

theorem keeps_iwDenied {z : State} (s : State) (w : Who) (go : Nat) (hk : Keeps z s) : Keeps z (iwDenied s w go) := by
  unfold iwDenied
  repeat' first | with_reducible assumption | intro _ | (with_reducible first | apply keeps_iwData | apply keeps_iwEnd | apply keeps_ite)

theorem keeps_iwWrite {z : State} (s : State) (w : Who) (a : Nat) (v : Word) (hk : Keeps z s) : Keeps z (iwWrite s w a v) := by
  unfold iwWrite
  repeat' first
    | with_reducible assumption
    | (intro x; first | (have hx : Keeps z x := (by repeat' first | (with_reducible first | assumption | apply keeps_setFld)); clear_value x) | try clear_value x)
    | lift_lets
    | (with_reducible first | apply keeps_iwDenied | apply keeps_plainWrite | apply keeps_setFlag | apply keeps_setFld | apply keeps_setOp | apply keeps_wErr | apply keeps_ite)

theorem keeps_execGoRd {z : State} (w : Who) (inc : Bool) (s : State) (hk : Keeps z s) : KeepsO z (execGoRd w inc s) := by
  unfold execGoRd
  repeat' first | with_reducible assumption | intro _ | (with_reducible first | apply keeps_guardW | apply keeps_iwWrite | apply keepsO)

theorem keeps_execGoWr {z : State} (w : Who) (inc : Bool) (s : State) (hk : Keeps z s) : KeepsO z (execGoWr w inc s) := by
  unfold execGoWr
  repeat' first | with_reducible assumption | intro _ | (with_reducible first | apply keeps_guardW | apply keeps_iwWrite | apply keepsO)

theorem keeps_blockWrite {z : State} (s : State) (w : Who) (a : Nat) (v : Word) (hk : Keeps z s) : Keeps z (blockWrite s w a v) := by
  unfold blockWrite
  repeat' first
    | with_reducible assumption
    | intro _
    | (with_reducible first | apply keeps_apxWrite | apply keeps_dbgWrite | apply keeps_fabWrite | apply keeps_fusWrite | apply keeps_hifCtxWrite | apply keeps_i3cWrite | apply keeps_ingWrite | apply keeps_iwWrite | apply keeps_limitWrite | apply keeps_lnkWrite | apply keeps_modeReq | apply keeps_motWrite | apply keeps_ncWrite | apply keeps_outWrite | apply keeps_plainWrite | apply keeps_portWrite | apply keeps_recWrite | apply keeps_secWrite | apply keeps_timeWrite | apply keeps_updWrite | apply keeps_ite)
    | split

theorem keeps_errClr {z : State} (s : State) (pg : Nat) (hk : Keeps z s) : Keeps z (errClr s pg) := by
  unfold errClr
  repeat' first
    | with_reducible assumption
    | (intro x; first | (have hx : Keeps z x := (by repeat' first | (with_reducible first | assumption | apply keeps_setFlag | apply keeps_wrN)); clear_value x) | try clear_value x)
    | lift_lets
    | (with_reducible first | apply keeps_setFlag | apply keeps_wrN | apply keeps_ite)
    | split

theorem keeps_enPage {z : State} (s : State) (w : Who) (pg : Nat) (en : Bool) (hk : Keeps z s) : Keeps z (enPage s w pg en) := by
  unfold enPage
  repeat' first
    | with_reducible assumption
    | (intro x; try clear_value x)
    | lift_lets
    | (with_reducible first | apply keeps_ncEnable | apply keeps_ncStop | apply keeps_portDisable | apply keeps_portDisableAgain | apply keeps_portEnable | apply keeps_setDisPend | apply keeps_setFlag | apply keeps_wErr | apply keeps_ite)
    | split

theorem keeps_abandon {z : State} (s : State) (pg : Nat) (hk : Keeps z s) : Keeps z (abandon s pg) := by
  unfold abandon
  repeat' first
    | with_reducible assumption
    | (intro x; first | (have hx : Keeps z x := (by repeat' first | (with_reducible apply keeps_mk; with_reducible assumption)); clear_value x) | try clear_value x)
    | lift_lets
    | (with_reducible first | apply keeps_setFld | apply keeps_wrN | apply keeps_foldl)
    | split

theorem keeps_srstUnit {z : State} (s : State) (pg : Nat) (hk : Keeps z s) : Keeps z (srstUnit s pg) := by
  unfold srstUnit
  repeat' first
    | (with_reducible first | assumption | apply keeps_apxSrst | apply keeps_coreOff | apply keeps_dbgSrst | apply keeps_fabSrst | apply keeps_fusSrst | apply keeps_lnkSrst | apply keeps_motSrst | apply keeps_outSrst | apply keeps_portSrst | apply keeps_recSrst | apply keeps_secSrst | apply keeps_setFld | apply keeps_softRegs | apply keeps_tileClear | apply keeps_timeSrst | apply keeps_tmuxSrst | apply keeps_updSrst | apply keeps_wrN)
    | split

theorem keeps_srst {z : State} (s : State) (w : Who) (pg : Nat) (hk : Keeps z s) : Keeps z (srst s w pg) := by
  unfold srst
  repeat' first
    | (with_reducible first | assumption | apply keeps_abandon | apply keeps_softEnd | apply keeps_srstUnit | apply keeps_wErr)
    | split

theorem keeps_ctrlWrite {z : State} (s : State) (w : Who) (pg : Nat) (v : Word) (hk : Keeps z s) : Keeps z (ctrlWrite s w pg v) := by
  unfold ctrlWrite
  repeat' first
    | with_reducible assumption
    | (intro x; first | (have hx : Keeps z x := (by repeat' first | with_reducible assumption | intro _ | (with_reducible first | apply keeps_enPage | apply keeps_errClr | apply keeps_setFlag | apply keeps_ite)); clear_value x) | try clear_value x)
    | lift_lets
    | (with_reducible first | apply keeps_srst | apply keeps_ite)

theorem keeps_statClear {z : State} (s : State) (pg : Nat) (v : Word) (hk : Keeps z s) : Keeps z (statClear s pg v) := by
  unfold statClear
  repeat' first | (with_reducible first | assumption | apply keeps_wr)

theorem keeps_hdrWrite {z : State} (s : State) (w : Who) (a : Nat) (v : Word) (hk : Keeps z s) : Keeps z (hdrWrite s w a v) := by
  unfold hdrWrite
  repeat' first
    | with_reducible assumption
    | (intro x; try clear_value x)
    | lift_lets
    | (with_reducible first | apply keeps_ctrlWrite | apply keeps_statClear | apply keeps_wr | apply keeps_wrN | apply keeps_ite)
    | split

theorem keeps_msixWrite {z : State} (s : State) (fn a : Nat) (v : Word) (hk : Keeps z s) : Keeps z (msixWrite s fn a v) := by
  unfold msixWrite
  repeat' first
    | with_reducible assumption
    | (intro x; try clear_value x)
    | lift_lets
    | (with_reducible first | apply keeps_sendPending | apply keeps_setVec | apply keeps_ite)

theorem keeps_writeReg {z : State} (s : State) (w : Who) (a : Nat) (v : Word) (hk : Keeps z s) : Keeps z (writeReg s w a v) := by
  unfold writeReg
  repeat' first
    | with_reducible assumption
    | intro _
    | (with_reducible first | apply keeps_ancWrite | apply keeps_blockWrite | apply keeps_hdrWrite | apply keeps_msixWrite | apply keeps_ite)

theorem keeps_busWrite {z : State} (s : State) (w : Who) (a : Nat) (v : Word) (hk : Keeps z s) : Keeps z (busWrite s w a v) := by
  unfold busWrite
  repeat' first | with_reducible assumption | intro _ | (with_reducible first | apply keeps_guardW | apply keeps_writeReg)

theorem keeps_repeak {z : State} (s : State) (a : Nat) (hk : Keeps z s) : Keeps z (repeak s a) := by
  unfold repeak
  repeat' first | (with_reducible first | assumption | apply keeps_wrN) | split

theorem keeps_blockRead {z : State} (s : State) (w : Who) (a : Nat) (hk : Keeps z s) : Keeps z (blockRead s w a) := by
  unfold blockRead
  repeat' first
    | with_reducible assumption
    | (intro x; first | (have hx : Keeps z x := (by repeat' first | (with_reducible first | assumption | apply keeps_clearRc | apply keeps_repeak | apply keeps_wrN) | (with_reducible apply keeps_mk; split)); clear_value x) | try clear_value x)
    | lift_lets
    | (with_reducible first | apply keeps_answer | apply keeps_quoteNext | apply keeps_ite)

theorem keeps_readReg {z : State} (s : State) (w : Who) (a : Nat) (hk : Keeps z s) : Keeps z (readReg s w a) := by
  unfold readReg
  repeat' first
    | with_reducible assumption
    | intro _
    | (with_reducible first | apply keeps_answer | apply keeps_blockRead | apply keeps_ite)
    | split

theorem keeps_busRead {z : State} (s : State) (w : Who) (a : Nat) (hk : Keeps z s) : Keeps z (busRead s w a) := by
  unfold busRead
  repeat' first | (with_reducible first | assumption | apply keeps_answer | apply keeps_failAcc | apply keeps_readReg) | split

theorem keeps_winRead {z : State} (s : State) (w : Who) (off : Nat) (hk : Keeps z s) : Keeps z (winRead s w off) := by
  unfold winRead
  repeat' first
    | with_reducible assumption
    | (intro x; try clear_value x)
    | lift_lets
    | (with_reducible first | apply keeps_answer | apply keeps_winDenied | apply keeps_wrN | apply keeps_ite)
    | split

theorem keeps_winStore {z : State} (s : State) (w : Who) (off : Nat) (v : Word) (hk : Keeps z s) : Keeps z (winStore s w off v) := by
  unfold winStore
  repeat' first
    | with_reducible assumption
    | (intro x; first | (have hx : Keeps z x := (by repeat' first | (with_reducible first | assumption | apply keeps_descWrite)); clear_value x) | try clear_value x)
    | lift_lets
    | (with_reducible first | apply keeps_submit | apply keeps_winDenied | apply keeps_winWrite | apply keeps_ite)
    | split

theorem keeps_tkWrite {z : State} (s : State) (w : Who) (p off : Nat) (v : Word) (hk : Keeps z s) : Keeps z (tkWrite s w p off v) := by
  unfold tkWrite
  repeat' first
    | with_reducible assumption
    | intro _
    | (with_reducible first | apply keeps_enPage | apply keeps_tkOffsetHi | apply keeps_tkRes | apply keeps_updPort | apply keeps_wErr | apply keeps_ite)
    | split

theorem keeps_tkAccess {z : State} (s : State) (w : Who) (isWr : Bool) (size a : Nat) (v : Word) (hk : Keeps z s) : Keeps z (tkAccess s w
    isWr size a v) := by
  unfold tkAccess
  repeat' first
    | with_reducible assumption
    | (intro x; first | (have hx : Keeps z x := (by repeat' first | (with_reducible first | assumption | apply keeps_bump | apply keeps_tkFail)); clear_value x) | (have hx : Keeps z x.1 := (by repeat' first | (with_reducible first | assumption | apply keeps_tkRead)); clear_value x) | try clear_value x)
    | lift_lets
    | (with_reducible first | apply keeps_answer | apply keeps_tkWrite | apply keeps_ite)
    | split

theorem keeps_regWrite {z : State} (s : State) (w : Who) (size a v : Nat) (hk : Keeps z s) : Keeps z (regWrite s w size a v) := by
  unfold regWrite
  repeat' first
    | with_reducible assumption
    | intro _
    | (with_reducible first | apply keeps_busWrite | apply keeps_guardW | apply keeps_tkAccess | apply keeps_winStore | apply keeps_writeReg | apply keeps_ite)

theorem keeps_execRegisterWrite {z : State} (w : Who) (size a v : Nat) (s : State) (hk : Keeps z s) : KeepsO z (execRegisterWrite w size a v
    s) := by
  unfold execRegisterWrite
  repeat' first | (with_reducible first | assumption | apply keeps_regWrite | apply keepsO)

theorem keeps_readTwice {z : State} (rdOne : State → Nat → State) (s : State) (a : Nat) (hk : Keeps z s) (hf_rdOne : ∀ (a0 : State) (a1 :
    Nat), Keeps z a0 → Keeps z (rdOne a0 a1)) : Keeps z (readTwice rdOne s a) := by
  unfold readTwice
  repeat' first
    | with_reducible assumption
    | (intro x; (have hx : Keeps z x := (by repeat' first | (with_reducible first | assumption | apply hf_rdOne)); clear_value x))
    | lift_lets
    | with_reducible apply keeps_answer

theorem keeps_regRead {z : State} (s : State) (w : Who) (size a : Nat) (hk : Keeps z s) : Keeps z (regRead s w size a) := by
  unfold regRead
  repeat' first
    | with_reducible assumption
    | intro _
    | (with_reducible first | apply keeps_answer | apply keeps_busRead | apply keeps_failAcc | apply keeps_readTwice | apply keeps_tkAccess | apply keeps_winRead | apply keeps_ite)

theorem keeps_execCounterReadClear {z : State} (w : Who) (size a : Nat) (s : State) (hk : Keeps z s) : KeepsO z (execCounterReadClear w size
    a s) := by
  unfold execCounterReadClear
  repeat' first | (with_reducible first | assumption | apply keeps_regRead | apply keepsO)

theorem keeps_execLatchingRead {z : State} (w : Who) (size a : Nat) (s : State) (hk : Keeps z s) : KeepsO z (execLatchingRead w size a s) :=
    by
  unfold execLatchingRead
  repeat' first | (with_reducible first | assumption | apply keeps_regRead | apply keepsO)

theorem keeps_execUnmappedAccess {z : State} (w : Who) (isWr : Bool) (a : Nat) (s : State) (hk : Keeps z s) : KeepsO z (execUnmappedAccess w
    isWr a s) := by
  unfold execUnmappedAccess
  repeat' first
    | with_reducible assumption
    | (intro x; first | (have hx : Keeps z x := (by repeat' first | (with_reducible first | assumption | apply keeps_failAcc)); clear_value x) | try clear_value x)
    | lift_lets
    | (with_reducible first | apply keeps_answer | apply keeps_ite | apply keepsO_ite | apply keepsO)

theorem keeps_execErrTimeout {z : State} (w : Who) (isWr : Bool) (a : Nat) (s : State) (hk : Keeps z s) : KeepsO z (execErrTimeout w isWr a
    s) := by
  unfold execErrTimeout
  repeat' first
    | with_reducible assumption
    | (intro x; first | (have hx : Keeps z x := (by repeat' first | (with_reducible first | assumption | apply keeps_failAcc | apply keeps_recErr)); clear_value x) | try clear_value x)
    | lift_lets
    | (with_reducible first | apply keeps_answer | apply keeps_ite | apply keepsO_ite | apply keepsO)
    | split

theorem keeps_execIrqStatClear {z : State} (w : Who) (pg : Nat) (v : Word) (s : State) (hk : Keeps z s) : KeepsO z (execIrqStatClear w pg v
    s) := by
  unfold execIrqStatClear
  repeat' first | with_reducible assumption | intro _ | (with_reducible first | apply keeps_guardW | apply keeps_hdrWrite | apply keepsO)

theorem keeps_pageCtrl {z : State} (s : State) (w : Who) (pg v : Nat) (hk : Keeps z s) : Keeps z (pageCtrl s w pg v) := by
  unfold pageCtrl
  repeat' first | with_reducible assumption | intro _ | (with_reducible first | apply keeps_guardW | apply keeps_hdrWrite)

theorem keeps_execErrClr {z : State} (w : Who) (pg : Nat) (en : Bool) (s : State) (hk : Keeps z s) : KeepsO z (execErrClr w pg en s) := by
  unfold execErrClr
  repeat' first | (with_reducible first | assumption | apply keeps_pageCtrl | apply keepsO)

theorem keeps_execLock {z : State} (w : Who) (pg : Nat) (en : Bool) (s : State) (hk : Keeps z s) : KeepsO z (execLock w pg en s) := by
  unfold execLock
  repeat' first | (with_reducible first | assumption | apply keeps_pageCtrl | apply keepsO)

theorem keeps_execSrst {z : State} (w : Who) (pg : Nat) (en : Bool) (s : State) (hk : Keeps z s) : KeepsO z (execSrst w pg en s) := by
  unfold execSrst
  repeat' first | (with_reducible first | assumption | apply keeps_pageCtrl | apply keepsO)

theorem keeps_execPageEnable {z : State} (w : Who) (pg : Nat) (s : State) (hk : Keeps z s) : KeepsO z (execPageEnable w pg s) := by
  unfold execPageEnable
  repeat' first | (with_reducible first | assumption | apply keeps_pageCtrl | apply keepsO)

theorem keeps_execPageDisable {z : State} (w : Who) (pg : Nat) (s : State) (hk : Keeps z s) : KeepsO z (execPageDisable w pg s) := by
  unfold execPageDisable
  repeat' first | (with_reducible first | assumption | apply keeps_pageCtrl | apply keepsO)

theorem keeps_execDisableOnIdle {z : State} (pg : Nat) (s : State) (hk : Keeps z s) : KeepsO z (execDisableOnIdle pg s) := by
  unfold execDisableOnIdle
  repeat' first
    | with_reducible assumption
    | intro _
    | (with_reducible first | apply keeps_portDisable | apply keeps_setDisPend | apply keepsO_ite | apply keepsO)
    | split

theorem keeps_execSecQDataRead {z : State} (w : Who) (s : State) (hk : Keeps z s) : KeepsO z (execSecQDataRead w s) := by
  unfold execSecQDataRead
  repeat' first | (with_reducible first | assumption | apply keeps_busRead | apply keepsO)

theorem keeps_execTkOffsetHiWrite {z : State} (w : Who) (p : Nat) (v : Word) (s : State) (hk : Keeps z s) : KeepsO z (execTkOffsetHiWrite w
    p v s) := by
  unfold execTkOffsetHiWrite
  repeat' first | (with_reducible first | assumption | apply keeps_tkAccess | apply keepsO)

theorem keeps_execLegacyWindowAccess {z : State} (w : Who) (isWr : Bool) (size off : Nat) (v : Word) (s : State) (hk : Keeps z s) : KeepsO z
    (execLegacyWindowAccess w isWr size off v s) := by
  unfold execLegacyWindowAccess
  repeat' first | with_reducible assumption | intro _ | (with_reducible first | apply keeps_tkAccess | apply keepsO_ite | apply keepsO)

theorem keeps_b4Store {z : State} (s : State) (pl : Place) (b : Byte) (hk : Keeps z s) : Keeps z (b4Store s pl b) := by
  unfold b4Store
  repeat' first
    | with_reducible assumption
    | intro _
    | (with_reducible first | apply keeps_memWrite | apply keeps_sramWrite | apply keeps_tabWrite | apply keeps_ite)
    | split

theorem keeps_b4Fresh {z : State} (s : State) (pl : Place) (n : Nat) (hk : Keeps z s) : Keeps z (b4Fresh s pl n) := by
  unfold b4Fresh
  repeat' first
    | with_reducible assumption
    | intro _
    | with_reducible apply keeps_ite
    | split
    | (with_reducible apply keeps_mk; with_reducible assumption)

theorem keeps_b4Piece {z : State} (s : State) (w : Who) (record : Bool) (off : Nat) (bs : List Byte) (hk : Keeps z s) : Keeps z (b4Piece s w
    record off bs).1 := by
  unfold b4Piece
  repeat' first
    | with_reducible assumption
    | (intro x; first | (have hx : Keeps z x := (by repeat' first | with_reducible assumption | intro _ | (with_reducible first | apply keeps_b4Store | apply keeps_foldl) | split); clear_value x) | try clear_value x)
    | lift_lets
    | (with_reducible first | apply keeps_b4Fresh | apply keeps_recErr | apply keeps_ite)
    | split
    | (with_reducible apply keeps_mk; with_reducible assumption)

theorem keeps_b4Write {z : State} (s : State) (w : Who) (off : Nat) (bs : List Byte) (hk : Keeps z s) : Keeps z (b4Write s w off bs) := by
  unfold b4Write
  repeat' first
    | with_reducible assumption
    | (intro x; first | (have hx : Keeps z x.1 := (by repeat' first | with_reducible assumption | intro _ | (with_reducible first | apply keeps_b4Piece | apply keeps_foldl_fst)); clear_value x) | try clear_value x)
    | lift_lets
    | (with_reducible first | apply keeps_bump | apply keeps_ite)

theorem keeps_execBar4Write {z : State} (w : Who) (off : Nat) (bs : List Byte) (s : State) (hk : Keeps z s) : KeepsO z (execBar4Write w off
    bs s) := by
  unfold execBar4Write
  repeat' first | (with_reducible first | assumption | apply keeps_b4Write | apply keepsO)

theorem keeps_b4Fetch {z : State} (s : State) (w : Who) (off n : Nat) (hk : Keeps z s) : Keeps z (b4Fetch s w off n).1 := by
  unfold b4Fetch
  repeat' first
    | with_reducible assumption
    | (intro x; try clear_value x)
    | lift_lets
    | (with_reducible first | apply keeps_correct | apply keeps_memUeLog | apply keeps_recErr | apply keeps_sramUe)
    | split

theorem keeps_b4Read {z : State} (s : State) (w : Who) (off n : Nat) (hk : Keeps z s) : Keeps z (b4Read s w off n) := by
  unfold b4Read
  repeat' first
    | (intro x; first | (have hx : Keeps z x := (by repeat' first | with_reducible assumption | intro _ | (with_reducible first | apply keeps_bump | apply keeps_ite)); clear_value x) | (have hx : Keeps z x.1 := (by repeat' first | with_reducible assumption | intro _ | (with_reducible first | apply keeps_b4Fetch | apply keeps_foldl_fst)); clear_value x))
    | lift_lets
    | (with_reducible apply keeps_mk; with_reducible assumption)

theorem keeps_execBar4Read {z : State} (w : Who) (off n : Nat) (s : State) (hk : Keeps z s) : KeepsO z (execBar4Read w off n s) := by
  unfold execBar4Read
  repeat' first | (with_reducible first | assumption | apply keeps_b4Read | apply keepsO)

theorem keeps_execIwOperationDone {z : State} (w : Who) (s : State) (hk : Keeps z s) : KeepsO z (execIwOperationDone w s) := by
  unfold execIwOperationDone
  repeat' first
    | with_reducible assumption
    | (intro x; first | (have hx : Keeps z x.1 := (by repeat' first | (with_reducible first | assumption | apply keeps_b4Fetch | apply keeps_b4Piece)); clear_value x) | try clear_value x)
    | lift_lets
    | (with_reducible first | apply keeps_iwData | apply keeps_iwEnd | apply keepsO_ite | apply keepsO)

theorem keeps_writeCode {z : State} (s : State) (w : Who) (a v : Nat) (hk : Keeps z s) : Keeps z (writeCode s w a v).1 := by
  unfold writeCode
  repeat' first | (with_reducible first | assumption | apply keeps_regWrite)

theorem keeps_readCode {z : State} (s : State) (w : Who) (a : Nat) (hk : Keeps z s) : Keeps z (readCode s w a).1 := by
  unfold readCode
  repeat' first | (with_reducible first | assumption | apply keeps_regRead)

theorem keeps_regAccesses {z : State} (s : State) (w : Who) (p : List Byte) (hk : Keeps z s) : Keeps z (regAccesses s w p).1 := by
  unfold regAccesses
  repeat' first
    | with_reducible assumption
    | (intro x; first | (have hx : Keeps z x.1 := (by repeat' first | (with_reducible first | assumption | apply keeps_readCode | apply keeps_writeCode)); clear_value x) | try clear_value x)
    | lift_lets
    | with_reducible apply keeps_foldl_fst
    | split

theorem keeps_regRequest {z : State} (s : State) (w : Who) (p : List Byte) (hk : Keeps z s) : Keeps z (regRequest s w p).1 := by
  unfold regRequest
  repeat' first
    | with_reducible assumption
    | (intro x; (have hx : Keeps z x.1 := (by repeat' first | (with_reducible first | assumption | apply keeps_regAccesses)); clear_value x))
    | lift_lets
    | with_reducible apply keeps_bump
    | split

theorem keeps_execReg {z : State} (s : State) (hk : Keeps z s) : KeepsO z (execReg s) := by
  unfold execReg
  repeat' first
    | with_reducible assumption
    | intro _
    | (with_reducible first | apply keeps_regRequest | apply keeps_sendFrame | apply keeps_takeInbox | apply keepsO_ite | apply keepsO)
    | split
    | apply keeps_fst (by with_reducible assumption)
    | apply keeps_someF (by with_reducible assumption)
    | fail

theorem keeps_svcSend {z : State} (s : State) (op tag : Nat) (body : List Byte) (hk : Keeps z s) : Keeps z (svcSend s op tag body) := by
  unfold svcSend
  repeat' first | (with_reducible apply keeps_mk; with_reducible assumption)

theorem keeps_execSvcReg {z : State} (tag : Nat) (body : List Byte) (s : State) (hk : Keeps z s) : KeepsO z (execSvcReg tag body s) := by
  unfold execSvcReg
  repeat' first
    | (with_reducible first | assumption | apply keeps_regRequest | apply keeps_svcSend | apply keepsO)
    | split
    | apply keeps_fst (by with_reducible assumption)
    | fail

theorem keeps_svcRun {z : State} (s : State) (k : CmdSt) (pay : List Byte) (v : Nat) (ok : Bool) (hk : Keeps z s) : Keeps z (svcRun s k pay
    v ok).1 := by
  unfold svcRun
  repeat' first
    | with_reducible assumption
    | (intro x; try clear_value x)
    | lift_lets
    | (with_reducible first | apply keeps_restart | apply keeps_settingsSave | apply keeps_updAbort | apply keeps_updActivate | apply keeps_updBegin | apply keeps_updChunk | apply keeps_updConfig | apply keeps_updConfirm | apply keeps_updFallback)
    | split

theorem keeps_execSvcCmd {z : State} (tag : Nat) (desc pay : List Byte) (v : Nat) (ok : Bool) (s : State) (hk : Keeps z s) : KeepsO z
    (execSvcCmd tag desc pay v ok s) := by
  unfold execSvcCmd
  repeat' first
    | with_reducible assumption
    | (intro x; first | (have hx : Keeps z x.1 := (by repeat' first | (with_reducible first | assumption | apply keeps_svcRun) | split | dsimp only [x]); clear_value x) | try clear_value x)
    | lift_lets
    | (with_reducible first | apply keeps_svcSend | apply keepsO)

theorem keeps_dbgCapture {z : State} (s : State) (hk : Keeps z s) : Keeps z (dbgCapture s) := by
  unfold dbgCapture
  repeat' first | (with_reducible first | assumption | apply keeps_setIr | apply keeps_setTdo)

theorem keeps_dbgKeep {z : State} (s : State) (data code : Nat) (hk : Keeps z s) : Keeps z (dbgKeep s data code) := by
  unfold dbgKeep
  repeat' first | split | (with_reducible apply keeps_mk; with_reducible assumption)

theorem keeps_dbgDenied {z : State} (s : State) (hk : Keeps z s) : Keeps z (dbgDenied s) := by
  unfold dbgDenied
  repeat' first | with_reducible assumption | (with_reducible apply keeps_mk; with_reducible apply keeps_bump)

theorem keeps_execDbgAccessRead {z : State} (a : Nat) (s : State) (hk : Keeps z s) : KeepsO z (execDbgAccessRead a s) := by
  unfold execDbgAccessRead
  repeat' first
    | with_reducible assumption
    | (intro x; first | (have hx : Keeps z x := (by repeat' first | (with_reducible first | assumption | apply keeps_dbgCapture)); clear_value x) | (have hx : Keeps z x.1 := (by repeat' first | (with_reducible first | assumption | apply keeps_readCode)); clear_value x) | try clear_value x)
    | lift_lets
    | (with_reducible first | apply keeps_dbgDenied | apply keeps_dbgKeep | apply keepsO_ite | apply keepsO)

theorem keeps_execDbgAccessWrite {z : State} (a v : Nat) (s : State) (hk : Keeps z s) : KeepsO z (execDbgAccessWrite a v s) := by
  unfold execDbgAccessWrite
  repeat' first
    | with_reducible assumption
    | (intro x; first | (have hx : Keeps z x := (by repeat' first | (with_reducible first | assumption | apply keeps_dbgCapture)); clear_value x) | (have hx : Keeps z x.1 := (by repeat' first | (with_reducible first | assumption | apply keeps_writeCode)); clear_value x) | try clear_value x)
    | lift_lets
    | (with_reducible first | apply keeps_dbgDenied | apply keeps_dbgKeep | apply keepsO_ite | apply keepsO)

theorem keeps_bootStore {z : State} (x : Boot) (ops : List FlashOp) (b : BcrSt) (hk : Keeps z x.s) : Keeps z (bootStore x ops b).1.s := by
  unfold bootStore
  repeat' first
    | with_reducible assumption
    | (intro x; (have hx : Keeps z x.1 := (by repeat' first | (with_reducible first | assumption | apply keeps_bcrStoreWith)); clear_value x))
    | lift_lets

theorem keeps_tryStore {z : State} (ops : List FlashOp) (b : BcrSt) (y0 : Nat) (y1 : Boot) (hk : Keeps z y1.s) : Keeps z (tryStore ops b y0
    y1).1.s := by
  induction y0 generalizing y1 with
  | zero => unfold tryStore; exact hk
  | succ k ih =>
    unfold tryStore
    repeat' first
      | (with_reducible first | assumption | apply keeps_bootStore | apply ih)
      | split
      | apply keeps_fstB (by with_reducible assumption)
      | fail

theorem keeps_romStore {z : State} (x : Boot) (b : BcrSt) (hk : Keeps z x.s) : Keeps z (romStore x b).1.s := by
  unfold romStore
  repeat' first | (with_reducible first | assumption | apply keeps_tryStore)

theorem keeps_drimonStore {z : State} (x : Boot) (b : BcrSt) (hk : Keeps z x.s) : Keeps z (drimonStore x b).s := by
  unfold drimonStore
  repeat' first
    | (with_reducible first | assumption | apply keeps_addRetry | apply keeps_bootStore)
    | split
    | apply keeps_fstB (by with_reducible assumption)
    | fail

theorem keeps_romFail {z : State} (x : Boot) (hk : Keeps z x.s) : Keeps z (romFail x).s := by
  unfold romFail
  repeat' first | (with_reducible first | assumption | apply keeps_verifyFail)

theorem keeps_verifyLast {z : State} (x : Boot) (slot reason : Nat) (hk : Keeps z x.s) : Keeps z (verifyLast x slot reason).x.s := by
  unfold verifyLast
  repeat' first | (with_reducible first | assumption | apply keeps_romFail) | split

theorem keeps_verifySlot {z : State} (x : Boot) (slot reason : Nat) (hk : Keeps z x.s) : Keeps z (verifySlot x slot reason).x.s := by
  unfold verifySlot
  repeat' first
    | with_reducible assumption
    | (intro x; first | (have hx : Keeps z x.1 := (by repeat' first | (with_reducible first | assumption | apply keeps_romFail | apply keeps_romStore)); clear_value x) | try clear_value x)
    | lift_lets
    | with_reducible apply keeps_verifyLast
    | split

theorem keeps_fallTo {z : State} (x : Boot) (reason : Nat) (hk : Keeps z x.s) : Keeps z (fallTo x reason).x.s := by
  unfold fallTo
  repeat' first | with_reducible assumption | (intro x; try clear_value x) | lift_lets | with_reducible apply keeps_verifySlot | split

theorem keeps_chooseFactory {z : State} (x : Boot) (hk : Keeps z x.s) : Keeps z (chooseFactory x).x.s := by
  unfold chooseFactory
  repeat' first
    | with_reducible assumption
    | (intro x; first | (have hx : Keeps z x.1 := (by repeat' first | (with_reducible first | assumption | apply keeps_updBoot)); clear_value x) | (have hx : Keeps z x.1.s := (by repeat' first | (with_reducible first | assumption | apply keeps_romFail | apply keeps_verifyLast)); clear_value x))
    | lift_lets
    | split

theorem keeps_choose {z : State} (x0 : Boot) (hk : Keeps z x0.s) : Keeps z (choose x0).x.s := by
  unfold choose
  repeat' first
    | with_reducible assumption
    | (intro x; (have hx : Keeps z x.1 := (by repeat' first | (with_reducible first | assumption | apply keeps_updBoot)); clear_value x))
    | lift_lets
    | (with_reducible first | apply keeps_chooseFactory | apply keeps_fallTo | apply keeps_romStore | apply keeps_verifySlot)
    | split
    | apply keeps_fstB (by with_reducible assumption)
    | fail

theorem keeps_enterRescue {z : State} (s : State) (hk : Keeps z s) : Keeps z (enterRescue s) := by
  unfold enterRescue
  repeat' first
    | with_reducible assumption
    | (intro x; (have hx : Keeps z x := (by repeat' first | with_reducible assumption | intro _ | (with_reducible first | apply keeps_setUnitState | apply keeps_foldl)); clear_value x))
    | lift_lets
    | (with_reducible first | apply keeps_resumeDelivery | apply keeps_setUnitState | apply keeps_updBoot)

theorem keeps_loadDrimon {z : State} (s : State) (slot reason : Nat) (warm : Bool) (hk : Keeps z s) : Keeps z (loadDrimon s slot reason
    warm) := by
  unfold loadDrimon
  repeat' first
    | with_reducible assumption
    | (intro x; first | (have hx : Keeps z x := (by repeat' first | (with_reducible first | assumption | apply keeps_measureObj | apply keeps_resumeDelivery | apply keeps_updBoot | apply keeps_wrN)); clear_value x) | try clear_value x)
    | lift_lets
    | with_reducible apply keeps_measureObj

theorem keeps_giveUp {z : State} (x : Boot) (hk : Keeps z x.s) : Keeps z (giveUp x).s := by
  unfold giveUp
  repeat' first
    | with_reducible assumption
    | (intro x; first | (have hx : Keeps z x := (by repeat' first | (with_reducible first | assumption | apply keeps_irq | apply keeps_notice | apply keeps_updBoot)); clear_value x) | (have hx : Keeps z x.1 := (by repeat' first | (with_reducible first | assumption | apply keeps_drimonStore)); clear_value x))
    | lift_lets
    | with_reducible apply keeps_updPwr

theorem keeps_loadMasks {z : State} (s : State) (hk : Keeps z s) : Keeps z (loadMasks s) := by
  unfold loadMasks
  repeat' first
    | with_reducible assumption
    | (intro x; try clear_value x)
    | lift_lets
    | (with_reducible first | apply keeps_wrN | apply keeps_foldl)

theorem keeps_loadMap {z : State} (s : State) (hk : Keeps z s) : Keeps z (loadMap s) := by
  unfold loadMap
  repeat' first
    | with_reducible assumption
    | (intro x; first | (have hx : Keeps z x := (by repeat' first | (with_reducible first | assumption | apply keeps_setFld)); clear_value x) | try clear_value x)
    | lift_lets
    | (with_reducible first | apply keeps_setFlag | apply keeps_ite)

theorem keeps_loadLinks {z : State} (s : State) (hk : Keeps z s) : Keeps z (loadLinks s) := by
  unfold loadLinks
  repeat' first
    | with_reducible assumption
    | intro _
    | (with_reducible first | apply keeps_lnkCfgWrite | apply keeps_ite | apply keeps_foldl)

theorem keeps_loadMgmt {z : State} (s : State) (hk : Keeps z s) : Keeps z (loadMgmt s) := by
  unfold loadMgmt
  repeat' first
    | with_reducible assumption
    | (intro x; try clear_value x)
    | lift_lets
    | (with_reducible first | apply keeps_ctxEnable | apply keeps_updCtx | apply keeps_foldl)

theorem keeps_loadReg {z : State} (s : State) (a v : Nat) (hk : Keeps z s) : Keeps z (loadReg s a v) := by
  unfold loadReg
  repeat' first
    | with_reducible assumption
    | (intro x; first | (have hx : Keeps z x := (by repeat' first | with_reducible assumption | intro _ | (with_reducible first | apply keeps_regWrite | apply keeps_setFlag | apply keeps_ite)); clear_value x) | try clear_value x)
    | lift_lets
    | (with_reducible first | apply keeps_setFlag | apply keeps_ite)

theorem keeps_readyPages {z : State} (s : State) (hk : Keeps z s) : Keeps z (readyPages s) := by
  unfold readyPages
  repeat' first
    | with_reducible assumption
    | intro _
    | (with_reducible first | apply keeps_setUnitState | apply keeps_ite | apply keeps_foldl)

theorem keeps_showGrade {z : State} (s : State) (hk : Keeps z s) : Keeps z (showGrade s) := by
  unfold showGrade
  repeat' first
    | with_reducible assumption
    | (intro x; try clear_value x)
    | lift_lets
    | (with_reducible first | apply keeps_setFlag | apply keeps_setFld | apply keeps_ite)

theorem keeps_loadRecord {z : State} (s : State) (hk : Keeps z s) : Keeps z (loadRecord s) := by
  unfold loadRecord
  repeat' first
    | with_reducible assumption
    | (intro x; first | (have hx : Keeps z x := (by repeat' first | (with_reducible first | assumption | apply keeps_loadLinks | apply keeps_loadMap | apply keeps_loadMasks | apply keeps_loadMgmt | apply keeps_readyPages | apply keeps_setFlag | apply keeps_showGrade)); clear_value x) | try clear_value x)
    | lift_lets
    | (with_reducible first | apply keeps_loadReg | apply keeps_foldl)

theorem keeps_copyImage {z : State} (s : State) (hk : Keeps z s) : Keeps z (copyImage s) := by
  unfold copyImage
  repeat' first | (with_reducible first | assumption | apply keeps_memWrite)

theorem keeps_stage4 {z : State} (x0 : Boot) (fresh : Bool) (hk : Keeps z x0.s) : Keeps z (stage4 x0 fresh).s := by
  unfold stage4
  repeat' first
    | with_reducible assumption
    | (intro x; first | (have hx : Keeps z x := (by repeat' first | with_reducible assumption | intro _ | (with_reducible first | apply keeps_setFlag | apply keeps_wrN | apply keeps_ite)); clear_value x) | (have hx : Keeps z x.1 := (by repeat' first | (with_reducible first | assumption | apply keeps_copyImage | apply keeps_drimonStore | apply keeps_loadRecord) | split | dsimp only [x]); clear_value x))
    | lift_lets
    | (with_reducible first | apply keeps_enterRescue | apply keeps_giveUp | apply keeps_updPwr | apply keeps_verifyFail | apply keeps_wrN)
    | split

theorem keeps_startFrom {z : State} (s0 : State) (uid vr : Nat) (vs : List Nat) (warm : Bool) (asked : Nat) (hk : Keeps z s0) : Keeps z
    (startFrom s0 uid vr vs warm asked) := by
  unfold startFrom
  repeat' first
    | with_reducible assumption
    | (intro x; first | (have hx : Keeps z x := (by repeat' first | with_reducible assumption | intro _ | (with_reducible first | apply keeps_clearLog | apply keeps_measureObj | apply keeps_setFld | apply keeps_showRecord | apply keeps_updPwr | apply keeps_verifyFail | apply keeps_foldl)); clear_value x) | (have hx : Keeps z x.1 := (by repeat' first | with_reducible assumption); clear_value x) | (have hx : Keeps z x.1.s := (by repeat' first | with_reducible assumption | intro _ | (with_reducible first | apply keeps_choose | apply keeps_newChallenge | apply keeps_ite)); clear_value x) | try clear_value x)
    | lift_lets
    | (with_reducible first | apply keeps_enterRescue | apply keeps_loadDrimon | apply keeps_stage4 | apply keeps_ite)
    | split

theorem keeps_execPowerOnBoot {z : State} (now : Nat) (seed0 : Option (List Byte)) (corrected vr link : Nat) (vs : List Nat) (s0 : State)
    (hk : Keeps z s0) : KeepsO z (execPowerOnBoot now seed0 corrected vr link vs s0) := by
  unfold execPowerOnBoot
  repeat' first
    | with_reducible assumption
    | (intro x; first | (have hx : Keeps z x := (by repeat' first | (with_reducible first | assumption | apply keeps_advance | apply keeps_setFld | apply keeps_showIdentity | apply keeps_updPwr)); clear_value x) | try clear_value x)
    | lift_lets
    | (with_reducible first | apply keeps_setUnitState | apply keeps_startFrom | apply keepsO_ite | apply keepsO)

theorem keeps_loadCtl {z : State} (ok : Bool) (s : State) (c : Nat) (hk : Keeps z s) : Keeps z (loadCtl ok s c) := by
  unfold loadCtl
  repeat' first
    | with_reducible assumption
    | intro _
    | (with_reducible first | apply keeps_healthErr | apply keeps_recErr | apply keeps_setFld | apply keeps_setUnitState | apply keeps_wrN | apply keeps_ite)

theorem keeps_measureHelpers {z : State} (s : State) (hk : Keeps z s) : Keeps z (measureHelpers s) := by
  unfold measureHelpers
  repeat' first
    | with_reducible assumption
    | intro _
    | (with_reducible first | apply keeps_healthErr | apply keeps_measureObj | apply keeps_ite | apply keeps_foldl)

theorem keeps_migrateStep {z : State} (x : Boot) (hk : Keeps z x.s) : Keeps z (migrateStep x).1.s := by
  unfold migrateStep
  repeat' first
    | with_reducible assumption
    | (intro x; first | (have hx : Keeps z x := (by repeat' first | with_reducible assumption); clear_value x) | try clear_value x)
    | lift_lets
    | (with_reducible first | apply keeps_healthErr | apply keeps_tryStore)
    | split

theorem keeps_applySetting {z : State} (s : State) (a v : Nat) (hk : Keeps z s) : Keeps z (applySetting s a v) := by
  unfold applySetting
  repeat' first
    | with_reducible assumption
    | (intro x; first | (have hx : Keeps z x := (by repeat' first | (with_reducible first | assumption | apply keeps_regWrite)); clear_value x) | try clear_value x)
    | lift_lets
    | (with_reducible first | apply keeps_bump | apply keeps_ite)

theorem keeps_applySettings {z : State} (s : State) (hk : Keeps z s) : Keeps z (applySettings s) := by
  unfold applySettings
  repeat' first
    | with_reducible assumption
    | intro _
    | (with_reducible first | apply keeps_applySetting | apply keeps_setFlag | apply keeps_ite | apply keeps_foldl)
    | split

theorem keeps_releaseOrig {z : State} (x : Boot) (hk : Keeps z x.s) : Keeps z (releaseOrig x).s := by
  unfold releaseOrig
  repeat' first | with_reducible assumption | (intro x; try clear_value x) | lift_lets | with_reducible apply keeps_drimonStore | split

theorem keeps_bootRidge {z : State} (s : State) (hk : Keeps z s) : Keeps z (bootRidge s) := by
  unfold bootRidge
  repeat' first
    | with_reducible assumption
    | (intro x; first | (have hx : Keeps z x := (by repeat' first | (with_reducible first | assumption | apply keeps_addLog | apply keeps_insertCairn | apply keeps_setFlag | apply keeps_setFld | apply keeps_takeSetting | apply keeps_updPwr)); clear_value x) | try clear_value x)
    | lift_lets
    | (with_reducible first | apply keeps_fusBivouacExit | apply keeps_motBivouac | apply keeps_ite)

theorem keeps_stage7 {z : State} (s : State) (hk : Keeps z s) : Keeps z (stage7 s) := by
  unfold stage7
  repeat' first
    | with_reducible assumption
    | (intro x; first | (have hx : Keeps z x := (by repeat' first | with_reducible assumption | intro _ | (with_reducible first | apply keeps_bootRidge | apply keeps_insertCairn | apply keeps_irq | apply keeps_notice | apply keeps_ite)); clear_value x) | try clear_value x)
    | lift_lets
    | (with_reducible first | apply keeps_retarget | apply keeps_updBoot | apply keeps_updPwr)

theorem keeps_finishBoot {z : State} (s0 : State) (vs : List Nat) (hk : Keeps z s0) : Keeps z (finishBoot s0 vs) := by
  unfold finishBoot
  repeat' first
    | with_reducible assumption
    | (intro x; first | (have hx : Keeps z x := (by repeat' first | with_reducible assumption | intro _ | (with_reducible first | apply keeps_loadCtl | apply keeps_measureHelpers | apply keeps_foldl)); clear_value x) | (have hx : Keeps z x.1 := (by repeat' first | with_reducible assumption); clear_value x) | try clear_value x)
    | lift_lets
    | (with_reducible first | apply keeps_applySettings | apply keeps_giveUp | apply keeps_healthErr | apply keeps_migrateStep | apply keeps_releaseOrig | apply keeps_stage7 | apply keeps_ite)
    | split
    | apply keeps_fstB (by with_reducible assumption)
    | fail

theorem keeps_execClusterPowerUp {z : State} (now : Nat) (vs : List Nat) (s0 : State) (hk : Keeps z s0) : KeepsO z (execClusterPowerUp now
    vs s0) := by
  unfold execClusterPowerUp
  repeat' first
    | with_reducible assumption
    | (intro x; first | (have hx : Keeps z x := (by repeat' first | (with_reducible first | assumption | apply keeps_advance | apply keeps_nextCluster)); clear_value x) | try clear_value x)
    | lift_lets
    | (with_reducible first | apply keeps_finishBoot | apply keepsO_ite | apply keepsO)
    | split

theorem keeps_warmCtx {z : State} (s : State) (c : Nat) (hk : Keeps z s) : Keeps z (warmCtx s c) := by
  unfold warmCtx
  repeat' first | (with_reducible first | assumption | apply keeps_flrCtx | apply keeps_updCtx)

theorem keeps_warmReset {z : State} (s : State) (hk : Keeps z s) : Keeps z (warmReset s) := by
  unfold warmReset
  repeat' first
    | with_reducible assumption
    | (intro x; (have hx : Keeps z x := (by repeat' first | with_reducible assumption | intro _ | (with_reducible first | apply keeps_clearQuote | apply keeps_resetCore | apply keeps_resetCtl | apply keeps_resetPart | apply keeps_resetTile | apply keeps_setFlag | apply keeps_setFld | apply keeps_setPhase | apply keeps_updLad | apply keeps_warmCtx | apply keeps_foldl) | (with_reducible apply keeps_mk; with_reducible assumption)); clear_value x))
    | lift_lets
    | with_reducible apply keeps_updBoot

theorem keeps_execWarmBoot {z : State} (now vr : Nat) (vs : List Nat) (s0 : State) (hk : Keeps z s0) : KeepsO z (execWarmBoot now vr vs s0)
    := by
  unfold execWarmBoot
  repeat' first
    | with_reducible assumption
    | (intro x; first | (have hx : Keeps z x := (by repeat' first | with_reducible assumption | intro _ | (with_reducible first | apply keeps_advance | apply keeps_irq | apply keeps_notice | apply keeps_ite)); clear_value x) | try clear_value x)
    | lift_lets
    | (with_reducible first | apply keeps_startFrom | apply keeps_warmReset | apply keepsO_ite | apply keepsO)
    | split

theorem keeps_execThermtrip {z : State} (now : Nat) (temps : List Nat) (s0 : State) (hk : Keeps z s0) : KeepsO z (execThermtrip now temps
    s0) := by
  unfold execThermtrip
  repeat' first
    | with_reducible assumption
    | (intro x; first | (have hx : Keeps z x := (by repeat' first | (with_reducible first | assumption | apply keeps_advance | apply keeps_takeTemps)); clear_value x) | try clear_value x)
    | lift_lets
    | (with_reducible first | apply keeps_halt | apply keeps_setPhase | apply keeps_updPwr | apply keepsO_ite | apply keepsO)

end Sys2Proof.Laws
end

