-- ==== Sys2Proof/Laws/State.lean ====
section
/-!
SUPPORT. For each plain update of State: the field that it changes, and that every other field stays. Each lemma gives simp one rule per
field, so no proof has to unfold a record update.
-/
namespace Sys2Proof.Laws
open Sys2Proof Sys2Proof.Machine

@[simp] theorem wr_frame (s : State) (a : Nat) (v : Word) : (wr s a v).pending = s.pending ∧ (wr s a v).free = s.free ∧ (wr s a
    v).pendDis = s.pendDis ∧ (wr s a v).disarmed = s.disarmed ∧ (wr s a v).opBusy = s.opBusy ∧ (wr s a v).msix = s.msix ∧ (wr s a v).bme
    = s.bme ∧ (wr s a v).msgs = s.msgs ∧ (wr s a v).log = s.log ∧ (wr s a v).loopCnt = s.loopCnt ∧ (wr s a v).ft = s.ft ∧ (wr s a
    v).ftFrac = s.ftFrac ∧ (wr s a v).disc = s.disc ∧ (wr s a v).ptp = s.ptp ∧ (wr s a v).pps = s.pps ∧ (wr s a v).srv = s.srv ∧ (wr s a
    v).mp = s.mp ∧ (wr s a v).ports = s.ports ∧ (wr s a v).i3c = s.i3c ∧ (wr s a v).wide = s.wide ∧ (wr s a v).cairns = s.cairns ∧ (wr s
    a v).srcs = s.srcs ∧ (wr s a v).hops = s.hops ∧ (wr s a v).rgn = s.rgn ∧ (wr s a v).pins = s.pins ∧ (wr s a v).spikeQ = s.spikeQ ∧
    (wr s a v).slots = s.slots ∧ (wr s a v).awaiting = s.awaiting ∧ (wr s a v).ncFifo = s.ncFifo ∧ (wr s a v).nc = s.nc ∧ (wr s a v).uop
    = s.uop ∧ (wr s a v).mem = s.mem ∧ (wr s a v).memUe = s.memUe ∧ (wr s a v).memFail = s.memFail ∧ (wr s a v).sram = s.sram ∧ (wr s a
    v).poison = s.poison ∧ (wr s a v).ce = s.ce ∧ (wr s a v).scrubs = s.scrubs ∧ (wr s a v).held = s.held ∧ (wr s a v).tabs = s.tabs ∧
    (wr s a v).hostMem = s.hostMem ∧ (wr s a v).flash = s.flash ∧ (wr s a v).desc = s.desc ∧ (wr s a v).ctxs = s.ctxs ∧ (wr s a v).ancs
    = s.ancs ∧ (wr s a v).tiles = s.tiles ∧ (wr s a v).jobs = s.jobs ∧ (wr s a v).lastJob = s.lastJob ∧ (wr s a v).accepted = s.accepted
    ∧ (wr s a v).binder = s.binder ∧ (wr s a v).txq = s.txq ∧ (wr s a v).inbox = s.inbox ∧ (wr s a v).sent = s.sent ∧ (wr s a v).txSeq =
    s.txSeq ∧ (wr s a v).triggers = s.triggers ∧ (wr s a v).ptpTx = s.ptpTx ∧ (wr s a v).rdata = s.rdata ∧ (wr s a v).rpois = s.rpois ∧
    (wr s a v).evMs = s.evMs ∧ (wr s a v).evCnt = s.evCnt ∧ (wr s a v).evLast = s.evLast ∧ (wr s a v).trigs = s.trigs ∧ (wr s a v).lost
    = s.lost ∧ (wr s a v).known = s.known ∧ (wr s a v).lean = s.lean ∧ (wr s a v).samples = s.samples ∧ (wr s a v).pwr = s.pwr ∧ (wr s a
    v).tmux = s.tmux ∧ (wr s a v).disputed = s.disputed ∧ (wr s a v).enc = s.enc ∧ (wr s a v).imu = s.imu ∧ (wr s a v).chain = s.chain ∧
    (wr s a v).bars = s.bars ∧ (wr s a v).fus = s.fus ∧ (wr s a v).out = s.out ∧ (wr s a v).ladder = s.ladder ∧ (wr s a v).sec = s.sec ∧
    (wr s a v).boot = s.boot ∧ (wr s a v).jtag = s.jtag ∧ (wr s a v).links = s.links ∧ (wr s a v).rbars = s.rbars ∧ (wr s a v).relay =
    s.relay ∧ (wr s a v).svc = s.svc := by
  simp only [wr, and_self]

@[simp] theorem wr_regs (s : State) (a : Nat) (v : Word) : (wr s a v).regs = tset resetWord s.regs a v := rfl

@[simp] theorem setWide_frame (s : State) (a n : Nat) : (setWide s a n).pending = s.pending ∧ (setWide s a n).free = s.free ∧ (setWide s
    a n).regs = s.regs ∧ (setWide s a n).pendDis = s.pendDis ∧ (setWide s a n).disarmed = s.disarmed ∧ (setWide s a n).opBusy = s.opBusy
    ∧ (setWide s a n).msix = s.msix ∧ (setWide s a n).bme = s.bme ∧ (setWide s a n).msgs = s.msgs ∧ (setWide s a n).log = s.log ∧
    (setWide s a n).loopCnt = s.loopCnt ∧ (setWide s a n).ft = s.ft ∧ (setWide s a n).ftFrac = s.ftFrac ∧ (setWide s a n).disc = s.disc
    ∧ (setWide s a n).ptp = s.ptp ∧ (setWide s a n).pps = s.pps ∧ (setWide s a n).srv = s.srv ∧ (setWide s a n).mp = s.mp ∧ (setWide s a
    n).ports = s.ports ∧ (setWide s a n).i3c = s.i3c ∧ (setWide s a n).cairns = s.cairns ∧ (setWide s a n).srcs = s.srcs ∧ (setWide s a
    n).hops = s.hops ∧ (setWide s a n).rgn = s.rgn ∧ (setWide s a n).pins = s.pins ∧ (setWide s a n).spikeQ = s.spikeQ ∧ (setWide s a
    n).slots = s.slots ∧ (setWide s a n).awaiting = s.awaiting ∧ (setWide s a n).ncFifo = s.ncFifo ∧ (setWide s a n).nc = s.nc ∧
    (setWide s a n).uop = s.uop ∧ (setWide s a n).mem = s.mem ∧ (setWide s a n).memUe = s.memUe ∧ (setWide s a n).memFail = s.memFail ∧
    (setWide s a n).sram = s.sram ∧ (setWide s a n).poison = s.poison ∧ (setWide s a n).ce = s.ce ∧ (setWide s a n).scrubs = s.scrubs ∧
    (setWide s a n).held = s.held ∧ (setWide s a n).tabs = s.tabs ∧ (setWide s a n).hostMem = s.hostMem ∧ (setWide s a n).flash =
    s.flash ∧ (setWide s a n).desc = s.desc ∧ (setWide s a n).ctxs = s.ctxs ∧ (setWide s a n).ancs = s.ancs ∧ (setWide s a n).tiles =
    s.tiles ∧ (setWide s a n).jobs = s.jobs ∧ (setWide s a n).lastJob = s.lastJob ∧ (setWide s a n).accepted = s.accepted ∧ (setWide s a
    n).binder = s.binder ∧ (setWide s a n).txq = s.txq ∧ (setWide s a n).inbox = s.inbox ∧ (setWide s a n).sent = s.sent ∧ (setWide s a
    n).txSeq = s.txSeq ∧ (setWide s a n).triggers = s.triggers ∧ (setWide s a n).ptpTx = s.ptpTx ∧ (setWide s a n).rdata = s.rdata ∧
    (setWide s a n).rpois = s.rpois ∧ (setWide s a n).evMs = s.evMs ∧ (setWide s a n).evCnt = s.evCnt ∧ (setWide s a n).evLast =
    s.evLast ∧ (setWide s a n).trigs = s.trigs ∧ (setWide s a n).lost = s.lost ∧ (setWide s a n).known = s.known ∧ (setWide s a n).lean
    = s.lean ∧ (setWide s a n).samples = s.samples ∧ (setWide s a n).pwr = s.pwr ∧ (setWide s a n).tmux = s.tmux ∧ (setWide s a
    n).disputed = s.disputed ∧ (setWide s a n).enc = s.enc ∧ (setWide s a n).imu = s.imu ∧ (setWide s a n).chain = s.chain ∧ (setWide s
    a n).bars = s.bars ∧ (setWide s a n).fus = s.fus ∧ (setWide s a n).out = s.out ∧ (setWide s a n).ladder = s.ladder ∧ (setWide s a
    n).sec = s.sec ∧ (setWide s a n).boot = s.boot ∧ (setWide s a n).jtag = s.jtag ∧ (setWide s a n).links = s.links ∧ (setWide s a
    n).rbars = s.rbars ∧ (setWide s a n).relay = s.relay ∧ (setWide s a n).svc = s.svc := by
  simp only [setWide, and_self]

@[simp] theorem setWide_wide (s : State) (a n : Nat) : (setWide s a n).wide = tset natD s.wide a (n % 18446744073709551616) := rfl

@[simp] theorem setPort_frame (s : State) (p : Nat) (x : PortSt) : (setPort s p x).pending = s.pending ∧ (setPort s p x).free = s.free ∧
    (setPort s p x).regs = s.regs ∧ (setPort s p x).pendDis = s.pendDis ∧ (setPort s p x).disarmed = s.disarmed ∧ (setPort s p x).opBusy
    = s.opBusy ∧ (setPort s p x).msix = s.msix ∧ (setPort s p x).bme = s.bme ∧ (setPort s p x).msgs = s.msgs ∧ (setPort s p x).log =
    s.log ∧ (setPort s p x).loopCnt = s.loopCnt ∧ (setPort s p x).ft = s.ft ∧ (setPort s p x).ftFrac = s.ftFrac ∧ (setPort s p x).disc =
    s.disc ∧ (setPort s p x).ptp = s.ptp ∧ (setPort s p x).pps = s.pps ∧ (setPort s p x).srv = s.srv ∧ (setPort s p x).mp = s.mp ∧
    (setPort s p x).i3c = s.i3c ∧ (setPort s p x).wide = s.wide ∧ (setPort s p x).cairns = s.cairns ∧ (setPort s p x).srcs = s.srcs ∧
    (setPort s p x).hops = s.hops ∧ (setPort s p x).rgn = s.rgn ∧ (setPort s p x).pins = s.pins ∧ (setPort s p x).spikeQ = s.spikeQ ∧
    (setPort s p x).slots = s.slots ∧ (setPort s p x).awaiting = s.awaiting ∧ (setPort s p x).ncFifo = s.ncFifo ∧ (setPort s p x).nc =
    s.nc ∧ (setPort s p x).uop = s.uop ∧ (setPort s p x).mem = s.mem ∧ (setPort s p x).memUe = s.memUe ∧ (setPort s p x).memFail =
    s.memFail ∧ (setPort s p x).sram = s.sram ∧ (setPort s p x).poison = s.poison ∧ (setPort s p x).ce = s.ce ∧ (setPort s p x).scrubs =
    s.scrubs ∧ (setPort s p x).held = s.held ∧ (setPort s p x).tabs = s.tabs ∧ (setPort s p x).hostMem = s.hostMem ∧ (setPort s p
    x).flash = s.flash ∧ (setPort s p x).desc = s.desc ∧ (setPort s p x).ctxs = s.ctxs ∧ (setPort s p x).ancs = s.ancs ∧ (setPort s p
    x).tiles = s.tiles ∧ (setPort s p x).jobs = s.jobs ∧ (setPort s p x).lastJob = s.lastJob ∧ (setPort s p x).accepted = s.accepted ∧
    (setPort s p x).binder = s.binder ∧ (setPort s p x).txq = s.txq ∧ (setPort s p x).inbox = s.inbox ∧ (setPort s p x).sent = s.sent ∧
    (setPort s p x).txSeq = s.txSeq ∧ (setPort s p x).triggers = s.triggers ∧ (setPort s p x).ptpTx = s.ptpTx ∧ (setPort s p x).rdata =
    s.rdata ∧ (setPort s p x).rpois = s.rpois ∧ (setPort s p x).evMs = s.evMs ∧ (setPort s p x).evCnt = s.evCnt ∧ (setPort s p x).evLast
    = s.evLast ∧ (setPort s p x).trigs = s.trigs ∧ (setPort s p x).lost = s.lost ∧ (setPort s p x).known = s.known ∧ (setPort s p
    x).lean = s.lean ∧ (setPort s p x).samples = s.samples ∧ (setPort s p x).pwr = s.pwr ∧ (setPort s p x).tmux = s.tmux ∧ (setPort s p
    x).disputed = s.disputed ∧ (setPort s p x).enc = s.enc ∧ (setPort s p x).imu = s.imu ∧ (setPort s p x).chain = s.chain ∧ (setPort s
    p x).bars = s.bars ∧ (setPort s p x).fus = s.fus ∧ (setPort s p x).out = s.out ∧ (setPort s p x).ladder = s.ladder ∧ (setPort s p
    x).sec = s.sec ∧ (setPort s p x).boot = s.boot ∧ (setPort s p x).jtag = s.jtag ∧ (setPort s p x).links = s.links ∧ (setPort s p
    x).rbars = s.rbars ∧ (setPort s p x).relay = s.relay ∧ (setPort s p x).svc = s.svc := by
  simp only [setPort, and_self]

@[simp] theorem setPort_ports (s : State) (p : Nat) (x : PortSt) : (setPort s p x).ports = tset portD s.ports p x := rfl

@[simp] theorem setServo_frame (s : State) (p : Nat) (x : SrvSt) : (setServo s p x).pending = s.pending ∧ (setServo s p x).free = s.free
    ∧ (setServo s p x).regs = s.regs ∧ (setServo s p x).pendDis = s.pendDis ∧ (setServo s p x).disarmed = s.disarmed ∧ (setServo s p
    x).opBusy = s.opBusy ∧ (setServo s p x).msix = s.msix ∧ (setServo s p x).bme = s.bme ∧ (setServo s p x).msgs = s.msgs ∧ (setServo s
    p x).log = s.log ∧ (setServo s p x).loopCnt = s.loopCnt ∧ (setServo s p x).ft = s.ft ∧ (setServo s p x).ftFrac = s.ftFrac ∧
    (setServo s p x).disc = s.disc ∧ (setServo s p x).ptp = s.ptp ∧ (setServo s p x).pps = s.pps ∧ (setServo s p x).mp = s.mp ∧
    (setServo s p x).ports = s.ports ∧ (setServo s p x).i3c = s.i3c ∧ (setServo s p x).wide = s.wide ∧ (setServo s p x).cairns =
    s.cairns ∧ (setServo s p x).srcs = s.srcs ∧ (setServo s p x).hops = s.hops ∧ (setServo s p x).rgn = s.rgn ∧ (setServo s p x).pins =
    s.pins ∧ (setServo s p x).spikeQ = s.spikeQ ∧ (setServo s p x).slots = s.slots ∧ (setServo s p x).awaiting = s.awaiting ∧ (setServo
    s p x).ncFifo = s.ncFifo ∧ (setServo s p x).nc = s.nc ∧ (setServo s p x).uop = s.uop ∧ (setServo s p x).mem = s.mem ∧ (setServo s p
    x).memUe = s.memUe ∧ (setServo s p x).memFail = s.memFail ∧ (setServo s p x).sram = s.sram ∧ (setServo s p x).poison = s.poison ∧
    (setServo s p x).ce = s.ce ∧ (setServo s p x).scrubs = s.scrubs ∧ (setServo s p x).held = s.held ∧ (setServo s p x).tabs = s.tabs ∧
    (setServo s p x).hostMem = s.hostMem ∧ (setServo s p x).flash = s.flash ∧ (setServo s p x).desc = s.desc ∧ (setServo s p x).ctxs =
    s.ctxs ∧ (setServo s p x).ancs = s.ancs ∧ (setServo s p x).tiles = s.tiles ∧ (setServo s p x).jobs = s.jobs ∧ (setServo s p
    x).lastJob = s.lastJob ∧ (setServo s p x).accepted = s.accepted ∧ (setServo s p x).binder = s.binder ∧ (setServo s p x).txq = s.txq
    ∧ (setServo s p x).inbox = s.inbox ∧ (setServo s p x).sent = s.sent ∧ (setServo s p x).txSeq = s.txSeq ∧ (setServo s p x).triggers =
    s.triggers ∧ (setServo s p x).ptpTx = s.ptpTx ∧ (setServo s p x).rdata = s.rdata ∧ (setServo s p x).rpois = s.rpois ∧ (setServo s p
    x).evMs = s.evMs ∧ (setServo s p x).evCnt = s.evCnt ∧ (setServo s p x).evLast = s.evLast ∧ (setServo s p x).trigs = s.trigs ∧
    (setServo s p x).lost = s.lost ∧ (setServo s p x).known = s.known ∧ (setServo s p x).lean = s.lean ∧ (setServo s p x).samples =
    s.samples ∧ (setServo s p x).pwr = s.pwr ∧ (setServo s p x).tmux = s.tmux ∧ (setServo s p x).disputed = s.disputed ∧ (setServo s p
    x).enc = s.enc ∧ (setServo s p x).imu = s.imu ∧ (setServo s p x).chain = s.chain ∧ (setServo s p x).bars = s.bars ∧ (setServo s p
    x).fus = s.fus ∧ (setServo s p x).out = s.out ∧ (setServo s p x).ladder = s.ladder ∧ (setServo s p x).sec = s.sec ∧ (setServo s p
    x).boot = s.boot ∧ (setServo s p x).jtag = s.jtag ∧ (setServo s p x).links = s.links ∧ (setServo s p x).rbars = s.rbars ∧ (setServo
    s p x).relay = s.relay ∧ (setServo s p x).svc = s.svc := by
  simp only [setServo, and_self]

@[simp] theorem setServo_srv (s : State) (p : Nat) (x : SrvSt) : (setServo s p x).srv = tset srvD s.srv p x := rfl

@[simp] theorem setPtp_frame (s : State) (n : Nat) (x : PtpSt) : (setPtp s n x).pending = s.pending ∧ (setPtp s n x).free = s.free ∧
    (setPtp s n x).regs = s.regs ∧ (setPtp s n x).pendDis = s.pendDis ∧ (setPtp s n x).disarmed = s.disarmed ∧ (setPtp s n x).opBusy =
    s.opBusy ∧ (setPtp s n x).msix = s.msix ∧ (setPtp s n x).bme = s.bme ∧ (setPtp s n x).msgs = s.msgs ∧ (setPtp s n x).log = s.log ∧
    (setPtp s n x).loopCnt = s.loopCnt ∧ (setPtp s n x).ft = s.ft ∧ (setPtp s n x).ftFrac = s.ftFrac ∧ (setPtp s n x).disc = s.disc ∧
    (setPtp s n x).pps = s.pps ∧ (setPtp s n x).srv = s.srv ∧ (setPtp s n x).mp = s.mp ∧ (setPtp s n x).ports = s.ports ∧ (setPtp s n
    x).i3c = s.i3c ∧ (setPtp s n x).wide = s.wide ∧ (setPtp s n x).cairns = s.cairns ∧ (setPtp s n x).srcs = s.srcs ∧ (setPtp s n
    x).hops = s.hops ∧ (setPtp s n x).rgn = s.rgn ∧ (setPtp s n x).pins = s.pins ∧ (setPtp s n x).spikeQ = s.spikeQ ∧ (setPtp s n
    x).slots = s.slots ∧ (setPtp s n x).awaiting = s.awaiting ∧ (setPtp s n x).ncFifo = s.ncFifo ∧ (setPtp s n x).nc = s.nc ∧ (setPtp s
    n x).uop = s.uop ∧ (setPtp s n x).mem = s.mem ∧ (setPtp s n x).memUe = s.memUe ∧ (setPtp s n x).memFail = s.memFail ∧ (setPtp s n
    x).sram = s.sram ∧ (setPtp s n x).poison = s.poison ∧ (setPtp s n x).ce = s.ce ∧ (setPtp s n x).scrubs = s.scrubs ∧ (setPtp s n
    x).held = s.held ∧ (setPtp s n x).tabs = s.tabs ∧ (setPtp s n x).hostMem = s.hostMem ∧ (setPtp s n x).flash = s.flash ∧ (setPtp s n
    x).desc = s.desc ∧ (setPtp s n x).ctxs = s.ctxs ∧ (setPtp s n x).ancs = s.ancs ∧ (setPtp s n x).tiles = s.tiles ∧ (setPtp s n
    x).jobs = s.jobs ∧ (setPtp s n x).lastJob = s.lastJob ∧ (setPtp s n x).accepted = s.accepted ∧ (setPtp s n x).binder = s.binder ∧
    (setPtp s n x).txq = s.txq ∧ (setPtp s n x).inbox = s.inbox ∧ (setPtp s n x).sent = s.sent ∧ (setPtp s n x).txSeq = s.txSeq ∧
    (setPtp s n x).triggers = s.triggers ∧ (setPtp s n x).ptpTx = s.ptpTx ∧ (setPtp s n x).rdata = s.rdata ∧ (setPtp s n x).rpois =
    s.rpois ∧ (setPtp s n x).evMs = s.evMs ∧ (setPtp s n x).evCnt = s.evCnt ∧ (setPtp s n x).evLast = s.evLast ∧ (setPtp s n x).trigs =
    s.trigs ∧ (setPtp s n x).lost = s.lost ∧ (setPtp s n x).known = s.known ∧ (setPtp s n x).lean = s.lean ∧ (setPtp s n x).samples =
    s.samples ∧ (setPtp s n x).pwr = s.pwr ∧ (setPtp s n x).tmux = s.tmux ∧ (setPtp s n x).disputed = s.disputed ∧ (setPtp s n x).enc =
    s.enc ∧ (setPtp s n x).imu = s.imu ∧ (setPtp s n x).chain = s.chain ∧ (setPtp s n x).bars = s.bars ∧ (setPtp s n x).fus = s.fus ∧
    (setPtp s n x).out = s.out ∧ (setPtp s n x).ladder = s.ladder ∧ (setPtp s n x).sec = s.sec ∧ (setPtp s n x).boot = s.boot ∧ (setPtp
    s n x).jtag = s.jtag ∧ (setPtp s n x).links = s.links ∧ (setPtp s n x).rbars = s.rbars ∧ (setPtp s n x).relay = s.relay ∧ (setPtp s
    n x).svc = s.svc := by
  simp only [setPtp, and_self]

@[simp] theorem setPtp_ptp (s : State) (n : Nat) (x : PtpSt) : (setPtp s n x).ptp = tset ptpD s.ptp n x := rfl

@[simp] theorem setBus_frame (s : State) (b : Nat) (x : I3cSt) : (setBus s b x).pending = s.pending ∧ (setBus s b x).free = s.free ∧
    (setBus s b x).regs = s.regs ∧ (setBus s b x).pendDis = s.pendDis ∧ (setBus s b x).disarmed = s.disarmed ∧ (setBus s b x).opBusy =
    s.opBusy ∧ (setBus s b x).msix = s.msix ∧ (setBus s b x).bme = s.bme ∧ (setBus s b x).msgs = s.msgs ∧ (setBus s b x).log = s.log ∧
    (setBus s b x).loopCnt = s.loopCnt ∧ (setBus s b x).ft = s.ft ∧ (setBus s b x).ftFrac = s.ftFrac ∧ (setBus s b x).disc = s.disc ∧
    (setBus s b x).ptp = s.ptp ∧ (setBus s b x).pps = s.pps ∧ (setBus s b x).srv = s.srv ∧ (setBus s b x).mp = s.mp ∧ (setBus s b
    x).ports = s.ports ∧ (setBus s b x).wide = s.wide ∧ (setBus s b x).cairns = s.cairns ∧ (setBus s b x).srcs = s.srcs ∧ (setBus s b
    x).hops = s.hops ∧ (setBus s b x).rgn = s.rgn ∧ (setBus s b x).pins = s.pins ∧ (setBus s b x).spikeQ = s.spikeQ ∧ (setBus s b
    x).slots = s.slots ∧ (setBus s b x).awaiting = s.awaiting ∧ (setBus s b x).ncFifo = s.ncFifo ∧ (setBus s b x).nc = s.nc ∧ (setBus s
    b x).uop = s.uop ∧ (setBus s b x).mem = s.mem ∧ (setBus s b x).memUe = s.memUe ∧ (setBus s b x).memFail = s.memFail ∧ (setBus s b
    x).sram = s.sram ∧ (setBus s b x).poison = s.poison ∧ (setBus s b x).ce = s.ce ∧ (setBus s b x).scrubs = s.scrubs ∧ (setBus s b
    x).held = s.held ∧ (setBus s b x).tabs = s.tabs ∧ (setBus s b x).hostMem = s.hostMem ∧ (setBus s b x).flash = s.flash ∧ (setBus s b
    x).desc = s.desc ∧ (setBus s b x).ctxs = s.ctxs ∧ (setBus s b x).ancs = s.ancs ∧ (setBus s b x).tiles = s.tiles ∧ (setBus s b
    x).jobs = s.jobs ∧ (setBus s b x).lastJob = s.lastJob ∧ (setBus s b x).accepted = s.accepted ∧ (setBus s b x).binder = s.binder ∧
    (setBus s b x).txq = s.txq ∧ (setBus s b x).inbox = s.inbox ∧ (setBus s b x).sent = s.sent ∧ (setBus s b x).txSeq = s.txSeq ∧
    (setBus s b x).triggers = s.triggers ∧ (setBus s b x).ptpTx = s.ptpTx ∧ (setBus s b x).rdata = s.rdata ∧ (setBus s b x).rpois =
    s.rpois ∧ (setBus s b x).evMs = s.evMs ∧ (setBus s b x).evCnt = s.evCnt ∧ (setBus s b x).evLast = s.evLast ∧ (setBus s b x).trigs =
    s.trigs ∧ (setBus s b x).lost = s.lost ∧ (setBus s b x).known = s.known ∧ (setBus s b x).lean = s.lean ∧ (setBus s b x).samples =
    s.samples ∧ (setBus s b x).pwr = s.pwr ∧ (setBus s b x).tmux = s.tmux ∧ (setBus s b x).disputed = s.disputed ∧ (setBus s b x).enc =
    s.enc ∧ (setBus s b x).imu = s.imu ∧ (setBus s b x).chain = s.chain ∧ (setBus s b x).bars = s.bars ∧ (setBus s b x).fus = s.fus ∧
    (setBus s b x).out = s.out ∧ (setBus s b x).ladder = s.ladder ∧ (setBus s b x).sec = s.sec ∧ (setBus s b x).boot = s.boot ∧ (setBus
    s b x).jtag = s.jtag ∧ (setBus s b x).links = s.links ∧ (setBus s b x).rbars = s.rbars ∧ (setBus s b x).relay = s.relay ∧ (setBus s
    b x).svc = s.svc := by
  simp only [setBus, and_self]

@[simp] theorem setBus_i3c (s : State) (b : Nat) (x : I3cSt) : (setBus s b x).i3c = tset i3cD s.i3c b x := rfl

@[simp] theorem setDisPend_frame (s : State) (a : Nat) (b : Bool) : (setDisPend s a b).pending = s.pending ∧ (setDisPend s a b).free =
    s.free ∧ (setDisPend s a b).regs = s.regs ∧ (setDisPend s a b).disarmed = s.disarmed ∧ (setDisPend s a b).opBusy = s.opBusy ∧
    (setDisPend s a b).msix = s.msix ∧ (setDisPend s a b).bme = s.bme ∧ (setDisPend s a b).msgs = s.msgs ∧ (setDisPend s a b).log =
    s.log ∧ (setDisPend s a b).loopCnt = s.loopCnt ∧ (setDisPend s a b).ft = s.ft ∧ (setDisPend s a b).ftFrac = s.ftFrac ∧ (setDisPend s
    a b).disc = s.disc ∧ (setDisPend s a b).ptp = s.ptp ∧ (setDisPend s a b).pps = s.pps ∧ (setDisPend s a b).srv = s.srv ∧ (setDisPend
    s a b).mp = s.mp ∧ (setDisPend s a b).ports = s.ports ∧ (setDisPend s a b).i3c = s.i3c ∧ (setDisPend s a b).wide = s.wide ∧
    (setDisPend s a b).cairns = s.cairns ∧ (setDisPend s a b).srcs = s.srcs ∧ (setDisPend s a b).hops = s.hops ∧ (setDisPend s a b).rgn
    = s.rgn ∧ (setDisPend s a b).pins = s.pins ∧ (setDisPend s a b).spikeQ = s.spikeQ ∧ (setDisPend s a b).slots = s.slots ∧ (setDisPend
    s a b).awaiting = s.awaiting ∧ (setDisPend s a b).ncFifo = s.ncFifo ∧ (setDisPend s a b).nc = s.nc ∧ (setDisPend s a b).uop = s.uop
    ∧ (setDisPend s a b).mem = s.mem ∧ (setDisPend s a b).memUe = s.memUe ∧ (setDisPend s a b).memFail = s.memFail ∧ (setDisPend s a
    b).sram = s.sram ∧ (setDisPend s a b).poison = s.poison ∧ (setDisPend s a b).ce = s.ce ∧ (setDisPend s a b).scrubs = s.scrubs ∧
    (setDisPend s a b).held = s.held ∧ (setDisPend s a b).tabs = s.tabs ∧ (setDisPend s a b).hostMem = s.hostMem ∧ (setDisPend s a
    b).flash = s.flash ∧ (setDisPend s a b).desc = s.desc ∧ (setDisPend s a b).ctxs = s.ctxs ∧ (setDisPend s a b).ancs = s.ancs ∧
    (setDisPend s a b).tiles = s.tiles ∧ (setDisPend s a b).jobs = s.jobs ∧ (setDisPend s a b).lastJob = s.lastJob ∧ (setDisPend s a
    b).accepted = s.accepted ∧ (setDisPend s a b).binder = s.binder ∧ (setDisPend s a b).txq = s.txq ∧ (setDisPend s a b).inbox =
    s.inbox ∧ (setDisPend s a b).sent = s.sent ∧ (setDisPend s a b).txSeq = s.txSeq ∧ (setDisPend s a b).triggers = s.triggers ∧
    (setDisPend s a b).ptpTx = s.ptpTx ∧ (setDisPend s a b).rdata = s.rdata ∧ (setDisPend s a b).rpois = s.rpois ∧ (setDisPend s a
    b).evMs = s.evMs ∧ (setDisPend s a b).evCnt = s.evCnt ∧ (setDisPend s a b).evLast = s.evLast ∧ (setDisPend s a b).trigs = s.trigs ∧
    (setDisPend s a b).lost = s.lost ∧ (setDisPend s a b).known = s.known ∧ (setDisPend s a b).lean = s.lean ∧ (setDisPend s a
    b).samples = s.samples ∧ (setDisPend s a b).pwr = s.pwr ∧ (setDisPend s a b).tmux = s.tmux ∧ (setDisPend s a b).disputed =
    s.disputed ∧ (setDisPend s a b).enc = s.enc ∧ (setDisPend s a b).imu = s.imu ∧ (setDisPend s a b).chain = s.chain ∧ (setDisPend s a
    b).bars = s.bars ∧ (setDisPend s a b).fus = s.fus ∧ (setDisPend s a b).out = s.out ∧ (setDisPend s a b).ladder = s.ladder ∧
    (setDisPend s a b).sec = s.sec ∧ (setDisPend s a b).boot = s.boot ∧ (setDisPend s a b).jtag = s.jtag ∧ (setDisPend s a b).links =
    s.links ∧ (setDisPend s a b).rbars = s.rbars ∧ (setDisPend s a b).relay = s.relay ∧ (setDisPend s a b).svc = s.svc := by
  simp only [setDisPend, and_self]

@[simp] theorem setDisPend_pendDis (s : State) (a : Nat) (b : Bool) : (setDisPend s a b).pendDis = tset boolD s.pendDis a b := rfl

@[simp] theorem setOp_frame (s : State) (a : Nat) (b : Bool) : (setOp s a b).pending = s.pending ∧ (setOp s a b).free = s.free ∧ (setOp
    s a b).regs = s.regs ∧ (setOp s a b).pendDis = s.pendDis ∧ (setOp s a b).disarmed = s.disarmed ∧ (setOp s a b).msix = s.msix ∧
    (setOp s a b).bme = s.bme ∧ (setOp s a b).msgs = s.msgs ∧ (setOp s a b).log = s.log ∧ (setOp s a b).loopCnt = s.loopCnt ∧ (setOp s a
    b).ft = s.ft ∧ (setOp s a b).ftFrac = s.ftFrac ∧ (setOp s a b).disc = s.disc ∧ (setOp s a b).ptp = s.ptp ∧ (setOp s a b).pps = s.pps
    ∧ (setOp s a b).srv = s.srv ∧ (setOp s a b).mp = s.mp ∧ (setOp s a b).ports = s.ports ∧ (setOp s a b).i3c = s.i3c ∧ (setOp s a
    b).wide = s.wide ∧ (setOp s a b).cairns = s.cairns ∧ (setOp s a b).srcs = s.srcs ∧ (setOp s a b).hops = s.hops ∧ (setOp s a b).rgn =
    s.rgn ∧ (setOp s a b).pins = s.pins ∧ (setOp s a b).spikeQ = s.spikeQ ∧ (setOp s a b).slots = s.slots ∧ (setOp s a b).awaiting =
    s.awaiting ∧ (setOp s a b).ncFifo = s.ncFifo ∧ (setOp s a b).nc = s.nc ∧ (setOp s a b).uop = s.uop ∧ (setOp s a b).mem = s.mem ∧
    (setOp s a b).memUe = s.memUe ∧ (setOp s a b).memFail = s.memFail ∧ (setOp s a b).sram = s.sram ∧ (setOp s a b).poison = s.poison ∧
    (setOp s a b).ce = s.ce ∧ (setOp s a b).scrubs = s.scrubs ∧ (setOp s a b).held = s.held ∧ (setOp s a b).tabs = s.tabs ∧ (setOp s a
    b).hostMem = s.hostMem ∧ (setOp s a b).flash = s.flash ∧ (setOp s a b).desc = s.desc ∧ (setOp s a b).ctxs = s.ctxs ∧ (setOp s a
    b).ancs = s.ancs ∧ (setOp s a b).tiles = s.tiles ∧ (setOp s a b).jobs = s.jobs ∧ (setOp s a b).lastJob = s.lastJob ∧ (setOp s a
    b).accepted = s.accepted ∧ (setOp s a b).binder = s.binder ∧ (setOp s a b).txq = s.txq ∧ (setOp s a b).inbox = s.inbox ∧ (setOp s a
    b).sent = s.sent ∧ (setOp s a b).txSeq = s.txSeq ∧ (setOp s a b).triggers = s.triggers ∧ (setOp s a b).ptpTx = s.ptpTx ∧ (setOp s a
    b).rdata = s.rdata ∧ (setOp s a b).rpois = s.rpois ∧ (setOp s a b).evMs = s.evMs ∧ (setOp s a b).evCnt = s.evCnt ∧ (setOp s a
    b).evLast = s.evLast ∧ (setOp s a b).trigs = s.trigs ∧ (setOp s a b).lost = s.lost ∧ (setOp s a b).known = s.known ∧ (setOp s a
    b).lean = s.lean ∧ (setOp s a b).samples = s.samples ∧ (setOp s a b).pwr = s.pwr ∧ (setOp s a b).tmux = s.tmux ∧ (setOp s a
    b).disputed = s.disputed ∧ (setOp s a b).enc = s.enc ∧ (setOp s a b).imu = s.imu ∧ (setOp s a b).chain = s.chain ∧ (setOp s a
    b).bars = s.bars ∧ (setOp s a b).fus = s.fus ∧ (setOp s a b).out = s.out ∧ (setOp s a b).ladder = s.ladder ∧ (setOp s a b).sec =
    s.sec ∧ (setOp s a b).boot = s.boot ∧ (setOp s a b).jtag = s.jtag ∧ (setOp s a b).links = s.links ∧ (setOp s a b).rbars = s.rbars ∧
    (setOp s a b).relay = s.relay ∧ (setOp s a b).svc = s.svc := by
  simp only [setOp, and_self]

@[simp] theorem setOp_opBusy (s : State) (a : Nat) (b : Bool) : (setOp s a b).opBusy = tset boolD s.opBusy a b := rfl

@[simp] theorem addLogData_frame (s : State) (l : LoopId) (old new reason : Nat) (d : List Nat) : (addLogData s l old new reason
    d).pending = s.pending ∧ (addLogData s l old new reason d).free = s.free ∧ (addLogData s l old new reason d).regs = s.regs ∧
    (addLogData s l old new reason d).pendDis = s.pendDis ∧ (addLogData s l old new reason d).disarmed = s.disarmed ∧ (addLogData s l
    old new reason d).opBusy = s.opBusy ∧ (addLogData s l old new reason d).msix = s.msix ∧ (addLogData s l old new reason d).bme =
    s.bme ∧ (addLogData s l old new reason d).msgs = s.msgs ∧ (addLogData s l old new reason d).ft = s.ft ∧ (addLogData s l old new
    reason d).ftFrac = s.ftFrac ∧ (addLogData s l old new reason d).disc = s.disc ∧ (addLogData s l old new reason d).ptp = s.ptp ∧
    (addLogData s l old new reason d).pps = s.pps ∧ (addLogData s l old new reason d).srv = s.srv ∧ (addLogData s l old new reason d).mp
    = s.mp ∧ (addLogData s l old new reason d).ports = s.ports ∧ (addLogData s l old new reason d).i3c = s.i3c ∧ (addLogData s l old new
    reason d).wide = s.wide ∧ (addLogData s l old new reason d).cairns = s.cairns ∧ (addLogData s l old new reason d).srcs = s.srcs ∧
    (addLogData s l old new reason d).hops = s.hops ∧ (addLogData s l old new reason d).rgn = s.rgn ∧ (addLogData s l old new reason
    d).pins = s.pins ∧ (addLogData s l old new reason d).spikeQ = s.spikeQ ∧ (addLogData s l old new reason d).slots = s.slots ∧
    (addLogData s l old new reason d).awaiting = s.awaiting ∧ (addLogData s l old new reason d).ncFifo = s.ncFifo ∧ (addLogData s l old
    new reason d).nc = s.nc ∧ (addLogData s l old new reason d).uop = s.uop ∧ (addLogData s l old new reason d).mem = s.mem ∧
    (addLogData s l old new reason d).memUe = s.memUe ∧ (addLogData s l old new reason d).memFail = s.memFail ∧ (addLogData s l old new
    reason d).sram = s.sram ∧ (addLogData s l old new reason d).poison = s.poison ∧ (addLogData s l old new reason d).ce = s.ce ∧
    (addLogData s l old new reason d).scrubs = s.scrubs ∧ (addLogData s l old new reason d).held = s.held ∧ (addLogData s l old new
    reason d).tabs = s.tabs ∧ (addLogData s l old new reason d).hostMem = s.hostMem ∧ (addLogData s l old new reason d).flash = s.flash
    ∧ (addLogData s l old new reason d).desc = s.desc ∧ (addLogData s l old new reason d).ctxs = s.ctxs ∧ (addLogData s l old new reason
    d).ancs = s.ancs ∧ (addLogData s l old new reason d).tiles = s.tiles ∧ (addLogData s l old new reason d).jobs = s.jobs ∧ (addLogData
    s l old new reason d).lastJob = s.lastJob ∧ (addLogData s l old new reason d).accepted = s.accepted ∧ (addLogData s l old new reason
    d).binder = s.binder ∧ (addLogData s l old new reason d).txq = s.txq ∧ (addLogData s l old new reason d).inbox = s.inbox ∧
    (addLogData s l old new reason d).sent = s.sent ∧ (addLogData s l old new reason d).txSeq = s.txSeq ∧ (addLogData s l old new reason
    d).triggers = s.triggers ∧ (addLogData s l old new reason d).ptpTx = s.ptpTx ∧ (addLogData s l old new reason d).rdata = s.rdata ∧
    (addLogData s l old new reason d).rpois = s.rpois ∧ (addLogData s l old new reason d).evMs = s.evMs ∧ (addLogData s l old new reason
    d).evCnt = s.evCnt ∧ (addLogData s l old new reason d).evLast = s.evLast ∧ (addLogData s l old new reason d).trigs = s.trigs ∧
    (addLogData s l old new reason d).lost = s.lost ∧ (addLogData s l old new reason d).known = s.known ∧ (addLogData s l old new reason
    d).lean = s.lean ∧ (addLogData s l old new reason d).samples = s.samples ∧ (addLogData s l old new reason d).pwr = s.pwr ∧
    (addLogData s l old new reason d).tmux = s.tmux ∧ (addLogData s l old new reason d).disputed = s.disputed ∧ (addLogData s l old new
    reason d).enc = s.enc ∧ (addLogData s l old new reason d).imu = s.imu ∧ (addLogData s l old new reason d).chain = s.chain ∧
    (addLogData s l old new reason d).bars = s.bars ∧ (addLogData s l old new reason d).fus = s.fus ∧ (addLogData s l old new reason
    d).out = s.out ∧ (addLogData s l old new reason d).ladder = s.ladder ∧ (addLogData s l old new reason d).sec = s.sec ∧ (addLogData s
    l old new reason d).boot = s.boot ∧ (addLogData s l old new reason d).jtag = s.jtag ∧ (addLogData s l old new reason d).links =
    s.links ∧ (addLogData s l old new reason d).rbars = s.rbars ∧ (addLogData s l old new reason d).relay = s.relay ∧ (addLogData s l
    old new reason d).svc = s.svc := by
  simp only [addLogData, and_self]

@[simp] theorem addLogData_log (s : State) (l : LoopId) (old new reason : Nat) (d : List Nat) : (addLogData s l old new reason d).log =
    s.log ++ [{ ft := s.ft, loop := l, old := old, new := new, reason := reason, data := d }] := rfl

@[simp] theorem addLogData_loopCnt (s : State) (l : LoopId) (old new reason : Nat) (d : List Nat) : (addLogData s l old new reason
    d).loopCnt = tset natD s.loopCnt (loopCode l) (tget natD s.loopCnt (loopCode l) + 1) := rfl

@[simp] theorem addLog_frame (s : State) (l : LoopId) (old new reason : Nat) : (addLog s l old new reason).pending = s.pending ∧ (addLog
    s l old new reason).free = s.free ∧ (addLog s l old new reason).regs = s.regs ∧ (addLog s l old new reason).pendDis = s.pendDis ∧
    (addLog s l old new reason).disarmed = s.disarmed ∧ (addLog s l old new reason).opBusy = s.opBusy ∧ (addLog s l old new reason).msix
    = s.msix ∧ (addLog s l old new reason).bme = s.bme ∧ (addLog s l old new reason).msgs = s.msgs ∧ (addLog s l old new reason).ft =
    s.ft ∧ (addLog s l old new reason).ftFrac = s.ftFrac ∧ (addLog s l old new reason).disc = s.disc ∧ (addLog s l old new reason).ptp =
    s.ptp ∧ (addLog s l old new reason).pps = s.pps ∧ (addLog s l old new reason).srv = s.srv ∧ (addLog s l old new reason).mp = s.mp ∧
    (addLog s l old new reason).ports = s.ports ∧ (addLog s l old new reason).i3c = s.i3c ∧ (addLog s l old new reason).wide = s.wide ∧
    (addLog s l old new reason).cairns = s.cairns ∧ (addLog s l old new reason).srcs = s.srcs ∧ (addLog s l old new reason).hops =
    s.hops ∧ (addLog s l old new reason).rgn = s.rgn ∧ (addLog s l old new reason).pins = s.pins ∧ (addLog s l old new reason).spikeQ =
    s.spikeQ ∧ (addLog s l old new reason).slots = s.slots ∧ (addLog s l old new reason).awaiting = s.awaiting ∧ (addLog s l old new
    reason).ncFifo = s.ncFifo ∧ (addLog s l old new reason).nc = s.nc ∧ (addLog s l old new reason).uop = s.uop ∧ (addLog s l old new
    reason).mem = s.mem ∧ (addLog s l old new reason).memUe = s.memUe ∧ (addLog s l old new reason).memFail = s.memFail ∧ (addLog s l
    old new reason).sram = s.sram ∧ (addLog s l old new reason).poison = s.poison ∧ (addLog s l old new reason).ce = s.ce ∧ (addLog s l
    old new reason).scrubs = s.scrubs ∧ (addLog s l old new reason).held = s.held ∧ (addLog s l old new reason).tabs = s.tabs ∧ (addLog
    s l old new reason).hostMem = s.hostMem ∧ (addLog s l old new reason).flash = s.flash ∧ (addLog s l old new reason).desc = s.desc ∧
    (addLog s l old new reason).ctxs = s.ctxs ∧ (addLog s l old new reason).ancs = s.ancs ∧ (addLog s l old new reason).tiles = s.tiles
    ∧ (addLog s l old new reason).jobs = s.jobs ∧ (addLog s l old new reason).lastJob = s.lastJob ∧ (addLog s l old new reason).accepted
    = s.accepted ∧ (addLog s l old new reason).binder = s.binder ∧ (addLog s l old new reason).txq = s.txq ∧ (addLog s l old new
    reason).inbox = s.inbox ∧ (addLog s l old new reason).sent = s.sent ∧ (addLog s l old new reason).txSeq = s.txSeq ∧ (addLog s l old
    new reason).triggers = s.triggers ∧ (addLog s l old new reason).ptpTx = s.ptpTx ∧ (addLog s l old new reason).rdata = s.rdata ∧
    (addLog s l old new reason).rpois = s.rpois ∧ (addLog s l old new reason).evMs = s.evMs ∧ (addLog s l old new reason).evCnt =
    s.evCnt ∧ (addLog s l old new reason).evLast = s.evLast ∧ (addLog s l old new reason).trigs = s.trigs ∧ (addLog s l old new
    reason).lost = s.lost ∧ (addLog s l old new reason).known = s.known ∧ (addLog s l old new reason).lean = s.lean ∧ (addLog s l old
    new reason).samples = s.samples ∧ (addLog s l old new reason).pwr = s.pwr ∧ (addLog s l old new reason).tmux = s.tmux ∧ (addLog s l
    old new reason).disputed = s.disputed ∧ (addLog s l old new reason).enc = s.enc ∧ (addLog s l old new reason).imu = s.imu ∧ (addLog
    s l old new reason).chain = s.chain ∧ (addLog s l old new reason).bars = s.bars ∧ (addLog s l old new reason).fus = s.fus ∧ (addLog
    s l old new reason).out = s.out ∧ (addLog s l old new reason).ladder = s.ladder ∧ (addLog s l old new reason).sec = s.sec ∧ (addLog
    s l old new reason).boot = s.boot ∧ (addLog s l old new reason).jtag = s.jtag ∧ (addLog s l old new reason).links = s.links ∧
    (addLog s l old new reason).rbars = s.rbars ∧ (addLog s l old new reason).relay = s.relay ∧ (addLog s l old new reason).svc = s.svc := by
  simp only [addLog, addLogData, and_self]

@[simp] theorem setVec_frame (s : State) (fn vec : Nat) (x : MsixVec) : (setVec s fn vec x).pending = s.pending ∧ (setVec s fn vec
    x).free = s.free ∧ (setVec s fn vec x).regs = s.regs ∧ (setVec s fn vec x).pendDis = s.pendDis ∧ (setVec s fn vec x).disarmed =
    s.disarmed ∧ (setVec s fn vec x).opBusy = s.opBusy ∧ (setVec s fn vec x).bme = s.bme ∧ (setVec s fn vec x).msgs = s.msgs ∧ (setVec s
    fn vec x).log = s.log ∧ (setVec s fn vec x).loopCnt = s.loopCnt ∧ (setVec s fn vec x).ft = s.ft ∧ (setVec s fn vec x).ftFrac =
    s.ftFrac ∧ (setVec s fn vec x).disc = s.disc ∧ (setVec s fn vec x).ptp = s.ptp ∧ (setVec s fn vec x).pps = s.pps ∧ (setVec s fn vec
    x).srv = s.srv ∧ (setVec s fn vec x).mp = s.mp ∧ (setVec s fn vec x).ports = s.ports ∧ (setVec s fn vec x).i3c = s.i3c ∧ (setVec s
    fn vec x).wide = s.wide ∧ (setVec s fn vec x).cairns = s.cairns ∧ (setVec s fn vec x).srcs = s.srcs ∧ (setVec s fn vec x).hops =
    s.hops ∧ (setVec s fn vec x).rgn = s.rgn ∧ (setVec s fn vec x).pins = s.pins ∧ (setVec s fn vec x).spikeQ = s.spikeQ ∧ (setVec s fn
    vec x).slots = s.slots ∧ (setVec s fn vec x).awaiting = s.awaiting ∧ (setVec s fn vec x).ncFifo = s.ncFifo ∧ (setVec s fn vec x).nc
    = s.nc ∧ (setVec s fn vec x).uop = s.uop ∧ (setVec s fn vec x).mem = s.mem ∧ (setVec s fn vec x).memUe = s.memUe ∧ (setVec s fn vec
    x).memFail = s.memFail ∧ (setVec s fn vec x).sram = s.sram ∧ (setVec s fn vec x).poison = s.poison ∧ (setVec s fn vec x).ce = s.ce ∧
    (setVec s fn vec x).scrubs = s.scrubs ∧ (setVec s fn vec x).held = s.held ∧ (setVec s fn vec x).tabs = s.tabs ∧ (setVec s fn vec
    x).hostMem = s.hostMem ∧ (setVec s fn vec x).flash = s.flash ∧ (setVec s fn vec x).desc = s.desc ∧ (setVec s fn vec x).ctxs = s.ctxs
    ∧ (setVec s fn vec x).ancs = s.ancs ∧ (setVec s fn vec x).tiles = s.tiles ∧ (setVec s fn vec x).jobs = s.jobs ∧ (setVec s fn vec
    x).lastJob = s.lastJob ∧ (setVec s fn vec x).accepted = s.accepted ∧ (setVec s fn vec x).binder = s.binder ∧ (setVec s fn vec x).txq
    = s.txq ∧ (setVec s fn vec x).inbox = s.inbox ∧ (setVec s fn vec x).sent = s.sent ∧ (setVec s fn vec x).txSeq = s.txSeq ∧ (setVec s
    fn vec x).triggers = s.triggers ∧ (setVec s fn vec x).ptpTx = s.ptpTx ∧ (setVec s fn vec x).rdata = s.rdata ∧ (setVec s fn vec
    x).rpois = s.rpois ∧ (setVec s fn vec x).evMs = s.evMs ∧ (setVec s fn vec x).evCnt = s.evCnt ∧ (setVec s fn vec x).evLast = s.evLast
    ∧ (setVec s fn vec x).trigs = s.trigs ∧ (setVec s fn vec x).lost = s.lost ∧ (setVec s fn vec x).known = s.known ∧ (setVec s fn vec
    x).lean = s.lean ∧ (setVec s fn vec x).samples = s.samples ∧ (setVec s fn vec x).pwr = s.pwr ∧ (setVec s fn vec x).tmux = s.tmux ∧
    (setVec s fn vec x).disputed = s.disputed ∧ (setVec s fn vec x).enc = s.enc ∧ (setVec s fn vec x).imu = s.imu ∧ (setVec s fn vec
    x).chain = s.chain ∧ (setVec s fn vec x).bars = s.bars ∧ (setVec s fn vec x).fus = s.fus ∧ (setVec s fn vec x).out = s.out ∧ (setVec
    s fn vec x).ladder = s.ladder ∧ (setVec s fn vec x).sec = s.sec ∧ (setVec s fn vec x).boot = s.boot ∧ (setVec s fn vec x).jtag =
    s.jtag ∧ (setVec s fn vec x).links = s.links ∧ (setVec s fn vec x).rbars = s.rbars ∧ (setVec s fn vec x).relay = s.relay ∧ (setVec s
    fn vec x).svc = s.svc := by
  simp only [setVec, and_self]

@[simp] theorem setVec_msix (s : State) (fn vec : Nat) (x : MsixVec) : (setVec s fn vec x).msix = tset msixD s.msix (vecKey fn vec) x :=
    rfl

@[simp] theorem rearm_frame (s : State) (a : Nat) : (rearm s a).pending = s.pending ∧ (rearm s a).free = s.free ∧ (rearm s a).regs =
    s.regs ∧ (rearm s a).pendDis = s.pendDis ∧ (rearm s a).opBusy = s.opBusy ∧ (rearm s a).msix = s.msix ∧ (rearm s a).bme = s.bme ∧
    (rearm s a).msgs = s.msgs ∧ (rearm s a).log = s.log ∧ (rearm s a).loopCnt = s.loopCnt ∧ (rearm s a).ft = s.ft ∧ (rearm s a).ftFrac =
    s.ftFrac ∧ (rearm s a).disc = s.disc ∧ (rearm s a).ptp = s.ptp ∧ (rearm s a).pps = s.pps ∧ (rearm s a).srv = s.srv ∧ (rearm s a).mp
    = s.mp ∧ (rearm s a).ports = s.ports ∧ (rearm s a).i3c = s.i3c ∧ (rearm s a).wide = s.wide ∧ (rearm s a).cairns = s.cairns ∧ (rearm
    s a).srcs = s.srcs ∧ (rearm s a).hops = s.hops ∧ (rearm s a).rgn = s.rgn ∧ (rearm s a).pins = s.pins ∧ (rearm s a).spikeQ = s.spikeQ
    ∧ (rearm s a).slots = s.slots ∧ (rearm s a).awaiting = s.awaiting ∧ (rearm s a).ncFifo = s.ncFifo ∧ (rearm s a).nc = s.nc ∧ (rearm s
    a).uop = s.uop ∧ (rearm s a).mem = s.mem ∧ (rearm s a).memUe = s.memUe ∧ (rearm s a).memFail = s.memFail ∧ (rearm s a).sram = s.sram
    ∧ (rearm s a).poison = s.poison ∧ (rearm s a).ce = s.ce ∧ (rearm s a).scrubs = s.scrubs ∧ (rearm s a).held = s.held ∧ (rearm s
    a).tabs = s.tabs ∧ (rearm s a).hostMem = s.hostMem ∧ (rearm s a).flash = s.flash ∧ (rearm s a).desc = s.desc ∧ (rearm s a).ctxs =
    s.ctxs ∧ (rearm s a).ancs = s.ancs ∧ (rearm s a).tiles = s.tiles ∧ (rearm s a).jobs = s.jobs ∧ (rearm s a).lastJob = s.lastJob ∧
    (rearm s a).accepted = s.accepted ∧ (rearm s a).binder = s.binder ∧ (rearm s a).txq = s.txq ∧ (rearm s a).inbox = s.inbox ∧ (rearm s
    a).sent = s.sent ∧ (rearm s a).txSeq = s.txSeq ∧ (rearm s a).triggers = s.triggers ∧ (rearm s a).ptpTx = s.ptpTx ∧ (rearm s a).rdata
    = s.rdata ∧ (rearm s a).rpois = s.rpois ∧ (rearm s a).evMs = s.evMs ∧ (rearm s a).evCnt = s.evCnt ∧ (rearm s a).evLast = s.evLast ∧
    (rearm s a).trigs = s.trigs ∧ (rearm s a).lost = s.lost ∧ (rearm s a).known = s.known ∧ (rearm s a).lean = s.lean ∧ (rearm s
    a).samples = s.samples ∧ (rearm s a).pwr = s.pwr ∧ (rearm s a).tmux = s.tmux ∧ (rearm s a).disputed = s.disputed ∧ (rearm s a).enc =
    s.enc ∧ (rearm s a).imu = s.imu ∧ (rearm s a).chain = s.chain ∧ (rearm s a).bars = s.bars ∧ (rearm s a).fus = s.fus ∧ (rearm s
    a).out = s.out ∧ (rearm s a).ladder = s.ladder ∧ (rearm s a).sec = s.sec ∧ (rearm s a).boot = s.boot ∧ (rearm s a).jtag = s.jtag ∧
    (rearm s a).links = s.links ∧ (rearm s a).rbars = s.rbars ∧ (rearm s a).relay = s.relay ∧ (rearm s a).svc = s.svc := by
  simp only [rearm, and_self]

@[simp] theorem rearm_disarmed (s : State) (a : Nat) : (rearm s a).disarmed = tset boolD s.disarmed a false := rfl

@[simp] theorem memWrite_frame (s : State) (a : Nat) (bs : List Byte) : (memWrite s a bs).pending = s.pending ∧ (memWrite s a bs).free =
    s.free ∧ (memWrite s a bs).regs = s.regs ∧ (memWrite s a bs).pendDis = s.pendDis ∧ (memWrite s a bs).disarmed = s.disarmed ∧
    (memWrite s a bs).opBusy = s.opBusy ∧ (memWrite s a bs).msix = s.msix ∧ (memWrite s a bs).bme = s.bme ∧ (memWrite s a bs).msgs =
    s.msgs ∧ (memWrite s a bs).log = s.log ∧ (memWrite s a bs).loopCnt = s.loopCnt ∧ (memWrite s a bs).ft = s.ft ∧ (memWrite s a
    bs).ftFrac = s.ftFrac ∧ (memWrite s a bs).disc = s.disc ∧ (memWrite s a bs).ptp = s.ptp ∧ (memWrite s a bs).pps = s.pps ∧ (memWrite
    s a bs).srv = s.srv ∧ (memWrite s a bs).mp = s.mp ∧ (memWrite s a bs).ports = s.ports ∧ (memWrite s a bs).i3c = s.i3c ∧ (memWrite s
    a bs).wide = s.wide ∧ (memWrite s a bs).cairns = s.cairns ∧ (memWrite s a bs).srcs = s.srcs ∧ (memWrite s a bs).hops = s.hops ∧
    (memWrite s a bs).rgn = s.rgn ∧ (memWrite s a bs).pins = s.pins ∧ (memWrite s a bs).spikeQ = s.spikeQ ∧ (memWrite s a bs).slots =
    s.slots ∧ (memWrite s a bs).awaiting = s.awaiting ∧ (memWrite s a bs).ncFifo = s.ncFifo ∧ (memWrite s a bs).nc = s.nc ∧ (memWrite s
    a bs).uop = s.uop ∧ (memWrite s a bs).memFail = s.memFail ∧ (memWrite s a bs).sram = s.sram ∧ (memWrite s a bs).poison = s.poison ∧
    (memWrite s a bs).ce = s.ce ∧ (memWrite s a bs).scrubs = s.scrubs ∧ (memWrite s a bs).held = s.held ∧ (memWrite s a bs).tabs =
    s.tabs ∧ (memWrite s a bs).hostMem = s.hostMem ∧ (memWrite s a bs).flash = s.flash ∧ (memWrite s a bs).desc = s.desc ∧ (memWrite s a
    bs).ctxs = s.ctxs ∧ (memWrite s a bs).ancs = s.ancs ∧ (memWrite s a bs).tiles = s.tiles ∧ (memWrite s a bs).jobs = s.jobs ∧
    (memWrite s a bs).lastJob = s.lastJob ∧ (memWrite s a bs).accepted = s.accepted ∧ (memWrite s a bs).binder = s.binder ∧ (memWrite s
    a bs).txq = s.txq ∧ (memWrite s a bs).inbox = s.inbox ∧ (memWrite s a bs).sent = s.sent ∧ (memWrite s a bs).txSeq = s.txSeq ∧
    (memWrite s a bs).triggers = s.triggers ∧ (memWrite s a bs).ptpTx = s.ptpTx ∧ (memWrite s a bs).rdata = s.rdata ∧ (memWrite s a
    bs).rpois = s.rpois ∧ (memWrite s a bs).evMs = s.evMs ∧ (memWrite s a bs).evCnt = s.evCnt ∧ (memWrite s a bs).evLast = s.evLast ∧
    (memWrite s a bs).trigs = s.trigs ∧ (memWrite s a bs).lost = s.lost ∧ (memWrite s a bs).known = s.known ∧ (memWrite s a bs).lean =
    s.lean ∧ (memWrite s a bs).samples = s.samples ∧ (memWrite s a bs).pwr = s.pwr ∧ (memWrite s a bs).tmux = s.tmux ∧ (memWrite s a
    bs).disputed = s.disputed ∧ (memWrite s a bs).enc = s.enc ∧ (memWrite s a bs).imu = s.imu ∧ (memWrite s a bs).chain = s.chain ∧
    (memWrite s a bs).bars = s.bars ∧ (memWrite s a bs).fus = s.fus ∧ (memWrite s a bs).out = s.out ∧ (memWrite s a bs).ladder =
    s.ladder ∧ (memWrite s a bs).sec = s.sec ∧ (memWrite s a bs).boot = s.boot ∧ (memWrite s a bs).jtag = s.jtag ∧ (memWrite s a
    bs).links = s.links ∧ (memWrite s a bs).rbars = s.rbars ∧ (memWrite s a bs).relay = s.relay ∧ (memWrite s a bs).svc = s.svc := by
  simp only [memWrite, and_self]

@[simp] theorem memWrite_mem (s : State) (a : Nat) (bs : List Byte) : (memWrite s a bs).mem = tsetL byte0 s.mem a bs := rfl

@[simp] theorem memWrite_memUe (s : State) (a : Nat) (bs : List Byte) : (memWrite s a bs).memUe = unmark s.memUe (wholeWords a bs.length)
    := rfl

@[simp] theorem sramWrite_frame (s : State) (a : Nat) (bs : List Byte) : (sramWrite s a bs).pending = s.pending ∧ (sramWrite s a
    bs).free = s.free ∧ (sramWrite s a bs).regs = s.regs ∧ (sramWrite s a bs).pendDis = s.pendDis ∧ (sramWrite s a bs).disarmed =
    s.disarmed ∧ (sramWrite s a bs).opBusy = s.opBusy ∧ (sramWrite s a bs).msix = s.msix ∧ (sramWrite s a bs).bme = s.bme ∧ (sramWrite s
    a bs).msgs = s.msgs ∧ (sramWrite s a bs).log = s.log ∧ (sramWrite s a bs).loopCnt = s.loopCnt ∧ (sramWrite s a bs).ft = s.ft ∧
    (sramWrite s a bs).ftFrac = s.ftFrac ∧ (sramWrite s a bs).disc = s.disc ∧ (sramWrite s a bs).ptp = s.ptp ∧ (sramWrite s a bs).pps =
    s.pps ∧ (sramWrite s a bs).srv = s.srv ∧ (sramWrite s a bs).mp = s.mp ∧ (sramWrite s a bs).ports = s.ports ∧ (sramWrite s a bs).i3c
    = s.i3c ∧ (sramWrite s a bs).wide = s.wide ∧ (sramWrite s a bs).cairns = s.cairns ∧ (sramWrite s a bs).srcs = s.srcs ∧ (sramWrite s
    a bs).hops = s.hops ∧ (sramWrite s a bs).rgn = s.rgn ∧ (sramWrite s a bs).pins = s.pins ∧ (sramWrite s a bs).spikeQ = s.spikeQ ∧
    (sramWrite s a bs).slots = s.slots ∧ (sramWrite s a bs).awaiting = s.awaiting ∧ (sramWrite s a bs).ncFifo = s.ncFifo ∧ (sramWrite s
    a bs).nc = s.nc ∧ (sramWrite s a bs).uop = s.uop ∧ (sramWrite s a bs).mem = s.mem ∧ (sramWrite s a bs).memUe = s.memUe ∧ (sramWrite
    s a bs).memFail = s.memFail ∧ (sramWrite s a bs).scrubs = s.scrubs ∧ (sramWrite s a bs).held = s.held ∧ (sramWrite s a bs).tabs =
    s.tabs ∧ (sramWrite s a bs).hostMem = s.hostMem ∧ (sramWrite s a bs).flash = s.flash ∧ (sramWrite s a bs).desc = s.desc ∧ (sramWrite
    s a bs).ctxs = s.ctxs ∧ (sramWrite s a bs).ancs = s.ancs ∧ (sramWrite s a bs).tiles = s.tiles ∧ (sramWrite s a bs).jobs = s.jobs ∧
    (sramWrite s a bs).lastJob = s.lastJob ∧ (sramWrite s a bs).accepted = s.accepted ∧ (sramWrite s a bs).binder = s.binder ∧
    (sramWrite s a bs).txq = s.txq ∧ (sramWrite s a bs).inbox = s.inbox ∧ (sramWrite s a bs).sent = s.sent ∧ (sramWrite s a bs).txSeq =
    s.txSeq ∧ (sramWrite s a bs).triggers = s.triggers ∧ (sramWrite s a bs).ptpTx = s.ptpTx ∧ (sramWrite s a bs).rdata = s.rdata ∧
    (sramWrite s a bs).rpois = s.rpois ∧ (sramWrite s a bs).evMs = s.evMs ∧ (sramWrite s a bs).evCnt = s.evCnt ∧ (sramWrite s a
    bs).evLast = s.evLast ∧ (sramWrite s a bs).trigs = s.trigs ∧ (sramWrite s a bs).lost = s.lost ∧ (sramWrite s a bs).lean = s.lean ∧
    (sramWrite s a bs).samples = s.samples ∧ (sramWrite s a bs).pwr = s.pwr ∧ (sramWrite s a bs).tmux = s.tmux ∧ (sramWrite s a
    bs).disputed = s.disputed ∧ (sramWrite s a bs).enc = s.enc ∧ (sramWrite s a bs).imu = s.imu ∧ (sramWrite s a bs).chain = s.chain ∧
    (sramWrite s a bs).bars = s.bars ∧ (sramWrite s a bs).fus = s.fus ∧ (sramWrite s a bs).out = s.out ∧ (sramWrite s a bs).ladder =
    s.ladder ∧ (sramWrite s a bs).sec = s.sec ∧ (sramWrite s a bs).boot = s.boot ∧ (sramWrite s a bs).jtag = s.jtag ∧ (sramWrite s a
    bs).links = s.links ∧ (sramWrite s a bs).rbars = s.rbars ∧ (sramWrite s a bs).relay = s.relay ∧ (sramWrite s a bs).svc = s.svc := by
  simp only [sramWrite, and_self]

@[simp] theorem sramWrite_sram (s : State) (a : Nat) (bs : List Byte) : (sramWrite s a bs).sram = tsetL byte0 s.sram a bs := rfl

@[simp] theorem sramWrite_poison (s : State) (a : Nat) (bs : List Byte) : (sramWrite s a bs).poison = unmark s.poison (wholeWords a
    bs.length) := rfl

@[simp] theorem sramWrite_ce (s : State) (a : Nat) (bs : List Byte) : (sramWrite s a bs).ce = unmark s.ce (wholeWords a bs.length) := rfl

@[simp] theorem sramWrite_known (s : State) (a : Nat) (bs : List Byte) : (sramWrite s a bs).known = if tget natD s.lost (sramUnit a) = 0
    then s.known else tsetL boolD s.known a (List.replicate bs.length true) := rfl

@[simp] theorem tabWrite_frame (s : State) (a : Nat) (bs : List Byte) : (tabWrite s a bs).pending = s.pending ∧ (tabWrite s a bs).free =
    s.free ∧ (tabWrite s a bs).regs = s.regs ∧ (tabWrite s a bs).pendDis = s.pendDis ∧ (tabWrite s a bs).disarmed = s.disarmed ∧
    (tabWrite s a bs).opBusy = s.opBusy ∧ (tabWrite s a bs).msix = s.msix ∧ (tabWrite s a bs).bme = s.bme ∧ (tabWrite s a bs).msgs =
    s.msgs ∧ (tabWrite s a bs).log = s.log ∧ (tabWrite s a bs).loopCnt = s.loopCnt ∧ (tabWrite s a bs).ft = s.ft ∧ (tabWrite s a
    bs).ftFrac = s.ftFrac ∧ (tabWrite s a bs).disc = s.disc ∧ (tabWrite s a bs).ptp = s.ptp ∧ (tabWrite s a bs).pps = s.pps ∧ (tabWrite
    s a bs).srv = s.srv ∧ (tabWrite s a bs).mp = s.mp ∧ (tabWrite s a bs).ports = s.ports ∧ (tabWrite s a bs).i3c = s.i3c ∧ (tabWrite s
    a bs).wide = s.wide ∧ (tabWrite s a bs).cairns = s.cairns ∧ (tabWrite s a bs).srcs = s.srcs ∧ (tabWrite s a bs).hops = s.hops ∧
    (tabWrite s a bs).rgn = s.rgn ∧ (tabWrite s a bs).pins = s.pins ∧ (tabWrite s a bs).spikeQ = s.spikeQ ∧ (tabWrite s a bs).slots =
    s.slots ∧ (tabWrite s a bs).awaiting = s.awaiting ∧ (tabWrite s a bs).ncFifo = s.ncFifo ∧ (tabWrite s a bs).nc = s.nc ∧ (tabWrite s
    a bs).uop = s.uop ∧ (tabWrite s a bs).mem = s.mem ∧ (tabWrite s a bs).memUe = s.memUe ∧ (tabWrite s a bs).memFail = s.memFail ∧
    (tabWrite s a bs).sram = s.sram ∧ (tabWrite s a bs).poison = s.poison ∧ (tabWrite s a bs).ce = s.ce ∧ (tabWrite s a bs).scrubs =
    s.scrubs ∧ (tabWrite s a bs).held = s.held ∧ (tabWrite s a bs).hostMem = s.hostMem ∧ (tabWrite s a bs).flash = s.flash ∧ (tabWrite s
    a bs).desc = s.desc ∧ (tabWrite s a bs).ctxs = s.ctxs ∧ (tabWrite s a bs).ancs = s.ancs ∧ (tabWrite s a bs).tiles = s.tiles ∧
    (tabWrite s a bs).jobs = s.jobs ∧ (tabWrite s a bs).lastJob = s.lastJob ∧ (tabWrite s a bs).accepted = s.accepted ∧ (tabWrite s a
    bs).binder = s.binder ∧ (tabWrite s a bs).txq = s.txq ∧ (tabWrite s a bs).inbox = s.inbox ∧ (tabWrite s a bs).sent = s.sent ∧
    (tabWrite s a bs).txSeq = s.txSeq ∧ (tabWrite s a bs).triggers = s.triggers ∧ (tabWrite s a bs).ptpTx = s.ptpTx ∧ (tabWrite s a
    bs).rdata = s.rdata ∧ (tabWrite s a bs).rpois = s.rpois ∧ (tabWrite s a bs).evMs = s.evMs ∧ (tabWrite s a bs).evCnt = s.evCnt ∧
    (tabWrite s a bs).evLast = s.evLast ∧ (tabWrite s a bs).trigs = s.trigs ∧ (tabWrite s a bs).lost = s.lost ∧ (tabWrite s a bs).known
    = s.known ∧ (tabWrite s a bs).lean = s.lean ∧ (tabWrite s a bs).samples = s.samples ∧ (tabWrite s a bs).pwr = s.pwr ∧ (tabWrite s a
    bs).tmux = s.tmux ∧ (tabWrite s a bs).disputed = s.disputed ∧ (tabWrite s a bs).enc = s.enc ∧ (tabWrite s a bs).imu = s.imu ∧
    (tabWrite s a bs).chain = s.chain ∧ (tabWrite s a bs).bars = s.bars ∧ (tabWrite s a bs).fus = s.fus ∧ (tabWrite s a bs).out = s.out
    ∧ (tabWrite s a bs).ladder = s.ladder ∧ (tabWrite s a bs).sec = s.sec ∧ (tabWrite s a bs).boot = s.boot ∧ (tabWrite s a bs).jtag =
    s.jtag ∧ (tabWrite s a bs).links = s.links ∧ (tabWrite s a bs).rbars = s.rbars ∧ (tabWrite s a bs).relay = s.relay ∧ (tabWrite s a
    bs).svc = s.svc := by
  simp only [tabWrite, and_self]

@[simp] theorem tabWrite_tabs (s : State) (a : Nat) (bs : List Byte) : (tabWrite s a bs).tabs = tsetL byte0 s.tabs a bs := rfl

@[simp] theorem hostWrite_frame (s : State) (a : Nat) (bs : List Byte) : (hostWrite s a bs).pending = s.pending ∧ (hostWrite s a
    bs).free = s.free ∧ (hostWrite s a bs).regs = s.regs ∧ (hostWrite s a bs).pendDis = s.pendDis ∧ (hostWrite s a bs).disarmed =
    s.disarmed ∧ (hostWrite s a bs).opBusy = s.opBusy ∧ (hostWrite s a bs).msix = s.msix ∧ (hostWrite s a bs).bme = s.bme ∧ (hostWrite s
    a bs).msgs = s.msgs ∧ (hostWrite s a bs).log = s.log ∧ (hostWrite s a bs).loopCnt = s.loopCnt ∧ (hostWrite s a bs).ft = s.ft ∧
    (hostWrite s a bs).ftFrac = s.ftFrac ∧ (hostWrite s a bs).disc = s.disc ∧ (hostWrite s a bs).ptp = s.ptp ∧ (hostWrite s a bs).pps =
    s.pps ∧ (hostWrite s a bs).srv = s.srv ∧ (hostWrite s a bs).mp = s.mp ∧ (hostWrite s a bs).ports = s.ports ∧ (hostWrite s a bs).i3c
    = s.i3c ∧ (hostWrite s a bs).wide = s.wide ∧ (hostWrite s a bs).cairns = s.cairns ∧ (hostWrite s a bs).srcs = s.srcs ∧ (hostWrite s
    a bs).hops = s.hops ∧ (hostWrite s a bs).rgn = s.rgn ∧ (hostWrite s a bs).pins = s.pins ∧ (hostWrite s a bs).spikeQ = s.spikeQ ∧
    (hostWrite s a bs).slots = s.slots ∧ (hostWrite s a bs).awaiting = s.awaiting ∧ (hostWrite s a bs).ncFifo = s.ncFifo ∧ (hostWrite s
    a bs).nc = s.nc ∧ (hostWrite s a bs).uop = s.uop ∧ (hostWrite s a bs).mem = s.mem ∧ (hostWrite s a bs).memUe = s.memUe ∧ (hostWrite
    s a bs).memFail = s.memFail ∧ (hostWrite s a bs).sram = s.sram ∧ (hostWrite s a bs).poison = s.poison ∧ (hostWrite s a bs).ce = s.ce
    ∧ (hostWrite s a bs).scrubs = s.scrubs ∧ (hostWrite s a bs).held = s.held ∧ (hostWrite s a bs).tabs = s.tabs ∧ (hostWrite s a
    bs).flash = s.flash ∧ (hostWrite s a bs).desc = s.desc ∧ (hostWrite s a bs).ctxs = s.ctxs ∧ (hostWrite s a bs).ancs = s.ancs ∧
    (hostWrite s a bs).tiles = s.tiles ∧ (hostWrite s a bs).jobs = s.jobs ∧ (hostWrite s a bs).lastJob = s.lastJob ∧ (hostWrite s a
    bs).accepted = s.accepted ∧ (hostWrite s a bs).binder = s.binder ∧ (hostWrite s a bs).txq = s.txq ∧ (hostWrite s a bs).inbox =
    s.inbox ∧ (hostWrite s a bs).sent = s.sent ∧ (hostWrite s a bs).txSeq = s.txSeq ∧ (hostWrite s a bs).triggers = s.triggers ∧
    (hostWrite s a bs).ptpTx = s.ptpTx ∧ (hostWrite s a bs).rdata = s.rdata ∧ (hostWrite s a bs).rpois = s.rpois ∧ (hostWrite s a
    bs).evMs = s.evMs ∧ (hostWrite s a bs).evCnt = s.evCnt ∧ (hostWrite s a bs).evLast = s.evLast ∧ (hostWrite s a bs).trigs = s.trigs ∧
    (hostWrite s a bs).lost = s.lost ∧ (hostWrite s a bs).known = s.known ∧ (hostWrite s a bs).lean = s.lean ∧ (hostWrite s a
    bs).samples = s.samples ∧ (hostWrite s a bs).pwr = s.pwr ∧ (hostWrite s a bs).tmux = s.tmux ∧ (hostWrite s a bs).disputed =
    s.disputed ∧ (hostWrite s a bs).enc = s.enc ∧ (hostWrite s a bs).imu = s.imu ∧ (hostWrite s a bs).chain = s.chain ∧ (hostWrite s a
    bs).bars = s.bars ∧ (hostWrite s a bs).fus = s.fus ∧ (hostWrite s a bs).out = s.out ∧ (hostWrite s a bs).ladder = s.ladder ∧
    (hostWrite s a bs).sec = s.sec ∧ (hostWrite s a bs).boot = s.boot ∧ (hostWrite s a bs).jtag = s.jtag ∧ (hostWrite s a bs).links =
    s.links ∧ (hostWrite s a bs).rbars = s.rbars ∧ (hostWrite s a bs).relay = s.relay ∧ (hostWrite s a bs).svc = s.svc := by
  simp only [hostWrite, and_self]

@[simp] theorem hostWrite_hostMem (s : State) (a : Nat) (bs : List Byte) : (hostWrite s a bs).hostMem = tsetL byte0 s.hostMem a bs := rfl

@[simp] theorem flashWrite_frame (s : State) (a : Nat) (bs : List Byte) : (flashWrite s a bs).pending = s.pending ∧ (flashWrite s a
    bs).free = s.free ∧ (flashWrite s a bs).regs = s.regs ∧ (flashWrite s a bs).pendDis = s.pendDis ∧ (flashWrite s a bs).disarmed =
    s.disarmed ∧ (flashWrite s a bs).opBusy = s.opBusy ∧ (flashWrite s a bs).msix = s.msix ∧ (flashWrite s a bs).bme = s.bme ∧
    (flashWrite s a bs).msgs = s.msgs ∧ (flashWrite s a bs).log = s.log ∧ (flashWrite s a bs).loopCnt = s.loopCnt ∧ (flashWrite s a
    bs).ft = s.ft ∧ (flashWrite s a bs).ftFrac = s.ftFrac ∧ (flashWrite s a bs).disc = s.disc ∧ (flashWrite s a bs).ptp = s.ptp ∧
    (flashWrite s a bs).pps = s.pps ∧ (flashWrite s a bs).srv = s.srv ∧ (flashWrite s a bs).mp = s.mp ∧ (flashWrite s a bs).ports =
    s.ports ∧ (flashWrite s a bs).i3c = s.i3c ∧ (flashWrite s a bs).wide = s.wide ∧ (flashWrite s a bs).cairns = s.cairns ∧ (flashWrite
    s a bs).srcs = s.srcs ∧ (flashWrite s a bs).hops = s.hops ∧ (flashWrite s a bs).rgn = s.rgn ∧ (flashWrite s a bs).pins = s.pins ∧
    (flashWrite s a bs).spikeQ = s.spikeQ ∧ (flashWrite s a bs).slots = s.slots ∧ (flashWrite s a bs).awaiting = s.awaiting ∧
    (flashWrite s a bs).ncFifo = s.ncFifo ∧ (flashWrite s a bs).nc = s.nc ∧ (flashWrite s a bs).uop = s.uop ∧ (flashWrite s a bs).mem =
    s.mem ∧ (flashWrite s a bs).memUe = s.memUe ∧ (flashWrite s a bs).memFail = s.memFail ∧ (flashWrite s a bs).sram = s.sram ∧
    (flashWrite s a bs).poison = s.poison ∧ (flashWrite s a bs).ce = s.ce ∧ (flashWrite s a bs).scrubs = s.scrubs ∧ (flashWrite s a
    bs).held = s.held ∧ (flashWrite s a bs).tabs = s.tabs ∧ (flashWrite s a bs).hostMem = s.hostMem ∧ (flashWrite s a bs).desc = s.desc
    ∧ (flashWrite s a bs).ctxs = s.ctxs ∧ (flashWrite s a bs).ancs = s.ancs ∧ (flashWrite s a bs).tiles = s.tiles ∧ (flashWrite s a
    bs).jobs = s.jobs ∧ (flashWrite s a bs).lastJob = s.lastJob ∧ (flashWrite s a bs).accepted = s.accepted ∧ (flashWrite s a bs).binder
    = s.binder ∧ (flashWrite s a bs).txq = s.txq ∧ (flashWrite s a bs).inbox = s.inbox ∧ (flashWrite s a bs).sent = s.sent ∧ (flashWrite
    s a bs).txSeq = s.txSeq ∧ (flashWrite s a bs).triggers = s.triggers ∧ (flashWrite s a bs).ptpTx = s.ptpTx ∧ (flashWrite s a
    bs).rdata = s.rdata ∧ (flashWrite s a bs).rpois = s.rpois ∧ (flashWrite s a bs).evMs = s.evMs ∧ (flashWrite s a bs).evCnt = s.evCnt
    ∧ (flashWrite s a bs).evLast = s.evLast ∧ (flashWrite s a bs).trigs = s.trigs ∧ (flashWrite s a bs).lost = s.lost ∧ (flashWrite s a
    bs).known = s.known ∧ (flashWrite s a bs).lean = s.lean ∧ (flashWrite s a bs).samples = s.samples ∧ (flashWrite s a bs).pwr = s.pwr
    ∧ (flashWrite s a bs).tmux = s.tmux ∧ (flashWrite s a bs).disputed = s.disputed ∧ (flashWrite s a bs).enc = s.enc ∧ (flashWrite s a
    bs).imu = s.imu ∧ (flashWrite s a bs).chain = s.chain ∧ (flashWrite s a bs).bars = s.bars ∧ (flashWrite s a bs).fus = s.fus ∧
    (flashWrite s a bs).out = s.out ∧ (flashWrite s a bs).ladder = s.ladder ∧ (flashWrite s a bs).sec = s.sec ∧ (flashWrite s a bs).boot
    = s.boot ∧ (flashWrite s a bs).jtag = s.jtag ∧ (flashWrite s a bs).links = s.links ∧ (flashWrite s a bs).rbars = s.rbars ∧
    (flashWrite s a bs).relay = s.relay ∧ (flashWrite s a bs).svc = s.svc := by
  simp only [flashWrite, and_self]

@[simp] theorem flashWrite_flash (s : State) (a : Nat) (bs : List Byte) : (flashWrite s a bs).flash = tsetL byteF s.flash a bs := rfl

@[simp] theorem descWrite_frame (s : State) (a : Nat) (bs : List Byte) : (descWrite s a bs).pending = s.pending ∧ (descWrite s a
    bs).free = s.free ∧ (descWrite s a bs).regs = s.regs ∧ (descWrite s a bs).pendDis = s.pendDis ∧ (descWrite s a bs).disarmed =
    s.disarmed ∧ (descWrite s a bs).opBusy = s.opBusy ∧ (descWrite s a bs).msix = s.msix ∧ (descWrite s a bs).bme = s.bme ∧ (descWrite s
    a bs).msgs = s.msgs ∧ (descWrite s a bs).log = s.log ∧ (descWrite s a bs).loopCnt = s.loopCnt ∧ (descWrite s a bs).ft = s.ft ∧
    (descWrite s a bs).ftFrac = s.ftFrac ∧ (descWrite s a bs).disc = s.disc ∧ (descWrite s a bs).ptp = s.ptp ∧ (descWrite s a bs).pps =
    s.pps ∧ (descWrite s a bs).srv = s.srv ∧ (descWrite s a bs).mp = s.mp ∧ (descWrite s a bs).ports = s.ports ∧ (descWrite s a bs).i3c
    = s.i3c ∧ (descWrite s a bs).wide = s.wide ∧ (descWrite s a bs).cairns = s.cairns ∧ (descWrite s a bs).srcs = s.srcs ∧ (descWrite s
    a bs).hops = s.hops ∧ (descWrite s a bs).rgn = s.rgn ∧ (descWrite s a bs).pins = s.pins ∧ (descWrite s a bs).spikeQ = s.spikeQ ∧
    (descWrite s a bs).slots = s.slots ∧ (descWrite s a bs).awaiting = s.awaiting ∧ (descWrite s a bs).ncFifo = s.ncFifo ∧ (descWrite s
    a bs).nc = s.nc ∧ (descWrite s a bs).uop = s.uop ∧ (descWrite s a bs).mem = s.mem ∧ (descWrite s a bs).memUe = s.memUe ∧ (descWrite
    s a bs).memFail = s.memFail ∧ (descWrite s a bs).sram = s.sram ∧ (descWrite s a bs).poison = s.poison ∧ (descWrite s a bs).ce = s.ce
    ∧ (descWrite s a bs).scrubs = s.scrubs ∧ (descWrite s a bs).held = s.held ∧ (descWrite s a bs).tabs = s.tabs ∧ (descWrite s a
    bs).hostMem = s.hostMem ∧ (descWrite s a bs).flash = s.flash ∧ (descWrite s a bs).ctxs = s.ctxs ∧ (descWrite s a bs).ancs = s.ancs ∧
    (descWrite s a bs).tiles = s.tiles ∧ (descWrite s a bs).jobs = s.jobs ∧ (descWrite s a bs).lastJob = s.lastJob ∧ (descWrite s a
    bs).accepted = s.accepted ∧ (descWrite s a bs).binder = s.binder ∧ (descWrite s a bs).txq = s.txq ∧ (descWrite s a bs).inbox =
    s.inbox ∧ (descWrite s a bs).sent = s.sent ∧ (descWrite s a bs).txSeq = s.txSeq ∧ (descWrite s a bs).triggers = s.triggers ∧
    (descWrite s a bs).ptpTx = s.ptpTx ∧ (descWrite s a bs).rdata = s.rdata ∧ (descWrite s a bs).rpois = s.rpois ∧ (descWrite s a
    bs).evMs = s.evMs ∧ (descWrite s a bs).evCnt = s.evCnt ∧ (descWrite s a bs).evLast = s.evLast ∧ (descWrite s a bs).trigs = s.trigs ∧
    (descWrite s a bs).lost = s.lost ∧ (descWrite s a bs).known = s.known ∧ (descWrite s a bs).lean = s.lean ∧ (descWrite s a
    bs).samples = s.samples ∧ (descWrite s a bs).pwr = s.pwr ∧ (descWrite s a bs).tmux = s.tmux ∧ (descWrite s a bs).disputed =
    s.disputed ∧ (descWrite s a bs).enc = s.enc ∧ (descWrite s a bs).imu = s.imu ∧ (descWrite s a bs).chain = s.chain ∧ (descWrite s a
    bs).bars = s.bars ∧ (descWrite s a bs).fus = s.fus ∧ (descWrite s a bs).out = s.out ∧ (descWrite s a bs).ladder = s.ladder ∧
    (descWrite s a bs).sec = s.sec ∧ (descWrite s a bs).boot = s.boot ∧ (descWrite s a bs).jtag = s.jtag ∧ (descWrite s a bs).links =
    s.links ∧ (descWrite s a bs).rbars = s.rbars ∧ (descWrite s a bs).relay = s.relay ∧ (descWrite s a bs).svc = s.svc := by
  simp only [descWrite, and_self]

@[simp] theorem descWrite_desc (s : State) (a : Nat) (bs : List Byte) : (descWrite s a bs).desc = tsetL byte0 s.desc a bs := rfl

@[simp] theorem flashErase_frame (s : State) (a n : Nat) : (flashErase s a n).pending = s.pending ∧ (flashErase s a n).free = s.free ∧
    (flashErase s a n).regs = s.regs ∧ (flashErase s a n).pendDis = s.pendDis ∧ (flashErase s a n).disarmed = s.disarmed ∧ (flashErase s
    a n).opBusy = s.opBusy ∧ (flashErase s a n).msix = s.msix ∧ (flashErase s a n).bme = s.bme ∧ (flashErase s a n).msgs = s.msgs ∧
    (flashErase s a n).log = s.log ∧ (flashErase s a n).loopCnt = s.loopCnt ∧ (flashErase s a n).ft = s.ft ∧ (flashErase s a n).ftFrac =
    s.ftFrac ∧ (flashErase s a n).disc = s.disc ∧ (flashErase s a n).ptp = s.ptp ∧ (flashErase s a n).pps = s.pps ∧ (flashErase s a
    n).srv = s.srv ∧ (flashErase s a n).mp = s.mp ∧ (flashErase s a n).ports = s.ports ∧ (flashErase s a n).i3c = s.i3c ∧ (flashErase s
    a n).wide = s.wide ∧ (flashErase s a n).cairns = s.cairns ∧ (flashErase s a n).srcs = s.srcs ∧ (flashErase s a n).hops = s.hops ∧
    (flashErase s a n).rgn = s.rgn ∧ (flashErase s a n).pins = s.pins ∧ (flashErase s a n).spikeQ = s.spikeQ ∧ (flashErase s a n).slots
    = s.slots ∧ (flashErase s a n).awaiting = s.awaiting ∧ (flashErase s a n).ncFifo = s.ncFifo ∧ (flashErase s a n).nc = s.nc ∧
    (flashErase s a n).uop = s.uop ∧ (flashErase s a n).mem = s.mem ∧ (flashErase s a n).memUe = s.memUe ∧ (flashErase s a n).memFail =
    s.memFail ∧ (flashErase s a n).sram = s.sram ∧ (flashErase s a n).poison = s.poison ∧ (flashErase s a n).ce = s.ce ∧ (flashErase s a
    n).scrubs = s.scrubs ∧ (flashErase s a n).held = s.held ∧ (flashErase s a n).tabs = s.tabs ∧ (flashErase s a n).hostMem = s.hostMem
    ∧ (flashErase s a n).desc = s.desc ∧ (flashErase s a n).ctxs = s.ctxs ∧ (flashErase s a n).ancs = s.ancs ∧ (flashErase s a n).tiles
    = s.tiles ∧ (flashErase s a n).jobs = s.jobs ∧ (flashErase s a n).lastJob = s.lastJob ∧ (flashErase s a n).accepted = s.accepted ∧
    (flashErase s a n).binder = s.binder ∧ (flashErase s a n).txq = s.txq ∧ (flashErase s a n).inbox = s.inbox ∧ (flashErase s a n).sent
    = s.sent ∧ (flashErase s a n).txSeq = s.txSeq ∧ (flashErase s a n).triggers = s.triggers ∧ (flashErase s a n).ptpTx = s.ptpTx ∧
    (flashErase s a n).rdata = s.rdata ∧ (flashErase s a n).rpois = s.rpois ∧ (flashErase s a n).evMs = s.evMs ∧ (flashErase s a
    n).evCnt = s.evCnt ∧ (flashErase s a n).evLast = s.evLast ∧ (flashErase s a n).trigs = s.trigs ∧ (flashErase s a n).lost = s.lost ∧
    (flashErase s a n).known = s.known ∧ (flashErase s a n).lean = s.lean ∧ (flashErase s a n).samples = s.samples ∧ (flashErase s a
    n).pwr = s.pwr ∧ (flashErase s a n).tmux = s.tmux ∧ (flashErase s a n).disputed = s.disputed ∧ (flashErase s a n).enc = s.enc ∧
    (flashErase s a n).imu = s.imu ∧ (flashErase s a n).chain = s.chain ∧ (flashErase s a n).bars = s.bars ∧ (flashErase s a n).fus =
    s.fus ∧ (flashErase s a n).out = s.out ∧ (flashErase s a n).ladder = s.ladder ∧ (flashErase s a n).sec = s.sec ∧ (flashErase s a
    n).boot = s.boot ∧ (flashErase s a n).jtag = s.jtag ∧ (flashErase s a n).links = s.links ∧ (flashErase s a n).rbars = s.rbars ∧
    (flashErase s a n).relay = s.relay ∧ (flashErase s a n).svc = s.svc := by
  simp only [flashErase, and_self]

@[simp] theorem flashErase_flash (s : State) (a n : Nat) : (flashErase s a n).flash = tclear s.flash a (a + n) := rfl

@[simp] theorem poisonWords_frame (s : State) (ws : List Nat) : (poisonWords s ws).pending = s.pending ∧ (poisonWords s ws).free =
    s.free ∧ (poisonWords s ws).regs = s.regs ∧ (poisonWords s ws).pendDis = s.pendDis ∧ (poisonWords s ws).disarmed = s.disarmed ∧
    (poisonWords s ws).opBusy = s.opBusy ∧ (poisonWords s ws).msix = s.msix ∧ (poisonWords s ws).bme = s.bme ∧ (poisonWords s ws).msgs =
    s.msgs ∧ (poisonWords s ws).log = s.log ∧ (poisonWords s ws).loopCnt = s.loopCnt ∧ (poisonWords s ws).ft = s.ft ∧ (poisonWords s
    ws).ftFrac = s.ftFrac ∧ (poisonWords s ws).disc = s.disc ∧ (poisonWords s ws).ptp = s.ptp ∧ (poisonWords s ws).pps = s.pps ∧
    (poisonWords s ws).srv = s.srv ∧ (poisonWords s ws).mp = s.mp ∧ (poisonWords s ws).ports = s.ports ∧ (poisonWords s ws).i3c = s.i3c
    ∧ (poisonWords s ws).wide = s.wide ∧ (poisonWords s ws).cairns = s.cairns ∧ (poisonWords s ws).srcs = s.srcs ∧ (poisonWords s
    ws).hops = s.hops ∧ (poisonWords s ws).rgn = s.rgn ∧ (poisonWords s ws).pins = s.pins ∧ (poisonWords s ws).spikeQ = s.spikeQ ∧
    (poisonWords s ws).slots = s.slots ∧ (poisonWords s ws).awaiting = s.awaiting ∧ (poisonWords s ws).ncFifo = s.ncFifo ∧ (poisonWords
    s ws).nc = s.nc ∧ (poisonWords s ws).uop = s.uop ∧ (poisonWords s ws).mem = s.mem ∧ (poisonWords s ws).memUe = s.memUe ∧
    (poisonWords s ws).memFail = s.memFail ∧ (poisonWords s ws).sram = s.sram ∧ (poisonWords s ws).ce = s.ce ∧ (poisonWords s ws).scrubs
    = s.scrubs ∧ (poisonWords s ws).held = s.held ∧ (poisonWords s ws).tabs = s.tabs ∧ (poisonWords s ws).hostMem = s.hostMem ∧
    (poisonWords s ws).flash = s.flash ∧ (poisonWords s ws).desc = s.desc ∧ (poisonWords s ws).ctxs = s.ctxs ∧ (poisonWords s ws).ancs =
    s.ancs ∧ (poisonWords s ws).tiles = s.tiles ∧ (poisonWords s ws).jobs = s.jobs ∧ (poisonWords s ws).lastJob = s.lastJob ∧
    (poisonWords s ws).accepted = s.accepted ∧ (poisonWords s ws).binder = s.binder ∧ (poisonWords s ws).txq = s.txq ∧ (poisonWords s
    ws).inbox = s.inbox ∧ (poisonWords s ws).sent = s.sent ∧ (poisonWords s ws).txSeq = s.txSeq ∧ (poisonWords s ws).triggers =
    s.triggers ∧ (poisonWords s ws).ptpTx = s.ptpTx ∧ (poisonWords s ws).rdata = s.rdata ∧ (poisonWords s ws).rpois = s.rpois ∧
    (poisonWords s ws).evMs = s.evMs ∧ (poisonWords s ws).evCnt = s.evCnt ∧ (poisonWords s ws).evLast = s.evLast ∧ (poisonWords s
    ws).trigs = s.trigs ∧ (poisonWords s ws).lost = s.lost ∧ (poisonWords s ws).known = s.known ∧ (poisonWords s ws).lean = s.lean ∧
    (poisonWords s ws).samples = s.samples ∧ (poisonWords s ws).pwr = s.pwr ∧ (poisonWords s ws).tmux = s.tmux ∧ (poisonWords s
    ws).disputed = s.disputed ∧ (poisonWords s ws).enc = s.enc ∧ (poisonWords s ws).imu = s.imu ∧ (poisonWords s ws).chain = s.chain ∧
    (poisonWords s ws).bars = s.bars ∧ (poisonWords s ws).fus = s.fus ∧ (poisonWords s ws).out = s.out ∧ (poisonWords s ws).ladder =
    s.ladder ∧ (poisonWords s ws).sec = s.sec ∧ (poisonWords s ws).boot = s.boot ∧ (poisonWords s ws).jtag = s.jtag ∧ (poisonWords s
    ws).links = s.links ∧ (poisonWords s ws).rbars = s.rbars ∧ (poisonWords s ws).relay = s.relay ∧ (poisonWords s ws).svc = s.svc := by
  simp only [poisonWords, and_self]

@[simp] theorem poisonWords_poison (s : State) (ws : List Nat) : (poisonWords s ws).poison = ws.foldl (fun t w => tset boolD t w true)
    s.poison := rfl

@[simp] theorem memUeWords_frame (s : State) (ws : List Nat) : (memUeWords s ws).pending = s.pending ∧ (memUeWords s ws).free = s.free ∧
    (memUeWords s ws).regs = s.regs ∧ (memUeWords s ws).pendDis = s.pendDis ∧ (memUeWords s ws).disarmed = s.disarmed ∧ (memUeWords s
    ws).opBusy = s.opBusy ∧ (memUeWords s ws).msix = s.msix ∧ (memUeWords s ws).bme = s.bme ∧ (memUeWords s ws).msgs = s.msgs ∧
    (memUeWords s ws).log = s.log ∧ (memUeWords s ws).loopCnt = s.loopCnt ∧ (memUeWords s ws).ft = s.ft ∧ (memUeWords s ws).ftFrac =
    s.ftFrac ∧ (memUeWords s ws).disc = s.disc ∧ (memUeWords s ws).ptp = s.ptp ∧ (memUeWords s ws).pps = s.pps ∧ (memUeWords s ws).srv =
    s.srv ∧ (memUeWords s ws).mp = s.mp ∧ (memUeWords s ws).ports = s.ports ∧ (memUeWords s ws).i3c = s.i3c ∧ (memUeWords s ws).wide =
    s.wide ∧ (memUeWords s ws).cairns = s.cairns ∧ (memUeWords s ws).srcs = s.srcs ∧ (memUeWords s ws).hops = s.hops ∧ (memUeWords s
    ws).rgn = s.rgn ∧ (memUeWords s ws).pins = s.pins ∧ (memUeWords s ws).spikeQ = s.spikeQ ∧ (memUeWords s ws).slots = s.slots ∧
    (memUeWords s ws).awaiting = s.awaiting ∧ (memUeWords s ws).ncFifo = s.ncFifo ∧ (memUeWords s ws).nc = s.nc ∧ (memUeWords s ws).uop
    = s.uop ∧ (memUeWords s ws).mem = s.mem ∧ (memUeWords s ws).memFail = s.memFail ∧ (memUeWords s ws).sram = s.sram ∧ (memUeWords s
    ws).poison = s.poison ∧ (memUeWords s ws).ce = s.ce ∧ (memUeWords s ws).scrubs = s.scrubs ∧ (memUeWords s ws).held = s.held ∧
    (memUeWords s ws).tabs = s.tabs ∧ (memUeWords s ws).hostMem = s.hostMem ∧ (memUeWords s ws).flash = s.flash ∧ (memUeWords s ws).desc
    = s.desc ∧ (memUeWords s ws).ctxs = s.ctxs ∧ (memUeWords s ws).ancs = s.ancs ∧ (memUeWords s ws).tiles = s.tiles ∧ (memUeWords s
    ws).jobs = s.jobs ∧ (memUeWords s ws).lastJob = s.lastJob ∧ (memUeWords s ws).accepted = s.accepted ∧ (memUeWords s ws).binder =
    s.binder ∧ (memUeWords s ws).txq = s.txq ∧ (memUeWords s ws).inbox = s.inbox ∧ (memUeWords s ws).sent = s.sent ∧ (memUeWords s
    ws).txSeq = s.txSeq ∧ (memUeWords s ws).triggers = s.triggers ∧ (memUeWords s ws).ptpTx = s.ptpTx ∧ (memUeWords s ws).rdata =
    s.rdata ∧ (memUeWords s ws).rpois = s.rpois ∧ (memUeWords s ws).evMs = s.evMs ∧ (memUeWords s ws).evCnt = s.evCnt ∧ (memUeWords s
    ws).evLast = s.evLast ∧ (memUeWords s ws).trigs = s.trigs ∧ (memUeWords s ws).lost = s.lost ∧ (memUeWords s ws).known = s.known ∧
    (memUeWords s ws).lean = s.lean ∧ (memUeWords s ws).samples = s.samples ∧ (memUeWords s ws).pwr = s.pwr ∧ (memUeWords s ws).tmux =
    s.tmux ∧ (memUeWords s ws).disputed = s.disputed ∧ (memUeWords s ws).enc = s.enc ∧ (memUeWords s ws).imu = s.imu ∧ (memUeWords s
    ws).chain = s.chain ∧ (memUeWords s ws).bars = s.bars ∧ (memUeWords s ws).fus = s.fus ∧ (memUeWords s ws).out = s.out ∧ (memUeWords
    s ws).ladder = s.ladder ∧ (memUeWords s ws).sec = s.sec ∧ (memUeWords s ws).boot = s.boot ∧ (memUeWords s ws).jtag = s.jtag ∧
    (memUeWords s ws).links = s.links ∧ (memUeWords s ws).rbars = s.rbars ∧ (memUeWords s ws).relay = s.relay ∧ (memUeWords s ws).svc =
    s.svc := by
  simp only [memUeWords, and_self]

@[simp] theorem memUeWords_memUe (s : State) (ws : List Nat) : (memUeWords s ws).memUe = ws.foldl (fun t w => tset boolD t w true) s.memUe
    := rfl

@[simp] theorem setTpin_frame (s : State) (n : Nat) (x : PinSt) : (setTpin s n x).pending = s.pending ∧ (setTpin s n x).free = s.free ∧
    (setTpin s n x).regs = s.regs ∧ (setTpin s n x).pendDis = s.pendDis ∧ (setTpin s n x).disarmed = s.disarmed ∧ (setTpin s n x).opBusy
    = s.opBusy ∧ (setTpin s n x).msix = s.msix ∧ (setTpin s n x).bme = s.bme ∧ (setTpin s n x).msgs = s.msgs ∧ (setTpin s n x).log =
    s.log ∧ (setTpin s n x).loopCnt = s.loopCnt ∧ (setTpin s n x).ft = s.ft ∧ (setTpin s n x).ftFrac = s.ftFrac ∧ (setTpin s n x).disc =
    s.disc ∧ (setTpin s n x).ptp = s.ptp ∧ (setTpin s n x).pps = s.pps ∧ (setTpin s n x).srv = s.srv ∧ (setTpin s n x).mp = s.mp ∧
    (setTpin s n x).ports = s.ports ∧ (setTpin s n x).i3c = s.i3c ∧ (setTpin s n x).wide = s.wide ∧ (setTpin s n x).cairns = s.cairns ∧
    (setTpin s n x).srcs = s.srcs ∧ (setTpin s n x).hops = s.hops ∧ (setTpin s n x).rgn = s.rgn ∧ (setTpin s n x).pins = s.pins ∧
    (setTpin s n x).spikeQ = s.spikeQ ∧ (setTpin s n x).slots = s.slots ∧ (setTpin s n x).awaiting = s.awaiting ∧ (setTpin s n x).ncFifo
    = s.ncFifo ∧ (setTpin s n x).nc = s.nc ∧ (setTpin s n x).uop = s.uop ∧ (setTpin s n x).mem = s.mem ∧ (setTpin s n x).memUe = s.memUe
    ∧ (setTpin s n x).memFail = s.memFail ∧ (setTpin s n x).sram = s.sram ∧ (setTpin s n x).poison = s.poison ∧ (setTpin s n x).ce =
    s.ce ∧ (setTpin s n x).scrubs = s.scrubs ∧ (setTpin s n x).held = s.held ∧ (setTpin s n x).tabs = s.tabs ∧ (setTpin s n x).hostMem =
    s.hostMem ∧ (setTpin s n x).flash = s.flash ∧ (setTpin s n x).desc = s.desc ∧ (setTpin s n x).ctxs = s.ctxs ∧ (setTpin s n x).ancs =
    s.ancs ∧ (setTpin s n x).tiles = s.tiles ∧ (setTpin s n x).jobs = s.jobs ∧ (setTpin s n x).lastJob = s.lastJob ∧ (setTpin s n
    x).accepted = s.accepted ∧ (setTpin s n x).binder = s.binder ∧ (setTpin s n x).txq = s.txq ∧ (setTpin s n x).inbox = s.inbox ∧
    (setTpin s n x).sent = s.sent ∧ (setTpin s n x).txSeq = s.txSeq ∧ (setTpin s n x).triggers = s.triggers ∧ (setTpin s n x).ptpTx =
    s.ptpTx ∧ (setTpin s n x).rdata = s.rdata ∧ (setTpin s n x).rpois = s.rpois ∧ (setTpin s n x).evMs = s.evMs ∧ (setTpin s n x).evCnt
    = s.evCnt ∧ (setTpin s n x).evLast = s.evLast ∧ (setTpin s n x).trigs = s.trigs ∧ (setTpin s n x).lost = s.lost ∧ (setTpin s n
    x).known = s.known ∧ (setTpin s n x).lean = s.lean ∧ (setTpin s n x).samples = s.samples ∧ (setTpin s n x).pwr = s.pwr ∧ (setTpin s
    n x).disputed = s.disputed ∧ (setTpin s n x).enc = s.enc ∧ (setTpin s n x).imu = s.imu ∧ (setTpin s n x).chain = s.chain ∧ (setTpin
    s n x).bars = s.bars ∧ (setTpin s n x).fus = s.fus ∧ (setTpin s n x).out = s.out ∧ (setTpin s n x).ladder = s.ladder ∧ (setTpin s n
    x).sec = s.sec ∧ (setTpin s n x).boot = s.boot ∧ (setTpin s n x).jtag = s.jtag ∧ (setTpin s n x).links = s.links ∧ (setTpin s n
    x).rbars = s.rbars ∧ (setTpin s n x).relay = s.relay ∧ (setTpin s n x).svc = s.svc := by
  simp only [setTpin, and_self]

@[simp] theorem setTpin_tmux (s : State) (n : Nat) (x : PinSt) : (setTpin s n x).tmux = tset pinD s.tmux n x := rfl

@[simp] theorem setAnc_frame (s : State) (a : Nat) (x : AncSt) : (setAnc s a x).pending = s.pending ∧ (setAnc s a x).free = s.free ∧
    (setAnc s a x).regs = s.regs ∧ (setAnc s a x).pendDis = s.pendDis ∧ (setAnc s a x).disarmed = s.disarmed ∧ (setAnc s a x).opBusy =
    s.opBusy ∧ (setAnc s a x).msix = s.msix ∧ (setAnc s a x).bme = s.bme ∧ (setAnc s a x).msgs = s.msgs ∧ (setAnc s a x).log = s.log ∧
    (setAnc s a x).loopCnt = s.loopCnt ∧ (setAnc s a x).ft = s.ft ∧ (setAnc s a x).ftFrac = s.ftFrac ∧ (setAnc s a x).disc = s.disc ∧
    (setAnc s a x).ptp = s.ptp ∧ (setAnc s a x).pps = s.pps ∧ (setAnc s a x).srv = s.srv ∧ (setAnc s a x).mp = s.mp ∧ (setAnc s a
    x).ports = s.ports ∧ (setAnc s a x).i3c = s.i3c ∧ (setAnc s a x).wide = s.wide ∧ (setAnc s a x).cairns = s.cairns ∧ (setAnc s a
    x).srcs = s.srcs ∧ (setAnc s a x).hops = s.hops ∧ (setAnc s a x).rgn = s.rgn ∧ (setAnc s a x).pins = s.pins ∧ (setAnc s a x).spikeQ
    = s.spikeQ ∧ (setAnc s a x).slots = s.slots ∧ (setAnc s a x).awaiting = s.awaiting ∧ (setAnc s a x).ncFifo = s.ncFifo ∧ (setAnc s a
    x).nc = s.nc ∧ (setAnc s a x).uop = s.uop ∧ (setAnc s a x).mem = s.mem ∧ (setAnc s a x).memUe = s.memUe ∧ (setAnc s a x).memFail =
    s.memFail ∧ (setAnc s a x).sram = s.sram ∧ (setAnc s a x).poison = s.poison ∧ (setAnc s a x).ce = s.ce ∧ (setAnc s a x).scrubs =
    s.scrubs ∧ (setAnc s a x).held = s.held ∧ (setAnc s a x).tabs = s.tabs ∧ (setAnc s a x).hostMem = s.hostMem ∧ (setAnc s a x).flash =
    s.flash ∧ (setAnc s a x).desc = s.desc ∧ (setAnc s a x).ctxs = s.ctxs ∧ (setAnc s a x).tiles = s.tiles ∧ (setAnc s a x).jobs =
    s.jobs ∧ (setAnc s a x).lastJob = s.lastJob ∧ (setAnc s a x).accepted = s.accepted ∧ (setAnc s a x).binder = s.binder ∧ (setAnc s a
    x).txq = s.txq ∧ (setAnc s a x).inbox = s.inbox ∧ (setAnc s a x).sent = s.sent ∧ (setAnc s a x).txSeq = s.txSeq ∧ (setAnc s a
    x).triggers = s.triggers ∧ (setAnc s a x).ptpTx = s.ptpTx ∧ (setAnc s a x).rdata = s.rdata ∧ (setAnc s a x).rpois = s.rpois ∧
    (setAnc s a x).evMs = s.evMs ∧ (setAnc s a x).evCnt = s.evCnt ∧ (setAnc s a x).evLast = s.evLast ∧ (setAnc s a x).trigs = s.trigs ∧
    (setAnc s a x).lost = s.lost ∧ (setAnc s a x).known = s.known ∧ (setAnc s a x).lean = s.lean ∧ (setAnc s a x).samples = s.samples ∧
    (setAnc s a x).pwr = s.pwr ∧ (setAnc s a x).tmux = s.tmux ∧ (setAnc s a x).disputed = s.disputed ∧ (setAnc s a x).enc = s.enc ∧
    (setAnc s a x).imu = s.imu ∧ (setAnc s a x).chain = s.chain ∧ (setAnc s a x).bars = s.bars ∧ (setAnc s a x).fus = s.fus ∧ (setAnc s
    a x).out = s.out ∧ (setAnc s a x).ladder = s.ladder ∧ (setAnc s a x).sec = s.sec ∧ (setAnc s a x).boot = s.boot ∧ (setAnc s a
    x).jtag = s.jtag ∧ (setAnc s a x).links = s.links ∧ (setAnc s a x).rbars = s.rbars ∧ (setAnc s a x).relay = s.relay ∧ (setAnc s a
    x).svc = s.svc := by
  simp only [setAnc, and_self]

@[simp] theorem setAnc_ancs (s : State) (a : Nat) (x : AncSt) : (setAnc s a x).ancs = tset ancD s.ancs a x := rfl

@[simp] theorem setTile_frame (s : State) (t : Nat) (x : TileSt) : (setTile s t x).pending = s.pending ∧ (setTile s t x).free = s.free ∧
    (setTile s t x).regs = s.regs ∧ (setTile s t x).pendDis = s.pendDis ∧ (setTile s t x).disarmed = s.disarmed ∧ (setTile s t x).opBusy
    = s.opBusy ∧ (setTile s t x).msix = s.msix ∧ (setTile s t x).bme = s.bme ∧ (setTile s t x).msgs = s.msgs ∧ (setTile s t x).log =
    s.log ∧ (setTile s t x).loopCnt = s.loopCnt ∧ (setTile s t x).ft = s.ft ∧ (setTile s t x).ftFrac = s.ftFrac ∧ (setTile s t x).disc =
    s.disc ∧ (setTile s t x).ptp = s.ptp ∧ (setTile s t x).pps = s.pps ∧ (setTile s t x).srv = s.srv ∧ (setTile s t x).mp = s.mp ∧
    (setTile s t x).ports = s.ports ∧ (setTile s t x).i3c = s.i3c ∧ (setTile s t x).wide = s.wide ∧ (setTile s t x).cairns = s.cairns ∧
    (setTile s t x).srcs = s.srcs ∧ (setTile s t x).hops = s.hops ∧ (setTile s t x).rgn = s.rgn ∧ (setTile s t x).pins = s.pins ∧
    (setTile s t x).spikeQ = s.spikeQ ∧ (setTile s t x).slots = s.slots ∧ (setTile s t x).awaiting = s.awaiting ∧ (setTile s t x).ncFifo
    = s.ncFifo ∧ (setTile s t x).nc = s.nc ∧ (setTile s t x).uop = s.uop ∧ (setTile s t x).mem = s.mem ∧ (setTile s t x).memUe = s.memUe
    ∧ (setTile s t x).memFail = s.memFail ∧ (setTile s t x).sram = s.sram ∧ (setTile s t x).poison = s.poison ∧ (setTile s t x).ce =
    s.ce ∧ (setTile s t x).scrubs = s.scrubs ∧ (setTile s t x).held = s.held ∧ (setTile s t x).tabs = s.tabs ∧ (setTile s t x).hostMem =
    s.hostMem ∧ (setTile s t x).flash = s.flash ∧ (setTile s t x).desc = s.desc ∧ (setTile s t x).ctxs = s.ctxs ∧ (setTile s t x).ancs =
    s.ancs ∧ (setTile s t x).jobs = s.jobs ∧ (setTile s t x).lastJob = s.lastJob ∧ (setTile s t x).accepted = s.accepted ∧ (setTile s t
    x).binder = s.binder ∧ (setTile s t x).txq = s.txq ∧ (setTile s t x).inbox = s.inbox ∧ (setTile s t x).sent = s.sent ∧ (setTile s t
    x).txSeq = s.txSeq ∧ (setTile s t x).triggers = s.triggers ∧ (setTile s t x).ptpTx = s.ptpTx ∧ (setTile s t x).rdata = s.rdata ∧
    (setTile s t x).rpois = s.rpois ∧ (setTile s t x).evMs = s.evMs ∧ (setTile s t x).evCnt = s.evCnt ∧ (setTile s t x).evLast =
    s.evLast ∧ (setTile s t x).trigs = s.trigs ∧ (setTile s t x).lost = s.lost ∧ (setTile s t x).known = s.known ∧ (setTile s t x).lean
    = s.lean ∧ (setTile s t x).samples = s.samples ∧ (setTile s t x).pwr = s.pwr ∧ (setTile s t x).tmux = s.tmux ∧ (setTile s t
    x).disputed = s.disputed ∧ (setTile s t x).enc = s.enc ∧ (setTile s t x).imu = s.imu ∧ (setTile s t x).chain = s.chain ∧ (setTile s
    t x).bars = s.bars ∧ (setTile s t x).fus = s.fus ∧ (setTile s t x).out = s.out ∧ (setTile s t x).ladder = s.ladder ∧ (setTile s t
    x).sec = s.sec ∧ (setTile s t x).boot = s.boot ∧ (setTile s t x).jtag = s.jtag ∧ (setTile s t x).links = s.links ∧ (setTile s t
    x).rbars = s.rbars ∧ (setTile s t x).relay = s.relay ∧ (setTile s t x).svc = s.svc := by
  simp only [setTile, and_self]

@[simp] theorem setTile_tiles (s : State) (t : Nat) (x : TileSt) : (setTile s t x).tiles = tset tileD s.tiles t x := rfl

@[simp] theorem setCtx_frame (s : State) (c : Nat) (x : CtxSt) : (setCtx s c x).pending = s.pending ∧ (setCtx s c x).free = s.free ∧
    (setCtx s c x).regs = s.regs ∧ (setCtx s c x).pendDis = s.pendDis ∧ (setCtx s c x).disarmed = s.disarmed ∧ (setCtx s c x).opBusy =
    s.opBusy ∧ (setCtx s c x).msix = s.msix ∧ (setCtx s c x).bme = s.bme ∧ (setCtx s c x).msgs = s.msgs ∧ (setCtx s c x).log = s.log ∧
    (setCtx s c x).loopCnt = s.loopCnt ∧ (setCtx s c x).ft = s.ft ∧ (setCtx s c x).ftFrac = s.ftFrac ∧ (setCtx s c x).disc = s.disc ∧
    (setCtx s c x).ptp = s.ptp ∧ (setCtx s c x).pps = s.pps ∧ (setCtx s c x).srv = s.srv ∧ (setCtx s c x).mp = s.mp ∧ (setCtx s c
    x).ports = s.ports ∧ (setCtx s c x).i3c = s.i3c ∧ (setCtx s c x).wide = s.wide ∧ (setCtx s c x).cairns = s.cairns ∧ (setCtx s c
    x).srcs = s.srcs ∧ (setCtx s c x).hops = s.hops ∧ (setCtx s c x).rgn = s.rgn ∧ (setCtx s c x).pins = s.pins ∧ (setCtx s c x).spikeQ
    = s.spikeQ ∧ (setCtx s c x).slots = s.slots ∧ (setCtx s c x).awaiting = s.awaiting ∧ (setCtx s c x).ncFifo = s.ncFifo ∧ (setCtx s c
    x).nc = s.nc ∧ (setCtx s c x).uop = s.uop ∧ (setCtx s c x).mem = s.mem ∧ (setCtx s c x).memUe = s.memUe ∧ (setCtx s c x).memFail =
    s.memFail ∧ (setCtx s c x).sram = s.sram ∧ (setCtx s c x).poison = s.poison ∧ (setCtx s c x).ce = s.ce ∧ (setCtx s c x).scrubs =
    s.scrubs ∧ (setCtx s c x).held = s.held ∧ (setCtx s c x).tabs = s.tabs ∧ (setCtx s c x).hostMem = s.hostMem ∧ (setCtx s c x).flash =
    s.flash ∧ (setCtx s c x).desc = s.desc ∧ (setCtx s c x).ancs = s.ancs ∧ (setCtx s c x).tiles = s.tiles ∧ (setCtx s c x).jobs =
    s.jobs ∧ (setCtx s c x).lastJob = s.lastJob ∧ (setCtx s c x).accepted = s.accepted ∧ (setCtx s c x).binder = s.binder ∧ (setCtx s c
    x).txq = s.txq ∧ (setCtx s c x).inbox = s.inbox ∧ (setCtx s c x).sent = s.sent ∧ (setCtx s c x).txSeq = s.txSeq ∧ (setCtx s c
    x).triggers = s.triggers ∧ (setCtx s c x).ptpTx = s.ptpTx ∧ (setCtx s c x).rdata = s.rdata ∧ (setCtx s c x).rpois = s.rpois ∧
    (setCtx s c x).evMs = s.evMs ∧ (setCtx s c x).evCnt = s.evCnt ∧ (setCtx s c x).evLast = s.evLast ∧ (setCtx s c x).trigs = s.trigs ∧
    (setCtx s c x).lost = s.lost ∧ (setCtx s c x).known = s.known ∧ (setCtx s c x).lean = s.lean ∧ (setCtx s c x).samples = s.samples ∧
    (setCtx s c x).pwr = s.pwr ∧ (setCtx s c x).tmux = s.tmux ∧ (setCtx s c x).disputed = s.disputed ∧ (setCtx s c x).enc = s.enc ∧
    (setCtx s c x).imu = s.imu ∧ (setCtx s c x).chain = s.chain ∧ (setCtx s c x).bars = s.bars ∧ (setCtx s c x).fus = s.fus ∧ (setCtx s
    c x).out = s.out ∧ (setCtx s c x).ladder = s.ladder ∧ (setCtx s c x).sec = s.sec ∧ (setCtx s c x).boot = s.boot ∧ (setCtx s c
    x).jtag = s.jtag ∧ (setCtx s c x).links = s.links ∧ (setCtx s c x).rbars = s.rbars ∧ (setCtx s c x).relay = s.relay ∧ (setCtx s c
    x).svc = s.svc := by
  simp only [setCtx, and_self]

@[simp] theorem setCtx_ctxs (s : State) (c : Nat) (x : CtxSt) : (setCtx s c x).ctxs = tset ctxD s.ctxs c x := rfl

@[simp] theorem accept_frame (s : State) (r : CmdRef) : (accept s r).pending = s.pending ∧ (accept s r).free = s.free ∧ (accept s
    r).regs = s.regs ∧ (accept s r).pendDis = s.pendDis ∧ (accept s r).disarmed = s.disarmed ∧ (accept s r).opBusy = s.opBusy ∧ (accept
    s r).msix = s.msix ∧ (accept s r).bme = s.bme ∧ (accept s r).msgs = s.msgs ∧ (accept s r).log = s.log ∧ (accept s r).loopCnt =
    s.loopCnt ∧ (accept s r).ft = s.ft ∧ (accept s r).ftFrac = s.ftFrac ∧ (accept s r).disc = s.disc ∧ (accept s r).ptp = s.ptp ∧
    (accept s r).pps = s.pps ∧ (accept s r).srv = s.srv ∧ (accept s r).mp = s.mp ∧ (accept s r).ports = s.ports ∧ (accept s r).i3c =
    s.i3c ∧ (accept s r).wide = s.wide ∧ (accept s r).cairns = s.cairns ∧ (accept s r).srcs = s.srcs ∧ (accept s r).hops = s.hops ∧
    (accept s r).rgn = s.rgn ∧ (accept s r).pins = s.pins ∧ (accept s r).spikeQ = s.spikeQ ∧ (accept s r).slots = s.slots ∧ (accept s
    r).awaiting = s.awaiting ∧ (accept s r).ncFifo = s.ncFifo ∧ (accept s r).nc = s.nc ∧ (accept s r).uop = s.uop ∧ (accept s r).mem =
    s.mem ∧ (accept s r).memUe = s.memUe ∧ (accept s r).memFail = s.memFail ∧ (accept s r).sram = s.sram ∧ (accept s r).poison =
    s.poison ∧ (accept s r).ce = s.ce ∧ (accept s r).scrubs = s.scrubs ∧ (accept s r).held = s.held ∧ (accept s r).tabs = s.tabs ∧
    (accept s r).hostMem = s.hostMem ∧ (accept s r).flash = s.flash ∧ (accept s r).desc = s.desc ∧ (accept s r).ctxs = s.ctxs ∧ (accept
    s r).ancs = s.ancs ∧ (accept s r).tiles = s.tiles ∧ (accept s r).jobs = s.jobs ∧ (accept s r).lastJob = s.lastJob ∧ (accept s
    r).binder = s.binder ∧ (accept s r).txq = s.txq ∧ (accept s r).inbox = s.inbox ∧ (accept s r).sent = s.sent ∧ (accept s r).txSeq =
    s.txSeq ∧ (accept s r).triggers = s.triggers ∧ (accept s r).ptpTx = s.ptpTx ∧ (accept s r).rdata = s.rdata ∧ (accept s r).rpois =
    s.rpois ∧ (accept s r).evMs = s.evMs ∧ (accept s r).evCnt = s.evCnt ∧ (accept s r).evLast = s.evLast ∧ (accept s r).trigs = s.trigs
    ∧ (accept s r).lost = s.lost ∧ (accept s r).known = s.known ∧ (accept s r).lean = s.lean ∧ (accept s r).samples = s.samples ∧
    (accept s r).pwr = s.pwr ∧ (accept s r).tmux = s.tmux ∧ (accept s r).disputed = s.disputed ∧ (accept s r).enc = s.enc ∧ (accept s
    r).imu = s.imu ∧ (accept s r).chain = s.chain ∧ (accept s r).bars = s.bars ∧ (accept s r).fus = s.fus ∧ (accept s r).out = s.out ∧
    (accept s r).ladder = s.ladder ∧ (accept s r).sec = s.sec ∧ (accept s r).boot = s.boot ∧ (accept s r).jtag = s.jtag ∧ (accept s
    r).links = s.links ∧ (accept s r).rbars = s.rbars ∧ (accept s r).relay = s.relay ∧ (accept s r).svc = s.svc := by
  simp only [accept, and_self]

@[simp] theorem accept_accepted (s : State) (r : CmdRef) : (accept s r).accepted = s.accepted ++ [r] := rfl

@[simp] theorem unaccept_frame (s : State) (r : CmdRef) : (unaccept s r).pending = s.pending ∧ (unaccept s r).free = s.free ∧ (unaccept
    s r).regs = s.regs ∧ (unaccept s r).pendDis = s.pendDis ∧ (unaccept s r).disarmed = s.disarmed ∧ (unaccept s r).opBusy = s.opBusy ∧
    (unaccept s r).msix = s.msix ∧ (unaccept s r).bme = s.bme ∧ (unaccept s r).msgs = s.msgs ∧ (unaccept s r).log = s.log ∧ (unaccept s
    r).loopCnt = s.loopCnt ∧ (unaccept s r).ft = s.ft ∧ (unaccept s r).ftFrac = s.ftFrac ∧ (unaccept s r).disc = s.disc ∧ (unaccept s
    r).ptp = s.ptp ∧ (unaccept s r).pps = s.pps ∧ (unaccept s r).srv = s.srv ∧ (unaccept s r).mp = s.mp ∧ (unaccept s r).ports = s.ports
    ∧ (unaccept s r).i3c = s.i3c ∧ (unaccept s r).wide = s.wide ∧ (unaccept s r).cairns = s.cairns ∧ (unaccept s r).srcs = s.srcs ∧
    (unaccept s r).hops = s.hops ∧ (unaccept s r).rgn = s.rgn ∧ (unaccept s r).pins = s.pins ∧ (unaccept s r).spikeQ = s.spikeQ ∧
    (unaccept s r).slots = s.slots ∧ (unaccept s r).awaiting = s.awaiting ∧ (unaccept s r).ncFifo = s.ncFifo ∧ (unaccept s r).nc = s.nc
    ∧ (unaccept s r).uop = s.uop ∧ (unaccept s r).mem = s.mem ∧ (unaccept s r).memUe = s.memUe ∧ (unaccept s r).memFail = s.memFail ∧
    (unaccept s r).sram = s.sram ∧ (unaccept s r).poison = s.poison ∧ (unaccept s r).ce = s.ce ∧ (unaccept s r).scrubs = s.scrubs ∧
    (unaccept s r).held = s.held ∧ (unaccept s r).tabs = s.tabs ∧ (unaccept s r).hostMem = s.hostMem ∧ (unaccept s r).flash = s.flash ∧
    (unaccept s r).desc = s.desc ∧ (unaccept s r).ctxs = s.ctxs ∧ (unaccept s r).ancs = s.ancs ∧ (unaccept s r).tiles = s.tiles ∧
    (unaccept s r).jobs = s.jobs ∧ (unaccept s r).lastJob = s.lastJob ∧ (unaccept s r).binder = s.binder ∧ (unaccept s r).txq = s.txq ∧
    (unaccept s r).inbox = s.inbox ∧ (unaccept s r).sent = s.sent ∧ (unaccept s r).txSeq = s.txSeq ∧ (unaccept s r).triggers =
    s.triggers ∧ (unaccept s r).ptpTx = s.ptpTx ∧ (unaccept s r).rdata = s.rdata ∧ (unaccept s r).rpois = s.rpois ∧ (unaccept s r).evMs
    = s.evMs ∧ (unaccept s r).evCnt = s.evCnt ∧ (unaccept s r).evLast = s.evLast ∧ (unaccept s r).trigs = s.trigs ∧ (unaccept s r).lost
    = s.lost ∧ (unaccept s r).known = s.known ∧ (unaccept s r).lean = s.lean ∧ (unaccept s r).samples = s.samples ∧ (unaccept s r).pwr =
    s.pwr ∧ (unaccept s r).tmux = s.tmux ∧ (unaccept s r).disputed = s.disputed ∧ (unaccept s r).enc = s.enc ∧ (unaccept s r).imu =
    s.imu ∧ (unaccept s r).chain = s.chain ∧ (unaccept s r).bars = s.bars ∧ (unaccept s r).fus = s.fus ∧ (unaccept s r).out = s.out ∧
    (unaccept s r).ladder = s.ladder ∧ (unaccept s r).sec = s.sec ∧ (unaccept s r).boot = s.boot ∧ (unaccept s r).jtag = s.jtag ∧
    (unaccept s r).links = s.links ∧ (unaccept s r).rbars = s.rbars ∧ (unaccept s r).relay = s.relay ∧ (unaccept s r).svc = s.svc := by
  simp only [unaccept, and_self]

@[simp] theorem unaccept_accepted (s : State) (r : CmdRef) : (unaccept s r).accepted = s.accepted.filter (fun x => x != r) := rfl

@[simp] theorem updJob_frame (s : State) (h : Nat) (f : JobSt → JobSt) : (updJob s h f).pending = s.pending ∧ (updJob s h f).free =
    s.free ∧ (updJob s h f).regs = s.regs ∧ (updJob s h f).pendDis = s.pendDis ∧ (updJob s h f).disarmed = s.disarmed ∧ (updJob s h
    f).opBusy = s.opBusy ∧ (updJob s h f).msix = s.msix ∧ (updJob s h f).bme = s.bme ∧ (updJob s h f).msgs = s.msgs ∧ (updJob s h f).log
    = s.log ∧ (updJob s h f).loopCnt = s.loopCnt ∧ (updJob s h f).ft = s.ft ∧ (updJob s h f).ftFrac = s.ftFrac ∧ (updJob s h f).disc =
    s.disc ∧ (updJob s h f).ptp = s.ptp ∧ (updJob s h f).pps = s.pps ∧ (updJob s h f).srv = s.srv ∧ (updJob s h f).mp = s.mp ∧ (updJob s
    h f).ports = s.ports ∧ (updJob s h f).i3c = s.i3c ∧ (updJob s h f).wide = s.wide ∧ (updJob s h f).cairns = s.cairns ∧ (updJob s h
    f).srcs = s.srcs ∧ (updJob s h f).hops = s.hops ∧ (updJob s h f).rgn = s.rgn ∧ (updJob s h f).pins = s.pins ∧ (updJob s h f).spikeQ
    = s.spikeQ ∧ (updJob s h f).slots = s.slots ∧ (updJob s h f).awaiting = s.awaiting ∧ (updJob s h f).ncFifo = s.ncFifo ∧ (updJob s h
    f).nc = s.nc ∧ (updJob s h f).uop = s.uop ∧ (updJob s h f).mem = s.mem ∧ (updJob s h f).memUe = s.memUe ∧ (updJob s h f).memFail =
    s.memFail ∧ (updJob s h f).sram = s.sram ∧ (updJob s h f).poison = s.poison ∧ (updJob s h f).ce = s.ce ∧ (updJob s h f).scrubs =
    s.scrubs ∧ (updJob s h f).held = s.held ∧ (updJob s h f).tabs = s.tabs ∧ (updJob s h f).hostMem = s.hostMem ∧ (updJob s h f).flash =
    s.flash ∧ (updJob s h f).desc = s.desc ∧ (updJob s h f).ctxs = s.ctxs ∧ (updJob s h f).ancs = s.ancs ∧ (updJob s h f).tiles =
    s.tiles ∧ (updJob s h f).lastJob = s.lastJob ∧ (updJob s h f).accepted = s.accepted ∧ (updJob s h f).binder = s.binder ∧ (updJob s h
    f).txq = s.txq ∧ (updJob s h f).inbox = s.inbox ∧ (updJob s h f).sent = s.sent ∧ (updJob s h f).txSeq = s.txSeq ∧ (updJob s h
    f).triggers = s.triggers ∧ (updJob s h f).ptpTx = s.ptpTx ∧ (updJob s h f).rdata = s.rdata ∧ (updJob s h f).rpois = s.rpois ∧
    (updJob s h f).evMs = s.evMs ∧ (updJob s h f).evCnt = s.evCnt ∧ (updJob s h f).evLast = s.evLast ∧ (updJob s h f).trigs = s.trigs ∧
    (updJob s h f).lost = s.lost ∧ (updJob s h f).known = s.known ∧ (updJob s h f).lean = s.lean ∧ (updJob s h f).samples = s.samples ∧
    (updJob s h f).pwr = s.pwr ∧ (updJob s h f).tmux = s.tmux ∧ (updJob s h f).disputed = s.disputed ∧ (updJob s h f).enc = s.enc ∧
    (updJob s h f).imu = s.imu ∧ (updJob s h f).chain = s.chain ∧ (updJob s h f).bars = s.bars ∧ (updJob s h f).fus = s.fus ∧ (updJob s
    h f).out = s.out ∧ (updJob s h f).ladder = s.ladder ∧ (updJob s h f).sec = s.sec ∧ (updJob s h f).boot = s.boot ∧ (updJob s h
    f).jtag = s.jtag ∧ (updJob s h f).links = s.links ∧ (updJob s h f).rbars = s.rbars ∧ (updJob s h f).relay = s.relay ∧ (updJob s h
    f).svc = s.svc := by
  simp only [updJob, and_self]

@[simp] theorem updJob_jobs (s : State) (h : Nat) (f : JobSt → JobSt) : (updJob s h f).jobs = s.jobs.map (fun j => if j.handle = h then f
    j else j) := rfl

@[simp] theorem setNc_frame (s : State) (n : Nat) (x : NcSt) : (setNc s n x).pending = s.pending ∧ (setNc s n x).free = s.free ∧ (setNc
    s n x).regs = s.regs ∧ (setNc s n x).pendDis = s.pendDis ∧ (setNc s n x).disarmed = s.disarmed ∧ (setNc s n x).opBusy = s.opBusy ∧
    (setNc s n x).msix = s.msix ∧ (setNc s n x).bme = s.bme ∧ (setNc s n x).msgs = s.msgs ∧ (setNc s n x).log = s.log ∧ (setNc s n
    x).loopCnt = s.loopCnt ∧ (setNc s n x).ft = s.ft ∧ (setNc s n x).ftFrac = s.ftFrac ∧ (setNc s n x).disc = s.disc ∧ (setNc s n x).ptp
    = s.ptp ∧ (setNc s n x).pps = s.pps ∧ (setNc s n x).srv = s.srv ∧ (setNc s n x).mp = s.mp ∧ (setNc s n x).ports = s.ports ∧ (setNc s
    n x).i3c = s.i3c ∧ (setNc s n x).wide = s.wide ∧ (setNc s n x).cairns = s.cairns ∧ (setNc s n x).srcs = s.srcs ∧ (setNc s n x).hops
    = s.hops ∧ (setNc s n x).rgn = s.rgn ∧ (setNc s n x).pins = s.pins ∧ (setNc s n x).spikeQ = s.spikeQ ∧ (setNc s n x).slots = s.slots
    ∧ (setNc s n x).awaiting = s.awaiting ∧ (setNc s n x).ncFifo = s.ncFifo ∧ (setNc s n x).uop = s.uop ∧ (setNc s n x).mem = s.mem ∧
    (setNc s n x).memUe = s.memUe ∧ (setNc s n x).memFail = s.memFail ∧ (setNc s n x).sram = s.sram ∧ (setNc s n x).poison = s.poison ∧
    (setNc s n x).ce = s.ce ∧ (setNc s n x).scrubs = s.scrubs ∧ (setNc s n x).held = s.held ∧ (setNc s n x).tabs = s.tabs ∧ (setNc s n
    x).hostMem = s.hostMem ∧ (setNc s n x).flash = s.flash ∧ (setNc s n x).desc = s.desc ∧ (setNc s n x).ctxs = s.ctxs ∧ (setNc s n
    x).ancs = s.ancs ∧ (setNc s n x).tiles = s.tiles ∧ (setNc s n x).jobs = s.jobs ∧ (setNc s n x).lastJob = s.lastJob ∧ (setNc s n
    x).accepted = s.accepted ∧ (setNc s n x).binder = s.binder ∧ (setNc s n x).txq = s.txq ∧ (setNc s n x).inbox = s.inbox ∧ (setNc s n
    x).sent = s.sent ∧ (setNc s n x).txSeq = s.txSeq ∧ (setNc s n x).triggers = s.triggers ∧ (setNc s n x).ptpTx = s.ptpTx ∧ (setNc s n
    x).rdata = s.rdata ∧ (setNc s n x).rpois = s.rpois ∧ (setNc s n x).evMs = s.evMs ∧ (setNc s n x).evCnt = s.evCnt ∧ (setNc s n
    x).evLast = s.evLast ∧ (setNc s n x).trigs = s.trigs ∧ (setNc s n x).lost = s.lost ∧ (setNc s n x).known = s.known ∧ (setNc s n
    x).lean = s.lean ∧ (setNc s n x).samples = s.samples ∧ (setNc s n x).pwr = s.pwr ∧ (setNc s n x).tmux = s.tmux ∧ (setNc s n
    x).disputed = s.disputed ∧ (setNc s n x).enc = s.enc ∧ (setNc s n x).imu = s.imu ∧ (setNc s n x).chain = s.chain ∧ (setNc s n
    x).bars = s.bars ∧ (setNc s n x).fus = s.fus ∧ (setNc s n x).out = s.out ∧ (setNc s n x).ladder = s.ladder ∧ (setNc s n x).sec =
    s.sec ∧ (setNc s n x).boot = s.boot ∧ (setNc s n x).jtag = s.jtag ∧ (setNc s n x).links = s.links ∧ (setNc s n x).rbars = s.rbars ∧
    (setNc s n x).relay = s.relay ∧ (setNc s n x).svc = s.svc := by
  simp only [setNc, and_self]

@[simp] theorem setNc_nc (s : State) (n : Nat) (x : NcSt) : (setNc s n x).nc = tset ncD s.nc n x := rfl

@[simp] theorem setSrc_frame (s : State) (k : Nat) (x : SrcSt) : (setSrc s k x).pending = s.pending ∧ (setSrc s k x).free = s.free ∧
    (setSrc s k x).regs = s.regs ∧ (setSrc s k x).pendDis = s.pendDis ∧ (setSrc s k x).disarmed = s.disarmed ∧ (setSrc s k x).opBusy =
    s.opBusy ∧ (setSrc s k x).msix = s.msix ∧ (setSrc s k x).bme = s.bme ∧ (setSrc s k x).msgs = s.msgs ∧ (setSrc s k x).log = s.log ∧
    (setSrc s k x).loopCnt = s.loopCnt ∧ (setSrc s k x).ft = s.ft ∧ (setSrc s k x).ftFrac = s.ftFrac ∧ (setSrc s k x).disc = s.disc ∧
    (setSrc s k x).ptp = s.ptp ∧ (setSrc s k x).pps = s.pps ∧ (setSrc s k x).srv = s.srv ∧ (setSrc s k x).mp = s.mp ∧ (setSrc s k
    x).ports = s.ports ∧ (setSrc s k x).i3c = s.i3c ∧ (setSrc s k x).wide = s.wide ∧ (setSrc s k x).cairns = s.cairns ∧ (setSrc s k
    x).hops = s.hops ∧ (setSrc s k x).rgn = s.rgn ∧ (setSrc s k x).pins = s.pins ∧ (setSrc s k x).spikeQ = s.spikeQ ∧ (setSrc s k
    x).slots = s.slots ∧ (setSrc s k x).awaiting = s.awaiting ∧ (setSrc s k x).ncFifo = s.ncFifo ∧ (setSrc s k x).nc = s.nc ∧ (setSrc s
    k x).uop = s.uop ∧ (setSrc s k x).mem = s.mem ∧ (setSrc s k x).memUe = s.memUe ∧ (setSrc s k x).memFail = s.memFail ∧ (setSrc s k
    x).sram = s.sram ∧ (setSrc s k x).poison = s.poison ∧ (setSrc s k x).ce = s.ce ∧ (setSrc s k x).scrubs = s.scrubs ∧ (setSrc s k
    x).held = s.held ∧ (setSrc s k x).tabs = s.tabs ∧ (setSrc s k x).hostMem = s.hostMem ∧ (setSrc s k x).flash = s.flash ∧ (setSrc s k
    x).desc = s.desc ∧ (setSrc s k x).ctxs = s.ctxs ∧ (setSrc s k x).ancs = s.ancs ∧ (setSrc s k x).tiles = s.tiles ∧ (setSrc s k
    x).jobs = s.jobs ∧ (setSrc s k x).lastJob = s.lastJob ∧ (setSrc s k x).accepted = s.accepted ∧ (setSrc s k x).binder = s.binder ∧
    (setSrc s k x).txq = s.txq ∧ (setSrc s k x).inbox = s.inbox ∧ (setSrc s k x).sent = s.sent ∧ (setSrc s k x).txSeq = s.txSeq ∧
    (setSrc s k x).triggers = s.triggers ∧ (setSrc s k x).ptpTx = s.ptpTx ∧ (setSrc s k x).rdata = s.rdata ∧ (setSrc s k x).rpois =
    s.rpois ∧ (setSrc s k x).evMs = s.evMs ∧ (setSrc s k x).evCnt = s.evCnt ∧ (setSrc s k x).evLast = s.evLast ∧ (setSrc s k x).trigs =
    s.trigs ∧ (setSrc s k x).lost = s.lost ∧ (setSrc s k x).known = s.known ∧ (setSrc s k x).lean = s.lean ∧ (setSrc s k x).samples =
    s.samples ∧ (setSrc s k x).pwr = s.pwr ∧ (setSrc s k x).tmux = s.tmux ∧ (setSrc s k x).disputed = s.disputed ∧ (setSrc s k x).enc =
    s.enc ∧ (setSrc s k x).imu = s.imu ∧ (setSrc s k x).chain = s.chain ∧ (setSrc s k x).bars = s.bars ∧ (setSrc s k x).fus = s.fus ∧
    (setSrc s k x).out = s.out ∧ (setSrc s k x).ladder = s.ladder ∧ (setSrc s k x).sec = s.sec ∧ (setSrc s k x).boot = s.boot ∧ (setSrc
    s k x).jtag = s.jtag ∧ (setSrc s k x).links = s.links ∧ (setSrc s k x).rbars = s.rbars ∧ (setSrc s k x).relay = s.relay ∧ (setSrc s
    k x).svc = s.svc := by
  simp only [setSrc, and_self]

@[simp] theorem setSrc_srcs (s : State) (k : Nat) (x : SrcSt) : (setSrc s k x).srcs = tset srcD s.srcs k x := rfl

@[simp] theorem setSlot_frame (s : State) (t k : Nat) (x : SlotSt) : (setSlot s t k x).pending = s.pending ∧ (setSlot s t k x).free =
    s.free ∧ (setSlot s t k x).regs = s.regs ∧ (setSlot s t k x).pendDis = s.pendDis ∧ (setSlot s t k x).disarmed = s.disarmed ∧
    (setSlot s t k x).opBusy = s.opBusy ∧ (setSlot s t k x).msix = s.msix ∧ (setSlot s t k x).bme = s.bme ∧ (setSlot s t k x).msgs =
    s.msgs ∧ (setSlot s t k x).log = s.log ∧ (setSlot s t k x).loopCnt = s.loopCnt ∧ (setSlot s t k x).ft = s.ft ∧ (setSlot s t k
    x).ftFrac = s.ftFrac ∧ (setSlot s t k x).disc = s.disc ∧ (setSlot s t k x).ptp = s.ptp ∧ (setSlot s t k x).pps = s.pps ∧ (setSlot s
    t k x).srv = s.srv ∧ (setSlot s t k x).mp = s.mp ∧ (setSlot s t k x).ports = s.ports ∧ (setSlot s t k x).i3c = s.i3c ∧ (setSlot s t
    k x).wide = s.wide ∧ (setSlot s t k x).cairns = s.cairns ∧ (setSlot s t k x).srcs = s.srcs ∧ (setSlot s t k x).hops = s.hops ∧
    (setSlot s t k x).rgn = s.rgn ∧ (setSlot s t k x).pins = s.pins ∧ (setSlot s t k x).spikeQ = s.spikeQ ∧ (setSlot s t k x).awaiting =
    s.awaiting ∧ (setSlot s t k x).ncFifo = s.ncFifo ∧ (setSlot s t k x).nc = s.nc ∧ (setSlot s t k x).uop = s.uop ∧ (setSlot s t k
    x).mem = s.mem ∧ (setSlot s t k x).memUe = s.memUe ∧ (setSlot s t k x).memFail = s.memFail ∧ (setSlot s t k x).sram = s.sram ∧
    (setSlot s t k x).poison = s.poison ∧ (setSlot s t k x).ce = s.ce ∧ (setSlot s t k x).scrubs = s.scrubs ∧ (setSlot s t k x).held =
    s.held ∧ (setSlot s t k x).tabs = s.tabs ∧ (setSlot s t k x).hostMem = s.hostMem ∧ (setSlot s t k x).flash = s.flash ∧ (setSlot s t
    k x).desc = s.desc ∧ (setSlot s t k x).ctxs = s.ctxs ∧ (setSlot s t k x).ancs = s.ancs ∧ (setSlot s t k x).tiles = s.tiles ∧
    (setSlot s t k x).jobs = s.jobs ∧ (setSlot s t k x).lastJob = s.lastJob ∧ (setSlot s t k x).accepted = s.accepted ∧ (setSlot s t k
    x).binder = s.binder ∧ (setSlot s t k x).txq = s.txq ∧ (setSlot s t k x).inbox = s.inbox ∧ (setSlot s t k x).sent = s.sent ∧
    (setSlot s t k x).txSeq = s.txSeq ∧ (setSlot s t k x).triggers = s.triggers ∧ (setSlot s t k x).ptpTx = s.ptpTx ∧ (setSlot s t k
    x).rdata = s.rdata ∧ (setSlot s t k x).rpois = s.rpois ∧ (setSlot s t k x).evMs = s.evMs ∧ (setSlot s t k x).evCnt = s.evCnt ∧
    (setSlot s t k x).evLast = s.evLast ∧ (setSlot s t k x).trigs = s.trigs ∧ (setSlot s t k x).lost = s.lost ∧ (setSlot s t k x).known
    = s.known ∧ (setSlot s t k x).lean = s.lean ∧ (setSlot s t k x).samples = s.samples ∧ (setSlot s t k x).pwr = s.pwr ∧ (setSlot s t k
    x).tmux = s.tmux ∧ (setSlot s t k x).disputed = s.disputed ∧ (setSlot s t k x).enc = s.enc ∧ (setSlot s t k x).imu = s.imu ∧
    (setSlot s t k x).chain = s.chain ∧ (setSlot s t k x).bars = s.bars ∧ (setSlot s t k x).fus = s.fus ∧ (setSlot s t k x).out = s.out
    ∧ (setSlot s t k x).ladder = s.ladder ∧ (setSlot s t k x).sec = s.sec ∧ (setSlot s t k x).boot = s.boot ∧ (setSlot s t k x).jtag =
    s.jtag ∧ (setSlot s t k x).links = s.links ∧ (setSlot s t k x).rbars = s.rbars ∧ (setSlot s t k x).relay = s.relay ∧ (setSlot s t k
    x).svc = s.svc := by
  simp only [setSlot, and_self]

@[simp] theorem setSlot_slots (s : State) (t k : Nat) (x : SlotSt) : (setSlot s t k x).slots = tset slotD s.slots (8 * t + k) x := rfl

@[simp] theorem setRgnWord_frame (s : State) (e i : Nat) (v : Word) : (setRgnWord s e i v).pending = s.pending ∧ (setRgnWord s e i
    v).free = s.free ∧ (setRgnWord s e i v).regs = s.regs ∧ (setRgnWord s e i v).pendDis = s.pendDis ∧ (setRgnWord s e i v).disarmed =
    s.disarmed ∧ (setRgnWord s e i v).opBusy = s.opBusy ∧ (setRgnWord s e i v).msix = s.msix ∧ (setRgnWord s e i v).bme = s.bme ∧
    (setRgnWord s e i v).msgs = s.msgs ∧ (setRgnWord s e i v).log = s.log ∧ (setRgnWord s e i v).loopCnt = s.loopCnt ∧ (setRgnWord s e i
    v).ft = s.ft ∧ (setRgnWord s e i v).ftFrac = s.ftFrac ∧ (setRgnWord s e i v).disc = s.disc ∧ (setRgnWord s e i v).ptp = s.ptp ∧
    (setRgnWord s e i v).pps = s.pps ∧ (setRgnWord s e i v).srv = s.srv ∧ (setRgnWord s e i v).mp = s.mp ∧ (setRgnWord s e i v).ports =
    s.ports ∧ (setRgnWord s e i v).i3c = s.i3c ∧ (setRgnWord s e i v).wide = s.wide ∧ (setRgnWord s e i v).cairns = s.cairns ∧
    (setRgnWord s e i v).srcs = s.srcs ∧ (setRgnWord s e i v).hops = s.hops ∧ (setRgnWord s e i v).pins = s.pins ∧ (setRgnWord s e i
    v).spikeQ = s.spikeQ ∧ (setRgnWord s e i v).slots = s.slots ∧ (setRgnWord s e i v).awaiting = s.awaiting ∧ (setRgnWord s e i
    v).ncFifo = s.ncFifo ∧ (setRgnWord s e i v).nc = s.nc ∧ (setRgnWord s e i v).uop = s.uop ∧ (setRgnWord s e i v).mem = s.mem ∧
    (setRgnWord s e i v).memUe = s.memUe ∧ (setRgnWord s e i v).memFail = s.memFail ∧ (setRgnWord s e i v).sram = s.sram ∧ (setRgnWord s
    e i v).poison = s.poison ∧ (setRgnWord s e i v).ce = s.ce ∧ (setRgnWord s e i v).scrubs = s.scrubs ∧ (setRgnWord s e i v).held =
    s.held ∧ (setRgnWord s e i v).tabs = s.tabs ∧ (setRgnWord s e i v).hostMem = s.hostMem ∧ (setRgnWord s e i v).flash = s.flash ∧
    (setRgnWord s e i v).desc = s.desc ∧ (setRgnWord s e i v).ctxs = s.ctxs ∧ (setRgnWord s e i v).ancs = s.ancs ∧ (setRgnWord s e i
    v).tiles = s.tiles ∧ (setRgnWord s e i v).jobs = s.jobs ∧ (setRgnWord s e i v).lastJob = s.lastJob ∧ (setRgnWord s e i v).accepted =
    s.accepted ∧ (setRgnWord s e i v).binder = s.binder ∧ (setRgnWord s e i v).txq = s.txq ∧ (setRgnWord s e i v).inbox = s.inbox ∧
    (setRgnWord s e i v).sent = s.sent ∧ (setRgnWord s e i v).txSeq = s.txSeq ∧ (setRgnWord s e i v).triggers = s.triggers ∧ (setRgnWord
    s e i v).ptpTx = s.ptpTx ∧ (setRgnWord s e i v).rdata = s.rdata ∧ (setRgnWord s e i v).rpois = s.rpois ∧ (setRgnWord s e i v).evMs =
    s.evMs ∧ (setRgnWord s e i v).evCnt = s.evCnt ∧ (setRgnWord s e i v).evLast = s.evLast ∧ (setRgnWord s e i v).trigs = s.trigs ∧
    (setRgnWord s e i v).lost = s.lost ∧ (setRgnWord s e i v).known = s.known ∧ (setRgnWord s e i v).lean = s.lean ∧ (setRgnWord s e i
    v).samples = s.samples ∧ (setRgnWord s e i v).pwr = s.pwr ∧ (setRgnWord s e i v).tmux = s.tmux ∧ (setRgnWord s e i v).disputed =
    s.disputed ∧ (setRgnWord s e i v).enc = s.enc ∧ (setRgnWord s e i v).imu = s.imu ∧ (setRgnWord s e i v).chain = s.chain ∧
    (setRgnWord s e i v).bars = s.bars ∧ (setRgnWord s e i v).fus = s.fus ∧ (setRgnWord s e i v).out = s.out ∧ (setRgnWord s e i
    v).ladder = s.ladder ∧ (setRgnWord s e i v).sec = s.sec ∧ (setRgnWord s e i v).boot = s.boot ∧ (setRgnWord s e i v).jtag = s.jtag ∧
    (setRgnWord s e i v).links = s.links ∧ (setRgnWord s e i v).rbars = s.rbars ∧ (setRgnWord s e i v).relay = s.relay ∧ (setRgnWord s e
    i v).svc = s.svc := by
  simp only [setRgnWord, and_self]

@[simp] theorem setRgnWord_rgn (s : State) (e i : Nat) (v : Word) : (setRgnWord s e i v).rgn = tset rgnD s.rgn (4 * e + i) v := rfl

@[simp] theorem setAwaiting_frame (s : State) (u : Nat) (b : Bool) : (setAwaiting s u b).pending = s.pending ∧ (setAwaiting s u b).free
    = s.free ∧ (setAwaiting s u b).regs = s.regs ∧ (setAwaiting s u b).pendDis = s.pendDis ∧ (setAwaiting s u b).disarmed = s.disarmed ∧
    (setAwaiting s u b).opBusy = s.opBusy ∧ (setAwaiting s u b).msix = s.msix ∧ (setAwaiting s u b).bme = s.bme ∧ (setAwaiting s u
    b).msgs = s.msgs ∧ (setAwaiting s u b).log = s.log ∧ (setAwaiting s u b).loopCnt = s.loopCnt ∧ (setAwaiting s u b).ft = s.ft ∧
    (setAwaiting s u b).ftFrac = s.ftFrac ∧ (setAwaiting s u b).disc = s.disc ∧ (setAwaiting s u b).ptp = s.ptp ∧ (setAwaiting s u
    b).pps = s.pps ∧ (setAwaiting s u b).srv = s.srv ∧ (setAwaiting s u b).mp = s.mp ∧ (setAwaiting s u b).ports = s.ports ∧
    (setAwaiting s u b).i3c = s.i3c ∧ (setAwaiting s u b).wide = s.wide ∧ (setAwaiting s u b).cairns = s.cairns ∧ (setAwaiting s u
    b).srcs = s.srcs ∧ (setAwaiting s u b).hops = s.hops ∧ (setAwaiting s u b).rgn = s.rgn ∧ (setAwaiting s u b).pins = s.pins ∧
    (setAwaiting s u b).spikeQ = s.spikeQ ∧ (setAwaiting s u b).slots = s.slots ∧ (setAwaiting s u b).ncFifo = s.ncFifo ∧ (setAwaiting s
    u b).nc = s.nc ∧ (setAwaiting s u b).uop = s.uop ∧ (setAwaiting s u b).mem = s.mem ∧ (setAwaiting s u b).memUe = s.memUe ∧
    (setAwaiting s u b).memFail = s.memFail ∧ (setAwaiting s u b).sram = s.sram ∧ (setAwaiting s u b).poison = s.poison ∧ (setAwaiting s
    u b).ce = s.ce ∧ (setAwaiting s u b).scrubs = s.scrubs ∧ (setAwaiting s u b).held = s.held ∧ (setAwaiting s u b).tabs = s.tabs ∧
    (setAwaiting s u b).hostMem = s.hostMem ∧ (setAwaiting s u b).flash = s.flash ∧ (setAwaiting s u b).desc = s.desc ∧ (setAwaiting s u
    b).ctxs = s.ctxs ∧ (setAwaiting s u b).ancs = s.ancs ∧ (setAwaiting s u b).tiles = s.tiles ∧ (setAwaiting s u b).jobs = s.jobs ∧
    (setAwaiting s u b).lastJob = s.lastJob ∧ (setAwaiting s u b).accepted = s.accepted ∧ (setAwaiting s u b).binder = s.binder ∧
    (setAwaiting s u b).txq = s.txq ∧ (setAwaiting s u b).inbox = s.inbox ∧ (setAwaiting s u b).sent = s.sent ∧ (setAwaiting s u
    b).txSeq = s.txSeq ∧ (setAwaiting s u b).triggers = s.triggers ∧ (setAwaiting s u b).ptpTx = s.ptpTx ∧ (setAwaiting s u b).rdata =
    s.rdata ∧ (setAwaiting s u b).rpois = s.rpois ∧ (setAwaiting s u b).evMs = s.evMs ∧ (setAwaiting s u b).evCnt = s.evCnt ∧
    (setAwaiting s u b).evLast = s.evLast ∧ (setAwaiting s u b).trigs = s.trigs ∧ (setAwaiting s u b).lost = s.lost ∧ (setAwaiting s u
    b).known = s.known ∧ (setAwaiting s u b).lean = s.lean ∧ (setAwaiting s u b).samples = s.samples ∧ (setAwaiting s u b).pwr = s.pwr ∧
    (setAwaiting s u b).tmux = s.tmux ∧ (setAwaiting s u b).disputed = s.disputed ∧ (setAwaiting s u b).enc = s.enc ∧ (setAwaiting s u
    b).imu = s.imu ∧ (setAwaiting s u b).chain = s.chain ∧ (setAwaiting s u b).bars = s.bars ∧ (setAwaiting s u b).fus = s.fus ∧
    (setAwaiting s u b).out = s.out ∧ (setAwaiting s u b).ladder = s.ladder ∧ (setAwaiting s u b).sec = s.sec ∧ (setAwaiting s u b).boot
    = s.boot ∧ (setAwaiting s u b).jtag = s.jtag ∧ (setAwaiting s u b).links = s.links ∧ (setAwaiting s u b).rbars = s.rbars ∧
    (setAwaiting s u b).relay = s.relay ∧ (setAwaiting s u b).svc = s.svc := by
  simp only [setAwaiting, and_self]

@[simp] theorem setAwaiting_awaiting (s : State) (u : Nat) (b : Bool) : (setAwaiting s u b).awaiting = tset boolD s.awaiting u b := rfl

@[simp] theorem setNcIn_frame (s : State) (n : Nat) (q : List FabWord) : (setNcIn s n q).pending = s.pending ∧ (setNcIn s n q).free =
    s.free ∧ (setNcIn s n q).regs = s.regs ∧ (setNcIn s n q).pendDis = s.pendDis ∧ (setNcIn s n q).disarmed = s.disarmed ∧ (setNcIn s n
    q).opBusy = s.opBusy ∧ (setNcIn s n q).msix = s.msix ∧ (setNcIn s n q).bme = s.bme ∧ (setNcIn s n q).msgs = s.msgs ∧ (setNcIn s n
    q).log = s.log ∧ (setNcIn s n q).loopCnt = s.loopCnt ∧ (setNcIn s n q).ft = s.ft ∧ (setNcIn s n q).ftFrac = s.ftFrac ∧ (setNcIn s n
    q).disc = s.disc ∧ (setNcIn s n q).ptp = s.ptp ∧ (setNcIn s n q).pps = s.pps ∧ (setNcIn s n q).srv = s.srv ∧ (setNcIn s n q).mp =
    s.mp ∧ (setNcIn s n q).ports = s.ports ∧ (setNcIn s n q).i3c = s.i3c ∧ (setNcIn s n q).wide = s.wide ∧ (setNcIn s n q).cairns =
    s.cairns ∧ (setNcIn s n q).srcs = s.srcs ∧ (setNcIn s n q).hops = s.hops ∧ (setNcIn s n q).rgn = s.rgn ∧ (setNcIn s n q).pins =
    s.pins ∧ (setNcIn s n q).spikeQ = s.spikeQ ∧ (setNcIn s n q).slots = s.slots ∧ (setNcIn s n q).awaiting = s.awaiting ∧ (setNcIn s n
    q).nc = s.nc ∧ (setNcIn s n q).uop = s.uop ∧ (setNcIn s n q).mem = s.mem ∧ (setNcIn s n q).memUe = s.memUe ∧ (setNcIn s n q).memFail
    = s.memFail ∧ (setNcIn s n q).sram = s.sram ∧ (setNcIn s n q).poison = s.poison ∧ (setNcIn s n q).ce = s.ce ∧ (setNcIn s n q).scrubs
    = s.scrubs ∧ (setNcIn s n q).held = s.held ∧ (setNcIn s n q).tabs = s.tabs ∧ (setNcIn s n q).hostMem = s.hostMem ∧ (setNcIn s n
    q).flash = s.flash ∧ (setNcIn s n q).desc = s.desc ∧ (setNcIn s n q).ctxs = s.ctxs ∧ (setNcIn s n q).ancs = s.ancs ∧ (setNcIn s n
    q).tiles = s.tiles ∧ (setNcIn s n q).jobs = s.jobs ∧ (setNcIn s n q).lastJob = s.lastJob ∧ (setNcIn s n q).accepted = s.accepted ∧
    (setNcIn s n q).binder = s.binder ∧ (setNcIn s n q).txq = s.txq ∧ (setNcIn s n q).inbox = s.inbox ∧ (setNcIn s n q).sent = s.sent ∧
    (setNcIn s n q).txSeq = s.txSeq ∧ (setNcIn s n q).triggers = s.triggers ∧ (setNcIn s n q).ptpTx = s.ptpTx ∧ (setNcIn s n q).rdata =
    s.rdata ∧ (setNcIn s n q).rpois = s.rpois ∧ (setNcIn s n q).evMs = s.evMs ∧ (setNcIn s n q).evCnt = s.evCnt ∧ (setNcIn s n q).evLast
    = s.evLast ∧ (setNcIn s n q).trigs = s.trigs ∧ (setNcIn s n q).lost = s.lost ∧ (setNcIn s n q).known = s.known ∧ (setNcIn s n
    q).lean = s.lean ∧ (setNcIn s n q).samples = s.samples ∧ (setNcIn s n q).pwr = s.pwr ∧ (setNcIn s n q).tmux = s.tmux ∧ (setNcIn s n
    q).disputed = s.disputed ∧ (setNcIn s n q).enc = s.enc ∧ (setNcIn s n q).imu = s.imu ∧ (setNcIn s n q).chain = s.chain ∧ (setNcIn s
    n q).bars = s.bars ∧ (setNcIn s n q).fus = s.fus ∧ (setNcIn s n q).out = s.out ∧ (setNcIn s n q).ladder = s.ladder ∧ (setNcIn s n
    q).sec = s.sec ∧ (setNcIn s n q).boot = s.boot ∧ (setNcIn s n q).jtag = s.jtag ∧ (setNcIn s n q).links = s.links ∧ (setNcIn s n
    q).rbars = s.rbars ∧ (setNcIn s n q).relay = s.relay ∧ (setNcIn s n q).svc = s.svc := by
  simp only [setNcIn, and_self]

@[simp] theorem setNcIn_ncFifo (s : State) (n : Nat) (q : List FabWord) : (setNcIn s n q).ncFifo = tset fabQD s.ncFifo n q := rfl

@[simp] theorem rearmPage_frame (s : State) (pg : Nat) : (rearmPage s pg).pending = s.pending ∧ (rearmPage s pg).free = s.free ∧
    (rearmPage s pg).regs = s.regs ∧ (rearmPage s pg).pendDis = s.pendDis ∧ (rearmPage s pg).opBusy = s.opBusy ∧ (rearmPage s pg).msix =
    s.msix ∧ (rearmPage s pg).bme = s.bme ∧ (rearmPage s pg).msgs = s.msgs ∧ (rearmPage s pg).log = s.log ∧ (rearmPage s pg).loopCnt =
    s.loopCnt ∧ (rearmPage s pg).ft = s.ft ∧ (rearmPage s pg).ftFrac = s.ftFrac ∧ (rearmPage s pg).disc = s.disc ∧ (rearmPage s pg).ptp
    = s.ptp ∧ (rearmPage s pg).pps = s.pps ∧ (rearmPage s pg).srv = s.srv ∧ (rearmPage s pg).mp = s.mp ∧ (rearmPage s pg).ports =
    s.ports ∧ (rearmPage s pg).i3c = s.i3c ∧ (rearmPage s pg).wide = s.wide ∧ (rearmPage s pg).cairns = s.cairns ∧ (rearmPage s pg).srcs
    = s.srcs ∧ (rearmPage s pg).hops = s.hops ∧ (rearmPage s pg).rgn = s.rgn ∧ (rearmPage s pg).pins = s.pins ∧ (rearmPage s pg).spikeQ
    = s.spikeQ ∧ (rearmPage s pg).slots = s.slots ∧ (rearmPage s pg).awaiting = s.awaiting ∧ (rearmPage s pg).ncFifo = s.ncFifo ∧
    (rearmPage s pg).nc = s.nc ∧ (rearmPage s pg).uop = s.uop ∧ (rearmPage s pg).mem = s.mem ∧ (rearmPage s pg).memUe = s.memUe ∧
    (rearmPage s pg).memFail = s.memFail ∧ (rearmPage s pg).sram = s.sram ∧ (rearmPage s pg).poison = s.poison ∧ (rearmPage s pg).ce =
    s.ce ∧ (rearmPage s pg).scrubs = s.scrubs ∧ (rearmPage s pg).held = s.held ∧ (rearmPage s pg).tabs = s.tabs ∧ (rearmPage s
    pg).hostMem = s.hostMem ∧ (rearmPage s pg).flash = s.flash ∧ (rearmPage s pg).desc = s.desc ∧ (rearmPage s pg).ctxs = s.ctxs ∧
    (rearmPage s pg).ancs = s.ancs ∧ (rearmPage s pg).tiles = s.tiles ∧ (rearmPage s pg).jobs = s.jobs ∧ (rearmPage s pg).lastJob =
    s.lastJob ∧ (rearmPage s pg).accepted = s.accepted ∧ (rearmPage s pg).binder = s.binder ∧ (rearmPage s pg).txq = s.txq ∧ (rearmPage
    s pg).inbox = s.inbox ∧ (rearmPage s pg).sent = s.sent ∧ (rearmPage s pg).txSeq = s.txSeq ∧ (rearmPage s pg).triggers = s.triggers ∧
    (rearmPage s pg).ptpTx = s.ptpTx ∧ (rearmPage s pg).rdata = s.rdata ∧ (rearmPage s pg).rpois = s.rpois ∧ (rearmPage s pg).evMs =
    s.evMs ∧ (rearmPage s pg).evCnt = s.evCnt ∧ (rearmPage s pg).evLast = s.evLast ∧ (rearmPage s pg).trigs = s.trigs ∧ (rearmPage s
    pg).lost = s.lost ∧ (rearmPage s pg).known = s.known ∧ (rearmPage s pg).lean = s.lean ∧ (rearmPage s pg).samples = s.samples ∧
    (rearmPage s pg).pwr = s.pwr ∧ (rearmPage s pg).tmux = s.tmux ∧ (rearmPage s pg).disputed = s.disputed ∧ (rearmPage s pg).enc =
    s.enc ∧ (rearmPage s pg).imu = s.imu ∧ (rearmPage s pg).chain = s.chain ∧ (rearmPage s pg).bars = s.bars ∧ (rearmPage s pg).fus =
    s.fus ∧ (rearmPage s pg).out = s.out ∧ (rearmPage s pg).ladder = s.ladder ∧ (rearmPage s pg).sec = s.sec ∧ (rearmPage s pg).boot =
    s.boot ∧ (rearmPage s pg).jtag = s.jtag ∧ (rearmPage s pg).links = s.links ∧ (rearmPage s pg).rbars = s.rbars ∧ (rearmPage s
    pg).relay = s.relay ∧ (rearmPage s pg).svc = s.svc := by
  simp only [rearmPage, and_self]

@[simp] theorem rearmPage_disarmed (s : State) (pg : Nat) : (rearmPage s pg).disarmed = s.disarmed.filter (fun e => decide (pageOf e.1 ≠
    pg)) := rfl

@[simp] theorem updPwr_frame (s : State) (g : PwrSt → PwrSt) : (updPwr s g).pending = s.pending ∧ (updPwr s g).free = s.free ∧ (updPwr s
    g).regs = s.regs ∧ (updPwr s g).pendDis = s.pendDis ∧ (updPwr s g).disarmed = s.disarmed ∧ (updPwr s g).opBusy = s.opBusy ∧ (updPwr
    s g).msix = s.msix ∧ (updPwr s g).bme = s.bme ∧ (updPwr s g).msgs = s.msgs ∧ (updPwr s g).log = s.log ∧ (updPwr s g).loopCnt =
    s.loopCnt ∧ (updPwr s g).ft = s.ft ∧ (updPwr s g).ftFrac = s.ftFrac ∧ (updPwr s g).disc = s.disc ∧ (updPwr s g).ptp = s.ptp ∧
    (updPwr s g).pps = s.pps ∧ (updPwr s g).srv = s.srv ∧ (updPwr s g).mp = s.mp ∧ (updPwr s g).ports = s.ports ∧ (updPwr s g).i3c =
    s.i3c ∧ (updPwr s g).wide = s.wide ∧ (updPwr s g).cairns = s.cairns ∧ (updPwr s g).srcs = s.srcs ∧ (updPwr s g).hops = s.hops ∧
    (updPwr s g).rgn = s.rgn ∧ (updPwr s g).pins = s.pins ∧ (updPwr s g).spikeQ = s.spikeQ ∧ (updPwr s g).slots = s.slots ∧ (updPwr s
    g).awaiting = s.awaiting ∧ (updPwr s g).ncFifo = s.ncFifo ∧ (updPwr s g).nc = s.nc ∧ (updPwr s g).uop = s.uop ∧ (updPwr s g).mem =
    s.mem ∧ (updPwr s g).memUe = s.memUe ∧ (updPwr s g).memFail = s.memFail ∧ (updPwr s g).sram = s.sram ∧ (updPwr s g).poison =
    s.poison ∧ (updPwr s g).ce = s.ce ∧ (updPwr s g).scrubs = s.scrubs ∧ (updPwr s g).held = s.held ∧ (updPwr s g).tabs = s.tabs ∧
    (updPwr s g).hostMem = s.hostMem ∧ (updPwr s g).flash = s.flash ∧ (updPwr s g).desc = s.desc ∧ (updPwr s g).ctxs = s.ctxs ∧ (updPwr
    s g).ancs = s.ancs ∧ (updPwr s g).tiles = s.tiles ∧ (updPwr s g).jobs = s.jobs ∧ (updPwr s g).lastJob = s.lastJob ∧ (updPwr s
    g).accepted = s.accepted ∧ (updPwr s g).binder = s.binder ∧ (updPwr s g).txq = s.txq ∧ (updPwr s g).inbox = s.inbox ∧ (updPwr s
    g).sent = s.sent ∧ (updPwr s g).txSeq = s.txSeq ∧ (updPwr s g).triggers = s.triggers ∧ (updPwr s g).ptpTx = s.ptpTx ∧ (updPwr s
    g).rdata = s.rdata ∧ (updPwr s g).rpois = s.rpois ∧ (updPwr s g).evMs = s.evMs ∧ (updPwr s g).evCnt = s.evCnt ∧ (updPwr s g).evLast
    = s.evLast ∧ (updPwr s g).trigs = s.trigs ∧ (updPwr s g).lost = s.lost ∧ (updPwr s g).known = s.known ∧ (updPwr s g).lean = s.lean ∧
    (updPwr s g).samples = s.samples ∧ (updPwr s g).tmux = s.tmux ∧ (updPwr s g).disputed = s.disputed ∧ (updPwr s g).enc = s.enc ∧
    (updPwr s g).imu = s.imu ∧ (updPwr s g).chain = s.chain ∧ (updPwr s g).bars = s.bars ∧ (updPwr s g).fus = s.fus ∧ (updPwr s g).out =
    s.out ∧ (updPwr s g).ladder = s.ladder ∧ (updPwr s g).sec = s.sec ∧ (updPwr s g).boot = s.boot ∧ (updPwr s g).jtag = s.jtag ∧
    (updPwr s g).links = s.links ∧ (updPwr s g).rbars = s.rbars ∧ (updPwr s g).relay = s.relay ∧ (updPwr s g).svc = s.svc := by
  simp only [updPwr, and_self]

@[simp] theorem updPwr_pwr (s : State) (g : PwrSt → PwrSt) : (updPwr s g).pwr = g s.pwr := rfl

@[simp] theorem updLean_frame (s : State) (g : LeanSt → LeanSt) : (updLean s g).pending = s.pending ∧ (updLean s g).free = s.free ∧
    (updLean s g).regs = s.regs ∧ (updLean s g).pendDis = s.pendDis ∧ (updLean s g).disarmed = s.disarmed ∧ (updLean s g).opBusy =
    s.opBusy ∧ (updLean s g).msix = s.msix ∧ (updLean s g).bme = s.bme ∧ (updLean s g).msgs = s.msgs ∧ (updLean s g).log = s.log ∧
    (updLean s g).loopCnt = s.loopCnt ∧ (updLean s g).ft = s.ft ∧ (updLean s g).ftFrac = s.ftFrac ∧ (updLean s g).disc = s.disc ∧
    (updLean s g).ptp = s.ptp ∧ (updLean s g).pps = s.pps ∧ (updLean s g).srv = s.srv ∧ (updLean s g).mp = s.mp ∧ (updLean s g).ports =
    s.ports ∧ (updLean s g).i3c = s.i3c ∧ (updLean s g).wide = s.wide ∧ (updLean s g).cairns = s.cairns ∧ (updLean s g).srcs = s.srcs ∧
    (updLean s g).hops = s.hops ∧ (updLean s g).rgn = s.rgn ∧ (updLean s g).pins = s.pins ∧ (updLean s g).spikeQ = s.spikeQ ∧ (updLean s
    g).slots = s.slots ∧ (updLean s g).awaiting = s.awaiting ∧ (updLean s g).ncFifo = s.ncFifo ∧ (updLean s g).nc = s.nc ∧ (updLean s
    g).uop = s.uop ∧ (updLean s g).mem = s.mem ∧ (updLean s g).memUe = s.memUe ∧ (updLean s g).memFail = s.memFail ∧ (updLean s g).sram
    = s.sram ∧ (updLean s g).poison = s.poison ∧ (updLean s g).ce = s.ce ∧ (updLean s g).scrubs = s.scrubs ∧ (updLean s g).held = s.held
    ∧ (updLean s g).tabs = s.tabs ∧ (updLean s g).hostMem = s.hostMem ∧ (updLean s g).flash = s.flash ∧ (updLean s g).desc = s.desc ∧
    (updLean s g).ctxs = s.ctxs ∧ (updLean s g).ancs = s.ancs ∧ (updLean s g).tiles = s.tiles ∧ (updLean s g).jobs = s.jobs ∧ (updLean s
    g).lastJob = s.lastJob ∧ (updLean s g).accepted = s.accepted ∧ (updLean s g).binder = s.binder ∧ (updLean s g).txq = s.txq ∧
    (updLean s g).inbox = s.inbox ∧ (updLean s g).sent = s.sent ∧ (updLean s g).txSeq = s.txSeq ∧ (updLean s g).triggers = s.triggers ∧
    (updLean s g).ptpTx = s.ptpTx ∧ (updLean s g).rdata = s.rdata ∧ (updLean s g).rpois = s.rpois ∧ (updLean s g).evMs = s.evMs ∧
    (updLean s g).evCnt = s.evCnt ∧ (updLean s g).evLast = s.evLast ∧ (updLean s g).trigs = s.trigs ∧ (updLean s g).lost = s.lost ∧
    (updLean s g).known = s.known ∧ (updLean s g).samples = s.samples ∧ (updLean s g).pwr = s.pwr ∧ (updLean s g).tmux = s.tmux ∧
    (updLean s g).disputed = s.disputed ∧ (updLean s g).enc = s.enc ∧ (updLean s g).imu = s.imu ∧ (updLean s g).chain = s.chain ∧
    (updLean s g).bars = s.bars ∧ (updLean s g).fus = s.fus ∧ (updLean s g).out = s.out ∧ (updLean s g).ladder = s.ladder ∧ (updLean s
    g).sec = s.sec ∧ (updLean s g).boot = s.boot ∧ (updLean s g).jtag = s.jtag ∧ (updLean s g).links = s.links ∧ (updLean s g).rbars =
    s.rbars ∧ (updLean s g).relay = s.relay ∧ (updLean s g).svc = s.svc := by
  simp only [updLean, and_self]

@[simp] theorem updLean_lean (s : State) (g : LeanSt → LeanSt) : (updLean s g).lean = g s.lean := rfl

@[simp] theorem leanLog_frame (s : State) (old new reason : Nat) : (leanLog s old new reason).pending = s.pending ∧ (leanLog s old new
    reason).free = s.free ∧ (leanLog s old new reason).regs = s.regs ∧ (leanLog s old new reason).pendDis = s.pendDis ∧ (leanLog s old
    new reason).disarmed = s.disarmed ∧ (leanLog s old new reason).opBusy = s.opBusy ∧ (leanLog s old new reason).msix = s.msix ∧
    (leanLog s old new reason).bme = s.bme ∧ (leanLog s old new reason).msgs = s.msgs ∧ (leanLog s old new reason).ft = s.ft ∧ (leanLog
    s old new reason).ftFrac = s.ftFrac ∧ (leanLog s old new reason).disc = s.disc ∧ (leanLog s old new reason).ptp = s.ptp ∧ (leanLog s
    old new reason).pps = s.pps ∧ (leanLog s old new reason).srv = s.srv ∧ (leanLog s old new reason).mp = s.mp ∧ (leanLog s old new
    reason).ports = s.ports ∧ (leanLog s old new reason).i3c = s.i3c ∧ (leanLog s old new reason).wide = s.wide ∧ (leanLog s old new
    reason).cairns = s.cairns ∧ (leanLog s old new reason).srcs = s.srcs ∧ (leanLog s old new reason).hops = s.hops ∧ (leanLog s old new
    reason).rgn = s.rgn ∧ (leanLog s old new reason).pins = s.pins ∧ (leanLog s old new reason).spikeQ = s.spikeQ ∧ (leanLog s old new
    reason).slots = s.slots ∧ (leanLog s old new reason).awaiting = s.awaiting ∧ (leanLog s old new reason).ncFifo = s.ncFifo ∧ (leanLog
    s old new reason).nc = s.nc ∧ (leanLog s old new reason).uop = s.uop ∧ (leanLog s old new reason).mem = s.mem ∧ (leanLog s old new
    reason).memUe = s.memUe ∧ (leanLog s old new reason).memFail = s.memFail ∧ (leanLog s old new reason).sram = s.sram ∧ (leanLog s old
    new reason).poison = s.poison ∧ (leanLog s old new reason).ce = s.ce ∧ (leanLog s old new reason).scrubs = s.scrubs ∧ (leanLog s old
    new reason).held = s.held ∧ (leanLog s old new reason).tabs = s.tabs ∧ (leanLog s old new reason).hostMem = s.hostMem ∧ (leanLog s
    old new reason).flash = s.flash ∧ (leanLog s old new reason).desc = s.desc ∧ (leanLog s old new reason).ctxs = s.ctxs ∧ (leanLog s
    old new reason).ancs = s.ancs ∧ (leanLog s old new reason).tiles = s.tiles ∧ (leanLog s old new reason).jobs = s.jobs ∧ (leanLog s
    old new reason).lastJob = s.lastJob ∧ (leanLog s old new reason).accepted = s.accepted ∧ (leanLog s old new reason).binder =
    s.binder ∧ (leanLog s old new reason).txq = s.txq ∧ (leanLog s old new reason).inbox = s.inbox ∧ (leanLog s old new reason).sent =
    s.sent ∧ (leanLog s old new reason).txSeq = s.txSeq ∧ (leanLog s old new reason).triggers = s.triggers ∧ (leanLog s old new
    reason).ptpTx = s.ptpTx ∧ (leanLog s old new reason).rdata = s.rdata ∧ (leanLog s old new reason).rpois = s.rpois ∧ (leanLog s old
    new reason).evMs = s.evMs ∧ (leanLog s old new reason).evCnt = s.evCnt ∧ (leanLog s old new reason).evLast = s.evLast ∧ (leanLog s
    old new reason).trigs = s.trigs ∧ (leanLog s old new reason).lost = s.lost ∧ (leanLog s old new reason).known = s.known ∧ (leanLog s
    old new reason).lean = s.lean ∧ (leanLog s old new reason).samples = s.samples ∧ (leanLog s old new reason).pwr = s.pwr ∧ (leanLog s
    old new reason).tmux = s.tmux ∧ (leanLog s old new reason).disputed = s.disputed ∧ (leanLog s old new reason).enc = s.enc ∧ (leanLog
    s old new reason).imu = s.imu ∧ (leanLog s old new reason).chain = s.chain ∧ (leanLog s old new reason).bars = s.bars ∧ (leanLog s
    old new reason).fus = s.fus ∧ (leanLog s old new reason).out = s.out ∧ (leanLog s old new reason).ladder = s.ladder ∧ (leanLog s old
    new reason).sec = s.sec ∧ (leanLog s old new reason).boot = s.boot ∧ (leanLog s old new reason).jtag = s.jtag ∧ (leanLog s old new
    reason).links = s.links ∧ (leanLog s old new reason).rbars = s.rbars ∧ (leanLog s old new reason).relay = s.relay ∧ (leanLog s old
    new reason).svc = s.svc := by
  simp only [leanLog, addLogData, and_self]

@[simp] theorem setEnc_frame (s : State) (e : Nat) (x : EncSt) : (setEnc s e x).pending = s.pending ∧ (setEnc s e x).free = s.free ∧
    (setEnc s e x).regs = s.regs ∧ (setEnc s e x).pendDis = s.pendDis ∧ (setEnc s e x).disarmed = s.disarmed ∧ (setEnc s e x).opBusy =
    s.opBusy ∧ (setEnc s e x).msix = s.msix ∧ (setEnc s e x).bme = s.bme ∧ (setEnc s e x).msgs = s.msgs ∧ (setEnc s e x).log = s.log ∧
    (setEnc s e x).loopCnt = s.loopCnt ∧ (setEnc s e x).ft = s.ft ∧ (setEnc s e x).ftFrac = s.ftFrac ∧ (setEnc s e x).disc = s.disc ∧
    (setEnc s e x).ptp = s.ptp ∧ (setEnc s e x).pps = s.pps ∧ (setEnc s e x).srv = s.srv ∧ (setEnc s e x).mp = s.mp ∧ (setEnc s e
    x).ports = s.ports ∧ (setEnc s e x).i3c = s.i3c ∧ (setEnc s e x).wide = s.wide ∧ (setEnc s e x).cairns = s.cairns ∧ (setEnc s e
    x).srcs = s.srcs ∧ (setEnc s e x).hops = s.hops ∧ (setEnc s e x).rgn = s.rgn ∧ (setEnc s e x).pins = s.pins ∧ (setEnc s e x).spikeQ
    = s.spikeQ ∧ (setEnc s e x).slots = s.slots ∧ (setEnc s e x).awaiting = s.awaiting ∧ (setEnc s e x).ncFifo = s.ncFifo ∧ (setEnc s e
    x).nc = s.nc ∧ (setEnc s e x).uop = s.uop ∧ (setEnc s e x).mem = s.mem ∧ (setEnc s e x).memUe = s.memUe ∧ (setEnc s e x).memFail =
    s.memFail ∧ (setEnc s e x).sram = s.sram ∧ (setEnc s e x).poison = s.poison ∧ (setEnc s e x).ce = s.ce ∧ (setEnc s e x).scrubs =
    s.scrubs ∧ (setEnc s e x).held = s.held ∧ (setEnc s e x).tabs = s.tabs ∧ (setEnc s e x).hostMem = s.hostMem ∧ (setEnc s e x).flash =
    s.flash ∧ (setEnc s e x).desc = s.desc ∧ (setEnc s e x).ctxs = s.ctxs ∧ (setEnc s e x).ancs = s.ancs ∧ (setEnc s e x).tiles =
    s.tiles ∧ (setEnc s e x).jobs = s.jobs ∧ (setEnc s e x).lastJob = s.lastJob ∧ (setEnc s e x).accepted = s.accepted ∧ (setEnc s e
    x).binder = s.binder ∧ (setEnc s e x).txq = s.txq ∧ (setEnc s e x).inbox = s.inbox ∧ (setEnc s e x).sent = s.sent ∧ (setEnc s e
    x).txSeq = s.txSeq ∧ (setEnc s e x).triggers = s.triggers ∧ (setEnc s e x).ptpTx = s.ptpTx ∧ (setEnc s e x).rdata = s.rdata ∧
    (setEnc s e x).rpois = s.rpois ∧ (setEnc s e x).evMs = s.evMs ∧ (setEnc s e x).evCnt = s.evCnt ∧ (setEnc s e x).evLast = s.evLast ∧
    (setEnc s e x).trigs = s.trigs ∧ (setEnc s e x).lost = s.lost ∧ (setEnc s e x).known = s.known ∧ (setEnc s e x).lean = s.lean ∧
    (setEnc s e x).samples = s.samples ∧ (setEnc s e x).pwr = s.pwr ∧ (setEnc s e x).tmux = s.tmux ∧ (setEnc s e x).disputed =
    s.disputed ∧ (setEnc s e x).imu = s.imu ∧ (setEnc s e x).chain = s.chain ∧ (setEnc s e x).bars = s.bars ∧ (setEnc s e x).fus = s.fus
    ∧ (setEnc s e x).out = s.out ∧ (setEnc s e x).ladder = s.ladder ∧ (setEnc s e x).sec = s.sec ∧ (setEnc s e x).boot = s.boot ∧
    (setEnc s e x).jtag = s.jtag ∧ (setEnc s e x).links = s.links ∧ (setEnc s e x).rbars = s.rbars ∧ (setEnc s e x).relay = s.relay ∧
    (setEnc s e x).svc = s.svc := by
  simp only [setEnc, and_self]

@[simp] theorem setEnc_enc (s : State) (e : Nat) (x : EncSt) : (setEnc s e x).enc = tset encD s.enc e x := rfl

@[simp] theorem setImu_frame (s : State) (p : Nat) (x : ImuSt) : (setImu s p x).pending = s.pending ∧ (setImu s p x).free = s.free ∧
    (setImu s p x).regs = s.regs ∧ (setImu s p x).pendDis = s.pendDis ∧ (setImu s p x).disarmed = s.disarmed ∧ (setImu s p x).opBusy =
    s.opBusy ∧ (setImu s p x).msix = s.msix ∧ (setImu s p x).bme = s.bme ∧ (setImu s p x).msgs = s.msgs ∧ (setImu s p x).log = s.log ∧
    (setImu s p x).loopCnt = s.loopCnt ∧ (setImu s p x).ft = s.ft ∧ (setImu s p x).ftFrac = s.ftFrac ∧ (setImu s p x).disc = s.disc ∧
    (setImu s p x).ptp = s.ptp ∧ (setImu s p x).pps = s.pps ∧ (setImu s p x).srv = s.srv ∧ (setImu s p x).mp = s.mp ∧ (setImu s p
    x).ports = s.ports ∧ (setImu s p x).i3c = s.i3c ∧ (setImu s p x).wide = s.wide ∧ (setImu s p x).cairns = s.cairns ∧ (setImu s p
    x).srcs = s.srcs ∧ (setImu s p x).hops = s.hops ∧ (setImu s p x).rgn = s.rgn ∧ (setImu s p x).pins = s.pins ∧ (setImu s p x).spikeQ
    = s.spikeQ ∧ (setImu s p x).slots = s.slots ∧ (setImu s p x).awaiting = s.awaiting ∧ (setImu s p x).ncFifo = s.ncFifo ∧ (setImu s p
    x).nc = s.nc ∧ (setImu s p x).uop = s.uop ∧ (setImu s p x).mem = s.mem ∧ (setImu s p x).memUe = s.memUe ∧ (setImu s p x).memFail =
    s.memFail ∧ (setImu s p x).sram = s.sram ∧ (setImu s p x).poison = s.poison ∧ (setImu s p x).ce = s.ce ∧ (setImu s p x).scrubs =
    s.scrubs ∧ (setImu s p x).held = s.held ∧ (setImu s p x).tabs = s.tabs ∧ (setImu s p x).hostMem = s.hostMem ∧ (setImu s p x).flash =
    s.flash ∧ (setImu s p x).desc = s.desc ∧ (setImu s p x).ctxs = s.ctxs ∧ (setImu s p x).ancs = s.ancs ∧ (setImu s p x).tiles =
    s.tiles ∧ (setImu s p x).jobs = s.jobs ∧ (setImu s p x).lastJob = s.lastJob ∧ (setImu s p x).accepted = s.accepted ∧ (setImu s p
    x).binder = s.binder ∧ (setImu s p x).txq = s.txq ∧ (setImu s p x).inbox = s.inbox ∧ (setImu s p x).sent = s.sent ∧ (setImu s p
    x).txSeq = s.txSeq ∧ (setImu s p x).triggers = s.triggers ∧ (setImu s p x).ptpTx = s.ptpTx ∧ (setImu s p x).rdata = s.rdata ∧
    (setImu s p x).rpois = s.rpois ∧ (setImu s p x).evMs = s.evMs ∧ (setImu s p x).evCnt = s.evCnt ∧ (setImu s p x).evLast = s.evLast ∧
    (setImu s p x).trigs = s.trigs ∧ (setImu s p x).lost = s.lost ∧ (setImu s p x).known = s.known ∧ (setImu s p x).lean = s.lean ∧
    (setImu s p x).samples = s.samples ∧ (setImu s p x).pwr = s.pwr ∧ (setImu s p x).tmux = s.tmux ∧ (setImu s p x).disputed =
    s.disputed ∧ (setImu s p x).enc = s.enc ∧ (setImu s p x).chain = s.chain ∧ (setImu s p x).bars = s.bars ∧ (setImu s p x).fus = s.fus
    ∧ (setImu s p x).out = s.out ∧ (setImu s p x).ladder = s.ladder ∧ (setImu s p x).sec = s.sec ∧ (setImu s p x).boot = s.boot ∧
    (setImu s p x).jtag = s.jtag ∧ (setImu s p x).links = s.links ∧ (setImu s p x).rbars = s.rbars ∧ (setImu s p x).relay = s.relay ∧
    (setImu s p x).svc = s.svc := by
  simp only [setImu, and_self]

@[simp] theorem setImu_imu (s : State) (p : Nat) (x : ImuSt) : (setImu s p x).imu = tset imuD s.imu p x := rfl

@[simp] theorem setChain_frame (s : State) (c : Nat) (x : ChainSt) : (setChain s c x).pending = s.pending ∧ (setChain s c x).free =
    s.free ∧ (setChain s c x).regs = s.regs ∧ (setChain s c x).pendDis = s.pendDis ∧ (setChain s c x).disarmed = s.disarmed ∧ (setChain
    s c x).opBusy = s.opBusy ∧ (setChain s c x).msix = s.msix ∧ (setChain s c x).bme = s.bme ∧ (setChain s c x).msgs = s.msgs ∧
    (setChain s c x).log = s.log ∧ (setChain s c x).loopCnt = s.loopCnt ∧ (setChain s c x).ft = s.ft ∧ (setChain s c x).ftFrac =
    s.ftFrac ∧ (setChain s c x).disc = s.disc ∧ (setChain s c x).ptp = s.ptp ∧ (setChain s c x).pps = s.pps ∧ (setChain s c x).srv =
    s.srv ∧ (setChain s c x).mp = s.mp ∧ (setChain s c x).ports = s.ports ∧ (setChain s c x).i3c = s.i3c ∧ (setChain s c x).wide =
    s.wide ∧ (setChain s c x).cairns = s.cairns ∧ (setChain s c x).srcs = s.srcs ∧ (setChain s c x).hops = s.hops ∧ (setChain s c x).rgn
    = s.rgn ∧ (setChain s c x).pins = s.pins ∧ (setChain s c x).spikeQ = s.spikeQ ∧ (setChain s c x).slots = s.slots ∧ (setChain s c
    x).awaiting = s.awaiting ∧ (setChain s c x).ncFifo = s.ncFifo ∧ (setChain s c x).nc = s.nc ∧ (setChain s c x).uop = s.uop ∧
    (setChain s c x).mem = s.mem ∧ (setChain s c x).memUe = s.memUe ∧ (setChain s c x).memFail = s.memFail ∧ (setChain s c x).sram =
    s.sram ∧ (setChain s c x).poison = s.poison ∧ (setChain s c x).ce = s.ce ∧ (setChain s c x).scrubs = s.scrubs ∧ (setChain s c
    x).held = s.held ∧ (setChain s c x).tabs = s.tabs ∧ (setChain s c x).hostMem = s.hostMem ∧ (setChain s c x).flash = s.flash ∧
    (setChain s c x).desc = s.desc ∧ (setChain s c x).ctxs = s.ctxs ∧ (setChain s c x).ancs = s.ancs ∧ (setChain s c x).tiles = s.tiles
    ∧ (setChain s c x).jobs = s.jobs ∧ (setChain s c x).lastJob = s.lastJob ∧ (setChain s c x).accepted = s.accepted ∧ (setChain s c
    x).binder = s.binder ∧ (setChain s c x).txq = s.txq ∧ (setChain s c x).inbox = s.inbox ∧ (setChain s c x).sent = s.sent ∧ (setChain
    s c x).txSeq = s.txSeq ∧ (setChain s c x).triggers = s.triggers ∧ (setChain s c x).ptpTx = s.ptpTx ∧ (setChain s c x).rdata =
    s.rdata ∧ (setChain s c x).rpois = s.rpois ∧ (setChain s c x).evMs = s.evMs ∧ (setChain s c x).evCnt = s.evCnt ∧ (setChain s c
    x).evLast = s.evLast ∧ (setChain s c x).trigs = s.trigs ∧ (setChain s c x).lost = s.lost ∧ (setChain s c x).known = s.known ∧
    (setChain s c x).lean = s.lean ∧ (setChain s c x).samples = s.samples ∧ (setChain s c x).pwr = s.pwr ∧ (setChain s c x).tmux =
    s.tmux ∧ (setChain s c x).disputed = s.disputed ∧ (setChain s c x).enc = s.enc ∧ (setChain s c x).imu = s.imu ∧ (setChain s c
    x).bars = s.bars ∧ (setChain s c x).fus = s.fus ∧ (setChain s c x).out = s.out ∧ (setChain s c x).ladder = s.ladder ∧ (setChain s c
    x).sec = s.sec ∧ (setChain s c x).boot = s.boot ∧ (setChain s c x).jtag = s.jtag ∧ (setChain s c x).links = s.links ∧ (setChain s c
    x).rbars = s.rbars ∧ (setChain s c x).relay = s.relay ∧ (setChain s c x).svc = s.svc := by
  simp only [setChain, and_self]

@[simp] theorem setChain_chain (s : State) (c : Nat) (x : ChainSt) : (setChain s c x).chain = tset chainD s.chain c x := rfl

@[simp] theorem setMp_frame (s : State) (m : Int) : (setMp s m).pending = s.pending ∧ (setMp s m).free = s.free ∧ (setMp s m).regs =
    s.regs ∧ (setMp s m).pendDis = s.pendDis ∧ (setMp s m).disarmed = s.disarmed ∧ (setMp s m).opBusy = s.opBusy ∧ (setMp s m).msix =
    s.msix ∧ (setMp s m).bme = s.bme ∧ (setMp s m).msgs = s.msgs ∧ (setMp s m).log = s.log ∧ (setMp s m).loopCnt = s.loopCnt ∧ (setMp s
    m).ft = s.ft ∧ (setMp s m).ftFrac = s.ftFrac ∧ (setMp s m).disc = s.disc ∧ (setMp s m).ptp = s.ptp ∧ (setMp s m).pps = s.pps ∧
    (setMp s m).srv = s.srv ∧ (setMp s m).ports = s.ports ∧ (setMp s m).i3c = s.i3c ∧ (setMp s m).wide = s.wide ∧ (setMp s m).cairns =
    s.cairns ∧ (setMp s m).srcs = s.srcs ∧ (setMp s m).hops = s.hops ∧ (setMp s m).rgn = s.rgn ∧ (setMp s m).pins = s.pins ∧ (setMp s
    m).spikeQ = s.spikeQ ∧ (setMp s m).slots = s.slots ∧ (setMp s m).awaiting = s.awaiting ∧ (setMp s m).ncFifo = s.ncFifo ∧ (setMp s
    m).nc = s.nc ∧ (setMp s m).uop = s.uop ∧ (setMp s m).mem = s.mem ∧ (setMp s m).memUe = s.memUe ∧ (setMp s m).memFail = s.memFail ∧
    (setMp s m).sram = s.sram ∧ (setMp s m).poison = s.poison ∧ (setMp s m).ce = s.ce ∧ (setMp s m).scrubs = s.scrubs ∧ (setMp s m).held
    = s.held ∧ (setMp s m).tabs = s.tabs ∧ (setMp s m).hostMem = s.hostMem ∧ (setMp s m).flash = s.flash ∧ (setMp s m).desc = s.desc ∧
    (setMp s m).ctxs = s.ctxs ∧ (setMp s m).ancs = s.ancs ∧ (setMp s m).tiles = s.tiles ∧ (setMp s m).jobs = s.jobs ∧ (setMp s
    m).lastJob = s.lastJob ∧ (setMp s m).accepted = s.accepted ∧ (setMp s m).binder = s.binder ∧ (setMp s m).txq = s.txq ∧ (setMp s
    m).inbox = s.inbox ∧ (setMp s m).sent = s.sent ∧ (setMp s m).txSeq = s.txSeq ∧ (setMp s m).triggers = s.triggers ∧ (setMp s m).ptpTx
    = s.ptpTx ∧ (setMp s m).rdata = s.rdata ∧ (setMp s m).rpois = s.rpois ∧ (setMp s m).evMs = s.evMs ∧ (setMp s m).evCnt = s.evCnt ∧
    (setMp s m).evLast = s.evLast ∧ (setMp s m).trigs = s.trigs ∧ (setMp s m).lost = s.lost ∧ (setMp s m).known = s.known ∧ (setMp s
    m).lean = s.lean ∧ (setMp s m).samples = s.samples ∧ (setMp s m).pwr = s.pwr ∧ (setMp s m).tmux = s.tmux ∧ (setMp s m).disputed =
    s.disputed ∧ (setMp s m).enc = s.enc ∧ (setMp s m).imu = s.imu ∧ (setMp s m).chain = s.chain ∧ (setMp s m).bars = s.bars ∧ (setMp s
    m).fus = s.fus ∧ (setMp s m).out = s.out ∧ (setMp s m).ladder = s.ladder ∧ (setMp s m).sec = s.sec ∧ (setMp s m).boot = s.boot ∧
    (setMp s m).jtag = s.jtag ∧ (setMp s m).links = s.links ∧ (setMp s m).rbars = s.rbars ∧ (setMp s m).relay = s.relay ∧ (setMp s
    m).svc = s.svc := by
  simp only [setMp, and_self]

@[simp] theorem setBar_frame (s : State) (b : Nat) (x : BarSt) : (setBar s b x).pending = s.pending ∧ (setBar s b x).free = s.free ∧
    (setBar s b x).regs = s.regs ∧ (setBar s b x).pendDis = s.pendDis ∧ (setBar s b x).disarmed = s.disarmed ∧ (setBar s b x).opBusy =
    s.opBusy ∧ (setBar s b x).msix = s.msix ∧ (setBar s b x).bme = s.bme ∧ (setBar s b x).msgs = s.msgs ∧ (setBar s b x).log = s.log ∧
    (setBar s b x).loopCnt = s.loopCnt ∧ (setBar s b x).ft = s.ft ∧ (setBar s b x).ftFrac = s.ftFrac ∧ (setBar s b x).disc = s.disc ∧
    (setBar s b x).ptp = s.ptp ∧ (setBar s b x).pps = s.pps ∧ (setBar s b x).srv = s.srv ∧ (setBar s b x).mp = s.mp ∧ (setBar s b
    x).ports = s.ports ∧ (setBar s b x).i3c = s.i3c ∧ (setBar s b x).wide = s.wide ∧ (setBar s b x).cairns = s.cairns ∧ (setBar s b
    x).srcs = s.srcs ∧ (setBar s b x).hops = s.hops ∧ (setBar s b x).rgn = s.rgn ∧ (setBar s b x).pins = s.pins ∧ (setBar s b x).spikeQ
    = s.spikeQ ∧ (setBar s b x).slots = s.slots ∧ (setBar s b x).awaiting = s.awaiting ∧ (setBar s b x).ncFifo = s.ncFifo ∧ (setBar s b
    x).nc = s.nc ∧ (setBar s b x).uop = s.uop ∧ (setBar s b x).mem = s.mem ∧ (setBar s b x).memUe = s.memUe ∧ (setBar s b x).memFail =
    s.memFail ∧ (setBar s b x).sram = s.sram ∧ (setBar s b x).poison = s.poison ∧ (setBar s b x).ce = s.ce ∧ (setBar s b x).scrubs =
    s.scrubs ∧ (setBar s b x).held = s.held ∧ (setBar s b x).tabs = s.tabs ∧ (setBar s b x).hostMem = s.hostMem ∧ (setBar s b x).flash =
    s.flash ∧ (setBar s b x).desc = s.desc ∧ (setBar s b x).ctxs = s.ctxs ∧ (setBar s b x).ancs = s.ancs ∧ (setBar s b x).tiles =
    s.tiles ∧ (setBar s b x).jobs = s.jobs ∧ (setBar s b x).lastJob = s.lastJob ∧ (setBar s b x).accepted = s.accepted ∧ (setBar s b
    x).binder = s.binder ∧ (setBar s b x).txq = s.txq ∧ (setBar s b x).inbox = s.inbox ∧ (setBar s b x).sent = s.sent ∧ (setBar s b
    x).txSeq = s.txSeq ∧ (setBar s b x).triggers = s.triggers ∧ (setBar s b x).ptpTx = s.ptpTx ∧ (setBar s b x).rdata = s.rdata ∧
    (setBar s b x).rpois = s.rpois ∧ (setBar s b x).evMs = s.evMs ∧ (setBar s b x).evCnt = s.evCnt ∧ (setBar s b x).evLast = s.evLast ∧
    (setBar s b x).trigs = s.trigs ∧ (setBar s b x).lost = s.lost ∧ (setBar s b x).known = s.known ∧ (setBar s b x).lean = s.lean ∧
    (setBar s b x).samples = s.samples ∧ (setBar s b x).pwr = s.pwr ∧ (setBar s b x).tmux = s.tmux ∧ (setBar s b x).disputed =
    s.disputed ∧ (setBar s b x).enc = s.enc ∧ (setBar s b x).imu = s.imu ∧ (setBar s b x).chain = s.chain ∧ (setBar s b x).fus = s.fus ∧
    (setBar s b x).out = s.out ∧ (setBar s b x).ladder = s.ladder ∧ (setBar s b x).sec = s.sec ∧ (setBar s b x).boot = s.boot ∧ (setBar
    s b x).jtag = s.jtag ∧ (setBar s b x).links = s.links ∧ (setBar s b x).rbars = s.rbars ∧ (setBar s b x).relay = s.relay ∧ (setBar s
    b x).svc = s.svc := by
  simp only [setBar, and_self]

@[simp] theorem setBar_bars (s : State) (b : Nat) (x : BarSt) : (setBar s b x).bars = tset barD s.bars b x := rfl

@[simp] theorem updOut_frame (s : State) (g : OutSt → OutSt) : (updOut s g).pending = s.pending ∧ (updOut s g).free = s.free ∧ (updOut s
    g).regs = s.regs ∧ (updOut s g).pendDis = s.pendDis ∧ (updOut s g).disarmed = s.disarmed ∧ (updOut s g).opBusy = s.opBusy ∧ (updOut
    s g).msix = s.msix ∧ (updOut s g).bme = s.bme ∧ (updOut s g).msgs = s.msgs ∧ (updOut s g).log = s.log ∧ (updOut s g).loopCnt =
    s.loopCnt ∧ (updOut s g).ft = s.ft ∧ (updOut s g).ftFrac = s.ftFrac ∧ (updOut s g).disc = s.disc ∧ (updOut s g).ptp = s.ptp ∧
    (updOut s g).pps = s.pps ∧ (updOut s g).srv = s.srv ∧ (updOut s g).mp = s.mp ∧ (updOut s g).ports = s.ports ∧ (updOut s g).i3c =
    s.i3c ∧ (updOut s g).wide = s.wide ∧ (updOut s g).cairns = s.cairns ∧ (updOut s g).srcs = s.srcs ∧ (updOut s g).hops = s.hops ∧
    (updOut s g).rgn = s.rgn ∧ (updOut s g).pins = s.pins ∧ (updOut s g).spikeQ = s.spikeQ ∧ (updOut s g).slots = s.slots ∧ (updOut s
    g).awaiting = s.awaiting ∧ (updOut s g).ncFifo = s.ncFifo ∧ (updOut s g).nc = s.nc ∧ (updOut s g).uop = s.uop ∧ (updOut s g).mem =
    s.mem ∧ (updOut s g).memUe = s.memUe ∧ (updOut s g).memFail = s.memFail ∧ (updOut s g).sram = s.sram ∧ (updOut s g).poison =
    s.poison ∧ (updOut s g).ce = s.ce ∧ (updOut s g).scrubs = s.scrubs ∧ (updOut s g).held = s.held ∧ (updOut s g).tabs = s.tabs ∧
    (updOut s g).hostMem = s.hostMem ∧ (updOut s g).flash = s.flash ∧ (updOut s g).desc = s.desc ∧ (updOut s g).ctxs = s.ctxs ∧ (updOut
    s g).ancs = s.ancs ∧ (updOut s g).tiles = s.tiles ∧ (updOut s g).jobs = s.jobs ∧ (updOut s g).lastJob = s.lastJob ∧ (updOut s
    g).accepted = s.accepted ∧ (updOut s g).binder = s.binder ∧ (updOut s g).txq = s.txq ∧ (updOut s g).inbox = s.inbox ∧ (updOut s
    g).sent = s.sent ∧ (updOut s g).txSeq = s.txSeq ∧ (updOut s g).triggers = s.triggers ∧ (updOut s g).ptpTx = s.ptpTx ∧ (updOut s
    g).rdata = s.rdata ∧ (updOut s g).rpois = s.rpois ∧ (updOut s g).evMs = s.evMs ∧ (updOut s g).evCnt = s.evCnt ∧ (updOut s g).evLast
    = s.evLast ∧ (updOut s g).trigs = s.trigs ∧ (updOut s g).lost = s.lost ∧ (updOut s g).known = s.known ∧ (updOut s g).lean = s.lean ∧
    (updOut s g).samples = s.samples ∧ (updOut s g).pwr = s.pwr ∧ (updOut s g).tmux = s.tmux ∧ (updOut s g).disputed = s.disputed ∧
    (updOut s g).enc = s.enc ∧ (updOut s g).imu = s.imu ∧ (updOut s g).chain = s.chain ∧ (updOut s g).bars = s.bars ∧ (updOut s g).fus =
    s.fus ∧ (updOut s g).ladder = s.ladder ∧ (updOut s g).sec = s.sec ∧ (updOut s g).boot = s.boot ∧ (updOut s g).jtag = s.jtag ∧
    (updOut s g).links = s.links ∧ (updOut s g).rbars = s.rbars ∧ (updOut s g).relay = s.relay ∧ (updOut s g).svc = s.svc := by
  simp only [updOut, and_self]

@[simp] theorem updOut_out (s : State) (g : OutSt → OutSt) : (updOut s g).out = g s.out := rfl

@[simp] theorem setFanQ_frame (s : State) (c : Nat) (q : List FabWord) : (setFanQ s c q).pending = s.pending ∧ (setFanQ s c q).free =
    s.free ∧ (setFanQ s c q).regs = s.regs ∧ (setFanQ s c q).pendDis = s.pendDis ∧ (setFanQ s c q).disarmed = s.disarmed ∧ (setFanQ s c
    q).opBusy = s.opBusy ∧ (setFanQ s c q).msix = s.msix ∧ (setFanQ s c q).bme = s.bme ∧ (setFanQ s c q).msgs = s.msgs ∧ (setFanQ s c
    q).log = s.log ∧ (setFanQ s c q).loopCnt = s.loopCnt ∧ (setFanQ s c q).ft = s.ft ∧ (setFanQ s c q).ftFrac = s.ftFrac ∧ (setFanQ s c
    q).disc = s.disc ∧ (setFanQ s c q).ptp = s.ptp ∧ (setFanQ s c q).pps = s.pps ∧ (setFanQ s c q).srv = s.srv ∧ (setFanQ s c q).mp =
    s.mp ∧ (setFanQ s c q).ports = s.ports ∧ (setFanQ s c q).i3c = s.i3c ∧ (setFanQ s c q).wide = s.wide ∧ (setFanQ s c q).cairns =
    s.cairns ∧ (setFanQ s c q).srcs = s.srcs ∧ (setFanQ s c q).hops = s.hops ∧ (setFanQ s c q).rgn = s.rgn ∧ (setFanQ s c q).pins =
    s.pins ∧ (setFanQ s c q).slots = s.slots ∧ (setFanQ s c q).awaiting = s.awaiting ∧ (setFanQ s c q).ncFifo = s.ncFifo ∧ (setFanQ s c
    q).nc = s.nc ∧ (setFanQ s c q).uop = s.uop ∧ (setFanQ s c q).mem = s.mem ∧ (setFanQ s c q).memUe = s.memUe ∧ (setFanQ s c q).memFail
    = s.memFail ∧ (setFanQ s c q).sram = s.sram ∧ (setFanQ s c q).poison = s.poison ∧ (setFanQ s c q).ce = s.ce ∧ (setFanQ s c q).scrubs
    = s.scrubs ∧ (setFanQ s c q).held = s.held ∧ (setFanQ s c q).tabs = s.tabs ∧ (setFanQ s c q).hostMem = s.hostMem ∧ (setFanQ s c
    q).flash = s.flash ∧ (setFanQ s c q).desc = s.desc ∧ (setFanQ s c q).ctxs = s.ctxs ∧ (setFanQ s c q).ancs = s.ancs ∧ (setFanQ s c
    q).tiles = s.tiles ∧ (setFanQ s c q).jobs = s.jobs ∧ (setFanQ s c q).lastJob = s.lastJob ∧ (setFanQ s c q).accepted = s.accepted ∧
    (setFanQ s c q).binder = s.binder ∧ (setFanQ s c q).txq = s.txq ∧ (setFanQ s c q).inbox = s.inbox ∧ (setFanQ s c q).sent = s.sent ∧
    (setFanQ s c q).txSeq = s.txSeq ∧ (setFanQ s c q).triggers = s.triggers ∧ (setFanQ s c q).ptpTx = s.ptpTx ∧ (setFanQ s c q).rdata =
    s.rdata ∧ (setFanQ s c q).rpois = s.rpois ∧ (setFanQ s c q).evMs = s.evMs ∧ (setFanQ s c q).evCnt = s.evCnt ∧ (setFanQ s c q).evLast
    = s.evLast ∧ (setFanQ s c q).trigs = s.trigs ∧ (setFanQ s c q).lost = s.lost ∧ (setFanQ s c q).known = s.known ∧ (setFanQ s c
    q).lean = s.lean ∧ (setFanQ s c q).samples = s.samples ∧ (setFanQ s c q).pwr = s.pwr ∧ (setFanQ s c q).tmux = s.tmux ∧ (setFanQ s c
    q).disputed = s.disputed ∧ (setFanQ s c q).enc = s.enc ∧ (setFanQ s c q).imu = s.imu ∧ (setFanQ s c q).chain = s.chain ∧ (setFanQ s
    c q).bars = s.bars ∧ (setFanQ s c q).fus = s.fus ∧ (setFanQ s c q).out = s.out ∧ (setFanQ s c q).ladder = s.ladder ∧ (setFanQ s c
    q).sec = s.sec ∧ (setFanQ s c q).boot = s.boot ∧ (setFanQ s c q).jtag = s.jtag ∧ (setFanQ s c q).links = s.links ∧ (setFanQ s c
    q).rbars = s.rbars ∧ (setFanQ s c q).relay = s.relay ∧ (setFanQ s c q).svc = s.svc := by
  simp only [setFanQ, and_self]

@[simp] theorem setFanQ_spikeQ (s : State) (c : Nat) (q : List FabWord) : (setFanQ s c q).spikeQ = tset fabQD s.spikeQ c q := rfl

@[simp] theorem updLad_frame (s : State) (f : LadSt → LadSt) : (updLad s f).pending = s.pending ∧ (updLad s f).free = s.free ∧ (updLad s
    f).regs = s.regs ∧ (updLad s f).pendDis = s.pendDis ∧ (updLad s f).disarmed = s.disarmed ∧ (updLad s f).opBusy = s.opBusy ∧ (updLad
    s f).msix = s.msix ∧ (updLad s f).bme = s.bme ∧ (updLad s f).msgs = s.msgs ∧ (updLad s f).log = s.log ∧ (updLad s f).loopCnt =
    s.loopCnt ∧ (updLad s f).ft = s.ft ∧ (updLad s f).ftFrac = s.ftFrac ∧ (updLad s f).disc = s.disc ∧ (updLad s f).ptp = s.ptp ∧
    (updLad s f).pps = s.pps ∧ (updLad s f).srv = s.srv ∧ (updLad s f).mp = s.mp ∧ (updLad s f).ports = s.ports ∧ (updLad s f).i3c =
    s.i3c ∧ (updLad s f).wide = s.wide ∧ (updLad s f).cairns = s.cairns ∧ (updLad s f).srcs = s.srcs ∧ (updLad s f).hops = s.hops ∧
    (updLad s f).rgn = s.rgn ∧ (updLad s f).pins = s.pins ∧ (updLad s f).spikeQ = s.spikeQ ∧ (updLad s f).slots = s.slots ∧ (updLad s
    f).awaiting = s.awaiting ∧ (updLad s f).ncFifo = s.ncFifo ∧ (updLad s f).nc = s.nc ∧ (updLad s f).uop = s.uop ∧ (updLad s f).mem =
    s.mem ∧ (updLad s f).memUe = s.memUe ∧ (updLad s f).memFail = s.memFail ∧ (updLad s f).sram = s.sram ∧ (updLad s f).poison =
    s.poison ∧ (updLad s f).ce = s.ce ∧ (updLad s f).scrubs = s.scrubs ∧ (updLad s f).held = s.held ∧ (updLad s f).tabs = s.tabs ∧
    (updLad s f).hostMem = s.hostMem ∧ (updLad s f).flash = s.flash ∧ (updLad s f).desc = s.desc ∧ (updLad s f).ctxs = s.ctxs ∧ (updLad
    s f).ancs = s.ancs ∧ (updLad s f).tiles = s.tiles ∧ (updLad s f).jobs = s.jobs ∧ (updLad s f).lastJob = s.lastJob ∧ (updLad s
    f).accepted = s.accepted ∧ (updLad s f).binder = s.binder ∧ (updLad s f).txq = s.txq ∧ (updLad s f).inbox = s.inbox ∧ (updLad s
    f).sent = s.sent ∧ (updLad s f).txSeq = s.txSeq ∧ (updLad s f).triggers = s.triggers ∧ (updLad s f).ptpTx = s.ptpTx ∧ (updLad s
    f).rdata = s.rdata ∧ (updLad s f).rpois = s.rpois ∧ (updLad s f).evMs = s.evMs ∧ (updLad s f).evCnt = s.evCnt ∧ (updLad s f).evLast
    = s.evLast ∧ (updLad s f).trigs = s.trigs ∧ (updLad s f).lost = s.lost ∧ (updLad s f).known = s.known ∧ (updLad s f).lean = s.lean ∧
    (updLad s f).samples = s.samples ∧ (updLad s f).pwr = s.pwr ∧ (updLad s f).tmux = s.tmux ∧ (updLad s f).disputed = s.disputed ∧
    (updLad s f).enc = s.enc ∧ (updLad s f).imu = s.imu ∧ (updLad s f).chain = s.chain ∧ (updLad s f).bars = s.bars ∧ (updLad s f).fus =
    s.fus ∧ (updLad s f).out = s.out ∧ (updLad s f).sec = s.sec ∧ (updLad s f).boot = s.boot ∧ (updLad s f).jtag = s.jtag ∧ (updLad s
    f).links = s.links ∧ (updLad s f).rbars = s.rbars ∧ (updLad s f).relay = s.relay ∧ (updLad s f).svc = s.svc := by
  simp only [updLad, and_self]

@[simp] theorem updLad_ladder (s : State) (f : LadSt → LadSt) : (updLad s f).ladder = f s.ladder := rfl

@[simp] theorem healthErr_frame (s : State) : (healthErr s).pending = s.pending ∧ (healthErr s).free = s.free ∧ (healthErr s).regs =
    s.regs ∧ (healthErr s).pendDis = s.pendDis ∧ (healthErr s).disarmed = s.disarmed ∧ (healthErr s).opBusy = s.opBusy ∧ (healthErr
    s).msix = s.msix ∧ (healthErr s).bme = s.bme ∧ (healthErr s).msgs = s.msgs ∧ (healthErr s).log = s.log ∧ (healthErr s).loopCnt =
    s.loopCnt ∧ (healthErr s).ft = s.ft ∧ (healthErr s).ftFrac = s.ftFrac ∧ (healthErr s).disc = s.disc ∧ (healthErr s).ptp = s.ptp ∧
    (healthErr s).pps = s.pps ∧ (healthErr s).srv = s.srv ∧ (healthErr s).mp = s.mp ∧ (healthErr s).ports = s.ports ∧ (healthErr s).i3c
    = s.i3c ∧ (healthErr s).wide = s.wide ∧ (healthErr s).cairns = s.cairns ∧ (healthErr s).srcs = s.srcs ∧ (healthErr s).hops = s.hops
    ∧ (healthErr s).rgn = s.rgn ∧ (healthErr s).pins = s.pins ∧ (healthErr s).spikeQ = s.spikeQ ∧ (healthErr s).slots = s.slots ∧
    (healthErr s).awaiting = s.awaiting ∧ (healthErr s).ncFifo = s.ncFifo ∧ (healthErr s).nc = s.nc ∧ (healthErr s).uop = s.uop ∧
    (healthErr s).mem = s.mem ∧ (healthErr s).memUe = s.memUe ∧ (healthErr s).memFail = s.memFail ∧ (healthErr s).sram = s.sram ∧
    (healthErr s).poison = s.poison ∧ (healthErr s).ce = s.ce ∧ (healthErr s).scrubs = s.scrubs ∧ (healthErr s).held = s.held ∧
    (healthErr s).tabs = s.tabs ∧ (healthErr s).hostMem = s.hostMem ∧ (healthErr s).flash = s.flash ∧ (healthErr s).desc = s.desc ∧
    (healthErr s).ctxs = s.ctxs ∧ (healthErr s).ancs = s.ancs ∧ (healthErr s).tiles = s.tiles ∧ (healthErr s).jobs = s.jobs ∧ (healthErr
    s).lastJob = s.lastJob ∧ (healthErr s).accepted = s.accepted ∧ (healthErr s).binder = s.binder ∧ (healthErr s).txq = s.txq ∧
    (healthErr s).inbox = s.inbox ∧ (healthErr s).sent = s.sent ∧ (healthErr s).txSeq = s.txSeq ∧ (healthErr s).triggers = s.triggers ∧
    (healthErr s).ptpTx = s.ptpTx ∧ (healthErr s).rdata = s.rdata ∧ (healthErr s).rpois = s.rpois ∧ (healthErr s).evMs = s.evMs ∧
    (healthErr s).evCnt = s.evCnt ∧ (healthErr s).evLast = s.evLast ∧ (healthErr s).trigs = s.trigs ∧ (healthErr s).lost = s.lost ∧
    (healthErr s).known = s.known ∧ (healthErr s).lean = s.lean ∧ (healthErr s).samples = s.samples ∧ (healthErr s).pwr = s.pwr ∧
    (healthErr s).tmux = s.tmux ∧ (healthErr s).disputed = s.disputed ∧ (healthErr s).enc = s.enc ∧ (healthErr s).imu = s.imu ∧
    (healthErr s).chain = s.chain ∧ (healthErr s).bars = s.bars ∧ (healthErr s).fus = s.fus ∧ (healthErr s).out = s.out ∧ (healthErr
    s).ladder = s.ladder ∧ (healthErr s).sec = s.sec ∧ (healthErr s).jtag = s.jtag ∧ (healthErr s).links = s.links ∧ (healthErr s).rbars
    = s.rbars ∧ (healthErr s).relay = s.relay ∧ (healthErr s).svc = s.svc := by
  simp only [healthErr, and_self]

@[simp] theorem updLnk_frame (s : State) (p : Nat) (f : LinkSt → LinkSt) : (updLnk s p f).pending = s.pending ∧ (updLnk s p f).free =
    s.free ∧ (updLnk s p f).regs = s.regs ∧ (updLnk s p f).pendDis = s.pendDis ∧ (updLnk s p f).disarmed = s.disarmed ∧ (updLnk s p
    f).opBusy = s.opBusy ∧ (updLnk s p f).msix = s.msix ∧ (updLnk s p f).bme = s.bme ∧ (updLnk s p f).msgs = s.msgs ∧ (updLnk s p f).log
    = s.log ∧ (updLnk s p f).loopCnt = s.loopCnt ∧ (updLnk s p f).ft = s.ft ∧ (updLnk s p f).ftFrac = s.ftFrac ∧ (updLnk s p f).disc =
    s.disc ∧ (updLnk s p f).ptp = s.ptp ∧ (updLnk s p f).pps = s.pps ∧ (updLnk s p f).srv = s.srv ∧ (updLnk s p f).mp = s.mp ∧ (updLnk s
    p f).ports = s.ports ∧ (updLnk s p f).i3c = s.i3c ∧ (updLnk s p f).wide = s.wide ∧ (updLnk s p f).cairns = s.cairns ∧ (updLnk s p
    f).srcs = s.srcs ∧ (updLnk s p f).hops = s.hops ∧ (updLnk s p f).rgn = s.rgn ∧ (updLnk s p f).pins = s.pins ∧ (updLnk s p f).spikeQ
    = s.spikeQ ∧ (updLnk s p f).slots = s.slots ∧ (updLnk s p f).awaiting = s.awaiting ∧ (updLnk s p f).ncFifo = s.ncFifo ∧ (updLnk s p
    f).nc = s.nc ∧ (updLnk s p f).uop = s.uop ∧ (updLnk s p f).mem = s.mem ∧ (updLnk s p f).memUe = s.memUe ∧ (updLnk s p f).memFail =
    s.memFail ∧ (updLnk s p f).sram = s.sram ∧ (updLnk s p f).poison = s.poison ∧ (updLnk s p f).ce = s.ce ∧ (updLnk s p f).scrubs =
    s.scrubs ∧ (updLnk s p f).held = s.held ∧ (updLnk s p f).tabs = s.tabs ∧ (updLnk s p f).hostMem = s.hostMem ∧ (updLnk s p f).flash =
    s.flash ∧ (updLnk s p f).desc = s.desc ∧ (updLnk s p f).ctxs = s.ctxs ∧ (updLnk s p f).ancs = s.ancs ∧ (updLnk s p f).tiles =
    s.tiles ∧ (updLnk s p f).jobs = s.jobs ∧ (updLnk s p f).lastJob = s.lastJob ∧ (updLnk s p f).accepted = s.accepted ∧ (updLnk s p
    f).binder = s.binder ∧ (updLnk s p f).txq = s.txq ∧ (updLnk s p f).inbox = s.inbox ∧ (updLnk s p f).sent = s.sent ∧ (updLnk s p
    f).txSeq = s.txSeq ∧ (updLnk s p f).triggers = s.triggers ∧ (updLnk s p f).ptpTx = s.ptpTx ∧ (updLnk s p f).rdata = s.rdata ∧
    (updLnk s p f).rpois = s.rpois ∧ (updLnk s p f).evMs = s.evMs ∧ (updLnk s p f).evCnt = s.evCnt ∧ (updLnk s p f).evLast = s.evLast ∧
    (updLnk s p f).trigs = s.trigs ∧ (updLnk s p f).lost = s.lost ∧ (updLnk s p f).known = s.known ∧ (updLnk s p f).lean = s.lean ∧
    (updLnk s p f).samples = s.samples ∧ (updLnk s p f).pwr = s.pwr ∧ (updLnk s p f).tmux = s.tmux ∧ (updLnk s p f).disputed =
    s.disputed ∧ (updLnk s p f).enc = s.enc ∧ (updLnk s p f).imu = s.imu ∧ (updLnk s p f).chain = s.chain ∧ (updLnk s p f).bars = s.bars
    ∧ (updLnk s p f).fus = s.fus ∧ (updLnk s p f).out = s.out ∧ (updLnk s p f).ladder = s.ladder ∧ (updLnk s p f).sec = s.sec ∧ (updLnk
    s p f).boot = s.boot ∧ (updLnk s p f).jtag = s.jtag ∧ (updLnk s p f).rbars = s.rbars ∧ (updLnk s p f).relay = s.relay ∧ (updLnk s p
    f).svc = s.svc := by
  simp only [updLnk, and_self]

@[simp] theorem updLnk_links (s : State) (p : Nat) (f : LinkSt → LinkSt) : (updLnk s p f).links = tset lnkD s.links p (f (lnk s p)) := rfl

@[simp] theorem updRbar_frame (s : State) (b : Nat) (f : RbarSt → RbarSt) : (updRbar s b f).pending = s.pending ∧ (updRbar s b f).free =
    s.free ∧ (updRbar s b f).regs = s.regs ∧ (updRbar s b f).pendDis = s.pendDis ∧ (updRbar s b f).disarmed = s.disarmed ∧ (updRbar s b
    f).opBusy = s.opBusy ∧ (updRbar s b f).msix = s.msix ∧ (updRbar s b f).bme = s.bme ∧ (updRbar s b f).msgs = s.msgs ∧ (updRbar s b
    f).log = s.log ∧ (updRbar s b f).loopCnt = s.loopCnt ∧ (updRbar s b f).ft = s.ft ∧ (updRbar s b f).ftFrac = s.ftFrac ∧ (updRbar s b
    f).disc = s.disc ∧ (updRbar s b f).ptp = s.ptp ∧ (updRbar s b f).pps = s.pps ∧ (updRbar s b f).srv = s.srv ∧ (updRbar s b f).mp =
    s.mp ∧ (updRbar s b f).ports = s.ports ∧ (updRbar s b f).i3c = s.i3c ∧ (updRbar s b f).wide = s.wide ∧ (updRbar s b f).cairns =
    s.cairns ∧ (updRbar s b f).srcs = s.srcs ∧ (updRbar s b f).hops = s.hops ∧ (updRbar s b f).rgn = s.rgn ∧ (updRbar s b f).pins =
    s.pins ∧ (updRbar s b f).spikeQ = s.spikeQ ∧ (updRbar s b f).slots = s.slots ∧ (updRbar s b f).awaiting = s.awaiting ∧ (updRbar s b
    f).ncFifo = s.ncFifo ∧ (updRbar s b f).nc = s.nc ∧ (updRbar s b f).uop = s.uop ∧ (updRbar s b f).mem = s.mem ∧ (updRbar s b f).memUe
    = s.memUe ∧ (updRbar s b f).memFail = s.memFail ∧ (updRbar s b f).sram = s.sram ∧ (updRbar s b f).poison = s.poison ∧ (updRbar s b
    f).ce = s.ce ∧ (updRbar s b f).scrubs = s.scrubs ∧ (updRbar s b f).held = s.held ∧ (updRbar s b f).tabs = s.tabs ∧ (updRbar s b
    f).hostMem = s.hostMem ∧ (updRbar s b f).flash = s.flash ∧ (updRbar s b f).desc = s.desc ∧ (updRbar s b f).ctxs = s.ctxs ∧ (updRbar
    s b f).ancs = s.ancs ∧ (updRbar s b f).tiles = s.tiles ∧ (updRbar s b f).jobs = s.jobs ∧ (updRbar s b f).lastJob = s.lastJob ∧
    (updRbar s b f).accepted = s.accepted ∧ (updRbar s b f).binder = s.binder ∧ (updRbar s b f).txq = s.txq ∧ (updRbar s b f).inbox =
    s.inbox ∧ (updRbar s b f).sent = s.sent ∧ (updRbar s b f).txSeq = s.txSeq ∧ (updRbar s b f).triggers = s.triggers ∧ (updRbar s b
    f).ptpTx = s.ptpTx ∧ (updRbar s b f).rdata = s.rdata ∧ (updRbar s b f).rpois = s.rpois ∧ (updRbar s b f).evMs = s.evMs ∧ (updRbar s
    b f).evCnt = s.evCnt ∧ (updRbar s b f).evLast = s.evLast ∧ (updRbar s b f).trigs = s.trigs ∧ (updRbar s b f).lost = s.lost ∧
    (updRbar s b f).known = s.known ∧ (updRbar s b f).lean = s.lean ∧ (updRbar s b f).samples = s.samples ∧ (updRbar s b f).pwr = s.pwr
    ∧ (updRbar s b f).tmux = s.tmux ∧ (updRbar s b f).disputed = s.disputed ∧ (updRbar s b f).enc = s.enc ∧ (updRbar s b f).imu = s.imu
    ∧ (updRbar s b f).chain = s.chain ∧ (updRbar s b f).bars = s.bars ∧ (updRbar s b f).fus = s.fus ∧ (updRbar s b f).out = s.out ∧
    (updRbar s b f).ladder = s.ladder ∧ (updRbar s b f).sec = s.sec ∧ (updRbar s b f).boot = s.boot ∧ (updRbar s b f).jtag = s.jtag ∧
    (updRbar s b f).links = s.links ∧ (updRbar s b f).relay = s.relay ∧ (updRbar s b f).svc = s.svc := by
  simp only [updRbar, and_self]

@[simp] theorem updRbar_rbars (s : State) (b : Nat) (f : RbarSt → RbarSt) : (updRbar s b f).rbars = tset rbarD s.rbars b (f (rbarOf s b))
    := rfl

@[simp] theorem rbarStart_frame (s : State) (b : Nat) : (rbarStart s b).pending = s.pending ∧ (rbarStart s b).free = s.free ∧ (rbarStart
    s b).regs = s.regs ∧ (rbarStart s b).pendDis = s.pendDis ∧ (rbarStart s b).disarmed = s.disarmed ∧ (rbarStart s b).opBusy = s.opBusy
    ∧ (rbarStart s b).msix = s.msix ∧ (rbarStart s b).bme = s.bme ∧ (rbarStart s b).msgs = s.msgs ∧ (rbarStart s b).log = s.log ∧
    (rbarStart s b).loopCnt = s.loopCnt ∧ (rbarStart s b).ft = s.ft ∧ (rbarStart s b).ftFrac = s.ftFrac ∧ (rbarStart s b).disc = s.disc
    ∧ (rbarStart s b).ptp = s.ptp ∧ (rbarStart s b).pps = s.pps ∧ (rbarStart s b).srv = s.srv ∧ (rbarStart s b).mp = s.mp ∧ (rbarStart s
    b).ports = s.ports ∧ (rbarStart s b).i3c = s.i3c ∧ (rbarStart s b).wide = s.wide ∧ (rbarStart s b).cairns = s.cairns ∧ (rbarStart s
    b).srcs = s.srcs ∧ (rbarStart s b).hops = s.hops ∧ (rbarStart s b).rgn = s.rgn ∧ (rbarStart s b).pins = s.pins ∧ (rbarStart s
    b).spikeQ = s.spikeQ ∧ (rbarStart s b).slots = s.slots ∧ (rbarStart s b).awaiting = s.awaiting ∧ (rbarStart s b).ncFifo = s.ncFifo ∧
    (rbarStart s b).nc = s.nc ∧ (rbarStart s b).uop = s.uop ∧ (rbarStart s b).mem = s.mem ∧ (rbarStart s b).memUe = s.memUe ∧ (rbarStart
    s b).memFail = s.memFail ∧ (rbarStart s b).sram = s.sram ∧ (rbarStart s b).poison = s.poison ∧ (rbarStart s b).ce = s.ce ∧
    (rbarStart s b).scrubs = s.scrubs ∧ (rbarStart s b).held = s.held ∧ (rbarStart s b).tabs = s.tabs ∧ (rbarStart s b).hostMem =
    s.hostMem ∧ (rbarStart s b).flash = s.flash ∧ (rbarStart s b).desc = s.desc ∧ (rbarStart s b).ctxs = s.ctxs ∧ (rbarStart s b).ancs =
    s.ancs ∧ (rbarStart s b).tiles = s.tiles ∧ (rbarStart s b).jobs = s.jobs ∧ (rbarStart s b).lastJob = s.lastJob ∧ (rbarStart s
    b).accepted = s.accepted ∧ (rbarStart s b).binder = s.binder ∧ (rbarStart s b).txq = s.txq ∧ (rbarStart s b).inbox = s.inbox ∧
    (rbarStart s b).sent = s.sent ∧ (rbarStart s b).txSeq = s.txSeq ∧ (rbarStart s b).triggers = s.triggers ∧ (rbarStart s b).ptpTx =
    s.ptpTx ∧ (rbarStart s b).rdata = s.rdata ∧ (rbarStart s b).rpois = s.rpois ∧ (rbarStart s b).evMs = s.evMs ∧ (rbarStart s b).evCnt
    = s.evCnt ∧ (rbarStart s b).evLast = s.evLast ∧ (rbarStart s b).trigs = s.trigs ∧ (rbarStart s b).lost = s.lost ∧ (rbarStart s
    b).known = s.known ∧ (rbarStart s b).lean = s.lean ∧ (rbarStart s b).samples = s.samples ∧ (rbarStart s b).pwr = s.pwr ∧ (rbarStart
    s b).tmux = s.tmux ∧ (rbarStart s b).disputed = s.disputed ∧ (rbarStart s b).enc = s.enc ∧ (rbarStart s b).imu = s.imu ∧ (rbarStart
    s b).chain = s.chain ∧ (rbarStart s b).bars = s.bars ∧ (rbarStart s b).fus = s.fus ∧ (rbarStart s b).out = s.out ∧ (rbarStart s
    b).ladder = s.ladder ∧ (rbarStart s b).sec = s.sec ∧ (rbarStart s b).boot = s.boot ∧ (rbarStart s b).jtag = s.jtag ∧ (rbarStart s
    b).links = s.links ∧ (rbarStart s b).relay = s.relay ∧ (rbarStart s b).svc = s.svc := by
  simp only [rbarStart, and_self]

@[simp] theorem addRetry_frame (s : State) (x : StoreKind) : (addRetry s x).pending = s.pending ∧ (addRetry s x).free = s.free ∧
    (addRetry s x).regs = s.regs ∧ (addRetry s x).pendDis = s.pendDis ∧ (addRetry s x).disarmed = s.disarmed ∧ (addRetry s x).opBusy =
    s.opBusy ∧ (addRetry s x).msix = s.msix ∧ (addRetry s x).bme = s.bme ∧ (addRetry s x).msgs = s.msgs ∧ (addRetry s x).log = s.log ∧
    (addRetry s x).loopCnt = s.loopCnt ∧ (addRetry s x).ft = s.ft ∧ (addRetry s x).ftFrac = s.ftFrac ∧ (addRetry s x).disc = s.disc ∧
    (addRetry s x).ptp = s.ptp ∧ (addRetry s x).pps = s.pps ∧ (addRetry s x).srv = s.srv ∧ (addRetry s x).mp = s.mp ∧ (addRetry s
    x).ports = s.ports ∧ (addRetry s x).i3c = s.i3c ∧ (addRetry s x).wide = s.wide ∧ (addRetry s x).cairns = s.cairns ∧ (addRetry s
    x).srcs = s.srcs ∧ (addRetry s x).hops = s.hops ∧ (addRetry s x).rgn = s.rgn ∧ (addRetry s x).pins = s.pins ∧ (addRetry s x).spikeQ
    = s.spikeQ ∧ (addRetry s x).slots = s.slots ∧ (addRetry s x).awaiting = s.awaiting ∧ (addRetry s x).ncFifo = s.ncFifo ∧ (addRetry s
    x).nc = s.nc ∧ (addRetry s x).uop = s.uop ∧ (addRetry s x).mem = s.mem ∧ (addRetry s x).memUe = s.memUe ∧ (addRetry s x).memFail =
    s.memFail ∧ (addRetry s x).sram = s.sram ∧ (addRetry s x).poison = s.poison ∧ (addRetry s x).ce = s.ce ∧ (addRetry s x).scrubs =
    s.scrubs ∧ (addRetry s x).held = s.held ∧ (addRetry s x).tabs = s.tabs ∧ (addRetry s x).hostMem = s.hostMem ∧ (addRetry s x).flash =
    s.flash ∧ (addRetry s x).desc = s.desc ∧ (addRetry s x).ctxs = s.ctxs ∧ (addRetry s x).ancs = s.ancs ∧ (addRetry s x).tiles =
    s.tiles ∧ (addRetry s x).jobs = s.jobs ∧ (addRetry s x).lastJob = s.lastJob ∧ (addRetry s x).accepted = s.accepted ∧ (addRetry s
    x).binder = s.binder ∧ (addRetry s x).txq = s.txq ∧ (addRetry s x).inbox = s.inbox ∧ (addRetry s x).sent = s.sent ∧ (addRetry s
    x).txSeq = s.txSeq ∧ (addRetry s x).triggers = s.triggers ∧ (addRetry s x).ptpTx = s.ptpTx ∧ (addRetry s x).rdata = s.rdata ∧
    (addRetry s x).rpois = s.rpois ∧ (addRetry s x).evMs = s.evMs ∧ (addRetry s x).evCnt = s.evCnt ∧ (addRetry s x).evLast = s.evLast ∧
    (addRetry s x).trigs = s.trigs ∧ (addRetry s x).lost = s.lost ∧ (addRetry s x).known = s.known ∧ (addRetry s x).lean = s.lean ∧
    (addRetry s x).samples = s.samples ∧ (addRetry s x).pwr = s.pwr ∧ (addRetry s x).tmux = s.tmux ∧ (addRetry s x).disputed =
    s.disputed ∧ (addRetry s x).enc = s.enc ∧ (addRetry s x).imu = s.imu ∧ (addRetry s x).chain = s.chain ∧ (addRetry s x).bars = s.bars
    ∧ (addRetry s x).fus = s.fus ∧ (addRetry s x).out = s.out ∧ (addRetry s x).ladder = s.ladder ∧ (addRetry s x).sec = s.sec ∧
    (addRetry s x).jtag = s.jtag ∧ (addRetry s x).links = s.links ∧ (addRetry s x).rbars = s.rbars ∧ (addRetry s x).relay = s.relay ∧
    (addRetry s x).svc = s.svc := by
  simp only [addRetry, and_self]

@[simp] theorem updBoot_frame (s : State) (f : BootSt → BootSt) : (updBoot s f).pending = s.pending ∧ (updBoot s f).free = s.free ∧
    (updBoot s f).regs = s.regs ∧ (updBoot s f).pendDis = s.pendDis ∧ (updBoot s f).disarmed = s.disarmed ∧ (updBoot s f).opBusy =
    s.opBusy ∧ (updBoot s f).msix = s.msix ∧ (updBoot s f).bme = s.bme ∧ (updBoot s f).msgs = s.msgs ∧ (updBoot s f).log = s.log ∧
    (updBoot s f).loopCnt = s.loopCnt ∧ (updBoot s f).ft = s.ft ∧ (updBoot s f).ftFrac = s.ftFrac ∧ (updBoot s f).disc = s.disc ∧
    (updBoot s f).ptp = s.ptp ∧ (updBoot s f).pps = s.pps ∧ (updBoot s f).srv = s.srv ∧ (updBoot s f).mp = s.mp ∧ (updBoot s f).ports =
    s.ports ∧ (updBoot s f).i3c = s.i3c ∧ (updBoot s f).wide = s.wide ∧ (updBoot s f).cairns = s.cairns ∧ (updBoot s f).srcs = s.srcs ∧
    (updBoot s f).hops = s.hops ∧ (updBoot s f).rgn = s.rgn ∧ (updBoot s f).pins = s.pins ∧ (updBoot s f).spikeQ = s.spikeQ ∧ (updBoot s
    f).slots = s.slots ∧ (updBoot s f).awaiting = s.awaiting ∧ (updBoot s f).ncFifo = s.ncFifo ∧ (updBoot s f).nc = s.nc ∧ (updBoot s
    f).uop = s.uop ∧ (updBoot s f).mem = s.mem ∧ (updBoot s f).memUe = s.memUe ∧ (updBoot s f).memFail = s.memFail ∧ (updBoot s f).sram
    = s.sram ∧ (updBoot s f).poison = s.poison ∧ (updBoot s f).ce = s.ce ∧ (updBoot s f).scrubs = s.scrubs ∧ (updBoot s f).held = s.held
    ∧ (updBoot s f).tabs = s.tabs ∧ (updBoot s f).hostMem = s.hostMem ∧ (updBoot s f).flash = s.flash ∧ (updBoot s f).desc = s.desc ∧
    (updBoot s f).ctxs = s.ctxs ∧ (updBoot s f).ancs = s.ancs ∧ (updBoot s f).tiles = s.tiles ∧ (updBoot s f).jobs = s.jobs ∧ (updBoot s
    f).lastJob = s.lastJob ∧ (updBoot s f).accepted = s.accepted ∧ (updBoot s f).binder = s.binder ∧ (updBoot s f).txq = s.txq ∧
    (updBoot s f).inbox = s.inbox ∧ (updBoot s f).sent = s.sent ∧ (updBoot s f).txSeq = s.txSeq ∧ (updBoot s f).triggers = s.triggers ∧
    (updBoot s f).ptpTx = s.ptpTx ∧ (updBoot s f).rdata = s.rdata ∧ (updBoot s f).rpois = s.rpois ∧ (updBoot s f).evMs = s.evMs ∧
    (updBoot s f).evCnt = s.evCnt ∧ (updBoot s f).evLast = s.evLast ∧ (updBoot s f).trigs = s.trigs ∧ (updBoot s f).lost = s.lost ∧
    (updBoot s f).known = s.known ∧ (updBoot s f).lean = s.lean ∧ (updBoot s f).samples = s.samples ∧ (updBoot s f).pwr = s.pwr ∧
    (updBoot s f).tmux = s.tmux ∧ (updBoot s f).disputed = s.disputed ∧ (updBoot s f).enc = s.enc ∧ (updBoot s f).imu = s.imu ∧ (updBoot
    s f).chain = s.chain ∧ (updBoot s f).bars = s.bars ∧ (updBoot s f).fus = s.fus ∧ (updBoot s f).out = s.out ∧ (updBoot s f).ladder =
    s.ladder ∧ (updBoot s f).sec = s.sec ∧ (updBoot s f).jtag = s.jtag ∧ (updBoot s f).links = s.links ∧ (updBoot s f).rbars = s.rbars ∧
    (updBoot s f).relay = s.relay ∧ (updBoot s f).svc = s.svc := by
  simp only [updBoot, and_self]

@[simp] theorem updBoot_boot (s : State) (f : BootSt → BootSt) : (updBoot s f).boot = f s.boot := rfl

@[simp] theorem setIr_frame (s : State) (ir : Nat) : (setIr s ir).pending = s.pending ∧ (setIr s ir).free = s.free ∧ (setIr s ir).regs =
    s.regs ∧ (setIr s ir).pendDis = s.pendDis ∧ (setIr s ir).disarmed = s.disarmed ∧ (setIr s ir).opBusy = s.opBusy ∧ (setIr s ir).msix
    = s.msix ∧ (setIr s ir).bme = s.bme ∧ (setIr s ir).msgs = s.msgs ∧ (setIr s ir).log = s.log ∧ (setIr s ir).loopCnt = s.loopCnt ∧
    (setIr s ir).ft = s.ft ∧ (setIr s ir).ftFrac = s.ftFrac ∧ (setIr s ir).disc = s.disc ∧ (setIr s ir).ptp = s.ptp ∧ (setIr s ir).pps =
    s.pps ∧ (setIr s ir).srv = s.srv ∧ (setIr s ir).mp = s.mp ∧ (setIr s ir).ports = s.ports ∧ (setIr s ir).i3c = s.i3c ∧ (setIr s
    ir).wide = s.wide ∧ (setIr s ir).cairns = s.cairns ∧ (setIr s ir).srcs = s.srcs ∧ (setIr s ir).hops = s.hops ∧ (setIr s ir).rgn =
    s.rgn ∧ (setIr s ir).pins = s.pins ∧ (setIr s ir).spikeQ = s.spikeQ ∧ (setIr s ir).slots = s.slots ∧ (setIr s ir).awaiting =
    s.awaiting ∧ (setIr s ir).ncFifo = s.ncFifo ∧ (setIr s ir).nc = s.nc ∧ (setIr s ir).uop = s.uop ∧ (setIr s ir).mem = s.mem ∧ (setIr
    s ir).memUe = s.memUe ∧ (setIr s ir).memFail = s.memFail ∧ (setIr s ir).sram = s.sram ∧ (setIr s ir).poison = s.poison ∧ (setIr s
    ir).ce = s.ce ∧ (setIr s ir).scrubs = s.scrubs ∧ (setIr s ir).held = s.held ∧ (setIr s ir).tabs = s.tabs ∧ (setIr s ir).hostMem =
    s.hostMem ∧ (setIr s ir).flash = s.flash ∧ (setIr s ir).desc = s.desc ∧ (setIr s ir).ctxs = s.ctxs ∧ (setIr s ir).ancs = s.ancs ∧
    (setIr s ir).tiles = s.tiles ∧ (setIr s ir).jobs = s.jobs ∧ (setIr s ir).lastJob = s.lastJob ∧ (setIr s ir).accepted = s.accepted ∧
    (setIr s ir).binder = s.binder ∧ (setIr s ir).txq = s.txq ∧ (setIr s ir).inbox = s.inbox ∧ (setIr s ir).sent = s.sent ∧ (setIr s
    ir).txSeq = s.txSeq ∧ (setIr s ir).triggers = s.triggers ∧ (setIr s ir).ptpTx = s.ptpTx ∧ (setIr s ir).rdata = s.rdata ∧ (setIr s
    ir).rpois = s.rpois ∧ (setIr s ir).evMs = s.evMs ∧ (setIr s ir).evCnt = s.evCnt ∧ (setIr s ir).evLast = s.evLast ∧ (setIr s
    ir).trigs = s.trigs ∧ (setIr s ir).lost = s.lost ∧ (setIr s ir).known = s.known ∧ (setIr s ir).lean = s.lean ∧ (setIr s ir).samples
    = s.samples ∧ (setIr s ir).pwr = s.pwr ∧ (setIr s ir).tmux = s.tmux ∧ (setIr s ir).disputed = s.disputed ∧ (setIr s ir).enc = s.enc
    ∧ (setIr s ir).imu = s.imu ∧ (setIr s ir).chain = s.chain ∧ (setIr s ir).bars = s.bars ∧ (setIr s ir).fus = s.fus ∧ (setIr s ir).out
    = s.out ∧ (setIr s ir).ladder = s.ladder ∧ (setIr s ir).sec = s.sec ∧ (setIr s ir).boot = s.boot ∧ (setIr s ir).links = s.links ∧
    (setIr s ir).rbars = s.rbars ∧ (setIr s ir).relay = s.relay ∧ (setIr s ir).svc = s.svc := by
  simp only [setIr, and_self]

@[simp] theorem setTdo_frame (s : State) (n : Nat) : (setTdo s n).pending = s.pending ∧ (setTdo s n).free = s.free ∧ (setTdo s n).regs =
    s.regs ∧ (setTdo s n).pendDis = s.pendDis ∧ (setTdo s n).disarmed = s.disarmed ∧ (setTdo s n).opBusy = s.opBusy ∧ (setTdo s n).msix
    = s.msix ∧ (setTdo s n).bme = s.bme ∧ (setTdo s n).msgs = s.msgs ∧ (setTdo s n).log = s.log ∧ (setTdo s n).loopCnt = s.loopCnt ∧
    (setTdo s n).ft = s.ft ∧ (setTdo s n).ftFrac = s.ftFrac ∧ (setTdo s n).disc = s.disc ∧ (setTdo s n).ptp = s.ptp ∧ (setTdo s n).pps =
    s.pps ∧ (setTdo s n).srv = s.srv ∧ (setTdo s n).mp = s.mp ∧ (setTdo s n).ports = s.ports ∧ (setTdo s n).i3c = s.i3c ∧ (setTdo s
    n).wide = s.wide ∧ (setTdo s n).cairns = s.cairns ∧ (setTdo s n).srcs = s.srcs ∧ (setTdo s n).hops = s.hops ∧ (setTdo s n).rgn =
    s.rgn ∧ (setTdo s n).pins = s.pins ∧ (setTdo s n).spikeQ = s.spikeQ ∧ (setTdo s n).slots = s.slots ∧ (setTdo s n).awaiting =
    s.awaiting ∧ (setTdo s n).ncFifo = s.ncFifo ∧ (setTdo s n).nc = s.nc ∧ (setTdo s n).uop = s.uop ∧ (setTdo s n).mem = s.mem ∧ (setTdo
    s n).memUe = s.memUe ∧ (setTdo s n).memFail = s.memFail ∧ (setTdo s n).sram = s.sram ∧ (setTdo s n).poison = s.poison ∧ (setTdo s
    n).ce = s.ce ∧ (setTdo s n).scrubs = s.scrubs ∧ (setTdo s n).held = s.held ∧ (setTdo s n).tabs = s.tabs ∧ (setTdo s n).hostMem =
    s.hostMem ∧ (setTdo s n).flash = s.flash ∧ (setTdo s n).desc = s.desc ∧ (setTdo s n).ctxs = s.ctxs ∧ (setTdo s n).ancs = s.ancs ∧
    (setTdo s n).tiles = s.tiles ∧ (setTdo s n).jobs = s.jobs ∧ (setTdo s n).lastJob = s.lastJob ∧ (setTdo s n).accepted = s.accepted ∧
    (setTdo s n).binder = s.binder ∧ (setTdo s n).txq = s.txq ∧ (setTdo s n).inbox = s.inbox ∧ (setTdo s n).sent = s.sent ∧ (setTdo s
    n).txSeq = s.txSeq ∧ (setTdo s n).triggers = s.triggers ∧ (setTdo s n).ptpTx = s.ptpTx ∧ (setTdo s n).rdata = s.rdata ∧ (setTdo s
    n).rpois = s.rpois ∧ (setTdo s n).evMs = s.evMs ∧ (setTdo s n).evCnt = s.evCnt ∧ (setTdo s n).evLast = s.evLast ∧ (setTdo s n).trigs
    = s.trigs ∧ (setTdo s n).lost = s.lost ∧ (setTdo s n).known = s.known ∧ (setTdo s n).lean = s.lean ∧ (setTdo s n).samples =
    s.samples ∧ (setTdo s n).pwr = s.pwr ∧ (setTdo s n).tmux = s.tmux ∧ (setTdo s n).disputed = s.disputed ∧ (setTdo s n).enc = s.enc ∧
    (setTdo s n).imu = s.imu ∧ (setTdo s n).chain = s.chain ∧ (setTdo s n).bars = s.bars ∧ (setTdo s n).fus = s.fus ∧ (setTdo s n).out =
    s.out ∧ (setTdo s n).ladder = s.ladder ∧ (setTdo s n).sec = s.sec ∧ (setTdo s n).boot = s.boot ∧ (setTdo s n).links = s.links ∧
    (setTdo s n).rbars = s.rbars ∧ (setTdo s n).relay = s.relay ∧ (setTdo s n).svc = s.svc := by
  simp only [setTdo, and_self]

@[simp] theorem answer_frame (s : State) (n : Nat) : (answer s n).pending = s.pending ∧ (answer s n).free = s.free ∧ (answer s n).regs =
    s.regs ∧ (answer s n).pendDis = s.pendDis ∧ (answer s n).disarmed = s.disarmed ∧ (answer s n).opBusy = s.opBusy ∧ (answer s n).msix
    = s.msix ∧ (answer s n).bme = s.bme ∧ (answer s n).msgs = s.msgs ∧ (answer s n).log = s.log ∧ (answer s n).loopCnt = s.loopCnt ∧
    (answer s n).ft = s.ft ∧ (answer s n).ftFrac = s.ftFrac ∧ (answer s n).disc = s.disc ∧ (answer s n).ptp = s.ptp ∧ (answer s n).pps =
    s.pps ∧ (answer s n).srv = s.srv ∧ (answer s n).mp = s.mp ∧ (answer s n).ports = s.ports ∧ (answer s n).i3c = s.i3c ∧ (answer s
    n).wide = s.wide ∧ (answer s n).cairns = s.cairns ∧ (answer s n).srcs = s.srcs ∧ (answer s n).hops = s.hops ∧ (answer s n).rgn =
    s.rgn ∧ (answer s n).pins = s.pins ∧ (answer s n).spikeQ = s.spikeQ ∧ (answer s n).slots = s.slots ∧ (answer s n).awaiting =
    s.awaiting ∧ (answer s n).ncFifo = s.ncFifo ∧ (answer s n).nc = s.nc ∧ (answer s n).uop = s.uop ∧ (answer s n).mem = s.mem ∧ (answer
    s n).memUe = s.memUe ∧ (answer s n).memFail = s.memFail ∧ (answer s n).sram = s.sram ∧ (answer s n).poison = s.poison ∧ (answer s
    n).ce = s.ce ∧ (answer s n).scrubs = s.scrubs ∧ (answer s n).held = s.held ∧ (answer s n).tabs = s.tabs ∧ (answer s n).hostMem =
    s.hostMem ∧ (answer s n).flash = s.flash ∧ (answer s n).desc = s.desc ∧ (answer s n).ctxs = s.ctxs ∧ (answer s n).ancs = s.ancs ∧
    (answer s n).tiles = s.tiles ∧ (answer s n).jobs = s.jobs ∧ (answer s n).lastJob = s.lastJob ∧ (answer s n).accepted = s.accepted ∧
    (answer s n).binder = s.binder ∧ (answer s n).txq = s.txq ∧ (answer s n).inbox = s.inbox ∧ (answer s n).sent = s.sent ∧ (answer s
    n).txSeq = s.txSeq ∧ (answer s n).triggers = s.triggers ∧ (answer s n).ptpTx = s.ptpTx ∧ (answer s n).evMs = s.evMs ∧ (answer s
    n).evCnt = s.evCnt ∧ (answer s n).evLast = s.evLast ∧ (answer s n).trigs = s.trigs ∧ (answer s n).lost = s.lost ∧ (answer s n).known
    = s.known ∧ (answer s n).lean = s.lean ∧ (answer s n).samples = s.samples ∧ (answer s n).pwr = s.pwr ∧ (answer s n).tmux = s.tmux ∧
    (answer s n).disputed = s.disputed ∧ (answer s n).enc = s.enc ∧ (answer s n).imu = s.imu ∧ (answer s n).chain = s.chain ∧ (answer s
    n).bars = s.bars ∧ (answer s n).fus = s.fus ∧ (answer s n).out = s.out ∧ (answer s n).ladder = s.ladder ∧ (answer s n).sec = s.sec ∧
    (answer s n).boot = s.boot ∧ (answer s n).jtag = s.jtag ∧ (answer s n).links = s.links ∧ (answer s n).rbars = s.rbars ∧ (answer s
    n).relay = s.relay ∧ (answer s n).svc = s.svc := by
  simp only [answer, and_self]

@[simp] theorem answer_rdata (s : State) (n : Nat) : (answer s n).rdata = n := rfl

@[simp] theorem answer_rpois (s : State) (n : Nat) : (answer s n).rpois = false := rfl

@[simp] theorem svcSend_frame (s : State) (op tag : Nat) (body : List Byte) : (svcSend s op tag body).pending = s.pending ∧ (svcSend s
    op tag body).free = s.free ∧ (svcSend s op tag body).regs = s.regs ∧ (svcSend s op tag body).pendDis = s.pendDis ∧ (svcSend s op tag
    body).disarmed = s.disarmed ∧ (svcSend s op tag body).opBusy = s.opBusy ∧ (svcSend s op tag body).msix = s.msix ∧ (svcSend s op tag
    body).bme = s.bme ∧ (svcSend s op tag body).msgs = s.msgs ∧ (svcSend s op tag body).log = s.log ∧ (svcSend s op tag body).loopCnt =
    s.loopCnt ∧ (svcSend s op tag body).ft = s.ft ∧ (svcSend s op tag body).ftFrac = s.ftFrac ∧ (svcSend s op tag body).disc = s.disc ∧
    (svcSend s op tag body).ptp = s.ptp ∧ (svcSend s op tag body).pps = s.pps ∧ (svcSend s op tag body).srv = s.srv ∧ (svcSend s op tag
    body).mp = s.mp ∧ (svcSend s op tag body).ports = s.ports ∧ (svcSend s op tag body).i3c = s.i3c ∧ (svcSend s op tag body).wide =
    s.wide ∧ (svcSend s op tag body).cairns = s.cairns ∧ (svcSend s op tag body).srcs = s.srcs ∧ (svcSend s op tag body).hops = s.hops ∧
    (svcSend s op tag body).rgn = s.rgn ∧ (svcSend s op tag body).pins = s.pins ∧ (svcSend s op tag body).spikeQ = s.spikeQ ∧ (svcSend s
    op tag body).slots = s.slots ∧ (svcSend s op tag body).awaiting = s.awaiting ∧ (svcSend s op tag body).ncFifo = s.ncFifo ∧ (svcSend
    s op tag body).nc = s.nc ∧ (svcSend s op tag body).uop = s.uop ∧ (svcSend s op tag body).mem = s.mem ∧ (svcSend s op tag body).memUe
    = s.memUe ∧ (svcSend s op tag body).memFail = s.memFail ∧ (svcSend s op tag body).sram = s.sram ∧ (svcSend s op tag body).poison =
    s.poison ∧ (svcSend s op tag body).ce = s.ce ∧ (svcSend s op tag body).scrubs = s.scrubs ∧ (svcSend s op tag body).held = s.held ∧
    (svcSend s op tag body).tabs = s.tabs ∧ (svcSend s op tag body).hostMem = s.hostMem ∧ (svcSend s op tag body).flash = s.flash ∧
    (svcSend s op tag body).desc = s.desc ∧ (svcSend s op tag body).ctxs = s.ctxs ∧ (svcSend s op tag body).ancs = s.ancs ∧ (svcSend s
    op tag body).tiles = s.tiles ∧ (svcSend s op tag body).jobs = s.jobs ∧ (svcSend s op tag body).lastJob = s.lastJob ∧ (svcSend s op
    tag body).accepted = s.accepted ∧ (svcSend s op tag body).binder = s.binder ∧ (svcSend s op tag body).txq = s.txq ∧ (svcSend s op
    tag body).inbox = s.inbox ∧ (svcSend s op tag body).sent = s.sent ∧ (svcSend s op tag body).txSeq = s.txSeq ∧ (svcSend s op tag
    body).triggers = s.triggers ∧ (svcSend s op tag body).ptpTx = s.ptpTx ∧ (svcSend s op tag body).rdata = s.rdata ∧ (svcSend s op tag
    body).rpois = s.rpois ∧ (svcSend s op tag body).evMs = s.evMs ∧ (svcSend s op tag body).evCnt = s.evCnt ∧ (svcSend s op tag
    body).evLast = s.evLast ∧ (svcSend s op tag body).trigs = s.trigs ∧ (svcSend s op tag body).lost = s.lost ∧ (svcSend s op tag
    body).known = s.known ∧ (svcSend s op tag body).lean = s.lean ∧ (svcSend s op tag body).samples = s.samples ∧ (svcSend s op tag
    body).pwr = s.pwr ∧ (svcSend s op tag body).tmux = s.tmux ∧ (svcSend s op tag body).disputed = s.disputed ∧ (svcSend s op tag
    body).enc = s.enc ∧ (svcSend s op tag body).imu = s.imu ∧ (svcSend s op tag body).chain = s.chain ∧ (svcSend s op tag body).bars =
    s.bars ∧ (svcSend s op tag body).fus = s.fus ∧ (svcSend s op tag body).out = s.out ∧ (svcSend s op tag body).ladder = s.ladder ∧
    (svcSend s op tag body).sec = s.sec ∧ (svcSend s op tag body).boot = s.boot ∧ (svcSend s op tag body).jtag = s.jtag ∧ (svcSend s op
    tag body).links = s.links ∧ (svcSend s op tag body).rbars = s.rbars ∧ (svcSend s op tag body).relay = s.relay := by
  simp only [svcSend, and_self]

@[simp] theorem svcSend_svc (s : State) (op tag : Nat) (body : List Byte) : (svcSend s op tag body).svc = s.svc ++ [leBytes 2 op ++
    leBytes 2 tag ++ leBytes 4 body.length ++ leBytes 8 0 ++ body] := rfl

@[simp] theorem dbgKeep_frame (s : State) (data code : Nat) : (dbgKeep s data code).pending = s.pending ∧ (dbgKeep s data code).free =
    s.free ∧ (dbgKeep s data code).regs = s.regs ∧ (dbgKeep s data code).pendDis = s.pendDis ∧ (dbgKeep s data code).disarmed =
    s.disarmed ∧ (dbgKeep s data code).opBusy = s.opBusy ∧ (dbgKeep s data code).msix = s.msix ∧ (dbgKeep s data code).bme = s.bme ∧
    (dbgKeep s data code).msgs = s.msgs ∧ (dbgKeep s data code).log = s.log ∧ (dbgKeep s data code).loopCnt = s.loopCnt ∧ (dbgKeep s
    data code).ft = s.ft ∧ (dbgKeep s data code).ftFrac = s.ftFrac ∧ (dbgKeep s data code).disc = s.disc ∧ (dbgKeep s data code).ptp =
    s.ptp ∧ (dbgKeep s data code).pps = s.pps ∧ (dbgKeep s data code).srv = s.srv ∧ (dbgKeep s data code).mp = s.mp ∧ (dbgKeep s data
    code).ports = s.ports ∧ (dbgKeep s data code).i3c = s.i3c ∧ (dbgKeep s data code).wide = s.wide ∧ (dbgKeep s data code).cairns =
    s.cairns ∧ (dbgKeep s data code).srcs = s.srcs ∧ (dbgKeep s data code).hops = s.hops ∧ (dbgKeep s data code).rgn = s.rgn ∧ (dbgKeep
    s data code).pins = s.pins ∧ (dbgKeep s data code).spikeQ = s.spikeQ ∧ (dbgKeep s data code).slots = s.slots ∧ (dbgKeep s data
    code).awaiting = s.awaiting ∧ (dbgKeep s data code).ncFifo = s.ncFifo ∧ (dbgKeep s data code).nc = s.nc ∧ (dbgKeep s data code).uop
    = s.uop ∧ (dbgKeep s data code).mem = s.mem ∧ (dbgKeep s data code).memUe = s.memUe ∧ (dbgKeep s data code).memFail = s.memFail ∧
    (dbgKeep s data code).sram = s.sram ∧ (dbgKeep s data code).poison = s.poison ∧ (dbgKeep s data code).ce = s.ce ∧ (dbgKeep s data
    code).scrubs = s.scrubs ∧ (dbgKeep s data code).held = s.held ∧ (dbgKeep s data code).tabs = s.tabs ∧ (dbgKeep s data code).hostMem
    = s.hostMem ∧ (dbgKeep s data code).flash = s.flash ∧ (dbgKeep s data code).desc = s.desc ∧ (dbgKeep s data code).ctxs = s.ctxs ∧
    (dbgKeep s data code).ancs = s.ancs ∧ (dbgKeep s data code).tiles = s.tiles ∧ (dbgKeep s data code).jobs = s.jobs ∧ (dbgKeep s data
    code).lastJob = s.lastJob ∧ (dbgKeep s data code).accepted = s.accepted ∧ (dbgKeep s data code).binder = s.binder ∧ (dbgKeep s data
    code).txq = s.txq ∧ (dbgKeep s data code).inbox = s.inbox ∧ (dbgKeep s data code).sent = s.sent ∧ (dbgKeep s data code).txSeq =
    s.txSeq ∧ (dbgKeep s data code).triggers = s.triggers ∧ (dbgKeep s data code).ptpTx = s.ptpTx ∧ (dbgKeep s data code).rdata =
    s.rdata ∧ (dbgKeep s data code).rpois = s.rpois ∧ (dbgKeep s data code).evMs = s.evMs ∧ (dbgKeep s data code).evCnt = s.evCnt ∧
    (dbgKeep s data code).evLast = s.evLast ∧ (dbgKeep s data code).trigs = s.trigs ∧ (dbgKeep s data code).lost = s.lost ∧ (dbgKeep s
    data code).known = s.known ∧ (dbgKeep s data code).lean = s.lean ∧ (dbgKeep s data code).samples = s.samples ∧ (dbgKeep s data
    code).pwr = s.pwr ∧ (dbgKeep s data code).tmux = s.tmux ∧ (dbgKeep s data code).disputed = s.disputed ∧ (dbgKeep s data code).enc =
    s.enc ∧ (dbgKeep s data code).imu = s.imu ∧ (dbgKeep s data code).chain = s.chain ∧ (dbgKeep s data code).bars = s.bars ∧ (dbgKeep s
    data code).fus = s.fus ∧ (dbgKeep s data code).out = s.out ∧ (dbgKeep s data code).ladder = s.ladder ∧ (dbgKeep s data code).sec =
    s.sec ∧ (dbgKeep s data code).boot = s.boot ∧ (dbgKeep s data code).links = s.links ∧ (dbgKeep s data code).rbars = s.rbars ∧
    (dbgKeep s data code).relay = s.relay ∧ (dbgKeep s data code).svc = s.svc := by
  simp only [dbgKeep, and_self]

end Sys2Proof.Laws
end

