-- ==== Sys2Proof/Laws/Ops.lean ====
section
/-!
SUPPORT. What the shared operations over registers, numbered units, memory and checks do, said once for each.
-/
namespace Sys2Proof.Laws
open Sys2Proof Sys2Proof.Machine

/-! ## Registers -/

/-- A register that is written reads as what was written, where the register table has its canonical form. -/
theorem rd_wr_same (s : State) (a : Nat) (v : Word) (h : twf resetWord s.regs = true) : rd (wr s a v) a = v :=
  tget_tset_same a v h

/-- A write of one register leaves every other. -/
theorem rd_wr_ne (s : State) (a b : Nat) (v : Word) (h : b ≠ a) : rd (wr s a v) b = rd s b := tget_tset_other a b v h s.regs

/-- A write keeps the canonical form of the register table. -/
theorem wr_twf (s : State) (a : Nat) (v : Word) (h : twf resetWord s.regs = true) : twf resetWord (wr s a v).regs = true :=
  twf_tset a v h

theorem fld_wr_ne (s : State) (a b hi lo : Nat) (v : Word) (h : b ≠ a) : fld (wr s a v) b hi lo = fld s b hi lo := by
  simp only [fld, rd_wr_ne s a b v h]

theorem fld_setFld_ne (s : State) (a b hi lo hi' lo' x : Nat) (h : b ≠ a) : fld (setFld s a hi' lo' x) b hi lo = fld s b hi lo :=
  fld_wr_ne s a b hi lo _ h

theorem flag_setFld_ne (s : State) (a b i hi lo x : Nat) (h : b ≠ a) : flag (setFld s a hi lo x) b i = flag s b i := by
  simp only [flag, fld_setFld_ne s a b i i hi lo x h]

theorem flag_setFlag_ne (s : State) (a b i j : Nat) (x : Bool) (h : b ≠ a) : flag (setFlag s a j x) b i = flag s b i :=
  flag_setFld_ne s a b i j j _ h

theorem fld_wrN_ne (s : State) (a b hi lo n : Nat) (h : b ≠ a) : fld (wrN s a n) b hi lo = fld s b hi lo := fld_wr_ne s a b hi lo _ h

theorem fld_bump_ne (s : State) (a b hi lo : Nat) (h : b ≠ a) : fld (bump s a) b hi lo = fld s b hi lo := fld_wr_ne s a b hi lo _ h

/-- A counter that is below its end counts one. -/
theorem rdN_bump (s : State) (a : Nat) (h : twf resetWord s.regs = true) (hn : rdN s a < 0xFFFFFFFF) : rdN (bump s a) a = rdN s a + 1 := by
  have e : satN 0xFFFFFFFF (rdN s a + 1) = rdN s a + 1 := by unfold satN; split <;> omega
  have r := rd_wr_same s a (word (rdN s a + 1)) h
  simp only [bump, bumpN, e, wrN]
  show (rd (wr s a (word (rdN s a + 1))) a).toNat = _
  rw [r, word, BitVec.toNat_ofNat]
  omega

/-! ## Numbered units -/

theorem port_setPort (s : State) (p q : Nat) (x : PortSt) (h : twf portD s.ports = true) :
    port (setPort s p x) q = if q = p then x else port s q := tget_tset p q x h

theorem port_setPort_ne (s : State) (p q : Nat) (x : PortSt) (h : q ≠ p) : port (setPort s p x) q = port s q := tget_tset_other p q x h s.ports

theorem anc_setAnc (s : State) (a b : Nat) (x : AncSt) (h : twf ancD s.ancs = true) : anc (setAnc s a x) b = if b = a then x else anc s b :=
  tget_tset a b x h

theorem anc_setAnc_ne (s : State) (a b : Nat) (x : AncSt) (h : b ≠ a) : anc (setAnc s a x) b = anc s b := tget_tset_other a b x h s.ancs

theorem ctxOf_setCtx_ne (s : State) (c d : Nat) (x : CtxSt) (h : d ≠ c) : ctxOf (setCtx s c x) d = ctxOf s d := tget_tset_other c d x h s.ctxs

theorem tileOf_setTile_ne (s : State) (t u : Nat) (x : TileSt) (h : u ≠ t) : tileOf (setTile s t x) u = tileOf s u :=
  tget_tset_other t u x h s.tiles

theorem ncOf_setNc_ne (s : State) (n m : Nat) (x : NcSt) (h : m ≠ n) : ncOf (setNc s n x) m = ncOf s m := tget_tset_other n m x h s.nc

/-! ## Memory -/

/-- Every operation that writes a memory keeps its canonical form. -/
theorem memWrite_twf (s : State) (a : Nat) (bs : List Byte) (h : twf byte0 s.mem = true) : twf byte0 (memWrite s a bs).mem = true :=
  twf_tsetL bs _ a h
theorem sramWrite_twf (s : State) (a : Nat) (bs : List Byte) (h : twf byte0 s.sram = true) : twf byte0 (sramWrite s a bs).sram = true :=
  twf_tsetL bs _ a h
theorem sramZero_twf (s : State) (u : Nat) (h : twf byte0 s.sram = true) : twf byte0 (sramZero s u).sram = true := twf_tclear _ _ h
theorem sramLose_twf (s : State) (u : Nat) (h : twf byte0 s.sram = true) : twf byte0 (sramLose s u).sram = true := twf_tclear _ _ h
theorem tabWrite_twf (s : State) (a : Nat) (bs : List Byte) (h : twf byte0 s.tabs = true) : twf byte0 (tabWrite s a bs).tabs = true :=
  twf_tsetL bs _ a h
theorem hostWrite_twf (s : State) (a : Nat) (bs : List Byte) (h : twf byte0 s.hostMem = true) : twf byte0 (hostWrite s a bs).hostMem = true :=
  twf_tsetL bs _ a h
theorem flashWrite_twf (s : State) (a : Nat) (bs : List Byte) (h : twf byteF s.flash = true) : twf byteF (flashWrite s a bs).flash = true :=
  twf_tsetL bs _ a h
theorem flashErase_twf (s : State) (a n : Nat) (h : twf byteF s.flash = true) : twf byteF (flashErase s a n).flash = true := twf_tclear _ _ h
theorem descWrite_twf (s : State) (a : Nat) (bs : List Byte) (h : twf byte0 s.desc = true) : twf byte0 (descWrite s a bs).desc = true :=
  twf_tsetL bs _ a h

/-- One byte outside the bytes written reads as before. -/
theorem mem_memWrite_other (s : State) (a x : Nat) (bs : List Byte) (h : x < a ∨ a + bs.length ≤ x) :
    tget byte0 (memWrite s a bs).mem x = tget byte0 s.mem x := tget_tsetL_other x bs s.mem a h

theorem sram_sramWrite_other (s : State) (a x : Nat) (bs : List Byte) (h : x < a ∨ a + bs.length ≤ x) :
    tget byte0 (sramWrite s a bs).sram x = tget byte0 s.sram x := tget_tsetL_other x bs s.sram a h

/-! ## Interrupts and error records

A pulse of a source changes registers, vectors and messages; an error record changes no more. -/

theorem sendMsix_mem (s : State) (f v : Nat) : (sendMsix s f v).mem = s.mem ∧ (sendMsix s f v).sram = s.sram ∧ (sendMsix s f v).tabs = s.tabs ∧
    (sendMsix s f v).hostMem = s.hostMem ∧ (sendMsix s f v).flash = s.flash ∧ (sendMsix s f v).desc = s.desc ∧
    (sendMsix s f v).regs = s.regs ∧ (sendMsix s f v).ft = s.ft ∧ (sendMsix s f v).pending = s.pending := by
  unfold sendMsix
  dsimp only
  split <;> exact ⟨rfl, rfl, rfl, rfl, rfl, rfl, rfl, rfl, rfl⟩

theorem irq_mem (s : State) (pg b : Nat) : (irq s pg b).mem = s.mem ∧ (irq s pg b).sram = s.sram ∧ (irq s pg b).tabs = s.tabs ∧
    (irq s pg b).hostMem = s.hostMem ∧ (irq s pg b).flash = s.flash ∧ (irq s pg b).desc = s.desc ∧ (irq s pg b).ft = s.ft ∧
    (irq s pg b).pending = s.pending := by
  unfold irq
  dsimp only
  split
  · split
    · exact ⟨rfl, rfl, rfl, rfl, rfl, rfl, rfl, rfl⟩
    · split
      · obtain ⟨h1, h2, h3, h4, h5, h6, _, h8, h9⟩ := sendMsix_mem (setFlag s (PAGE_IRQ_STAT pg) b true)
          (fld (setFlag s (PAGE_IRQ_STAT pg) b true) (GLB_IRQ_ROUTE (pg / 65536 % 256)) 30 30)
          (fld (setFlag s (PAGE_IRQ_STAT pg) b true) (GLB_IRQ_ROUTE (pg / 65536 % 256)) 8 0)
        exact ⟨h1, h2, h3, h4, h5, h6, h8, h9⟩
      · exact ⟨rfl, rfl, rfl, rfl, rfl, rfl, rfl, rfl⟩
  · exact ⟨rfl, rfl, rfl, rfl, rfl, rfl, rfl, rfl⟩

/-- A pulse writes no register but the status register of its page. -/
theorem rd_irq_ne (s : State) (pg b a : Nat) (h : a ≠ PAGE_IRQ_STAT pg) : rd (irq s pg b) a = rd s a := by
  unfold irq
  dsimp only
  split
  · split
    · rfl
    · split
      · rw [rd, (sendMsix_mem _ _ _).2.2.2.2.2.2.1]
        exact rd_wr_ne s _ a _ h
      · exact rd_wr_ne s _ a _ h
  · rfl

theorem recErr_mem (s : State) (pg code : Nat) (info : Word) : (recErr s pg code info).mem = s.mem ∧ (recErr s pg code info).sram = s.sram ∧
    (recErr s pg code info).tabs = s.tabs ∧ (recErr s pg code info).hostMem = s.hostMem ∧ (recErr s pg code info).flash = s.flash ∧
    (recErr s pg code info).desc = s.desc ∧ (recErr s pg code info).ft = s.ft ∧ (recErr s pg code info).pending = s.pending := by
  unfold recErr
  dsimp only
  split
  · obtain ⟨h1, h2, h3, h4, h5, h6, h7, h8⟩ := irq_mem (wr (setFlag (setFld (setFld s (PAGE_ERR_CODE pg) 31 24
      (satN 0xFF (bits (rd s (PAGE_ERR_CODE pg)) 31 24 + 1))) (PAGE_ERR_CODE pg) 15 0 code) (PAGE_STAT pg) 8 true) (PAGE_ERR_INFO pg) info) pg irqErr
    exact ⟨h1, h2, h3, h4, h5, h6, h7, h8⟩
  · obtain ⟨h1, h2, h3, h4, h5, h6, h7, h8⟩ := irq_mem (setFld s (PAGE_ERR_CODE pg) 31 24
      (satN 0xFF (bits (rd s (PAGE_ERR_CODE pg)) 31 24 + 1))) pg irqErr
    exact ⟨h1, h2, h3, h4, h5, h6, h7, h8⟩

/-! ## Checks -/

/-- A write whose checks pass has its effect. -/
theorem guardW_ok {s : State} {w : Who} {n a : Nat} {eff : State → State} (h : checkAcc s w true n a = .ok) : guardW s w n a eff = eff s := by
  simp only [guardW, h]

/-- A write that a check refuses with a code leaves its record, and its count where the code is ERR_DENIED. -/
theorem guardW_fail {s : State} {w : Who} {n a c : Nat} {eff : State → State} (h : checkAcc s w true n a = .fail c) :
    guardW s w n a eff = failAcc s w true a (.fail c) := by
  simp only [guardW, h]

/-- A write that reaches no page counts, and nothing else changes. -/
theorem guardW_unmapped {s : State} {w : Who} {n a : Nat} {eff : State → State} (h : checkAcc s w true n a = .unmapped) :
    guardW s w n a eff = bump s GLB_UNMAPPED_CNT := by
  simp only [guardW, h, failAcc]

/-- The time of a command that carries a moment not after FT is FT. -/
theorem advance_past (s : State) (now : Nat) (h : now ≤ s.ft) : advance s now = s := by
  simp only [advance, h, true_or, if_true]

/-- A digest has the length asked for. -/
@[simp] theorem shake256_length (bs : List Byte) (n : Nat) : (Config.shake256 bs n).length = n := by simp [Config.shake256]

end Sys2Proof.Laws
end

