-- ==== Sys2Proof/WellFormed.lean ====
section
/-!
DEFINITION. Which commands are well formed: each operand within what its row can carry. The meanings are total and do not ask for it.
-/
namespace Sys2Proof

/-- A class and its function (spec/02_register_pages.md R57): PF0, PF1, a VF, or 0xFF on every other path. -/
def Who.wf (w : Who) : Bool :=
  match w.cls with
  | .owner => w.fn == 0
  | .operator => w.fn == 1
  | .tenant => decide (2 ≤ w.fn) && decide (w.fn < 66)
  | .service | .fabric | .debug => w.fn == 0xFF

/-- A BAR0 address (R41). -/
def addrWf (a : Nat) : Bool := decide (a < 0x1000000)

/-- The base address of a page. -/
def pageWf (pg : Nat) : Bool := addrWf pg && pg % 4096 == 0

/-- The width of an access in bytes. -/
def widthWf (n : Nat) : Bool := n == 1 || n == 2 || n == 4 || n == 8

/-- A device seed (spec/18_security.md R557). -/
def seedWf (x : Option (List Byte)) : Bool :=
  match x with
  | some l => decide (l.length = 32)
  | none => true

/-- Where a PTP message comes from (spec/04_time_bases.md R139). -/
def PtpFrom.wf (m : PtpFrom) : Bool :=
  decide (m.eth < 2) && decide (m.dom < 256) && decide (m.transport < 4) && decide (m.mport < 65536)

/-- The fields of a microinstruction (spec/08_neuron_cores.md R264). -/
def UopF.wf (i : UopF) : Bool :=
  decide (i.d < 8) && decide (i.a < 8) && decide (i.b < 8) && decide (i.k < 8) && decide (i.c < 8) && decide (i.imm < 256)

/-- A command whose operands lie within what its row carries. -/
def Instr.wf : Instr → Bool
  | .registerWrite w size a v => w.wf && widthWf size && addrWf a && decide (v < 256 ^ size)
  | .unmappedAccess w _ a => w.wf && addrWf a
  | .errTimeout w _ a => w.wf && addrWf a
  | .counterReadClear w size a => w.wf && widthWf size && addrWf a
  | .latchingRead w size a => w.wf && widthWf size && addrWf a
  | .irqStatClear w pg _ => w.wf && pageWf pg
  | .errClr w pg _ => w.wf && pageWf pg
  | .lock w pg _ => w.wf && pageWf pg
  | .srst w pg _ => w.wf && pageWf pg
  | .pageEnable w pg => w.wf && pageWf pg
  | .pageDisable w pg => w.wf && pageWf pg
  | .disableOnIdle pg => pageWf pg
  | .bar4Write w off bs => w.wf && decide (off < 0x1000000000) && decide (bs.length ≤ 4096)
  | .bar4Read w off n => w.wf && decide (off < 0x1000000000) && decide (n ≤ 4096)
  | .goRd w _ => w.wf
  | .goWr w _ => w.wf
  | .iwOperationDone w => w.wf
  | .modeReq w _ => w.wf
  | .modeChangeCairn _ => true
  | .coreClockPauseEnd _ => true
  | .clusterPowerUp _ _ => true
  | .summitLimitEval _ _ => true
  | .belayThermalLimit _ temps => decide (temps.length = 20)
  | .periodicCairn _ => true
  | .packetReceive p _ => decide (p < 32)
  | .spillRefill p => decide (p < 32)
  | .pad p => decide (p < 32)
  | .timeBase p => decide (p < 32)
  | .timeDelta p => decide (p < 32)
  | .row p => decide (p < 32)
  | .run p => decide (p < 32)
  | .mask p => decide (p < 32)
  | .trigger p => decide (p < 32)
  | .sensorStatus p => decide (p < 32)
  | .extended p => decide (p < 32)
  | .vesReject p => decide (p < 32)
  | .timeHigh p => decide (p < 32)
  | .tkEvent p => decide (p < 32)
  | .daaRound b _ => decide (b < 8)
  | .hotJoin b => decide (b < 8)
  | .descriptorRead b addr _ => decide (b < 8) && decide (addr < 128)
  | .getstatusPoll b k _ _ => decide (b < 8) && decide (k < 4)
  | .noStream p _ => decide (p < 32)
  | .linkTimeout p _ => decide (p < 32)
  | .hjEnWrite w b _ _ => w.wf && decide (b < 8)
  | .i3cXferGo w b _ => w.wf && decide (b < 8)
  | .i3cXferDone b _ => decide (b < 8)
  | .legacyWrite w p _ => w.wf && decide (p < 32)
  | .portLegResWrite w p _ => w.wf && decide (p < 32)
  | .tkOffsetHiWrite w p _ => w.wf && decide (p < 32)
  | .legacyWindowAccess w _ size off _ => w.wf && widthWf size && decide (off < 0x10000)
  | .ptpSync n m _ _ _ => decide (n < 4) && m.wf
  | .ptpAnnounce n m _ _ _ => decide (n < 4) && m.wf
  | .announceTimeout n _ => decide (n < 4)
  | .ptpExchange n _ => decide (n < 4)
  | .ppsInEdge _ _ => true
  | .ppsLoss _ => true
  | .ppsOutRise _ => true
  | .ppsOutFall _ => true
  | .refLost => true
  | .refBack => true
  | .timeCtrlWrite w _ => w.wf
  | .conversionGo w _ => w.wf
  | .conversionDone w => w.wf
  | .encoderEdge e _ _ _ => decide (e < 8)
  | .encoderIndex e _ _ _ => decide (e < 8)
  | .imuDrdy p _ _ _ => decide (p < 8)
  | .imuTimerTrigger p _ => decide (p < 8)
  | .imuTransactionDone p _ _ => decide (p < 8)
  | .chainInput c _ => decide (c < 16)
  | .noInput c _ => decide (c < 16)
  | .fusionIssue _ _ => true
  | .belayWait b _ => decide (b < 8)
  | .lateSample b n _ => decide (b < 8) && decide (n < 4)
  | .eventRelease p => decide (p < 32)
  | .portWatermark p => decide (p < 32)
  | .gridCommit w p _ => w.wf && decide (p < 32)
  | .gridPendClear p => decide (p < 32)
  | .refinementCycle _ _ => true
  | .markMeasurement p _ _ _ _ _ => decide (p < 32)
  | .barEnable w b _ => w.wf && decide (b < 8)
  | .barDisable w b _ => w.wf && decide (b < 8)
  | .spikeFanout c => decide (c < 16)
  | .sbWordApply t k => decide (t < 128) && decide (k < 8)
  | .sbWindowClose t k _ => decide (t < 128) && decide (k < 8)
  | .sbCloseTimeout t k _ => decide (t < 128) && decide (k < 8)
  | .sbBankPrepare t k _ => decide (t < 128) && decide (k < 8)
  | .sbStall t k _ => decide (t < 128) && decide (k < 8)
  | .sbSlotEnable w t k _ => w.wf && decide (t < 128) && decide (k < 8)
  | .fabRgnWr w _ => w.wf
  | .fabRgnRd w _ => w.wf
  | .ncWordApply n => decide (n < 512)
  | .ncStepClose n _ => decide (n < 512)
  | .ncDueTime n _ => decide (n < 512)
  | .uopNop n f => decide (n < 512) && f.wf
  | .add n f => decide (n < 512) && f.wf
  | .sub n f => decide (n < 512) && f.wf
  | .mulc n f => decide (n < 512) && f.wf
  | .mac n f => decide (n < 512) && f.wf
  | .shr n f => decide (n < 512) && f.wf
  | .clamp n f => decide (n < 512) && f.wf
  | .decay n f => decide (n < 512) && f.wf
  | .cmpth n f => decide (n < 512) && f.wf
  | .uopReset n f => decide (n < 512) && f.wf
  | .refrac n f => decide (n < 512) && f.wf
  | .select n f => decide (n < 512) && f.wf
  | .skip n f => decide (n < 512) && f.wf
  | .tileCmdStart t q _ _ _ => decide (t < 128) && decide (q < 3)
  | .tileCmdComplete t q _ _ => decide (t < 128) && decide (q < 3)
  | .conv t _ _ => decide (t < 128)
  | .poolMax t _ _ => decide (t < 128)
  | .poolAvg t _ _ => decide (t < 128)
  | .upNearest t _ _ => decide (t < 128)
  | .upBilinear t _ _ => decide (t < 128)
  | .vuAdd t => decide (t < 128)
  | .vuSub t => decide (t < 128)
  | .vuMul t => decide (t < 128)
  | .vuFma t => decide (t < 128)
  | .vuMin t => decide (t < 128)
  | .vuMax t => decide (t < 128)
  | .vuAbs t => decide (t < 128)
  | .vuNeg t => decide (t < 128)
  | .vuCmp t => decide (t < 128)
  | .vuSelect t => decide (t < 128)
  | .vuRelu t => decide (t < 128)
  | .vuLeaky t => decide (t < 128)
  | .vuClamp t => decide (t < 128)
  | .lutfn t => decide (t < 128)
  | .cvt t => decide (t < 128)
  | .requant t => decide (t < 128)
  | .vuSum t => decide (t < 128)
  | .vuReduceMax t => decide (t < 128)
  | .vuReduceMin t => decide (t < 128)
  | .argmax t => decide (t < 128)
  | .stashTransfer t => decide (t < 128)
  | .stashDone t _ _ => decide (t < 128)
  | .sramScrub c _ _ _ => decide (c < 16)
  | .retentionVerify u flips => decide (u < 144) && flips.all (fun e => decide (e.2 < 256))
  | .signal w n inc => w.wf && decide (n < 16384) && decide (inc < 65536)
  | .ancReset w n => w.wf && decide (n < 16384)
  | .fault w n => w.wf && decide (n < 16384)
  | .ownerWrite w n _ => w.wf && decide (n < 16384)
  | .leanPolicyTick _ _ _ _ => true
  | .sampleCompare _ _ => true
  | .leanChange _ => true
  | .checkerCfgWrite w _ => w.wf
  | .cheapResult _ n m _ _ => decide (n < 64) && decide (m < 0x100000000)
  | .exactResult _ n _ _ => decide (n < 64)
  | .verdictResult _ _ _ => true
  | .verdictDeadline _ => true
  | .sheetStart _ => true
  | .correctionResult u _ _ _ => decide (u < 16)
  | .held u _ => decide (u < 16)
  | .detection _ _ _ _ _ _ => true
  | .recordDeliver n _ => decide (n < 8)
  | .outStrTailWrite w n _ => w.wf && decide (n < 8)
  | .ringIrq n _ => decide (n < 8)
  | .datagramSend n _ => decide (n < 8)
  | .bind c q _ _ _ => decide (c < 1024) && decide (q < 0x100000000)
  | .bindActivate _ _ => true
  | .unbind c q => decide (c < 1024) && decide (q < 0x100000000)
  | .unbindRelease _ _ => true
  | .rebind c q _ => decide (c < 1024) && decide (q < 0x100000000)
  | .partCfg c q _ => decide (c < 1024) && decide (q < 0x100000000)
  | .ccReload c q => decide (c < 1024) && decide (q < 0x100000000)
  | .query c q _ => decide (c < 1024) && decide (q < 0x100000000)
  | .heartbeat _ => true
  | .descriptorSubmit fn off bs => decide (fn < 66) && decide (off < 0x4000000) && decide (bs.length ≤ 64)
  | .commandStart c _ => decide (c < 1024)
  | .commandEnd c q _ _ => decide (c < 1024) && decide (q < 0x100000000)
  | .nop c q => decide (c < 1024) && decide (q < 0x100000000)
  | .copy c q _ => decide (c < 1024) && decide (q < 0x100000000)
  | .fill c q => decide (c < 1024) && decide (q < 0x100000000)
  | .stamp c q _ => decide (c < 1024) && decide (q < 0x100000000)
  | .budgetExpiry _ _ => true
  | .cqEnable fn off _ => decide (fn < 66) && decide (off < 0x4000000)
  | .cqHeadWrite fn off _ => decide (fn < 66) && decide (off < 0x4000000)
  | .contextEnable w _ => w.wf
  | .hifWAbort fn off _ => decide (fn < 66) && decide (off < 0x4000000)
  | .flr f => decide (f < 66)
  | .busMasterDisable f => decide (f < 66)
  | .sriovDisable => true
  | .linkHotReset link => decide (link < 2)
  | .vectorUnmask f v => decide (f < 66) && decide (v < 512)
  | .linkSignalDetect p _ => decide (p < 4)
  | .linkTrained p lanes _ => decide (p < 4) && (decide (lanes = 4) || decide (lanes = 8))
  | .linkTrainTimeout p _ => decide (p < 4)
  | .linkFaultRetry p _ => decide (p < 4)
  | .linkDown p _ _ => decide (p < 4)
  | .failback p _ => decide (p < 4)
  | .fecUncorrectable p => decide (p < 4)
  | .nak p n _ => decide (p < 4) && decide (n < 4096)
  | .helloSend p _ => decide (p < 4)
  | .hello p _ _ => decide (p < 4)
  | .peerSilent p _ => decide (p < 4)
  | .frameRoute _ _ => true
  | .reg => true
  | .cmd => true
  | .bulkWrite => true
  | .bulkRead => true
  | .stream _ => true
  | .relayTxHeadWrite w _ _ => w.wf
  | .relayIrq _ => true
  | .e1Step _ _ => true
  | .e2Step _ _ => true
  | .e3Step _ _ => true
  | .e4Step _ _ => true
  | .e5Step _ _ => true
  | .stepTimeout _ => true
  | .pwrcycHoldExpiry _ => true
  | .unitRejoin u _ => decide (u < 640)
  | .unitError n => decide (n < 512)
  | .recHeartbeat _ => true
  | .wardenWdt _ _ => true
  | .helperWdt h _ => decide (h < 9) || (decide (16 ≤ h) && decide (h < 32))
  | .reset c q => decide (c < 1024) && decide (q < 0x100000000)
  | .dumpCopy c q _ => decide (c < 1024) && decide (q < 0x100000000)
  | .dumpRelease c q => decide (c < 1024) && decide (q < 0x100000000)
  | .rejoin c q => decide (c < 1024) && decide (q < 0x100000000)
  | .powerOnBoot _ seed0 corrected vr link _ => seedWf seed0 && decide (corrected ≤ 1400) && decide (690 ≤ vr) && decide (vr ≤ 750) && decide (link < 65536)
  | .warmBoot _ vr _ => decide (690 ≤ vr) && decide (vr ≤ 750)
  | .updBegin c q _ _ => decide (c < 1024) && decide (q < 0x100000000)
  | .updChunk c q _ _ _ => decide (c < 1024) && decide (q < 0x100000000)
  | .updAbort c q _ => decide (c < 1024) && decide (q < 0x100000000)
  | .updActivate c q _ => decide (c < 1024) && decide (q < 0x100000000)
  | .updConfirm c q => decide (c < 1024) && decide (q < 0x100000000)
  | .updFallback c q _ => decide (c < 1024) && decide (q < 0x100000000)
  | .updConfig c q _ _ => decide (c < 1024) && decide (q < 0x100000000)
  | .settingsSave c q _ _ => decide (c < 1024) && decide (q < 0x100000000)
  | .restart c q => decide (c < 1024) && decide (q < 0x100000000)
  | .chunk _ _ _ => true
  | .healthConfirm _ _ => true
  | .storeRetry _ _ _ => true
  | .svcReg tag _ => decide (tag < 65536)
  | .svcCmd tag desc _ _ _ => decide (tag < 65536) && decide (desc.length = 64)
  | .flashReadGo w _ => w.wf
  | .quoteGo w _ => w.wf
  | .quoteDone _ => true
  | .secQDataRead w => w.wf
  | .dbgUnlock _ => true
  | .tokenVerified _ => true
  | .revoke w _ => w.wf
  | .debugExpiry _ => true
  | .powerOnReset _ => true
  | .powerDown => true
  | .avsTrim _ level => decide (690 ≤ level) && decide (level ≤ 750)
  | .railSettled _ _ => true
  | .errAvsTimeout _ => true
  | .avsNoAnswer _ => true
  | .thermtrip _ temps => decide (temps.length = 20)
  | .testLogicReset => true
  | .extest _ _ => true
  | .samplePreload _ _ => true
  | .idcode => true
  | .jtagClamp => true
  | .highz => true
  | .extestPulse _ _ => true
  | .extestTrain _ _ => true
  | .dbgStatus => true
  | .dbgChal => true
  | .bypass => true
  | .dbgAccessRead a => addrWf a
  | .dbgAccessWrite a v => addrWf a && decide (v < 0x100000000)
  | .tmuxSelWrite w n _ => w.wf && decide (n < 4)
  | .pmcSelWrite w k _ => w.wf && decide (k < 8)
  | .dbgSnap w _ => w.wf
  | .slewComplete _ => true
  | .tileSleep t _ => decide (t < 128)
  | .busMasterEnable f => decide (f < 66)
  | .avsRegulatorAnswer _ => true
  | .tjMaxCrossing _ temps => decide (temps.length = 20)

end Sys2Proof
end

