-- ==== Sys2Proof/Tests/Slice0.lean ====
section
/-!
SUPPORT. The package's own tests: ill-formed commands that WellFormed refuses, concrete states and operands that meet the hypotheses of each
statement of Certificates/Slice0/Obligations.lean (theorems wit_<statement>_<clause>), and single steps with results worked out by hand from the
spec.
-/
namespace Sys2Proof.Tests
open Sys2Proof Sys2Proof.Machine

-- One declaration at a time: kernel evaluations that wait for one another each hold a thread.
set_option Elab.async false

/-! ## Small states -/

/-- The reset state with pages READY. -/
def ready (l : List Nat) : State := l.foldl (fun t p => wr t (PAGE_STAT p) 3) State.reset
def own : Who := ⟨.owner, 0⟩
def jtg : Who := ⟨.debug, 0xFF⟩
/-- The state that an outcome answers. -/
def after (o : Host.Outcome State Fault Refusal) : State := match o with | .next t => t | _ => State.reset
/-- The state after one step that executes a command. -/
def ran (c : Instr) (s : State) : State := after (step { s with pending := [c] })

/-- A vector command, by its operation. -/
def vec (op : Nat) : VecCmd := { op := op, aFmt := 15, bFmt := 15, cFmt := 15, oFmt := 15, a := 0, b := 64, c := 128, o := 192, chans := 1, plane := 1, k0 := 1, k1 := 1, k2 := 0 }
/-- A vector command with its waits. -/
def tcmd (waits : List (Nat × Nat)) : TileCmd :=
  { work := .vector (vec 2), waits := waits, sig := none, budget := 100, seq := 1, job := 0, window := 0 }
/-! ## Witnesses: the register bus -/

theorem wit_StepRunsTheFrontCommand : ({ State.reset with pending := [.idcode, .bypass] } : State).pending = .idcode :: [.bypass] := by decide +kernel
theorem wit_IdleStepIsOneTimeCycle : State.reset.pending = [] ∧ State.reset.disc.rate = 0 ∧ State.reset.disc.slew = 0 ∧ State.reset.ftFrac = 0 ∧
    State.reset.pwr.down = false := by decide +kernel
theorem wit_RegisterWrite_ok : checkAcc (ready [0x1000]) own true 4 GLB_AVS_CFG = .ok ∧ pageKind (GLB_AVS_CFG / 4096) = some (.glbPwr, 0) ∧
    inMsix GLB_AVS_CFG = false ∧ inAnc GLB_AVS_CFG = false ∧ 0x40 ≤ GLB_AVS_CFG % 4096 ∧ (regRow GLB_AVS_CFG).isSome = true := by decide +kernel
theorem wit_RegisterWrite_fail : checkAcc (ready []) own true 4 GLB_AVS_CFG = .fail 4 ∧ checkAcc (ready []) own true 4 0x7040 = .unmapped := by
  decide +kernel
theorem wit_RegisterWrite_timeout : inMsix GLB_AVS_CFG = false ∧ 0x40 ≤ GLB_AVS_CFG % 4096 ∧ unitState (ready [0x1000]) (headerPage GLB_AVS_CFG) = stReady ∧
    checkAcc (ready [0x1000]) own true 4 GLB_AVS_CFG = .ok ∧ checkAcc (ready [0x1000]) own false 4 GLB_AVS_CFG = .ok := by decide +kernel
theorem wit_UnassignedAddressesReadZero : inLegacy 0x7FFC = false ∧ inMsix 0x7FFC = false ∧ assigned 0x7FFC = false ∧ own.cls ≠ .debug := by
  decide +kernel
theorem wit_MasksGrantReadsAndWrites : inMsix GLB_AVS_CFG = false ∧ checkAcc (ready [0x1000]) own true 4 GLB_AVS_CFG = .ok ∧
    checkAcc (ready [0x1000]) own false 4 GLB_AVS_CFG = .ok ∧ assigned 0x1028 = true ∧ headerPage 0x1028 = pageOf 0x1028 ∧ 0x1028 % 4096 = 0x28 := by
  decide +kernel
theorem wit_ReadsClearAndLatch : ∃ r : RegRow, regRow (PORT_CRC_ERR 0) = some r ∧ r.flds = [f 31 0 .rc 0] := ⟨_, rfl, rfl⟩
theorem wit_ReadsClearAndLatch_checks : checkAcc (ready [portPage 0]) own false 4 (PORT_CRC_ERR 0) = .ok ∧ inMsix (PORT_CRC_ERR 0) = false ∧
    inAnc (PORT_CRC_ERR 0) = false ∧ 0x40 ≤ PORT_CRC_ERR 0 % 4096 ∧ keyOf own (PORT_CRC_ERR 0) = PORT_CRC_ERR 0 ∧
    liveReg (ready [portPage 0]) own (PORT_CRC_ERR 0) = none ∧ latchOf (PORT_CRC_ERR 0) = none := by decide +kernel
theorem wit_ReadsClearAndLatch_ft : checkAcc (ready [pgTime]) own false 4 TIME_FT_LO = .ok := by decide +kernel

/-! ## Witnesses: pages, memory, anchors, the TK-3 window -/

theorem wit_PageControl_irq : pageKind (0x1000 / 4096) = some (.glbPwr, 0) ∧ checkAcc (ready [0x1000]) own true 4 (PAGE_IRQ_STAT 0x1000) = .ok ∧
    checkAcc (ready [0x1000]) own true 4 (PAGE_CTRL 0x1000) = .ok := by decide +kernel
theorem wit_PageControl_end : twf resetWord (ready [0x1000]).regs = true ∧ twf boolD (ready [0x1000]).pendDis = true := by decide +kernel
theorem wit_PageControl_enable : disPend (ready [portPage 0]) (PAGE_CTRL (portPage 0)) = false ∧
    checkAcc (ready [portPage 0]) own true 4 (PAGE_CTRL (portPage 0)) = .ok ∧ flag (ready [portPage 0]) (PAGE_CTRL (portPage 0)) 0 = false ∧
    mayEnablePort (setDisc (ready [portPage 0]) 0 pDeclared) 0 = true := by decide +kernel
theorem wit_PageControl_disable : flag (setFlag (ready [portPage 0]) (PAGE_CTRL (portPage 0)) 0 true) (PAGE_CTRL (portPage 0)) 0 = true ∧
    (port (ready [portPage 0]) 0).rx = none ∧ disPend (setDisPend (ready []) (PAGE_CTRL (portPage 0)) true) (PAGE_CTRL (portPage 0)) = true := by
  decide +kernel
theorem wit_BlockMemory_bar4 : fld State.reset GLB_B4_BASE_A 6 0 = 0 ∧ b4May own.cls true 0x100000000 = true ∧
    b4Refuse State.reset (.mem 0x100000000) = none ∧ b4May own.cls false 0x100000000 = true := by decide +kernel
theorem wit_BlockMemory_go : own.cls ≠ .debug ∧ checkAcc (ready [0x5000]) own true 4 GLB_IW_CTRL = .ok ∧ opOn (ready [0x5000]) (keyOf own GLB_IW_CTRL) = false := by
  decide +kernel
theorem wit_BlockMemory_done : ∃ s : State, opOn s (keyOf own GLB_IW_CTRL) = true ∧ fld s (keyOf own GLB_IW_CTRL) 1 0 = 1 ∧ b4May own.cls false 0 = true ∧
    rd64 s (keyOf own GLB_IW_ADDR_LO) (keyOf own GLB_IW_ADDR_HI) = 0 :=
  ⟨setOp (setFld State.reset (keyOf own GLB_IW_CTRL) 1 0 1) (keyOf own GLB_IW_CTRL) true, by decide +kernel⟩
theorem wit_MemoryReadsBackItsLastWrite : twf byte0 State.reset.mem = true := by decide +kernel
theorem wit_AnchorWrites : checkAcc (ready [0x4000]) own true 4 (ANC_OP 16383) = .ok ∧ waiters (ready [0x4000]) 16383 = 0 ∧
    checkAcc (ready [0x4000]) own true 4 (ANC_CTRL 16383) = .ok ∧ 9 ≤ bits (word 0x900) 11 8 ∧ bits (word 0x900) 11 8 ≤ 14 ∧ bits (word 0x800) 11 8 < 9 ∧
    ancInUse (ready [0x4000]) 8 16383 = false ∧ ancInUse (ready [0x4000]) (anc (ready [0x4000]) 16383).owner 16383 = false := by decide +kernel
theorem wit_AnchorWrites_waiting : ∃ s : State, checkAcc s own true 4 (ANC_OP 7) = .ok ∧ waiters s 7 ≠ 0 :=
  ⟨setTile (setAnc (ready [0x4000]) 7 { owner := 0 }) 0 { vq := { cmds := [tcmd [(7, 1)]] } }, by decide +kernel⟩
theorem wit_LegacyWindow_legacy : ∃ s : State, checkAcc s own true 4 (PORT_CFG 3) = .ok ∧ portStatic s 3 = false ∧ inBelay s = false ∧
    isLegacy s 3 = false ∧ isLegacy (plainWrite s own (PORT_CFG 3) 0x400) 3 = true :=
  ⟨ready [portPage 3], by decide +kernel⟩
theorem wit_LegacyWindow_width : own.cls ≠ .debug ∧ (4 : Nat) ≠ 2 := by decide
theorem wit_LegacyWindow_res : ∃ s : State, checkAcc s own true 4 (PORT_LEG_RES 3) = .ok ∧ portStatic s 3 = false ∧ legResOk 0x08000400 = true ∧
    legResOk 0 = false ∧ isLegacy s 3 = true ∧ disc s 3 = pEmpty ∧ isLegacy (plainWrite s own (PORT_LEG_RES 3) 0x08000400) 3 = true ∧
    disc (plainWrite s own (PORT_LEG_RES 3) 0x08000400) 3 = pEmpty ∧ tkCheck s own true 2 3 0x010 = .ok ∧ tkCheck s own false 2 3 0 = .ok :=
  ⟨wr (ready [portPage 3]) (PORT_CFG 3) 0x400, by decide +kernel⟩

/-! ## Witnesses: modes and power -/

theorem wit_ModeRequests : ∃ s : State, checkAcc s own true 4 GLB_MODE_REQ = .ok ∧ 4 < bits (word 5) 2 0 ∧ 4 < bits (word 7) 2 0 ∧ bits (word 4) 2 0 ≤ 4 ∧
    flag (setFld s GLB_MODE_REQ 2 0 4) GLB_MODE_STAT 3 = false ∧ bits (word 0) 2 0 = mode (setFld s GLB_MODE_REQ 2 0 0) ∧
    bits (word 4) 2 0 ≠ mode (setFld s GLB_MODE_REQ 2 0 4) ∧ modeRefusal (setFld s GLB_MODE_REQ 2 0 4) 4 = none ∧ s.pwr.auto = none :=
  ⟨ready [0], by decide +kernel⟩
theorem wit_ModeRequests_refused : ∃ s : State, checkAcc s own true 4 GLB_MODE_REQ = .ok ∧ flag (setFld s GLB_MODE_REQ 2 0 4) GLB_MODE_STAT 3 = false ∧
    bits (word 4) 2 0 = 4 ∧ mode (setFld s GLB_MODE_REQ 2 0 4) ≠ 4 ∧ anyCommand (setFld s GLB_MODE_REQ 2 0 4) = true :=
  ⟨setCtx (ready [0]) 0 { cmds := [{ seq := 1, words := [] }] }, by decide +kernel⟩
theorem wit_ModeChanges_request : ∃ s : State, Reached s 0 ∧ countLate s = s ∧ atBoundary s = true ∧ s.pwr.pause = none ∧ s.pwr.auto = none ∧
    flag s GLB_MODE_STAT 3 = true ∧ modeRefusal s (fld s GLB_MODE_STAT 6 4) = none ∧ railAllows s (fld s GLB_MODE_STAT 6 4) = true :=
  ⟨setFlag (setFld State.reset GLB_MODE_STAT 6 4 2) GLB_MODE_STAT 3 true, by decide +kernel⟩
theorem wit_ModeChanges_auto : ∃ s : State, Reached s 0 ∧ countLate s = s ∧ atBoundary s = true ∧ s.pwr.pause = none ∧
    s.pwr.auto = some (0, 2) ∧ railAllows s 0 = true :=
  ⟨{ State.reset with pwr := { auto := some (0, 2) } }, by decide +kernel⟩
theorem wit_ModeChanges_pause : ∃ s : State, Reached s 10000 ∧ s.pwr.pause = some 0 ∧ s.pwr.upNext = some (15, 0) ∧
    0 + 10000 ≤ s.ft ∧ s.pwr.booting = false :=
  ⟨{ State.reset with ft := 10000, pwr := { pause := some 0, upNext := some (15, 0), booting := false } }, by decide +kernel⟩
theorem wit_ModeChanges_periodic : ∃ s : State, Reached s 16016 ∧ s.cairns ≠ [] ∧ lastCairnFt s + 16 * fld s TIME_CAIRN 23 0 ≤ 16016 :=
  ⟨{ wrN State.reset TIME_CAIRN 1000 with
      ft := 16016, cairns := [{ ft := 16, seq := 0, reason := 0, mode := 0, regVer := 0 }], wide := [(FAB_CAIRN_FT_LO, 16)] }, by decide +kernel⟩
theorem wit_Rail_settled : ∃ s : State, Reached s 0 ∧ countLate s = s ∧ s.pwr.noAnswer = false ∧ 2 ≤ avsState s ∧
    absI ((742 : Int) - (vTgt s : Int)) ≤ 8 :=
  ⟨setFld (setFld State.reset GLB_PWR_STAT 7 4 2) GLB_VCORE_TGT 15 0 750, by decide +kernel⟩
theorem wit_Rail_timeout : ∃ s : State, Reached s 1000000 ∧ countLate s = s ∧ avsState s = 2 ∧ riseWaits s = true ∧ s.pwr.since + 1000000 ≤ s.ft ∧
    s.pwr.timedOut = false :=
  ⟨{ setFlag (setFld (setFld State.reset GLB_PWR_STAT 7 4 2) GLB_MODE_STAT 6 4 1) GLB_MODE_STAT 3 true with
      ft := 1000000, pwr := { late := true } }, by decide +kernel⟩
theorem wit_Rail_answer : ∃ s : State, Reached s 0 ∧ s.pwr.noAnswer = true := ⟨{ State.reset with pwr := { noAnswer := true } }, by decide +kernel⟩
theorem wit_Rail_trim : ∃ s : State, Reached s 0 ∧ flag s GLB_AVS_CFG 31 = true ∧ s.pwr.lastTrim + 100000000 ≤ s.ft ∧
    fld s GLB_VCORE_BASE 15 0 + s.pwr.above + 5 ≤ 750 ∧ 690 + 5 ≤ fld s GLB_VCORE_BASE 15 0 + s.pwr.above :=
  ⟨{ wrN (setFlag State.reset GLB_AVS_CFG 31 true) GLB_VCORE_BASE 745 with ft := 100000000 }, by decide +kernel⟩
/-- 20 sensors at one sixteenth of a degree each reading. -/
def temps (x : Nat) : List Nat := List.replicate 20 x
theorem wit_Temperature_belay : ∃ s : State, Reached s 0 ∧ ∀ u : State, u = takeTemps s (temps 1680) → inBelay u = true ∧
    16 * (if gradeX u then 110 else 105) ≤ tj u := ⟨setFld State.reset GLB_MODE_STAT 2 0 3, by decide, by rintro _ rfl; decide +kernel⟩
theorem wit_Temperature_trip : (temps 1888).length = 20 ∧ 1888 ≤ hottest (temps 1888) ∧
    Reached State.reset 0 ∧ State.reset.pwr.trip = false ∧ State.reset.pwr.down = false := by decide +kernel
theorem wit_Temperature_eval : ∃ s x : State, x = peak (wrN (updPwr s (fun q => { q with lastEval := s.ft })) DBG_PKG_PWR (500 + 15500))
      DBG_PKG_PWR_PEAK (500 + 15500) ∧ Reached s 1000000 ∧ s.pwr.lastEval + 1000000 ≤ s.ft ∧ inBivouac s = false ∧
    mode x = 1 ∧ 16 * (fld x GLB_MODE_LIMIT 15 8 : Int) ≤ tj x :=
  ⟨{ setFld (wrN (setFld State.reset GLB_MODE_STAT 2 0 1) DBG_TJ 1520) GLB_MODE_LIMIT 15 8 95 with ft := 1000000 }, _, rfl, by decide +kernel⟩
theorem wit_Temperature_power : ∃ s x : State, x = peak (wrN (updPwr s (fun q => { q with lastEval := s.ft })) DBG_PKG_PWR (500 + 15500))
      DBG_PKG_PWR_PEAK (500 + 15500) ∧ Reached s 1000000 ∧ s.pwr.lastEval + 1000000 ≤ s.ft ∧ inBivouac s = false ∧
    mode x = 1 ∧ tj x < 16 * (fld x GLB_MODE_LIMIT 15 8 : Int) ∧ 1000 * fld x GLB_MODE_LIMIT 24 16 ≤ 500 + 15500 :=
  ⟨{ setFld (setFld (setFld State.reset GLB_MODE_STAT 2 0 1) GLB_MODE_LIMIT 15 8 95) GLB_MODE_LIMIT 24 16 16 with ft := 1000000 }, _, rfl, by decide +kernel⟩

/-! ## Witnesses: stream ports -/

/-- Port 1 with one word at the head of its buffer. -/
def holding (w : Nat) (x : PortSt) (s : State) : State := setPort s 1 { x with buf := [⟨word w, 100, 1, false⟩] }
theorem wit_Packets : ∃ s u : State, u = updPort (laneSet s 1 10 false) 1 (fun y => { y with rx := none, rxWords := 0 }) ∧ Reached s 10 ∧
    (port (laneSet s 1 10 false) 1).rx = some 0 ∧ fld u (PORT_CFG 1) 7 4 = 0 ∧ (0x30 : Nat) = 0x30 + fld u (PORT_CFG 1) 2 0 :=
  ⟨setPort { State.reset with ft := 10 } 1 { rx := some 0 }, _, rfl, by decide +kernel⟩
theorem wit_Packets_long (x : Byte) : 16384 < (List.replicate 16385 x).length := by rw [List.length_replicate]; omega
theorem wit_Packets_full (x : Byte) : (List.replicate 16384 x).length ≤ 16384 ∧ (List.replicate 16384 x).length % 4 = 0 := by
  rw [List.length_replicate]; omega
theorem wit_Packets_refill : ∃ s : State, (port s 1).spill ≠ [] ∧ bufBytes (port s 1) ≤ fld s (PORT_SPILL_CFG 1) 3 0 * 32768 :=
  ⟨setPort State.reset 1 { spill := [⟨0, 0, 0, false⟩] }, by decide +kernel⟩
theorem wit_EventStream_words : (port (holding 0 {} State.reset) 1).buf = ⟨word 0, 100, 1, false⟩ :: [] ∧ isLegacy State.reset 1 = false ∧
    skipping {} ⟨word 0, 100, 1, false⟩ = false ∧ vesIs 0 0 = true ∧ vesIs 1 0x10000001 = true ∧ vesIs 2 0x2000FFFF = true ∧ vesIs 3 0x30002001 = true ∧
    vesIs 4 0x40000101 = true ∧ vesIs 5 0x50004001 = true ∧ vesIs 6 0x60000001 = true ∧ vesIs 7 0x72000000 = true ∧ nbits 0x72000000 27 24 = 2 ∧
    vesIs 15 0xF0010000 = true ∧ vesBad 0x08000000 = true := by decide +kernel
theorem wit_EventStream_time : (port (popWord (holding 0x10000001 { tLast := some 65536 } State.reset) 1) 1).tLast = some 65536 ∧
    (port (popWord (holding 0x2000FFFF { t := some 17592186044415 } State.reset) 1) 1).t = some 17592186044415 ∧
    (port (popWord (holding 0x60000001 { t := some 5 } State.reset) 1) 1).t = some 5 := by decide +kernel
/-- Port 1 in legacy mode, with one word at the head. -/
def legacyOne (w : Nat) : State := setFlag (holding w { lastTh := some 0, w := 1, h := 1, t := some 64 } State.reset) (PORT_CFG 1) 10 true
theorem wit_LegacyStream : isLegacy (legacyOne 0x40000001) 1 = true ∧ (port (popWord (legacyOne 0x40000001) 1) 1).lastTh = some 0 ∧
    nbits 0x40000001 31 30 = 1 ∧ nbits 0x40000001 29 22 = 0 ∧
    flag (setTime (updPort (setArrival (popWord (legacyOne 0x40000001) 1) 1 false) 1 (fun x => { x with tHigh := 1, wraps := 0, lastTh := some 100 })) 1 64)
      (PORT_STATUS 1) 14 = false := by decide +kernel
theorem wit_LegacyStream_event : nbits 0x0000003F 31 30 = 0 ∧ nbits 0x0000003F 7 6 = 0 ∧ nbits 0x0000003F 29 19 < (port (popWord (legacyOne 0x3F) 1) 1).w ∧
    nbits 0x0000003F 18 9 < (port (popWord (legacyOne 0x3F) 1) 1).h ∧ flag (popWord (legacyOne 0x3F) 1) (PORT_STATUS 1) 14 = false ∧
    (port (popWord (legacyOne 0x3F) 1) 1).t = some 64 ∧ (port (popWord (legacyOne 0x80000) 1) 1).w ≤ nbits 0x80000 29 19 := by decide +kernel

/-! ## Witnesses: I3C buses, time -/

/-- A bus 0 with one target, at address 0x10, holding slot 1. -/
def target : I3cTarget := { addr := 0x10, desc := [], slot := some 1, nacks := 2 }
def bused : State := setBus (ready [portPage 0, 0x40000]) 0 { targets := [target] }
theorem wit_Sensor_join : flag (setFlag State.reset (I3C_CFG 0) 7 true) (I3C_CFG 0) 7 = true ∧ freeAddr (bus bused 0).targets = some 0x11 ∧
    freeAddr ((List.range 8).map (fun i => { target with addr := 0x10 + i })) = none ∧ flag (setFlag State.reset (I3C_CFG 0) 7 false) (I3C_CFG 0) 7 = false := by
  decide +kernel
theorem wit_Sensor_hjEn : ∃ s : State, checkAcc s own true 4 (I3C_CFG 7) = .ok ∧ flag s (I3C_CFG 7) 7 = false ∧
    flag (plainWrite s own (I3C_CFG 7) 0x80) (I3C_CFG 7) 7 = true := ⟨setFlag (ready [pageOf (I3C_CFG 7)]) (I3C_CFG 7) 7 false, by decide +kernel⟩
theorem wit_Sensor_hjDis : ∃ s : State, checkAcc s own true 4 (I3C_CFG 7) = .ok ∧ flag s (I3C_CFG 7) 7 = true ∧
    flag (plainWrite s own (I3C_CFG 7) 0) (I3C_CFG 7) 7 = false := ⟨setFlag (ready [pageOf (I3C_CFG 7)]) (I3C_CFG 7) 7 true, by decide +kernel⟩
theorem wit_Sensor_desc : (bus (readDone bused 0 0x10) 0).targets.find? (fun x => x.addr == 0x10) = some target ∧
    3 = ofLe (((List.replicate 12 (0 : Byte) ++ [3]).drop 12).take 1) % 4 ∧ (bus (readDone bused 0 0x10) 0).targets.any (fun x => x.slot == some 3 && x.addr != 0x10) = false ∧
    isLegacy bused 3 = false ∧ disc bused 3 = pEmpty ∧ slotTarget bused 0 1 = some target ∧ isLegacy bused 1 = false := by decide +kernel
theorem wit_Sensor_poll : ∃ s : State, Reached s 255000000 ∧ slotTarget s 0 1 = some target ∧ isLegacy s (4 * 0 + 1) = false ∧ pollAt s 0 target ≤ s.ft :=
  ⟨{ bused with ft := 255000000 }, by decide +kernel⟩
theorem wit_Sensor_timeouts : ∃ s : State, Reached s 50000000 ∧ disc s 1 = pWaiting ∧ (port s 1).enFt + 50000000 ≤ 50000000 ∧
    disc s 2 = pStreaming ∧ (port s 2).lastPkt + fld s (PORT_CFG 2) 31 24 * 1000000 ≤ 50000000 :=
  ⟨setDisc (setDisc (setFld { State.reset with ft := 50000000 } (PORT_CFG 2) 31 24 50) 1 pWaiting) 2 pStreaming, by decide +kernel⟩
theorem wit_Sensor_xfer : ∃ s : State, checkAcc s own true 4 (I3C_XFER_CTRL 0) = .ok ∧ opOn s (I3C_XFER_CTRL 0) = false ∧ nbit (word 0x80018001).toNat 31 = true ∧
    fld (plainWrite s own (I3C_XFER_CTRL 0) (word 0x80018001)) (I3C_XFER_CTRL 0) 5 0 ≠ 0 ∧
    slotTarget (plainWrite s own (I3C_XFER_CTRL 0) (word 0x80018001)) 0 (fld (plainWrite s own (I3C_XFER_CTRL 0) (word 0x80018001)) (I3C_XFER_CTRL 0) 17 16) =
      some target := ⟨setBus (ready [pageOf (I3C_XFER_CTRL 0)]) 0 { targets := [target] }, by decide +kernel⟩
theorem wit_Sensor_xferDone : ∃ s : State, opOn s (I3C_XFER_CTRL 0) = true ∧ (bus s 0).waits = false ∧ slotTarget s 0 (fld s (I3C_XFER_CTRL 0) 17 16) = some target ∧
    flag s (I3C_XFER_CTRL 0) 15 = true ∧ 32 = fld s (I3C_XFER_CTRL 0) 5 0 :=
  ⟨setOp (wrN (setBus State.reset 0 { targets := [target] }) (I3C_XFER_CTRL 0) 0x18020) (I3C_XFER_CTRL 0) true, by decide +kernel⟩
/-- A clock heard on Ethernet port 0 in domain 0, and instance 0, which hears it and locks at its first Sync; the discipline in a state with a
source. -/
def clock0 : PtpFrom := { master := 7, mport := 1, eth := 0, dom := 0, transport := 0 }
def synced (st src : Nat) : State :=
  setFld (setFld (setFld (wrN { State.reset with ft := 5 } (TIME_PT_CFG 0) 0xA0000000) (TIME_PT_CFG 0) 21 16 1) TIME_STATUS 3 0 st) TIME_CTRL 2 0 src
theorem wit_Ptp_few : ∃ s u : State, Reached s 5 ∧ ptHears s 0 clock0 = true ∧ ptTakes s 0 clock0 = true ∧ lostNow s (0 + 1) = false ∧
    u = setPtp (ptMaster s 0 7 1 0) 0 { ptpOf (ptMaster s 0 7 1 0) 0 with
      syncs := satN 1000000 ((ptpOf (ptMaster s 0 7 1 0) 0).syncs + 1), sync := some ((3 : Int) + 0, ptStamp (ptMaster s 0 7 1 0) 0 5) } ∧
    srcSel u ≠ 0 + 1 ∧ (ptpOf u 0).syncs < fld u (TIME_PT_CFG 0) 21 16 ∧ ptState u 0 ≠ dLocked :=
  ⟨setFld (synced dAcquire 2) (TIME_PT_CFG 0) 21 16 2, _, by decide, by decide +kernel, by decide +kernel, by decide +kernel, rfl, by decide +kernel⟩
theorem wit_Ptp_locked (st : Nat) (h : st = dLocked ∨ st = dAcquire) : ∃ s u v : State, ∃ off : Int, Reached s 5 ∧ ptHears s 0 clock0 = true ∧
    ptTakes s 0 clock0 = true ∧ lostNow s (0 + 1) = false ∧
    u = setPtp (ptMaster s 0 7 1 0) 0 { ptpOf (ptMaster s 0 7 1 0) 0 with
      syncs := satN 1000000 ((ptpOf (ptMaster s 0 7 1 0) 0).syncs + 1), sync := some ((3 : Int) + 0, ptStamp (ptMaster s 0 7 1 0) 0 5) } ∧
    off = (5 : Int) - sx 32 (rdN u (TIME_PT_ASYM 0)) - (3 + 0 + (rdN u (TIME_PT_PATH 0) : Int)) ∧ fld u (TIME_PT_CFG 0) 21 16 ≤ (ptpOf u 0).syncs ∧
    v = newSegment (setPtp (setPtState u 0 dLocked) 0 { ptpOf (setPtState u 0 dLocked) 0 with everLocked := true }) 0 5 (-off) ∧
    srcSel u = 0 + 1 ∧ discState u ≠ dHoldover ∧ discState v = st := by
  rcases h with rfl | rfl
  · exact ⟨synced dLocked 1, _, _, _, by decide, by decide +kernel, by decide +kernel, by decide +kernel, rfl, rfl, by decide +kernel, rfl, by decide +kernel⟩
  · exact ⟨synced dAcquire 1, _, _, _, by decide, by decide +kernel, by decide +kernel, by decide +kernel, rfl, rfl, by decide +kernel, rfl, by decide +kernel⟩
theorem wit_Ptp_announce : ∃ s y : State, Reached s 5 ∧ ptHears s 0 clock0 = true ∧ y = hearMaster s 0 clock0 9 1000000000 5 ∧
    ptBest y 0 = some { master := 7, mport := 1, eth := 0, rank := 9, last := 5, annNs := 1000000000 } :=
  ⟨setFld (synced dLocked 1) (TIME_PT_CFG 0) 25 22 3, _, by decide, by decide +kernel, rfl, by decide +kernel⟩
theorem wit_Ptp_timeout : ∃ s : State, Reached s 1100 ∧ (ptpOf s 0).lastAnn = some 100 ∧ 100 + fld s (TIME_PT_CFG 0) 25 22 * (ptpOf s 0).annNs ≤ 1100 :=
  ⟨setPtp (setFld { State.reset with ft := 1100 } (TIME_PT_CFG 0) 25 22 2) 0 { lastAnn := some 100, annNs := 500 }, by decide +kernel⟩
theorem wit_Ptp_delay : ∃ s : State, Reached s 5 ∧ flag s (TIME_PT_CFG 0) 31 = true ∧ flag s (TIME_PT_CFG 0) 26 = false ∧
    (ptpOf s 0).sync = some (3, 5) ∧ (ptpOf s 0).req = some 6 := ⟨setPtp (synced dLocked 1) 0 { sync := some (3, 5), req := some 6 }, by decide +kernel⟩
theorem wit_Ptp_peer : ∃ s : State, Reached s 5 ∧ flag s (TIME_PT_CFG 3) 31 = true ∧ flag s (TIME_PT_CFG 3) 26 = true ∧ (ptpOf s 3).req = some 6 :=
  ⟨setPtp (wrN { State.reset with ft := 5 } (TIME_PT_CFG 3) 0xC4000000) 3 { req := some 6 }, by decide +kernel⟩
/-- PPS input and output enabled, the discipline LOCKED to PPS; FT at 3 s. -/
def pulsed : State := { setFlag (setFlag (setFld (setFld State.reset TIME_STATUS 3 0 dLocked) TIME_CTRL 2 0 5) TIME_PPS_IN 16 true) TIME_PPS_OUT 31 true with
  ft := 3000000000, pps := { acc := some 1999000000 } }
theorem wit_Pps_in : Reached pulsed 3000000000 ∧ lostNow pulsed srcPps = false ∧ flag pulsed TIME_PPS_IN 16 = true ∧ 100 ≤ 100 ∧ pulsed.pps.acc = some 1999000000 ∧
    1999000000 + 999000000 ≤ 3000000000 - fld pulsed TIME_PPS_IN 15 0 ∧ 3000000000 - fld pulsed TIME_PPS_IN 15 0 ≤ 1999000000 + 1001000000 ∧
    srcSel pulsed = srcPps ∧ discState pulsed = dLocked ∧ 2997999999 - fld pulsed TIME_PPS_IN 15 0 < 1999000000 + 999000000 ∧
    1999000000 + 1500000000 < 3499000001 ∧ srcSel (setFld pulsed TIME_CTRL 2 0 1) ≠ srcPps := by decide +kernel
theorem wit_Pps_out : Reached pulsed 3000000000 ∧ ppsScale pulsed = some 3000000000 ∧ fld pulsed TIME_PPS_OUT 29 27 = 0 ∧ flag pulsed TIME_PPS_OUT 31 = true ∧ 2 ≤ discState pulsed ∧
    ((3000000000 : Int) - rdS pulsed TIME_PPS_OUT_OFF) % 1000000000 = 0 := by decide +kernel
theorem wit_Pps_fall : ∃ s : State, Reached s 3000000000 ∧ ppsScale s = some 3000000000 ∧ s.pps.out = true ∧ (s.pps.fall : Int) ≤ 3000000000 :=
  ⟨{ pulsed with pps := { out := true, fall := 3000000000 } }, by decide +kernel⟩
theorem wit_Reference : flag (setFlag State.reset TIME_STATUS 8 true) TIME_STATUS 8 = true ∧ flag (setFlag State.reset TIME_STATUS 8 false) TIME_STATUS 8 = false := by
  decide +kernel
theorem wit_TimeCtrl : ∃ s : State, checkAcc s own true 4 TIME_CTRL = .ok ∧ bits (word 0) 2 0 ≠ srcSel s ∧ bits (word 5) 2 0 ≠ srcSel s ∧ bits (word 0) 2 0 = 0 ∧
    0 < bits (word 5) 2 0 ∧ bits (word 5) 2 0 ≤ 5 ∧ srcEnabled s (bits (word 5) 2 0) = true :=
  ⟨setFlag (setFld (ready [pgTime]) TIME_CTRL 2 0 1) TIME_PPS_IN 16 true, by decide +kernel⟩
theorem wit_Conversion : checkAcc (ready [pageOf TIME_CONV_CTRL]) own true 4 TIME_CONV_CTRL = .ok ∧
    opOn (ready [pageOf TIME_CONV_CTRL]) (keyOf own TIME_CONV_CTRL) = false ∧ nbit (word 0x80000000).toNat 31 = true ∧
    opOn (setOp State.reset (keyOf own TIME_CONV_CTRL) true) (keyOf own TIME_CONV_CTRL) = true := by decide +kernel

/-! ## Witnesses: motion inputs -/

theorem wit_Motion_enc : encOn (setFlag State.reset (MOT_ENC_CFG 7) 31 true) 7 = true ∧ encOn State.reset 7 = false := by decide +kernel
/-- Inertial port 0 in RUN, at FT 3,000. -/
def imuRuns : State := wrN { State.reset with ft := 3000 } (MOT_IMU_STATUS 0) 1
theorem wit_Motion_drdy : Reached imuRuns (100 + 5 * [true].length) ∧ flag (setFlag imuRuns (MOT_IMU_CFG 0) 31 true) (MOT_IMU_CFG 0) 31 = true ∧
    flag imuRuns (MOT_IMU_CFG 0) 31 = false := by decide +kernel
theorem wit_Motion_timer : ∃ s : State, Reached s 3000 ∧ imuState s 0 = imuRun ∧ inBivouac s = false ∧ (imuOf s 0).busy = [] ∧
    flag s (MOT_IMU_CFG 0) 26 = true ∧ rdN s (MOT_IMU_PERIOD 0) ≠ 0 ∧ 3000 % rdN s (MOT_IMU_PERIOD 0) = 0 :=
  ⟨wrN (setFlag imuRuns (MOT_IMU_CFG 0) 26 true) (MOT_IMU_PERIOD 0) 1000, by decide +kernel⟩
theorem wit_Motion_overrun : ∃ s : State, Reached s 3000 ∧ imuState s 0 = imuRun ∧ inBivouac s = false ∧ (imuOf s 0).busy = [(5, 3001)] ∧ 3000 < 3001 :=
  ⟨setImu imuRuns 0 { busy := [(5, 3001)] }, by decide +kernel⟩
theorem wit_Motion_done : ∃ s : State, Reached s 3000 ∧ (imuOf s 0).busy = (5, 3000) :: [] ∧ 3000 ≤ s.ft ∧ flag s (MOT_IMU_CFG 0) 30 = true :=
  ⟨setFlag (setImu imuRuns 0 { busy := [(5, 3000)], nacks := 2 }) (MOT_IMU_CFG 0) 30 true, by decide +kernel⟩
/-- Chain 0 with one value waiting and one line. -/
def fed (en : Bool) : State := setChain (wrN (setFlag { State.reset with ft := 6000 } (MOT_DEC_CFG 0) 31 en) (MOT_DEC_STATUS 0) 2) 0
  { inq := [{ stamp := 2000, vals := [0, 0, 0, 0, 0, 0], gap := false, sat := false }], lines := [[]], cnt := [0], lastIn := some 1000, seen := 1000 }
theorem wit_Chains : (chainOf (fed true) 0).inq = { stamp := 2000, vals := [0, 0, 0, 0, 0, 0], gap := false, sat := false } :: [] ∧
    flag (fed false) (MOT_DEC_CFG 0) 31 = false ∧ flag (fed true) (MOT_DEC_CFG 0) 31 = true ∧ inBivouac (fed true) = false ∧
    (chainOf (fed true) 0).lastIn = some 1000 ∧ decState (setChain (fed true) 0 { chainOf (fed true) 0 with inq := [] }) 0 = cRun := by decide +kernel
theorem wit_Chains_noInput : ∃ s : State, Reached s 6000 ∧ flag s (MOT_DEC_CFG 0) 31 = true ∧ decState s 0 = cRun ∧ inBivouac s = false ∧
    (chainOf s 0).seen + 4 * decTin s 0 ≤ s.ft := ⟨wrN (fed true) (MOT_IMU_PERIOD 0) 1000, by decide +kernel⟩

/-! ## Witnesses: fusion and registration -/

/-- The instant period 100 µs, the issue delay 20 µs, the last instant 1, bar 0 enabled with instant 2 next. -/
def fused (now : Nat) : State :=
  { setBar (setFlag (setFld (setFld State.reset FUS_CTRL 21 12 100) FUS_CTRL 11 4 20) (FUS_BAR_CFG 0) 31 true) 0 { nextK := some 2 } with
    ft := now, fus := { lastT := some 100000 } }
theorem wit_Instants_before : Reached (fused 219999) 219999 ∧ outDue (fused 219999) = fused 219999 ∧
    (fused 219999).ft < 2 * fusPeriod (fused 219999) + issueDly (fused 219999) := by decide +kernel
theorem wit_Instants_at : ∃ s u : State, Reached s 220000 ∧ outDue s = s ∧ 2 * fusPeriod s + issueDly s ≤ s.ft ∧ nextInstant s 2 = true ∧
    u = computeInstant s 2 ∧ u.fus.lastT = some (2 * fusPeriod u) := ⟨fused 220000, _, by decide, by decide +kernel, by decide +kernel, by decide +kernel, rfl, by decide +kernel⟩
/-- A sample of inertial slot 0, due at 0. -/
def late0 : ChainOut := { seq := 0, num := 0, due := 0, x := { stamp := 0, vals := [], gap := false, sat := false } }
/-- BELAY, the bar's inertial slot 0 on chain 1, which runs and owes a sample for instant 2 that is not visible. -/
def held : State :=
  setChain (wrN (setFld (setFld (setFlag { fused 1000000 with fus := { lastT := some 200000 } } (FUS_BAR_INS 0) 7 true) (FUS_BAR_INS 0) 3 0 1)
    GLB_MODE_STAT 2 0 3) (MOT_DEC_STATUS 1) 2) 1 { outs := [late0], made := 1 }
theorem wit_Instants_belay : ∃ s : State, Reached s 1000000 ∧ (bar s 0).nextK = some 2 ∧ s.fus.lastT = some 200000 ∧
    2 * fusPeriod s ≤ 200000 ∧ barOn s 0 = true ∧ holds s 0 2 = true ∧ 2 * fusPeriod s + issueDly s + fld s FUS_LATE 15 0 * 1000 ≤ s.ft :=
  ⟨setFld held FUS_LATE 15 0 500, by decide +kernel⟩
theorem wit_Instants_late : Reached held 1000000 ∧ (bar held 0).nextK = some 2 ∧ insChain held 0 0 = some 1 ∧ barOn held 0 = true ∧ inBivouac held = false ∧
    untaken held 1 (insSlot held 0 0) = late0 :: [] ∧ instantOf held late0.due < 2 := by decide +kernel
theorem wit_Bars_enable : ∃ s u : State, checkAcc s own true 4 (FUS_BAR_CFG 7) = .ok ∧ disPend s (FUS_BAR_CFG 7) = false ∧
    u = plainWrite s own (FUS_BAR_CFG 7) 0x80010000 ∧ flag s (FUS_BAR_CFG 7) 31 = false ∧ (0x80010000 : Word).toNat / 2 ^ 31 % 2 = 1 ∧ barRefuse 7 u = none :=
  ⟨setFld (setFlag (ready [pageOf (FUS_BAR_CFG 7)]) (FUS_BAR_PORTS 7) 0 true) (FUS_GRID_CTRL 0) 15 0 1, _, by decide +kernel, by decide +kernel, rfl, by decide +kernel⟩
theorem wit_Bars_refused : barRefuse 7 (plainWrite (ready [pageOf (FUS_BAR_CFG 7)]) own (FUS_BAR_CFG 7) 0x80010000) = some 0x010B := by decide +kernel
theorem wit_Bars_disable : ∃ s : State, checkAcc s own true 4 (FUS_BAR_CFG 7) = .ok ∧ disPend s (FUS_BAR_CFG 7) = false ∧ flag s (FUS_BAR_CFG 7) 31 = true ∧
    (0 : Word).toNat / 2 ^ 31 % 2 = 0 := ⟨setFlag (ready [pageOf (FUS_BAR_CFG 7)]) (FUS_BAR_CFG 7) 31 true, by decide +kernel⟩
/-- An event of port 3, and bar 0 over port 3 with a history. -/
def ev (stamp : Nat) : WEvent := { stamp := stamp, u := 0, v := 0, pol := true, gap := false, arrival := false, unlocked := false, w := 1, h := 1 }
def rslt (k t : Nat) : Issued :=
  { k := k, t := t, s := 0, l := 0, th := 0, dx := 0, dy := 0, rz := 0, q := [], disp := 0, fall := 0, held := 0, amended := 0, ins := {} }
def barred (e : WEvent) (h : List Issued) (first : Nat) : State :=
  setBar (setFlag (setFlag (setPort State.reset 3 { waiting := [e], finalDue := true }) (FUS_BAR_CFG 0) 31 true) (FUS_BAR_PORTS 0) 3 true) 0
    { hist := h, firstT := some first }
theorem wit_Events : srcBlocked (barred (ev 10) [] 0) 3 = false ∧ (port (barred (ev 10) [] 0) 3).old = none ∧
    (port (barred (ev 10) [] 0) 3).waiting = ev 10 :: [] ∧ barOf State.reset 3 = none ∧ barOf (barred (ev 10) [] 0) 3 = some 0 ∧
    16 * (ev 10).stamp < (bar (portMark (barred (ev 10) [] 161) 3 0) 0).firstT.getD 0 ∧
    (bar (portMark (barred (ev 10) [] 160) 3 0) 0).firstT.getD 0 ≤ 16 * (ev 10).stamp := by decide +kernel
theorem wit_Events_blocked : ∃ s : State, srcBlocked s 3 = true := ⟨{ State.reset with hops := [(srcPlace 3, [{ w := { w := 0, base := 0, src := 3, ext := 0 }, ds := [] }])] }, by decide +kernel⟩
theorem wit_Events_old0 : ∃ s : State, srcBlocked s 3 = false ∧ (port s 3).old ≠ none ∧ (port (endStream s 3) 3).old = none  :=
  ⟨setPort State.reset 3 { finalDue := true, old := some 0 }, by decide +kernel⟩
theorem wit_Events_placed : around (portMark (barred (ev 10) [rslt 1 1000, rslt 0 100] 100) 3 0) 0 (16 * (ev 10).stamp) = some (rslt 0 100, rslt 1 1000) := by
  decide +kernel
theorem wit_Events_old : ∃ u : State, u = portMark (barred (ev 10) (List.replicate 1024 (rslt 1 161)) 160) 3 0 ∧ around u 0 (16 * (ev 10).stamp) = none ∧
    (bar u 0).hist.length = 1024 ∧ (bar u 0).hist.all (fun q => decide (16 * (ev 10).stamp < q.t)) = true := ⟨_, rfl, by decide +kernel⟩
theorem wit_Events_wait : ∃ u : State, u = portMark (barred (ev 10) [] 160) 3 0 ∧ around u 0 (16 * (ev 10).stamp) = none ∧ (bar u 0).hist.length < 1024 :=
  ⟨_, rfl, by decide +kernel⟩
theorem wit_Events_final : ∃ u : State, u = portMark (setPort (barred (ev 10) [] 160) 3 { finalDue := true }) 3 0 ∧ (port u 3).finalDue = true ∧ (port u 3).buf = [] ∧
    (port u 3).spill = [] ∧ (port u 3).waiting = [] ∧ (port (portMark (setPort (barred (ev 10) [] 160) 3 {}) 3 0) 3).finalDue = false := ⟨_, rfl, by decide +kernel⟩
theorem wit_Grids_commit : checkAcc (ready [pageOf (FUS_GRID_CTRL 31)]) own true 4 (FUS_GRID_CTRL 31) = .ok ∧ nbit (word 0x80000000).toNat 31 = true := by decide +kernel
theorem wit_Grids_refused : ∃ c : Nat, commitRefuse (setFlag State.reset (FUS_GRID_CTRL 31) 18 true) 31 true = some c ∨
    commitRefuse (setFlag State.reset (FUS_GRID_CTRL 31) 17 true) 31 true = some c := ⟨_, .inr (by rfl)⟩
theorem wit_Grids_clear : ∃ s : State, s.fus.grids.find? (fun x => x.1 == 5) = some (5, 160) ∧ gridPend s 5 = true ∧ 160 ≤ 16 * (port s 5).lastStamp ∧
    (port s 5).waiting.all (fun e => decide (160 ≤ 16 * e.stamp)) = true :=
  ⟨setPort { setFlag State.reset (FUS_GRID_CTRL 5) 17 true with fus := { grids := [(5, 160)] } } 5 { lastStamp := 10, waiting := [ev 10] }, by decide +kernel⟩
theorem wit_Grids_mark : ∃ s : State, isLegacy (setFlag s (PORT_CFG 3) 10 true) 3 = true ∧ isLegacy s 3 = false ∧ (∃ b, barOf s 3 = some b) ∧ (port s 3).w ≠ 0 ∧
    (port s 3).h ≠ 0 := ⟨setPort (barred (ev 10) [] 0) 3 { w := 1, h := 1 }, by decide +kernel, by decide +kernel, ⟨0, by decide +kernel⟩, by decide +kernel⟩
theorem wit_Grids_cycle : ∃ s : State, Reached s 10000000 ∧ 10000000 = s.ft / (fld s FUS_REF_CFG 31 16 * 1000000) * (fld s FUS_REF_CFG 31 16 * 1000000) ∧
    s.fus.lastCycle < 10000000 := ⟨{ setFld State.reset FUS_REF_CFG 31 16 10 with ft := 10000000 }, by decide +kernel⟩

/-! ## Witnesses: the event fabric -/

/-- A fabric word of a kind at a base FT. -/
def fw (kind dt : Nat) : FabWord := { w := quad (64 * kind + dt * 2 ^ 40), base := 0, src := 3, ext := 0 }
theorem wit_Spikes : fanBlocked (setFanQ State.reset 0 [fw kindSpike 0]) 0 = false ∧ fanQ (setFanQ State.reset 0 [fw kindSpike 0]) 0 = fw kindSpike 0 :: [] ∧ kindOf (fw kindSpike 0).w ≠ kindMark ∧
    kindOf (fw kindMark 0).w = kindMark ∧ (pinOf State.reset (qf (fw kindSpike 0).w 39 18)).v = false := by decide +kernel
theorem wit_Regions_write : ∃ s u : State, checkAcc s own true 4 FAB_RGN_CTRL = .ok ∧ u = plainWrite s own FAB_RGN_CTRL (putBits (word 0x800000FF) 31 30 0) ∧
    fld u FAB_RGN_CTRL 7 0 = 255 ∧ nbit (word 0x800000FF).toNat 31 = true ∧ nbit (word 0x800000FF).toNat 30 = false ∧ rgnRefuse u (fld u FAB_RGN_CTRL 7 0) = none :=
  ⟨ready [pageOf FAB_RGN_CTRL], _, by decide +kernel, rfl, by decide +kernel⟩
theorem wit_Regions_refused : ∃ s : State, rgnRefuse s 255 = some 0x0101 ∧ nbit (word 0x400000FF).toNat 31 = false ∧ nbit (word 0x400000FF).toNat 30 = true :=
  ⟨wrN State.reset (FAB_RGN_DATA 0) (2 ^ 13), by decide +kernel⟩
theorem wit_Slots_enable : ∃ s u : State, checkAcc s own true 4 (slotCfg 127 7) = .ok ∧ disPend s (slotCfg 127 7) = false ∧ flag s (slotCfg 127 7) 31 = false ∧
    (0x80000000 : Word).toNat / 2 ^ 31 % 2 = 1 ∧ u = plainWrite s own (slotCfg 127 7) 0x80000000 := ⟨ready [pageOf (slotCfg 127 7)], _, by decide +kernel, by decide +kernel, by decide +kernel, by decide +kernel, rfl⟩
/-- Slot 0 of tile 0, which runs: a count surface of 1 × 1 cells with windows of 1 µs, first window from B = 1000, with state x; FT at 200,000. -/
def slotted (x : SlotSt) : State :=
  setSlot (setFld (setFld { ready [tilePage 0] with ft := 200000 } (slotCfg 0 0) 30 28 1) (slotWin 0 0) 31 16 1) 0 0 x
theorem wit_Slots_sound : slotRefuse 0 0 (slotted {}) = none ∧ slotRefuse 0 0 (setFld (slotted {}) (slotCfg 0 0) 30 28 5) = some errReservedEnc ∧
    slotRefuse 0 0 State.reset = some 0x0102 := by decide +kernel
/-- A slot whose first window starts at 992 with an event of the first microsecond waiting. -/
def slotEv : SlotSt := { b := some 992, inq := [fw kindEvent 63] }
theorem wit_Slots_apply : ∃ s u : State, sbRuns s 0 = true ∧ (slotOf s 0 0).b = some 992 ∧
    takeWord (mayApply s 0 0 992) [] (slotOf s 0 0).inq = some (fw kindEvent 63, []) ∧
    u = settle (setSlot s 0 0 { slotOf s 0 0 with inq := [], known := knowSrc (slotOf s 0 0).known (fw kindEvent 63) }) ∧ isData (fw kindEvent 63) = true ∧
    1 = winOf s 0 0 992 (stampOf (fw kindEvent 63)) ∧ (slotOf s 0 0).closed < 1 ∧
    takeWord (mayApply (slotted { slotEv with closed := 1 }) 0 0 992) [] slotEv.inq = some (fw kindEvent 63, []) ∧
    1 ≤ (slotOf (slotted { slotEv with closed := 1 }) 0 0).closed :=
  ⟨slotted slotEv, _, by decide +kernel, by decide +kernel, by decide +kernel, rfl, by decide +kernel⟩
theorem wit_Slots_close : ∃ s : State, Reached s 2000 ∧ (slotOf s 0 0).b = some 992 ∧ sbRuns s 0 = true ∧ (slotOf s 0 0).ready = true ∧
    takeWord (mayApply s 0 0 992) [] (slotOf s 0 0).inq = none ∧ knownMarks s 0 0 ≠ [] ∧
    (knownMarks s 0 0).all (fun m => decide (winEnd s 0 0 992 ((slotOf s 0 0).closed + 1) ≤ m)) = true :=
  ⟨slotted { b := some 992, known := [(3, 1992, false)] }, by decide +kernel⟩
theorem wit_Slots_closeFinal : ∃ s : State, Reached s 2000 ∧ (slotOf s 0 0).b = some 992 ∧ sbRuns s 0 = true ∧ (slotOf s 0 0).ready = true ∧
    takeWord (mayApply s 0 0 992) [] (slotOf s 0 0).inq = none ∧ knownMarks s 0 0 = [] ∧
    winEnd s 0 0 992 ((slotOf s 0 0).closed + 1) ≤ s.ft := ⟨slotted { b := some 992, known := [(3, 0, true)] }, by decide +kernel⟩
theorem wit_Slots_timeout : ∃ s : State, Reached s 2993 ∧ (slotOf s 0 0).b = some 992 ∧ sbRuns s 0 = true ∧ inBelay s = false ∧
    winEnd s 0 0 992 ((slotOf s 0 0).closed + 1) + fld s (SB_CLOSE_TMO 0) 15 0 * 1000 < s.ft :=
  ⟨setFld (slotted slotEv) (SB_CLOSE_TMO 0) 15 0 1, by decide +kernel⟩
theorem wit_Slots_prepare : ∃ s : State, Reached s 200000 ∧ (slotOf s 0 0).b = some 992 ∧ (slotOf s 0 0).ready = false ∧ sbRuns s 0 = true ∧
    (slotOf s 0 0).met = true := ⟨slotted { b := some 992, ready := false, met := true, closed := 1 }, by decide +kernel⟩
theorem wit_Slots_stall : ∃ s : State, Reached s 100001 ∧ (slotOf s 0 0).b = some 992 ∧ (slotOf s 0 0).ready = false ∧ (slotOf s 0 0).met = false ∧
    waitDone s (slotWait s (8 * 0 + 0, slotOf s 0 0)) = false ∧ (slotOf s 0 0).stallPulsed = false ∧ (slotOf s 0 0).waitFt.getD s.ft + 100000 < s.ft :=
  ⟨setAnc (slotted { b := some 992, ready := false, closed := 2, waitFt := some 0 }) 1 { owner := 0 }, by decide +kernel⟩
theorem wit_Slots_stalled : ∃ s : State, Reached s 100001 ∧ (slotOf s 0 0).b = some 992 ∧ (slotOf s 0 0).ready = false ∧ (slotOf s 0 0).met = false ∧
    waitDone s (slotWait s (8 * 0 + 0, slotOf s 0 0)) = false ∧ s.ft ≤ (slotOf s 0 0).waitFt.getD s.ft + 100000 :=
  ⟨setAnc (slotted { b := some 992, ready := false, closed := 2, waitFt := some 100000 }) 1 { owner := 0 }, by decide +kernel⟩

/-! ## Witnesses: neuron cores -/

/-- Core 0 enabled and READY, its first step begun: steps of 1 µs from 1000, no stretch allowed beyond `m` + 1. -/
def running (m : Nat) (x : NcSt) : State :=
  setNc (setFlag (setFld (wrN { ready [ncPage 0] with ft := 2008 } (NC_STEP 0) 1) (NC_STEP 0) 13 12 m) (PAGE_CTRL (ncPage 0)) 0 true) 0 x
def stepOpen : NcSt := { b := some 1008, stepStart := 1008, n := 1 }
theorem wit_Cores_words : ∃ u : State, u = settle (updNc (setNcIn (setNcIn (running 0 stepOpen) 0 [fw kindEvent 63]) 0 []) 0 (fun x => { x with known := knowPos x.known (fw kindEvent 63) })) ∧
    ncIn (setNcIn (running 0 stepOpen) 0 [fw kindEvent 63]) 0 = fw kindEvent 63 :: [] ∧ ncRuns (setNcIn (running 0 stepOpen) 0 [fw kindEvent 63]) 0 = true ∧
    (ncOf (running 0 stepOpen) 0).b = some 1008 ∧ isData (fw kindEvent 63) = true ∧ isData (fw kindMark 63) = false ∧
    effStamp u 0 (fw kindEvent 62) < (ncOf u 0).b.getD 0 ∧ (ncOf u 0).stepStart ≤ effStamp u 0 (fw kindEvent 63) ∧
    effStamp u 0 (fw kindEvent 63) < stepEnd u 0 ∧ effStamp u 0 (fw kindEvent 125) < stepEnd u 0 ∧ stepEnd u 0 ≤ effStamp u 0 (fw kindEvent 126) :=
  ⟨_, rfl, by decide +kernel⟩
theorem wit_Cores_close : ∃ s : State, Reached s 2008 ∧ mayClose s 0 = true ∧ stepComplete s 0 = true :=
  ⟨running 0 { stepOpen with known := [(3, 2008, false)] }, by decide +kernel⟩
/-- At the due time, one word short of the step's end, with the threshold at `thr` × 16 ns. -/
def dueCore (m thr : Nat) : State := wrN (running m { stepOpen with known := [(3, 2007, false)] }) (NC_STRETCH 0) thr
theorem wit_Cores_due : Reached (dueCore 0 1) 2008 ∧ mayClose (dueCore 0 1) 0 = true ∧ stepComplete (dueCore 0 1) 0 = false ∧
    (ncOf (dueCore 0 1) 0).belay = false ∧ dueTime (dueCore 0 1) 0 ≤ (dueCore 0 1).ft ∧ fld (dueCore 0 1) (NC_STRETCH 0) 25 24 = 0 ∧
    stepEnd (dueCore 0 1) 0 - frontier (dueCore 0 1) 0 ≤ fld (dueCore 0 1) (NC_STRETCH 0) 23 0 * 16 := by decide +kernel
theorem wit_Cores_stretch : Reached (dueCore 1 0) 2008 ∧ mayClose (dueCore 1 0) 0 = true ∧ stepComplete (dueCore 1 0) 0 = false ∧ fld (dueCore 1 0) (NC_STRETCH 0) 23 0 * 16 < stepEnd (dueCore 1 0) 0 - frontier (dueCore 1 0) 0 ∧
    (ncOf (dueCore 1 0) 0).n < fld (dueCore 1 0) (NC_STEP 0) 13 12 + 1 ∧ dueTime (dueCore 1 0) 0 ≤ (dueCore 1 0).ft := by decide +kernel
theorem wit_Cores_drop : Reached (dueCore 0 0) 2008 ∧ mayClose (dueCore 0 0) 0 = true ∧ stepComplete (dueCore 0 0) 0 = false ∧ fld (dueCore 0 0) (NC_STRETCH 0) 23 0 * 16 < stepEnd (dueCore 0 0) 0 - frontier (dueCore 0 0) 0 ∧
    fld (dueCore 0 0) (NC_STEP 0) 13 12 + 1 ≤ (ncOf (dueCore 0 0) 0).n ∧ dueTime (dueCore 0 0) 0 ≤ (dueCore 0 0).ft := by decide +kernel
theorem wit_Microinstructions : (uopSt State.reset 511).sat = 0 ∧ (uopSt State.reset 511).skip = 0 ∧
    0 < (uopSt { State.reset with uop := [(511, { skip := 31 })] } 511).skip := by decide +kernel
/-- An integer class with the constant 100 in every place. -/
def env : UopEnv := { fp := false, resid := false, k := fun _ => 100, lut := fun _ => 0 }
def uf (d a b k : Nat) (x : Bool) (c imm : Nat) : UopF := { d := d, a := a, b := b, k := k, x := x, c := c, imm := imm }
theorem wit_IntegerResults : env.fp = false ∧ ({} : UopSt).r.length = 8 ∧ (uf 7 0 1 0 true 0 31).d < 8 ∧ cond {} (uf 7 0 1 0 true 1 31).c = true ∧ ({} : UopSt).q = false ∧
    0 < bkInt env {} (uf 7 0 1 0 true 0 31) ∧ (0 : Int) ≤ uint {} 0 ∧ uint {} 0 / bkInt env {} (uf 7 0 1 0 true 0 31) < 5 ∧
    uint { ({} : UopSt) with r := [499, 0, 0, 0, 0, 0, 0, 0] } 0 / bkInt env {} (uf 7 0 1 0 true 0 31) < 5 := by decide +kernel

/-! ## Witnesses: tensor tiles -/

/-- Tile 0 READY with state x. -/
def tiled (x : TileSt) : State := setTile (ready [tilePage 0]) 0 x
def queued (c : TileCmd) : QueueSt := { cmds := [c], started := true }
theorem wit_TileCommands : ∃ s : State, Reached s 0 ∧ tileRuns s 0 = true ∧ (queueOf (tileOf s 0) 1).cmds = tcmd [(7, 1)] :: [] ∧
    (queueOf (tileOf s 0) 1).started = false ∧ (queueWaits (queueOf (tileOf s 0) 1)).all (waitDone s) = true ∧
    releasedBad s (queueOf (tileOf s 0) 1).met (queueWaits (queueOf (tileOf s 0) 1)) = true :=
  ⟨setAnc (tiled { vq := { cmds := [tcmd [(7, 1)]] } }) 7 { owner := 0, fault := true }, by decide +kernel⟩
theorem wit_TileCommands_complete : ∃ s : State, Reached s 0 ∧ tileRuns s 0 = true ∧ (queueOf (tileOf s 0) 2).cmds = tcmd [] :: [] ∧
    (queueOf (tileOf s 0) 2).status = some 0 ∧ ((2 : Nat) ≠ 2 ∨ (tileOf s 0).flight = []) :=
  ⟨tiled { sq := { cmds := [tcmd []], started := true, status := some 0 } }, by decide +kernel⟩
/-- The words of a window command: word 0, kernel edge, stride, image edge, lines of output, word 16 and the first line. -/
def win (w0 k st img on w16 i0 : Nat) : List Nat :=
  [w0, 0x10001, img * 0x10001, k * 0x4100000 + st * 0x11000 + 0x110, 0, 0x10000, k * 0x24000, i0 * 65536 + on, i0 * 65536 + (img - i0), 0, 64, 128, 0, 192, 0, 0,
    w16, 256, 256, 1] ++ List.replicate 12 0
def convW : List Nat := win (0x1000000 + 4 * 0x80000 + 4 * 0x4000 + 7 * 0x200) 1 1 1 1 0 0
def poolW (op : Nat) : List Nat := win (op * 0x1000000 + 15 * 0x80000 + 15 * 0x200) 2 1 2 1 0 0
def upW (op : Nat) : List Nat := win (op * 0x1000000 + 15 * 0x80000 + 15 * 0x200) 1 2 1 2 0 0
/-- The same convolution on the second of two lines, with one line of halo below it. -/
def haloW : List Nat := win (0x1000000 + 4 * 0x80000 + 4 * 0x4000 + 7 * 0x200) 1 1 2 1 0x400000 1
def wcmd (ws : List Nat) : TileCmd := { tcmd [] with work := .window ws }
def inTq (ws : List Nat) : State := tiled { tq := queued (wcmd ws) }
def inVq (ws : List Nat) : State := tiled { vq := queued (wcmd ws) }
/-- WW_LAST_OUT written with the output size, as a window command leaves it before its work. -/
def sizedAt (s : State) (ws : List Nat) : State :=
  wrN s (WW_LAST_OUT 0) (if (winCmd ws).sized ws then (winCmd ws).oh.toNat % 65536 * 65536 + (winCmd ws).ow.toNat % 65536 else 0)
/-- The same with its halo headers read. -/
def zAt (s : State) (ws : List Nat) : State := correct (sizedAt s ws) ((winCmd ws).headSpans (tileAt 0))
theorem wit_Windows_conv : (winCmd convW).check (inTq convW) convW (tileAt 0) = none ∧ openHead (inTq convW) 0 0 = some (wcmd convW) ∧ (winCmd convW).op = opConv ∧
    badSpan (sizedAt (inTq convW) convW) ((winCmd convW).headSpans (tileAt 0)) = none ∧
    (winCmd convW).halosOk (zAt (inTq convW) convW) (tileAt 0) 0 0 0 = true ∧
    badSpan (zAt (inTq convW) convW) ((winCmd convW).actSpans (inTq convW) (tileAt 0) ++
      (winCmd convW).paramSpans ((pairK (winCmd convW).a (winCmd convW).w).getD 32) (tileAt 0)) = none := by decide +kernel
theorem wit_Windows_check : (winCmd (win 0x1000000 1 1 1 1 0 0)).check (inTq (win 0x1000000 1 1 1 1 0 0)) (win 0x1000000 1 1 1 1 0 0) (tileAt 0) = some stReserved ∧
    (winCmd (win 0x1000000 1 1 1 1 0 0)).op = opConv ∧ (winCmd (win 0x4000000 1 1 1 1 0 0)).op = opUpNearest := by decide +kernel
theorem wit_Windows_halo : (winCmd haloW).check (inTq haloW) haloW (tileAt 0) = none ∧
    badSpan (sizedAt (inTq haloW) haloW) ((winCmd haloW).headSpans (tileAt 0)) = none ∧
    (winCmd haloW).halosOk (zAt (inTq haloW) haloW) (tileAt 0) 0 0 0 = false ∧ openHead (inTq haloW) 0 0 = some (wcmd haloW) := by decide +kernel
theorem wit_Windows_pool : (∀ op ∈ [opPoolMax, opPoolAvg], (winCmd (poolW op)).check (inVq (poolW op)) (poolW op) (tileAt 0) = none ∧
    openHead (inVq (poolW op)) 0 1 = some (wcmd (poolW op)) ∧ (winCmd (poolW op)).op = op ∧
    (winCmd (poolW op)).halosOk (zAt (inVq (poolW op)) (poolW op)) (tileAt 0) 0 0 0 = true ∧
    badSpan (zAt (inVq (poolW op)) (poolW op)) ((winCmd (poolW op)).actSpans (inVq (poolW op)) (tileAt 0)) = none) := by decide +kernel
theorem wit_Windows_up : (∀ op ∈ [opUpNearest, opUpBilinear], (winCmd (upW op)).check (inVq (upW op)) (upW op) (tileAt 0) = none ∧
    openHead (inVq (upW op)) 0 1 = some (wcmd (upW op)) ∧ (winCmd (upW op)).op = op ∧
    (winCmd (upW op)).halosOk (zAt (inVq (upW op)) (upW op)) (tileAt 0) 0 0 0 = true ∧
    badSpan (zAt (inVq (upW op)) (upW op)) ((winCmd (upW op)).upSpans (inVq (upW op)) (tileAt 0)) = none) := by decide +kernel
/-- What the vector statements ask of their operands. -/
def goodVec (s : State) (l : List Tens) (x : List (Nat × Nat)) : Prop := l.all (fun o => dataFmt o.f) = true ∧
  (l.flatMap tensSpan ++ x).any (fun e => decide (tileAt 0 + tileSize < e.1 + e.2)) = false ∧ badSpan s (l.flatMap tensSpan ++ x) = none
def inVec (op : Nat) : State := tiled { vq := queued { tcmd [] with work := .vector (vec op) } }
theorem wit_Vector : openHead (inVec 16) 0 1 = some { tcmd [] with work := .vector (vec 16) } ∧ 0 < (vec 16).chans * (vec 16).plane ∧ dataFmt (vec 16).oFmt = true ∧
    tileAt 0 + (vec 16).o + (vecT (vec 16) 15 (tileAt 0 + (vec 16).o)).size ≤ tileAt 0 + tileSize := by decide +kernel
theorem wit_Vector_good : goodVec (inVec 4) [vecT (vec 4) 15 (tileAt 0), vecT (vec 4) 15 (tileAt 0 + 64), vecT (vec 4) 15 (tileAt 0 + 128)] [] ∧
    goodVec (inVec 1) [vecT (vec 1) 15 (tileAt 0), vecT (vec 1) 15 (tileAt 0 + 64)] [] ∧ goodVec (inVec 7) [vecT (vec 7) 15 (tileAt 0)] [] ∧
    goodVec (inVec 14) [vecT (vec 14) 15 (tileAt 0)] [(tileAt 0 + 128, 1028)] ∧ goodVec (inVec 16) [vecT (vec 16) 15 (tileAt 0)] [(tileAt 0 + 128, 8)] := by
  unfold goodVec; decide +kernel
theorem wit_Reductions : openHead (inVec 20) 0 1 = some { tcmd [] with work := .vector (vec 20) } ∧ dataFmt (vec 20).aFmt = true ∧ 0 < (vec 20).chans * (vec 20).plane ∧ 0 < (redOut (vec 20) (tileAt 0)).c * (redOut (vec 20) (tileAt 0)).x ∧
    (redOut (vec 20) (tileAt 0)).base + (redOut (vec 20) (tileAt 0)).size ≤ tileAt 0 + tileSize ∧
    badSpan (inVec 20) [(tileAt 0, (vecT (vec 20) 15 (tileAt 0)).size)] = none := by decide +kernel
/-- A transfer of one row of 64 bytes from LPDDR5X to tile 0's SRAM. -/
def xfer : StashXfer := { src := .mem 0, dst := .tile 0 0, rows := 1, rowBytes := 64, srcPitch := 64, dstPitch := 64 }
def scmd (x : StashXfer) : TileCmd := { tcmd [] with work := .stash x }
theorem wit_Stash : openHead (tiled { sq := queued (scmd xfer) }) 0 2 = some (scmd xfer) ∧ stashCheck 0 xfer = none ∧ stashCheck 0 { xfer with rowBytes := 63 } = some stReserved ∧
    (tileOf (tiled { sq := queued (scmd xfer) }) 0).flight.length < 4 := by decide +kernel
theorem wit_Stash_done : ∃ s : State, Reached s 0 ∧ s.pwr.pause = none ∧ (tileOf s 0).flight = scmd xfer :: [] ∧
    isMem xfer.src = true ∧ (srcSpans xfer).any (fun e => memBad s e.1 e.2) = false := ⟨tiled { flight := [scmd xfer] }, by decide +kernel⟩
theorem wit_Stash_back : isMem (.tile 0 0) = false ∧ badSpan (tiled { flight := [scmd { xfer with src := .tile 0 0, dst := .mem 0 }] })
    (srcSpans { xfer with src := .tile 0 0, dst := .mem 0 }) = none := by decide +kernel
theorem wit_Scrub : ∃ s : State, Reached s 0 ∧ flag s (CC_SCRUB 7) 31 = true ∧ s.pwr.pause = none ∧ unitState s (ccPage 7) ≠ stOff ∧
    tget natD s.scrubs 7 + fld s (CC_SCRUB 7) 7 0 * 1000000000 ≤ s.ft :=
  ⟨setFld (setFlag { ready [ccPage 7] with ft := 1000000000 } (CC_SCRUB 7) 31 true) (CC_SCRUB 7) 7 0 1, by decide +kernel⟩
theorem wit_Retention : (tileOf (tiled { crcs := [1] }) 0).crcs ≠ [] ∧ unitState (tiled { crcs := [1] }) (tilePage 0) ≠ stOff := by decide +kernel
theorem wit_Sleep : (tileOf (tiled {}) 0).asleep = false ∧ (tiled {}).jobs.any (fun j => j.plan.tiles.contains 0) = false ∧ unitState (tiled {}) (tilePage 0) = stReady ∧
    tileBusy (tiled {}) 0 = false ∧ (tileOf (tiled { asleep := true }) 0).asleep = true := by decide +kernel

/-! ## Witnesses: lean settings and the shadow checker -/

/-- In LEAN`n` with a pending evaluation at 1 ms. -/
def leanAt (n h clean : Nat) : State := { setFld (setFld State.reset APX_LEAN_STAT 2 0 n) APX_LEAN_STAT 20 18 h with lean := { clean := clean }, ft := 1000000000000 }
/-- The state that an evaluation with 10,000 beats and `n` replays of tensor engine 0 sees. -/
def evalAt (s : State) (n : Nat) : State :=
  let r := wrN (countReplays (updLean s (fun l => { l with last := s.ft })) [(0, n)] [] 10000) APX_REPLAY_RATE
    (satN 0xFFFFFFFF (n * 4294967296 / 10000))
  bump r (APX_RES_MS (leanCur r))
theorem wit_Lean_due : Reached (leanAt 1 1 0) 0 ∧ (leanAt 1 1 0).pwr.pause = none ∧ (leanAt 1 1 0).lean.last + 1000000 ≤ (leanAt 1 1 0).ft ∧
    inBivouac (evalAt (leanAt 1 1 0) 2) = false := by decide +kernel
theorem wit_Lean_ceiling : inBelay (evalAt (leanAt 1 1 0) 2) = false ∧ ceilOf (settingP (evalAt (leanAt 1 1 0) 2)) = some (1, 10000) ∧ 1 * 10000 < 2 * 10000 := by
  decide +kernel
theorem wit_Lean_up : ceilOf (settingP (evalAt (leanAt 1 1 1) 1)) = some (1, 10000) ∧ 1 * 10000 ≤ 1 * 10000 ∧ leanOvr (evalAt (leanAt 1 1 1) 1) ≠ 2 ∧
    leanH (evalAt (leanAt 1 1 1) 1) < 4 ∧ max (evalAt (leanAt 1 1 1) 1).lean.tDown (evalAt (leanAt 1 1 1) 1).lean.tUp +
      hystNs (evalAt (leanAt 1 1 1) 1) * leanMult (evalAt (leanAt 1 1 1) 1) ≤ (evalAt (leanAt 1 1 1) 1).ft ∧ 1 ≤ (evalAt (leanAt 1 1 1) 1).lean.clean ∧
    (evalAt (leanAt 1 1 0) 1).lean.clean = 0 := by decide +kernel
def smp : Sample := { neuron := false, setting := 3, unit := 0, place := 0, seq := 0, ft := 0, bytes := 64, final := [0] }
def sampled : State := bumpWide State.reset APX_CHK_CMP_LO 1
theorem wit_Lean_compare : ∃ s u : State, Reached s 0 ∧ s.samples = smp :: [] ∧ u = bumpWide { s with samples := [] } APX_CHK_CMP_LO 1 ∧
    fld u APX_CHK_WIN 11 0 ≠ 4095 ∧ smp.setting ≠ settingP u ∧ [word 0] = recompute smp ∧
    smp.final.zipIdx.map (fun e => e.1 ^^^ word (0 / 2 ^ (32 * e.2) % 4294967296)) = [word 0] ∧
    smp.final.zipIdx.map (fun e => e.1 ^^^ word (1 / 2 ^ (32 * e.2) % 4294967296)) ≠ recompute smp := ⟨{ State.reset with samples := [smp] }, _, by decide, by decide +kernel, rfl, by decide +kernel⟩
theorem wit_Lean_change : ∃ s : State, Reached s 0 ∧ countLate s = s ∧ modeDue s = none ∧ leanReady s = true :=
  ⟨setFlag (setFld State.reset APX_LEAN_STAT 17 15 1) APX_LEAN_STAT 14 true, by decide +kernel⟩
theorem wit_Lean_checker : ∃ s : State, checkAcc s own true 4 APX_CHK_CFG = .ok ∧ boundTile s (bits (word 0x7F0000) 22 16) = false ∧ chkEn s = true ∧
    chkEn (plainWrite s own APX_CHK_CFG (word 0x7F0000)) = false ∧ chkEn s = chkEn (plainWrite s own APX_CHK_CFG (word 0x807F0000)) :=
  ⟨setFlag (ready [pageOf APX_CHK_CFG]) APX_CHK_CFG 31 true, by decide +kernel⟩

/-! ## Witnesses: output -/

def plan0 : BindPlan := { status := 0, tiles := [], cores := [], anchors := [], rgn := [], slots := [], tabs := [], sram := [], regs := [],
                          pairs := [(5, 0, [10, 20, 30, 40, 2])], crux := [], path := [], deadline := 1000 }
/-- A bound job that owns print unit 2 and escalation pair 5. -/
def job0 : JobSt := { handle := 1, part := 0, phase := .bound, ctx := 0, seq := 1, tag := 0, plan := plan0, bars := 1, encs := 0, chains := 0, units := 4,
                      roles := [], ancGen := [], cmd := none }
def tref : TileRef := { bar := 0, sheet := some 0, trow := 0, tcol := 0 }
def pend0 : PendTile := { job := 1, bar := 0, sheet := some 0, trow := 0, tcol := 0, row0 := 0, part := false, dl := some 1000000 }
def owing (p : PendTile) (q : Nat) : State := { setFld State.reset (APX_ESC_CFG 5) 24 16 q with jobs := [job0], out := { pend := [p] } }
theorem wit_Sheet : ∃ s : State, NoneOwed s 0 ∧ flag s OUT_SHEET 31 = true ∧ s.mp.hist ≠ [] ∧ reached s (sheetM s (nextSheet s)) = some 10 :=
  ⟨{ setFlag State.reset OUT_SHEET 31 true with mp := { valid := true, hist := [(10, 0, 1, false)] } }, by decide +kernel⟩
theorem wit_Verdict : ∃ s : State, NoneOwed s 0 ∧ inBivouac s = false ∧ s.out.pend.find? (fun q => sameTile q tref) = some pend0 ∧
    pairPlan s 5 = some (0, [10, 20, 30, 40, 2]) ∧ f32Gt 0x3F800000 (tauOf s 5 0) = true ∧ f32Gt 0 (tauOf s 5 0) = false ∧ inBelay s = false ∧
    s.ft + xpOf s [10, 20, 30, 40, 2] + fld s APX_ESC_GUARD 15 0 * 1000 ≤ pend0.dl.getD (s.ft + (verdictBound s).getD 0) ∧ qFill s 5 < qDepth s 5 :=
  ⟨owing pend0 1, by decide +kernel⟩
theorem wit_Verdict_full : NoneOwed (owing pend0 0) 0 ∧ (owing pend0 0).out.pend.find? (fun q => sameTile q tref) = some pend0 ∧
    pairPlan (owing pend0 0) 5 = some (0, [10, 20, 30, 40, 2]) ∧ f32Gt 0 (tauOf (owing pend0 0) 5 0) = false ∧ inBelay (owing pend0 0) = false ∧
    qDepth (owing pend0 0) 5 ≤ qFill (owing pend0 0) 5 := by decide +kernel
theorem wit_Verdict_exact : ∃ p : PendTile, NoneOwed (owing p 1) 0 ∧ inBivouac (owing p 1) = false ∧ (owing p 1).out.pend.find? (fun q => sameTile q tref) = some p ∧
    p.pair = some 5 ∧ p.waitQ = false ∧ p.cheap.isSome = true :=
  ⟨{ pend0 with pair := some 5, cheap := some { cls := 0, sev := 0, conf := 0, path := 0, lean := false } }, by decide +kernel⟩
theorem wit_Verdict_untiled : NoneOwed State.reset 0 ∧ State.reset.out.pend.find? (fun q => sameTile q tref) = none ∧ writtenOf State.reset tref = none ∧
    (earlyTile State.reset tref).isNone = true ∧ inBivouac State.reset = false := by decide +kernel
/-- The job, unit 2 enabled, sheet 0 begun, the press moving by 2^20 counts per ms. -/
def printing (dl : Nat) (corr : List (Nat × Int × Nat × Bool)) : State := { wrN (setFld (setFlag (setFlag State.reset OUT_SHEET 31 true) (OUT_UNIT_CFG 2) 31 true) (OUT_UNIT_CFG 2) 15 0 10) (OUT_UNIT_DL 2) dl with
  jobs := [job0], mp := { valid := true, hist := [(2000000, 2097152, 0, false), (1000000, 1048576, 0, false)] }
  out := { sheets := [{ j := 0, t := 0 }], corr := corr }, ft := 2000000 }
def corr0 : CorrVal := { dx := 0, dy := 0, skew := 0, zones := [] }
theorem wit_Correction : ∃ s : State, NoneOwed s 2000000 ∧ unitHeld s 2 = s ∧ corr0.zones.length ≤ 256 ∧ unitJob s 2 = some job0 ∧
    flag s (OUT_UNIT_CFG 2) 31 = true ∧ inBivouac s = false ∧ sheetsOn s = true ∧ s.out.sheets.any (fun sh => sh.j == 0) = true ∧
    corrDeadline s 0 2 = (some 3000000, false) ∧ corrOf s job0.handle 2 0 ≠ some true := ⟨printing 48 [], by decide +kernel⟩
theorem wit_Correction_held : ∃ s : State, NoneOwed s 2000000 ∧ unitHeld s 2 = s ∧ unitJob s 2 = some job0 ∧ sheetsOn s = true ∧
    corrOf s job0.handle 2 0 = some true ∧ corrDeadline s 0 2 = (some 3000000, false) ∧ flag s (OUT_UNIT_CFG 2) 30 = false :=
  ⟨printing 48 [(1, 0, 2, true)], by decide +kernel⟩
theorem wit_Correction_drop : ∃ s : State, NoneOwed s 2000000 ∧ unitHeld s 2 = s ∧ unitJob s 2 = some job0 ∧ sheetsOn s = true ∧ inBelay s = false ∧
    corrOf s job0.handle 2 0 = some true ∧ corrDeadline s 0 2 = (some 3000000, false) ∧ flag s (OUT_UNIT_CFG 2) 30 = true :=
  ⟨setFlag (printing 48 [(1, 0, 2, true)]) (OUT_UNIT_CFG 2) 30 true, by decide +kernel⟩
theorem wit_Correction_late : ∃ s : State, NoneOwed s 2000000 ∧ unitHeld s 2 = s ∧ unitJob s 2 = some job0 ∧ sheetsOn s = true ∧
    s.out.sheets.any (fun sh => sh.j == 0) = true ∧ corrDeadline s 0 2 = (some 1000000, true) ∧ flag s (OUT_UNIT_CFG 2) 30 = true ∧ inBelay s = false :=
  ⟨setFlag (printing 16 [(1, 0, 2, true)]) (OUT_UNIT_CFG 2) 30 true, by decide +kernel⟩
theorem wit_Correction_zones : unitHeld State.reset 2 = State.reset ∧ 256 < (CorrVal.zones { corr0 with zones := List.replicate 257 0 }).length := by decide +kernel
theorem wit_Correction_owed : NoneOwed (unitHeld (printing 32 []) 2) 2000000 ∧ unitHeld (unitHeld (printing 32 []) 2) 2 = unitHeld (printing 32 []) 2 := by
  decide +kernel
theorem wit_Held : ∃ s : State, NoneOwed s 2000001 ∧ unitJob s 2 = some job0 ∧ flag s (OUT_UNIT_CFG 2) 31 = true ∧ inBelay s = false ∧ inBivouac s = false ∧
    sheetsOn s = true ∧ fld s (OUT_UNIT_CFG 2) 15 0 ≠ 0 ∧ heldDue s job0.handle 2 = some (0, 2000000) :=
  ⟨{ printing 32 [] with ft := 2000001 }, by decide +kernel⟩
theorem wit_Detection : ∃ s u : State, NoneOwed s 5 ∧ flag s OUT_TRACK_CFG 31 = true ∧ inBivouac s = false ∧
    u = ((openTracks s).filter (fun i => nbits (trackNum s i 0 4) 30 28 == tref.bar &&
        decide (trackNum s i 16 8 + fld s OUT_TRACK_CFG 15 0 * 1000000 < 5))).foldl closeTrack s ∧ nearest u tref.bar 1 5 0 0 = none ∧
    freeTrack (openTracks u) 65537 0 = some 0 :=
  ⟨setFlag { State.reset with ft := 5 } OUT_TRACK_CFG 31 true, _, by decide +kernel, by decide +kernel, by decide +kernel, rfl, by decide +kernel⟩
theorem wit_Detection_near : ∃ s u : State, NoneOwed s 5 ∧ flag s OUT_TRACK_CFG 31 = true ∧ inBivouac s = false ∧
    u = ((openTracks s).filter (fun i => nbits (trackNum s i 0 4) 30 28 == tref.bar &&
        decide (trackNum s i 16 8 + fld s OUT_TRACK_CFG 15 0 * 1000000 < 5))).foldl closeTrack s ∧ nearest u tref.bar 0 5 0 0 = some 7 :=
  ⟨{ setFlag State.reset OUT_TRACK_CFG 31 true with ft := 5, tabs := [(0x10600000 + 64 * 7 + 3, 0x80), (0x10600000 + 64 * 7 + 16, 5)] }, _,
    by decide +kernel, by decide +kernel, by decide +kernel, rfl, by decide +kernel⟩
theorem wit_Named : (owing pend0 1).out.pend.any (fun p => sameTile p tref) = true := by decide +kernel
/-- A table whose first n tracks are open. -/
def full (n : Nat) : State := { setFlag State.reset OUT_TRACK_CFG 31 true with tabs := (List.range n).map (fun i => (0x10600000 + 64 * i + 3, (0x80 : Byte))) }
theorem open_all (n : Nat) (h : n ≤ 65536) : ∀ e ∈ (List.range n).map (fun i => (0x10600000 + 64 * i + 3, (0x80 : Byte))),
    (decide (0x10600000 ≤ e.1) && decide (e.1 < 0x10A00000) && e.1 % 64 == 3 && decide (128 ≤ e.2.toNat)) = true := by
  intro e he
  obtain ⟨i, hi, rfl⟩ := List.mem_map.mp he
  have := List.mem_range.mp hi
  simp only [Bool.and_eq_true, decide_eq_true_eq, beq_iff_eq]
  exact ⟨⟨⟨by omega, by omega⟩, by omega⟩, by decide⟩
theorem track_index (b : Nat) (x : Byte) (l : List Nat) : (l.map (fun i => (b + 64 * i + 3, x))).map (fun e => (e.1 - b) / 64) = l := by
  induction l with
  | nil => rfl
  | cons i t ih => rw [List.map_cons, List.map_cons, ih]; congr 1; dsimp only; omega
theorem full_tabs (n : Nat) : (full n).tabs = (List.range n).map (fun i => (0x10600000 + 64 * i + 3, (0x80 : Byte))) := rfl
theorem full_tracks (n : Nat) (h : n ≤ 65536) : openTracks (full n) = List.range n := by
  unfold openTracks
  rw [full_tabs, List.filter_eq_self.mpr (open_all n h)]
  exact track_index _ _ _
theorem freeTrack_full (m : Nat) (h : 65536 ≤ m) : ∀ n i : Nat, freeTrack (List.range m) n i = none := by
  intro n
  induction n with
  | zero => intro i; rfl
  | succ n ih =>
    intro i; unfold freeTrack
    by_cases hi : i < 65536
    · have hc : (List.range m).contains i = true := by rw [List.contains_iff_mem, List.mem_range]; omega
      simp only [hi, hc, ih, if_true]
    · simp only [hi, if_false]
theorem wit_Detection_full (n : Nat) (hn : n = 65536) : ∃ s u : State, NoneOwed s 0 ∧ flag s OUT_TRACK_CFG 31 = true ∧ inBivouac s = false ∧
    u = ((openTracks s).filter (fun i => nbits (trackNum s i 0 4) 30 28 == tref.bar &&
        decide (trackNum s i 16 8 + fld s OUT_TRACK_CFG 15 0 * 1000000 < 0))).foldl closeTrack s ∧ nearest u tref.bar 65536 0 0 0 = none ∧
    freeTrack (openTracks u) 65537 0 = none := by
  have p : inBelay (setFlag State.reset OUT_TRACK_CFG 31 true) = false ∧ inBivouac (setFlag State.reset OUT_TRACK_CFG 31 true) = false ∧
      flag (setFlag State.reset OUT_TRACK_CFG 31 true) OUT_TRACK_CFG 31 = true := by decide +kernel
  have h0 : ((openTracks (full n)).filter (fun i => nbits (trackNum (full n) i 0 4) 30 28 == tref.bar &&
      decide (trackNum (full n) i 16 8 + fld (full n) OUT_TRACK_CFG 15 0 * 1000000 < 0))) = [] := by
    rw [List.filter_eq_nil_iff]; intro i _; simp
  have owes : passDeadlines (full n) = full n := by
    show (if inBelay (full n) || inBivouac (full n) then full n else full n) = full n
    exact ite_self _
  refine ⟨full n, full n, ⟨.inl (Nat.zero_le _), owes⟩, p.2.2, p.2.1, by rw [h0]; rfl, ?_, by rw [full_tracks n (by omega)]; exact freeTrack_full n (by omega) _ _⟩
  unfold nearest
  have : ∀ i, (nbits (trackNum (full n) i 0 4) 15 0 == 65536) = false := by
    intro i; rw [beq_eq_false_iff_ne]; unfold nbits; omega
  have h1 : ∀ g : Nat, ((openTracks (full n)).filter fun i => nbits (trackNum (full n) i 0 4) 30 28 == tref.bar && nbits (trackNum (full n) i 0 4) 15 0 == 65536 &&
      decide (trackMiss (full n) i 0 24 28 4 0 ≤ g) && decide (trackMiss (full n) i 0 32 40 8 0 ≤ g)) = [] := by
    intro g; rw [List.filter_eq_nil_iff]; intro i _; simp [this]
  simp only [h1]; rfl
def rec0 : OutRec := { str := 0, typ := 0, bytes := List.replicate 64 0, dests := 1, ft := 0 }
def rung (dests : Nat) : State := { setFld (wrN (wrN State.reset (OUT_STR_HEAD 0) 64) (OUT_STR_TAIL 0) 64) (OUT_STR_RING 0) 4 0 12 with
  bme := [(1, true)], out := { buf := [{ rec0 with dests := dests }] } }
theorem wit_Records_ring : ∃ s : State, NoneOwed s 0 ∧ s.out.buf.find? (fun q => q.str == 0 && nbit q.dests 0) = some rec0 ∧
    busMaster s (fld s (OUT_STR_CFG 0) 18 11) = true ∧ ringPad s 0 rec0.bytes.length = 0 ∧
    ringUsed s 0 + 0 + rec0.bytes.length < ringBytes s 0 - 64 := ⟨rung 1, by decide +kernel⟩
theorem wit_Records_tail : ∃ s : State, checkAcc s own true 4 (OUT_STR_TAIL 7) = .ok ∧ (64 : Word).toNat % 64 = 0 ∧ 64 ≤ (64 : Word).toNat ∧ (64 : Word).toNat < ringBytes s 7 ∧
    (63 : Word).toNat % 64 ≠ 0 ∧ (0 : Word).toNat < 64 ∧ ringBytes s 7 ≤ (4096 : Word).toNat := ⟨setFld (ready [pageOf (OUT_STR_TAIL 7)]) (OUT_STR_RING 7) 4 0 12, by decide +kernel⟩
theorem wit_Records_irq : ∃ s : State, NoneOwed s 0 ∧ (strOf s 0).irqHead ≠ ringHead s 0 ∧ (strOf s 0).irqFt = none :=
  ⟨setStr (rung 1) 0 { irqHead := 128 }, by decide +kernel⟩
/-- The records that stream 0 owes to datagrams. -/
def owed (s : State) : List OutRec := s.out.buf.filter (fun r => r.str == 0 && decide (2 ≤ r.dests))
theorem wit_Records_none : NoneOwed (rung 1) 0 ∧ owed (rung 1) = [] ∧ fitRecs (fld (rung 1) (OUT_STR_UDP 0) 31 18 - 32) [] = [] := by decide +kernel
theorem wit_Records_wait : ∃ s : State, NoneOwed s 0 ∧ fitRecs (fld s (OUT_STR_UDP 0) 31 18 - 32) (owed s) = { rec0 with dests := 2 } :: [] ∧ (owed s).length = 1 ∧
    s.ft < rec0.ft + fld s (OUT_STR_UDP 0) 15 0 * 1000 := ⟨setFld (setFld (rung 2) (OUT_STR_UDP 0) 31 18 1024) (OUT_STR_UDP 0) 15 0 1, by decide +kernel⟩
theorem wit_Records_send : ∃ s : State, NoneOwed s 0 ∧ fitRecs (fld s (OUT_STR_UDP 0) 31 18 - 32) (owed s) = { rec0 with dests := 2 } :: [] ∧ (owed s).length = 2 :=
  ⟨{ setFld State.reset (OUT_STR_UDP 0) 31 18 128 with out := { buf := [{ rec0 with dests := 2 }, { rec0 with dests := 4 }] } }, by decide +kernel⟩

/-! ## Witnesses: the binder -/

/-- Context 0 of function 0 with a started command of a type, its words (w10 … w13) and the binder at it. -/
def cmd0 (code topt dev pay len arg : Nat) : CmdSt :=
  { seq := 1, words := [code * 0x1000000 + dev * 0x800000 + topt * 0x10000, 0, 0, 0, 0, 0, 0, 0, 0, 0, pay, 0, len, arg, 1, 0], started := true, since := some 0 }
def hosted (k : CmdSt) : State := { setCtx State.reset 0 { en := true, memSize := 1, cmds := [k] } with binder := [(0, 1)] }
/-- The bytes of the shortest package, after its digest: sections 1, 2, 3 and 6 of no bytes. -/
def pkgTail : List Byte := [1, 2, 3, 6].flatMap (fun t => leBytes 4 t ++ leBytes 4 192 ++ leBytes 8 0) ++ List.replicate 40 0
def pkgHead : List Byte := leBytes 4 0x58524E52 ++ leBytes 2 1 ++ leBytes 2 0 ++ leBytes 8 192 ++ leBytes 2 4 ++ leBytes 2 0 ++ leBytes 4 0
def pkg (f : Nat → Byte) : List Byte := pkgHead ++ (List.range 64).map f ++ pkgTail
/-- A BIND payload: the package at offset 0 with its length, the report's address, partition 0, no map. -/
def bindPay : List Byte := leBytes 8 0 ++ leBytes 8 192 ++ leBytes 8 4096 ++ List.replicate 40 0
def bindCmd : CmdSt := cmd0 0x10 0 0 0 64 0
def bindAt (f : Nat → Byte) : State := memWrite (hosted bindCmd) 0 (pkg f)
/-- The same with its partition placed in the command. -/
def bindIn (f : Nat → Byte) : State := inPart (bindAt f) 0 1 (num bindPay 24 1 % 8)
def plan1 : BindPlan := { plan0 with pairs := [] }
/-- The digest of the package's tail, byte by byte. -/
def digestByte (i : Nat) : Byte := (Config.shake256 pkgTail 64).getD i 0
theorem digest_bytes : Config.shake256 pkgTail 64 = (List.range 64).map digestByte := by
  apply List.ext_getElem
  · simp [Config.shake256]
  · intro i h1 h2
    simp only [List.getElem_map, List.getElem_range, digestByte, List.getD_eq_getElem?_getD, List.getElem?_eq_getElem h1, Option.getD_some]
theorem num_left (a b : List Byte) (off n : Nat) (h : off + n ≤ a.length) : num (a ++ b) off n = num a off n := by
  unfold num; rw [List.drop_append_of_le_length (by omega), List.take_append_of_le_length (by rw [List.length_drop]; omega)]
theorem num_right (a b : List Byte) (off n : Nat) (h : a.length ≤ off) : num (a ++ b) off n = num b (off - a.length) n := by
  unfold num; rw [List.drop_append, List.drop_of_length_le h, List.nil_append]
theorem front_length (f : Nat → Byte) : (pkgHead ++ (List.range 64).map f).length = 88 := by simp [pkgHead, leBytes]
theorem pkg_head (f : Nat → Byte) (off n : Nat) (h : off + n ≤ 24) : num (pkg f) off n = num pkgHead off n := by
  unfold pkg; rw [List.append_assoc, num_left]; exact h
theorem pkg_tail (f : Nat → Byte) (off n : Nat) (h : 88 ≤ off) : num (pkg f) off n = num pkgTail (off - 88) n := by
  unfold pkg; rw [num_right _ _ _ _ (by rw [front_length]; exact h), front_length]
theorem pkg_digested (f : Nat → Byte) : (pkg f).drop 88 = pkgTail := by
  unfold pkg; exact List.drop_left' (front_length f)
theorem pkg_digest (f : Nat → Byte) : pkgDigest (pkg f) = (List.range 64).map f := by
  unfold pkgDigest pkg
  rw [List.append_assoc, List.drop_left' (by decide : pkgHead.length = 24), List.take_left' (by simp)]
theorem pkg_sections (f : Nat → Byte) : sections (pkg f) = [(1, 192, 0), (2, 192, 0), (3, 192, 0), (6, 192, 0)] := by
  unfold sections
  rw [pkg_head f 16 2 (by omega), show num pkgHead 16 2 = 4 by decide +kernel]
  simp only [List.range, List.range.loop, List.map, section_]
  rw [pkg_tail, pkg_tail, pkg_tail, pkg_tail, pkg_tail, pkg_tail, pkg_tail, pkg_tail, pkg_tail, pkg_tail, pkg_tail, pkg_tail] <;> first | omega | decide +kernel
theorem pkg_check (s : State) : flag s SEC_STATUS 4 = false → pkgCheck s (pkg digestByte) 192 = none := by
  intro h
  have hs : sectionsOk (pkg digestByte) 192 = true := by
    unfold sectionsOk pkgSigned; rw [pkg_sections, pkg_head _ 18 2 (by omega)]; decide +kernel
  have hd : digested (pkg digestByte) = pkgTail := by unfold digested; rw [pkg_sections, pkg_digested]; rfl
  unfold pkgCheck
  rw [pkg_head _ 0 4 (by omega), pkg_head _ 4 2 (by omega), pkg_head _ 8 8 (by omega), pkg_head _ 16 2 (by omega), pkg_head _ 18 2 (by omega),
    pkg_head _ 20 4 (by omega), show num pkgHead 0 4 = 0x58524E52 by decide +kernel, show num pkgHead 4 2 = 1 by decide +kernel,
    show num pkgHead 8 8 = 192 by decide +kernel, show num pkgHead 16 2 = 4 by decide +kernel, show num pkgHead 18 2 = 0 by decide +kernel,
    show num pkgHead 20 4 = 0 by decide +kernel]
  simp [hs, hd, pkg_digest, digest_bytes, h]
theorem tgetL_take {α : Type} (d : Nat → α) (m : List (Nat × α)) : ∀ (k a n : Nat), n ≤ k → tgetL d m a n = (tgetL d m a k).take n := by
  intro k
  induction k with
  | zero => intro a n h; rw [Nat.le_zero.mp h]; rfl
  | succ k ih =>
    intro a n h
    cases n with
    | zero => rfl
    | succ n => simp only [tgetL, List.take_succ_cons]; rw [ih (a + 1) n (by omega)]
theorem pkg_length (f : Nat → Byte) : (pkg f).length = 192 := by unfold pkg; rw [List.length_append, front_length]; decide
theorem inPart_mem (s : State) (c q p : Nat) : (inPart s c q p).mem = s.mem := rfl
theorem pkg_read (f : Nat → Byte) (n : Nat) (h : n ≤ 192) : memRead (bindIn f) 0 n = (pkg f).take n := by
  unfold memRead bindIn
  rw [inPart_mem]
  unfold bindAt memWrite
  rw [tgetL_take _ _ 192 0 n h]
  have := tgetL_tsetL (d := byte0) (pkg f) (hosted bindCmd).mem 0 (by decide +kernel)
  rw [pkg_length] at this
  rw [this]
theorem wit_Bind_payload (f : Nat → Byte) : binderCmd (bindAt f) 0 1 0x10 = some bindCmd ∧
    (bindAt f).jobs.any (fun j => decide (j.cmd = some (0, 1))) = false ∧ payIn (bindAt f) 0 bindCmd (some bindPay) = .inr bindPay := ⟨rfl, rfl, rfl⟩
def bindJob : JobSt :=
  newJob (bindIn digestByte) 0 bindCmd bindPay (pkgDigest (memRead (bindIn digestByte) (winAddr (ctxOf (bindIn digestByte) 0) (num bindPay 0 8)) 88)) plan1
theorem wit_Bind : bindCheck (bindIn digestByte) (ctxOf (bindIn digestByte) 0) bindPay bindJob (nbit (cmdTopt bindCmd) 0) = none := by
  have e0 : winAddr (ctxOf (bindIn digestByte) 0) (num bindPay 0 8) = 0 := rfl
  have e1 : num bindPay 8 8 = 192 := by decide +kernel
  have e2 : num ((pkg digestByte).take 16) 8 8 = 192 := by
    have : (pkg digestByte).take 16 = pkgHead.take 16 := by
      unfold pkg; rw [List.append_assoc, List.take_append_of_le_length (by decide)]
    rw [this]; decide +kernel
  have e3 : (pkg digestByte).take 192 = pkg digestByte := List.take_of_length_le (by rw [pkg_length])
  have e4 : memBad (bindIn digestByte) 0 192 = false := by
    show (touched 0 192).any (fun w => tget boolD [] w) = false
    decide +kernel
  have e5 : payReserved bindPay = false := by decide +kernel
  have e6 : mapOf bindPay = [] := by decide +kernel
  unfold bindCheck
  simp only [e0, e1, pkg_read _ 16 (by omega), e2, Nat.min_self, pkg_read _ 192 (by omega), e3, pkg_check (bindIn digestByte) rfl, e4, e5, e6]
  have h1 : partResets (bindIn digestByte) bindJob.part = false := by
    unfold partResets; rw [show (bindIn digestByte).ladder.cur = none from rfl]
  have hm : (ctxOf (bindIn digestByte) 0).memSize = 1 := rfl
  have h2 : inWindow (ctxOf (bindIn digestByte) 0) 0 192 = true := by
    simp only [inWindow, winBytes, hm]; simp
  have h3 : nbit (cmdTopt bindCmd) 0 = false := by decide +kernel
  have h4 : bindJob.plan = plan1 := rfl
  have h5 : planFits (bindIn digestByte) bindJob.part plan1 = true := rfl
  have h6 : mapOk (bindIn digestByte) [] bindJob.digest = true := rfl
  have h7 : cruxOver bindJob (mode (bindIn digestByte)) = false := by
    have hc : ∀ k, at0 plan1.crux k = 0 := by intro k; simp [plan1, plan0, at0]
    unfold cruxOver; rw [h4]; simp only [hc]; simp
  have h8 : (planSlots plan1).all (fanOk (bindIn digestByte)) = true := rfl
  have h9 : plan1.status = 0 := rfl
  have h10 : num bindPay 0 8 = 0 := by decide +kernel
  simp only [h10, h1, h2, h3, h4, h5, h6, h7, h8, h9]
  simp [stPkgFormat]
theorem wit_Bind_report (f : Nat → Byte) : ∃ u : State, putReport (bindIn f) (ctxOf (bindIn f) 0) bindPay bindJob (nbit (cmdTopt bindCmd) 0) true = some u :=
  ⟨_, rfl⟩
theorem wit_Bind_refused : ∃ z : State, ∃ st : Nat, z = inPart (hosted bindCmd) 0 1 (num bindPay 24 1 % 8) ∧
    bindCheck z (ctxOf (hosted bindCmd) 0) bindPay (newJob z 0 bindCmd bindPay [] plan1) false = some st ∧
    st ≠ stPkgDigest ∧ st ≠ stPkgSig := ⟨_, stPkgFormat, rfl, by decide +kernel⟩
def jobAt (j : JobSt) (k : CmdSt) : State := { hosted k with jobs := [j] }
theorem wit_Activate : ∃ s : State, ∃ j : JobSt, Reached s 0 ∧ jobOf s 1 = some j ∧ j.phase = .binding ∧ j.startFt = some 0 ∧ j.cmd = some (0, 1) ∧ 0 ≤ s.ft :=
  ⟨jobAt { job0 with phase := .binding, startFt := some 0, cmd := some (0, 1) } bindCmd, _, by decide, rfl, by decide +kernel⟩
theorem wit_Unbind : binderCmd (jobAt job0 (cmd0 0x11 1 0 0 0 1)) 0 1 0x11 = some (cmd0 0x11 1 0 0 0 1) ∧
    jobOf (jobAt job0 (cmd0 0x11 1 0 0 0 1)) (cmdArg (cmd0 0x11 1 0 0 0 1)) = some job0 ∧ partResets (jobAt job0 (cmd0 0x11 1 0 0 0 1)) job0.part = false ∧
    (jobOf (hosted (cmd0 0x11 1 0 0 0 1)) (cmdArg (cmd0 0x11 1 0 0 0 1))).isNone = true ∧ job0.phase = .bound := by decide +kernel
theorem wit_Release : ∃ s : State, ∃ j : JobSt, Reached s 0 ∧ jobOf s 1 = some j ∧ j.phase = .draining ∧ j.endFt = some 0 ∧ j.cmd = some (0, 1) ∧ 0 ≤ s.ft ∧
    drained s j 0 = true :=
  ⟨jobAt { job0 with phase := .draining, startFt := some 0, endFt := some 0, drain := true, cmd := some (0, 1) } (cmd0 0x11 1 0 0 0 1), _,
    by decide, rfl, by decide +kernel⟩
theorem wit_Rebind : binderCmd (jobAt { job0 with phase := .standby } (cmd0 0x12 0 0 0 64 1)) 0 1 0x12 = some (cmd0 0x12 0 0 0 64 1) ∧
    (jobAt { job0 with phase := .standby } (cmd0 0x12 0 0 0 64 1)).jobs.any (fun j => decide (j.cmd = some (0, 1))) = false ∧
    payIn (jobAt { job0 with phase := .standby } (cmd0 0x12 0 0 0 64 1)) 0 (cmd0 0x12 0 0 0 64 1) (some bindPay) = .inr bindPay ∧
    jobOf (jobAt { job0 with phase := .standby } (cmd0 0x12 0 0 0 64 1)) (cmdArg (cmd0 0x12 0 0 0 64 1)) = some { job0 with phase := .standby } ∧
    partResets (jobAt { job0 with phase := .standby } (cmd0 0x12 0 0 0 64 1)) job0.part = false ∧
    inBelay (jobAt { job0 with phase := .standby } (cmd0 0x12 0 0 0 64 1)) = false ∧
    (planSlots job0.plan).all (fanOk (inPart (jobAt { job0 with phase := .standby } (cmd0 0x12 0 0 0 64 1)) 0 1 job0.part)) = true := by
  decide +kernel
theorem wit_PartCfg : binderCmd (hosted (cmd0 0x13 0 0 0 16 0)) 0 1 0x13 = some (cmd0 0x13 0 0 0 16 0) ∧
    payIn (hosted (cmd0 0x13 0 0 0 16 0)) 0 (cmd0 0x13 0 0 0 16 0) (some (List.replicate 16 0x87)) = .inr (List.replicate 16 0x87) ∧
    (List.range 16).any (fun n => num (List.replicate 16 0x8F) n 1 / 8 % 16 != 0) = true ∧
    (List.range 16).any (fun n => num (List.replicate 16 0x87) n 1 / 8 % 16 != 0) = false ∧
    (∀ n < 16, (partOf (hosted (cmd0 0x13 0 0 0 16 0)) n).isNone = true) := by decide +kernel
theorem wit_CcReload : ∃ s : State, binderCmd s 0 1 0x14 = some (cmd0 0x14 0 0 0 0 3) ∧ partResets s (cmdArg (cmd0 0x14 0 0 0 0 3)) = false ∧
    partBusy s (cmdArg (cmd0 0x14 0 0 0 0 3)) = false ∧ helperOk s 0x02 = true :=
  ⟨{ hosted (cmd0 0x14 0 0 0 0 3) with boot := { comps := [(2, 0, 0)] } }, by decide +kernel⟩

/-! ## Witnesses: host interface -/

/-- A descriptor of NOP with SEQ `q` and VALID, and the same words. -/
def desc (q : Nat) : List Byte := leBytes 4 0x1000000 ++ List.replicate 52 0 ++ leBytes 4 q ++ leBytes 4 0x80000000
def live : State := setFlag (setCtx State.reset 0 { en := true, memSize := 1 }) (HIF_W_CQ_CFG 0) 31 true
theorem wit_Submit_denied : (winCtx (setCtx State.reset 0 { func := 1 }) 0 0).isNone = true := by decide +kernel
theorem wit_Submit : winCtx live 0 0 = some 0 ∧ 0 < (desc 0).length ∧ (0 : Nat) % 64 + (desc 0).length = 64 ∧
    nbit (ofLe ((descRead (descWrite live 0 (desc 0)) 0 64).drop 60)) 31 = true ∧
    accepts (descWrite live 0 (desc 0)) 0 (0 / 64) (at0 (wordsOf 16 (descRead (descWrite live 0 (desc 0)) 0 64)) 14) = true ∧
    accepts (descWrite live 0 (desc 1)) 0 (0 / 64) (at0 (wordsOf 16 (descRead (descWrite live 0 (desc 1)) 0 64)) 14) = false ∧
    (0 : Nat) % 64 + ((desc 0).take 60).length < 64 := by decide +kernel
/-- Context 0 live with one accepted command. -/
def given (k : CmdSt) : State := setFlag (setCtx State.reset 0 { en := true, memSize := 1, cmds := [k] }) (HIF_W_CQ_CFG 0) 31 true
def nop0 : CmdSt := { seq := 0, words := [0x1000001, 0, 0, 0, 0, 0, 0, 0, 0, 0, 0, 0, 0, 0, 0, 0], since := some 0 }
theorem wit_Start : Reached (given nop0) 0 ∧ readyCmd (given nop0) 0 = some nop0 ∧
    (startCheck (given { nop0 with words := [0x1100001] }) 0 { nop0 with words := [0x1100001] }).isSome = true := by decide +kernel
theorem wit_End : ∃ s : State, Reached s 0 ∧ cmdOf s 0 0 = some { nop0 with started := true, status := some 0 } ∧ isMgmt (ctxOf s 0) = false ∧
    nop0.orphan = false ∧ (ctxOf s 0).held = [] ∧ ringRoom s 0 = true :=
  ⟨setFld (given { nop0 with started := true, status := some 0 }) (HIF_W_CQ_CFG 0) 24 20 6, by decide +kernel⟩
theorem wit_End_late : Reached (given nop0) 0 ∧ (cmdOf (given nop0) 0 7).isNone = true := by decide +kernel
theorem wit_Expiry : ∃ s : State, Reached s 1000 ∧ cmdOf s 0 0 = some nop0 ∧ hostExpired s 0 nop0 = true :=
  ⟨{ given nop0 with ft := 1000 }, by decide +kernel⟩
/-- The head of the vector queue of tile 0, with a budget of 1 µs, since FT 0. -/
def slow0 : TileCmd := { tcmd [] with budget := 1 }
theorem wit_Expiry_tile : ∃ s : State, ∃ e : TileCmd × Bool, Reached s 2000 ∧ tileCmdOf s 0 1 (cmdNum slow0) = some e ∧ tileExpired s 0 1 e.1 = true :=
  ⟨{ tiled { vq := { cmds := [slow0], started := true, since := some 0, head := some 0 } } with ft := 2000 }, (slow0, true), by decide +kernel⟩
theorem wit_Simple : ∀ code ∈ [1, 2, 3, 4, 5], running1 (hosted (cmd0 code 0 0 0 4 0)) 0 1 code = some (cmd0 code 0 0 0 4 0) ∧
    nbit (cmdTopt (cmd0 code 0 0 0 4 0)) 0 = false ∧ nbit (cmdTopt (cmd0 code 1 0 0 4 0)) 0 = true ∧ memBad (hosted (cmd0 code 1 0 0 4 0)) 0 4 = false ∧
    cmdDev (cmd0 code 0 1 0 4 0) = true ∧ cmdDev (cmd0 code 0 0 0 4 0) = false := by decide +kernel
theorem wit_Simple_query : jobOf (jobAt job0 (cmd0 5 0 0 0 4 1)) (cmdArg (cmd0 5 0 0 0 4 1)) = some job0 ∧ Machine.running job0 = true ∧
    (jobOf (hosted (cmd0 5 0 0 0 4 1)) (cmdArg (cmd0 5 0 0 0 4 1))).isNone = true := by decide +kernel
theorem wit_Ring_enable : winCtx State.reset 0 0x3FF0000 = some 1023 ∧ flag State.reset (HIF_W_CQ_CFG 1023) 31 = false ∧ bits (word 0x81400000) 31 31 = 1 ∧
    6 ≤ bits (word 0x80600000) 24 20 ∧ bits (word 0x81400000) 24 20 ≤ 20 ∧ bits (word 0x814001FF) 8 0 < vecCount (ctxOf State.reset 1023).func := by decide +kernel
theorem wit_Ring_head : ∃ s : State, winCtx s 0 0 = some 0 ∧ flag s (HIF_W_CQ_CFG 0) 31 = true ∧ bits (word 2) 19 0 < ringSize s 0 ∧
    (bits (word 2) 19 0 + ringSize s 0 - fld s (HIF_W_CQ_HEAD 0) 19 0) % ringSize s 0 ≤
      (fld s (HIF_W_CQ_TAIL 0) 19 0 + ringSize s 0 - fld s (HIF_W_CQ_HEAD 0) 19 0) % ringSize s 0 ∧ ringSize s 0 ≤ bits (word 64) 19 0 ∧ bits (word 1) 0 0 = 1 :=
  ⟨wrN (setFld (given nop0) (HIF_W_CQ_CFG 0) 24 20 6) (HIF_W_CQ_TAIL 0) 2, by decide +kernel⟩
theorem wit_Context : ∃ s : State, checkAcc s own true 4 HIF_CTX_OWN = .ok ∧ own.cls = .owner ∧ (ctxOf s (ctxSel s own)).en = false ∧ bits (word 0x80000100) 15 8 < 2 ∧
    bits (word 0x80000100) 31 31 = 1 := ⟨ready [pageOf HIF_CTX_OWN], by decide +kernel⟩
theorem wit_Functions : flag State.reset HIF_LINK 31 = false ∧ 511 < vecCount 1 ∧ 15 < vecCount 65 ∧ vecCount 66 = 0 := by decide +kernel

/-! ## Witnesses: Ridge links -/

/-- Link port 3 in a state, with what it keeps, at an FT. -/
def linked (st now : Nat) (x : LinkSt) : State := { setLnkState (updLnk State.reset 3 (fun _ => x)) 3 st with ft := now }
def fr (typ vc dst ttl : Nat) (p : List Byte) : Frame :=
  { typ := typ, vc := vc, sr := false, clsB := false, dst := dst, src := 1, ttl := ttl, sgen := 0, seq := 0, codes := [], payload := p, bad := 0 }
theorem wit_Ports_train : Reached (linked lkDetect 0 {}) 0 ∧ Reached (linked lkTrain 20000000 {}) 20000000 ∧ pinsTaken (linked lkDetect 0 {}) = false ∧
    pinsTaken (linked lkTrain 20000000 {}) = false ∧ lnkState (linked lkDetect 0 {}) 3 = lkDetect ∧ lnkState (linked lkTrain 20000000 {}) 3 = lkTrain ∧
    (linked lkTrain 20000000 {}).ft ≤ (lnk (linked lkTrain 20000000 {}) 3).trainAt + 20000000 ∧
    (lnk (linked lkTrain 20000000 {}) 3).trainAt + 20000000 ≤ (linked lkTrain 20000000 {}).ft ∧
    flag (setFlag (linked lkTrain 0 {}) (LNK_CFG 3) 30 true) (LNK_CFG 3) 30 = true := by decide +kernel
theorem wit_Ports_retry : Reached (linked lkFault 1000000000 {}) 1000000000 ∧ lnkState (linked lkFault 1000000000 {}) 3 = lkFault ∧
    (lnk (linked lkFault 1000000000 {}) 3).faultAt + 1000000000 ≤ (linked lkFault 1000000000 {}).ft := by decide +kernel
theorem wit_Ports_down : locked (linked lkHello 0 {}) 3 = true ∧ ∃ s : State, locked s 3 = true ∧
    fld s (LNK_CFG 3) 7 0 < lateReplays s 3 :=
  ⟨by decide +kernel, setFld (linked lkUp 0 { replays := [0, 0] }) (LNK_CFG 3) 7 0 1, by decide +kernel⟩
theorem wit_Ports_failback : ∃ a : State, Reached a 0 ∧ (lnk a 3).failed = true ∧ lnkState a 3 = lkUp ∧
    (lnk a 3).upAt + fld a LNK_SW_CFG 15 0 * 1000000 + fld a LNK_SW_CFG 23 16 * 1000 ≤ a.ft := ⟨linked lkUp 100000000000 { failed := true }, by decide +kernel⟩
theorem wit_Ports_nak : (lnk (linked lkUp 0 { buf := [(5, fr 1 0 0 1 [], 0)] }) 3).buf.find? (fun x => x.1 == 5) = some (5, fr 1 0 0 1 [], 0) ∧
    locked (linked lkUp 0 { buf := [(5, fr 1 0 0 1 [], 0)] }) 3 = true := by decide +kernel
theorem wit_Frames_hello : locked (linked lkHello 0 {}) 3 = true ∧ (lnk (linked lkHello 0 {}) 3).helloTx = none ∧
    helloOk (fr 1 0 0xFFF 1 (List.replicate 48 0)) = true := by decide +kernel
theorem wit_Frames_silent : ∃ a : State, Reached a 0 ∧
    flag a (LNK_STATUS 3) 10 = true ∧ (lnk a 3).helloRx = some 0 ∧ 0 + 300000 ≤ a.ft := ⟨setFlag (linked lkUp 300000 { helloRx := some 0 }) (LNK_STATUS 3) 10 true, by decide +kernel⟩
theorem wit_Frames_route : { State.reset with txq := [fr 3 0 5 1 []] }.txq = fr 3 0 5 1 [] :: [] ∧ typeOk (fr 3 1 5 1 []) = false ∧
    typeOk (fr 3 0 5 0 []) = true ∧ (fr 3 0 5 0 []).dst ≠ 0xFFF ∧ (fr 3 0 5 0 []).ttl = 0 ∧ (fr 3 0 5 1 []).dst ≠ fmAddr ∧ (fr 3 0 5 1 []).sr = false ∧
    (fr 3 0 5 1 []).ttl ≠ 0 ∧ entryV State.reset (fr 3 0 5 1 []).dst = false := by decide +kernel
theorem wit_Frames_beat : Reached State.reset 0 ∧ State.reset.ladder.wdtOut = false ∧ State.reset.relay.beat = none := by decide +kernel
theorem wit_Frames_relay : ∃ s : State, checkAcc s own true 4 LNK_RELAY_TX_HEAD = .ok ∧ bits (word 15) 11 0 < relaySize s ∧ relayOn s = false ∧
    relayOn (setFlag s LNK_RELAY_CFG 31 true) = true ∧ bits (word 15) 11 0 < relaySize (setFlag s LNK_RELAY_CFG 31 true) :=
  ⟨setFld (setFlag (ready [pageOf LNK_RELAY_TX_HEAD]) LNK_RELAY_CFG 31 false) LNK_RELAY_CFG 15 12 4, by decide +kernel⟩
theorem wit_Frames_relayIrq : ∃ a : State, Reached a 0 ∧ relayOn a = true ∧
    a.relay.moved = true ∧ a.relay.last = none := ⟨{ setFlag State.reset LNK_RELAY_CFG 31 true with relay := { moved := true } }, by decide +kernel⟩
/-- A register request of one word at 0x1000, and a state that holds a delivered frame. -/
def regReq (op : Nat) : List Byte := leBytes 4 0 ++ leBytes 1 op ++ leBytes 1 1 ++ leBytes 2 0 ++ leBytes 4 0x1000 ++ leBytes 4 0
def inboxed (f : Frame) : State := { setCtx State.reset 0 { func := 0xFF, memSize := 1 } with inbox := [f] }
theorem wit_Delivered_reg : (inboxed (fr 2 0 0 1 (regReq 1))).inbox = fr 2 0 0 1 (regReq 1) :: [] ∧ (fr 2 0 0 1 (regReq 1)).typ = 0x02 ∧
    fieldN (regReq 1) 4 1 ≠ 0x81 ∧ fieldN (regReq 1) 4 1 ≠ 0x82 ∧ (regRequest State.reset whoFabric (regReq 1)).2.isSome = true ∧
    (regRequest State.reset whoFabric (regReq 3)).2 = none ∧ fieldN (regReq 3) 4 1 ≠ 0x81 ∧ regOk (regReq 3) = false := by decide +kernel
theorem wit_Delivered_cmd : (fr 3 0 0 1 (List.replicate 8 0 ++ desc 0)).payload.length = 72 ∧ isMgmt (ctxOf (inboxed (fr 3 0 0 1 [])) 0) = true ∧
    isMgmt (ctxOf State.reset 0) = false ∧ nbit (ofLe (((((fr 3 0 0 1 (List.replicate 8 0 ++ desc 0)).payload.drop 8).take 64)).drop 60)) 31 = true ∧
    (takeInbox (inboxed (fr 3 0 0 1 (List.replicate 8 0 ++ desc 0))) (fun f => f.typ == 0x03)).isSome = true := by decide +kernel
/-- A BULK payload of an operation on context 0 at an offset with data. -/
def bulkPay (op off : Nat) (d : List Byte) : List Byte := leBytes 2 0 ++ leBytes 1 op ++ leBytes 5 0 ++ leBytes 8 off ++ d
theorem wit_Delivered_bulk : (takeInbox (inboxed (fr 8 2 0 1 (bulkPay 1 0 [1, 2]))) (fun f => f.typ == 0x08 && bulkOp f == 0x01 && decide (16 ≤ f.payload.length))).isSome = true ∧
    inWindow (ctxOf (inboxed (fr 8 2 0 1 [])) 0) 65534 2 = true ∧ inWindow (ctxOf (inboxed (fr 8 2 0 1 [])) 0) 65535 2 = false ∧
    (takeInbox (inboxed (fr 8 2 0 1 (bulkPay 2 0 (leBytes 4 2032)))) (fun f => f.typ == 0x08 && bulkOp f == 0x02 && f.payload.length == 20
        && decide (ofLe (f.payload.drop 16) ≤ 2032))).isSome = true ∧ memBad (inboxed (fr 8 2 0 1 [])) 0 2032 = false := by decide +kernel
theorem wit_Delivered_stream : Reached (inboxed (fr 0x10 1 0 1 [])) 0 ∧ (List.range 32).any (srcBlocked (inboxed (fr 0x10 1 0 1 []))) = false ∧
    (takeInbox (inboxed (fr 0x10 1 0 1 [])) (fun f => f.typ == 0x10)).isSome = true := by decide +kernel

/-! ## Witnesses: the recovery ladder -/

def trig (step target : Nat) : Trigger := { step := step, target := target, cause := 2, ft := 0, ctx := 0xFFFFFFFF, cmdSeq := 0, blame := false }
def stepping (t : Trigger) (ph now : Nat) (l : LadSt) : State := { setPhase State.reset ph with ladder := { l with cur := some t }, ft := now }
theorem wit_Ladder_start : ∀ e ∈ [(1, tgt tgCtx 0), (2, tgt tgTile 0), (3, tgt tgPart 0), (4, tgt tgChip 0), (5, tgt tgChip 0)],
    ∃ s : State, Reached s 0 ∧ s.ladder.cur = none ∧ s.triggers = trig e.1 e.2 :: [] ∧ s.ladder.halted = false := by
  intro e _; exact ⟨{ State.reset with triggers := [trig e.1 e.2] }, .inl (Nat.zero_le _), rfl, rfl, rfl⟩
theorem wit_Ladder_phases : Reached (stepping (trig 2 (tgt tgCore 0)) phDump 0 {}) 0 ∧
    dumpMay (stepping (trig 2 (tgt tgCore 0)) phDump 0 {}) { silent := [], unread := [], from_ := 0 } = true ∧
    answered (stepping (trig 3 (tgt tgPart 0)) phReset 0 {}) (trig 3 (tgt tgPart 0)) = true ∧ (stepping (trig 2 (tgt tgCore 0)) phDump 0 {}).ladder.cur = some (trig 2 (tgt tgCore 0)) ∧
    phase (stepping (trig 2 (tgt tgCore 0)) phDump 0 {}) = phDump ∧ phase (stepping (trig 3 (tgt tgPart 0)) phReset 0 {}) = phReset ∧
    replays (stepping (trig 3 (tgt tgPart 0)) phReset 0 {}) (trig 3 (tgt tgPart 0)) = false ∧
    replays (setFlag (stepping (trig 2 (tgt tgCore 0)) phReset 0 {}) REC_CFG 29 false) (trig 2 (tgt tgCore 0)) = false := by decide +kernel
theorem wit_Ladder_repeat : ∃ a : State, maxSteps a 4 = some 1 ∧ 1 < stepsTaken a (trig 4 (tgt tgChip 0)) :=
  ⟨stepping (trig 4 (tgt tgChip 0)) phReset 0 { hist := [(4, tgt tgChip 0, 0), (4, tgt tgChip 0, 0)] }, by decide +kernel⟩
/-- A hold-up measurement that admits every store. -/
def admits (s : State) : State := { s with sec := { s.sec with cfg := { s.sec.cfg with holdup := some [0, 0, 0, 0, 0, 0] } } }
theorem wit_Ladder_e5 : ∃ s : State, Reached s 1000000 ∧ s.ladder.cur = some (trig 5 (tgt tgChip 0)) ∧ s.pwr.trip = false ∧ s.pwr.cyc = none ∧
    s.ladder.begun + 1000000 ≤ s.ft := ⟨admits (stepping (trig 5 (tgt tgChip 0)) 5 1000000 {}), by decide +kernel⟩
theorem wit_Ladder_timeout : ∃ s : State, Reached s 8000001 ∧ s.ladder.cur = some (trig 4 (tgt tgChip 0)) ∧ phase s = phReset ∧
    s.ladder.begun + stepBound s (trig 4 (tgt tgChip 0)) < s.ft := ⟨stepping (trig 4 (tgt tgChip 0)) phReset 8000001 {}, by decide +kernel⟩
theorem wit_Ladder_hold : ∃ s : State, Reached s 1000000 ∧ s.ladder.cur = some (trig 5 (tgt tgChip 0)) ∧ s.pwr.cyc = some 0 ∧
    0 + fld s REC_PWRCYC 15 0 * 1000000 ≤ s.ft :=
  ⟨{ setFld (stepping (trig 5 (tgt tgChip 0)) 5 1000000 {}) REC_PWRCYC 15 0 1 with pwr := { cyc := some 0 } }, by decide +kernel⟩
theorem wit_Watchdog_unit : unitState (setUnitState State.reset (ncPage 511) stError) (ncPage 511) = stError ∧
    hangCommand (setUnitState State.reset (ncPage 511) stError) = true := by decide +kernel
theorem wit_Watchdog_beat : ∃ s : State, Reached s 1000000 ∧ s.ladder.wdtOut = false ∧ s.ladder.wdt + 1000000 ≤ s.ft :=
  ⟨{ State.reset with ft := 1000000 }, by decide +kernel⟩
theorem wit_Watchdog_warden : ∃ s : State, Reached s 10000000 ∧ s.ladder.wdtOut = false ∧ s.pwr.down = false ∧
    s.ladder.wdt + fld s REC_WDT 15 0 * 1000000 ≤ s.ft ∧ flag s REC_CFG 31 = true ∧ flag (setFlag s REC_CFG 31 false) REC_CFG 31 = false :=
  ⟨{ setFlag (setFld State.reset REC_WDT 15 0 10) REC_CFG 31 true with ft := 10000000 }, by decide +kernel⟩
theorem wit_Watchdog_helper : ∃ s : State, Reached s 0 ∧ partOf s (31 - 16) = some 7 ∧ (partOf s (30 - 16)).isNone = true :=
  ⟨setFld (setFlag State.reset (CC_PART 15) 3 true) (CC_PART 15) 2 0 7, by decide +kernel⟩
/-- A job that lost tile 0 and asked for its rejoin. -/
def lostUnit : Rejoin := { unit := 0, job := 1, ft := 0, windows := [], owed := [], ask := true }
def rejoining : State := { ready [tilePage 0] with jobs := [job0], ladder := { rejoins := [lostUnit] } }
theorem wit_Watchdog_rejoin : ∃ a : State, Reached a 0 ∧ a.ladder.rejoins.filter (fun r => r.unit == 0 && r.ask) = [lostUnit] ∧
    unitState a (unitPage 0) = stReady ∧ [lostUnit].filter (fun r => (jobOf a r.job).any (fun j => decide (j.phase = .bound))) = [lostUnit] ∧
    (notice (updLad ([lostUnit].foldl rejoin a) (fun l => { l with rejoins := l.rejoins.filter (fun r => r.unit != 0) })) 0x0104 0
      (leBytes 4 (unitTgt 0) ++ leBytes 1 0)).ladder.cur = none := ⟨rejoining, by decide +kernel⟩
theorem wit_Recovery_reset : running1 (hosted (cmd0 0x40 4 0 0 0 (tgt tgChip 0))) 0 1 0x40 = some (cmd0 0x40 4 0 0 0 (tgt tgChip 0)) ∧
    stepFits (cmdTopt (cmd0 0x40 4 0 0 0 (tgt tgChip 0)) % 8) (cmdArg (cmd0 0x40 4 0 0 0 (tgt tgChip 0))) = true ∧ stepFits 1 (tgt tgChip 0) = false ∧ stepFits 4 (tgt tgChip 1) = false ∧
    (cmdTopt (cmd0 0x40 4 0 0 0 (tgt tgChip 0)) % 8 ≠ 1 ∨ cmdArg (cmd0 0x40 4 0 0 0 (tgt tgChip 0)) ≠ tgt tgCtx 0) := by decide +kernel
theorem wit_Recovery_dump : running1 (hosted (cmd0 0x41 0 0 0 4096 7)) 0 1 0x41 = some (cmd0 0x41 0 0 0 4096 7) ∧ (hosted (cmd0 0x41 0 0 0 4096 7)).ladder.held.contains 7 = false ∧
    running1 (hosted (cmd0 0x42 0 0 0 0 7)) 0 1 0x42 = some (cmd0 0x42 0 0 0 0 7) ∧
    ∃ s : State, running1 s 0 1 0x41 = some (cmd0 0x41 0 0 0 4096 7) ∧ s.ladder.held.contains (cmdArg (cmd0 0x41 0 0 0 4096 7)) = true ∧
      memBad s (slotAt s (cmdArg (cmd0 0x41 0 0 0 4096 7))) (cmdLen (cmd0 0x41 0 0 0 4096 7)) = false ∧ cmdDev (cmd0 0x41 0 0 0 4096 7) = false :=
  ⟨by decide +kernel, by decide +kernel, by decide +kernel, { hosted (cmd0 0x41 0 0 0 4096 7) with ladder := { held := [7] } }, by decide +kernel⟩
theorem wit_Recovery_rejoin : ∃ s : State, running1 s 0 1 0x43 = some (cmd0 0x43 0 0 0 0 (tgt tgTile 0)) ∧ s.ladder.rejoins.any (fun r => r.cmds.contains (0, 1)) = false ∧
    isUnit (tgt tgTile 0) = true ∧ tgtOk (tgt tgTile 0) = true ∧
    s.ladder.rejoins.any (fun r => r.unit == 0 && (jobOf s r.job).any (fun j => decide (j.phase = .bound))) = true :=
  ⟨{ hosted (cmd0 0x43 0 0 0 0 (tgt tgTile 0)) with jobs := [job0], ladder := { rejoins := [lostUnit] } }, by decide +kernel⟩

/-! ## Witnesses: boot and update -/

theorem wit_Starts_power_on : ∃ s : State, Reached s 100000 ∧ 100000 ≤ s.ft ∧ s.pwr.booting = true ∧ s.pwr.upNext = none ∧ s.boot.up = false ∧
    s.boot.rescue = false ∧ s.pwr.down = false ∧ s.boot.warm = none ∧ s.pwr.trip = false := ⟨{ State.reset with ft := 100000 }, by decide +kernel⟩
/-- A device that runs a slot as a trial, `sec` seconds after its start. -/
def trialAt (sec : Nat) : State := { State.reset with ft := sec * 1000000000, boot := { up := true, trial := true } }
theorem wit_Starts_warm : ∃ a : State, Reached a 0 ∧ a.boot.warm = some 3 ∧ bootCmdOpen a = false ∧ a.boot.retries = [] ∧
    a.pwr.down = false ∧ a.pwr.trip = false ∧ a.boot.up = true := ⟨{ trialAt 0 with boot := { up := true, warm := some 3 } }, by decide +kernel⟩
theorem store_admits (s : State) (v : Nat) (ops : List FlashOp) (h : s.pwr.down = false) : (store (admits s) v ops).2 = true := by
  have e : ∀ o, admitted [0, 0, 0, 0, 0, 0] v o = true := by intro o; simp [admitted, needNj, at0]
  have f : ops.find? (fun o => !admitted [0, 0, 0, 0, 0, 0] v o) = none := by simp [e]
  unfold store
  simp only [admits, h, Option.getD_some, Option.isNone_some, f]
  rfl
theorem stored (s : State) (v : Nat) (ops : List FlashOp) (h : s.pwr.down = false) : ∃ t : State, store (admits s) v ops = (t, true) :=
  ⟨_, Prod.ext rfl (store_admits s v ops h)⟩
theorem bcr_admits (s : State) (v : Nat) (ops : List FlashOp) (b : BcrSt) (h : s.pwr.down = false) : (bcrStoreWith (admits s) v ops b).2 = true := by
  have e := store_admits s v (ops ++ bcrOps (admits s) (nextBcr (admits s) b)) h
  unfold bcrStoreWith
  simp only [e, if_true]
/-- What E5 and the warden's watchdog append to the log area is stored. -/
theorem wit_Ladder_logged (s : State) (v : Nat) (bs : List Byte) (h : s.pwr.down = false) : ∃ t : State, logAppend (admits s) v bs = (t, true) := by
  unfold logAppend
  rcases hs : store (admits s) v (logOps (admits s) bs) with ⟨t, ok⟩
  have := store_admits s v (logOps (admits s) bs) h
  rw [hs] at this; cases this
  exact ⟨_, rfl⟩
theorem wit_Starts_confirm : ∃ a : State, Reached a 0 ∧ a.boot.trial = true ∧ a.boot.up = true ∧ 600 ≤ health a ∧ flag a UPD_CFG 0 = false ∧ retrying a 1 = false ∧
    (bcrStore a 0 (confirmBcr a)).2 = false ∧ (bcrStore (admits a) 0 (confirmBcr (admits a))).2 = true :=
  ⟨trialAt 600, by decide +kernel, by decide +kernel, by decide +kernel, by decide +kernel, by decide +kernel, by decide +kernel,
    by decide +kernel, bcr_admits _ _ _ _ (by decide +kernel)⟩
/-- A fragment of chunk `i` of delivery 7. -/
def fragOf (i f : Nat) : Frame := fr 7 2 0 1 (leBytes 4 7 ++ leBytes 2 i ++ leBytes 1 f ++ List.replicate 9 0 ++ List.replicate 1024 0)
/-- Delivery 7 of version 1 with 3 chunks into slot B, with chunks 0 and 1 marked as stored where asked. -/
def delivering (f : Frame) : State := { flashWrite State.reset recAddr (recHead 7 1 3 1) with inbox := [f], boot := { up := true } }
theorem wit_Starts_chunk : Reached (delivering (fragOf 2 63)) 0 ∧ ∃ u : State, takeInbox (delivering (fragOf 2 63)) (fun x => x.typ == 0x07) = some (fragOf 2 63, u) ∧ inBivouac u = false ∧
    (fragOf 2 63).payload.length = 1040 ∧ fieldN (fragOf 2 63).payload 6 1 = 63 ∧ dOpen u = true ∧ fieldN (fragOf 2 63).payload 0 4 = dXfer u ∧
    ((putFrag (bump u UPD_FRAG_CNT) 2 63 []).boot.bufs.find? (fun b => b.chunk == 2)).bind wholeChunk = none ∧ dOpen State.reset = false :=
  ⟨.inl (Nat.zero_le _), _, rfl, by decide +kernel⟩
theorem wit_Starts_whole : ∃ u : State, takeInbox { delivering (fragOf 2 63) with boot := { up := true, bufs := [{ chunk := 2, frags := (List.range 63).map (fun f => (f, [])) }] } }
      (fun x => x.typ == 0x07) = some (fragOf 2 63, u) ∧
    (((putFrag (bump u UPD_FRAG_CNT) (fieldN (fragOf 2 63).payload 4 2) (fieldN (fragOf 2 63).payload 6 1) ((fragOf 2 63).payload.drop 16)).boot.bufs.find?
      (fun b => b.chunk == fieldN (fragOf 2 63).payload 4 2)).bind wholeChunk).isSome = true := ⟨_, rfl, by decide +kernel⟩
/-- A refused store of a record, first and last tried at FT 0. -/
def refused0 : Retry := { what := .bcr {} 0, first := 0, last := 0 }
/-- A device that still has that store to try, at an FT. -/
def retryAt (ft : Nat) : State := { State.reset with ft := ft, boot := { retries := [refused0] } }
theorem wit_Starts_retry : Reached (retryAt 100000000) 100000000 ∧
    takeFirst (fun (x : Retry) => decide (x.last + 100000000 ≤ (retryAt 100000000).ft)) (retryAt 100000000).boot.retries = some (refused0, []) ∧
    (retryAt 100000000).ft ≤ refused0.first + 10000000000 ∧ (retryStore State.reset 0 true refused0.what).2 = false ∧
    takeFirst (fun (x : Retry) => decide (x.last + 100000000 ≤ (retryAt 10000000001).ft)) (retryAt 10000000001).boot.retries = some (refused0, []) ∧
    refused0.first + 10000000000 < (retryAt 10000000001).ft := by decide +kernel
theorem wit_Starts_retried (s : State) (h : s.pwr.down = false) : (retryStore (admits s) 0 true refused0.what).2 = true :=
  bcr_admits s 0 [] {} h
theorem wit_Starts_flash : ∃ s : State, checkAcc s own true 4 UPD_FL_CTRL = .ok ∧ bits (word 1) 0 0 = 1 ∧ bits (word 1) 1 1 = 0 ∧
    flag (setFlag (wr64 (setFld s (keyOf own UPD_FL_CTRL) 1 1 0) (keyOf own UPD_FL_DATA_LO) (keyOf own UPD_FL_DATA_HI)
      (ofLe (flashRead (setFld s (keyOf own UPD_FL_CTRL) 1 1 0) (rdN (setFld s (keyOf own UPD_FL_CTRL) 1 1 0) (keyOf own UPD_FL_ADDR)) 8))) (keyOf own UPD_FL_STAT) 1 false)
      (keyOf own UPD_FL_CTRL) 1 = false := ⟨ready [pageOf UPD_FL_CTRL], by decide +kernel⟩

/-! ## Witnesses: the update commands -/

/-- A payload of UPD_BEGIN: delivery 7, version 1, 3 chunks. -/
def beginPay : List Byte := leBytes 4 7 ++ leBytes 4 1 ++ leBytes 2 3 ++ List.replicate 6 0
def beginCmd : CmdSt := cmd0 0x30 0 0 0 16 0
theorem wit_Begin_payload : running1 (hosted beginCmd) 0 1 0x30 = some beginCmd ∧ payIn (hosted beginCmd) 0 beginCmd none = .inl 0x0104 ∧
    payIn (hosted beginCmd) 0 beginCmd (some beginPay) = .inr beginPay ∧ fieldN beginPay 0 4 ≠ 0 ∧ fieldN beginPay 10 6 = 0 ∧ 3 ≤ fieldN beginPay 8 2 ∧
    fieldN beginPay 8 2 ≤ 768 ∧ anyTrial (hosted beginCmd).boot.bcr = false ∧ dOpen (hosted beginCmd) = false ∧ ((hosted beginCmd).boot.rescue = false ∨ rescueFree (hosted beginCmd).boot.bcr (targetSlot (hosted beginCmd)) = true) ∧
    anyTrial { stA := 3 } = true := by decide +kernel
theorem wit_Begin_open : ∃ s : State, running1 s 0 1 0x30 = some beginCmd ∧ anyTrial s.boot.bcr = false ∧ dOpen s = true ∧
    dXfer s = fieldN beginPay 0 4 ∧ dVer s = fieldN beginPay 4 4 ∧ dChunks s = fieldN beginPay 8 2 ∧ s.boot.complete = false ∧ nbit (cmdTopt beginCmd) 0 = false ∧
    dXfer (flashWrite s recAddr (recHead 8 1 3 1)) ≠ fieldN beginPay 0 4 ∧ dOpen (flashWrite s recAddr (recHead 8 1 3 1)) = true :=
  ⟨flashWrite (hosted beginCmd) recAddr (recHead 7 1 3 1), by decide +kernel⟩
theorem wit_Begin_new : ∃ t : State, bcrStoreWith (admits (hosted beginCmd)) 0 [.erase recAddr, .prog recAddr (recHead (fieldN beginPay 0 4) (fieldN beginPay 4 4)
    (fieldN beginPay 8 2) (targetSlot (admits (hosted beginCmd))))] (setSlotSt (admits (hosted beginCmd)).boot.bcr (targetSlot (admits (hosted beginCmd))) 1) = (t, true) :=
  ⟨_, Prod.ext rfl (bcr_admits _ _ _ _ rfl)⟩
theorem wit_UpdChunk_payload : running1 (hosted (cmd0 0x31 0 0 0 16 0)) 0 1 0x31 = some (cmd0 0x31 0 0 0 16 0) ∧
    payIn (hosted (cmd0 0x31 0 0 0 16 0)) 0 (cmd0 0x31 0 0 0 16 0) none = .inl 0x0104 ∧
    payIn (hosted (cmd0 0x31 0 0 0 16 0)) 0 (cmd0 0x31 0 0 0 16 0) (some beginPay) = .inr beginPay := by decide +kernel
theorem wit_Abort : ∃ s : State, running1 s 0 1 0x32 = some (cmd0 0x32 0 0 0 0 7) ∧ dOpen s = true ∧ dXfer s = cmdArg (cmd0 0x32 0 0 0 0 7) ∧ slotSt s.boot.bcr (dSlot s) = 1 ∧
    (closeDelivery s 0).2 = true ∧ dOpen (hosted (cmd0 0x32 0 0 0 0 7)) = false := by
  refine ⟨admits { flashWrite (hosted (cmd0 0x32 0 0 0 0 7)) recAddr (recHead 7 1 3 1) with boot := { bcr := { stB := 1 } } }, by decide +kernel, by decide +kernel, by decide +kernel,
    by decide +kernel, ?_, by decide +kernel⟩
  have h := bcr_admits { flashWrite (hosted (cmd0 0x32 0 0 0 0 7)) recAddr (recHead 7 1 3 1) with boot := { bcr := { stB := 1 } } } 0 [.erase recAddr]
    (emptyBcr (admits { flashWrite (hosted (cmd0 0x32 0 0 0 0 7)) recAddr (recHead 7 1 3 1) with boot := { bcr := { stB := 1 } } })) rfl
  unfold closeDelivery
  split
  · rfl
  · exact h
theorem wit_Activate_slot : ∃ s : State, running1 s 0 1 0x33 = some (cmd0 0x33 0 0 0 0 1) ∧ cmdArg (cmd0 0x33 0 0 0 0 1) < 2 ∧
    slotSt s.boot.bcr (otherSlot (cmdArg (cmd0 0x33 0 0 0 0 1))) ≠ 3 ∧ slotSt s.boot.bcr (cmdArg (cmd0 0x33 0 0 0 0 1)) = 2 ∧
    (bcrStore s 0 (activateBcr s.boot.bcr (cmdArg (cmd0 0x33 0 0 0 0 1)))).2 = true ∧ nbit (cmdTopt (cmd0 0x33 0 0 0 0 1)) 0 = false :=
  ⟨admits { hosted (cmd0 0x33 0 0 0 0 1) with boot := { bcr := { stB := 2 } } }, by decide +kernel, by decide +kernel, by decide +kernel, by decide +kernel,
    bcr_admits _ _ _ _ rfl, by decide +kernel⟩
theorem wit_Confirm : running1 (hosted (cmd0 0x34 0 0 0 0 0)) 0 1 0x34 = some (cmd0 0x34 0 0 0 0 0) ∧ (hosted (cmd0 0x34 0 0 0 0 0)).boot.trial = false ∧
    health (trialAt 599) < 600 ∧ 600 ≤ health (trialAt 600) ∧ (trialAt 600).boot.trial = true := by decide +kernel
theorem wit_Fallback : ∃ s : State, running1 s 0 1 0x35 = some (cmd0 0x35 0 0 0 0 0) ∧ s.boot.trial = true ∧ (bcrStore s 0 (fallbackBcr s)).2 = true :=
  ⟨admits { hosted (cmd0 0x35 0 0 0 0 0) with boot := { trial := true } }, by decide +kernel, by decide +kernel, bcr_admits _ _ _ _ rfl⟩
theorem wit_Config_bad : running1 (hosted (cmd0 0x36 0 0 0 16 0)) 0 1 0x36 = some (cmd0 0x36 0 0 0 16 0) ∧
    payIn (hosted (cmd0 0x36 0 0 0 16 0)) 0 (cmd0 0x36 0 0 0 16 0) (some beginPay) = .inr beginPay ∧ (recItems (padTo 65536 beginPay)).isNone = true ∧
    beginPay.length < 128 ∧ running1 (hosted (cmd0 0x38 0 0 0 0 0)) 0 1 0x38 = some (cmd0 0x38 0 0 0 0 0) := by decide +kernel
theorem wit_Config_invalid : recValid (padTo 65536 beginPay) 0 0 = none := by
  unfold recValid; rw [show recItems (padTo 65536 beginPay) = none by decide +kernel]

/-! A configuration record of sequence 1 signed by root key 0: GRADE 0 and ROOT_MASK 1. -/

/-- Bytes of zero. -/
def zeros (n : Nat) : List Byte := List.replicate n 0
theorem zeros_length (n : Nat) : (zeros n).length = n := List.length_replicate
theorem pad_exact (bs : List Byte) : padTo bs.length bs = bs := by
  unfold padTo; rw [Nat.sub_self, List.replicate_zero, List.append_nil, List.take_length]
theorem pad_more (bs : List Byte) (n : Nat) : padTo (bs.length + n) bs = bs ++ zeros n := by
  unfold padTo zeros; rw [Nat.add_sub_cancel_left, List.take_of_length_le]; rw [List.length_append, List.length_replicate]
theorem cut_left (a b : List Byte) (off n : Nat) (h : off + n ≤ a.length) : cut (a ++ b) off n = cut a off n := by
  unfold cut; rw [List.drop_append_of_le_length (by omega), List.take_append_of_le_length (by rw [List.length_drop]; omega)]
theorem cut_right (a b : List Byte) (off n : Nat) (h : a.length ≤ off) : cut (a ++ b) off n = cut b (off - a.length) n := by
  unfold cut; rw [List.drop_append, List.drop_of_length_le h, List.nil_append]
theorem cut_all (a b : List Byte) : cut (a ++ b) 0 a.length = a := by
  rw [cut_left _ _ _ _ (by omega)]; unfold cut; rw [List.drop_zero, List.take_length, pad_exact]
theorem cut_zeros (a : List Byte) (n m : Nat) (h : n ≤ m) : cut (a ++ zeros m) 0 (a.length + n) = a ++ zeros n := by
  have e : ((a ++ zeros m).drop 0).take (a.length + n) = a ++ zeros n := by
    rw [List.drop_zero, List.take_append, Nat.add_sub_cancel_left, List.take_of_length_le (by omega)]
    unfold zeros; rw [List.take_replicate, Nat.min_eq_left h]
  unfold cut; rw [e]
  have := pad_exact (a ++ zeros n)
  rwa [List.length_append, zeros_length] at this
def recFront : List Byte := leBytes 4 0x4643484B ++ leBytes 2 1 ++ leBytes 2 2 ++ leBytes 4 1 ++ leBytes 4 0 ++ zeros 16
def rootPk : List Byte := Config.rootKey 0
def itemA : List Byte := leBytes 2 1 ++ leBytes 2 1 ++ leBytes 4 0
def itemB : List Byte := leBytes 2 2 ++ leBytes 2 1 ++ leBytes 4 1
def recTail : List Byte := zeros 160 ++ ((itemA ++ itemB) ++ zeros 35152)
def recBody : List Byte := recFront ++ (rootPk ++ recTail)
def recSig : List Byte := (Config.slhSigned 29792 rootPk recBody).toList
def record1 : List Byte := recBody ++ recSig
theorem front32 : recFront.length = 32 := by decide +kernel
theorem items16 : (itemA ++ itemB).length = 16 := by decide +kernel
theorem root_length : rootPk.length = 64 := Vector.length_toList
theorem tail_length : recTail.length = 35328 := by unfold recTail; rw [List.length_append, List.length_append, items16, zeros_length, zeros_length]
theorem body_length : recBody.length = 35424 := by
  unfold recBody; rw [List.length_append, List.length_append, root_length, tail_length, front32]
theorem sig_length : recSig.length = 29792 := Vector.length_toList
theorem record_length : record1.length = 65216 := by unfold record1; rw [List.length_append, body_length, sig_length]
def record65536 : List Byte := recBody ++ (recSig ++ zeros 320)
theorem record_padded : padTo 65536 record1 = record65536 := by
  have := pad_more record1 320
  rw [record_length] at this; rw [this]; unfold record65536 record1; rw [List.append_assoc]
theorem record_front (off n : Nat) (h : off + n ≤ 32) : fieldN record65536 off n = fieldN recFront off n := by
  unfold fieldN record65536
  rw [cut_left _ _ _ _ (by rw [body_length]; omega)]; unfold recBody
  rw [cut_left _ _ _ _ (by rw [front32]; omega)]
theorem item_area : cut record65536 0x100 5376 = (itemA ++ itemB) ++ zeros 5360 := by
  unfold record65536
  rw [cut_left _ _ _ _ (by rw [body_length]; omega)]; unfold recBody
  rw [cut_right _ _ _ _ (by rw [front32]; decide), cut_right _ _ _ _ (by rw [root_length, front32]; decide), root_length, front32]
  unfold recTail
  rw [cut_right _ _ _ _ (by rw [zeros_length]), zeros_length]
  have := cut_zeros (itemA ++ itemB) 5360 35152 (by omega)
  rwa [items16] at this
theorem items_parse : parseItems 2 ((itemA ++ itemB) ++ zeros 5360) = some [⟨1, [0]⟩, ⟨2, [1]⟩] := by
  have ha : itemA.length = 8 := by decide +kernel
  have hb : itemB.length = 8 := by decide +kernel
  have f : ∀ (x y : List Byte) off n, off + n ≤ x.length → fieldN (x ++ y) off n = fieldN x off n := by
    intro x y off n h; unfold fieldN; rw [cut_left _ _ _ _ h]
  have d : ∀ (x y : List Byte), x.length = 8 → (x ++ y).drop ((4 + 1 + 7) / 8 * 8) = y := by
    intro x y h; exact List.drop_left' h
  have k : ∀ (x y : List Byte), x.length = 8 → ((x ++ y).drop 4).take 1 = (x.drop 4).take 1 := by
    intro x y h; rw [List.drop_append_of_le_length (by omega), List.take_append_of_le_length (by rw [List.length_drop]; omega)]
  have step : ∀ (n : Nat) (x y : List Byte) (i v : Nat), x.length = 8 → fieldN x 2 2 = 1 → fieldN x 0 2 = i → (x.drop 4).take 1 = [BitVec.ofNat 8 v] →
      parseItems (n + 1) (x ++ y) = (parseItems n y).map (fun r => ⟨i, [BitVec.ofNat 8 v]⟩ :: r) := by
    intro n x y i v h h2 h3 h4
    conv_lhs => unfold parseItems
    rw [f x y 2 2 (by omega), f x y 0 2 (by omega), h2, h3]
    simp only
    rw [if_neg (by rw [List.length_append]; omega), d x y h, k x y h, h4]
  rw [List.append_assoc, step 1 itemA _ 1 0 ha (by decide +kernel) (by decide +kernel) (by decide +kernel),
    step 0 itemB _ 2 1 hb (by decide +kernel) (by decide +kernel) (by decide +kernel)]
  rfl
theorem record_items : recItems record65536 = some [⟨1, [0]⟩, ⟨2, [1]⟩] := by
  unfold recItems
  rw [record_front 6 2 (by omega), show fieldN recFront 6 2 = 2 by decide +kernel, item_area, items_parse]
  decide +kernel
/-- The values of that record. -/
def record1Cfg : CfgSt := recValues record65536 0 [⟨1, [0]⟩, ⟨2, [1]⟩]
theorem record1_values : record1Cfg = { seq := 1, floor := 0, rootIdx := 0, copy := 0, grade := 0, rootMask := 1 } := by
  unfold record1Cfg recValues
  rw [record_front _ _ (by omega), record_front _ _ (by omega), record_front _ _ (by omega)]
  decide +kernel
theorem record_pk : cut record65536 0x20 64 = rootPk := by
  unfold record65536
  rw [cut_left _ _ _ _ (by rw [body_length]; omega)]; unfold recBody
  rw [cut_right _ _ _ _ (by rw [front32]), front32]
  have := cut_all rootPk recTail
  rw [root_length] at this; exact this
theorem record_signed : cut record65536 0 0x8A60 = recBody ∧ cut record65536 0x8A60 29792 = recSig := by
  unfold record65536
  constructor
  · have := cut_all recBody (recSig ++ zeros 320)
    rw [body_length] at this; exact this
  · rw [cut_right _ _ _ _ (by rw [body_length]), body_length]
    have := cut_all recSig (zeros 320)
    rw [sig_length] at this; exact this
theorem own_key_verifies (n : Nat) (pk msg : List Byte) : Config.slhVerify pk msg (Config.slhSigned n pk msg).toList = true := by
  unfold Config.slhVerify
  have : (Config.slhSigned n pk msg).toList.length = n := by simp
  rw [Bool.or_eq_true]; right
  rw [beq_iff_eq]; congr 1 <;> rw [this]
theorem wit_Config_valid : recValid (padTo 65536 record1) 0 0 = some record1Cfg := by
  rw [record_padded]
  have hc : record1Cfg = recValues record65536 0 [⟨1, [0]⟩, ⟨2, [1]⟩] := rfl
  unfold recValid
  simp only [record_items, ← hc, record_pk, record_signed.1, record_signed.2]
  rw [record_front 0 4 (by omega), record_front 4 2 (by omega), record_front 0x10 1 (by omega), record_front 0x18 8 (by omega), record1_values]
  have hv : Config.slhVerify rootPk recBody recSig = true := own_key_verifies _ _ _
  have h1 : fieldN recFront 0 4 = 0x4643484B := by decide +kernel
  have h2 : fieldN recFront 4 2 = 1 := by decide +kernel
  have h3 : fieldN recFront 0x10 1 = 0 := by decide +kernel
  have h4 : fieldN recFront 0x18 8 = 0 := by decide +kernel
  simp only [hv, h1, h2, h3, h4]
  simp [rootPk]; decide
theorem wit_Config_newer : (hosted (cmd0 0x36 0 0 0 65216 0)).sec.cfg.seq < record1Cfg.seq ∧ (hosted (cmd0 0x36 0 0 0 65216 0)).sec.cfg.floor ≤ record1Cfg.floor := by
  rw [record1_values]; decide +kernel
theorem wit_Config_stored (k : Nat) : payIn (hosted (cmd0 0x36 0 0 0 65216 0)) 0 (cmd0 0x36 0 0 0 65216 0) (some record1) = .inr record1 ∧
    ∃ t : State, store (admits (hosted (cmd0 0x36 0 0 0 65216 0))) 0 [.erase (cfgAt k), .prog (cfgAt k) (padTo 65536 record1)] = (t, true) := by
  refine ⟨?_, stored _ _ _ (by decide +kernel)⟩
  have h := pad_exact record1
  rw [record_length] at h
  unfold payIn
  rw [show cmdDev (cmd0 0x36 0 0 0 65216 0) = false by decide +kernel, show cmdLen (cmd0 0x36 0 0 0 65216 0) = 65216 by decide +kernel]
  exact congrArg Sum.inr h
/-- A settings record without entries. -/
def noSettings : List Byte := leBytes 4 0x5453484B ++ leBytes 2 0 ++ List.replicate 122 0
def saving : State := { hosted (cmd0 0x37 0 0 0 128 0) with boot := { bcr := { bankA := 0 } } }
theorem wit_Settings : running1 saving 0 1 0x37 = some (cmd0 0x37 0 0 0 128 0) ∧ payIn saving 0 (cmd0 0x37 0 0 0 128 0) (some noSettings) = .inr noSettings ∧
    noSettings.length = 128 + 8 * fieldN noSettings 8 4 ∧ fieldN noSettings 8 4 ≤ 131056 ∧ fieldN noSettings 4 2 = saving.boot.setVer ∧ saveBank saving ≠ saving.boot.bcr.orig ∧
    slotBank saving.boot.bcr saving.boot.slot = saveBank saving := by decide +kernel
theorem wit_Settings_stored (bs : List Byte) : ∃ t : State, store (admits saving) 0 (bankOps (saveBank saving) bs) = (t, true) := stored _ _ _ (by decide +kernel)
theorem wit_Svc : (regRequest State.reset whoService (regReq 1)).2.isSome = true ∧
    svcReserved { seq := 1, words := wordsOf 16 (leBytes 4 0x38000000 ++ List.replicate 52 0 ++ leBytes 8 1) } [0] = true ∧
    ∃ desc pay : List Byte, ∃ k : CmdSt, k = { seq := at0 (wordsOf 16 desc) 14, words := wordsOf 16 desc } ∧ desc.length = 64 ∧ svcReserved k pay = false ∧ pay ≠ [] ∧
      inBivouac State.reset = false :=
  ⟨by decide +kernel, by decide +kernel, leBytes 4 0x30000000 ++ List.replicate 44 0 ++ leBytes 4 16 ++ leBytes 4 0 ++ leBytes 4 1 ++ leBytes 4 0x80000000, beginPay, _, rfl, by decide +kernel⟩

/-! ## Witnesses: quotes and debug -/

theorem wit_Quote_go : checkAcc (ready [0x901000]) own true 4 SEC_Q_CTRL = .ok ∧ fld (ready [0x901000]) SEC_Q_STAT 31 30 ≠ 1 ∧ bits (word 1) 0 0 = 1 ∧
    (setFld (ready [0x901000]) SEC_Q_CTRL 1 1 (bits (word 1) 1 1)).sec.seed = none ∧
    (setFld { ready [0x901000] with sec := { seed := some [] } } SEC_Q_CTRL 1 1 (bits (word 1) 1 1)).sec.seed.isSome = true ∧
    checkAcc (wrN (ready [0x901000]) SEC_Q_STAT 0x40000000) own true 4 SEC_Q_CTRL = .ok ∧ fld (wrN (ready [0x901000]) SEC_Q_STAT 0x40000000) SEC_Q_STAT 31 30 = 1 := by decide +kernel
theorem wit_Quote_done : ∃ a : State, Reached a 0 ∧ a.sec.signing = some [1] ∧ a.sec.seed = some [] :=
  ⟨{ State.reset with sec := { seed := some [], signing := some [1] } }, .inl (Nat.zero_le _), rfl, rfl⟩
theorem wit_Quote_read : checkAcc (ready [0x901000]) own false 4 (SEC_Q_DATA_LO 1) = .ok ∧ flag (ready [0x901000]) SEC_Q_CTRL 1 = false ∧
    flag (wrN (ready [0x901000]) SEC_Q_CTRL 2) SEC_Q_CTRL 1 = true ∧ checkAcc (wrN (ready [0x901000]) SEC_Q_CTRL 2) own false 4 (SEC_Q_DATA_LO 1) = .ok := by decide +kernel
theorem wit_Unlock : ({ State.reset with sec := { refusals := 8 } }).sec.refusals = 8 ∧ State.reset.sec.token = none ∧ State.reset.sec.refusals < 8 := by decide +kernel
/-- A device that accepts tokens of key 1, with UID 5. -/
def debuggable (l : List Byte) : State :=
  { wr64 State.reset (SEC_UID_LO 0) (SEC_UID_LO 1) 5 with sec := { seed := some [], cfg := { debug := true, keys := [{ id := 1, roles := 4, pk := [] }] }, token := some l } }
/-- A token of key 1 for that device: register write for 60 s. -/
def tokenHead : List Byte := leBytes 4 0x4244484B ++ leBytes 8 5 ++ zeros 32 ++ leBytes 8 1 ++ leBytes 4 2 ++ leBytes 4 60 ++ zeros 68
def token1 : List Byte := tokenHead ++ (Config.slhSigned 29792 [] tokenHead).toList
theorem token_head : tokenHead.length = 128 := by decide +kernel
theorem token_front (off n : Nat) (h : off + n ≤ 128) : cut token1 off n = cut tokenHead off n := by
  unfold token1; rw [cut_left _ _ _ _ (by rw [token_head]; omega)]
theorem token_fields (off n : Nat) (h : off + n ≤ 128) : fieldN token1 off n = fieldN tokenHead off n := by
  unfold fieldN; rw [token_front _ _ h]
theorem wit_Token : Reached (debuggable token1) 0 ∧ (debuggable token1).sec.token = some token1 ∧
    tokenOk { debuggable token1 with sec := { (debuggable token1).sec with token := none } } token1 = true ∧
    (debuggable token1).sec.refusals < 8 := by
  refine ⟨.inl (Nat.zero_le _), rfl, ?_, by decide⟩
  have hv : Config.slhVerify [] tokenHead (Config.slhSigned 29792 [] tokenHead).toList = true := own_key_verifies _ _ _
  have hb : tokenBody token1 = tokenHead := by unfold tokenBody; rw [token_front _ _ (by omega)]; decide +kernel
  have hs : cut token1 128 29792 = (Config.slhSigned 29792 [] tokenHead).toList := by
    unfold token1
    rw [cut_right _ _ _ _ (by rw [token_head]), token_head]
    have := cut_all (Config.slhSigned 29792 [] tokenHead).toList []
    rwa [List.append_nil, Vector.length_toList] at this
  unfold tokenOk
  rw [hb, hs, token_front 12 32 (by omega)]
  simp only [token_fields _ _ (show 0 + 4 ≤ 128 by omega), token_fields _ _ (show 4 + 8 ≤ 128 by omega), token_fields _ _ (show 52 + 4 ≤ 128 by omega),
    token_fields _ _ (show 56 + 4 ≤ 128 by omega), token_fields _ _ (show 60 + 68 ≤ 128 by omega), token_fields _ _ (show 44 + 8 ≤ 128 by omega)]
  have hk : keyVerifies (debuggable token1).sec.cfg roleDebug (fieldN tokenHead 44 8) tokenHead (Config.slhSigned 29792 [] tokenHead).toList = true := by
    unfold keyVerifies
    rw [show fieldN tokenHead 44 8 = 1 by decide +kernel]
    simp [debuggable, hv, nbit, roleDebug]
  have hk' : keyVerifies (debuggable token1).sec.cfg roleDebug (fieldN tokenHead 44 8) tokenHead (Config.slhSigned 29792 [] tokenHead).toList = true := hk
  simp only [hk', Bool.and_true]
  decide +kernel
theorem wit_Token_refused : ∃ u : State, u.sec.token = none ∧ tokenOk u [] = false ∧ u.sec.refusals < 8 := ⟨State.reset, by decide +kernel⟩
theorem wit_Revoke : ∃ s : State, checkAcc s own true 4 SEC_DBG_CTRL = .ok ∧ bits (word 1) 0 0 = 1 ∧ flag s SEC_STATUS 2 = true :=
  ⟨setFlag (ready [0x901000]) SEC_STATUS 2 true, by decide +kernel⟩
theorem wit_Expiry_grant : ∃ s : State, Reached s 5 ∧ flag s SEC_STATUS 2 = true ∧ s.sec.until_ ≤ s.ft ∧ { s with ft := 4 }.ft < s.sec.until_ :=
  ⟨setFlag { State.reset with ft := 5, sec := { until_ := 5 } } SEC_STATUS 2 true, by decide +kernel⟩

/-! ## Witnesses: test access -/

/-- A device with a grant of a scope until FT 1000. -/
def grantedAs (scope : Nat) : State := setFld (setFlag { State.reset with sec := { until_ := 1000 } } SEC_STATUS 2 true) SEC_DBG_STAT 3 0 scope
theorem wit_Test_pins : nbit (scope (grantedAs 2)) 1 = true ∧ State.reset.boot.rescue = false ∧ nbit (scope State.reset) 1 = false := by decide +kernel
theorem wit_Test_access : ∃ s : State, granted { s with jtag := { s.jtag with ir := 0x22, tdo := s.jtag.data * 4294967296 + s.jtag.status * 4 } } = true ∧
    granted { State.reset with jtag := { State.reset.jtag with ir := 0x22, tdo := 0 } } = false := ⟨grantedAs 1, by decide +kernel⟩
theorem wit_Test_tmux : ∀ n ∈ [0, 3], checkAcc (ready [0xA01000]) own true 4 (TMUX_SEL n) = .ok ∧ (selError (word 0x80FF0000)).isSome = true ∧
    selError (word 0x80000000) = some errReservedEnc ∧ selError (word 0) = none ∧
    rd (plainWrite (ready [0xA01000]) own (TMUX_SEL n) 0) (TMUX_SEL n) = rd (ready [0xA01000]) (TMUX_SEL n) ∧
    rd (plainWrite (setFlag (ready [0xA01000]) (TMUX_SEL n) 31 true) own (TMUX_SEL n) 0) (TMUX_SEL n) ≠ rd (setFlag (ready [0xA01000]) (TMUX_SEL n) 31 true) (TMUX_SEL n) ∧
    flag (setFlag (ready [0xA01000]) (TMUX_SEL n) 31 true) (TMUX_SEL n) 31 = true ∧
    checkAcc (setFlag (ready [0xA01000]) (TMUX_SEL n) 31 true) own true 4 (TMUX_SEL n) = .ok := by decide +kernel
theorem wit_Test_pmc : ∀ k ∈ [0, 7], checkAcc (ready [0xA00000]) own true 4 (DBG_PMC_SEL k) = .ok ∧ bits (word 0) 23 16 = 0 ∧
    bits (word 0x20000) 23 16 ≠ 1 ∧ srcOk (bits (word 0x20000) 23 16) = true ∧ bits (word 0x10000) 23 16 = 1 := by decide +kernel
theorem wit_Test_snap : checkAcc (ready [0xA00000]) own true 4 DBG_SNAP = .ok ∧ bits (word 1) 0 0 = 1 := by decide +kernel

/-! ## Witnesses: the whole machine -/

theorem wit_Memories : Memory.wf State.reset = true ∧ ∃ t : State, step State.reset = .next t := ⟨by decide, _, rfl⟩
theorem wit_Memories_listed : Memory.wf (memWrite State.reset 5 [1, 0, 2]) = true ∧
    Memory.wf { State.reset with mem := [(5, 0)] } = false ∧ Memory.wf { State.reset with mem := [(6, 1), (5, 1)] } = false := by decide +kernel
theorem wit_Time : ∃ t : State, step { State.reset with ft := 7, pending := [.powerOnReset 1000] } = .next t ∧ t.ft = 0 := ⟨_, rfl, rfl⟩

/-! ## Ill-formed commands: one for each check -/

def noTile : TileRef := ⟨0, none, 0, 0⟩
theorem smoke_refused : ∀ c ∈ [
    (.registerWrite ⟨.owner, 1⟩ 4 0 0 : Instr), .registerWrite ⟨.operator, 0⟩ 4 0 0, .registerWrite ⟨.tenant, 1⟩ 4 0 0, .registerWrite ⟨.tenant, 66⟩ 4 0 0,
    .registerWrite ⟨.service, 0⟩ 4 0 0, .registerWrite ⟨.fabric, 0⟩ 4 0 0, .registerWrite ⟨.debug, 0⟩ 4 0 0, .registerWrite own 3 0 0, .registerWrite own 4 0x1000000 0,
    .registerWrite own 4 0 0x100000000, .irqStatClear own 0x1004 0, .bar4Write own 0x1000000000 [], .bar4Read own 0 4097, .belayThermalLimit 0 [], .pad 32,
    .daaRound 8 0, .descriptorRead 0 128 none, .getstatusPoll 0 4 true 0, .legacyWindowAccess own false 4 0x10000 0, .ptpSync 4 clock0 0 0 0, .ptpSync 0 { clock0 with eth := 2 } 0 0 0,
    .encoderIndex 8 0 [] true, .chainInput 16 true, .belayWait 8 0, .lateSample 0 4 0, .gridPendClear 32, .spikeFanout 16, .sbWordApply 128 0, .sbWordApply 0 8, .ncWordApply 512,
    .add 0 ⟨8, 0, 0, 0, false, 0, 0⟩, .add 0 ⟨0, 0, 0, 0, false, 0, 256⟩, .tileCmdComplete 0 3 false 0, .vuAdd 128, .retentionVerify 144 [], .retentionVerify 0 [(0, 256)],
    .signal own 16384 1, .signal own 0 65536, .ancReset own 16384, .cheapResult noTile 64 0 ⟨0, 0, 0⟩ 0, .cheapResult noTile 0 0x100000000 ⟨0, 0, 0⟩ 0,
    .exactResult noTile 64 ⟨0, 0, 0⟩ 0, .held 16 0, .ringIrq 8 0]
    , c.wf = false := by decide +kernel
theorem smoke_refused_host : ∀ c ∈ [
    (.unbind 1024 0 : Instr), .unbind 0 0x100000000, .descriptorSubmit 66 0 [], .descriptorSubmit 0 0x4000000 [], .descriptorSubmit 0 0 (List.replicate 65 0), .cqEnable 66 0 0,
    .flr 66, .linkHotReset 2, .vectorUnmask 66 0, .vectorUnmask 0 512, .linkSignalDetect 4 0, .nak 0 4096 0, .unitRejoin 640 0, .unitError 512, .updConfirm 1024 0,
    .powerOnBoot 0 (some []) 0 700 0 [], .powerOnBoot 0 none 1401 700 0 [], .powerOnBoot 0 none 0 689 0 [], .powerOnBoot 0 none 0 751 0 [], .powerOnBoot 0 none 0 700 65536 [],
    .warmBoot 0 689 [], .svcReg 65536 [], .svcCmd 0 [] [] 0 true, .avsTrim 0 689, .avsTrim 0 751, .thermtrip 0 [], .dbgAccessRead 0x1000000, .dbgAccessWrite 0 0x100000000,
    .tmuxSelWrite own 4 0, .pmcSelWrite own 8 0, .tileSleep 128 true], c.wf = false := by decide +kernel
theorem smoke_accepted : ∀ c ∈ [
    (.registerWrite ⟨.tenant, 65⟩ 8 0xFFFFFC 0xFFFFFFFFFFFFFFFF : Instr), .bar4Read own 0xFFFFFFFFF 4096, .pad 31, .add 511 ⟨7, 7, 7, 7, true, 7, 255⟩, .signal own 16383 65535,
    .unbind 1023 0xFFFFFFFF, .flr 65, .powerOnBoot 0 (some (List.replicate 32 0)) 1400 750 65535 [], .dbgAccessWrite 0xFFFFFF 0xFFFFFFFF], c.wf = true := by decide +kernel

/-! ## Single steps and the spec's worked figures -/

/-- spec/02_register_pages.md, the operator inspecting neuron core 374. -/
theorem test_page_of_core_374 : ncPage 374 = 0x3DF000 ∧ resetWord (PAGE_ID 0x3DF000) = 0x0B017601 ∧ resetWord (PAGE_ACCESS 0x3DF000) = 0x3331 ∧
    resetWord (PAGE_CLKDOM 0x3DF000) = 0x20 := by decide +kernel
/-- R44 and R81: a read beyond the pages answers 0. -/
theorem test_unmapped_reads_zero : (ran (.unmappedAccess own false 0x7FFC) { State.reset with rdata := 5 }).rdata = 0 := by decide +kernel
/-- R128: an idle cycle of CD_TIME adds 1 ns; at the +500 ppm limit 2,000 cycles add one more. -/
theorem test_idle_tick : (after (step { State.reset with ft := 9 })).ft = 10 ∧
    (after (step { State.reset with ft := 9, ftFrac := 1099511627776 - 549755813, disc := { State.reset.disc with rate := 1000000000 } })).ft = 11 := by decide +kernel
/-- A step takes the front of the queue and leaves the rest. -/
theorem test_queue_first_in_first_out : (after (step { State.reset with pending := [.idcode, .bypass] })).pending = [.bypass] ∧
    (after (step { State.reset with pending := [.idcode, .bypass] })).jtag.ir = 2 := by decide +kernel
/-- Port 1 with a word, 2,048 × 1,024 pixels. -/
def camera (w : Nat) (x : PortSt) : State := holding w { x with w := 2048, h := 1024 } State.reset
/-- spec/03_stream_ports.md, one packet of a VES stream. -/
theorem test_time_base : (port (ran (.timeBase 1) (camera 0x1000004C {})) 1).t = some 4980736 := by decide +kernel
theorem test_time_delta : (port (ran (.timeDelta 1) (camera 0x20004B40 { t := some 4980736 })) 1).t = some 5000000 := by decide +kernel
theorem test_row : (port (ran (.row 1) (camera 0x30002205 {})) 1).row = some (517, true) := by decide +kernel
theorem test_run : rdN (ran (.run 1) (camera 0x4004B006 { t := some 5000000, row := some (517, true) })) (PORT_EVENT_CNT 1) = 6 := by decide +kernel
theorem test_mask : rdN (ran (.mask 1) (camera 0x51450025 { t := some 5000000, row := some (517, true) })) (PORT_EVENT_CNT 1) = 3 := by decide +kernel
/-- spec/03_stream_ports.md, TK-3 encoding. -/
theorem test_time_high : (port (ran (.timeHigh 1) (setFlag (camera 0x40004B5A {}) (PORT_CFG 1) 10 true)) 1).t = some (64 * 19290) := by decide +kernel
theorem test_tk_event : nbits 0x1F425907 29 19 = 1000 ∧ nbits 0x1F425907 18 9 = 300 ∧
    rdN (ran (.tkEvent 1) (setFlag (camera 0x1F425907 { t := some 1234560 }) (PORT_CFG 1) 10 true)) (PORT_EVENT_CNT 1) = 1 := by decide +kernel
/-- spec/04_time_bases.md, re-stamping one event, and losing a grandmaster (TIME_UNC). -/
theorem test_restamp : 16 * srvStamp { t0 := 5000000, a := 7250000480, rate := 85899346 } 5000750 = 7250750496 := by decide +kernel
def holdover (age : Nat) : State :=
  setFlag (setDiscState (wrN { State.reset with ft := age, disc := { State.reset.disc with u0 := 40, lastMeas := 0 } } TIME_HOLD_CFG 0x640001) dHoldover) TIME_STATUS 8 true
theorem test_time_unc : uncNs (holdover 3000000000) = 344 ∧ uncNs (holdover 59875000000) = 7820 := by decide +kernel
/-- spec/06_fusion_alignment.md, the grid node of PORT15's pixel (640, 360). -/
theorem test_grid_node : gridMap (tabWrite State.reset (nodeAt 15 0 32 32) (leBytes 4 0x8BF40004)) 15 0 1280 720 640 360 = (35828, 4) := by decide +kernel
/-- spec/07_event_fabric.md, encoding the re-registered event, and a voxel slot. -/
theorem test_event_word : eventWord 0x3B1CC 0x117F 0x165F true 0x0F 0 = 0x03B1CC8BFD97EF00 ∧ cairnWord 8 modeRidge 47 42 = 0x40002F0000002A80 := by decide +kernel
def voxels : State :=
  wrN (wrN (wrN (wrN State.reset (slotCfg 37 2) (0x80000000 + 3 * 2 ^ 28 + 2 ^ 26 + 4320 * 2 ^ 13)) (slotGeom 37 2) (319 * 2 ^ 19 + 7 * 2 ^ 15 + 5 * 2 ^ 10))
    (slotBase 37 2) 0x100000) (slotWin 37 2) (1000 * 65536 + 900)
theorem test_voxel_slot : sbBank voxels 37 2 = 409600 ∧ sbAt voxels 37 2 1 9 47 79 = tileAt 37 + 0x1C1B0F ∧ winOf voxels 37 2 12500126016 12504000000 = 4 := by decide +kernel
/-- spec/08_neuron_cores.md, an adaptive corner detector: two steps of its program. -/
def corner : UopEnv := { fp := false, resid := true, k := fun i => at0 [1000, 400, 0xF830, 8000, 2] i, lut := fun i => at0 [0xD198, 0xFAEE] i }
def cornerProg : List Nat := [0x52020000, 0x38000000, 0x08100000, 0x30010003, 0x39200001, 0x0E204000, 0x40180000, 0x68000103, 0x48000000, 0x0920C000, 0x52024000]
theorem test_neuron_program : ((runProg corner cornerProg (loadRegs corner 0 1 3 [900, 200, 0] 1300 0)).r.take 3).map (·.toNat) = [841, 596, 2] ∧
    (runProg corner cornerProg (loadRegs corner 0 1 3 [900, 200, 0] 1300 0)).m = 1 ∧
    ((runProg corner cornerProg (loadRegs corner 0 1 3 [841, 596, 2] 1300 0)).r.take 3).map (·.toNat) = [1989, 584, 1] := by decide +kernel
/-- spec/09_tensor_tiles.md, encoding in FP8A, BF16 and BS8, and one FP8 wave (0.9 is taken as 943718 / 2^20). -/
theorem test_formats : convTo 0x0B (.fin true 5 (-3)) = (0xB2, .exact) ∧ (convTo 0x0B (.fin false 5243 (-19))).1 = 0x05 ∧ blockExp 0x10 [.fin false 943718 (-20)] = -7 ∧
    (convTo 0x10 (fScale (.fin false 943718 (-20)) 7)).1 = 115 := by decide +kernel
theorem test_wave : r32 ((List.zip [0x3C, 0xB2, 0x44, 0x05] [0x40, 0x34, 0xBA, 0x7E]).foldl
      (fun a e => fAdd a (fMul (fDecode fmtFp8a e.1) (fDecode fmtFp8a e.2))) (f32 0x42C80000)) = 0x42CE5000 ∧
    (convTo 0x0B (f32 0x42CE5000)).1 = 0x6D ∧ (convTo 0x0E (f32 0x42CE5000)).1 = 0x42CE := by decide +kernel
/-- spec/10_convolution.md, a 5 × 5 layer with asymmetric padding. -/
def layer : Win := winCmd ([0x01290808, 0x000A0020, 0x00800140, 0x14522110, 0x12210000, 0x00010000, 0x000B4000, 0x40, 0x80, 0x164000] ++ List.replicate 22 0)
theorem test_window_command : layer.oh = 64 ∧ layer.ow = 160 ∧ layer.combOk = true ∧ layer.covered = true ∧ (layer.waves 32).length = 25 ∧
    (layer.pt, layer.pb, layer.pl, layer.pr) = (1, 2, 2, 1) := by decide +kernel
/-- spec/14_host_interface.md, a tenant staging a block. -/
def staged : List Nat := [0x02400000, 0x88030001, 0x80000802, 7, 0, 0, 0, 0, 0, 0, 0x34567000, 0x12, 0x1000, 0x10, 0x29, 0x800000A5]
theorem test_descriptor : waitsOf staged 2 = [(2050, 7)] ∧ sigOf (at0 staged 1) = some (2051, 1) ∧ cmdPay { seq := 41, words := staged } = 0x1234567000 ∧
    cmdLen { seq := 41, words := staged } = 4096 ∧ cmdArg { seq := 41, words := staged } = 16 := by decide +kernel
/-- spec/15_rope_fabric.md, a discovery read: the header's bytes. -/
theorem test_frame_header : (frameBytes { fr 2 0 0xFF 32 (List.replicate 16 0) with sr := true, src := 0xFE, codes := [0, 0, 0] }).take 16 =
    [0x02, 0x20, 0xFF, 0x00, 0xFE, 0x00, 0x10, 0x00, 0x20, 0x00, 0x00, 0x00, 0x00, 0x00, 0x00, 0x18] := by decide +kernel
/-- spec/12_verdicts_corrections.md, a correction that misses: header bytes 0 to 3 of a record of 128 bytes. -/
theorem test_record_header : (recHeader State.reset rtCorr 128 0).take 4 = leBytes 4 0x00800102 := by decide +kernel
/-- spec/17_boot_update.md, an image of version 3.3, and the figures of the hold-up check. -/
def imaged : State := flashWrite State.reset 0x4000000 ([0x4D49484B, 0x00000001, 0x0303007F, 0x00000002, 0x01437C80, 0x00000000, 0x00060144, 0x00B00004].flatMap (leBytes 4))
theorem test_image_header : imgVer imaged 1 = 0x0303007F ∧ imgLen imaged 1 = 21200000 ∧ imgChunks imaged 1 = 324 ∧ imgNum imaged 1 0x1A 2 = 6 ∧
    imgNum imaged 1 0x1C 2 = 4 ∧ imgNum imaged 1 0x1E 1 = 0xB0 ∧ (imgLen imaged 1 + 65535) / 65536 = 324 := by decide +kernel
def bank10mF : List Nat := [10000, 9000, 350, 512, 400, 1200]
theorem test_holdup : needMj bank10mF (.erase 0) = 280 ∧ opTime bank10mF (.prog 0 [0]) = 1200 ∧ availMj bank10mF 12000 = 315 ∧ admitted bank10mF 12000 (.erase 0) = true ∧
    availMj bank10mF 11600 = 268 ∧ admitted bank10mF 11600 (.erase 0) = false := by decide +kernel
/-- spec/21_debug_test.md, watching a stretch: none of the four selections is refused. -/
theorem test_selections : ∀ n ∈ [0x80030176, 0xA0040176, 0xC0050176, 0xE0012004], selError (word n) = none := by decide +kernel
/-- R612: IDCODE. -/
theorem test_idcode : (ran .idcode State.reset).jtag.tdo = 0x14B96A77 := by decide +kernel

end Sys2Proof.Tests
end

section
/-!
PROOFS of the statements of spec/02_register_pages.md: what the checks of R63 answer outside the assigned pages (R44), and
which right an access that they admit must have (R60).
-/
namespace Sys2Proof.Proofs
open Sys2Proof Sys2Proof.Machine Sys2Proof.Laws

/-! ## The checks of R63 -/

/-- The four read-only registers of a header that every class may read: PAGE_ID, PAGE_VER, PAGE_ACCESS and PAGE_CLKDOM (R60). -/
def IsOpenHeaderReg (a : Nat) : Prop :=
  headerPage a = pageOf a ∧ (a % 4096 = 0x00 ∨ a % 4096 = 0x04 ∨ a % 4096 = 0x28 ∨ a % 4096 = 0x2C)

/-- The test by which the checks of R63 tell the open header registers. -/
theorem openHeaderReg_test (a : Nat) : ((headerPage a == pageOf a &&
    (decide (a % 4096 = 0x00) || decide (a % 4096 = 0x04) || decide (a % 4096 = 0x28) || decide (a % 4096 = 0x2C))) = true) ↔ IsOpenHeaderReg a := by
  simp [IsOpenHeaderReg, or_assoc]

/-- A flag is the bit of the number that its register holds. -/
theorem flag_eq_nbit (s : State) (a i : Nat) : flag s a i = nbit (rdN s a) i := by
  have width : i + 1 - i = 1 := by omega
  simp only [flag, fld, bits, nbits, nbit, rdN, width, pow_one]

/-- The right to write at a page includes the class's bit of the WR mask. -/
theorem wrMask_of_mayWrite {s : State} {w : Who} {pg : Nat} (h : mayWrite s w pg = true) :
    nbit (rdN s (PAGE_ACCESS pg)) (classCode w.cls) = true := by
  obtain ⟨hflag, -⟩ := Bool.and_eq_true_iff.mp h
  rwa [flag_eq_nbit] at hflag

/-- The right to read at a page includes the class's bit of the RD mask. -/
theorem rdMask_of_mayRead {s : State} {w : Who} {pg : Nat} (h : mayRead s w pg = true) :
    nbit (rdN s (PAGE_ACCESS pg)) (8 + classCode w.cls) = true := by
  obtain ⟨hflag, -⟩ := Bool.and_eq_true_iff.mp h
  rwa [flag_eq_nbit] at hflag

/-- A write without the right at its page is not admitted: no check before that of the class admits a write. -/
theorem mayWrite_of_checkAcc_ok {s : State} {w : Who} {size a : Nat} (h : checkAcc s w true size a = .ok) :
    mayWrite s w (headerPage a) = true := by
  by_contra hno
  rw [Bool.not_eq_true] at hno
  simp only [checkAcc, hno, Bool.not_true, Bool.false_and, Bool.false_eq_true, Bool.not_false, if_true, if_false] at h
  split_ifs at h

/-- A read without the right at its page is admitted for the open header registers only. -/
theorem mayRead_of_checkAcc_ok {s : State} {w : Who} {size a : Nat} (h : checkAcc s w false size a = .ok)
    (hopen : ¬ IsOpenHeaderReg a) : mayRead s w (headerPage a) = true := by
  by_contra hno
  rw [Bool.not_eq_true] at hno
  simp only [checkAcc, hno, openHeaderReg_test, hopen, Bool.not_false, Bool.true_and, Bool.false_eq_true, if_true, if_false] at h
  split_ifs at h

/-- An accessor that reaches the device passes the first check (R615). -/
theorem not_noGrant {s : State} {w : Who} (h : w.cls ≠ .debug ∨ granted s = true) : ¬ (w.cls = .debug ∧ granted s = false) := by
  rintro ⟨hcls, hgrant⟩
  simp [hcls, hgrant] at h

/-- A read of an open header register of an assigned page is admitted before the masks are asked. -/
theorem checkAcc_openHeaderReg {s : State} {w : Who} {a : Nat} (hreach : w.cls ≠ .debug ∨ granted s = true)
    (hasg : assigned a = true) (hopen : IsOpenHeaderReg a) : checkAcc s w false 4 a = .ok := by
  have haligned : a % 4 = 0 := by
    obtain ⟨-, hoff⟩ := hopen
    omega
  simp only [checkAcc, not_noGrant hreach, hasg, haligned, openHeaderReg_test, hopen, Bool.not_true, Bool.not_false, Bool.true_and,
    Bool.false_eq_true, and_self, not_true_eq_false, if_true, if_false]

/-- An access to an address in no assigned page is unmapped, whatever its width and direction (R44). -/
theorem checkAcc_unassigned {s : State} {w : Who} {a : Nat} (hreach : w.cls ≠ .debug ∨ granted s = true)
    (hasg : assigned a = false) (isWr : Bool) (size : Nat) : checkAcc s w isWr size a = .unmapped := by
  simp [checkAcc, not_noGrant hreach, hasg]

/-! ## Accesses outside the assigned pages -/

/-- BAR0 lies below BAR2. -/
theorem not_bar2_le_of_bar0 {a : Nat} (h : a < 0x1000000) : ¬ bar2 ≤ a := by
  unfold bar2
  omega

/-- UNMAPPED_ACCESS at an address of BAR0 outside the TK-3 window that the checks find unmapped. -/
theorem execUnmappedAccess_eq {s : State} {w : Who} {isWr : Bool} {a : Nat} (hbar : a < 0x1000000) (htk : inLegacy a = false)
    (hchk : checkAcc s w isWr 4 a = .unmapped) :
    execUnmappedAccess w isWr a s =
      .next (if isWr then bump s GLB_UNMAPPED_CNT else answer (bump s GLB_UNMAPPED_CNT) 0) := by
  simp [execUnmappedAccess, hchk, htk, not_le.mp (not_bar2_le_of_bar0 hbar), failAcc]

/-- A write of at most 4 bytes at an address of BAR0 outside the TK-3 window is one guarded write. -/
theorem regWrite_eq_guardW {s : State} {w : Who} {size a v : Nat} (hbar : a < 0x1000000) (htk : inLegacy a = false) (hsize : size ≤ 4) :
    regWrite s w size a v = guardW s w size a (fun t => writeReg t w a (word v)) := by
  have hone : ¬ (size = 8 ∧ a % 8 = 0) := by omega
  simp only [regWrite, htk, Bool.false_eq_true, if_false, not_bar2_le_of_bar0 hbar, hone]

/-! ## The obligations -/

/-- Settles O5: the masks are asked before any check that can admit an access, but for the open header registers. -/
theorem masksGrantReadsAndWrites : Obligations.MasksGrantReadsAndWrites := by
  intro s w size a _
  refine ⟨fun hok => ?wrMask, fun hok hopen => ?rdMask, fun hasg hpage hoff hreach => ?openReg⟩
  case wrMask => exact wrMask_of_mayWrite (mayWrite_of_checkAcc_ok hok)
  case rdMask => exact rdMask_of_mayRead (mayRead_of_checkAcc_ok hok hopen)
  case openReg => exact checkAcc_openHeaderReg hreach hasg ⟨hpage, hoff⟩

/-- Settles O4: the checks find the access unmapped, and that verdict's only effect is the count. -/
theorem unassignedAddressesReadZero : Obligations.UnassignedAddressesReadZero := by
  intro w a s hbar htk _ hasg hreach
  have hchk := checkAcc_unassigned hreach hasg
  refine ⟨?read, ?write, fun size v hsize => ?registerWrite⟩
  case read => exact execUnmappedAccess_eq hbar htk (hchk false 4)
  case write => exact execUnmappedAccess_eq hbar htk (hchk true 4)
  case registerWrite =>
    exact congrArg Host.Outcome.next ((regWrite_eq_guardW hbar htk hsize).trans (guardW_unmapped (hchk true size)))

end Sys2Proof.Proofs
end

section
/-!
PROOFS of the statement of spec/04_time_bases.md about FT (R129). A step is one cycle of the time clock or one command. The laws of
Laws/KeepsBase.lean to Laws/KeepsManage.lean say for each of them but the power-on reset that FT does not decrease; the power-on reset
begins with the reset state, whose FT is 0 (R587, R589, log entry 127).
-/
namespace Sys2Proof.Proofs
open Sys2Proof Sys2Proof.Machine Sys2Proof.Laws

/-! ## The power-on reset -/

/-- The commands that bring the device into power-on reset (R587, R589). -/
inductive IsPowerReset : Instr → Prop
  | powerOnReset (ns : Nat) : IsPowerReset (.powerOnReset ns)
  | powerDown : IsPowerReset .powerDown

/-- In power-on reset FT is 0. -/
@[simp] theorem powerReset_ft (s : State) : (powerReset s).ft = 0 := rfl

/-- POWER_ON_RESET leaves the state as it was, after a pulse that is too short, or leaves FT at 0 (R587). -/
theorem exec_powerOnReset_ft {ns : Nat} {s t : State} (h : exec (.powerOnReset ns) s = .next t) : t = s ∨ t.ft = 0 := by
  have hreset : execPowerOnReset ns s = .next t := h
  unfold execPowerOnReset at hreset
  split at hreset
  · exact .inl (Host.Outcome.next.inj hreset).symm
  · exact .inr (Host.Outcome.next.inj hreset ▸ powerReset_ft s)

/-- The power-on reset in which POWER_DOWN holds the device leaves FT at 0 (R589, log entry 127). -/
theorem exec_powerDown_ft {s t : State} (h : exec .powerDown s = .next t) : t.ft = 0 :=
  Host.Outcome.next.inj h ▸ powerReset_ft s

/-! ## Every other command -/

/-- Every command but the power-on reset answers a next state, with the queue as it was, FT no smaller, and the memories in their form. -/
theorem keepsO_exec {z s : State} (hk : Keeps z s) : ∀ c : Instr, ¬ IsPowerReset c → KeepsO z (exec c s) := by
  intro c hc
  unfold exec
  cases c with
  | registerWrite => exact keeps_execRegisterWrite (hk := hk) ..
  | unmappedAccess => exact keeps_execUnmappedAccess (hk := hk) ..
  | errTimeout => exact keeps_execErrTimeout (hk := hk) ..
  | counterReadClear => exact keeps_execCounterReadClear (hk := hk) ..
  | latchingRead => exact keeps_execLatchingRead (hk := hk) ..
  | irqStatClear => exact keeps_execIrqStatClear (hk := hk) ..
  | errClr => exact keeps_execErrClr (hk := hk) ..
  | lock => exact keeps_execLock (hk := hk) ..
  | srst => exact keeps_execSrst (hk := hk) ..
  | pageEnable => exact keeps_execPageEnable (hk := hk) ..
  | pageDisable => exact keeps_execPageDisable (hk := hk) ..
  | disableOnIdle => exact keeps_execDisableOnIdle (hk := hk) ..
  | bar4Write => exact keeps_execBar4Write (hk := hk) ..
  | bar4Read => exact keeps_execBar4Read (hk := hk) ..
  | goRd => exact keeps_execGoRd (hk := hk) ..
  | goWr => exact keeps_execGoWr (hk := hk) ..
  | iwOperationDone => exact keeps_execIwOperationDone (hk := hk) ..
  | modeReq => exact keeps_execModeReq (hk := hk) ..
  | modeChangeCairn => exact keeps_execModeChangeCairn (hk := hk) ..
  | coreClockPauseEnd => exact keeps_execCoreClockPauseEnd (hk := hk) ..
  | clusterPowerUp => exact keeps_execClusterPowerUp (hk := hk) ..
  | summitLimitEval => exact keeps_execSummitLimitEval (hk := hk) ..
  | belayThermalLimit => exact keeps_execBelayThermalLimit (hk := hk) ..
  | periodicCairn => exact keeps_execPeriodicCairn (hk := hk) ..
  | packetReceive => exact keeps_execPacketReceive (hk := hk) ..
  | spillRefill => exact keeps_execSpillRefill (hk := hk) ..
  | pad => exact keeps_execPad (hk := hk) ..
  | timeBase => exact keeps_execTimeBase (hk := hk) ..
  | timeDelta => exact keeps_execTimeDelta (hk := hk) ..
  | row => exact keeps_execRow (hk := hk) ..
  | run => exact keeps_execRun (hk := hk) ..
  | mask => exact keeps_execMask (hk := hk) ..
  | trigger => exact keeps_execTrigger (hk := hk) ..
  | sensorStatus => exact keeps_execSensorStatus (hk := hk) ..
  | extended => exact keeps_execExtended (hk := hk) ..
  | vesReject => exact keeps_execVesReject (hk := hk) ..
  | timeHigh => exact keeps_execTimeHigh (hk := hk) ..
  | tkEvent => exact keeps_execTkEvent (hk := hk) ..
  | daaRound => exact keeps_execDaaRound (hk := hk) ..
  | hotJoin => exact keeps_execHotJoin (hk := hk) ..
  | descriptorRead => exact keeps_execDescriptorRead (hk := hk) ..
  | getstatusPoll => exact keeps_execGetstatusPoll (hk := hk) ..
  | noStream => exact keeps_execNoStream (hk := hk) ..
  | linkTimeout => exact keeps_execLinkTimeout (hk := hk) ..
  | hjEnWrite => exact keeps_execHjEnWrite (hk := hk) ..
  | i3cXferGo => exact keeps_execI3cXferGo (hk := hk) ..
  | i3cXferDone => exact keeps_execI3cXferDone (hk := hk) ..
  | legacyWrite => exact keeps_execLegacyWrite (hk := hk) ..
  | portLegResWrite => exact keeps_execPortLegResWrite (hk := hk) ..
  | tkOffsetHiWrite => exact keeps_execTkOffsetHiWrite (hk := hk) ..
  | legacyWindowAccess => exact keeps_execLegacyWindowAccess (hk := hk) ..
  | ptpSync => exact keeps_execPtpSync (hk := hk) ..
  | ptpAnnounce => exact keeps_execPtpAnnounce (hk := hk) ..
  | announceTimeout => exact keeps_execAnnounceTimeout (hk := hk) ..
  | ptpExchange => exact keeps_execPtpExchange (hk := hk) ..
  | ppsInEdge => exact keeps_execPpsInEdge (hk := hk) ..
  | ppsLoss => exact keeps_execPpsLoss (hk := hk) ..
  | ppsOutRise => exact keeps_execPpsOutRise (hk := hk) ..
  | ppsOutFall => exact keeps_execPpsOutFall (hk := hk) ..
  | refLost => exact keeps_execRefLost (hk := hk) ..
  | refBack => exact keeps_execRefBack (hk := hk) ..
  | timeCtrlWrite => exact keeps_execTimeCtrlWrite (hk := hk) ..
  | conversionGo => exact keeps_execConversionGo (hk := hk) ..
  | conversionDone => exact keeps_execConversionDone (hk := hk) ..
  | encoderEdge => exact keeps_execEncoderEdge (hk := hk) ..
  | encoderIndex => exact keeps_execEncoderIndex (hk := hk) ..
  | imuDrdy => exact keeps_execImuDrdy (hk := hk) ..
  | imuTimerTrigger => exact keeps_execImuTimerTrigger (hk := hk) ..
  | imuTransactionDone => exact keeps_execImuTransactionDone (hk := hk) ..
  | chainInput => exact keeps_execChainInput (hk := hk) ..
  | noInput => exact keeps_execNoInput (hk := hk) ..
  | fusionIssue => exact keeps_execFusionIssue (hk := hk) ..
  | belayWait => exact keeps_execBelayWait (hk := hk) ..
  | lateSample => exact keeps_execLateSample (hk := hk) ..
  | eventRelease => exact keeps_execEventRelease (hk := hk) ..
  | portWatermark => exact keeps_execPortWatermark (hk := hk) ..
  | gridCommit => exact keeps_execGridCommit (hk := hk) ..
  | gridPendClear => exact keeps_execGridPendClear (hk := hk) ..
  | refinementCycle => exact keeps_execRefinementCycle (hk := hk) ..
  | markMeasurement => exact keeps_execMarkMeasurement (hk := hk) ..
  | barEnable => exact keeps_execBarEnable (hk := hk) ..
  | barDisable => exact keeps_execBarDisable (hk := hk) ..
  | spikeFanout => exact keeps_execSpikeFanout (hk := hk) ..
  | sbWordApply => exact keeps_execSbWordApply (hk := hk) ..
  | sbWindowClose => exact keeps_execSbWindowClose (hk := hk) ..
  | sbCloseTimeout => exact keeps_execSbCloseTimeout (hk := hk) ..
  | sbBankPrepare => exact keeps_execSbBankPrepare (hk := hk) ..
  | sbStall => exact keeps_execSbStall (hk := hk) ..
  | sbSlotEnable => exact keeps_execSbSlotEnable (hk := hk) ..
  | fabRgnWr => exact keeps_execFabRgnWr (hk := hk) ..
  | fabRgnRd => exact keeps_execFabRgnRd (hk := hk) ..
  | ncWordApply => exact keeps_execNcWordApply (hk := hk) ..
  | ncStepClose => exact keeps_execNcStepClose (hk := hk) ..
  | ncDueTime => exact keeps_execNcDueTime (hk := hk) ..
  | uopNop => exact keeps_execUopNop (hk := hk) ..
  | add => exact keeps_execAdd (hk := hk) ..
  | sub => exact keeps_execSub (hk := hk) ..
  | mulc => exact keeps_execMulc (hk := hk) ..
  | mac => exact keeps_execMac (hk := hk) ..
  | shr => exact keeps_execShr (hk := hk) ..
  | clamp => exact keeps_execClamp (hk := hk) ..
  | decay => exact keeps_execDecay (hk := hk) ..
  | cmpth => exact keeps_execCmpth (hk := hk) ..
  | uopReset => exact keeps_execUopReset (hk := hk) ..
  | refrac => exact keeps_execRefrac (hk := hk) ..
  | select => exact keeps_execSelect (hk := hk) ..
  | skip => exact keeps_execSkip (hk := hk) ..
  | tileCmdStart => exact keeps_execTileCmdStart (hk := hk) ..
  | tileCmdComplete => exact keeps_execTileCmdComplete (hk := hk) ..
  | conv => exact keeps_execConv (hk := hk) ..
  | poolMax => exact keeps_execPoolMax (hk := hk) ..
  | poolAvg => exact keeps_execPoolAvg (hk := hk) ..
  | upNearest => exact keeps_execUpNearest (hk := hk) ..
  | upBilinear => exact keeps_execUpBilinear (hk := hk) ..
  | vuAdd => exact keeps_execVuAdd (hk := hk) ..
  | vuSub => exact keeps_execVuSub (hk := hk) ..
  | vuMul => exact keeps_execVuMul (hk := hk) ..
  | vuFma => exact keeps_execVuFma (hk := hk) ..
  | vuMin => exact keeps_execVuMin (hk := hk) ..
  | vuMax => exact keeps_execVuMax (hk := hk) ..
  | vuAbs => exact keeps_execVuAbs (hk := hk) ..
  | vuNeg => exact keeps_execVuNeg (hk := hk) ..
  | vuCmp => exact keeps_execVuCmp (hk := hk) ..
  | vuSelect => exact keeps_execVuSelect (hk := hk) ..
  | vuRelu => exact keeps_execVuRelu (hk := hk) ..
  | vuLeaky => exact keeps_execVuLeaky (hk := hk) ..
  | vuClamp => exact keeps_execVuClamp (hk := hk) ..
  | lutfn => exact keeps_execLutfn (hk := hk) ..
  | cvt => exact keeps_execCvt (hk := hk) ..
  | requant => exact keeps_execRequant (hk := hk) ..
  | vuSum => exact keeps_execVuSum (hk := hk) ..
  | vuReduceMax => exact keeps_execVuReduceMax (hk := hk) ..
  | vuReduceMin => exact keeps_execVuReduceMin (hk := hk) ..
  | argmax => exact keeps_execArgmax (hk := hk) ..
  | stashTransfer => exact keeps_execStashTransfer (hk := hk) ..
  | stashDone => exact keeps_execStashDone (hk := hk) ..
  | sramScrub => exact keeps_execSramScrub (hk := hk) ..
  | retentionVerify => exact keeps_execRetentionVerify (hk := hk) ..
  | signal => exact keeps_execSignal (hk := hk) ..
  | ancReset => exact keeps_execAncReset (hk := hk) ..
  | fault => exact keeps_execFault (hk := hk) ..
  | ownerWrite => exact keeps_execOwnerWrite (hk := hk) ..
  | leanPolicyTick => exact keeps_execLeanPolicyTick (hk := hk) ..
  | sampleCompare => exact keeps_execSampleCompare (hk := hk) ..
  | leanChange => exact keeps_execLeanChange (hk := hk) ..
  | checkerCfgWrite => exact keeps_execCheckerCfgWrite (hk := hk) ..
  | cheapResult => exact keeps_execCheapResult (hk := hk) ..
  | exactResult => exact keeps_execExactResult (hk := hk) ..
  | verdictResult => exact keeps_execVerdictResult (hk := hk) ..
  | verdictDeadline => exact keeps_execVerdictDeadline (hk := hk) ..
  | sheetStart => exact keeps_execSheetStart (hk := hk) ..
  | correctionResult => exact keeps_execCorrectionResult (hk := hk) ..
  | held => exact keeps_execHeld (hk := hk) ..
  | detection => exact keeps_execDetection (hk := hk) ..
  | recordDeliver => exact keeps_execRecordDeliver (hk := hk) ..
  | outStrTailWrite => exact keeps_execOutStrTailWrite (hk := hk) ..
  | ringIrq => exact keeps_execRingIrq (hk := hk) ..
  | datagramSend => exact keeps_execDatagramSend (hk := hk) ..
  | bind => exact keeps_execBind (hk := hk) ..
  | bindActivate => exact keeps_execBindActivate (hk := hk) ..
  | unbind => exact keeps_execUnbind (hk := hk) ..
  | unbindRelease => exact keeps_execUnbindRelease (hk := hk) ..
  | rebind => exact keeps_execRebind (hk := hk) ..
  | partCfg => exact keeps_execPartCfg (hk := hk) ..
  | ccReload => exact keeps_execCcReload (hk := hk) ..
  | query => exact keeps_execQuery (hk := hk) ..
  | heartbeat => exact keeps_execHeartbeat (hk := hk) ..
  | descriptorSubmit => exact keeps_execDescriptorSubmit (hk := hk) ..
  | commandStart => exact keeps_execCommandStart (hk := hk) ..
  | commandEnd => exact keeps_execCommandEnd (hk := hk) ..
  | nop => exact keeps_execNop (hk := hk) ..
  | copy => exact keeps_execCopy (hk := hk) ..
  | fill => exact keeps_execFill (hk := hk) ..
  | stamp => exact keeps_execStamp (hk := hk) ..
  | budgetExpiry => exact keeps_execBudgetExpiry (hk := hk) ..
  | cqEnable => exact keeps_execCqEnable (hk := hk) ..
  | cqHeadWrite => exact keeps_execCqHeadWrite (hk := hk) ..
  | contextEnable => exact keeps_execContextEnable (hk := hk) ..
  | hifWAbort => exact keeps_execHifWAbort (hk := hk) ..
  | flr => exact keeps_execFlr (hk := hk) ..
  | busMasterDisable => exact keeps_execBusMasterDisable (hk := hk) ..
  | sriovDisable => exact keeps_execSriovDisable (hk := hk) ..
  | linkHotReset => exact keeps_execLinkHotReset (hk := hk) ..
  | vectorUnmask => exact keeps_execVectorUnmask (hk := hk) ..
  | linkSignalDetect => exact keeps_execLinkSignalDetect (hk := hk) ..
  | linkTrained => exact keeps_execLinkTrained (hk := hk) ..
  | linkTrainTimeout => exact keeps_execLinkTrainTimeout (hk := hk) ..
  | linkFaultRetry => exact keeps_execLinkFaultRetry (hk := hk) ..
  | linkDown => exact keeps_execLinkDown (hk := hk) ..
  | failback => exact keeps_execFailback (hk := hk) ..
  | fecUncorrectable => exact keeps_execFecUncorrectable (hk := hk) ..
  | nak => exact keeps_execNak (hk := hk) ..
  | helloSend => exact keeps_execHelloSend (hk := hk) ..
  | hello => exact keeps_execHello (hk := hk) ..
  | peerSilent => exact keeps_execPeerSilent (hk := hk) ..
  | frameRoute => exact keeps_execFrameRoute (hk := hk) ..
  | reg => exact keeps_execReg (hk := hk) ..
  | cmd => exact keeps_execCmd (hk := hk) ..
  | bulkWrite => exact keeps_execBulkWrite (hk := hk) ..
  | bulkRead => exact keeps_execBulkRead (hk := hk) ..
  | stream => exact keeps_execStream (hk := hk) ..
  | relayTxHeadWrite => exact keeps_execRelayTxHeadWrite (hk := hk) ..
  | relayIrq => exact keeps_execRelayIrq (hk := hk) ..
  | e1Step => exact keeps_execE1Step (hk := hk) ..
  | e2Step => exact keeps_execE2Step (hk := hk) ..
  | e3Step => exact keeps_execE3Step (hk := hk) ..
  | e4Step => exact keeps_execE4Step (hk := hk) ..
  | e5Step => exact keeps_execE5Step (hk := hk) ..
  | stepTimeout => exact keeps_execStepTimeout (hk := hk) ..
  | pwrcycHoldExpiry => exact keeps_execPwrcycHoldExpiry (hk := hk) ..
  | unitRejoin => exact keeps_execUnitRejoin (hk := hk) ..
  | unitError => exact keeps_execUnitError (hk := hk) ..
  | recHeartbeat => exact keeps_execRecHeartbeat (hk := hk) ..
  | wardenWdt => exact keeps_execWardenWdt (hk := hk) ..
  | helperWdt => exact keeps_execHelperWdt (hk := hk) ..
  | reset => exact keeps_execReset (hk := hk) ..
  | dumpCopy => exact keeps_execDumpCopy (hk := hk) ..
  | dumpRelease => exact keeps_execDumpRelease (hk := hk) ..
  | rejoin => exact keeps_execRejoin (hk := hk) ..
  | powerOnBoot => exact keeps_execPowerOnBoot (hk := hk) ..
  | warmBoot => exact keeps_execWarmBoot (hk := hk) ..
  | updBegin => exact keeps_execUpdBegin (hk := hk) ..
  | updChunk => exact keeps_execUpdChunk (hk := hk) ..
  | updAbort => exact keeps_execUpdAbort (hk := hk) ..
  | updActivate => exact keeps_execUpdActivate (hk := hk) ..
  | updConfirm => exact keeps_execUpdConfirm (hk := hk) ..
  | updFallback => exact keeps_execUpdFallback (hk := hk) ..
  | updConfig => exact keeps_execUpdConfig (hk := hk) ..
  | settingsSave => exact keeps_execSettingsSave (hk := hk) ..
  | restart => exact keeps_execRestart (hk := hk) ..
  | chunk => exact keeps_execChunk (hk := hk) ..
  | healthConfirm => exact keeps_execHealthConfirm (hk := hk) ..
  | storeRetry => exact keeps_execStoreRetry (hk := hk) ..
  | svcReg => exact keeps_execSvcReg (hk := hk) ..
  | svcCmd => exact keeps_execSvcCmd (hk := hk) ..
  | flashReadGo => exact keeps_execFlashReadGo (hk := hk) ..
  | quoteGo => exact keeps_execQuoteGo (hk := hk) ..
  | quoteDone => exact keeps_execQuoteDone (hk := hk) ..
  | secQDataRead => exact keeps_execSecQDataRead (hk := hk) ..
  | dbgUnlock => exact keeps_execDbgUnlock (hk := hk) ..
  | tokenVerified => exact keeps_execTokenVerified (hk := hk) ..
  | revoke => exact keeps_execRevoke (hk := hk) ..
  | debugExpiry => exact keeps_execDebugExpiry (hk := hk) ..
  | powerOnReset => exact absurd (.powerOnReset _) hc
  | powerDown => exact absurd .powerDown hc
  | avsTrim => exact keeps_execAvsTrim (hk := hk) ..
  | railSettled => exact keeps_execRailSettled (hk := hk) ..
  | errAvsTimeout => exact keeps_execErrAvsTimeout (hk := hk) ..
  | avsNoAnswer => exact keeps_execAvsNoAnswer (hk := hk) ..
  | thermtrip => exact keeps_execThermtrip (hk := hk) ..
  | testLogicReset => exact keeps_execTestLogicReset (hk := hk) ..
  | extest => exact keeps_execExtest (hk := hk) ..
  | samplePreload => exact keeps_execSamplePreload (hk := hk) ..
  | idcode => exact keeps_execIdcode (hk := hk) ..
  | jtagClamp => exact keeps_execJtagClamp (hk := hk) ..
  | highz => exact keeps_execHighz (hk := hk) ..
  | extestPulse => exact keeps_execExtestPulse (hk := hk) ..
  | extestTrain => exact keeps_execExtestTrain (hk := hk) ..
  | dbgStatus => exact keeps_execDbgStatus (hk := hk) ..
  | dbgChal => exact keeps_execDbgChal (hk := hk) ..
  | bypass => exact keeps_execBypass (hk := hk) ..
  | dbgAccessRead => exact keeps_execDbgAccessRead (hk := hk) ..
  | dbgAccessWrite => exact keeps_execDbgAccessWrite (hk := hk) ..
  | tmuxSelWrite => exact keeps_execTmuxSelWrite (hk := hk) ..
  | pmcSelWrite => exact keeps_execPmcSelWrite (hk := hk) ..
  | dbgSnap => exact keeps_execDbgSnap (hk := hk) ..
  | slewComplete => exact keeps_execSlewComplete (hk := hk) ..
  | tileSleep => exact keeps_execTileSleep (hk := hk) ..
  | busMasterEnable => exact keeps_execBusMasterEnable (hk := hk) ..
  | avsRegulatorAnswer => exact keeps_execAvsRegulatorAnswer (hk := hk) ..
  | tjMaxCrossing => exact keeps_execTjMaxCrossing (hk := hk) ..

/-- Every command but the power-on reset leaves FT no smaller. -/
theorem ft_le_of_exec {c : Instr} {s t : State} (hc : ¬ IsPowerReset c) (h : exec c s = .next t) : s.ft ≤ t.ft := by
  obtain ⟨u, hu, keeps⟩ := keepsO_exec (Keeps.refl s) c hc
  obtain rfl : u = t := Host.Outcome.next.inj (hu.symm.trans h)
  exact keeps.ft

/-! ## One step -/

/-- With no command waiting, a step is one cycle of the time clock. -/
theorem step_of_pending_nil {s : State} (hq : s.pending = []) : step s = .next (tick s) := by
  simp only [step, hq]

/-- A step executes the front of the queue in the state that has the queue's rest. -/
theorem step_of_pending_cons {s : State} {c : Instr} {rest : List Instr} (hq : s.pending = c :: rest) :
    step s = exec c { s with pending := rest } := by
  simp only [step, hq]

/-! ## The obligation -/

/-- Settles O59: a cycle of the time clock and every command but the power-on reset keep FT or raise it; the power-on reset sets it to 0
(for POWER_DOWN this is the model's choice, log entry 127) or, after too short a pulse, changes nothing. -/
theorem fabricTimeNeverDecreases : Obligations.FabricTimeNeverDecreases := by
  intro s t hstep
  cases hq : s.pending with
  | nil =>
    obtain rfl : tick s = t := Host.Outcome.next.inj ((step_of_pending_nil hq).symm.trans hstep)
    exact .inl (keeps_tick s (Keeps.refl s)).ft
  | cons c rest =>
    have hexec : exec c { s with pending := rest } = .next t := (step_of_pending_cons hq).symm.trans hstep
    by_cases hc : IsPowerReset c
    · cases hc with
      | powerOnReset ns =>
        obtain rfl | hzero := exec_powerOnReset_ft hexec
        · exact .inl le_rfl
        · exact .inr ⟨hzero, .inl ⟨ns, rest, rfl⟩⟩
      | powerDown => exact .inr ⟨exec_powerDown_ft hexec, .inr ⟨rest, rfl⟩⟩
    · have hle := ft_le_of_exec hc hexec
      exact .inl hle

end Sys2Proof.Proofs
end

section
/-!
PROOFS of the statements about every step: which command a step takes, what an idle step does, that every command answers, and that the
memories keep their canonical form. The laws of Laws/KeepsBase.lean to Laws/KeepsManage.lean say it of each command but the power-on reset.
-/
namespace Sys2Proof.Proofs
open Sys2Proof Sys2Proof.Machine Sys2Proof.Laws

-- A command means what its line of the dispatch table says. An example is elaborated before what follows it: the table's equations are worked out
-- here once, and the proofs of the later sections, which are elaborated side by side, do not wait for them together, each with a thread of its own.
example (c q : Nat) (s : State) : exec (.nop c q) s = execNop c q s := by simp only [exec]

/-- A command answers a next state in which the queue is as it was and the memories have kept their form. -/
def AnswersKeeping (s : State) (o : Out) : Prop :=
  ∃ t, o = .next t ∧ t.pending = s.pending ∧ (Memory.wf s = true → Memory.wf t = true)

/-- The device in power-on reset keeps only flash and host memory of the memories, and their form with them (R587). -/
theorem powerReset_wf {s : State} (h : Memory.wf s = true) : Memory.wf (powerReset s) = true := by
  simp only [Memory.wf, Bool.and_eq_true] at h
  obtain ⟨⟨⟨-, hhost⟩, hflash⟩, -⟩ := h
  show (twf byte0 [] && twf byte0 [] && twf byte0 [] && twf byte0 s.hostMem && twf byteF s.flash && twf byte0 []) = true
  rw [hhost, hflash]
  rfl

/-- Every command answers a next state, keeps the queue, and keeps the form of the memories. -/
theorem exec_answersKeeping (c : Instr) (s : State) : AnswersKeeping s (exec c s) := by
  by_cases hc : IsPowerReset c
  · cases hc with
    | powerOnReset ns =>
      by_cases hns : ns < 1000
      · exact ⟨s, if_pos hns, rfl, id⟩
      · exact ⟨powerReset s, if_neg hns, rfl, powerReset_wf⟩
    | powerDown => exact ⟨_, rfl, rfl, powerReset_wf⟩
  · obtain ⟨t, ht, keeps⟩ := keepsO_exec (Keeps.refl s) c hc
    exact ⟨t, ht, keeps.pending, keeps.wf⟩

/-- Every step answers a next state, takes the front of the queue, and keeps the form of the memories. -/
theorem step_answers (s : State) :
    ∃ t, step s = .next t ∧ t.pending = s.pending.tail ∧ (Memory.wf s = true → Memory.wf t = true) := by
  cases hq : s.pending with
  | nil =>
    have keeps := keeps_tick s (Keeps.refl s)
    exact ⟨tick s, step_of_pending_nil hq, keeps.pending.trans hq, keeps.wf⟩
  | cons c rest =>
    obtain ⟨t, ht, hp, hwf⟩ := exec_answersKeeping c { s with pending := rest }
    exact ⟨t, (step_of_pending_cons hq).trans ht, hp, hwf⟩

/-! ## A cycle of the time clock -/

/-- Without a correction and without a fraction held, a cycle of the time clock is 1 ns (R128). -/
theorem tick_ft {s : State} (hrate : s.disc.rate = 0) (hslew : s.disc.slew = 0) (hfrac : s.ftFrac = 0) (hup : s.pwr.down = false) :
    (tick s).ft = s.ft + 1 := by
  have hclock := probeTime_clock s (s.ft + 1)
  simp only [Prod.mk.injEq] at hclock
  obtain ⟨hft, hfr, hdisc⟩ := hclock
  have hcorr : clampI (-549755813) 549755813 (s.disc.rate + sgn s.disc.slew * ((fld (probeTime s (s.ft + 1)) TIME_CTRL 17 9 * 1099511 : Nat) : Int)) = 0 := by
    simp [hrate, hslew, sgn, clampI]
  simp only [tick, hup, Bool.false_eq_true, if_false, slewFor_ft, hft, hfr, hdisc, hcorr, hfrac]
  norm_num

/-! ## The obligations -/

/-- Settles O57: the form is kept by every command, and the step of every state answers. -/
theorem memoriesKeepTheirCanonicalForm : Obligations.MemoriesKeepTheirCanonicalForm := by
  intro s t hwf hstep
  obtain ⟨u, hu, -, keeps⟩ := step_answers s
  obtain rfl : u = t := Host.Outcome.next.inj (hu.symm.trans hstep)
  exact keeps hwf

/-- Settles O60. That every operand of every command answers a next state is the model's choice (log entry 134). -/
theorem everyCommandAnswersAndLeavesTheQueue : Obligations.EveryCommandAnswersAndLeavesTheQueue := by
  refine ⟨fun c s => ?command, fun s => ?step⟩
  case command =>
    obtain ⟨t, ht, hp, -⟩ := exec_answersKeeping c s
    exact ⟨t, ht, hp⟩
  case step =>
    obtain ⟨t, ht, hp, -⟩ := step_answers s
    exact ⟨t, ht, hp⟩

/-- Settles O58: at reset no memory holds an entry. -/
theorem resetMemoriesHaveTheirCanonicalForm : Obligations.ResetMemoriesHaveTheirCanonicalForm := ⟨rfl, rfl⟩

/-- Settles O1. -/
theorem stepRunsTheFrontCommand : Obligations.StepRunsTheFrontCommand := fun _ _ _ hq => step_of_pending_cons hq

/-- Settles O2. -/
theorem idleStepIsOneTimeCycle : Obligations.IdleStepIsOneTimeCycle :=
  fun _ hq => ⟨step_of_pending_nil hq, tick_ft⟩

end Sys2Proof.Proofs
end

section
/-!
PROOFS of the statements about the memory of LPDDR5X and the ingest buffer of a port: what is written reads back, and a refill moves words
and loses none (spec/02_register_pages.md, spec/03_stream_ports.md R104).
-/
namespace Sys2Proof.Proofs
open Sys2Proof Sys2Proof.Machine Sys2Proof.Laws

/-- The bytes written to LPDDR5X read back. -/
theorem memRead_memWrite_same {s : State} (a : Nat) (bs : List Byte) (h : twf byte0 s.mem = true) :
    memRead (memWrite s a bs) a bs.length = bs := tgetL_tsetL bs s.mem a h

/-- A byte outside the bytes written reads as before. -/
theorem memRead_memWrite_other {s : State} {a x : Nat} {bs : List Byte} (h : x < a ∨ a + bs.length ≤ x) :
    memRead (memWrite s a bs) x 1 = memRead s x 1 := congrArg (fun b => [b]) (mem_memWrite_other s a x bs h)

/-- One more word of a refill: the spill is empty, or the word at its head moves to the buffer's end, or the limit stops it (R104). -/
theorem refill_succ_words (hi n : Nat) (x : PortSt) :
    (refill hi x (n + 1)).buf ++ (refill hi x (n + 1)).spill = (refill hi x n).buf ++ (refill hi x n).spill := by
  simp only [refill]
  split
  · rfl
  · next w t hspill =>
    split
    · simp [hspill]
    · rfl

/-- Settles O9. -/
theorem memoryReadsBackItsLastWrite : Obligations.MemoryReadsBackItsLastWrite :=
  fun s a bs hwf => ⟨memWrite_twf s a bs hwf, memRead_memWrite_same a bs hwf, fun _ hx => memRead_memWrite_other hx⟩

/-- Settles O17, by induction on the words moved. -/
theorem refillKeepsEveryWordInOrder : Obligations.RefillKeepsEveryWordInOrder := by
  intro hi n x
  induction n with
  | zero => rfl
  | succ n ih => exact (refill_succ_words hi n x).trans ih

end Sys2Proof.Proofs
end

section
/-!
PROOFS of the statements about register accesses (spec/02_register_pages.md R63, R66; spec/00_scope.md RC counters and latching pairs).
-/
namespace Sys2Proof.Proofs
open Sys2Proof Sys2Proof.Machine Sys2Proof.Laws

/-! ## Register writes -/

/-- The pages whose blocks give no register a rule of its own. -/
def IsPlainPage (k : PageKind) : Prop :=
  k = .glbPwr ∨ k = .glbClk ∨ k = .glbIrq ∨ k = .glbB4 ∨ k = .ancCtl ∨ k = .tile ∨ k = .cc ∨ k = .hifMain ∨ k = .memCommon ∨ k = .memChan

/-- A block without a rule of its own for its registers takes the new word of the register's fields. -/
theorem blockWrite_plainPage {s : State} {w : Who} {a i : Nat} {v : Word} {k : PageKind} (hpage : pageKind (a / 4096) = some (k, i))
    (hk : IsPlainPage k) : blockWrite s w a v = plainWrite s w a v := by
  unfold blockWrite
  rw [hpage]
  obtain rfl | rfl | rfl | rfl | rfl | rfl | rfl | rfl | rfl | rfl := hk <;> rfl

/-- The registers of such a page are held once, not in a set per class. -/
theorem keyOf_plainPage {w : Who} {a i : Nat} {k : PageKind} (hpage : pageKind (a / 4096) = some (k, i)) (hk : IsPlainPage k) :
    keyOf w a = a := by
  unfold keyOf
  rw [hpage]
  obtain rfl | rfl | rfl | rfl | rfl | rfl | rfl | rfl | rfl | rfl := hk <;> rfl

/-- A write that passes the checks reaches the register's block where it is a block register of a page. -/
theorem writeReg_block {s : State} {w : Who} {a : Nat} {v : Word} (hmsix : inMsix a = false) (hanc : inAnc a = false)
    (hoff : 0x40 ≤ a % 4096) : writeReg s w a v = blockWrite s w a v := by
  simp only [writeReg, hmsix, hanc, Bool.false_eq_true, if_false, not_lt.mpr hoff]

/-- REGISTER_WRITE of 32 bits of BAR0 outside the TK-3 window is one guarded write. -/
theorem execRegisterWrite_eq {s : State} {w : Who} {a v : Nat} (hbar : a < 0x1000000) (htk : inLegacy a = false) :
    exec (.registerWrite w 4 a v) s = .next (guardW s w 4 a (fun t => writeReg t w a (word v))) :=
  congrArg Host.Outcome.next (regWrite_eq_guardW hbar htk le_rfl)

/-- A block register is not one of the header. -/
theorem hdr_test_false {a : Nat} (hoff : 0x40 ≤ a % 4096) : (headerPage a == pageOf a && decide (a % 4096 < 0x40)) = false := by
  simp [hoff]

/-- ERR_TIMEOUT of an access that the checks admit to a block register of a READY unit. -/
theorem execErrTimeout_ok {s : State} {w : Who} {isWr : Bool} {a : Nat} (hmsix : inMsix a = false) (hoff : 0x40 ≤ a % 4096)
    (hready : unitState s (headerPage a) = stReady) (hchk : checkAcc s w isWr 4 a = .ok) :
    exec (.errTimeout w isWr a) s = .next (if isWr then recErr s (headerPage a) 0x0009 (accInfo w isWr a)
      else answer (recErr s (headerPage a) 0x0009 (accInfo w isWr a)) 0) := by
  show execErrTimeout w isWr a s = _
  simp only [execErrTimeout, hchk, hmsix, hdr_test_false hoff, hready, ne_eq, not_true_eq_false, decide_false, Bool.or_self, errTimeout,
    Bool.false_eq_true, if_false]

/-- Settles O3: the verdict of the checks decides between the register's block, the record, and the count. -/
theorem registerWriteIsCheckedThenPerformed : Obligations.RegisterWriteIsCheckedThenPerformed := by
  intro w a v s hbar htk
  refine ⟨fun k i r hok hpage hk hmsix hanc hoff hrow => ?performed, fun c hfail => ?refused, fun hun => ?unmapped,
    fun hmsix hoff hready => ⟨fun hok => ?writeTimeout, fun hok => ?readTimeout⟩⟩
  case performed =>
    rw [execRegisterWrite_eq hbar htk, guardW_ok hok, writeReg_block hmsix hanc hoff, blockWrite_plainPage hpage hk]
    simp only [plainWrite, hrow, keyOf_plainPage hpage hk, wErr, errReservedEnc]
  case refused => rw [execRegisterWrite_eq hbar htk, guardW_fail hfail]; rfl
  case unmapped => rw [execRegisterWrite_eq hbar htk, guardW_unmapped hun]
  case writeTimeout => exact execErrTimeout_ok hmsix hoff hready hok
  case readTimeout => exact execErrTimeout_ok hmsix hoff hready hok

/-! ## Register reads -/

/-- A read of 32 bits of BAR0 below the TK-3 window is one access of the bus. -/
theorem regRead_eq_busRead {s : State} {w : Who} {a : Nat} (hbar : a < 0xF00000) : regRead s w 4 a = busRead s w a := by
  have htk : inLegacy a = false := by simp [inLegacy, hbar]
  have hbar2 : ¬ bar2 ≤ a := not_bar2_le_of_bar0 (by omega)
  simp only [regRead, htk, hbar2, Bool.false_eq_true, if_false, if_true]

/-- A read that passes the checks reaches the register's block where it is a block register of a page. -/
theorem busRead_block {s : State} {w : Who} {a : Nat} (hok : checkAcc s w false 4 a = .ok) (hmsix : inMsix a = false)
    (hanc : inAnc a = false) (hoff : 0x40 ≤ a % 4096) : busRead s w a = blockRead s w a := by
  simp only [busRead, hok, readReg, hmsix, hanc, Bool.false_eq_true, if_false, not_lt.mpr hoff]

/-- A counter of 32 bits is 0 once it is cleared. -/
theorem putBits_all_zero (v : Word) : putBits v 31 0 0 = word 0 := by
  have hall : nbits v.toNat 31 0 = v.toNat := by
    simp only [nbits, Nat.pow_zero, Nat.div_one]
    exact Nat.mod_eq_of_lt v.isLt
  simp [putBits, nput, hall]

/-- A read of a counter clears it and arms its pulse again (R627). -/
theorem clearRc_counter {s : State} {a k : Nat} {r : RegRow} (hrow : regRow a = some r) (hflds : r.flds = [f 31 0 .rc 0]) :
    clearRc s k a = rearm (wrN s k 0) a := by
  simp [clearRc, hrow, hflds, f, wrN, putBits_all_zero]

/-- Settles O6. -/
theorem readsClearAndLatch : Obligations.ReadsClearAndLatch := by
  intro w s
  refine ⟨fun a r hbar hok hmsix hanc hoff hkey hlive hlatch hdata hrow hflds => ?counter, fun hok => ?latch⟩
  case counter =>
    show Host.Outcome.next (regRead s w 4 a) = _
    rw [regRead_eq_busRead hbar, busRead_block hok hmsix hanc hoff]
    simp only [blockRead, hkey, hlive, hlatch, hdata, Option.getD_none, if_false, clearRc_counter hrow hflds, answer]
  case latch =>
    show Host.Outcome.next (regRead s w 4 TIME_FT_LO) = _
    rw [regRead_eq_busRead (by decide), busRead_block hok (by decide) (by decide) (by decide)]
    rfl

end Sys2Proof.Proofs
end

section
/-!
PROOFS of the statement about the header registers PAGE_CTRL and PAGE_IRQ_STAT (spec/02_register_pages.md R50, R64, R68, R69).
-/
namespace Sys2Proof.Proofs
open Sys2Proof Sys2Proof.Machine Sys2Proof.Laws

/-! ## Fields -/

/-- The low 8 bits of a register read as they were set, modulo 256. -/
theorem fld_setFld_byte (s : State) (a x : Nat) (h : twf resetWord s.regs = true) : fld (setFld s a 7 0 x) a 7 0 = x % 256 := by
  have hlt := (rd s a).isLt
  have hread : rd (setFld s a 7 0 x) a = putBits (rd s a) 7 0 x := rd_wr_same s a _ h
  simp only [fld, hread, bits, putBits, word, nbits, nput, BitVec.toNat_ofNat]
  norm_num at hlt ⊢
  omega

theorem disPend_setDisPend_same (s : State) (a : Nat) (b : Bool) (h : twf boolD s.pendDis = true) : disPend (setDisPend s a b) a = b :=
  tget_tset_same a b h

/-- A pulse changes registers, vectors and messages, and nothing else. -/
theorem irq_eq (s : State) (pg b : Nat) : ∃ r m g, irq s pg b = { s with regs := r, msix := m, msgs := g } := by
  unfold irq sendMsix
  dsimp only
  split_ifs <;> exact ⟨_, _, _, rfl⟩

/-- A pulse touches no pending disable. -/
theorem irq_pendDis (s : State) (pg b : Nat) : (irq s pg b).pendDis = s.pendDis := by
  obtain ⟨r, m, g, heq⟩ := irq_eq s pg b
  rw [heq]

/-- A pulse touches nothing of power and clock. -/
theorem irq_pwr (s : State) (pg b : Nat) : (irq s pg b).pwr = s.pwr := by
  obtain ⟨r, m, g, heq⟩ := irq_eq s pg b
  rw [heq]

/-- A pulse leaves every field but those of its page's interrupt status. -/
theorem fld_irq_ne (s : State) (pg b a hi lo : Nat) (h : a ≠ PAGE_IRQ_STAT pg) : fld (irq s pg b) a hi lo = fld s a hi lo :=
  congrArg (fun v => bits v hi lo) (rd_irq_ne s pg b a h)

/-! ## The header of a page -/

section Header
variable {s : State} {w : Who} {pg : Nat}

/-- A header register of a page lies in that page. -/
theorem pageOf_hdr {off : Nat} (hpg : pg % 4096 = 0) (hoff : off < 0x40) : pageOf (pg + off) = pg := by
  unfold pageOf
  omega

theorem page_hdr {off : Nat} (hpg : pg % 4096 = 0) (hoff : off < 0x40) : (pg + off) / 4096 = pg / 4096 := by omega

/-- A write of PAGE_CTRL of an assigned page is performed by the page's control. -/
theorem hdrWrite_ctrl {v : Word} {x : PageKind × Nat} (hpg : pg % 4096 = 0) (hkind : pageKind (pg / 4096) = some x) :
    hdrWrite s w (PAGE_CTRL pg) v = ctrlWrite s w pg v := by
  simp only [hdrWrite, PAGE_CTRL, pageOf_hdr (off := 0x08) hpg (by norm_num), page_hdr (off := 0x08) hpg (by norm_num), hkind, if_true]

/-- A write of PAGE_IRQ_STAT of an assigned page clears the bits written as 1. -/
theorem hdrWrite_irqStat {v : Word} {x : PageKind × Nat} (hpg : pg % 4096 = 0) (hkind : pageKind (pg / 4096) = some x) :
    hdrWrite s w (PAGE_IRQ_STAT pg) v = statClear s pg v := by
  have hctrl : pg + 0x18 ≠ pg + 0x08 := by omega
  have hen : pg + 0x18 ≠ pg + 0x14 := by omega
  simp only [hdrWrite, PAGE_CTRL, PAGE_IRQ_EN, PAGE_IRQ_STAT, pageOf_hdr (off := 0x18) hpg (by norm_num),
    page_hdr (off := 0x18) hpg (by norm_num), hkind, hctrl, hen, if_false, if_true]

/-- A command that writes PAGE_CTRL of an assigned page, its checks passed. -/
theorem pageCtrl_ok {x : PageKind × Nat} {v : Nat} (hpg : pg % 4096 = 0) (hkind : pageKind (pg / 4096) = some x)
    (hok : checkAcc s w true 4 (PAGE_CTRL pg) = .ok) : pageCtrl s w pg v = ctrlWrite s w pg (word v) := by
  rw [pageCtrl, guardW_ok hok, hdrWrite_ctrl hpg hkind]

/-- ERR_CLR acts on EN as the bit is written, on nothing else. -/
theorem ctrlWrite_errClr (en : Bool) : ctrlWrite s w pg (word (8 + b2n en)) = enPage (errClr s pg) w pg en := by
  cases en <;> simp [ctrlWrite, bits, word, nbits, b2n]

theorem ctrlWrite_lock (en : Bool) : ctrlWrite s w pg (word (4 + b2n en)) = enPage (setFlag s (PAGE_CTRL pg) 2 true) w pg en := by
  cases en <;> simp [ctrlWrite, bits, word, nbits, b2n]

theorem ctrlWrite_srst (en : Bool) : ctrlWrite s w pg (word (2 + b2n en)) = srst (enPage s w pg en) w pg := by
  cases en <;> simp [ctrlWrite, bits, word, nbits, b2n]

theorem ctrlWrite_enable : ctrlWrite s w pg (word 1) = enPage s w pg true := by
  simp [ctrlWrite, bits, word, nbits]

theorem ctrlWrite_disable : ctrlWrite s w pg (word 0) = enPage s w pg false := by
  simp [ctrlWrite, bits, word, nbits]

/-- EN of a unit that is neither a stream port nor a neuron core is fixed (R50). -/
theorem enPage_fixed {k : PageKind} {i : Nat} (en : Bool) (hkind : pageKind (pg / 4096) = some (k, i)) (hport : k ≠ .port) (hnc : k ≠ .nc) :
    enPage s w pg en = s := by
  unfold enPage
  rw [hkind]
  cases k <;> first | rfl | contradiction

/-- ERR_CLR clears the record of a page, and on the page of a tile or of a cluster controller the first uncorrectable offset. -/
theorem errClr_eq {k : PageKind} {i : Nat} (hkind : pageKind (pg / 4096) = some (k, i)) (hchk : pg ≠ 0x501000) (t : State)
    (ht : t = setFlag (wrN (wrN s (PAGE_ERR_CODE pg) 0) (PAGE_ERR_INFO pg) 0) (PAGE_STAT pg) 8 false) :
    errClr s pg = if k = .tile then wrN t (TT_SRAM_UE_ADDR i) 0 else if k = .cc then wrN t (CC_SRAM_UE_ADDR i) 0 else t := by
  subst ht
  unfold errClr
  rw [if_neg hchk, hkind]
  cases k <;> rfl

end Header

/-! ## The end of a soft reset -/

/-- The last pulse of a soft reset leaves the page's GEN. -/
theorem softEnd_pageGen {s : State} {pg : Nat} (hregs : twf resetWord s.regs = true) : pageGen (softEnd s pg) pg = (pageGen s pg + 1) % 256 := by
  have hirq : ∀ (t : State) (b : Nat), fld (irq t pg b) (PAGE_GEN pg) 7 0 = fld t (PAGE_GEN pg) 7 0 :=
    fun t b => fld_irq_ne t pg b _ 7 0 (by simp only [PAGE_GEN, PAGE_IRQ_STAT, ne_eq, Nat.add_right_inj]; norm_num)
  have hctrl : PAGE_GEN pg ≠ PAGE_CTRL pg := by simp only [PAGE_GEN, PAGE_CTRL, ne_eq, Nat.add_right_inj]; norm_num
  have hstat : PAGE_GEN pg ≠ PAGE_STAT pg := by simp only [PAGE_GEN, PAGE_STAT, ne_eq, Nat.add_right_inj]; norm_num
  let s3 := rearmPage (setFlag (setDisPend s (PAGE_CTRL pg) false) (PAGE_CTRL pg) 0 (bits (resetWord (PAGE_CTRL pg)) 0 0 == 1)) pg
  have hs3 : pageGen s3 pg = pageGen s pg := fld_setFld_ne (setDisPend s (PAGE_CTRL pg) false) _ _ 7 0 0 0 _ hctrl
  have hregs3 : twf resetWord s3.regs = true := wr_twf _ _ _ hregs
  have hgen : fld (setFld s3 (PAGE_GEN pg) 7 0 (pageGen s3 pg + 1)) (PAGE_GEN pg) 7 0 = (pageGen s pg + 1) % 256 := by
    rw [fld_setFld_byte s3 _ _ hregs3, hs3]
  unfold softEnd
  dsimp only
  split
  · exact (hirq _ _).trans hgen
  · exact (hirq _ _).trans ((fld_setFld_ne _ _ _ 7 0 3 0 _ hstat).trans ((hirq _ _).trans hgen))

/-- No disable is pending after a soft reset (R68). -/
theorem softEnd_disPend {s : State} {pg : Nat} (hdis : twf boolD s.pendDis = true) : disPend (softEnd s pg) (PAGE_CTRL pg) = false := by
  have hkeep : (softEnd s pg).pendDis = (setDisPend s (PAGE_CTRL pg) false).pendDis := by
    unfold softEnd
    dsimp only
    split
    · exact irq_pendDis _ _ _
    · exact (irq_pendDis _ _ _).trans (irq_pendDis _ _ _)
  rw [disPend, hkeep]
  exact disPend_setDisPend_same s _ false hdis

/-- The end of a soft reset changes no byte of memory. -/
theorem softEnd_memories (s : State) (pg : Nat) :
    (softEnd s pg).mem = s.mem ∧ (softEnd s pg).sram = s.sram ∧ (softEnd s pg).flash = s.flash := by
  unfold softEnd
  dsimp only
  split <;> simp [irq_mem, setFld, setFlag, rearmPage, setDisPend]

/-! ## The stream ports -/

theorem portPage_eq (p : Nat) : portPage p = 4096 * (32 + p) := by
  simp only [portPage, PORT_CFG]
  omega

/-- The page of a stream port is the port's. -/
theorem pageKind_portPage {p : Nat} (hp : p < 32) : pageKind (portPage p / 4096) = some (.port, p) := by
  have hpage : portPage p / 4096 = 32 + p := by rw [portPage_eq]; omega
  rw [hpage]
  interval_cases p <;> rfl

theorem portPage_aligned (p : Nat) : portPage p % 4096 = 0 := by
  rw [portPage_eq]
  omega

/-- A port in a discovery state that admits it is enabled. -/
theorem enPage_port_enable {s : State} {w : Who} {p : Nat} (hp : p < 32) (hpend : disPend s (PAGE_CTRL (portPage p)) = false)
    (hoff : flag s (PAGE_CTRL (portPage p)) 0 = false) (hmay : mayEnablePort s p = true) :
    enPage s w (portPage p) true = portEnable (setFlag s (PAGE_CTRL (portPage p)) 0 true) p := by
  simp [enPage, pageKind_portPage hp, hpend, hoff, hmay]

/-- A port between packets is disabled. -/
theorem enPage_port_disable {s : State} {w : Who} {p : Nat} (hp : p < 32) (hpend : disPend s (PAGE_CTRL (portPage p)) = false)
    (hon : flag s (PAGE_CTRL (portPage p)) 0 = true) (hidle : (port s p).rx = none) :
    enPage s w (portPage p) false = portDisable (setFlag s (PAGE_CTRL (portPage p)) 0 false) p := by
  simp [enPage, pageKind_portPage hp, hpend, hon, hidle]

/-- Settles O7: a write of the header that passes the checks acts on the bits written. -/
theorem pageControlTakesEffect : Obligations.PageControlTakesEffect := by
  intro w s
  refine ⟨fun pg v x hpg hkind hok => ?statClear, fun pg k i hpg hkind hport hnc hchk hok => ⟨fun en t ht => ?errClr, fun en => ?lock⟩,
    fun en hok => ?srst, fun pg _ _ hregs hdis => ?softEnd,
    fun p hp hpend hok => ⟨fun hoff hmay => ?enable, fun hon hidle => ?disable⟩, fun p hp hpend hidle => ?onIdle⟩
  case statClear =>
    show Host.Outcome.next _ = _
    rw [guardW_ok hok, hdrWrite_irqStat hpg hkind, Machine.statClear]
  case errClr =>
    show Host.Outcome.next (pageCtrl s w pg (8 + b2n en)) = _
    rw [pageCtrl_ok hpg hkind hok, ctrlWrite_errClr, enPage_fixed en hkind hport hnc, errClr_eq hkind hchk t ht]
  case lock =>
    show Host.Outcome.next (pageCtrl s w pg (4 + b2n en)) = _
    rw [pageCtrl_ok hpg hkind hok, ctrlWrite_lock, enPage_fixed en hkind hport hnc]
  case srst =>
    have hkind : pageKind (0x1000 / 4096) = some (.glbPwr, 0) := rfl
    show Host.Outcome.next (pageCtrl s w 0x1000 (2 + b2n en)) = _
    rw [pageCtrl_ok (by norm_num) hkind hok, ctrlWrite_srst, enPage_fixed en hkind (by decide) (by decide)]
    rfl
  case softEnd =>
    exact ⟨softEnd_pageGen hregs, softEnd_disPend hdis, softEnd_memories s pg⟩
  case enable =>
    show Host.Outcome.next (pageCtrl s w (portPage p) 1) = _
    rw [pageCtrl_ok (portPage_aligned p) (pageKind_portPage hp) hok, ctrlWrite_enable, enPage_port_enable hp hpend hoff hmay]
  case disable =>
    show Host.Outcome.next (pageCtrl s w (portPage p) 0) = _
    rw [pageCtrl_ok (portPage_aligned p) (pageKind_portPage hp) hok, ctrlWrite_disable, enPage_port_disable hp hpend hon hidle]
  case onIdle =>
    show execDisableOnIdle (portPage p) s = _
    simp [execDisableOnIdle, pageKind_portPage hp, hpend, hidle]

end Sys2Proof.Proofs
end

section
/-!
PROOFS of the statements about BAR4, the indirect window and the anchors (spec/02_register_pages.md R73 to R77, R626, R632;
spec/09_tensor_tiles.md R316 to R323). That a write through the window is done when its operation ends is log entry 18, that a fault of an
anchor counts is log entry 17.
-/
namespace Sys2Proof.Proofs
open Sys2Proof Sys2Proof.Machine Sys2Proof.Laws

/-- Two folds whose steps agree in the states that keep a property agree in such a state. -/
theorem foldl_congr_of_inv {α : Type} {P : State → Prop} {f g : State → α → State} :
    ∀ (l : List α), (∀ t, ∀ a ∈ l, P t → f t a = g t a) → (∀ t a, P t → P (g t a)) → ∀ s : State, P s → l.foldl f s = l.foldl g s
  | [], _, _, _, _ => rfl
  | a :: l, hfg, hP, s, hs => by
    rw [List.foldl_cons, List.foldl_cons, hfg s a List.mem_cons_self hs]
    exact foldl_congr_of_inv l (fun t b hb => hfg t b (List.mem_cons_of_mem a hb)) hP _ (hP s a hs)

/-! ## An aligned 8-byte word of LPDDR5X through window A -/

section Word8
variable {s : State} {w : Who} {off : Nat}

/-- An aligned access of 8 bytes is one piece. -/
theorem pieces_aligned (halign : off % 8 = 0) : pieces off 8 = [(off, 8)] := by
  have hcount : (off + 8 + 7) / 8 - off / 8 = 1 := by omega
  have hstart : 8 * (off / 8) = off := by omega
  simp [pieces, hcount, rangeFrom, hstart]

/-- With window A at base 0, an offset below 32 GiB is that address of LPDDR5X (R73). -/
theorem placeOf_windowA (hbase : fld s GLB_B4_BASE_A 6 0 = 0) (hoff : off < 0x800000000) : placeOf s off = some (.mem off) := by
  have hmem : off < memSize := by unfold memSize; omega
  simp only [placeOf, hoff, hbase, Nat.zero_mul, Nat.zero_add, hmem, if_true]

/-- Each byte of such a word is stored at its address, in every state that has the registers of s. -/
theorem place_windowA {t : State} {i : Nat} (halign : off % 8 = 0) (hoff : off < 0x800000000) (hbase : fld s GLB_B4_BASE_A 6 0 = 0)
    (hi : i < 8) (ht : t.regs = s.regs) : placeOf t (off + i) = some (.mem (off + i)) := by
  have hsame : fld t GLB_B4_BASE_A 6 0 = fld s GLB_B4_BASE_A 6 0 := by simp only [fld, rd, ht]
  exact placeOf_windowA (hsame.trans hbase) (by omega)

/-- A piece of a write that is not refused, at a place outside SRAM, stores its bytes. -/
theorem b4Piece_stores {record : Bool} {bs : List Byte} {pl : Place} (hmay : b4May w.cls true off = true) (hplace : placeOf s off = some pl)
    (hfree : b4Refuse s pl = none) (hpl : ∀ x, pl ≠ .sram x)
    (hbytes : ∀ t, ∀ i ∈ List.range bs.length, t.regs = s.regs → placeOf t (off + i) = some (.mem (off + i))) :
    b4Piece s w record off bs =
      (b4Fresh ((List.range bs.length).foldl (fun t i => memWrite t (off + i) [bs.getD i 0]) s) pl bs.length, none) := by
  unfold b4Piece
  rw [if_neg (by simp [hmay]), hplace]
  dsimp only
  rw [hfree]
  dsimp only
  split
  · exact absurd rfl (hpl _)
  · refine congrArg (fun t => (b4Fresh t _ bs.length, none)) (foldl_congr_of_inv (P := fun t => t.regs = s.regs) _ ?_ ?_ s rfl)
    · intro t i hi ht
      simp only [hbytes t i hi ht, b4Store]
    · intro t i ht
      simp only [memWrite, ht]

/-- A write of one aligned word that is not refused stores its bytes and leaves fresh check bits. -/
theorem b4Piece_windowA {record : Bool} {bs : List Byte} (halign : off % 8 = 0) (hoff : off < 0x800000000)
    (hbase : fld s GLB_B4_BASE_A 6 0 = 0) (hlen : bs.length = 8) (hmay : b4May w.cls true off = true) (hfree : b4Refuse s (.mem off) = none) :
    b4Piece s w record off bs = (b4Fresh ((List.range 8).foldl (fun t i => memWrite t (off + i) [bs.getD i 0]) s) (.mem off) 8, none) := by
  have hstored := b4Piece_stores (w := w) (record := record) (bs := bs) hmay (placeOf_windowA hbase hoff) hfree (fun _ h => nomatch h)
    (fun t i hi ht => place_windowA halign hoff hbase (hlen ▸ List.mem_range.mp hi) ht)
  rwa [hlen] at hstored

/-- A read of one aligned word is its bytes, poisoned where the word is uncorrectable, whose address is logged. -/
theorem b4Fetch_windowA (hoff : off < 0x800000000) (hbase : fld s GLB_B4_BASE_A 6 0 = 0) (hmay : b4May w.cls false off = true) :
    b4Fetch s w off 8 = (memUeLog s off 8, memRead s off 8, memBad s off 8, none) := by
  simp only [b4Fetch, hmay, placeOf_windowA hbase hoff, Bool.not_true, Bool.false_eq_true, if_false]

end Word8

/-- A GO of an idle set starts its operation, with its kind in the set's control word. -/
theorem iwWrite_go {s : State} {w : Who} {inc : Bool} {go : Nat} (hgo : go = 1 ∨ go = 2) (hidle : opOn s (keyOf w GLB_IW_CTRL) = false)
    (hcls : w.cls ≠ .debug) : iwWrite s w GLB_IW_CTRL (word (b2n inc * 4 + go)) =
      setOp (setFld (setFld s (keyOf w GLB_IW_CTRL) 2 2 (b2n inc)) (keyOf w GLB_IW_CTRL) 1 0 go) (keyOf w GLB_IW_CTRL) true := by
  have hinc : bits (word (b2n inc * 4 + go)) 2 2 = b2n inc := by
    cases inc <;> obtain rfl | rfl := hgo <;> simp [bits, word, nbits, b2n]
  have hkind : bits (word (b2n inc * 4 + go)) 1 0 = go := by
    cases inc <;> obtain rfl | rfl := hgo <;> simp [bits, word, nbits, b2n]
  have hnone : go ≠ 0 ∧ go ≠ 3 := by omega
  simp [iwWrite, hidle, hinc, hkind, hcls, hnone]

/-- Settles O8. -/
theorem blockMemoryReadsBackWhatIsWritten : Obligations.BlockMemoryReadsBackWhatIsWritten := by
  intro w off s halign hoff hbase
  refine ⟨fun bs hlen hmay hfree => ?write, fun hmay => ?read, fun inc hok hidle hcls => ⟨?goRd, ?goWr⟩, fun hbusy hgo hmay haddr => ?done⟩
  case write =>
    show Host.Outcome.next (b4Write s w off bs) = _
    have htake : bs.take 8 = bs := List.take_of_length_le hlen.le
    simp only [b4Write, hlen, pieces_aligned halign, List.foldl_cons, List.foldl_nil, Nat.sub_self, List.drop_zero, htake,
      b4Piece_windowA halign hoff hbase hlen hmay hfree, b4Fresh, if_true]
    rfl
  case read =>
    show Host.Outcome.next (b4Read s w off 8) = _
    simp only [b4Read, pieces_aligned halign, List.foldl_cons, List.foldl_nil, b4Fetch_windowA hoff hbase hmay, List.nil_append, Bool.false_or]
    rfl
  case goRd =>
    show Host.Outcome.next (guardW s w 4 GLB_IW_CTRL _) = _
    rw [guardW_ok hok, iwWrite_go (.inl rfl) hidle hcls]
  case goWr =>
    show Host.Outcome.next (guardW s w 4 GLB_IW_CTRL _) = _
    rw [guardW_ok hok, iwWrite_go (.inr rfl) hidle hcls]
  case done =>
    show execIwOperationDone w s = _
    simp [execIwOperationDone, hbusy, hgo, haddr, b4Fetch_windowA hoff hbase hmay, iwData]

/-! ## Anchors -/

/-- SIGNAL, with OP 0 and an increment of at least 1. -/
theorem ancOpWrite_signal {s : State} {w : Who} {n inc : Nat} (hpos : 0 < inc) (hlt : inc < 65536) :
    ancOpWrite s w n (word (inc % 65536)) = ancSignal s n inc := by
  have hop : bits (word (inc % 65536)) 31 30 = 0 := by
    simp only [bits, word, nbits, BitVec.toNat_ofNat]
    omega
  have hinc : bits (word (inc % 65536)) 15 0 = inc := by
    simp only [bits, word, nbits, BitVec.toNat_ofNat]
    omega
  simp only [ancOpWrite, hop, hinc, if_true, if_neg hpos.ne']

/-- RESET, with OP 1: refused while commands wait for the anchor. -/
theorem ancOpWrite_reset {s : State} {w : Who} {n : Nat} :
    ancOpWrite s w n (word 0x40000000) = if waiters s n ≠ 0 then wErr s w (ANC_OP n) 0x0101 else ancReset s n := by
  have hop : bits (word 0x40000000) 31 30 = 1 := by decide
  simp only [ancOpWrite, hop, one_ne_zero, if_true, if_false]

/-- FAULT, with OP 2. -/
theorem ancOpWrite_fault {s : State} {w : Who} {n : Nat} : ancOpWrite s w n (word 0x80000000) = ancFault s n := by
  have hop : bits (word 0x80000000) 31 30 = 2 := by decide
  simp only [ancOpWrite, hop, if_true]
  rfl

/-- The records of the anchors lie in the anchor control page. -/
theorem headerPage_anchor {n off : Nat} (hn : n < 16384) (hoff : off < 16) : headerPage (0x520000 + 0x10 * n + off) = 0x4000 := by
  unfold headerPage
  rw [if_pos (by omega)]

/-- Settles O10. That FAULT counts is log entry 17. -/
theorem anchorWritesAct : Obligations.AnchorWritesAct := by
  intro w n s hn
  have hinfo : headerPage (ANC_OP n) = 0x4000 := by
    have hpage := headerPage_anchor (off := 12) hn (by norm_num)
    rwa [show 0x520000 + 0x10 * n + 12 = ANC_OP n by unfold ANC_OP; omega] at hpage
  have hctrl : headerPage (ANC_CTRL n) = 0x4000 := by
    have hpage := headerPage_anchor (off := 8) hn (by norm_num)
    rwa [show 0x520000 + 0x10 * n + 8 = ANC_CTRL n by unfold ANC_CTRL; omega] at hpage
  have hmod : n % 16384 = n := Nat.mod_eq_of_lt hn
  refine ⟨fun inc hpos hlt hok => ?signal, fun hok hfree => ?reset, fun hok hwait => ?resetRefused, fun hok => ?fault,
    fun v hok => ⟨fun hlo hhi => ?reserved, fun hcode hfree hnew hold => ?owner⟩⟩
  case signal =>
    show Host.Outcome.next (guardW s w 4 (ANC_OP n) _) = _
    rw [guardW_ok hok, ancOpWrite_signal hpos hlt]
    simp only [ancSignal, ancAdd, ancCount, hmod]
    rfl
  case reset =>
    show Host.Outcome.next (guardW s w 4 (ANC_OP n) _) = _
    rw [guardW_ok hok, ancOpWrite_reset, if_neg (not_not.mpr hfree)]
    rfl
  case resetRefused =>
    show Host.Outcome.next (guardW s w 4 (ANC_OP n) _) = _
    rw [guardW_ok hok, ancOpWrite_reset, if_pos hwait, wErr, hinfo]
  case fault =>
    show Host.Outcome.next (guardW s w 4 (ANC_OP n) _) = _
    rw [guardW_ok hok, ancOpWrite_fault]
    simp only [ancFault, ancCount, hmod]
    rfl
  case reserved =>
    show Host.Outcome.next (guardW s w 4 (ANC_CTRL n) _) = _
    rw [guardW_ok hok]
    simp only [ancOwnerWrite, hlo, hhi, and_self, if_true, wErr, hctrl]
  case owner =>
    have hvalid : ¬ (9 ≤ bits v 11 8 ∧ bits v 11 8 ≤ 14) := by omega
    show Host.Outcome.next (guardW s w 4 (ANC_CTRL n) _) = _
    rw [guardW_ok hok]
    simp only [ancOwnerWrite, hvalid, hfree, hnew, hold, ne_eq, not_true_eq_false, Bool.or_self, Bool.false_eq_true, if_false, ancOwner]

end Sys2Proof.Proofs
end

section
/-!
PROOFS of the statements about the TK-3 compatibility of a port (spec/03_stream_ports.md R123 to R127) and the operating modes
(spec/01_architecture.md R33 to R35). That an automatic change goes before a request is log entry 26, how the power-up of the clusters shows is
log entry 27, that a write that waited reaches SRAM at the end of a pause is log entry 18.
-/
namespace Sys2Proof.Proofs
open Sys2Proof Sys2Proof.Machine Sys2Proof.Laws

/-! ## TK-3 compatibility -/

/-- Bit 10 of a write of PORT_CFG is refused on the first four ports in BELAY only. -/
theorem portCfgWrite_setsLegacy {s : State} {w : Who} {p : Nat} {v : Word} (hp : p < 4) (hstatic : portStatic s p = false)
    (hbelay : inBelay s = false) (hold : isLegacy s p = false) (hnew : isLegacy (plainWrite s w (PORT_CFG p) v) p = true) :
    ∃ u : State, u = (List.range 8).foldl (fun t i => wrN t (PORT_DESC p i) 0) (setFlag (plainWrite s w (PORT_CFG p) v) (PORT_STATUS p) 15 true) ∧
      portCfgWrite s w p v = setDisc (updPort u p (fun x => { x with reread := false })) p
        (if legResOk (rd u (PORT_LEG_RES p)) then pDeclared else pEmpty) := by
  refine ⟨_, rfl, ?_⟩
  simp only [portCfgWrite, hstatic, hbelay, hold, hnew, not_le.mpr hp, decide_false, Bool.and_false, Bool.not_false, Bool.and_self,
    Bool.false_eq_true, if_false, if_true]

/-- The register page of a port governs its block registers. -/
theorem headerPage_port {p off : Nat} (hp : p < 32) (hoff : off < 4096) : headerPage (portPage p + off) = portPage p := by
  have hpage := portPage_eq p
  have hmsix : inMsix (portPage p + off) = false := by
    simp only [inMsix, Bool.and_eq_false_iff, decide_eq_false_iff_not]
    omega
  have hanc : ¬ (0x520000 ≤ portPage p + off ∧ portPage p + off < 0x560000) := by omega
  simp only [headerPage, hanc, hmsix, Bool.false_eq_true, if_false, pageOf]
  omega

theorem wErr_legRes {s : State} {w : Who} {p c : Nat} (hp : p < 32) :
    wErr s w (PORT_LEG_RES p) c = recErr s (portPage p) c (accInfo w true (PORT_LEG_RES p)) := by
  have hreg : PORT_LEG_RES p = portPage p + (PORT_LEG_RES p - portPage p) := by
    simp only [PORT_LEG_RES, portPage, PORT_CFG]
    omega
  have hoff : PORT_LEG_RES p - portPage p < 4096 := by
    simp only [PORT_LEG_RES, portPage, PORT_CFG]
    omega
  rw [wErr, hreg, headerPage_port hp hoff]

/-- The port and the register that an address of the TK-3 window names. -/
theorem tk_address {p off : Nat} (hp : p < 4) (hoff : off < 0x1000) :
    (0xF00000 + (0x1000 * p + off)) / 4096 % 4 = p ∧ (0xF00000 + (0x1000 * p + off)) % 4096 = off := by
  constructor <;> omega

/-- An access through the TK-3 window is checked first. -/
theorem tkAccess_eq {s : State} {w : Who} {isWr : Bool} {size p off : Nat} {v : Word} (hp : p < 4) (hoff : off < 0x1000) :
    tkAccess s w isWr size (0xF00000 + (0x1000 * p + off)) v =
      match tkCheck s w isWr size p off with
      | .ok => if isWr then tkWrite s w p off v else answer (tkRead s p off).1 (tkRead s p off).2
      | .fail c => if isWr then tkFail s w isWr p off c else answer (tkFail s w isWr p off c) 0
      | .noGrant => if isWr then bump s DBG_JTAG_REFUSE_CNT else answer (bump s DBG_JTAG_REFUSE_CNT) 0
      | _ => if isWr then s else answer s 0 := by
  obtain ⟨hport, hreg⟩ := tk_address hp hoff
  simp only [tkAccess, hport, hreg] <;> rfl

/-- An access of a width other than 2 bytes fails with ERR_LEGACY_WIDTH (R127). -/
theorem tkCheck_width {s : State} {w : Who} {isWr : Bool} {size p off : Nat} (hsize : size ≠ 2) (hcls : w.cls ≠ .debug) :
    tkCheck s w isWr size p off = .fail errLegacyWidth := by
  simp [tkCheck, hsize, hcls]

/-- Settles O11. -/
theorem legacyWindowSetsResolutionAndOffset : Obligations.LegacyWindowSetsResolutionAndOffset := by
  intro w p v s hp
  refine ⟨fun hok hstatic hbelay hold hnew => ?legacy, fun hok hstatic hres hleg hdisc hleg' hdisc' => ?resolution,
    fun hok hstatic hres => ?refused, fun hok hstatic => ?offset, fun size off hoff hsize hcls => ?width, fun hok => ?part⟩
  case legacy =>
    obtain ⟨u, hu, hwrite⟩ := portCfgWrite_setsLegacy hp hstatic hbelay hold hnew
    refine ⟨u, hu, ?_⟩
    simp only [exec, execLegacyWrite, guardW_ok hok, hwrite]
  case resolution =>
    simp only [exec, execPortLegResWrite, guardW_ok hok, legResWrite, hstatic, hres, hleg', hdisc', Bool.not_true, Bool.false_eq_true, if_false,
      beq_self_eq_true, Bool.and_self, if_true]
  case refused =>
    simp only [exec, execPortLegResWrite, guardW_ok hok, legResWrite, hstatic, hres, Bool.not_false, Bool.false_eq_true, if_false, if_true,
      wErr_legRes (p := p) (by omega)]
  case offset =>
    have haddr : 0xF00010 + 0x1000 * (p % 4) = 0xF00000 + (0x1000 * p + 0x010) := by omega
    have hlow : bits v 15 0 % 65536 = bits v 15 0 := Nat.mod_mod _ _
    simp only [exec, execTkOffsetHiWrite, haddr, tkAccess_eq hp (by norm_num : 0x010 < 0x1000), hok, if_true, tkWrite, tkOffsetHi, hstatic,
      Bool.false_eq_true, if_false, hlow]
  case width =>
    have hin : 0x1000 * p + off < 0x4000 := by omega
    simp only [exec, execLegacyWindowAccess, hin, if_true, tkAccess_eq hp hoff, tkCheck_width hsize hcls, tkFail]
    rfl
  case part =>
    have hin : 0x1000 * p < 0x4000 := by omega
    have hacc := tkAccess_eq (s := s) (w := w) (isWr := false) (size := 2) (v := v) hp (by norm_num : 0 < 0x1000)
    rw [Nat.add_zero] at hacc
    simp only [exec, execLegacyWindowAccess, hin, if_true, hacc, hok, tkRead]
    rfl

/-! ## Requests of a mode -/

/-- A request that no rule refuses waits for its cairn. -/
theorem takeRequest_waits {s : State} {m : Nat} (hrefuse : modeRefusal s m = none) (hpend : flag s GLB_MODE_STAT 3 = false)
    (hauto : s.pwr.auto = none) :
    takeRequest s m = retarget (setFlag (setFld (startWatch s) GLB_MODE_STAT 6 4 m) GLB_MODE_STAT 3 true) := by
  simp only [takeRequest, hrefuse, modeWaits, hpend, hauto, Option.isSome_none, Bool.or_self, Bool.false_eq_true, if_false]

/-- BIVOUAC is refused while a context holds an accepted, uncompleted command (R36, R37). -/
theorem takeRequest_busy {s : State} (hcmd : anyCommand s = true) : takeRequest s modeBivouac = refuseMode s rsnBusy := by
  simp only [takeRequest, modeRefusal, hcmd, and_self, if_true]

/-- Settles O12. -/
theorem modeRequestsWaitOrAreRefused : Obligations.ModeRequestsWaitOrAreRefused := by
  intro w v s hok
  refine ⟨fun hres => ?reserved, ?valid⟩
  case reserved =>
    simp only [exec, execModeReq, guardW_ok hok, modeReq, hres, if_true]
    rfl
  case valid =>
    rintro u rfl hmode hpend
    have hreq : exec (.modeReq w v) s = .next (if bits v 2 0 = mode (setFld s GLB_MODE_REQ 2 0 (bits v 2 0)) then
        setFld s GLB_MODE_REQ 2 0 (bits v 2 0) else takeRequest (setFld s GLB_MODE_REQ 2 0 (bits v 2 0)) (bits v 2 0)) := by
      simp only [exec, execModeReq, guardW_ok hok, modeReq, not_lt.mpr hmode, hpend, Bool.false_eq_true, if_false]
    rw [hreq]
    refine ⟨fun hsame => ?same, fun hother hrefuse hauto => ?waits, fun hbiv hother hcmd => ?busy⟩
    case same => rw [if_pos hsame]
    case waits => rw [if_neg hother, takeRequest_waits hrefuse hpend hauto]
    case busy =>
      have hne : bits v 2 0 ≠ mode (setFld s GLB_MODE_REQ 2 0 (bits v 2 0)) := fun e => hother (e ▸ hbiv)
      rw [if_neg hne]
      generalize setFld s GLB_MODE_REQ 2 0 (bits v 2 0) = u at *
      rw [hbiv]
      exact congrArg _ (takeRequest_busy hcmd)

/-! ## The cairn of a change, the pause, the power-up -/

/-- Counting a late rail changes neither FT nor the power. -/
theorem countLate_reached {s : State} {now : Nat} (h : Reached s now) : Reached (countLate s) now := by
  have hft : (countLate s).ft = s.ft := by
    unfold countLate
    split
    · rfl
    · exact (irq_mem (bump s GLB_PWR_LATE_CNT) pgPwr 1).2.2.2.2.2.2.1
  have hdown : (countLate s).pwr.down = s.pwr.down := by
    unfold countLate
    split
    · rfl
    · simp only [updPwr, irq_pwr]
      rfl
  rw [Reached, hft, hdown]
  exact h

/-- A wait for the rail is counted once. -/
theorem countLate_countLate (s : State) : countLate (countLate s) = countLate s := by
  by_cases h : (s.pwr.late || !riseWaits s || decide (s.ft ≤ s.pwr.since + 10000)) = true
  · have hsame : countLate s = s := if_pos h
    rw [hsame, hsame]
  · have hlate : (countLate s).pwr.late = true := by rw [countLate, if_neg h]; rfl
    exact if_pos (by rw [hlate]; rfl)

/-- Passing time and counting a late rail, once done, change nothing more. -/
theorem countLate_advance_idem (s : State) (now : Nat) :
    countLate (advance (countLate (advance s now)) now) = countLate (advance s now) := by
  rw [advance_of_reached (countLate_reached (reached_advance s now)), countLate_countLate]

/-- The state of supply and clock is left by a write of SRAM. -/
theorem applyHeld_pwr (s : State) : (applyHeld s).pwr = s.pwr := by
  unfold applyHeld
  refine foldl_keeps (fun t : State => t.pwr) ?_ s.held _
  intro t e
  rfl

/-- Settles O13. -/
theorem modeChangesTakeEffectAtTheirCairn : Obligations.ModeChangesTakeEffectAtTheirCairn := by
  refine ⟨fun now s => ?changeTime, fun now s => ?pauseTime, fun vs now s => ?upTime, fun now s => ?cairnTime, fun now s hnow => ?effects⟩
  case changeTime => simp only [exec, execModeChangeCairn, countLate_advance_idem]
  case pauseTime => simp only [exec, execCoreClockPauseEnd, advance_advance]
  case upTime => simp only [exec, execClusterPowerUp, advance_advance]
  case cairnTime => simp only [exec, execPeriodicCairn, advance_advance]
  case effects =>
    have hadv := advance_of_reached hnow
    refine ⟨fun hlate hbound hpause => ⟨fun hauto hpend hrefuse hrail => ?request, fun m r hauto hrail => ?automatic⟩,
      fun t hpause => ?pauseEnd, fun c t vs hnext hdue hboot => ?clusterUp, fun hcairns hdue => ?periodic⟩
    case request =>
      have hmode : modeDue s = some (fld s GLB_MODE_STAT 6 4, rsnHost) := by
        simp [modeDue, hauto, hpend, hbound, hpause, hrail]
      simp only [exec, execModeChangeCairn, hadv, hlate, hmode, refusedNow, hauto, Option.isSome_none, Bool.false_eq_true, if_false, hrefuse]
      rfl
    case automatic =>
      have hmode : modeDue s = some (m, r) := by simp [modeDue, hauto, hbound, hpause, hrail]
      simp only [exec, execModeChangeCairn, hadv, hlate, hmode, refusedNow, hauto, Option.isSome_some, if_true]
    case pauseEnd =>
      simp only [exec, execCoreClockPauseEnd, hadv, hpause, updPwr, applyHeld_pwr]
    case clusterUp =>
      have hnot : ¬ s.ft < t + 10000 := not_lt.mpr hdue

      simp only [exec, execClusterPowerUp, hadv, hnext, hnot, if_false, hboot, and_false, nextCluster, Bool.false_eq_true]
    case periodic =>
      have hsome : s.cairns.isEmpty = false := by simp [hcairns]
      simp only [exec, execPeriodicCairn, hadv, hsome, Bool.false_eq_true, not_lt.mpr hdue, if_false]

end Sys2Proof.Proofs
end

section
/-!
PROOFS of the statements about the core rail (spec/19_package_power.md) and about temperature and power limits (spec/20_electrical.md,
spec/01_architecture.md). What a rail stands above the required level after a start is log entry 168; POWER_DOWN holding the device in reset
is log entry 127, a thermal trip as a sample at or above 118 °C log entry 126.
-/
namespace Sys2Proof.Proofs
open Sys2Proof Sys2Proof.Machine Sys2Proof.Laws

/-! ## The rail -/

/-- The trim moves the target by at most 5 mV, upward here. -/
theorem trim_up {vr level : Nat} (hlo : 690 ≤ level) (hhi : level ≤ 750) (h : vr + 5 ≤ level) :
    max 690 (min 750 level) = level ∧ vr < level ∧ min (vr + 5) level = vr + 5 := by omega

theorem trim_down {vr level : Nat} (hlo : 690 ≤ level) (hhi : level ≤ 750) (h : level + 5 ≤ vr) :
    max 690 (min 750 level) = level ∧ ¬ vr < level ∧ max (vr - 5) level = vr - 5 ∧ min (vr - 5) level = level ∧ vr - 5 ≠ vr := by omega

/-- Settles O14. -/
theorem theRailFollowsItsTarget : Obligations.TheRailFollowsItsTarget := by
  refine ⟨fun now mv s => ?settleTime, fun now s => ?timeoutTime, fun now s => ?noAnswerTime, fun now s => ?answerTime,
    fun level now s => ?trimTime, fun now s hnow => ?effects⟩
  case settleTime => simp only [exec, execRailSettled, countLate_advance_idem]
  case timeoutTime => simp only [exec, execErrAvsTimeout, countLate_advance_idem]
  case noAnswerTime => simp only [exec, execAvsNoAnswer, advance_advance]
  case answerTime => simp only [exec, execAvsRegulatorAnswer, advance_advance]
  case trimTime => simp only [exec, execAvsTrim, advance_advance]
  case effects =>
    have hadv := advance_of_reached hnow
    refine ⟨fun mv hlate hanswer hstate hnear => ?settled, fun hlate hstate hrise hdue honce => ?timeout, ?noAnswer, fun hno => ?answer,
      fun level vr hen hdue hlo hhi hvr => ⟨fun hup => ?trimUp, fun hdown => ?trimDown⟩⟩
    case settled =>
      have hstate' : ¬ avsState (setFld s GLB_VCORE_MEAS 15 0 mv) < 2 := by
        rw [avsState, fld_setFld_ne _ _ _ _ _ _ _ _ (by decide)]
        exact not_lt.mpr hstate
      have hnear' : ¬ 8 < absI ((mv : Int) - (vTgt (setFld s GLB_VCORE_MEAS 15 0 mv) : Int)) := by
        rw [vTgt, fld_setFld_ne _ _ _ _ _ _ _ _ (by decide)]
        exact not_lt.mpr hnear
      have hanswer' : (setFld s GLB_VCORE_MEAS 15 0 mv).pwr.noAnswer = false := hanswer
      simp only [exec, execRailSettled, hadv, hlate, hanswer', hstate', hnear', decide_false, Bool.or_self, Bool.false_eq_true, if_false]
      rfl
    case timeout =>
      have hnot : ¬ (avsState s ≠ avsSettling ∨ (!riseWaits s) = true ∨ s.ft < s.pwr.since + 1000000 ∨ s.pwr.timedOut = true) := by
        simp [avsSettling, hstate, hrise, not_lt.mpr hdue, honce]
      simp only [exec, execErrAvsTimeout, hadv, hlate, if_neg hnot]
      rfl
    case noAnswer =>
      simp only [exec, execAvsNoAnswer, hadv]
      rfl
    case answer =>
      simp only [exec, execAvsRegulatorAnswer, hadv, hno, Bool.not_true, Bool.false_eq_true, if_false]
      rfl
    all_goals
      have hdue' : ¬ s.ft < s.pwr.lastTrim + 100000000 := not_lt.mpr hdue
      have hvr' : fld (updPwr s (fun p => { p with lastTrim := s.ft })) GLB_VCORE_BASE 15 0 + (updPwr s (fun p => { p with lastTrim := s.ft })).pwr.above = vr :=
        hvr.symm
    case trimUp =>
      obtain ⟨hwant, hlt, hstep⟩ := trim_up hlo hhi hup
      simp only [exec, execAvsTrim, hadv, hen, Bool.not_true, hdue', decide_false, Bool.or_self, Bool.false_eq_true, if_false, hvr', hwant, hlt, if_true,
        hstep, Nat.sub_eq_zero_of_le hup, Nat.add_eq_left, OfNat.ofNat_ne_zero]
    case trimDown =>
      obtain ⟨hwant, hge, hstep, hbase, hmoves⟩ := trim_down hlo hhi hdown
      simp only [exec, execAvsTrim, hadv, hen, Bool.not_true, hdue', decide_false, Bool.or_self, Bool.false_eq_true, if_false, hvr', hwant, hge, hstep,
        hbase, hmoves]

/-! ## Temperature and power -/

/-- A sample of the sensors changes of the power state only whether the temperature stands beyond its maximum. -/
theorem takeTemps_pwr (s : State) (l : List Nat) : ∃ b, (takeTemps s l).pwr = { s.pwr with overMax := b } := by
  have hregs : ∀ (m : List (Nat × Nat)) (u : State), (m.foldl (fun t e => setFld t (DBG_TEMP e.2) 15 0 e.1) u).pwr = u.pwr :=
    foldl_keeps (fun t : State => t.pwr) (fun _ _ => rfl)
  have hset : ∀ (u : State) (x : Nat), (setFld u DBG_TJ 15 0 x).pwr = u.pwr := fun _ _ => rfl
  by_cases hlen : l.length ≠ 20
  · exact ⟨s.pwr.overMax, by rw [takeTemps, if_pos hlen]⟩
  · rw [takeTemps, if_neg hlen]
    dsimp only
    split_ifs <;> simp only [updPwr, addLog, addLogData, hset, hregs] <;> exact ⟨_, rfl⟩

/-- Settles O15. -/
theorem temperatureAndPowerLimitsAct : Obligations.TemperatureAndPowerLimitsAct := by
  refine ⟨fun temps => ⟨fun now s => ?belayTime, fun now s => ?tripTime⟩, fun rails now s => ?evalTime, fun now s => ⟨fun temps => ?temperature,
    fun rails x hnow hdue hbiv hx => ?evaluation, fun ns hns => ?reset, ?down⟩⟩
  case belayTime => simp only [exec, execBelayThermalLimit, advance_advance]
  case tripTime => simp only [exec, execThermtrip, advance_advance]
  case evalTime => simp only [exec, execSummitLimitEval, advance_advance]
  case temperature =>
    refine ⟨rfl, fun hnow hbelay hhot => ?belay, fun hnow hlen hhot htrip hdown => ?trip⟩
    case belay =>
      simp only [exec, execBelayThermalLimit, advance_of_reached hnow, hbelay, hhot, decide_true, Bool.and_self, if_true]
      rfl
    case trip =>
      obtain ⟨b, hpwr⟩ := takeTemps_pwr s temps
      have htemp : (16 * 118 : Int) ≤ hottest temps := hhot
      simp only [exec, execThermtrip, advance_of_reached hnow, hlen, htemp, hpwr, htrip, hdown, Bool.not_false, and_self, if_true]
      rfl
  case evaluation =>
    have hrun : exec (.summitLimitEval now rails) s = .next (if mode x ≠ 1 then x
        else if 16 * (fld x GLB_MODE_LIMIT 15 8 : Int) ≤ tj x then autoMode x 0 2
        else if 1000 * fld x GLB_MODE_LIMIT 24 16 ≤ rails + 15500 then autoMode x 0 3 else x) := by
      simp only [exec, execSummitLimitEval, advance_of_reached hnow, not_lt.mpr hdue, hbiv, if_false, Bool.false_eq_true, ← hx, modeSummit,
        modeRidge, rsnThermal, rsnPower]
      split_ifs <;> rfl
    rw [hrun]
    refine ⟨fun hmode => ?other, fun hmode hhot => ?hot, fun hmode hcool hpow => ?power⟩
    case other => rw [if_pos hmode]
    case hot => rw [if_neg (not_not.mpr hmode), if_pos hhot]
    case power => rw [if_neg (not_not.mpr hmode), if_neg (not_le.mpr hcool), if_pos hpow]
  case reset =>
    exact ⟨powerReset s, if_neg (not_lt.mpr hns), rfl, rfl, rfl, rfl, rfl, rfl, rfl, rfl, rfl, rfl⟩
  case down => exact ⟨_, rfl, rfl, rfl, rfl, rfl⟩

end Sys2Proof.Proofs
end

section
/-!
PROOFS of the statements about packets, the words of a stream, and the sensor buses (spec/03_stream_ports.md). That a packet with a
bad CRC of any length is dropped as one is log entry 146, that the resolution is tested before the time of an event is log entry 147.
-/
namespace Sys2Proof.Proofs
open Sys2Proof Sys2Proof.Machine Sys2Proof.Laws

/-! ## Packets -/

/-- What the checks of a packet without header errors, of the port's channel and type, come to (R81, R82). -/
theorem checkPacket_own {s : State} {p arr now : Nat} {x : Packet} (hdr : x.hdrErr = 0) (hvc : x.vc = fld s (PORT_CFG p) 7 4)
    (hdt : x.dt = 0x30 + fld s (PORT_CFG p) 2 0) : checkPacket s p arr now x =
      if !x.crcOk then packetDropped (irq (bump s (PORT_CRC_ERR p)) (portPage p) 6) p
      else if 16384 < x.payload.length then packetDropped (bump s (PORT_PKT_FORMAT p)) p
      else acceptPacket (if x.payload.length % 4 = 0 then s else bump s (PORT_PKT_FORMAT p)) p arr now x.payload := by
  have hbad : ¬ 2 ≤ (0 : Nat) := by norm_num
  simp only [checkPacket, hdr, hbad, if_false, zero_ne_one, hvc, hdt, ne_eq, not_true_eq_false, or_self]

/-- A packet of another channel or type counts only. -/
theorem checkPacket_other {s : State} {p arr now : Nat} {x : Packet} (hdr : x.hdrErr = 0)
    (hother : x.vc ≠ fld s (PORT_CFG p) 7 4 ∨ x.dt ≠ 0x30 + fld s (PORT_CFG p) 2 0) :
    checkPacket s p arr now x = bump s (PORT_OTHER_PKT p) := by
  have hbad : ¬ 2 ≤ (0 : Nat) := by norm_num
  simp only [checkPacket, hdr, hbad, if_false, zero_ne_one, hother, if_true]

/-- Settles O16. -/
theorem packetsAreCheckedAndBuffered : Obligations.PacketsAreCheckedAndBuffered := by
  refine ⟨fun p x now s => ?finishTime, fun p s => ⟨fun arr vc dt len => rfl, fun now hs => rfl, fun now arr x u hnow hrx hu => ?finish,
    fun hspill hfill y hy => ?refill⟩⟩
  case finishTime => simp only [exec, execPacketReceive, advance_advance]
  case finish =>
    have hrun : exec (.packetReceive p (.finish now x)) s = .next (checkPacket u p arr now x) := by
      simp only [exec, execPacketReceive, advance_of_reached hnow, hrx, hu]
    rw [hrun]
    refine ⟨fun hdr => ?uncorrectable, fun hdr hother => ?other, fun hdr hvc hdt => ⟨fun hcrc => ?crc, fun hcrc hlong => ?long,
      fun hcrc hshort hwhole => ?accepted⟩⟩
    case uncorrectable => rw [checkPacket, if_pos hdr]
    case other => rw [checkPacket_other hdr hother]
    case crc => rw [checkPacket_own hdr hvc hdt, hcrc]; rfl
    case long => rw [checkPacket_own hdr hvc hdt, hcrc, if_pos hlong]; rfl
    case accepted => rw [checkPacket_own hdr hvc hdt, hcrc, if_neg (not_lt.mpr hshort), if_pos hwhole]; rfl
  case refill =>
    have hsome : (port s p).spill.isEmpty = false := by simp [hspill]
    simp only [exec, execSpillRefill, hsome, not_lt.mpr hfill, decide_false, Bool.or_self, Bool.false_eq_true, if_false, ← hy]

/-! ## The word at the head of a buffer -/

section Word
variable {s : State} {p : Nat} {b : BufWord} {rest : List BufWord}

/-- A word of the stream that is not skipped and passes its test leaves the buffer and has its effect. -/
theorem withWord_head {legacy : Bool} {test : Nat → Bool} {f : State → BufWord → State} (hbuf : (port s p).buf = b :: rest)
    (hleg : isLegacy s p = legacy) (hskip : skipping (port s p) b = false) (htest : test b.w.toNat = true) :
    withWord s p legacy test f = .next (f (popWord s p) b) := by
  simp only [withWord, hbuf, hleg, hskip, htest, and_self, if_true]

end Word

/-- Settles O18. -/
theorem eventStreamWordsAct : Obligations.EventStreamWordsAct := by
  rintro p s b rest hbuf hleg hskip u rfl
  have hword : ∀ {test : Nat → Bool} {f : State → BufWord → State}, test b.w.toNat = true →
      withWord s p false test f = .next (f (popWord s p) b) := withWord_head hbuf hleg hskip
  refine ⟨fun h => ?pad, ?_, ?_, fun h => ?row, fun h => ?run, fun h => ?mask, fun h t ht => ?trigger, fun h hcode => ?status,
    fun h => ?extended, fun h => ?reject⟩
  case pad => simp only [exec, execPad, hword h]
  case row => simp only [exec, execRow, hword h]
  case run => simp only [exec, execRun, hword h]
  case mask => simp only [exec, execMask, hword h]
  case trigger =>
    simp only [exec, execTrigger, hword h, ht]
    rfl
  case status => simp only [exec, execSensorStatus, hword h, hcode]
  case extended =>
    simp only [exec, execExtended, hbuf, hleg, hskip, h, Bool.false_eq_true, if_false, if_true]
  case reject =>
    simp only [exec, execVesReject, hleg, Bool.false_eq_true, if_false, hword h, reject]
  · rintro h t rfl hforward
    cases hlast : (port (popWord s p) p).tLast with
    | none => simp only [exec, execTimeBase, hword h, hlast, Bool.false_and, Bool.false_eq_true, if_false]
    | some l =>
      have hback : decide (nbits b.w.toNat 27 0 * 65536 < l) = false := decide_eq_false (not_lt.mpr (hforward l hlast))
      simp only [exec, execTimeBase, hword h, hlast, hback, Bool.false_and, Bool.false_eq_true, if_false]
  · rintro h t0 t ht0 rfl
    simp only [exec, execTimeDelta, hword h, ht0]

/-- Settles O19. -/
theorem legacyStreamWordsAct : Obligations.LegacyStreamWordsAct := by
  rintro p s b rest hbuf hleg hskip u l rfl hlast hnear
  have hword : ∀ {test : Nat → Bool} {f : State → BufWord → State}, test b.w.toNat = true →
      withWord s p true test f = .next (f (popWord s p) b) := withWord_head hbuf hleg hskip
  have hhigh : ∀ {f : State → BufWord → State}, nbits b.w.toNat 31 30 = 1 → nbits b.w.toNat 29 22 = 0 →
      withWord s p true (fun w => nbits w 31 30 == 1 && !tkBad w) f = .next (f (popWord s p) b) :=
    fun hkind hzero => hword (by simp [tkBad, hkind, hzero])
  have hevent : ∀ {f : State → BufWord → State}, nbits b.w.toNat 31 30 = 0 → nbits b.w.toNat 7 6 = 0 →
      withWord s p true (fun w => nbits w 31 30 == 0 && !tkBad w) f = .next (f (popWord s p) b) :=
    fun hkind hzero => hword (by simp [tkBad, hkind, hzero])
  have harr : checkArrival (popWord s p) p b.arr = popWord s p := by
    simp only [checkArrival, hlast, not_lt.mpr hnear, if_false]
  refine ⟨fun hkind hzero u1 u2 w t hu1 hw ht hu2 hstamp => ?timeHigh, fun hkind hzero => ⟨fun hout => ?outside, fun hu hv hstamp t ht => ?event⟩⟩
  case timeHigh =>
    subst hu1
    simp only [exec, execTimeHigh, hhigh hkind hzero, harr, hlast, hnear, decide_true, if_true, Option.isSome_some, Bool.true_and, decide_eq_true_eq, ← hw, ← ht, ← hu2, hstamp,
      Bool.false_eq_true, if_false]
  case outside =>
    simp only [exec, execTkEvent, hevent hkind hzero, harr, hout, if_true]
  case event =>
    have hin : ¬ ((port (popWord s p) p).w ≤ nbits b.w.toNat 29 19 ∨ (port (popWord s p) p).h ≤ nbits b.w.toNat 18 9) := by omega
    simp only [exec, execTkEvent, hevent hkind hzero, harr, hin, if_false, hstamp, Bool.false_eq_true, ht]

/-! ## The sensor buses -/

/-- Settles O20. -/
theorem sensorBusEventsAct : Obligations.SensorBusEventsAct := by
  refine ⟨fun b k ack now s => ?pollTime, fun p => ⟨fun now s => ?streamTime, fun now s => ?linkTime⟩, fun b s => ⟨fun n => rfl,
    fun hoff => ?joinOff, fun hon hfull => ?joinFull, fun a hon hfree => ?join, fun w n v hok u hu => ?hjEn,
    fun addr k t d u hfind hk hheld hu hleg hdisc => ?descriptor, fun k now t hnow htarget hleg hdue => ?poll,
    fun p now hnow hdisc hdue => ?noStream, fun p now hnow hdisc hdue => ?linkTimeout,
    fun w v t u hok hidle hu hgo hlen htarget => ?transfer, fun t hon hwait htarget => ?transferDone⟩⟩
  case pollTime => simp only [exec, execGetstatusPoll, advance_advance]
  case streamTime => simp only [exec, execNoStream, advance_advance]
  case linkTime => simp only [exec, execLinkTimeout, advance_advance]
  case joinOff => simp only [exec, execHotJoin, hoff, Bool.not_false, if_true]
  case joinFull => simp only [exec, execHotJoin, hon, hfull, Bool.not_true, Bool.false_eq_true, if_false, Option.isNone_none, if_true]
  case join => simp only [exec, execHotJoin, hon, hfree, Bool.not_true, Bool.false_eq_true, if_false, Option.isNone_some]
  case hjEn =>
    have hrun : exec (.hjEnWrite w b n v) s = .next (if flag s (I3C_CFG b) 7 && !flag u (I3C_CFG b) 7 then busCmd u b .disec
        else if !flag s (I3C_CFG b) 7 && flag u (I3C_CFG b) 7 then entdaa (busCmd u b .enec) b n else u) := by
      simp only [exec, execHjEnWrite, guardW_ok hok, i3cCfgWrite, hu]
    rw [hrun]
    refine ⟨fun hold hnew => ?on, fun hold hnew => ?off, fun hsame => ?same⟩
    case on => simp only [hold, hnew, Bool.not_true, Bool.not_false, Bool.and_self, Bool.false_eq_true, if_false, if_true]
    case off => simp only [hold, hnew, Bool.not_false, Bool.and_self, if_true]
    case same => simp only [hsame, Bool.and_not_self, Bool.not_and_self, Bool.false_eq_true, if_false]
  case descriptor =>
    simp only [exec, execDescriptorRead, hfind, ← hk, hheld, ← hu, hleg, hdisc, Bool.false_eq_true, if_false, true_or, if_true]
  case poll =>
    refine ⟨?answered, fun u hu => ?silent⟩
    case answered =>
      simp only [exec, execGetstatusPoll, advance_of_reached hnow, htarget, hleg, not_lt.mpr hdue, decide_false, Bool.or_self,
        Bool.false_eq_true, if_false, if_true]
      rfl
    case silent =>
      have hthird : (3 ≤ t.nacks + 1) = ¬ t.nacks < 2 := by rw [eq_iff_iff]; omega
      simp only [exec, execGetstatusPoll, advance_of_reached hnow, htarget, hleg, not_lt.mpr hdue, decide_false, Bool.or_self,
        Bool.false_eq_true, if_false, hthird, ite_not]
      rw [hu]
      rfl
  case noStream => simp only [exec, execNoStream, advance_of_reached hnow, hdisc, hdue, and_self, if_true]
  case linkTimeout => simp only [exec, execLinkTimeout, advance_of_reached hnow, hdisc, hdue, and_self, if_true]
  case transfer =>
    simp only [exec, execI3cXferGo, guardW_ok hok, xferWrite, hidle, ← hu, hgo, hlen, htarget, Bool.not_true, Bool.false_eq_true, if_false,
      Option.isNone_some]
  case transferDone =>
    have hgoes : ((bus s b).waits && !(bus s b).reads.isEmpty) = false := by
      obtain h | h := hwait <;> simp [h]
    refine ⟨fun d n hread hn => ?read, ?nack⟩
    case read =>
      simp only [exec, execI3cXferDone, hon, htarget, hgoes, hread, ← hn, Bool.not_true, Bool.false_eq_true, if_false, Option.isNone_some,
        if_true]
    case nack =>
      simp only [exec, execI3cXferDone, hon, htarget, hgoes, Bool.not_true, Bool.false_eq_true, if_false, Option.isNone_some]

end Sys2Proof.Proofs
end

section
/-!
PROOFS of the statements about PTP, 1PPS, the reference and the conversions (spec/04_time_bases.md R128 to R163). The rank of an Announce is an
operand by log entry 150, the floor of half of the transit differences and its saturation are log entry 39, the result of a conversion taken at
its end is log entry 42, and what a discarded qualification leaves is log entry 171.
-/
namespace Sys2Proof.Proofs
open Sys2Proof Sys2Proof.Machine Sys2Proof.Laws

/-! ## PTP -/

/-- A Sync that an instance takes, after its master is noted and the Sync counted: too few in a row acquire, enough lock (R132, R140). -/
theorem execPtpSync_taken {s u : State} {n origin now : Nat} {m : PtpFrom} {corr : Int} (hnow : Reached s now) (hhears : ptHears s n m = true)
    (htakes : ptTakes s n m = true) (hlost : lostNow s (n + 1) = false)
    (hu : u = setPtp (ptMaster s n m.master m.mport m.eth) n { ptpOf (ptMaster s n m.master m.mport m.eth) n with
      syncs := satN 1000000 ((ptpOf (ptMaster s n m.master m.mport m.eth) n).syncs + 1)
      sync := some ((origin : Int) + corr, ptStamp (ptMaster s n m.master m.mport m.eth) n now) })
    (hhold : srcSel u ≠ n + 1 ∨ discState u ≠ dHoldover) (v : State)
    (hv : v = newSegment (setPtp (setPtState u n dLocked) n { ptpOf (setPtState u n dLocked) n with everLocked := true }) n now
      (-ptOffset u n origin corr now)) :
    exec (.ptpSync n m origin corr now) s = .next
      (if (ptpOf u n).syncs < fld u (TIME_PT_CFG n) 21 16 then (if ptState u n = dLocked then u else setPtState u n dAcquire)
       else if srcSel u ≠ n + 1 then v
       else if discState v = dAcquire then
         masterRegs (if v.ft < (qualify v (ptOffset u n origin corr now)).ft then
             stepSegment (qualify v (ptOffset u n origin corr now)) n ((qualify v (ptOffset u n origin corr now)).ft - v.ft)
           else qualify v (ptOffset u n origin corr now))
           TIME_MASTER_ID0 TIME_MASTER_ID1 TIME_MASTER_PORT m.master m.mport (fld v (TIME_PT_CFG n) 15 8) m.eth
       else if discState v = dLocked then measure v (ptOffset u n origin corr now) else v) := by
  have hno : (decide (srcSel u = n + 1) && decide (discState u = dHoldover)) = false := by
    rw [Bool.and_eq_false_iff, decide_eq_false_iff_not, decide_eq_false_iff_not]
    exact hhold
  simp only [exec, execPtpSync, advance_of_reached hnow, hhears, htakes, hlost, Bool.not_true, Bool.or_self, Bool.false_and, Bool.false_eq_true,
    if_false, ← hu, hno, ← hv]
  by_cases hsel : srcSel u = n + 1 <;> simp only [hsel, decide_true, decide_false, Bool.not_true, Bool.not_false, Bool.false_eq_true, if_false,
    if_true, ne_eq, not_true_eq_false, not_false_eq_true] <;> split_ifs <;> rfl

/-- Settles O21. -/
theorem ptpMessagesActOnTheirInstance : Obligations.PtpMessagesActOnTheirInstance := by
  refine ⟨fun n origin m corr now s => ?syncTime, fun n rank interval m now s => ?announceTime, fun n now s => ?timeoutTime,
    fun n now m s hnow => ⟨fun origin corr y u off hhears htakes hlost hy hu hoff => ?sync, fun rank interval y f hhears hy hbest => ?announce,
      fun a hlast hdue => ?timeout, fun hen => ⟨fun tx => ?request, fun t4 t1 t2 t3 corr hpeer hsync hreq => ?delayResp,
        fun t2 t3 rx t1 corr hpeer hreq => ?pdelayResp, fun rx tx hpeer => ?pdelayReq⟩⟩⟩
  case syncTime => simp only [exec, execPtpSync, advance_advance]
  case announceTime => simp only [exec, execPtpAnnounce, advance_advance]
  case timeoutTime => simp only [exec, execAnnounceTimeout, advance_advance]
  case sync =>
    have hoff' : ptOffset u n origin corr now = off := hoff.symm
    subst hy
    refine ⟨fun hhold hfew hstate => ?few, fun henough v hv => ⟨fun hother => ?other, fun hsel hhold hacq q hq => ?acquire,
      fun hsel hhold hlock => ?lock⟩⟩
    case few => rw [execPtpSync_taken hnow hhears htakes hlost hu hhold _ rfl, if_pos hfew, if_neg hstate]
    all_goals
      have hfew : ¬ (ptpOf u n).syncs < fld u (TIME_PT_CFG n) 21 16 := not_lt.mpr henough
    case other => rw [execPtpSync_taken hnow hhears htakes hlost hu (.inl hother) v (hoff' ▸ hv), if_neg hfew, if_pos hother]
    case acquire =>
      rw [execPtpSync_taken hnow hhears htakes hlost hu (.inr hhold) v (hoff' ▸ hv), if_neg hfew, if_neg (not_not.mpr hsel), if_pos hacq, hoff', hq]
    case lock =>
      have hacq : discState v ≠ dAcquire := by rw [hlock]; decide
      rw [execPtpSync_taken hnow hhears htakes hlost hu (.inr hhold) v (hoff' ▸ hv), if_neg hfew, if_neg (not_not.mpr hsel), if_neg hacq,
        if_pos hlock, hoff']
  case announce =>
    subst hy
    simp only [exec, execPtpAnnounce, advance_of_reached hnow, hhears, hbest, Bool.not_true, Bool.false_eq_true, if_false]
  case timeout => simp only [exec, execAnnounceTimeout, advance_of_reached hnow, hlast, not_lt.mpr hdue, if_false]
  case request =>
    simp only [exec, execPtpExchange, hen, Bool.not_true, Bool.false_eq_true, if_false]
    rfl
  case delayResp =>
    have hrun : exec (.ptpExchange n (.delayResp t4 corr)) s = .next (setPath s n ((t2 - t1) + ((t4 : Int) - t3) - corr)) := by
      simp only [exec, execPtpExchange, hen, hpeer, hsync, hreq, Bool.not_true, Bool.false_eq_true, if_false]
    exact hrun
  case pdelayResp =>
    have hrun : exec (.ptpExchange n (.pdelayResp t2 t3 rx corr)) s =
        .next (setPath s n ((ptStamp s n rx - t1) - ((t3 : Int) - (t2 : Int)) - corr)) := by
      simp only [exec, execPtpExchange, hen, hpeer, hreq, Bool.not_true, Bool.false_eq_true, if_false, if_true]
    exact hrun
  case pdelayReq =>
    simp only [exec, execPtpExchange, hen, hpeer, Bool.not_true, Bool.false_eq_true, if_false, if_true]
    rfl

/-! ## 1PPS, the reference, the source, conversions -/

/-- What an accepted edge of PPS_IN does to the source that follows it (R132, R143). -/
theorem execPpsInEdge_accepted {s u : State} {now high a e : Nat} (hnow : Reached s now) (hen : flag s TIME_PPS_IN 16 = true) (hhigh : 100 ≤ high)
    (hacc : s.pps.acc = some a) (he : e = now - fld s TIME_PPS_IN 15 0) (hlo : a + 999000000 ≤ e) (hhi : e ≤ a + 1001000000)
    (hlost : lostNow s srcPps = false)
    (hu : u = { s with pps := { s.pps with last := some e, acc := some e, good := satN 3 (s.pps.good + 1) } }) (hhold : discState u ≠ dHoldover) :
    exec (.ppsInEdge now high) s = .next (if srcSel u ≠ srcPps then u
      else if discState u = dAcquire then (if u.pps.good < 3 then u else qualify u (ppsPhase e))
      else if discState u = dLocked then measure u (ppsPhase e) else u) := by
  simp only [exec, execPpsInEdge, advance_of_reached hnow, hen, not_lt.mpr hhigh, decide_false, Bool.not_true, Bool.or_self, Bool.false_eq_true,
    if_false, hacc, ← he, hlo, hhi, decide_true, Bool.and_self, hlost, ← hu, hhold]
  split_ifs <;> rfl

/-- An accepted edge changes nothing while another source is selected. -/
theorem execPpsInEdge_notSelected {s u : State} {now high a e : Nat} (hnow : Reached s now) (hen : flag s TIME_PPS_IN 16 = true) (hhigh : 100 ≤ high)
    (hacc : s.pps.acc = some a) (he : e = now - fld s TIME_PPS_IN 15 0) (hlo : a + 999000000 ≤ e) (hhi : e ≤ a + 1001000000)
    (hlost : lostNow s srcPps = false)
    (hu : u = { s with pps := { s.pps with last := some e, acc := some e, good := satN 3 (s.pps.good + 1) } }) (hsel : srcSel u ≠ srcPps) :
    exec (.ppsInEdge now high) s = .next u := by
  simp only [exec, execPpsInEdge, advance_of_reached hnow, hen, not_lt.mpr hhigh, decide_false, Bool.not_true, Bool.or_self, Bool.false_eq_true,
    if_false, hacc, ← he, hlo, hhi, decide_true, Bool.and_self, hlost, ← hu, hsel, ne_eq, not_false_eq_true, if_true]

/-- Settles O22. -/
theorem ppsAndReferenceSteerTheTime : Obligations.PpsAndReferenceSteerTheTime := by
  refine ⟨fun high now s => ?edgeTime, fun now s => ?lossTime, fun now s => ?riseTime, fun now s => ?fallTime, fun now s hnow => ?effects⟩
  case edgeTime => simp only [exec, execPpsInEdge, advance_advance]
  case lossTime => simp only [exec, execPpsLoss, advance_advance]
  case riseTime => simp only [exec, execPpsOutRise, advance_advance]
  case fallTime => simp only [exec, execPpsOutFall, advance_advance]
  case effects =>
    have hadv := advance_of_reached hnow
    refine ⟨fun high a e hen hhigh hacc he => ⟨fun hlo hhi hlost u hu => ⟨fun hsel => ?notSelected, fun hsel hacq => ?acquire, fun hsel hlock => ?lock⟩,
        fun hearly => ?bad⟩, fun a hacc hlate => ?loss, fun hscale => ?scale, fun t ht hen hmay hsecond => ?rise, fun t ht hout hfall => ?fall,
      fun hok => ?refLost, fun hok => ?refBack, fun w v hok hnew => ⟨fun hfree => ?free, fun hpos hle hen => ?select⟩,
      fun w v k hk hok hidle hgo => ?go, fun w k r hk hon hr => ?done, fun frm v => ?same, ?slew⟩
    case notSelected => exact execPpsInEdge_notSelected hnow hen hhigh hacc he hlo hhi hlost hu hsel
    case acquire =>
      have hhold : discState u ≠ dHoldover := by rw [hacq]; decide
      rw [execPpsInEdge_accepted hnow hen hhigh hacc he hlo hhi hlost hu hhold, if_neg (not_not.mpr hsel), if_pos hacq]
    case lock =>
      have hhold : discState u ≠ dHoldover := by rw [hlock]; decide
      have hacq : discState u ≠ dAcquire := by rw [hlock]; decide
      rw [execPpsInEdge_accepted hnow hen hhigh hacc he hlo hhi hlost hu hhold, if_neg (not_not.mpr hsel), if_neg hacq, if_pos hlock]
    case bad =>
      simp only [exec, execPpsInEdge, hadv, hen, not_lt.mpr hhigh, decide_false, Bool.not_true, Bool.or_self, Bool.false_eq_true, if_false, hacc, ← he,
        not_le.mpr hearly, Bool.false_and, Bool.not_false, if_true]
    case loss => simp only [exec, execPpsLoss, hadv, hacc, not_le.mpr hlate, if_false]
    case scale => simp only [ppsScale, hscale, if_true]
    case rise =>
      have hmay' : ppsMay s = true := by
        obtain h | h := hmay <;> simp [ppsMay, hen, h]
      simp only [exec, execPpsOutRise, hadv, ht, hmay', hsecond, decide_true, Bool.and_self, if_true]
    case fall => simp only [exec, execPpsOutFall, hadv, ht, hout, hfall, decide_true, Bool.and_self, if_true]
    case refLost => simp only [exec, execRefLost, hok, if_true]
    case refBack => simp only [exec, execRefBack, hok, Bool.false_eq_true, if_false]
    case free =>
      have hkeep : ¬ (bits v 2 0 = srcSel s ∨ 5 < bits v 2 0) := by omega
      simp only [exec, execTimeCtrlWrite, guardW_ok hok, timeCtrlWrite, hkeep, if_false]
      rw [if_pos hfree]
    case select =>
      have hkeep : ¬ (bits v 2 0 = srcSel s ∨ 5 < bits v 2 0) := by omega
      simp only [exec, execTimeCtrlWrite, guardW_ok hok, timeCtrlWrite, hkeep, hpos.ne', hen, Bool.not_true, Bool.false_eq_true, if_false]
    case go =>
      subst hk
      simp only [exec, execConversionGo, guardW_ok hok, convWrite, hidle, hgo, and_self, Bool.false_eq_true, if_false, if_true]
      rfl
    case done =>
      subst hk
      simp only [exec, execConversionDone, hon, Bool.not_true, Bool.false_eq_true, if_false, ← hr]
    case same => simp only [convert, if_true]; rfl
    case slew => simp only [exec, execSlewComplete, hadv]

end Sys2Proof.Proofs
end

section
/-!
PROOFS of the statements about motion inputs and decimation chains (spec/05_motion_inputs.md). AXES without effect, the order of
delivery and missing bytes read as 0 are log entry 23; NO_INPUT counted from the start of the warm-up is log entry 48.
-/
namespace Sys2Proof.Proofs
open Sys2Proof Sys2Proof.Machine Sys2Proof.Laws

/-! ## Encoders and inertial ports -/

/-- A trigger of a running port outside BIVOUAC starts a transaction where none is in progress, and else counts as an overrun (R174). -/
theorem imuTrigger_running {s : State} {p now t : Nat} (hrun : imuState s p = imuRun) (hbiv : inBivouac s = false) :
    imuTrigger s p now t = if (imuOf s p).busy.any (fun b => decide (now < b.2)) then motIrq (bump s (MOT_IMU_OVERRUN_CNT p)) pgImu p 0
      else setImu s p { imuOf s p with busy := (imuOf s p).busy ++ [(t - fld s (MOT_IMU_LAT p) 15 0, now + imuDur s p)], cmds := (imuOf s p).cmds ++ [imuXfer s p] } := by
  have hgo : ¬ (imuState s p ≠ imuRun ∨ inBivouac s = true) := by simp [hrun, hbiv]
  simp only [imuTrigger, hgo, if_false]

/-- Settles O23. -/
theorem motionInputsAct : Obligations.MotionInputsAct := by
  refine ⟨fun e now smp full s => ⟨?edgeTime, fun hnow => ⟨fun hon => ?edgeOn, fun hoff => ?edgeOff⟩⟩,
    fun e now smp full s => ⟨?indexTime, fun hnow => ⟨fun hon => ?indexOn, fun hoff => ?indexOff⟩⟩,
    fun p now smp full s => ⟨?drdyTime, fun hnow => ⟨fun hon => ?drdyOn, fun hoff => ?drdyOff⟩⟩,
    fun p now s => ?timerTime, fun p d now s => ?doneTime,
    fun p now s hnow => ⟨fun hrun hbiv => ⟨fun t => ⟨fun hidle => ?start, fun b hbusy hlate => ?overrun⟩, fun hmode hper hdue => ?timer⟩,
      fun st fin r hbusy => ⟨fun d vs u hdone hvs hu => ?values, fun u hi3c hu => ?nack⟩⟩⟩
  case edgeTime => simp only [exec, execEncoderEdge, advance_advance]
  case edgeOn => simp only [exec, execEncoderEdge, advance_of_reached hnow, hon, Bool.not_true, Bool.false_eq_true, if_false]
  case edgeOff => simp only [exec, execEncoderEdge, advance_of_reached hnow, hoff, Bool.not_false, if_true]
  case indexTime => simp only [exec, execEncoderIndex, advance_advance]
  case indexOn => simp only [exec, execEncoderIndex, advance_of_reached hnow, hon, Bool.not_true, Bool.false_eq_true, if_false]
  case indexOff => simp only [exec, execEncoderIndex, advance_of_reached hnow, hoff, Bool.not_false, if_true]
  case drdyTime => simp only [exec, execImuDrdy, advance_advance]
  case drdyOn => simp only [exec, execImuDrdy, advance_of_reached hnow, hon, Bool.not_true, Bool.false_eq_true, if_false]
  case drdyOff => simp only [exec, execImuDrdy, advance_of_reached hnow, hoff, Bool.not_false, if_true]
  case timerTime => simp only [exec, execImuTimerTrigger, advance_advance]
  case doneTime => simp only [exec, execImuTransactionDone, advance_advance]
  case start => simp only [imuTrigger_running hrun hbiv, hidle, List.any_nil, Bool.false_eq_true, if_false, List.nil_append]
  case overrun => simp only [imuTrigger_running hrun hbiv, hbusy, List.any_cons, hlate, decide_true, Bool.true_or, if_true]
  case timer =>
    have hper' : (rdN s (MOT_IMU_PERIOD p) != 0) = true := by simp [hper]
    simp only [exec, execImuTimerTrigger, advance_of_reached hnow, hmode, hper', hdue, Bool.and_self, beq_self_eq_true, if_true]
  case values =>
    simp only [exec, execImuTransactionDone, advance_of_reached hnow, hbusy, not_lt.mpr hdone, if_false, ← hvs, ← hu]
  case nack =>
    simp only [exec, execImuTransactionDone, advance_of_reached hnow, hbusy, hi3c, Bool.not_true, Bool.false_eq_true, if_false, ← hu]
    split_ifs <;> first | rfl | omega

/-! ## Decimation chains -/

/-- Settles O24. -/
theorem chainsDecimateTheirInput : Obligations.ChainsDecimateTheirInput := by
  refine ⟨fun c full v r s u hq hu => ⟨fun hoff => ?dropped, fun hon hbiv last hlast hstate ls cs o sats u2 u3 hstages hu2 hu3 => ?entered⟩,
    fun c now s => ?noInputTime, fun c now s hnow hon hstate hbiv hdue => ?noInput⟩
  case dropped => simp only [exec, execChainInput, hq, hoff, Bool.not_false, Bool.true_or, if_true, hu]
  case entered =>
    have hup : ¬ (decState u c = cNoInput ∨ decState u c = cIdle) := by
      obtain h | h := hstate <;> rw [h] <;> decide
    simp only [exec, execChainInput, hq, hon, hbiv, Bool.not_true, Bool.or_self, Bool.false_eq_true, if_false, ← hu, hup]
    simp only [hlast, hstages, ← hu2, ← hu3]
    cases o <;> rfl
  case noInputTime => simp only [exec, execNoInput, advance_advance]
  case noInput =>
    have hup : (decState s c == cWarm || decState s c == cRun) = true := by
      obtain h | h := hstate <;> simp [h]
    simp only [exec, execNoInput, advance_of_reached hnow, hon, hup, hbiv, not_lt.mpr hdue, decide_false, Bool.not_true, Bool.or_self,
      Bool.false_eq_true, if_false]

end Sys2Proof.Proofs
end

section
/-!
PROOFS of the statements about instants, bars, the release of events and the registration grids (spec/06_fusion_alignment.md). The
one computation of an instant at its issue is log entry 49, what is late in BELAY is log entry 54, and a WATERMARK for the latest instant only
is log entry 55.
-/
namespace Sys2Proof.Proofs
open Sys2Proof Sys2Proof.Machine Sys2Proof.Laws

/-! ## Instants -/

/-- FUSION_ISSUE before the moment of issue lets time pass only. -/
theorem execFusionIssue_early {k now : Nat} {s t : State} (ht : t = outDue (advance s now)) (hearly : t.ft < k * fusPeriod t + issueDly t) :
    exec (.fusionIssue k now) s = .next t := by
  simp only [exec, execFusionIssue, ← ht, hearly, if_true]

/-- FUSION_ISSUE of the instant that is next, at its moment: it is computed once and issued for every bar. -/
theorem execFusionIssue_due {k now l : Nat} {s t u : State} (ht : t = outDue (advance s now)) (hdue : k * fusPeriod t + issueDly t ≤ t.ft)
    (hnext : nextInstant t k = true) (hu : u = computeInstant t k) (hl : u.fus.lastT = some l) (hk : k * fusPeriod u ≤ l) :
    exec (.fusionIssue k now) s = .next (issueAll u k) := by
  simp only [exec, execFusionIssue, ← ht, not_lt.mpr hdue, if_false, hnext, if_true, ← hu, hl, hk]

/-- Settles O25. -/
theorem instantsAreIssuedForEveryBar : Obligations.InstantsAreIssuedForEveryBar := by
  refine ⟨fun k now s t ht => ⟨fun hearly => ?early, fun hdue hnext u l hu hl hk => ?due⟩, fun b now s => ?waitTime, fun b n now s => ?lateTime,
    fun now s hnow => ⟨fun k hout => ?issue, fun b k l hk hl hle hon hholds hdue => ?belay, fun b n k c o r hk hc hon hbiv hnew hlate => ?late⟩⟩
  case early => exact execFusionIssue_early ht hearly
  case due => exact execFusionIssue_due ht hdue hnext hu hl hk
  case waitTime => simp only [exec, execBelayWait, advance_advance]
  case lateTime => simp only [exec, execLateSample, advance_advance]
  case issue =>
    have hs : s = outDue (advance s now) := by rw [advance_of_reached hnow, hout]
    exact ⟨fun hearly => execFusionIssue_early hs hearly, fun hdue hnext hl => execFusionIssue_due hs hdue hnext rfl hl le_rfl⟩
  case belay =>
    simp only [exec, execBelayWait, advance_of_reached hnow, hk, hl, hle, hon, hholds, not_lt.mpr hdue, decide_true, decide_false, Bool.not_true,
      Bool.or_self, Bool.false_eq_true, if_false]
  case late =>
    simp only [exec, execLateSample, advance_of_reached hnow, hk, hc, hon, hbiv, hnew, hlate, Bool.not_true, Bool.or_self, Bool.false_eq_true,
      if_false, if_true]

/-! ## Bars -/

/-- A write that sets EN of a unit without a pending disable enables it, where its block does not refuse. -/
theorem enWrite_enable {s : State} {w : Who} {a i code : Nat} {v : Word} {refuse : State → Option Nat} {on off : State → State}
    (hpend : disPend s a = false) (hoff : flag s a i = false) (hset : v.toNat / 2 ^ i % 2 = 1) :
    enWrite s w a v i code refuse on off = match refuse (plainWrite s w a v) with
      | some c => wErr s w a c
      | none => on (plainWrite s w a v) := by
  have hact : enAct s a v i = .enable := by simp [enAct, hpend, hoff, hset]
  simp only [enWrite, hact] <;> rfl

theorem enWrite_disable {s : State} {w : Who} {a i code : Nat} {v : Word} {refuse : State → Option Nat} {on off : State → State}
    (hpend : disPend s a = false) (hon : flag s a i = true) (hclear : v.toNat / 2 ^ i % 2 = 0) :
    enWrite s w a v i code refuse on off = off (setFlag s a i false) := by
  have hact : enAct s a v i = .disable := by simp [enAct, hpend, hon, hclear]
  simp only [enWrite, hact]

/-- Settles O26. -/
theorem barsAreEnabledAndDisabled : Obligations.BarsAreEnabledAndDisabled := by
  rintro w b v s u - hok hpend rfl
  refine ⟨fun hoff hset hfree => ?enabled, fun c hoff hset hrefuse => ?refused, fun hon hclear => ?disabled⟩
  case enabled =>
    simp only [exec, execBarEnable, guardW_ok hok, barCfgWrite, enWrite_enable hpend hoff hset, hfree]
  case refused =>
    simp only [exec, execBarEnable, guardW_ok hok, barCfgWrite, enWrite_enable hpend hoff hset, hrefuse, wErr]
  case disabled =>
    simp only [exec, execBarDisable, guardW_ok hok, barCfgWrite, enWrite_disable hpend hon hclear]

/-! ## Release of events -/

/-- A stream that has not ended, or has something left, is not ended now. -/
theorem endStream_notDue {s : State} {p : Nat} (h : (port s p).finalDue = false) : endStream s p = s := by
  simp only [endStream, h, Bool.false_and, Bool.false_eq_true, if_false]

/-- Settles O27. -/
theorem eventsAreReleasedInOrder : Obligations.EventsAreReleasedInOrder := by
  intro p s
  refine ⟨fun hblock => ?blocked, fun hfree hold hended => ?endsFirst, fun e r hfree hold hwait => ?release,
    fun b hfree hbar u hu => ?watermark⟩
  case blocked =>
    have hno : ((port s p).old.isSome && !srcBlocked s p) = false := by rw [hblock, Bool.not_true, Bool.and_false]
    rw [hblock] at hno
    constructor
    · simp only [exec, execEventRelease, hno, hblock, Bool.false_eq_true, if_false, if_true]
    · simp only [exec, execPortWatermark, hblock, if_true]
  case endsFirst =>
    have hyes : ((port s p).old.isSome && !srcBlocked s p) = true := by
      rw [hfree, Bool.not_false, Bool.and_true, Option.isSome_iff_ne_none]
      exact hold
    have hno : ((port (endStream s p) p).old.isSome && !srcBlocked (endStream s p) p) = false := by
      rw [hended, Option.isSome_none, Bool.false_and]
    simp only [exec, execEventRelease, hyes, hno, Bool.false_eq_true, if_false, if_true]
  case release =>
    have hstay : (if ((port s p).old.isSome && !srcBlocked s p) = true then endStream s p else s) = s := by
      obtain h | h := hold
      · simp [h]
      · rw [h, ite_self]
    rw [hfree] at hstay
    refine ⟨fun hbar => ?unbarred, fun b u hbar hu => ⟨fun hearly => ?early, fun hfirst => ⟨fun q q' hq => ?between, fun hq hlen hall => ?old,
      fun hq hlen => ?waits⟩⟩⟩
    case unbarred => simp only [exec, execEventRelease, hstay, hfree, Bool.false_eq_true, if_false, hwait, hbar]
    case early =>
      simp only [exec, execEventRelease, hstay, hfree, Bool.false_eq_true, if_false, hwait, hbar, ← hu, hearly, if_true]
    case between =>
      simp only [exec, execEventRelease, hstay, hfree, Bool.false_eq_true, if_false, hwait, hbar, ← hu, not_lt.mpr hfirst, hq]
    case old =>
      simp only [exec, execEventRelease, hstay, hfree, Bool.false_eq_true, if_false, hwait, hbar, ← hu, not_lt.mpr hfirst, hq, hlen, hall, and_self,
        if_true]
    case waits =>
      simp only [exec, execEventRelease, hstay, hfree, Bool.false_eq_true, if_false, hwait, hbar, ← hu, not_lt.mpr hfirst, hq, hlen.ne, false_and]
  case watermark =>
    refine ⟨fun hfinal => ?ongoing, fun hfinal hold hbuf hspill hwait => ?final⟩
    case ongoing => simp only [exec, execPortWatermark, hfree, Bool.false_eq_true, if_false, hbar, ← hu, endStream_notDue hfinal]
    case final =>
      simp only [exec, execPortWatermark, hfree, Bool.false_eq_true, if_false, hbar, ← hu, endStream, hfinal, hold, hbuf, hspill, hwait,
        List.isEmpty_nil, Bool.and_self, if_true, Option.isSome_none]

/-! ## Registration grids -/

/-- Settles O28. -/
theorem gridsAreCommittedAndRefined : Obligations.GridsAreCommittedAndRefined := by
  intro p s
  refine ⟨fun w v _ hok hgo => ⟨fun hfree => ?commit, fun c hrefuse => ?refused⟩, fun g hg hpend hreached hall => ?pendClear,
    fun u v x y => ⟨fun hleg tainted => ?legacy, fun hleg hbar hw hh g hgrid => ?mark⟩, fun ovl now t => ?cycleTime,
    fun now c ovl u hnow hc hlast hu r hr => ?cycle⟩
  case commit => simp only [exec, execGridCommit, guardW_ok hok, gridCtrlWrite, hgo, if_true, hfree]
  case refused => simp only [exec, execGridCommit, guardW_ok hok, gridCtrlWrite, hgo, if_true, hrefuse, wErr]
  case pendClear =>
    simp only [exec, execGridPendClear, hg, hpend, hreached, hall, decide_true, Bool.true_or, Bool.and_self, if_true]
  case legacy => simp only [exec, execMarkMeasurement, hleg, Bool.true_or, if_true]
  case mark =>
    obtain ⟨b, hb⟩ := hbar
    simp only [exec, execMarkMeasurement, hleg, hb, hw, hh, Bool.or_self, Bool.false_eq_true, if_false, Option.isNone_some, decide_false, ← hgrid]
  case cycleTime => simp only [exec, execRefinementCycle, advance_advance]
  case cycle =>
    simp only [exec, execRefinementCycle, advance_of_reached hnow, ← hc, not_le.mpr hlast, if_false, ← hu]
    subst hr
    rfl

end Sys2Proof.Proofs
end

section
/-!
PROOFS of the statements about fan-out, the region table and the surface slots (spec/07_event_fabric.md). That a wait is counted in
whole cycles of the fabric is log entry 61.
-/
namespace Sys2Proof.Proofs
open Sys2Proof Sys2Proof.Machine Sys2Proof.Laws

/-! ## Fan-out and the region table -/

/-- Settles O29. -/
theorem spikesFanOutAndRegionsAreWritten : Obligations.SpikesFanOutAndRegionsAreWritten := by
  intro s
  refine ⟨fun c w r hq hfree => ⟨fun hkind => ?spike, fun hkind => ?mark⟩, fun w hv => ?invalid,
    fun w v u e hok hu he => ⟨fun hwr hrd hfree => ?write, fun c hwr hrd hrefuse => ?refused, fun hwr hrd => ?read⟩⟩
  case spike => simp only [exec, execSpikeFanout, hq, hfree, Bool.false_eq_true, if_false, serveFan, hkind]
  case mark => simp only [exec, execSpikeFanout, hq, hfree, Bool.false_eq_true, if_false, serveFan, hkind, if_true]
  case invalid => simp only [serveSpike, hv, Bool.not_false, if_true]
  case write =>
    simp only [exec, execFabRgnWr, guardW_ok hok, rgnCtrlWrite, ← hu, ← he, hwr, hrd, hfree, Bool.not_true, Bool.false_eq_true, if_false]
  case refused =>
    simp only [exec, execFabRgnWr, guardW_ok hok, rgnCtrlWrite, ← hu, ← he, hwr, hrd, hrefuse, Bool.not_true, Bool.false_eq_true, if_false, wErr]
  case read =>
    simp only [exec, execFabRgnRd, guardW_ok hok, rgnCtrlWrite, ← hu, ← he, hwr, hrd, Bool.not_false, if_true]

/-! ## Surface slots -/

/-- A data word that a slot takes: applied to its window, or late where the window is closed (R244). -/
theorem applyOne_data {s u : State} {t k b n : Nat} {w : FabWord} {r : List FabWord} (hb : (slotOf s t k).b = some b)
    (htake : takeWord (mayApply s t k b) [] (slotOf s t k).inq = some (w, r))
    (hu : u = settle (setSlot s t k { slotOf s t k with inq := r, known := knowSrc (slotOf s t k).known w })) (hdata : isData w = true)
    (hn : n = winOf s t k b (stampOf w)) (hpos : 0 < n) :
    applyOne s t k = if n ≤ (slotOf s t k).closed then sbIrq (bump u (SB_LATE_CNT (t / 16))) t k 0 else applyWord u t k n w := by
  unfold applyOne
  simp only [hb, htake]
  rw [← hb, ← hu]
  simp only [hdata, Bool.not_true, Bool.false_eq_true, if_false, ← hn, hpos.ne']

/-- Settles O30. -/
theorem surfaceSlotsBuildTheirWindows : Obligations.SurfaceSlotsBuildTheirWindows := by
  intro t k s
  refine ⟨fun w v u hok hpend hoff hset hu => ⟨fun hfree => ?enable, fun c hrefuse => ?refused⟩,
    fun b n w r u hrun hb htake hu hdata hn hpos => ⟨fun hopen => ?apply, fun hclosed => ?late⟩,
    fun now s => ?closeTime, fun now s => ?timeoutTime, fun now s => ?prepareTime, fun now s => ?stallTime,
    fun now b hnow hb => ⟨fun hrun hready htake => ⟨fun hmarks hall => ?closeMarks, fun hmarks hend => ?closeTimeOver⟩,
      fun hrun hbelay hlate => ?timeout, fun u v hready hrun hwait hu hv f hf => ?prepare,
      fun hready hmet hwait => ⟨fun hfirst hlong => ?stallPulse, fun hquiet => ?stallCharge⟩⟩⟩
  case enable => simp only [exec, execSbSlotEnable, guardW_ok hok, slotCfgWrite, enWrite_enable hpend hoff hset, ← hu, hfree]
  case refused => simp only [exec, execSbSlotEnable, guardW_ok hok, slotCfgWrite, enWrite_enable hpend hoff hset, ← hu, hrefuse, wErr]
  case apply =>
    simp only [exec, execSbWordApply, hrun, if_true, applyOne_data hb htake hu hdata hn hpos, not_le.mpr hopen, if_false]
  case late => simp only [exec, execSbWordApply, hrun, if_true, applyOne_data hb htake hu hdata hn hpos, hclosed]
  case closeTime => simp only [exec, execSbWindowClose, advance_advance]
  case timeoutTime => simp only [exec, execSbCloseTimeout, advance_advance]
  case prepareTime => simp only [exec, execSbBankPrepare, advance_advance]
  case stallTime => simp only [exec, execSbStall, advance_advance]
  all_goals have hadv := advance_of_reached hnow
  case closeMarks =>
    have hsome : (knownMarks s t k).isEmpty = false := by simp [hmarks]
    simp only [exec, execSbWindowClose, hadv, hb, hrun, hready, htake, hsome, hall, Bool.false_eq_true, if_false, Bool.and_self,
      Option.isNone_none, if_true]
  case closeTimeOver =>
    simp only [exec, execSbWindowClose, hadv, hb, hrun, hready, htake, hmarks, List.isEmpty_nil, hend, decide_true, Bool.and_self,
      Option.isNone_none, if_true]
  case timeout =>
    simp only [exec, execSbCloseTimeout, hadv, hb, hrun, hbelay, not_le.mpr hlate, decide_false, Bool.not_true, Bool.or_self, Bool.false_eq_true,
      if_false]
  case prepare =>
    have hgo : (!(slotOf s t k).met && !waitDone s (slotWait s (8 * t + k, slotOf s t k))) = false := by
      obtain h | h := hwait <;> simp [h]
    subst hv
    subst hu
    simp only [exec, execSbBankPrepare, hadv, hready, hb, hrun, Option.isNone_some, Bool.not_true, Bool.or_self, Bool.false_eq_true, if_false, hgo,
      ← hf]
  case stallPulse =>
    have hpulse : ((slotOf s t k).stallPulsed || decide (s.ft ≤ (slotOf s t k).waitFt.getD s.ft + 100000)) = false := by
      simp [hfirst, hlong]
    simp only [exec, execSbStall, hadv, hready, hb, hmet, hwait, Option.isNone_some, Bool.or_self, Bool.false_eq_true, if_false, hpulse]
  case stallCharge =>
    have hpulse : ((slotOf s t k).stallPulsed || decide (s.ft ≤ (slotOf s t k).waitFt.getD s.ft + 100000)) = true := by
      obtain h | h := hquiet <;> simp [h]
    simp only [exec, execSbStall, hadv, hready, hb, hmet, hwait, Option.isNone_some, Bool.or_self, Bool.false_eq_true, if_false, hpulse, if_true]

end Sys2Proof.Proofs
end

section
/-!
PROOFS of the statements about neuron cores and their microinstructions (spec/08_neuron_cores.md R250 to R285).
-/
namespace Sys2Proof.Proofs
open Sys2Proof Sys2Proof.Machine Sys2Proof.Laws

/-! ## Words and steps -/

/-- What a running core does with the word at the head of its input (R258). -/
theorem execNcWordApply_head {n b : Nat} {s u : State} {w : FabWord} {r : List FabWord} (hq : ncIn s n = w :: r) (hrun : ncRuns s n = true)
    (hb : (ncOf s n).b = some b) (hu : u = settle (updNc (setNcIn s n r) n (fun x => { x with known := knowPos x.known w }))) :
    exec (.ncWordApply n) s = .next (if isData w then placeInput u n w else u) := by
  simp only [exec, execNcWordApply, hq, hrun, hb, Option.isNone_some, Bool.and_false, Bool.not_true, Bool.or_self, Bool.false_eq_true, if_false, ← hu]

/-- What the due time of a step that is not complete comes to, outside BELAY (R275 to R277). -/
theorem execNcDueTime_due {n now g : Nat} {s : State} (hnow : Reached s now) (hmay : mayClose s n = true) (hg : g = stepEnd s n - frontier s n)
    (hopen : stepComplete s n = false) (hbelay : (ncOf s n).belay = false) (hdue : dueTime s n ≤ s.ft) :
    exec (.ncDueTime n now) s = .next
      (let smax := if fld s (NC_STRETCH n) 25 24 = 1 then 1 else fld s (NC_STEP n) 13 12 + 1
       if fld s (NC_STRETCH n) 25 24 = 2 ∧ (ncOf s n).n < smax then stretch s n smax g
       else if fld s (NC_STRETCH n) 23 0 * 16 < g ∧ (ncOf s n).n < smax then stretch s n ((ncOf s n).n + 1) g
       else if fld s (NC_STRETCH n) 23 0 * 16 < g then
         closeStep (srcEvent (irq (stretchLog (bump (takeInputs s n) (NC_DROP_STEPS n)) n (ncOf s n).n rsnDrop g) (ncPage n) 1) evDrop n) n true
       else closeStep (takeInputs s n) n false) := by
  simp only [exec, execNcDueTime, advance_of_reached hnow, hmay, hbelay, hopen, not_lt.mpr hdue, decide_false, Bool.not_true, Bool.or_self,
    Bool.false_eq_true, if_false, ← hg]
  split_ifs <;> rfl

/-- Settles O31. -/
theorem coresTakeWordsAndCloseSteps : Obligations.CoresTakeWordsAndCloseSteps := by
  intro n s
  refine ⟨fun w r b u hq hrun hb hu => ⟨fun hdata => ?position, fun hdata => ⟨fun hlate => ?late, fun hfirst hstart => ⟨fun hin => ?applied,
      fun hafter => ?held⟩⟩⟩, fun now s => ?closeTime, fun now s => ?dueTime,
    fun now g hnow hmay hg => ⟨fun hcomplete => ?close, fun hopen hbelay hdue => ⟨fun hovr hroom => ?toMost, fun hovr => ⟨fun hsmall => ?small,
      fun hbig hroom => ?stretch⟩, fun hbig hfull => ?drop⟩⟩⟩
  case position => rw [execNcWordApply_head hq hrun hb hu, hdata]; rfl
  case late => rw [execNcWordApply_head hq hrun hb hu, if_pos hdata, placeInput, if_pos hlate]
  case applied =>
    have hnot : ¬ (effStamp u n w < (ncOf u n).b.getD 0 ∨ effStamp u n w < (ncOf u n).stepStart) := by omega
    rw [execNcWordApply_head hq hrun hb hu, if_pos hdata, placeInput, if_neg hnot, if_pos hin]
  case held =>
    have hnot : ¬ (effStamp u n w < (ncOf u n).b.getD 0 ∨ effStamp u n w < (ncOf u n).stepStart) := by omega
    rw [execNcWordApply_head hq hrun hb hu, if_pos hdata, placeInput, if_neg hnot, if_neg (not_lt.mpr hafter)]
  case closeTime => simp only [exec, execNcStepClose, advance_advance]
  case dueTime => simp only [exec, execNcDueTime, advance_advance]
  case close => simp only [exec, execNcStepClose, advance_of_reached hnow, hmay, hcomplete, Bool.and_self, if_true]
  all_goals
    rw [execNcDueTime_due hnow hmay hg hopen hbelay hdue]
    dsimp only
  case toMost => simp only [hovr, OfNat.ofNat_ne_one, if_false, hroom, and_self, if_true]
  case small =>
    simp only [hovr, zero_ne_one, if_false, OfNat.zero_ne_ofNat, false_and, not_lt.mpr hsmall]
  case stretch =>
    simp only [hovr, zero_ne_one, if_false, OfNat.zero_ne_ofNat, false_and, hbig, hroom, and_self, if_true]
  case drop =>
    have hmost : ¬ (ncOf s n).n < (if fld s (NC_STRETCH n) 25 24 = 1 then 1 else fld s (NC_STEP n) 13 12 + 1) := by
      split_ifs with hone <;> omega
    rw [if_neg (fun h => hmost h.2), if_neg (fun h => hmost h.2), if_pos hbig]

/-! ## Microinstructions -/

/-- With a skip in hand a microinstruction only lowers it. -/
theorem uopExec_skip {f : UopEnv → UopF → UopSt → UopSt} {n : Nat} {i : UopF} {s : State} {u : UopSt} (hu : u = uopSt s n) (hsat : u.sat = 0)
    (hskip : 0 < u.skip) : uopExec f n i s = .next { s with uop := tset uopD s.uop n { u with skip := u.skip - 1 } } := by
  subst hu
  simp only [uopExec, uopTurn, hskip.ne', if_false, hsat, if_true]

/-- With none in hand it performs its operation, and counts the saturations that this adds. -/
theorem uopExec_turn {f : UopEnv → UopF → UopSt → UopSt} {n : Nat} {i : UopF} {s : State} {u : UopSt} (hu : u = uopSt s n) (hsat : u.sat = 0)
    (hskip : u.skip = 0) : uopExec f n i s = .next
      (if (f (clsEnv s n u.cls) i u).sat = 0 then { s with uop := tset uopD s.uop n { f (clsEnv s n u.cls) i u with sat := 0 } }
       else bumpN { s with uop := tset uopD s.uop n { f (clsEnv s n u.cls) i u with sat := 0 } } (NC_SAT_CNT n) (f (clsEnv s n u.cls) i u).sat) := by
  subst hu
  simp only [uopExec, uopTurn, hskip, if_true, hsat, Nat.sub_zero]

/-- Writing a result leaves the count of saturations. -/
@[simp] theorem uresult_sat (e : UopEnv) (u : UopSt) (d : Nat) (v : Word) : (uresult e u d v).sat = u.sat := by
  unfold uresult
  dsimp only
  split <;> rfl

@[simp] theorem setUreg_sat (u : UopSt) (d : Nat) (v : Word) : (setUreg u d v).sat = u.sat := rfl

/-- Every microinstruction but the threshold comparison leaves it. -/
theorem uop_sat (e : UopEnv) (i : UopF) (u : UopSt) : ∀ f ∈ [uopNop, uopAdd, uopSub, uopMulc, uopMac, uopShr, uopClamp, uopDecay, uopReset,
    uopRefrac, uopSelect, uopSkip], (f e i u).sat = u.sat := by
  simp only [List.forall_mem_cons, List.not_mem_nil, false_imp_iff, implies_true, and_true, uopNop, uopAdd, uopSub, uopMulc, uopMac, uopShr,
    uopClamp, uopSelect, uresult_sat, setUreg_sat, true_and]
  refine ⟨?decay, ?reset, ?refrac, ?skip⟩
  case decay => unfold uopDecay; split <;> exact uresult_sat ..
  case reset => unfold uopReset; dsimp only; split_ifs <;> rfl
  case refrac => unfold uopRefrac; dsimp only; split_ifs <;> rfl
  case skip => unfold uopSkip; split <;> rfl

/-- Settles O32. -/
theorem microinstructionsActOnTheRegisterFile : Obligations.MicroinstructionsActOnTheRegisterFile := by
  intro n i s e u hu he hsat put hput
  subst he
  refine ⟨fun hskip => ?turn, fun hskip c hc => ?skip⟩
  case turn =>
    have hone : ∀ f, (f (clsEnv s n u.cls) i u).sat = u.sat → uopExec f n i s = .next (put (f (clsEnv s n u.cls) i u)) := fun f hf => by
      rw [uopExec_turn hu hsat hskip, hf, if_pos hsat, hput]
    obtain ⟨hnop, hadd, hsub, hmulc, hmac, hshr, hclamp, hdecay, hreset, hrefrac, hselect, hskip', -⟩ := by
      simpa only [List.forall_mem_cons] using uop_sat (clsEnv s n u.cls) i u
    refine ⟨hone _ hnop, hone _ hadd, hone _ hsub, hone _ hmulc, hone _ hmac, hone _ hshr, hone _ hclamp, hone _ hdecay, hone _ hreset,
      hone _ hrefrac, hone _ hselect, hone _ hskip', ?_⟩
    rw [hput]
    exact uopExec_turn hu hsat hskip
  case skip =>
    have hone : ∀ f, uopExec f n i s = .next (put { u with skip := u.skip - 1 }) := fun f => by
      rw [uopExec_skip hu hsat hskip, hput]
      simp only [hsat]
    simp only [List.mem_cons, List.not_mem_nil, or_false] at hc
    obtain rfl | rfl | rfl | rfl | rfl | rfl | rfl | rfl | rfl | rfl | rfl | rfl | rfl := hc <;> exact hone _

/-! ## Integer results -/

/-- A saturated number is the signed value of the word that holds it. -/
theorem sx_word_twos_satS (v : Int) : sx 32 (word (twos 32 (satS 32 v))).toNat = satS 32 v := by
  have hlo : -2147483648 ≤ satS 32 v := by unfold satS; norm_num; split_ifs <;> omega
  have hhi : satS 32 v < 2147483648 := by unfold satS; norm_num; split_ifs <;> omega
  generalize satS 32 v = k at hlo hhi
  simp only [word, twos, sx, BitVec.toNat_ofNat]
  norm_num
  split_ifs <;> omega

/-- The word of a saturated number is 0 where the number is. -/
theorem word_twos_satS_eq_zero (v : Int) : word (twos 32 (satS 32 v)) = 0 ↔ satS 32 v = 0 := by
  constructor
  · intro h
    have hsx := sx_word_twos_satS v
    rw [h] at hsx
    exact hsx.symm
  · intro h
    rw [h]
    rfl

/-- What an integer result leaves: the register, and N and Z by it (R265). -/
theorem uresult_int {e : UopEnv} (u : UopSt) (d : Nat) (v : Int) (he : e.fp = false) : uresult e u d (wInt v) =
    { u with r := u.r.set d (word (twos 32 (satS 32 v))), n := decide (satS 32 v < 0), z := decide (satS 32 v = 0) } := by
  simp only [uresult, he, Bool.false_eq_true, if_false, wInt, sx_word_twos_satS, word_twos_satS_eq_zero]
  rfl

/-- Settles O33. -/
theorem integerMicroinstructionResults : Obligations.IntegerMicroinstructionResults := by
  intro e i u he _ _ res hres
  have hint : ∀ v : Int, res v (uresult e u i.d (wInt v)) := fun v => (hres v _).mpr (uresult_int u i.d v he)
  refine ⟨?add, ?sub, ?mulc, ?mac, ?shr, ?clamp, rfl, fun hc => ?skip, fun hq hth ha hlt => ?cmpth⟩
  case add => simpa only [uopAdd, he, Bool.false_eq_true, if_false] using hint _
  case sub => simpa only [uopSub, he, Bool.false_eq_true, if_false] using hint _
  case mulc => simpa only [uopMulc, he, Bool.false_eq_true, if_false] using hint _
  case mac => simpa only [uopMac, he, Bool.false_eq_true, if_false] using hint _
  case shr => simpa only [uopShr, he, Bool.false_eq_true, if_false] using hint _
  case clamp => simpa only [uopClamp, he, Bool.false_eq_true, if_false] using hint _
  case skip => simp only [uopSkip, hc, if_true]
  case cmpth =>
    have hpos : 0 ≤ uint u i.a / bkInt e u i := Int.ediv_nonneg ha hth.le
    have hfired : uopCmpth e i u = fired u (wInt (bkInt e u i)) (min 5 (uint u i.a / bkInt e u i).toNat) := by
      simp only [uopCmpth, he, Bool.false_eq_true, if_false, hq, not_le.mpr hth, decide_false, Bool.or_self, not_lt.mpr ha]
    rw [hfired]
    generalize uint u i.a / bkInt e u i = j at hpos hlt
    simp only [fired, decide_eq_decide]
    constructor <;> omega

end Sys2Proof.Proofs
end

section
/-!
PROOFS of the statements about the commands of the tiles (spec/09_tensor_tiles.md, spec/10_convolution.md). That a wait which
VALUE and FAULT satisfy at once counts as satisfied by FAULT is log entry 157; the values that the spec leaves free are log entry 24.
-/
namespace Sys2Proof.Proofs
open Sys2Proof Sys2Proof.Machine Sys2Proof.Laws

/-! ## Feeding, starting and completing -/

/-- Outside the tensor queue work is only fed. -/
theorem feedWork_other (s : State) (t : Nat) {q : Nat} (c : TileCmd) (hq : q ≠ 0) (layer : Bool) : feedWork s t q layer c = feedCmd s t q c := by
  unfold feedWork
  simp only [hq, decide_false, Bool.false_and, Bool.false_eq_true, if_false]

/-- A command whose waits are satisfied starts; one that a faulted anchor released is decided at once (R318). -/
theorem startHead_releasedBad {s : State} {t q : Nat} {c : TileCmd} {r : List TileCmd} (hcmds : (queueOf (tileOf s t) q).cmds = c :: r)
    (hstart : (queueOf (tileOf s t) q).started = false) (hall : (queueWaits (queueOf (tileOf s t) q)).all (waitDone s) = true)
    (hbad : releasedBad s (queueOf (tileOf s t) q).met (queueWaits (queueOf (tileOf s t) q)) = true) :
    startHead s t q = setTileStatus (match c.work with
      | .window _ => wrN (updQueue (countWait s t q) t q (fun x => { x with started := true, since := none })) (WW_LAST_OUT t) 0
      | _ => updQueue (countWait s t q) t q (fun x => { x with started := true, since := none })) t q stAncFault := by
  unfold startHead
  simp only [hcmds]
  simp only [hstart, hall, hbad, Bool.not_true, Bool.or_self, Bool.false_eq_true, if_false, if_true] <;> rfl

/-- Settles O34. -/
theorem tileCommandsStartAndComplete : Obligations.TileCommandsStartAndComplete := by
  intro t q
  refine ⟨fun feed layer now s => ?startTime, fun late now s => ?completeTime, fun now s a hnow ha =>
    ⟨fun hrun => ⟨fun layer => ?start, fun layer c => ?startFed, fun c hq => feedWork_other s t c hq false, fun c r st hcmds hst hflight => ?complete⟩,
      ?late, fun c r x hx hcmds hstart hall hbad => ?released⟩⟩
  case startTime => simp only [exec, execTileCmdStart, advance_advance]
  case completeTime => simp only [exec, execTileCmdComplete, advance_advance]
  case start => simp only [exec, execTileCmdStart, advance_of_reached hnow, hrun, Bool.not_true, Bool.false_eq_true, if_false, ← ha]
  case startFed => simp only [exec, execTileCmdStart, advance_of_reached hnow, hrun, Bool.not_true, Bool.false_eq_true, if_false, ← ha]
  case complete =>
    have hgo : (q != 2 || (tileOf s t).flight.isEmpty) = true := by
      obtain h | h := hflight <;> simp [h]
    simp only [exec, execTileCmdComplete, advance_of_reached hnow, hcmds, hst, hrun, hgo, Bool.and_self, Bool.false_eq_true, if_false, if_true]
  case late => simp only [exec, execTileCmdComplete, advance_of_reached hnow, if_true]
  case released =>
    subst hx
    exact startHead_releasedBad hcmds hstart hall hbad

/-! ## Window commands -/

section Window
variable {s : State} {t q op lo hi : Nat} {c : TileCmd} {ws : List Nat} {spans : Win → List (Nat × Nat)} {run : Win → Nat → State → State}

/-- The output size that a window command shows as it runs. -/
def lastOut (s : State) (t : Nat) (ws : List Nat) : State :=
  wrN s (WW_LAST_OUT t) (if (winCmd ws).sized ws then (winCmd ws).oh.toNat % 65536 * 65536 + (winCmd ws).ow.toNat % 65536 else 0)

/-- A window command that fails a check takes its status. -/
theorem windowRun_check {st : Nat} (hhead : openHead s t q = some c) (hwork : c.work = .window ws) (hop : (winCmd ws).op = op)
    (hcheck : (winCmd ws).check s ws (tileAt t) = some st) :
    windowRun s t q op lo hi spans run = setTileStatus (lastOut s t ws) t q st := by
  unfold windowRun
  simp only [hhead, hwork, hop, ne_eq, not_true_eq_false, if_false, hcheck]
  rfl

/-- A window command with a stale halo ends with its status (R348). -/
theorem windowRun_stale (hhead : openHead s t q = some c) (hwork : c.work = .window ws) (hop : (winCmd ws).op = op)
    (hcheck : (winCmd ws).check s ws (tileAt t) = none) (hhalo : badSpan (lastOut s t ws) ((winCmd ws).headSpans (tileAt t)) = none)
    (hstale : (winCmd ws).halosOk (correct (lastOut s t ws) ((winCmd ws).headSpans (tileAt t))) (tileAt t) c.job lo hi = false) :
    windowRun s t q op lo hi spans run =
      setTileStatus (correct (lastOut s t ws) ((winCmd ws).headSpans (tileAt t))) t q stHaloStale := by
  unfold lastOut at hhalo hstale ⊢
  unfold windowRun
  simp only [hhead, hwork, hop, ne_eq, not_true_eq_false, if_false, hcheck, withReads, hhalo, hstale, Bool.not_false, if_true]

/-- A window command whose checks pass and whose operands can be read runs, and is OK. -/
theorem windowRun_ok (hhead : openHead s t q = some c) (hwork : c.work = .window ws) (hop : (winCmd ws).op = op)
    (hcheck : (winCmd ws).check s ws (tileAt t) = none) (hhalo : badSpan (lastOut s t ws) ((winCmd ws).headSpans (tileAt t)) = none)
    (hfresh : (winCmd ws).halosOk (correct (lastOut s t ws) ((winCmd ws).headSpans (tileAt t))) (tileAt t) c.job lo hi = true)
    {l : List (Nat × Nat)} (hread : badSpan (correct (lastOut s t ws) ((winCmd ws).headSpans (tileAt t))) l = none) (hl : spans (winCmd ws) = l) :
    windowRun s t q op lo hi spans run = setTileStatus
      (run (winCmd ws) (cmdNum c) (correct (correct (lastOut s t ws) ((winCmd ws).headSpans (tileAt t))) l)) t q okSt := by
  subst hl
  unfold lastOut at hhalo hfresh hread ⊢
  unfold windowRun
  simp only [hhead, hwork, hop, ne_eq, not_true_eq_false, if_false, hcheck, withReads, hhalo, hfresh, Bool.not_true, Bool.false_eq_true, hread]

end Window

/-- Settles O35. -/
theorem windowCommandsRun : Obligations.WindowCommandsRun := by
  intro t lo hi s c ws k u z hwork hk hu hz
  subst hk
  have hu : u = lastOut s t ws := hu
  subst hu
  subst hz
  refine ⟨fun st hcheck => ⟨fun hhead hop => ?convCheck, fun hhead =>
      ⟨fun hop => ?poolMaxCheck, fun hop => ?poolAvgCheck, fun hop => ?nearestCheck, fun hop => ?bilinearCheck⟩⟩,
    fun hcheck hhalo => ⟨fun hstale hhead hop => ?stale, fun hfresh => ⟨fun hhead hop l hl hread => ?conv,
      fun hhead l hl hread => ⟨fun hop => ?poolMax, fun hop => ?poolAvg⟩, fun hhead l hl hread => ⟨fun hop => ?nearest, fun hop => ?bilinear⟩⟩⟩⟩
  case convCheck => exact congrArg Host.Outcome.next (windowRun_check hhead hwork hop hcheck)
  case poolMaxCheck => exact congrArg Host.Outcome.next (windowRun_check hhead hwork hop hcheck)
  case poolAvgCheck => exact congrArg Host.Outcome.next (windowRun_check hhead hwork hop hcheck)
  case nearestCheck => exact congrArg Host.Outcome.next (windowRun_check hhead hwork hop hcheck)
  case bilinearCheck => exact congrArg Host.Outcome.next (windowRun_check hhead hwork hop hcheck)
  case stale => exact congrArg Host.Outcome.next (windowRun_stale hhead hwork hop hcheck hhalo hstale)
  all_goals subst hl
  case conv => exact congrArg Host.Outcome.next (windowRun_ok hhead hwork hop hcheck hhalo hfresh hread rfl)
  case poolMax => exact congrArg Host.Outcome.next (windowRun_ok hhead hwork hop hcheck hhalo hfresh hread rfl)
  case poolAvg => exact congrArg Host.Outcome.next (windowRun_ok hhead hwork hop hcheck hhalo hfresh hread rfl)
  case nearest => exact congrArg Host.Outcome.next (windowRun_ok hhead hwork hop hcheck hhalo hfresh hread rfl)
  case bilinear => exact congrArg Host.Outcome.next (windowRun_ok hhead hwork hop hcheck hhalo hfresh hread rfl)

/-! ## The vector unit -/

section Vector
variable {s : State} {t op n : Nat} {cmd : TileCmd} {v : VecCmd} {extra : VecCmd → Nat → List (Nat × Nat)} {outT : VecCmd → Nat → Tens}
  {f : VecCmd → Nat → State → Nat → Nat → FVal}

/-- What a vector command leaves that ran on readable operands: the output of every element, with the conversions counted. -/
def vecDone (t n : Nat) (v : VecCmd) (o : Tens) (z : State) (g : Nat → Nat → FVal) : State :=
  setTileStatus (bumpFree (o.store t (fun c _ x => g c x) (countCvts t z (readCvts z v n (tileAt t)))) (TT_BANK_CONFLICT_CCY t)) t 1 okSt

/-- A vector command whose checks pass and whose operands can be read stores its outputs, and is OK (R302). -/
theorem vecRun_ok (hhead : openHead s t 1 = some cmd) (hwork : cmd.work = .vector v) (hop : v.op = op)
    {l : List Tens} (hl : vecOps v n (tileAt t) = l) (hin : l.all (fun o => dataFmt o.f) = true)
    {o : Tens} (ho : outT v (tileAt t) = o) (hout : dataFmt o.f = true) (hne : 0 < v.chans * v.plane) (hone : 0 < o.c * o.x)
    {e : List (Nat × Nat)} (he : extra v (tileAt t) = e)
    (hrange : (l.flatMap tensSpan ++ e).any (fun e => decide (tileAt t + tileSize < e.1 + e.2)) = false)
    (hfits : o.base + o.size ≤ tileAt t + tileSize) (hread : badSpan s (l.flatMap tensSpan ++ e) = none) :
    vecRun s t op n extra outT f = vecDone t n v o (correct s (l.flatMap tensSpan ++ e)) (f v (tileAt t) (correct s (l.flatMap tensSpan ++ e))) := by
  have hspan : ((l.flatMap tensSpan ++ e) ++ tensSpan o).any (fun e => decide (tileAt t + tileSize < e.1 + e.2)) = false := by
    rw [List.any_append, hrange]
    simp [tensSpan, hfits]
  subst hl
  subst ho
  subst he
  unfold vecRun
  simp only [hhead, hwork, hop, ne_eq, not_true_eq_false, if_false, hin, hout, Bool.and_self, Bool.not_true, Bool.false_eq_true, hne.ne', hone.ne',
    or_self, hspan, withReads, hread, vecDone]

end Vector

/-- Settles O36. -/
theorem elementwiseVectorOperations : Obligations.ElementwiseVectorOperations := by
  intro t s cmd v hhead hwork hne hfmt hfits A B C hA hB hC good hgood out hout I F X hI hF hX
  obtain rfl : I = fun z o c x => valInt (vExact z o c x) := by funext z o c x; exact hI z o c x
  obtain rfl : F = fun z o c x => vFp z o c x := by funext z o c x; exact hF z o c x
  obtain rfl : X = fun z o c x => vExact z o c x := by funext z o c x; exact hX z o c x
  have hrun : ∀ (op n : Nat) (extra : VecCmd → Nat → List (Nat × Nat)) (f : VecCmd → Nat → State → Nat → Nat → FVal) (l : List Tens)
      (e : List (Nat × Nat)), v.op = op → good l e → vecOps v n (tileAt t) = l → extra v (tileAt t) = e → l.length = n →
      vecRun s t op n extra sameOut f = out l e (f v (tileAt t)) := by
    intro op n extra f l e hop hg hl he hn
    obtain ⟨hin, hrange, hread⟩ := (hgood l e).mp hg
    rw [hout l e _ _ rfl, hn]
    exact vecRun_ok hhead hwork hop hl hin (o := vecT v v.oFmt (tileAt t + v.o)) rfl hfmt hne hne he hrange hfits hread
  subst hA
  subst hB
  subst hC
  refine ⟨fun hg => ⟨fun hop => ?add, fun hop => ?sub, fun hop => ?mul, fun hop => ?min, fun hop => ?max, fun hop => ?cmp⟩,
    fun hg => ⟨fun hop => ?fma, fun hop => ?select⟩,
    fun hg => ⟨fun hop => ?abs, fun hop => ?neg, fun hop => ?relu, fun hop => ?leaky, fun hop => ?clamp, fun hop => ?cvt⟩,
    fun hg hop => ?lutfn, fun hg hop => ?requant⟩
  case add => exact congrArg Host.Outcome.next (hrun 1 2 noExtra _ _ _ hop hg rfl rfl rfl)
  case sub => exact congrArg Host.Outcome.next (hrun 2 2 noExtra _ _ _ hop hg rfl rfl rfl)
  case mul => exact congrArg Host.Outcome.next (hrun 3 2 noExtra _ _ _ hop hg rfl rfl rfl)
  case min => exact congrArg Host.Outcome.next (hrun 5 2 noExtra _ _ _ hop hg rfl rfl rfl)
  case max => exact congrArg Host.Outcome.next (hrun 6 2 noExtra _ _ _ hop hg rfl rfl rfl)
  case cmp => exact congrArg Host.Outcome.next (hrun 9 2 noExtra _ _ _ hop hg rfl rfl rfl)
  case fma => exact congrArg Host.Outcome.next (hrun 4 3 noExtra _ _ _ hop hg rfl rfl rfl)
  case select => exact congrArg Host.Outcome.next (hrun 10 3 noExtra _ _ _ hop hg rfl rfl rfl)
  case abs => exact congrArg Host.Outcome.next (hrun 7 1 noExtra _ _ _ hop hg rfl rfl rfl)
  case neg => exact congrArg Host.Outcome.next (hrun 8 1 noExtra _ _ _ hop hg rfl rfl rfl)
  case relu => exact congrArg Host.Outcome.next (hrun 11 1 noExtra _ _ _ hop hg rfl rfl rfl)
  case leaky => exact congrArg Host.Outcome.next (hrun 12 1 noExtra _ _ _ hop hg rfl rfl rfl)
  case clamp => exact congrArg Host.Outcome.next (hrun 13 1 noExtra _ _ _ hop hg rfl rfl rfl)
  case cvt => exact congrArg Host.Outcome.next (hrun 15 1 noExtra _ _ _ hop hg rfl rfl rfl)
  case lutfn =>
    exact congrArg Host.Outcome.next (hrun 14 1 (fun v base => [(base + v.c, 1028)]) _ _ _ hop hg rfl rfl rfl)
  case requant =>
    exact congrArg Host.Outcome.next (hrun 16 1 (fun v base => [(base + v.c, 8 * v.chans)]) _ _ _ hop hg rfl rfl rfl)

/-- Settles O37. -/
theorem vectorReductions : Obligations.VectorReductions := by
  intro t s cmd v A O hhead hwork hA hO haf hof hne hone hrange hfits hread z hz out hout I F hI hF
  obtain rfl : I = fun c x => (redIdx v c x).map (fun e => valInt (vExact z A e.1 e.2)) := by funext c x; exact hI c x
  obtain rfl : F = fun c x => (redIdx v c x).map (fun e => vFp z A e.1 e.2) := by funext c x; exact hF c x
  subst hA
  subst hO
  subst hz
  have hrun : ∀ (op : Nat) (f : VecCmd → Nat → State → Nat → Nat → FVal), v.op = op →
      vecRun s t op 1 noExtra redOut f = out (f v (tileAt t) (correct s [((vecT v v.aFmt (tileAt t + v.a)).base, (vecT v v.aFmt (tileAt t + v.a)).size)])) := by
    intro op f hop
    rw [hout]
    exact vecRun_ok hhead hwork hop (l := [vecT v v.aFmt (tileAt t + v.a)]) rfl (by simpa [vecT] using haf) rfl hof hne hone rfl
      (by simpa [tensSpan, noExtra] using hrange) hfits hread
  refine ⟨fun hop => ?sum, fun hop => ?max, fun hop => ?min, fun hop => ?argmax⟩
  case sum => exact congrArg Host.Outcome.next (hrun 17 _ hop)
  case max => exact congrArg Host.Outcome.next (hrun 18 _ hop)
  case min => exact congrArg Host.Outcome.next (hrun 19 _ hop)
  case argmax => exact congrArg Host.Outcome.next (hrun 20 _ hop)

end Sys2Proof.Proofs
end

section
/-!
PROOFS of the statements about the stash, scrubbing, retention and sleep of the tiles (spec/09_tensor_tiles.md R309 to R315), and about LEAN
(spec/11_approximation.md R367 to R378).
-/
namespace Sys2Proof.Proofs
open Sys2Proof Sys2Proof.Machine Sys2Proof.Laws

/-! ## Stash transfers, scrubbing, retention and sleep -/

/-- The banks of a tile whose CRC computed again is not the one kept, as a mask. -/
def badBankMask (s : State) (u : Nat) : Nat :=
  ((List.range 16).filter (fun b => decide (crc64 (bankBytes s u b) ≠ at0 (tileOf s u).crcs b))).foldl (fun n b => n + 2 ^ b) 0

/-- The verification of kept memory in which no bit flipped while it was off. -/
theorem execRetentionVerify_noFlips (u : Nat) (s : State) : execRetentionVerify u [] s =
    if (tileOf s u).crcs.isEmpty || unitState s (if u < 128 then tilePage u else ccPage (u - 128)) == stOff then .next s
    else .next (if badBankMask s u = 0 ∨ 128 ≤ u then
        wrN (setTile s u { tileOf s u with crcs := [] }) (retStat u) (badBankMask s u * 65536 + (if badBankMask s u = 0 then 1 else 2))
      else irq (wrN (setTile s u { tileOf s u with crcs := [] }) (retStat u) (badBankMask s u * 65536 + (if badBankMask s u = 0 then 1 else 2)))
        (tilePage u) 2) := rfl

/-- What the verification of a tile's kept memory shows (R310). -/
theorem retentionVerify_eq {s : State} {t : Nat} (ht : t < 128) (hkept : (tileOf s t).crcs ≠ []) (hon : unitState s (tilePage t) ≠ stOff) :
    exec (.retentionVerify t []) s = .next
      (if badBankMask s t = 0 then wrN (setTile s t { tileOf s t with crcs := [] }) (retStat t) 1
       else irq (wrN (setTile s t { tileOf s t with crcs := [] }) (retStat t) (badBankMask s t * 65536 + 2)) (tilePage t) 2) := by
  have hempty : (tileOf s t).crcs.isEmpty = false := by simp [hkept]
  have hoff : (unitState s (tilePage t) == stOff) = false := by simp [hon]
  simp only [exec, execRetentionVerify_noFlips, hempty, ht, if_true, hoff, Bool.or_self, Bool.false_eq_true, if_false, not_le.mpr ht, or_false]
  by_cases h : badBankMask s t = 0
  · simp only [h, if_true, Nat.zero_mul, Nat.zero_add]
  · simp only [h, if_false]

/-- Settles O38. -/
theorem stashAndSleepMoveTileMemory : Obligations.StashAndSleepMoveTileMemory := by
  intro t s
  refine ⟨fun c x hhead hwork => ⟨fun st hcheck => ?refused, fun hcheck hfree => ?moves⟩, fun late now s => ?doneTime,
    fun c before after now s => ?scrubTime, fun now hnow => ?late, fun now c x r hnow hrun hflight hwork hmem hsram => ?done,
    fun c now before after words u v hnow hon hrun hunit hdue hwords hu hv => ?scrub,
    fun ht hkept hon bad hbad => ⟨fun hnone => ?pass, fun hsome => ?fail⟩, fun hawake hbound hready hidle => ?sleep, fun hasleep => ?wake⟩
  case refused => simp only [exec, execStashTransfer, hhead, hwork, hcheck]
  case moves => simp only [exec, execStashTransfer, hhead, hwork, hcheck, hfree, if_true]
  case doneTime => simp only [exec, execStashDone, advance_advance]
  case scrubTime => simp only [exec, execSramScrub, advance_advance]
  case late => simp only [exec, execStashDone, advance_of_reached hnow, if_true]
  case done =>
    have hpause : s.pwr.pause.isSome = false := by simp [hrun]
    simp only [exec, execStashDone, advance_of_reached hnow, hpause, hflight, hwork, Bool.false_eq_true, if_false]
    cases hside : isMem x.src
    case false => simp only [hsram hside, Option.isSome_none, Bool.and_false, Bool.false_and, Bool.false_eq_true, if_false]
    case true => simp only [hmem hside, Bool.not_true, Bool.false_and, Bool.and_false, Bool.false_eq_true, if_false, if_true]
  case scrub =>
    have hgo : (!flag s (CC_SCRUB c) 31 || s.pwr.pause.isSome || unitState s (ccPage c) == stOff
        || decide (s.ft < tget natD s.scrubs c + fld s (CC_SCRUB c) 7 0 * 1000000000)) = false := by
      simp [hon, hrun, hunit, hdue]
    obtain rfl : words = fun l => (l.filter (ofCluster c)).map (· / 8) := funext hwords
    subst hv
    subst hu
    simp only [exec, execSramScrub, advance_of_reached hnow, hgo, Bool.false_eq_true, if_false]
  case pass =>
    have hmask : badBankMask s t = bad.foldl (fun n b => n + 2 ^ b) 0 := by rw [hbad]; rfl
    rw [retentionVerify_eq ht hkept hon, if_pos (by rw [hmask, hnone]; rfl)]
  case fail =>
    have hmask : badBankMask s t = bad.foldl (fun n b => n + 2 ^ b) 0 := by rw [hbad]; rfl
    rw [retentionVerify_eq ht hkept hon, hmask, if_neg hsome.ne']
  case sleep =>
    simp only [exec, execTileSleep, hawake, hbound, hready, hidle, bne_self_eq_false, Bool.or_self, Bool.false_eq_true, if_false, if_true]
  case wake => simp only [exec, execTileSleep, hasleep, Bool.false_eq_true, if_false, if_true]

/-! ## LEAN -/

/-- The evaluation of a millisecond goes on from the state that shows its rate (R374). -/
theorem leanPolicyTick_eq {now beats : Nat} {tts ncs : List (Nat × Nat)} {s r u : State} {n c d : Nat} (hnow : Reached s now)
    (hrun : s.pwr.pause = none) (hdue : s.lean.last + 1000000 ≤ s.ft) (hbeats : 0 < beats) (hn : n = (tts ++ ncs).foldl (fun n e => n + e.2) 0)
    (hr : r = wrN (countReplays (updLean s (fun l => { l with last := s.ft })) tts ncs beats) APX_REPLAY_RATE (satN 0xFFFFFFFF (n * 4294967296 / beats)))
    (hbivouac : inBivouac r = false) (hu : u = bump r (APX_RES_MS (leanCur r))) (hbelay : inBelay u = false)
    (hceil : ceilOf (settingP u) = some (c, d)) :
    exec (.leanPolicyTick now beats tts ncs) s =
      if c * beats < n * d then .next (irq (stepDown u rsCeil) pgApx 3)
      else if (leanOvr u != 2 && decide (leanH u < 4) && decide (max u.lean.tDown u.lean.tUp + hystNs u * leanMult u ≤ u.ft)
          && decide (1 ≤ u.lean.clean)) = true then
        .next (leanDecide (leanLog (bump (updLean (setFld u APX_LEAN_STAT 20 18 (leanH u + 1)) (fun l => { l with clean := 0, tUp := u.ft })) APX_STEP_UP_CNT)
          (settingP u) (settingFor (updLean (setFld u APX_LEAN_STAT 20 18 (leanH u + 1)) (fun l => { l with clean := 0, tUp := u.ft }))
            (mode (updLean (setFld u APX_LEAN_STAT 20 18 (leanH u + 1)) (fun l => { l with clean := 0, tUp := u.ft })))) rsHystUp) rsHystUp)
      else .next (leanDecide u rsHystUp) := by
  have hpause : s.pwr.pause.isSome = false := by simp [hrun]
  simp only [exec, execLeanPolicyTick, advance_of_reached hnow, hpause, not_lt.mpr hdue, Bool.false_eq_true, or_self, if_false, hbeats.ne', ← hn, ← hr,
    hbivouac, ← hu, hbelay, hceil, Bool.not_false, Bool.and_true, Bool.true_and, decide_eq_true_eq]

/-- Settles O39. -/
theorem leanSettingFollowsTheEvidence : Obligations.LeanSettingFollowsTheEvidence := by
  refine ⟨fun beats tts ncs now s => ?tickTime, fun diff now s => ?compareTime, fun now s => ?changeTime,
    fun now beats tts ncs s u n hnow hrun hdue hbeats hn r hr hbivouac hu hbelay c d hceil =>
      ⟨fun hbeyond => ?down, fun hwithin hfree hH hhyst hclean z hz => ?up, fun hwithin hunclean => ?stay⟩,
    fun now diff s u x r got hnow hsamples hu hgot => ⟨fun hsame hwin => ?equal, fun v hdiff hv hother hwin => ?differs⟩,
    fun now s hnow hlate hmode hready => ?change, fun w v s u hok hbound hu => ⟨fun hsame => ?cfg, fun hon hoff => ?disabled⟩⟩
  case tickTime => simp only [exec, execLeanPolicyTick, advance_advance]
  case compareTime => simp only [exec, execSampleCompare, advance_advance]
  case changeTime => simp only [exec, execLeanChange, countLate_advance_idem]
  case down => rw [leanPolicyTick_eq hnow hrun hdue hbeats hn hr hbivouac hu hbelay hceil, if_pos hbeyond]
  case up =>
    have hstep : (leanOvr u != 2 && decide (leanH u < 4) && decide (max u.lean.tDown u.lean.tUp + hystNs u * leanMult u ≤ u.ft)
        && decide (1 ≤ u.lean.clean)) = true := by
      simp only [bne_iff_ne.mpr hfree, hH, hhyst, hclean, decide_true, Bool.and_self]
    subst hz
    rw [leanPolicyTick_eq hnow hrun hdue hbeats hn hr hbivouac hu hbelay hceil, if_neg (not_lt.mpr hwithin), if_pos hstep]
  case stay =>
    have hstep : ¬(leanOvr u != 2 && decide (leanH u < 4) && decide (max u.lean.tDown u.lean.tUp + hystNs u * leanMult u ≤ u.ft)
        && decide (1 ≤ u.lean.clean)) = true := by
      simp [hunclean]
    rw [leanPolicyTick_eq hnow hrun hdue hbeats hn hr hbivouac hu hbelay hceil, if_neg (not_lt.mpr hwithin), if_neg hstep]
  case equal =>
    have hn : ¬fld u APX_CHK_WIN 11 0 + 1 = 4096 := by omega
    simp only [exec, execSampleCompare, advance_of_reached hnow, hsamples, ← hu]
    simp only [← hgot, hsame, ne_eq, not_true_eq_false, decide_false, Bool.not_false, if_true, Bool.false_and, Bool.false_eq_true, if_false, hn, b2n,
      Nat.add_zero]
  case differs =>
    have hn : ¬fld v APX_CHK_WIN 11 0 + 1 = 4096 := by omega
    simp only [exec, execSampleCompare, advance_of_reached hnow, hsamples, ← hu]
    simp only [← hgot, hdiff, ne_eq, not_false_eq_true, decide_true, Bool.not_true, Bool.false_eq_true, if_false, ← hv, hother, hn, decide_false,
      Bool.and_false, Bool.false_and]
    simp only [b2n, Bool.false_eq_true, if_false, Nat.add_zero]
  case change =>
    simp only [exec, execLeanChange, advance_of_reached hnow, hlate, hmode, Option.isSome_none, Bool.false_eq_true, if_false, applyLean, hready, if_true]
  case cfg =>
    have hchk : chkCfgWrite s w v = u := by
      simp only [chkCfgWrite, hbound, Bool.and_false, Bool.false_eq_true, if_false, ← hu]
      cases hen : chkEn u <;> simp only [hsame.trans hen, Bool.not_true, Bool.not_false, Bool.and_false, Bool.false_and, Bool.false_eq_true, if_false]
    simp only [exec, execCheckerCfgWrite, guardW_ok hok, hchk]
  case disabled =>
    simp only [exec, execCheckerCfgWrite, guardW_ok hok, chkCfgWrite, hbound, Bool.and_false, Bool.false_eq_true, if_false, ← hu, hon, hoff,
      Bool.not_false, Bool.and_self, if_true]

end Sys2Proof.Proofs
end

section
/-!
PROOFS of the statements about sheets, verdicts, corrections, tracks and the output streams (spec/12_verdicts_corrections.md). That HELD is written for
the oldest sheet owed is log entry 87.
-/
namespace Sys2Proof.Proofs
open Sys2Proof Sys2Proof.Machine Sys2Proof.Laws

/-! ## Sheets, results and verdicts -/

/-- A result for a tile that owes its verdict acts on it. -/
theorem withTile_owing {s : State} {t : TileRef} {p : PendTile} (r : TileRes) (exact : Bool) (g : State → PendTile → State)
    (hrun : inBivouac s = false) (hp : s.out.pend.find? (fun q => sameTile q t) = some p) : withTile s t r exact g = g s p := by
  simp only [withTile, hrun, Bool.false_eq_true, if_false, hp]

/-- A result for a tile outside every grid only counts. -/
theorem withTile_untiled {s : State} {t : TileRef} (r : TileRes) (exact : Bool) (g : State → PendTile → State) (hrun : inBivouac s = false)
    (hp : s.out.pend.find? (fun q => sameTile q t) = none) (hw : writtenOf s t = none) (he : earlyTile s t = none) :
    withTile s t r exact g = bump s OUT_UNTILED_CNT := by
  simp only [withTile, hrun, Bool.false_eq_true, if_false, hp, hw, he]

/-- Settles O40. -/
theorem resultsBecomeVerdictRecords : Obligations.ResultsBecomeVerdictRecords := by
  refine ⟨fun now s => ?sheetTime, fun t v now s hrest => ?verdictOwed, fun t n m v now s hrest => ?cheapOwed, fun t n v now s hrest => ?exactOwed,
    fun now s => rfl, fun s hbelay hbivouac => ?deadlines, fun now s hrest =>
    ⟨?deadline, fun j hon hmp hreach u hu => ?sheet, fun t v p hrun hp =>
      ⟨?verdict, fun n m tau xs r hplan hr => ⟨fun hover => ?cheapFinal, fun hunder hbelay => ⟨fun htime hroom => ?escalate, fun hlean => ?lean⟩⟩,
        fun n hpair hwait hcheap => ?exact⟩, fun t v hrun hp hw he => ?untiled⟩⟩
  case sheetTime => simp only [exec, execSheetStart, advance_advance]
  case verdictOwed => simp only [exec, execVerdictResult, outAt_of_noneOwed hrest]
  case cheapOwed => simp only [exec, execCheapResult, outAt_of_noneOwed hrest]
  case exactOwed => simp only [exec, execExactResult, outAt_of_noneOwed hrest]
  case deadlines => simp only [passDeadlines, hbelay, hbivouac, Bool.or_self, Bool.false_eq_true, if_false]
  all_goals have hat := outAt_of_noneOwed hrest
  case deadline => simp only [exec, execVerdictDeadline, hat]
  case sheet =>
    have hhist : s.mp.hist.isEmpty = false := by simp [hmp]
    subst hu
    simp only [exec, execSheetStart, advance_of_reached hrest.1, hon, hhist, Bool.not_true, Bool.or_self, Bool.false_eq_true, if_false, hreach]
  case verdict => simp only [exec, execVerdictResult, hat, withTile_owing _ _ _ hrun hp]
  case cheapFinal =>
    subst hr
    simp only [exec, execCheapResult, hat, hplan, withTile_owing _ _ _ hrun hp, hover, if_true]
  case escalate =>
    have hgo : ¬(p.dl.getD (s.ft + (verdictBound s).getD 0) < s.ft + xpOf s xs + fld s APX_ESC_GUARD 15 0 * 1000 ∨ qDepth s n ≤ qFill s n) := by
      omega
    subst hr
    simp only [exec, execCheapResult, hat, hplan, withTile_owing _ _ _ hrun hp, hunder, Bool.false_eq_true, if_false, hbelay, hgo]
  case lean =>
    subst hr
    simp only [exec, execCheapResult, hat, hplan, withTile_owing _ _ _ hrun hp, hunder, Bool.false_eq_true, if_false, hbelay, hlean, if_true]
  case exact =>
    simp only [exec, execExactResult, hat, withTile_owing _ _ _ hrun hp, hpair, hwait, hcheap, and_self, if_true]
  case untiled => simp only [exec, execVerdictResult, hat, withTile_untiled _ _ _ hrun hp hw he]

/-! ## Corrections, HELD and tracks -/

/-- What a correction does at an enabled unit of a running job, for a sheet begun, with nothing owed (R394, R395). -/
theorem correctionResult_eq {now u : Nat} {j : Int} {v : CorrVal} {s : State} {jb : JobSt} {dl : Option Nat} {b : Bool} (hat : outAt now s = s)
    (hheld : unitHeld s u = s) (hzones : v.zones.length ≤ 256) (hjob : unitJob s u = some jb) (hon : flag s (OUT_UNIT_CFG u) 31 = true)
    (hrun : inBivouac s = false) (hsheets : sheetsOn s = true) (hbegun : s.out.sheets.any (fun sh => sh.j == j) = true)
    (hdl : corrDeadline s j u = (dl, b)) :
    exec (.correctionResult u j v now) s =
      if (b || corrOf s jb.handle u j == some true) && flag s (OUT_UNIT_CFG u) 30 && !inBelay s then
        .next (if b then unitIrq (bump s (OUT_UNIT_MISS_CNT u)) u 0 else s)
      else .next (writeCorr s jb.handle u j v false b dl) := by
  simp only [exec, execCorrectionResult, hat, hheld, not_lt.mpr hzones, if_false, hjob, hon, hrun, hsheets, hbegun, Bool.not_true, Bool.or_self,
    Bool.false_eq_true, hdl]

/-- Settles O41. -/
theorem correctionsAndTracks : Obligations.CorrectionsAndTracks := by
  refine ⟨fun t stamp cls x y now s hrest => ?detectionOwed, fun u now s hrest => ?heldOwed, fun u j v now s hrest => ?correctionOwed,
    fun now s hrest => ⟨fun u j v hheld hagain => ?afterHeld, fun u j v hheld => ⟨fun hzones => ?bad,
        fun jb dl b hzones hjob hon hrun hsheets hbegun hdl => ⟨fun hb hnew => ?inTime, fun hlate hkeep => ?lateKept,
          fun hb hdone hdrop hbelay => ?second, fun hb hdrop hbelay => ?missed⟩⟩,
      fun u => ?held, fun u jb hjob hon hbelay hrun hsheets hdl => ?heldAll, fun u job n t j hdue => ?heldOne, fun u job j v hv => ?writeHeld,
      fun t stamp cls x y u sh hon hrun hu hsh => ⟨fun i hnear z dt hdt hz => ?near, fun hnear => ⟨fun hfull => ?full, fun i hfree => ?opens⟩⟩,
      fun t i hpend => ?name⟩⟩
  case detectionOwed => simp only [exec, execDetection, outAt_of_noneOwed hrest]
  case heldOwed => simp only [exec, execHeld, outAt_of_noneOwed hrest]
  case correctionOwed => simp only [exec, execCorrectionResult, outAt_of_noneOwed hrest]
  all_goals have hat := outAt_of_noneOwed hrest
  case afterHeld => simp only [exec, execCorrectionResult, hat, outAt_of_noneOwed hheld, hagain]
  case bad => simp only [exec, execCorrectionResult, hat, hheld, hzones, if_true]
  case inTime =>
    have hgo : ((b || corrOf s jb.handle u j == some true) && flag s (OUT_UNIT_CFG u) 30 && !inBelay s) = false := by
      simp [hb, hnew]
    rw [correctionResult_eq hat hheld hzones hjob hon hrun hsheets hbegun hdl, hgo, hb]
    rfl
  case lateKept =>
    have hgo : ((b || corrOf s jb.handle u j == some true) && flag s (OUT_UNIT_CFG u) 30 && !inBelay s) = false := by
      obtain h | h := hkeep <;> simp [h]
    rw [correctionResult_eq hat hheld hzones hjob hon hrun hsheets hbegun hdl, hgo]
    rfl
  case second =>
    rw [correctionResult_eq hat hheld hzones hjob hon hrun hsheets hbegun hdl, hb, hdone, hdrop, hbelay]
    rfl
  case missed =>
    rw [correctionResult_eq hat hheld hzones hjob hon hrun hsheets hbegun hdl, hb, hdrop, hbelay]
    rfl
  case held => simp only [exec, execHeld, hat]
  case heldAll =>
    have hdl' : (fld s (OUT_UNIT_CFG u) 15 0 == 0) = false := by simp [hdl]
    simp only [unitHeld, hjob, hon, hbelay, hrun, hsheets, hdl', Bool.not_true, Bool.or_self, Bool.false_eq_true, if_false]
  case heldOne => simp only [heldRecords, hdue]
  case writeHeld =>
    subst hv
    unfold writeHeld
    cases s.out.last.find? (fun e => e.1 == u) <;> rfl
  case near =>
    rw [hz, hdt, hsh]
    simp only [exec, execDetection, hat, hon, hrun, Bool.not_true, Bool.or_self, Bool.false_eq_true, if_false, ← hu, hnear] <;> rfl
  case full => simp only [exec, execDetection, hat, hon, hrun, Bool.not_true, Bool.or_self, Bool.false_eq_true, if_false, ← hu, hnear, hfull]
  case opens =>
    rw [hsh]
    simp only [exec, execDetection, hat, hon, hrun, Bool.not_true, Bool.or_self, Bool.false_eq_true, if_false, ← hu, hnear, hfree] <;> rfl
  case name => simp only [nameTrack, hpend, Bool.true_or, if_true]

/-! ## Output streams -/

/-- Settles O42. -/
theorem recordsReachTheirDestinations : Obligations.RecordsReachTheirDestinations := by
  refine ⟨fun n now s hrest => ?deliverOwed, fun n now s => ?irqTime, fun n now s hrest => ?datagramOwed, fun n now s hrest =>
    ⟨fun r hr hmaster pad h z u hpad hh hroom hz hu => ?deliver, fun w v hok => ⟨fun halign hlo hhi => ?tail, fun hbad => ?tailBad⟩,
      fun hmoved hdue => ?irq, fun q recs hq hrecs => ⟨fun hnone => ?none, fun r rest hcons hall hsoon => ?wait,
        fun r rest ck s1 u body ports hcons hdue hdraw hbody hports hu => ?send⟩⟩⟩
  case deliverOwed => simp only [exec, execRecordDeliver, outAt_of_noneOwed hrest]
  case irqTime => simp only [exec, execRingIrq, advance_advance]
  case datagramOwed => simp only [exec, execDatagramSend, outAt_of_noneOwed hrest]
  case deliver =>
    subst hu
    subst hz
    subst hh
    subst hpad
    simp only [exec, execRecordDeliver, outAt_of_noneOwed hrest, hr, hmaster, not_le.mpr hroom, decide_false, Bool.not_true, Bool.or_self,
      Bool.false_eq_true, if_false]
  case tail =>
    have hgo : ¬(v.toNat % 64 ≠ 0 ∨ v.toNat < 64 ∨ ringBytes s n ≤ v.toNat) := by omega
    simp only [exec, execOutStrTailWrite, guardW_ok hok, tailWrite, hgo, if_false]
  case tailBad => simp only [exec, execOutStrTailWrite, guardW_ok hok, tailWrite, hbad, if_true]
  case irq =>
    have hgo : (match (strOf s n).irqFt with | none => true | some t => decide (t + fld s (OUT_STR_RING n) 31 21 * 1000 ≤ s.ft)) = true := by
      obtain h | ⟨t, h, hle⟩ := hdue
      · simp only [h]
      · simp only [h, hle, decide_true]
    simp only [exec]
    unfold execRingIrq
    rw [advance_of_reached hrest.1]
    exact if_neg (fun h => h.elim hmoved (fun hno => absurd (hgo.symm.trans hno) (by decide)))
  case none =>
    subst hq
    simp only [exec, execDatagramSend, outAt_of_noneOwed hrest, ← hrecs, hnone]
  case wait =>
    subst hq
    rw [hcons] at hall
    simp only [exec, execDatagramSend, outAt_of_noneOwed hrest, ← hrecs, hcons, hall, hsoon, and_self, if_true]
  case send =>
    have hgo : ¬((r :: rest).length = q.length ∧ s.ft < r.ft + fld s (OUT_STR_UDP n) 15 0 * 1000) := by
      rw [← hcons]
      omega
    subst hu
    subst hports
    subst hq
    simp only [exec, execDatagramSend, outAt_of_noneOwed hrest, ← hrecs, hcons, hgo, if_false, hdraw, hbody] <;> rfl

end Sys2Proof.Proofs
end

section
/-!
PROOFS of the statements about the binder (spec/13_ronrix_binding.md) and about the commands, rings, contexts and functions of the host interface
(spec/14_host_interface.md). The partition that a command of the binder notes is log entry 164; that an FLR clears bus mastering and vectors is log entry
91, and that CQ_ENABLE leaves ERROR and writes the held records is log entry 92.
-/
namespace Sys2Proof.Proofs
open Sys2Proof Sys2Proof.Machine Sys2Proof.Laws

/-! ## The binder -/

/-- Settles O43. -/
theorem binderCommandsPlaceAndReleaseJobs : Obligations.BinderCommandsPlaceAndReleaseJobs := by
  refine ⟨fun c q s k hk hnew host plan ok pay j z hpay hz hj => ⟨fun hcheck u hu => ?bind, fun st hcheck hdigest hsig => ?bindRefused⟩,
    fun h now s => ?activateTime, fun h now s => ?releaseTime, fun h now f c q s j hnow hj hphase hstart hcmd hdue => ?activate,
    fun c q s k hk => ⟨fun hnone => ?unbindNone, fun j hj hreset hphase => ?unbind⟩,
    fun h now e c q s j hnow hj hphase hend hcmd hdue hdrain => ?release,
    fun c q s k host pay j hk hnew hpay hj hphase hreset hbelay hfan y j1 hy hj1 => ?rebind,
    fun c q s k host pay hk hpay => ⟨fun hres => ?partReserved, fun hres hfree => ?part⟩, fun c q s k hk hreset hbusy hhelper => ?reload⟩
  case bind =>
    subst hj
    subst hz
    simp only [exec, execBind, hk, hnew, Bool.false_eq_true, if_false, hpay, hcheck, hu]
  case bindRefused =>
    subst hj
    subst hz
    simp only [exec, execBind, hk, hnew, Bool.false_eq_true, if_false, hpay, hcheck, hdigest, hsig, or_self]
  case activateTime => simp only [exec, execBindActivate, advance_advance]
  case releaseTime => simp only [exec, execUnbindRelease, advance_advance]
  case activate => simp only [exec, execBindActivate, advance_of_reached hnow, hj, hphase, hstart, hcmd, not_lt.mpr hdue, if_false]
  case unbindNone => simp only [exec, execUnbind, hk, hnone, stNoJob]
  case unbind =>
    have hreset' : partResets (inPart s c q j.part) j.part = false := hreset
    simp only [exec, execUnbind, hk, hj, hreset', Bool.false_eq_true, if_false, hphase, if_true]
  case release =>
    have hgo : ¬(s.ft < e ∨ (j.drain = true ∧ drained s j e = false)) := by
      rintro (h | ⟨h, h'⟩)
      · exact absurd hdue (not_le.mpr h)
      · obtain hno | hyes := hdrain
        · exact absurd (hno.symm.trans h) (by decide)
        · exact absurd (h'.symm.trans hyes) (by decide)
    simp only [exec, execUnbindRelease, advance_of_reached hnow, hj, hphase, hend, hgo, if_false, hcmd]
  case rebind =>
    have hreset' : partResets (inPart s c q j.part) j.part = false := hreset
    have hbelay' : (inBelay (inPart s c q j.part) && (List.range 8).any (fun b => jobBar j b && legacyBar (inPart s c q j.part) b)) = false := by
      obtain h | h := hbelay
      · have h' : inBelay (inPart s c q j.part) = false := h
        simp only [h', Bool.false_and]
      · have h' : (List.range 8).any (fun b => jobBar j b && legacyBar (inPart s c q j.part) b) = false := h
        simp only [h', Bool.and_false]
    subst hj1
    subst hy
    simp only [exec, execRebind, hk, hnew, Bool.false_eq_true, if_false, hpay, hj, Option.filter_some, hphase, decide_true, if_true, hreset', hbelay',
      hfan, Bool.not_true]
    rfl
  case partReserved => simp only [exec, execPartCfg, hk, hpay, hres, if_true, stReserved]
  case part =>
    have hfree' : ∀ (f : Nat → Bool), (∀ n p, partOf s n = some p → (partResets s p = false ∧ partBusy s p = false) → f n = false) →
        (∀ n, partOf s n = none → f n = false) →
        (List.range 16).any (fun n => (partByte pay n != rdN s (CC_PART n)) && f n) = false := by
      intro f hsome hnone
      rw [List.any_eq_false]
      intro n hn
      obtain h | h := hfree n (List.mem_range.mp hn)
      · simp [h]
      · cases hp : partOf s n with
        | none => simp [hnone n hp]
        | some p => simp [hsome n p hp (h p hp)]
    have hreset := hfree' (fun n => match partOf s n with | some p => partResets s p | none => false) (fun n p hp h => by simp only [hp, h.1])
      (fun n hp => by simp only [hp])
    have hbusy := hfree' (fun n => match partOf s n with | some p => partBusy s p | none => false) (fun n p hp h => by simp only [hp, h.2])
      (fun n hp => by simp only [hp])
    simp only [exec, execPartCfg, hk, hpay, hres, Bool.false_eq_true, if_false]
    exact (if_neg (fun h => Bool.false_ne_true (hreset.symm.trans h))).trans (if_neg (fun h => Bool.false_ne_true (hbusy.symm.trans h)))
  case reload =>
    have hreset' : partResets (inPart s c q (cmdArg k)) (cmdArg k) = false := hreset
    have hbusy' : partBusy (inPart s c q (cmdArg k)) (cmdArg k) = false := hbusy
    have hhelper' : helperOk (inPart s c q (cmdArg k)) 0x02 = true := hhelper
    have hclusters : partClusters (inPart s c q (cmdArg k)) (cmdArg k) = partClusters s (cmdArg k) := rfl
    simp only [exec, execCcReload, hk, hreset', hbusy', hhelper', hclusters, Bool.false_eq_true, if_false, if_true]
    rfl

/-! ## Commands of a context -/

/-- A command that fails a check as it starts has its status at once, and joins no queue of the binder (R442). -/
theorem startCmd_refused {s : State} {c : Nat} {k : CmdSt} {st : Nat} (hcheck : startCheck s c k = some st) :
    startCmd s c k = markStartable (wrN (updCmd s c k.seq (fun j => { j with
      started := true, cgen := (ctxOf s c).cgen, status := some st, snap := if cmdCode k = 0x04 then stampBytes s else [] }))
        (HIF_W_NEXT_SEQ c) (k.seq + 1)) c := by
  simp only [startCmd, hcheck, Option.isNone_some, Bool.false_and, Bool.false_eq_true, if_false]

/-- Settles O44. -/
theorem commandsAreSubmittedStartedAndEnded : Obligations.CommandsAreSubmittedStartedAndEnded := by
  refine ⟨fun fn off bs s => ⟨fun hnone => ?denied, fun c o u d hc ho hlo hne hu hd =>
      ⟨fun hpart => ?stored, fun hwhole hvalid => ⟨fun hacc => ?accepted, fun hrefuse => ?refused⟩⟩⟩,
    fun c now s => ?startTime, fun c q ok now s => ?endTime, fun r now s => ?budgetTime,
    fun c now s k hnow hready => ⟨?start, fun st hcheck => startCmd_refused hcheck⟩,
    fun c q now st s k hnow hk hst => ⟨?ends, fun hmgmt horphan hheld hroom => ?fails⟩, fun c q now ok s hnow hnone => ?late,
    fun c q now s k hnow hk hover => ?hostBudget, fun t q n now s e hnow he hover => ?tileBudget⟩
  case denied => simp only [exec, execDescriptorSubmit, hnone, winDenied]
  case stored =>
    have hfit : o % 64 + bs.length ≤ 64 := hpart.le
    subst hd
    subst hu
    subst ho
    simp only [exec, execDescriptorSubmit, hc, hlo, hne, hfit, and_self, if_true, hpart.ne, false_and, if_false]
  case accepted =>
    subst hd
    subst hu
    subst ho
    simp only [exec, execDescriptorSubmit, hc, hlo, hne, hwhole, le_refl, and_self, if_true, hvalid, submit, hacc]
  case refused =>
    subst hd
    subst hu
    subst ho
    simp only [exec, execDescriptorSubmit, hc, hlo, hne, hwhole, le_refl, and_self, if_true, hvalid, submit, hrefuse, Bool.false_eq_true, if_false,
      refuseSubmit]
  case startTime => simp only [exec, execCommandStart, advance_advance]
  case endTime => simp only [exec, execCommandEnd, advance_advance]
  case budgetTime => simp only [exec, execBudgetExpiry, advance_advance]
  all_goals have hadv := advance_of_reached hnow
  case start => simp only [exec, execCommandStart, hadv, hready]
  case ends => simp only [exec, execCommandEnd, hadv, hk, hst, Bool.not_true, Bool.and_false, Bool.false_eq_true, if_false]
  case fails =>
    simp only [exec, execCommandEnd, hadv, hk, hst, hmgmt, horphan, hheld, hroom, List.isEmpty_nil, Bool.not_false, Bool.and_self, if_true]
  case late => simp only [exec, execCommandEnd, hadv, hnone]
  case hostBudget => simp only [exec, execBudgetExpiry, hadv, hk, hover, if_true]
  case tileBudget =>
    obtain ⟨c, b⟩ := e
    simp only [exec, execBudgetExpiry, hadv, he, hover, if_true]

/-- Settles O45. -/
theorem simpleCommandsMoveBytes : Obligations.SimpleCommandsMoveBytes := by
  intro c q s k
  refine ⟨fun hk => ?nop, fun hk a n ha hn => ⟨fun hin bs => ?copyIn, fun hout hgood bs => ?copyOut, fun hin => ?copyFails⟩, fun hk => ?fill,
    fun hk => ⟨fun hdev ok => ?stampDev, fun hhost => ?stampHost⟩, fun hk => ⟨fun hnone ok => ?queryNone, fun j hj hrun hhost => ?query⟩⟩
  case nop => simp only [exec, execNop, hk]
  case copyIn =>
    subst hn
    subst ha
    simp only [exec, execCopy, hk, hin, Bool.false_eq_true, if_false, copyBytes]
  case copyOut =>
    subst hn
    subst ha
    simp only [exec, execCopy, hk, hout, if_true, hgood, Bool.false_eq_true, if_false, copyBytes]
  case copyFails => simp only [exec, execCopy, hk, hin, Bool.false_eq_true, if_false, stPayload]
  case fill => simp only [exec, execFill, hk, fillBytes]
  case stampDev => simp only [exec, execStamp, hk, payOut, hdev, if_true]
  case stampHost => simp only [exec, execStamp, hk, payOut, hhost, Bool.false_eq_true, if_false, if_true]
  case queryNone => simp only [exec, execQuery, hk, hnone, Option.filter_none, stNoJob]
  case query => simp only [exec, execQuery, hk, hj, Option.filter_some, hrun, if_true, payOut, hhost, Bool.false_eq_true, if_false]

/-! ## Rings, contexts and functions -/

/-- Settles O46. -/
theorem functionsRingsAndContexts : Obligations.FunctionsRingsAndContexts := by
  refine ⟨fun fn off c v s hc => ⟨fun hoff hen hlo hhi hvec => ?enable, fun hon hsize hhead => ?head, fun hbig => ?headBad, fun habort => ?abort⟩,
    fun w v s c hok hw hc hoff hfn hen => ?context, fun f s u hu => ⟨fun hf => ?flr, fun hf => ?flrZero⟩,
    fun f s => ⟨fun hf => ?masterOff, fun hf => ?masterOffZero⟩, fun f s => rfl, fun s => rfl, fun link s hone => ?hotReset, fun f v s hv => ?unmask⟩
  case enable =>
    have hno : ¬bits v 31 31 = 0 := by omega
    simp only [exec, execCqEnable, hc, cqCfgWrite, hoff, Bool.false_eq_true, if_false, hno, hlo, hhi, and_self, if_true, hvec, Nat.one_mul]
  case head =>
    simp only [exec, execCqHeadWrite, hc, cqHeadWrite, hon, not_le.mpr hsize, not_lt.mpr hhead, decide_false, Bool.not_true, Bool.or_self,
      Bool.false_eq_true, if_false]
  case headBad => simp only [exec, execCqHeadWrite, hc, cqHeadWrite, hbig, decide_true, Bool.or_true, Bool.true_or, if_true]
  case abort => simp only [exec, execHifWAbort, hc, habort, if_true]
  case context =>
    have hvf : isVf (bits v 15 8) = false := by
      unfold isVf
      simp only [Bool.and_eq_false_iff, decide_eq_false_iff_not]
      omega
    have hcode : (decide (bits v 15 8 < 66) || bits v 15 8 == 0xFF) = true := by
      simp only [Bool.or_eq_true, decide_eq_true_eq]
      omega
    have hadmin : mayAdmin w = true := by simp [mayAdmin, hw]
    have hsel : ¬HIF_CTX_OWN = HIF_CTX_SEL := by decide
    have hin : ¬(HIF_CTX_OWN = HIF_CTX_STAT ∨ HIF_CTX_OWN < HIF_CTX_SEL ∨ HIF_CTX_STAT < HIF_CTX_OWN) := by decide
    subst hc
    simp only [exec, execContextEnable, guardW_ok hok, hifCtxWrite, hsel, hin, hadmin, Bool.not_true, Bool.false_eq_true, if_false, if_true,
      ctxOwnWrite, hoff, hvf, Bool.false_and, hcode, hen]
  case flr =>
    subst hu
    simp only [exec, execFlr, flrFn, hf, if_false]
  case flrZero =>
    subst hu
    subst hf
    rfl
  case masterOff => simp only [exec, execBusMasterDisable, hf, if_false]
  case masterOffZero =>
    subst hf
    rfl
  case hotReset => simp only [exec, execLinkHotReset, hone, Bool.not_false, if_true, Bool.true_or]
  case unmask => simp only [exec, execVectorUnmask, hv, if_true]

end Sys2Proof.Proofs
end

section
/-!
PROOFS of the statements about the link ports, the frames and what is delivered to this device (spec/15_rope_fabric.md). Training to HELLO without
ALIGN is log entry 100, a FAILBACK with the ALT egress drained at once log entry 101; the queue of own frames and the inbox are log entry 107.
-/
namespace Sys2Proof.Proofs
open Sys2Proof Sys2Proof.Machine Sys2Proof.Laws

/-! ## Ports -/

/-- Settles O47. -/
theorem portsTrainAndFall : Obligations.PortsTrainAndFall := by
  refine ⟨fun p now s => ?detectTime, fun p lanes now s => ?trainedTime, fun p now s => ?timeoutTime, fun p now s => ?retryTime,
    fun p why now s => ?downTime, fun p now s => ?failbackTime, fun p n now s => ?nakTime, fun p now s hp hnow =>
    ⟨fun hst hpins => ?detect, fun hst hpins hsoon lanes hlanes => ?trained, fun hst hlate => ?timeout, fun hst hdue => ?retry,
      fun why hlocked hwhy => ?down, fun hfailed hup hdue => ?failback, fun hlocked => ?fec, fun n e he hlocked => ?nak⟩⟩
  case detectTime => simp only [exec, execLinkSignalDetect, advance_advance]
  case trainedTime => simp only [exec, execLinkTrained, advance_advance]
  case timeoutTime => simp only [exec, execLinkTrainTimeout, advance_advance]
  case retryTime => simp only [exec, execLinkFaultRetry, advance_advance]
  case downTime => simp only [exec, execLinkDown, advance_advance]
  case failbackTime => simp only [exec, execFailback, advance_advance]
  case nakTime => simp only [exec, execNak, advance_advance]
  all_goals have hadv := advance_of_reached hnow
  case detect => simp only [exec, execLinkSignalDetect, hadv, hp, hst, hpins, Bool.not_false, and_self, if_true]
  case trained =>
    simp only [exec, execLinkTrained, hadv, hp, hst, hpins, hsoon, hlanes, Bool.not_false, true_or, and_self, if_true]
  case timeout => simp only [exec, execLinkTrainTimeout, hadv, hp, hst, hlate, true_or, and_self, if_true]
  case retry => simp only [exec, execLinkFaultRetry, hadv, hp, hst, hdue, and_self, if_true]
  case down =>
    cases why with
    | replays => simp only [exec, execLinkDown, hadv, hp, hlocked, hwhy rfl, decide_true, and_self, if_true, linkFalls]
    | signal => simp only [exec, execLinkDown, hadv, hp, hlocked, and_self, if_true, linkFalls]
    | lock => simp only [exec, execLinkDown, hadv, hp, hlocked, and_self, if_true, linkFalls]
    | control => simp only [exec, execLinkDown, hadv, hp, hlocked, and_self, if_true, linkFalls]
  case failback => simp only [exec, execFailback, hadv, hp, hfailed, hup, hdue, and_self, if_true]
  case fec => simp only [exec, execFecUncorrectable, hp, hlocked, and_self, if_true]
  case nak => simp only [exec, execNak, hadv, he, hp, hlocked, and_self, if_true]

/-! ## Frames -/

/-- A frame whose type and channel disagree is counted. -/
theorem routeFrame_badType {s : State} {inp : Option Nat} {f : Frame} (htype : typeOk f = false) : routeFrame s inp f = bump s LNK_SR_BAD_CNT := by
  simp only [routeFrame, htype, Bool.not_false, if_true]

/-- A frame to route without TTL is counted. -/
theorem routeFrame_noTtl {s : State} {inp : Option Nat} {f : Frame} (htype : typeOk f = true) (hdst : f.dst ≠ 0xFFF ∨ f.sr = true) (httl : f.ttl = 0) :
    routeFrame s inp f = bump s LNK_TTL_CNT := by
  have hroute : ¬(f.dst = 0xFFF ∧ (!f.sr) = true) := by
    rintro ⟨h, h'⟩
    obtain hno | hsr := hdst
    · exact hno h
    · simp [hsr] at h'
  simp only [routeFrame, htype, Bool.not_true, Bool.false_eq_true, if_false, hroute, httl, if_true]

/-- A frame to an address without an entry has no route. -/
theorem routeFrame_noEntry {s : State} {inp : Option Nat} {f : Frame} (htype : typeOk f = true) (hdst : f.dst ≠ 0xFFF) (hfm : f.dst ≠ fmAddr)
    (hsr : f.sr = false) (httl : f.ttl ≠ 0) (hentry : entryV s f.dst = false) : routeFrame s inp f = irq (bump s LNK_NOROUTE_CNT) pgLnk 0 := by
  simp only [routeFrame, htype, Bool.not_true, Bool.false_eq_true, if_false, hdst, false_and, httl, hsr, hfm, hentry, Bool.not_false, Bool.true_or,
    if_true, noRoute]

/-- Settles O48. -/
theorem framesAreRoutedAndGreeted : Obligations.FramesAreRoutedAndGreeted := by
  refine ⟨fun p now s => ?sendTime, fun p f now s => ?helloTime, fun p now s => ?silentTime, fun x now s => ?routeTime, fun now s => ?beatTime,
    fun now s => ?irqTime, fun now s hnow => ⟨fun p f hp hlocked hdue hf => ?send, fun p f hp hf => ?hello, fun p t hp hpeer hrx hlate => ?silent,
      fun f r hq => ?own, fun p f hp => ?arrive, fun inp f => ⟨routeFrame_badType, routeFrame_noTtl, routeFrame_noEntry⟩, fun hwdt hdue => ?beat,
      fun w v slots hok hin => ⟨fun hoff => ?head, fun hon => ?headRelay⟩, fun hon hmoved hdue => ?irq⟩⟩
  case sendTime => simp only [exec, execHelloSend, advance_advance]
  case helloTime => simp only [exec, execHello, advance_advance]
  case silentTime => simp only [exec, execPeerSilent, advance_advance]
  case routeTime => simp only [exec, execFrameRoute, advance_advance]
  case beatTime => simp only [exec, execHeartbeat, advance_advance]
  case irqTime => simp only [exec, execRelayIrq, advance_advance]
  all_goals have hadv := advance_of_reached hnow
  case send =>
    subst hf
    obtain h | ⟨t, h, hle⟩ := hdue
    · simp only [exec, execHelloSend, hadv, h, hp, hlocked, and_self, if_true]
    · simp only [exec, execHelloSend, hadv, h, hle, hp, hlocked, decide_true, and_self, if_true]
  case hello => simp only [exec, execHello, hadv, hp, hf, and_self, if_true]
  case silent => simp only [exec, execPeerSilent, hadv, hp, hpeer, hrx, hlate, decide_true, and_self, if_true]
  case own => simp only [exec, execFrameRoute, hadv, hq]
  case arrive => simp only [exec, execFrameRoute, hadv, hp, if_true]
  case beat =>
    obtain h | ⟨t, h, hle⟩ := hdue
    · simp only [exec, execHeartbeat, hadv, h, hwdt, Bool.not_false, and_self, if_true]
    · simp only [exec, execHeartbeat, hadv, h, hle, hwdt, decide_true, Bool.not_false, and_self, if_true]
  case head =>
    simp only [exec, execRelayTxHeadWrite, guardW_ok hok, relayHead, not_le.mpr hin, if_false, hoff, Bool.false_eq_true]
  case headRelay => simp only [exec, execRelayTxHeadWrite, guardW_ok hok, relayHead, not_le.mpr hin, if_false, hon, if_true]
  case irq =>
    obtain h | ⟨t, h, hle⟩ := hdue
    · simp only [exec, execRelayIrq, hadv, h, hon, hmoved, and_self, if_true]
    · simp only [exec, execRelayIrq, hadv, h, hle, hon, hmoved, decide_true, and_self, if_true]

/-! ## Delivered frames -/

/-- Settles O49. -/
theorem deliveredFramesAreServed : Obligations.DeliveredFramesAreServed := by
  intro s
  refine ⟨fun f u t hf hread hwrite => ⟨fun r hr => ?answered, fun hr => ?bad⟩, fun p hp => ?malformed,
    fun f u c d hf hlen hc hd => ⟨fun hmgmt hvalid => ?cmd, fun hmgmt => ?cmdDenied⟩, fun f u hf => ⟨fun hin => ?write, fun hin => ?writeOutside⟩,
    fun f u n a hf hn ha hin hgood => ?read, fun now s => ?streamTime, fun now f u hnow hfree hf => ?stream⟩
  case answered =>
    simp only [exec, execReg, hf, hread, hwrite, or_self, and_false, if_false, hr]
  case bad => simp only [exec, execReg, hf, hread, hwrite, or_self, and_false, if_false, hr]
  case malformed => simp only [regRequest, hp, Bool.false_eq_true, if_false]
  case cmd =>
    subst hd
    subst hc
    simp only [exec, execCmd, hf, hlen, ne_eq, not_true_eq_false, if_false, hmgmt, Bool.not_true, Bool.false_eq_true, hvalid, if_true]
  case cmdDenied =>
    subst hc
    simp only [exec, execCmd, hf, hlen, ne_eq, not_true_eq_false, if_false, hmgmt, Bool.not_false, if_true]
  case write => simp only [exec, execBulkWrite, hf, hin, if_true]
  case writeOutside => simp only [exec, execBulkWrite, hf, hin, Bool.false_eq_true, if_false]
  case read =>
    subst ha
    subst hn
    simp only [exec, execBulkRead, hf, hin, hgood, Bool.not_true, Bool.false_eq_true, if_false]
  case streamTime => simp only [exec, execStream, advance_advance]
  case stream => simp only [exec, execStream, advance_of_reached hnow, hfree, Bool.false_eq_true, if_false, hf]

end Sys2Proof.Proofs
end

section
/-!
PROOFS of the statements about the recovery ladder, the watchdogs and the recovery commands (spec/16_hang_recovery.md R490 to R520).
-/
namespace Sys2Proof.Proofs
open Sys2Proof Sys2Proof.Machine Sys2Proof.Laws

/-! ## The steps of the ladder -/

/-- The trigger at the front of the queue starts a step of its level. -/
theorem startFront_eq {s : State} {t : Trigger} {r : List Trigger} {k : Nat} (hcur : s.ladder.cur = none) (hq : s.triggers = t :: r)
    (hhalt : s.ladder.halted = false) (hstep : t.step = k) : startFront s k = runStep (showQueue { s with triggers := r }) t := by
  simp only [startFront, hcur, hq, hhalt, hstep, decide_true, Bool.false_and, Bool.not_false, Bool.and_self, if_true]

/-- A step in its dump phase keeps its dump and resets its units. -/
theorem domainStep_dumped {s : State} {t : Trigger} {k : Nat} {d : DumpIn} (hcur : s.ladder.cur = some t) (hstep : t.step = k)
    (hphase : phase s = phDump) (hmay : dumpMay s d = true) : domainStep s k (.dumped d) = resetUnits (dumpStep s t d) t := by
  simp only [domainStep, hcur, hstep, hphase, hmay, and_self, if_true]

/-- A step in its reset phase ends when its units' requests are answered and nothing is to replay. -/
theorem domainStep_finish {s : State} {t : Trigger} {k : Nat} (hcur : s.ladder.cur = some t) (hstep : t.step = k)
    (hphase : phase s = phReset) (hans : answered s t = true) (hrep : replays s t = false) : domainStep s k .finish = doneStep s t := by
  simp only [domainStep, hcur, hstep, hphase, hans, hrep, and_self, if_true, Bool.false_eq_true, if_false]

/-- Settles O50. -/
theorem recoveryStepsRunInOrder : Obligations.RecoveryStepsRunInOrder := by
  refine ⟨fun x => ⟨fun now s => ?e1Time, fun now s => ?e2Time, fun now s => ?e3Time, fun now s => ?e4Time, fun now s => ?e5Time⟩,
    fun now s => ?timeoutTime, fun now s => ?holdTime,
    fun now s t r hnow hcur hq hhalt u hu => ⟨fun hstep => ?e1, fun hstep => ?e2, fun hstep => ?e3, fun hstep => ?e4, fun hstep => ?e5⟩,
    fun now s t d hnow hcur => ⟨fun hstep => ?e1Done,
      fun hphase hmay => ⟨fun hstep => ?e2Dumped, fun hstep => ?e3Dumped, fun hstep => ?e4Dumped⟩,
      fun hphase hans hrep => ⟨fun hstep => ?e2Done, fun hstep => ?e3Done, fun hstep => ?e4Done⟩,
      fun m hmax hmany => ?repeated, fun hstep htrip hcyc hdue v u hlog => ?cycle, fun hstep hphase hlate => ?timeout,
      fun f hstep hcyc hdue => ?hold⟩⟩
  case e1Time => simp only [exec, execE1Step, advance_advance]
  case e2Time => simp only [exec, execE2Step, advance_advance]
  case e3Time => simp only [exec, execE3Step, advance_advance]
  case e4Time => simp only [exec, execE4Step, advance_advance]
  case e5Time => simp only [exec, execE5Step, advance_advance]
  case timeoutTime => simp only [exec, execStepTimeout, advance_advance]
  case holdTime => simp only [exec, execPwrcycHoldExpiry, advance_advance]
  all_goals have hadv := advance_of_reached hnow
  case e1 => simp only [exec, execE1Step, hadv, startFront_eq hcur hq hhalt hstep, hu]
  case e2 => simp only [exec, execE2Step, hadv, domainStep, startFront_eq hcur hq hhalt hstep, hu]
  case e3 => simp only [exec, execE3Step, hadv, domainStep, startFront_eq hcur hq hhalt hstep, hu]
  case e4 => simp only [exec, execE4Step, hadv, domainStep, startFront_eq hcur hq hhalt hstep, hu]
  case e5 => simp only [exec, execE5Step, hadv, startFront_eq hcur hq hhalt hstep, hu]
  case e1Done => simp only [exec, execE1Step, hadv, hcur, hstep, if_true]
  case e2Dumped => simp only [exec, execE2Step, hadv, domainStep_dumped hcur hstep hphase hmay]
  case e3Dumped => simp only [exec, execE3Step, hadv, domainStep_dumped hcur hstep hphase hmay]
  case e4Dumped => simp only [exec, execE4Step, hadv, domainStep_dumped hcur hstep hphase hmay]
  case e2Done => simp only [exec, execE2Step, hadv, domainStep_finish hcur hstep hphase hans hrep]
  case e3Done => simp only [exec, execE3Step, hadv, domainStep_finish hcur hstep hphase hans hrep]
  case e4Done => simp only [exec, execE4Step, hadv, domainStep_finish hcur hstep hphase hans hrep]
  case repeated => simp only [doneStep, hmax, hmany, if_true]
  case cycle =>
    simp only [exec, execE5Step, hadv, hcur, hstep, htrip, hcyc, hdue, Bool.not_false, Option.isNone_none, and_self, if_true, hlog]
  case timeout => simp only [exec, execStepTimeout, hadv, hcur, hstep, hphase, hlate, and_self, if_true]
  case hold =>
    have hcur' : (updPwr s (fun p => { p with cyc := none })).ladder.cur = some t := hcur
    simp only [exec, execPwrcycHoldExpiry, hadv, hcyc, not_lt.mpr hdue, if_false]
    simp only [hcur', hstep, if_true]

/-! ## Watchdogs and errors -/

/-- Settles O51. -/
theorem watchdogsAndErrorsTriggerTheLadder : Obligations.WatchdogsAndErrorsTriggerTheLadder := by
  refine ⟨fun n s herr hcmd => ?unit, fun now s => ?beatTime, fun v now s => ?wardenTime, fun h now s => ?helperTime, fun u now s => ?rejoinTime,
    fun now s hnow hwdt => ⟨fun hdue => ?beat, fun hup hdue v u hu => ⟨fun hcycle => ?warden, fun hkeep => ?wardenOnly⟩⟩,
    fun h now s hnow => ⟨fun hone => ?helper, fun p hlo hhi hp => ?controller⟩,
    fun u now s v w rs good hnow hrs hask hready hgood hsome hv hw hidle => ?rejoin⟩
  case unit => simp only [exec, execUnitError, herr, hcmd, and_self, if_true]
  case beatTime => simp only [exec, execRecHeartbeat, advance_advance]
  case wardenTime => simp only [exec, execWardenWdt, advance_advance]
  case helperTime => simp only [exec, execHelperWdt, advance_advance]
  case rejoinTime => simp only [exec, execUnitRejoin, advance_advance]
  all_goals have hadv := advance_of_reached hnow
  case beat => simp only [exec, execRecHeartbeat, hadv, hwdt, not_lt.mpr hdue, decide_false, Bool.or_self, Bool.false_eq_true, if_false]
  case warden =>
    subst hu
    simp only [exec, execWardenWdt, hadv, hwdt, hup, not_lt.mpr hdue, decide_false, Bool.or_self, Bool.false_eq_true, if_false, hcycle, if_true]
  case wardenOnly =>
    subst hu
    simp only [exec, execWardenWdt, hadv, hwdt, hup, not_lt.mpr hdue, decide_false, Bool.or_self, Bool.false_eq_true, if_false, hkeep]
  case helper =>
    obtain h9 | ⟨hlo, hhi, hnone⟩ := hone
    · have hlow : ¬16 ≤ h := by omega
      simp only [exec, execHelperWdt, hadv, h9, true_or, if_true, hlow, if_false]
    · simp only [exec, execHelperWdt, hadv, hlo, hhi, and_self, or_true, if_true, hnone]
  case controller => simp only [exec, execHelperWdt, hadv, hlo, hhi, and_self, or_true, if_true, hp]
  case rejoin =>
    have hgo : (rs.isEmpty || unitState s (unitPage u) != stReady) = false := by
      simp [hask, hready]
    have hgood' : good.isEmpty = false := by simp [hsome]
    subst hw
    subst hv
    simp only [exec, execUnitRejoin, hadv, ← hrs, ← hgood, hgo, Bool.false_eq_true, if_false, hgood']
    rw [hidle]

/-! ## Commands -/

/-- Settles O52. -/
theorem recoveryCommandsAct : Obligations.RecoveryCommandsAct := by
  intro c q s k
  refine ⟨fun hk hnew hcur => ⟨fun hfits => ?resetBad, fun hfits hother => ?reset⟩,
    fun hk => ⟨fun hnone ok => ?copyNone, fun hheld hgood hhost => ?copy⟩, fun hk => ⟨fun hnone => ?releaseNone, fun hheld => ?release⟩,
    fun hk hnew hunit hok mine hmine hany => ?rejoin⟩
  case resetBad =>
    simp only [exec, execReset, hk, hnew, hcur, Bool.or_self, Bool.false_eq_true, if_false, hfits, Bool.not_false, Bool.true_or, if_true, stReserved]
  case reset =>
    have hgo : (!stepFits (cmdTopt k % 8) (cmdArg k) || (cmdTopt k % 8 == 1 && cmdArg k == tgt tgCtx c)) = false := by
      obtain h | h := hother <;> simp [hfits, h]
    simp only [exec, execReset, hk, hnew, hcur, Bool.or_self, Bool.false_eq_true, if_false, hgo]
  case copyNone => simp only [exec, execDumpCopy, hk, hnone, Bool.not_false, if_true]
  case copy =>
    simp only [exec, execDumpCopy, hk, hheld, hgood, Bool.not_true, Bool.false_eq_true, if_false, payOut, hhost, if_true]
  case releaseNone => simp only [exec, execDumpRelease, hk, hnone, Bool.not_false, if_true]
  case release => simp only [exec, execDumpRelease, hk, hheld, Bool.not_true, Bool.false_eq_true, if_false]
  case rejoin =>
    obtain rfl := funext hmine
    simp only [exec, execRejoin, hk, hnew, hunit, hok, hany, Bool.not_true, Bool.or_self, Bool.false_eq_true, if_false]

end Sys2Proof.Proofs
end

section
/-!
PROOFS of the statements about starts, the update agent and the update commands (spec/17_boot_update.md). A warm boot that waits for stores waiting
to be retried is log entry 126, the 100 µs of POWER_ON_BOOT log entry 127; that UPD_ACTIVATE stores no settings bank is log entry 122.
-/
namespace Sys2Proof.Proofs
open Sys2Proof Sys2Proof.Machine Sys2Proof.Laws

/-! ## Starts and the update agent -/

/-- A trial of 600 healthy seconds is confirmed: its record is stored, or kept to be stored again (R543). -/
theorem exec_healthConfirm {v now : Nat} {s : State} (hnow : Reached s now) (htrial : s.boot.trial = true) (hup : s.boot.up = true)
    (hhealth : 600 ≤ health s) (hhost : flag s UPD_CFG 0 = false ∨ s.boot.hostOk = true) (hretry : retrying s 1 = false) :
    exec (.healthConfirm v now) s = .next (if (bcrStore s v (confirmBcr s)).2 = true then confirmed (bcrStore s v (confirmBcr s)).1
      else addRetry (bcrStore s v (confirmBcr s)).1 (.bcr (confirmBcr s) 1)) := by
  have hgo : (s.boot.trial && s.boot.up && decide (600 ≤ health s) && (!flag s UPD_CFG 0 || s.boot.hostOk) && !retrying s 1) = true := by
    obtain h | h := hhost <;> simp [htrial, hup, hhealth, hretry, h]
  simp only [exec, execHealthConfirm, advance_of_reached hnow, hgo, if_true]
  cases bcrStore s v (confirmBcr s) with
  | mk t ok => cases ok <;> rfl

/-- Why the update agent drops a fragment (R538). -/
def FragmentBad (u : State) (p : List Byte) : Prop :=
  inBivouac u = true ∨ p.length ≠ 1040 ∨ 63 < fieldN p 6 1 ∨ (!dOpen u) = true ∨ fieldN p 0 4 ≠ dXfer u

/-- A fragment of the open delivery is not dropped. -/
theorem not_fragmentBad {u : State} {p : List Byte} (hbiv : inBivouac u = false) (hlen : p.length = 1040) (hfrag : fieldN p 6 1 < 64)
    (hopen : dOpen u = true) (hxfer : fieldN p 0 4 = dXfer u) : ¬FragmentBad u p := by
  simp only [FragmentBad, hbiv, hlen, hopen, hxfer, Bool.not_true, Bool.false_eq_true, ne_eq, not_true_eq_false, false_or, or_false]
  omega

/-- Settles O53. -/
theorem startsAndTheUpdateAgentAct : Obligations.StartsAndTheUpdateAgentAct := by
  refine ⟨fun corrected vr link seed vs now s => ?bootTime, fun vr vs now s => ?warmTime, fun v now s => ?healthTime,
    fun v ok => ⟨fun now s => ?chunkTime, fun now s => ?retryTime⟩,
    fun now corrected vr link seed good vs s hnow hft hgood hboot hnext hup hrescue hpow hwarm htrip => ?boot,
    fun now vr r vs s hnow hwarm hcmd hretry hpow htrip => ?warm,
    fun v now s hnow htrial hup hhealth hhost hretry => ⟨fun hstored => ?confirmed, fun hrefused => ?confirmLater⟩,
    fun v now ok s u f hnow hf => ⟨fun hbad => ?dropped, fun hbiv hlen hfrag hopen hxfer x hx => ⟨fun hpart => ?fragment, fun bs hwhole => ?whole⟩⟩,
    fun v now ok s u r rest hnow hr hu => ⟨fun hlate => ?abandoned, fun hsoon hdone => ?retried, fun hsoon hnot => ?again⟩,
    fun w v s u hok hgo hinc hu hflag => ?flash⟩
  case bootTime => simp only [exec, execPowerOnBoot, advance_advance]
  case warmTime => simp only [exec, execWarmBoot, advance_advance]
  case healthTime => simp only [exec, execHealthConfirm, advance_advance]
  case chunkTime => simp only [exec, execChunk, advance_advance]
  case retryTime => simp only [exec, execStoreRetry, advance_advance]
  case boot =>
    have hseed : seed.filter (fun _ => decide (corrected ≤ 1400)) = good := by
      subst hgood
      by_cases h : corrected ≤ 1400
      · cases seed <;> simp [h]
      · simp [h]
    simp only [exec, execPowerOnBoot, advance_of_reached hnow, hft, hboot, hnext, hup, hrescue, hpow, hwarm, htrip, Option.isNone_none, decide_true,
      Bool.not_false, Bool.and_self, if_true, hseed]
    rfl
  case warm =>
    simp only [exec, execWarmBoot, advance_of_reached hnow, hwarm, hcmd, hretry, hpow, htrip, List.isEmpty_nil, Bool.not_true, Bool.or_self,
      Bool.false_eq_true, if_false]
    by_cases h : r = 3 ∧ s.boot.up = true
    · rw [if_pos h, if_pos (show r = bootFallbackReq ∧ s.boot.up = true from h), h.1]
      rfl
    · rw [if_neg h, if_neg (show ¬(r = bootFallbackReq ∧ s.boot.up = true) from h)]
  case confirmed => rw [exec_healthConfirm hnow htrial hup hhealth hhost hretry, if_pos hstored]
  case confirmLater => rw [exec_healthConfirm hnow htrial hup hhealth hhost hretry, if_neg (by simp [hrefused])]
  case dropped =>
    have hdrop : FragmentBad u f.payload := by
      obtain h | h | h | h := hbad
      · exact .inl h
      · exact .inr (.inl h)
      · exact .inr (.inr (.inr (.inl (by simp [h]))))
      · exact .inr (.inr (.inr (.inr h)))
    unfold FragmentBad at hdrop
    simp only [exec, execChunk, advance_of_reached hnow, hf, hdrop, if_true]
  case fragment =>
    have htake := not_fragmentBad hbiv hlen hfrag hopen hxfer
    unfold FragmentBad at htake
    simp only [exec, execChunk, advance_of_reached hnow, hf, htake, if_false, ← hx, hpart]
  case whole =>
    have htake := not_fragmentBad hbiv hlen hfrag hopen hxfer
    unfold FragmentBad at htake
    simp only [exec, execChunk, advance_of_reached hnow, hf, htake, if_false, ← hx, hwhole]
  case abandoned =>
    subst hu
    simp only [exec, execStoreRetry, advance_of_reached hnow, hr, hlate, if_true]
  case retried =>
    subst hu
    simp only [exec, execStoreRetry, advance_of_reached hnow, hr, not_lt.mpr hsoon, if_false, hdone, if_true]
  case again =>
    subst hu
    simp only [exec, execStoreRetry, advance_of_reached hnow, hr, not_lt.mpr hsoon, if_false, hnot, Bool.false_eq_true]
  case flash =>
    have hread : ¬bits v 0 0 = 0 := by omega
    simp only [exec, execFlashReadGo, guardW_ok hok, flCtrlWrite, hinc, ← hu, hread, if_false, hflag, Bool.false_eq_true]

end Sys2Proof.Proofs
end

section
/-!
PROOFS of the statements about the update commands (spec/17_boot_update.md) and about quotes and the debug grant (spec/18_security.md). That
UPD_ACTIVATE stores no settings bank is log entry 122; that a LENGTH of 0 stands while BUSY is log entry 120.
-/
namespace Sys2Proof.Proofs
open Sys2Proof Sys2Proof.Machine Sys2Proof.Laws

/-! ## Update commands -/

section Begin
variable {s : State} {topt v : Nat} {bs : List Byte}

/-- A descriptor of a delivery that is well formed. -/
def DeliveryOk (bs : List Byte) : Prop := fieldN bs 0 4 ≠ 0 ∧ fieldN bs 10 6 = 0 ∧ 3 ≤ fieldN bs 8 2 ∧ fieldN bs 8 2 ≤ 768

/-- A well-formed descriptor has no reserved encoding. -/
theorem DeliveryOk.not_reserved (h : DeliveryOk bs) : ¬(fieldN bs 0 4 = 0 ∨ fieldN bs 10 6 ≠ 0 ∨ fieldN bs 8 2 < 3 ∨ 768 < fieldN bs 8 2) := by
  obtain ⟨hxfer, hres, hlo, hhi⟩ := h
  omega

/-- No delivery begins during a trial. -/
theorem updBegin_trial (hok : DeliveryOk bs) (htrial : anyTrial s.boot.bcr = true) : updBegin s topt bs v = (s, stUpdTrial, 0) := by
  simp only [updBegin, hok.not_reserved, if_false, htrial, if_true]

/-- The descriptor of the open delivery answers what is stored. -/
theorem updBegin_again (hok : DeliveryOk bs) (htrial : anyTrial s.boot.bcr = false) (hopen : dOpen s = true) (hxfer : dXfer s = fieldN bs 0 4)
    (hver : dVer s = fieldN bs 4 4) (hn : dChunks s = fieldN bs 8 2) : updBegin s topt bs v =
      (if (s.boot.hdrOk = true ∧ s.boot.complete = false) ∧ dStored s = fieldN bs 8 2 then checkSlot s v else s, okSt, dStored s) := by
  simp only [updBegin, hok.not_reserved, if_false, htrial, Bool.false_eq_true, hopen, hxfer, hver, hn, beq_self_eq_true, Bool.and_self, if_true,
    Bool.and_eq_true, Bool.not_eq_true', decide_eq_true_eq]

/-- Another delivery is refused over an incomplete one without leave. -/
theorem updBegin_busy (hok : DeliveryOk bs) (htrial : anyTrial s.boot.bcr = false) (hopen : dOpen s = true) (hxfer : dXfer s ≠ fieldN bs 0 4)
    (hpart : s.boot.complete = false) (hleave : nbit topt 0 = false) : updBegin s topt bs v = (s, stUpdBusy, 0) := by
  have hother : (dXfer s == fieldN bs 0 4) = false := by simp [hxfer]
  simp only [updBegin, hok.not_reserved, if_false, htrial, Bool.false_eq_true, hother, hopen, hpart, hleave, Bool.not_false, Bool.and_self,
    Bool.and_false, Bool.false_and, if_true]

/-- A new delivery stores its record, its slot partial. -/
theorem updBegin_new {t : State} (hok : DeliveryOk bs) (htrial : anyTrial s.boot.bcr = false) (hopen : dOpen s = false)
    (hfree : s.boot.rescue = false ∨ rescueFree s.boot.bcr (targetSlot s) = true)
    (hstore : bcrStoreWith s v [.erase recAddr, .prog recAddr (recHead (fieldN bs 0 4) (fieldN bs 4 4) (fieldN bs 8 2) (targetSlot s))]
      (setSlotSt s.boot.bcr (targetSlot s) 1) = (t, true)) :
    updBegin s topt bs v = (updBoot t (fun b => { b with hdrOk := false, complete := false, bufs := [] }), okSt, 0) := by
  have hslot : (s.boot.rescue && !rescueFree s.boot.bcr (targetSlot s)) = false := by
    obtain h | h := hfree <;> simp [h]
  have hstore : bcrStoreWith s v [.erase recAddr, .prog recAddr (recHead (fieldN bs 0 4) (fieldN bs 4 4) (fieldN bs 8 2) (targetSlot s))]
      (setSlotSt s.boot.bcr (targetSlot s) slPartial) = (t, true) := hstore
  simp only [updBegin, hok.not_reserved, if_false, htrial, Bool.false_eq_true, hopen, Bool.false_and, hslot, hstore]

end Begin

/-- Settles O54. -/
theorem updateCommandsKeepTheBootRecord : Obligations.UpdateCommandsKeepTheBootRecord := by
  refine ⟨fun c q v ok s k host => ⟨fun hk => ⟨fun st hpay => ?beginFails, fun bs hpay h0 h1 h2 h3 => ?begins⟩,
      fun hk => ⟨fun st hpay => ?chunkFails, fun bs hpay => ?chunk⟩, fun hk => ⟨fun hother => ?abortBad, fun hopen hxfer hslot hclosed => ?abort⟩,
      fun hk harg hother hready hstored hwarm => ?activate, fun hk => ⟨fun htrial => ?confirmNone, fun htrial hsoon => ?confirmSoon, fun htrial hlate => ?confirm⟩,
      fun hk htrial hstored => ?fallback, fun hk bs hpay => ⟨fun hbad => ?configBad, fun g hg hnew hfloor t hstored => ?config⟩,
      fun hk bs hpay hshort => ?settingsBad, fun hk bs hpay hlen hn hver hbank hown t hstored => ?settings, fun hk => ?restart⟩,
    fun tag body r s t hr => ?svcReg, fun tag v ok desc pay s t k st res hk hlen hres hbiv hpay hrun => ?svcCmd⟩
  case beginFails => simp only [exec, execUpdBegin, hk, hpay]
  case begins =>
    have hdel : DeliveryOk bs := ⟨h0, h1, h2, h3⟩
    have hexec : exec (.updBegin c q host v) s = .next (updEnd c q (updBegin s (cmdTopt k) bs v)) := by simp only [exec, execUpdBegin, hk, hpay]
    rw [hexec]
    refine ⟨fun htrial hrescue => ?trial, fun htrial hopen => ⟨fun hxfer hver hn => ?again, fun hxfer hpart hleave => ?busy⟩,
      fun htrial hopen hfree t hstore => ?new⟩
    case trial => rw [updBegin_trial hdel htrial]; rfl
    case again => rw [updBegin_again hdel htrial hopen hxfer hver hn]; rfl
    case busy => rw [updBegin_busy hdel htrial hopen hxfer hpart hleave]; rfl
    case new => rw [updBegin_new hdel htrial hopen hfree hstore]; rfl
  case chunkFails => simp only [exec, execUpdChunk, hk, hpay]
  case chunk => simp only [exec, execUpdChunk, hk, hpay, updEnd, updChunk]
  case abortBad =>
    have hgo : (!dOpen s || dXfer s != cmdArg k || !(slotSt s.boot.bcr (dSlot s) == slPartial || slotSt s.boot.bcr (dSlot s) == slReady)) = true := by
      obtain h | h := hother <;> simp [h]
    simp only [exec, execUpdAbort, hk, updEnd, updAbort, hgo, if_true, stUpdState]
  case abort =>
    have hgo : (!dOpen s || dXfer s != cmdArg k || !(slotSt s.boot.bcr (dSlot s) == slPartial || slotSt s.boot.bcr (dSlot s) == slReady)) = false := by
      obtain h | h := hslot <;> simp [h, hopen, hxfer, slPartial, slReady]
    cases hc : closeDelivery s v with
    | mk t b =>
      obtain rfl : b = true := by simpa only [hc] using hclosed
      simp only [exec, execUpdAbort, hk, updEnd, updAbort, hgo, Bool.false_eq_true, if_false, hc]
  case activate =>
    have harg : ¬1 < cmdArg k := by omega
    cases hb : bcrStore s v (activateBcr s.boot.bcr (cmdArg k)) with
    | mk t b =>
      obtain rfl : b = true := by simpa only [hb] using hstored
      simp only [exec, execUpdActivate, hk, updEnd, updActivate, harg, if_false, slTrial, hother, hready, slReady, true_or, if_true, hb, hwarm,
        Bool.false_eq_true]
  case confirmNone => simp only [exec, execUpdConfirm, hk, updEnd, updConfirm, htrial, Bool.not_false, if_true, stUpdState]
  case confirmSoon =>
    simp only [exec, execUpdConfirm, hk, updEnd, updConfirm, htrial, Bool.not_true, Bool.false_eq_true, if_false, hsoon, if_true, stUpdNotHealthy]
  case confirm =>
    simp only [exec, execUpdConfirm, hk, updEnd, updConfirm, htrial, Bool.not_true, Bool.false_eq_true, if_false, not_lt.mpr hlate, updBoot]
  case fallback =>
    cases hb : bcrStore s v (fallbackBcr s) with
    | mk t b =>
      obtain rfl : b = true := by simpa only [hb] using hstored
      simp only [exec, execUpdFallback, hk, updEnd, updFallback, htrial, Bool.not_true, Bool.false_eq_true, if_false, hb]
  case configBad => simp only [exec, execUpdConfig, hk, hpay, updEnd, updConfig, recSize, hbad, stConfig]
  case config =>
    have hgo : ¬(g.seq ≤ s.sec.cfg.seq ∨ g.floor < s.sec.cfg.floor) := by omega
    simp only [exec, execUpdConfig, hk, hpay, updEnd, updConfig, recSize, hg, hgo, if_false, hstored]
  case settingsBad => simp only [exec, execSettingsSave, hk, hpay, updEnd, settingsSave, hshort, true_or, if_true, stSettings]
  case settings =>
    have hgo : ¬(bs.length < 128 ∨ 1048576 < bs.length ∨ fieldN bs 4 2 ≠ s.boot.setVer ∨ maxEntries < fieldN bs 8 4
        ∨ bs.length ≠ 128 + 8 * fieldN bs 8 4 ∨ saveBank s = s.boot.bcr.orig) := by
      unfold maxEntries
      omega
    simp only [exec, execSettingsSave, hk, hpay, updEnd, settingsSave, hgo, if_false, hown, decide_true, if_true, hstored]
  case restart => simp only [exec, execRestart, hk, updEnd, restart, updBoot]
  case svcReg => simp only [exec, execSvcReg, hr]
  case svcCmd =>
    subst hk
    have hempty : pay.isEmpty = false := by simp [hpay]
    have hbad : (decide (desc.length ≠ 64) || svcReserved { seq := at0 (wordsOf 16 desc) 14, words := wordsOf 16 desc } pay) = false := by
      simp [hlen, hres]
    simp only [exec, execSvcCmd, hbad, Bool.false_eq_true, if_false, hbiv, hempty, Bool.and_false, hrun]

/-! ## Quotes -/

/-- What a read of the high word of the quote's window answers (R572). -/
theorem blockRead_quoteHigh (s : State) (w : Who) : blockRead s w (SEC_Q_DATA_LO 1) =
    answer (quoteNext s) (ofLe ((s.sec.quote.drop (rdN s SEC_Q_ADDR + 4)).take 4)) := rfl

/-- What the verification of a token leaves, from the state that has taken it (R569). -/
def tokenResult (u : State) (bs : List Byte) : State :=
  if tokenOk u bs && !blocked u then
    let g := newChallenge (irq (setFld (setFlag (setFlag
      (measureObj { u with sec := { u.sec with until_ := u.ft + fieldN bs 56 4 * 1000000000 } } 0x0006 (Config.shake256 bs 64) [])
      SEC_STATUS 2 true) SEC_STATUS 1 true) SEC_DBG_STAT 3 0 (fieldN bs 52 4)) pgSec 1)
    if g.sec.revoked = some g.ft then endGrant g else g
  else irq (bump (recErr { u with sec := { u.sec with refusals := min 8 (u.sec.refusals + 1) } } pgSec 0x0102 0) SEC_DBG_FAIL_CNT) pgSec 3

/-- TOKEN_VERIFIED takes the token that waits. -/
theorem exec_tokenVerified {now : Nat} {s : State} {bs : List Byte} (hnow : Reached s now) (htoken : s.sec.token = some bs) :
    exec (.tokenVerified now) s = .next (tokenResult { s with sec := { s.sec with token := none } } bs) := by
  simp only [exec, execTokenVerified, advance_of_reached hnow, htoken, tokenResult]
  split <;> rfl

/-- Settles O55. -/
theorem quotesAndDebugGrants : Obligations.QuotesAndDebugGrants := by
  refine ⟨fun w v s hok => ⟨fun hbusy => ?busy, fun hidle hgo u hu => ⟨fun hseed => ?noIdentity, fun hseed => ?quote⟩⟩,
    fun now s => ?quoteTime, fun now s => ?tokenTime, fun now s => ?expiryTime, fun now s body seed q hnow hbody hseed hq => ?done,
    fun w s hok => ⟨fun hinc => ?read, fun hinc => ?readInc⟩, fun bs s => ⟨fun hbusy => ?unlockBusy, fun hfree hfew => ?unlock⟩,
    fun now s u bs hnow htoken hu => ⟨fun hok hfew g hg => ?granted, fun hbad => ?refused⟩, fun w v s hok hend hon => ?revoke,
    fun now s hnow => ⟨fun hon hover => ?expired, fun hleft => ?notExpired⟩⟩
  case quoteTime => simp only [exec, execQuoteDone, advance_advance]
  case tokenTime => simp only [exec, execTokenVerified, advance_advance]
  case expiryTime => simp only [exec, execDebugExpiry, advance_advance]
  case busy =>
    have hbusy' : quoteBusy s = true := by simp [quoteBusy, qBusy, hbusy]
    simp only [exec, execQuoteGo, guardW_ok hok, quoteCtrl, hbusy', if_true, wErr]
    rfl
  case noIdentity =>
    have hidle' : quoteBusy s = false := by simp [quoteBusy, qBusy, hidle]
    have hgo' : ¬bits v 0 0 = 0 := by omega
    simp only [exec, execQuoteGo, guardW_ok hok, quoteCtrl, hidle', Bool.false_eq_true, if_false, ← hu, hgo', hseed, Option.isNone_none, if_true, wErr]
    rfl
  case quote =>
    have hidle' : quoteBusy s = false := by simp [quoteBusy, qBusy, hidle]
    have hgo' : ¬bits v 0 0 = 0 := by omega
    have hseed' : u.sec.seed.isNone = false := by simpa using hseed
    simp only [exec, execQuoteGo, guardW_ok hok, quoteCtrl, hidle', Bool.false_eq_true, if_false, ← hu, hgo', hseed']
    rfl
  case done =>
    subst hq
    simp only [exec, execQuoteDone, advance_of_reached hnow, hbody, hseed]
    rfl
  case read =>
    simp only [exec, execSecQDataRead, busRead_block hok (by decide) (by decide) (by decide), blockRead_quoteHigh, quoteNext, hinc,
      Bool.false_eq_true, if_false, answer]
  case readInc =>
    simp only [exec, execSecQDataRead, busRead_block hok (by decide) (by decide) (by decide), blockRead_quoteHigh, quoteNext, hinc, if_true, answer]
  case unlockBusy =>
    have hgo : ((setIr s irUnlock).sec.token.isSome || blocked (setIr s irUnlock)) = true := by
      obtain h | h := hbusy <;> simp [setIr, blocked, h]
    simp only [exec, execDbgUnlock, hgo, if_true]
    rfl
  case unlock =>
    have hgo : ((setIr s irUnlock).sec.token.isSome || blocked (setIr s irUnlock)) = false := by
      simp [setIr, blocked, hfree, not_le.mpr hfew]
    simp only [exec, execDbgUnlock, hgo, Bool.false_eq_true, if_false]
    rfl
  case granted =>
    have hgo : (tokenOk u bs && !blocked u) = true := by simp [blocked, hok, hfew]
    rw [exec_tokenVerified hnow htoken, ← hu, tokenResult, if_pos hgo]
    subst hg
    rfl
  case refused =>
    have hgo : ¬(tokenOk u bs && !blocked u) = true := by
      obtain h | h := hbad <;> simp [blocked, h]
    rw [exec_tokenVerified hnow htoken, ← hu, tokenResult, if_neg hgo]
    rfl
  case revoke =>
    have hgrant : flag { s with sec := { s.sec with revoked := some s.ft } } SEC_STATUS 2 = true := hon
    simp only [exec, execRevoke, guardW_ok hok, dbgCtrl, hend, if_true, endGrant, hgrant]
    rfl
  case expired => simp only [exec, execDebugExpiry, advance_of_reached hnow, hon, hover, decide_true, Bool.and_self, if_true, endGrant]; rfl
  case notExpired => simp only [exec, execDebugExpiry, advance_of_reached hnow, not_le.mpr hleft, decide_false, Bool.and_false, Bool.false_eq_true, if_false]

end Sys2Proof.Proofs
end
